-- ==== Sys2Proof/Word.lean ====
section
/-! DEFINITION. The word types of the SW4 and the plain containers the model is written with. -/

namespace Sys2Proof

/-- One byte of memory or of a structure. -/
abbrev Byte := BitVec 8
/-- A 32-bit register, syllable or element. -/
abbrev Word := BitVec 32
/-- A 64-bit register, counter or structure field. -/
abbrev DWord := BitVec 64

/-- A sparse table: entries in rising order of their numeric key. A table is plain data. -/
abbrev Tab (α : Type) := List (Nat × α)

/-- Little-endian value of a list of bytes (R6). -/
def leNat : List Byte → Nat
  | [] => 0
  | b :: bs => b.toNat + 256 * leNat bs

/-- Big-endian (network order) value of a list of bytes (R6). -/
def beNat (bs : List Byte) : Nat := leNat bs.reverse

/-- The `n` low bytes of a number, least significant first (R6). -/
def leBytes : Nat → Nat → List Byte
  | 0, _ => []
  | n + 1, v => BitVec.ofNat 8 v :: leBytes n (v / 256)

/-- The `n` low bytes of a number, most significant first. -/
def beBytes (n v : Nat) : List Byte := (leBytes n v).reverse

/-- Bits `[hi:lo]` of a number (R5). -/
def bitsOf (hi lo v : Nat) : Nat := v / 2 ^ lo % 2 ^ (hi + 1 - lo)

/-- Bit `[n]` of a number (R5). -/
def bitOf (n v : Nat) : Bool := v / 2 ^ n % 2 == 1

end Sys2Proof
end

