-- ==== Sys2Proof/Syntax/Types.lean ====
section
/-! DEFINITION. The operands of the commands: requests, structures and messages as the outside hands them to the part. -/

namespace Sys2Proof

/-- A mailbox of a function: the normal one or the urgent one (R453). -/
structure MbId where
  func : Nat
  urgent : Bool
  deriving DecidableEq, Repr

/-- Which mailbox's request a mailbox row serves. Where the spec gives the opcode's payload no byte layout (log 10), the row tells
whether a reserved field of it is non-zero (R8) and whether LENGTH is another than the payload's (R455). -/
structure Call where
  func : Nat
  urgent : Bool
  rsvdSet : Bool
  wrongLen : Bool := false
  deriving DecidableEq, Repr

/-- Who accesses a register block: a host through a function, or a firmware processor (R526, R531). -/
inductive Agent where
  | host (func : Nat)
  | proc (p : Nat)
  deriving DecidableEq, Repr

/-- A byte the host stored in its own memory before it sent a command (address, value). -/
abbrev HostStore := Nat × Byte

/-- A write access to a BAR of a function, or to the register window of a firmware processor. -/
structure RegWrite where
  agent : Agent
  bar : Nat
  offset : Nat
  size : Nat
  value : DWord
  stores : List HostStore
  deriving DecidableEq, Repr

/-- A write to a doorbell lane of BAR2 (R242, R243). -/
structure DoorbellWrite where
  func : Nat
  lane : Nat
  size : Nat
  value : DWord
  stores : List HostStore
  deriving DecidableEq, Repr

/-- How a host request ended (Table 15-3). -/
inductive HostEnd where
  | ok
  | unsupported
  | abort
  | timeout
  | poisoned
  deriving DecidableEq, Repr

/-- An error-code finding at a 64-byte line during an access (R154): corrected at a symbol, or uncorrectable. -/
inductive EccKind where
  | corrected (symbol : Nat)
  | uncorrectable
  deriving DecidableEq, Repr

/-- Which memory a line lies in (TIER of Table 5-3) with its unit and offset. -/
inductive LineLoc where
  | tile (tile offset : Nat)
  | shared (slab offset : Nat)
  | gddr (addr : Nat)
  | cxl (addr : Nat)
  deriving DecidableEq, Repr

structure EccHit where
  loc : LineLoc
  kind : EccKind
  deriving DecidableEq, Repr

/-- What the checks find at a frame: the cipher core, if any, whose check mismatches on it (R399), and what the error code finds
in the packet buffer (R156). -/
structure FrameChecks where
  miss : Option Nat
  ecc : List EccHit
  deriving DecidableEq, Repr

/-- What READ_QP asks for: the QP of a QPN, or each of the partition, and CURSOR (R266, R458). -/
structure QpPage where
  qpn : Option Nat
  cursor : Nat
  deriving DecidableEq, Repr

/-! ## Tiles (03) -/

inductive RegionKind where
  | program
  | weights
  | data
  deriving DecidableEq, Repr

/-- A region of LOAD_IMAGE and RELOAD_REGION (R91). -/
structure Region where
  tile : Nat
  kind : RegionKind
  dest : Nat
  length : Nat
  src : Nat
  srcFmt : Nat
  cvt : Byte
  /-- scale arrays of an MX source and of an MX target (R53) -/
  srcScale : Nat
  dstScale : Nat
  digest : Option (BitVec 256)
  deriving DecidableEq, Repr

/-- One slot of a START_JOB: its tile mask and the entry syllable of each tile (R97). -/
structure JobSlot where
  slot : Nat
  mask : Byte
  entries : List Nat
  deriving DecidableEq, Repr

structure JobReq where
  slots : List JobSlot
  limitUs : Nat
  tally : Nat
  cq : Option Nat
  arm : Option (Nat × Nat)
  deriving DecidableEq, Repr

/-- A processor that issues bundles: a tensor tile or a firmware processor (R138). -/
inductive Core where
  | tile (t : Nat)
  | proc (p : Nat)
  deriving DecidableEq, Repr

/-! ## Memory tiers and translation (05, 06) -/

/-- The two tiers an allotment or a migration may name. -/
inductive Tier where
  | gddr
  | cxl
  deriving DecidableEq, Repr

structure TierRange where
  tier : Tier
  base : Nat
  size : Nat
  deriving DecidableEq, Repr

/-- The fields of SET_TRANSLATION (R196); a timeout of 0 ms is the default. -/
structure TransSet where
  root : Nat
  rootBits : Nat
  func : Nat
  fqBase : Nat
  vec : Nat
  timeoutMs : Nat
  deriving DecidableEq, Repr

inductive InvScope where
  | whole
  | range (base length : Nat)
  deriving DecidableEq, Repr

/-- A CXL event record read by firmware (R148), as the memory error record it becomes. -/
structure CxlEvent where
  kind : Nat
  addr : Nat
  deriving DecidableEq, Repr

/-! ## Jodaul links (07) -/

inductive GangKind where
  | accelerator
  | peer
  deriving DecidableEq, Repr

/-- A JL frame (Table 7-2). -/
structure JlFrame where
  type : Nat
  vc : Nat
  sop : Bool
  eop : Bool
  ctlRsvd : Nat
  len : Nat
  seq : Nat
  ack : Nat
  credVc : Nat
  cred : Nat
  gpos : Nat
  payload : List Byte
  crc : DWord
  deriving DecidableEq, Repr

/-- A routing-table write of SET_ROUTE (R217, R223). -/
structure RouteEntry where
  dst : Nat
  entry : Word
  deriving DecidableEq, Repr

/-- A HELLO received on a link (Table 7-3). -/
structure HelloMsg where
  serial : DWord
  link : Nat
  kind : GangKind
  deriving DecidableEq, Repr

/-- What every frame carries (Table 7-2), of a LINKCTL frame whose CRC has checked: the link it arrived on, ACK and CRED. -/
structure CtlHead where
  link : Nat
  ack : Nat
  credVc : Nat
  cred : Nat
  deriving DecidableEq, Repr

/-- A REFORM received on a gang (Table 7-3): the old position of each new position, and the restart GPOS. -/
structure ReformMsg where
  order : List Nat
  restart : Nat
  deriving DecidableEq, Repr

/-! ## Queues (08, 09) -/

/-- The fields of ISSUE_PASS (R252). -/
structure PassSet where
  rights : Nat
  bind : Nat
  base : Nat
  length : Nat
  tally : Nat
  deriving DecidableEq, Repr

inductive QpState where
  | reset
  | init
  | rtr
  | rts
  | draining
  | drained
  | error
  deriving DecidableEq, Repr

/-- The parameters SET_CC may set (Table 9-4). Fractions are in sixteenths; lengths in multiples of the MTU; times in ns. -/
structure CcSet where
  targetNs : Option Nat
  beta16 : Option Nat
  betaMax16 : Option Nat
  betaEcn16 : Option Nat
  ai : Option Nat
  minW : Option Nat
  maxW : Option Nat
  initW : Option Nat
  baseAgeS : Option Nat
  rtoMinNs : Option Nat
  rnrDlyUs : Option Nat
  deriving DecidableEq, Repr

/-! ## Packet pipeline (11) -/

/-- A classification rule (Table 11-2), its key and mask as 64-byte numbers read most significant byte first. -/
structure Rule where
  key : BitVec 512
  mask : BitVec 512
  prio : Nat
  action : Nat
  aflags : Byte
  meter : Nat
  newDscp : Nat
  spread : Nat
  param : Word
  zeroSet : Bool
  deriving DecidableEq, Repr

/-- A change that WRITE_RULES makes to the staged set (R329). -/
structure RuleEdit where
  index : Nat
  rule : Option Rule
  deriving DecidableEq, Repr

/-- Shaper settings of a queue or node (R338, R333). -/
structure Shaper where
  rateMbps : Nat
  burst : Nat
  lenMode : Nat
  overhead : Nat
  deriving DecidableEq, Repr

/-- Settings of a scheduler node or queue (R338). -/
structure SchedSet where
  parent : Option Nat
  prio : Nat
  weight : Nat
  shaper : Shaper
  tc : Nat
  dscp : Nat
  pcp : Nat
  qlimit : Nat
  deriving DecidableEq, Repr

/-- Settings of a meter (R335); colour actions are 0 pass, 1 drop, 2 pass and set DSCP. -/
structure MeterSet where
  mode : Nat
  aware : Bool
  cir : Nat
  pir : Nat
  cbs : Nat
  ebs : Nat
  lenMode : Nat
  overhead : Nat
  actions : List Nat
  dscps : List Nat
  deriving DecidableEq, Repr

/-- A timetable (R344). -/
structure Timetable where
  base : Nat
  cycleNs : Nat
  entries : List (Byte × Nat)
  deriving DecidableEq, Repr

/-- A port's settings named by SET_PORT (R321 to R323). -/
structure PortSet where
  mode : Nat
  maxFrame : Nat
  reserveKiB : Nat
  enable : Bool
  deriving DecidableEq, Repr

/-- The fields of SET_REPORT_CARD (R348). -/
structure CardSet where
  ring : Nat
  log : Nat
  periodMs : Nat
  sections : Nat
  qLo : Nat
  qN : Nat
  deriving DecidableEq, Repr

/-- The fields of SET_PUNT (R346). -/
structure PuntSet where
  punt : Nat
  puntLog : Nat
  inject : Nat
  injectLog : Nat
  deriving DecidableEq, Repr

/-! ## Storage and checkpoint (12, 13) -/

/-- The 64-byte task slot's command fields (Table 12-1, bytes 0 to 47). -/
structure TaskCmd where
  opc : Nat
  ctlf : Byte
  ns : Nat
  nblk : Nat
  lba : Nat
  addr : Nat
  htag : DWord
  tally : Nat
  vec : Nat
  zeroSet : Bool
  deriving DecidableEq, Repr

/-- The fields of STORAGE_CONNECT (R351): target, names, and what its queue pairs need: their peers' numbers and generations,
transmit queue and ports. -/
structure ConnSet where
  addr : BitVec 128
  type : Nat
  subnqn : List Byte
  hostnqn : List Byte
  peers : List (Nat × Nat)
  txq : Nat
  portMask : Nat
  deriving DecidableEq, Repr

/-- What Identify returns of a target namespace (R352, R361). -/
structure TargetNs where
  blockSize : Nat
  blocks : Nat
  atomicBytes : Nat
  atomicBoundary : Bool
  deriving DecidableEq, Repr

/-- The fields of CKPT_REBUILD (R392): the step, a replica to copy from, or the holder or mirror of the group's parity with the
group's other members; and what the completion needs. -/
structure RebuildSet where
  runId : Nat
  step : Nat
  copy : Option Nat
  holder : Nat
  members : List Nat
  wrid : Nat
  cq : Nat
  tally : Nat
  deriving DecidableEq, Repr

/-- An extent entry (13): NS, NBLK, LBA. -/
structure Extent where
  ns : Nat
  nblk : Nat
  lba : Nat
  deriving DecidableEq, Repr

/-! ## Host interface, power and reset (15, 17, 18) -/

/-- A change of a function's configuration space (R429, R432, R435, R439, R444). -/
inductive CfgChange where
  | busMaster (on : Bool)
  | dState (d3 : Bool)
  | vfEnable
  | maxPayload (code : Nat)
  | maxReadReq (code : Nat)
  | tenBitTags (on : Bool)
  | barSize (bar mib : Nat)
  | completionTimeout (code : Nat)
  deriving DecidableEq, Repr

/-- A rail with a brown-out or power-on threshold (Table 20-3). -/
inductive Rail where
  | vddAon
  | vddIo
  | vddCore
  | vddSram
  deriving DecidableEq, Repr

/-- The level a debug request or DEVICE_RESET selects (Table 17-1). -/
inductive ResetLevel where
  | powerOn
  | system
  | core
  deriving DecidableEq, Repr

/-- Why the clock monitor declares a failure (R502). -/
inductive ClockLoss where
  | noEdge
  | drift
  | unlock
  deriving DecidableEq, Repr

end Sys2Proof
end

