-- ==== Sys2Proof/Syntax.lean ====
section
/-! DEFINITION. The commands: one constructor for each row of the step table of the spec. -/

namespace Sys2Proof

/-- A command. A row that serves a mailbox opcode names the mailbox whose request it serves. -/
inductive Instr where
  /-- REGISTER_WRITE (R7). -/
  | registerWrite (w : RegWrite)
  /-- UNIMPLEMENTED_READ (R523). -/
  | unimplementedRead (func : Nat) (bar : Nat) (offset : Nat) (size : Nat)
  /-- BAD_SIZE_READ (R431). -/
  | badSizeRead (func : Nat) (bar : Nat) (offset : Nat) (size : Nat)
  /-- SNAP (R527). -/
  | snap (w : RegWrite)
  /-- ERRSTAT_CLEAR (R525). -/
  | errstatClear (w : RegWrite)
  /-- MAILBOX_GO (R456). -/
  | mailboxGo (w : RegWrite)
  /-- MAILBOX_DONE (R456). -/
  | mailboxDone (mb : MbId)
  /-- LOAD_IMAGE (R91). -/
  | loadImage (c : Call) (slot : Nat) (regions : List Region)
  /-- UNLOAD_IMAGE (R105). -/
  | unloadImage (c : Call) (slot : Nat)
  /-- RELOAD_REGION (R95). -/
  | reloadRegion (c : Call) (slot : Nat) (regions : List Region)
  /-- BIND_STREAM (R85). -/
  | bindStream (c : Call)
  /-- UNBIND_STREAM (R90). -/
  | unbindStream (c : Call) (slot : Nat) (tile : Nat) (fifo : Nat)
  /-- START_JOB (R97). -/
  | startJob (c : Call) (req : JobReq)
  /-- CANCEL_JOB (R98). -/
  | cancelJob (c : Call) (job : Nat)
  /-- READ_BENCHES (R105). -/
  | readBenches (c : Call) (cursor : Nat)
  /-- READ_BINDINGS (R105). -/
  | readBindings (c : Call) (cursor : Nat)
  /-- READ_JOBS (R105). -/
  | readJobs (c : Call) (cursor : Nat)
  /-- READ_GROUPS (R105). -/
  | readGroups (c : Call) (cursor : Nat)
  /-- SET_QUANTUM (R102). -/
  | setQuantum (c : Call) (us : Nat)
  /-- PIN_GROUP (R101). -/
  | pinGroup (c : Call)
  /-- UNPIN_GROUP (R101). -/
  | unpinGroup (c : Call)
  /-- SET_PORT_WAIT (R76). -/
  | setPortWait (c : Call) (n : Nat)
  /-- LOAD_DONE (R92). -/
  | loadDone (part : Nat) (slot : Nat)
  /-- ARMED_JOB_START (R97). -/
  | armedJobStart (job : Nat)
  /-- JOB_END (R98). -/
  | jobEnd (job : Nat)
  /-- JOB_TIME_LIMIT (R98). -/
  | jobTimeLimit (job : Nat)
  /-- QUANTUM_EXPIRY (R102). -/
  | quantumExpiry (part : Nat)
  /-- GROUP_RESTORE_DONE (R103). -/
  | groupRestoreDone (part : Nat)
  /-- DMA_STREAM_END (R90). -/
  | dmaStreamEnd (tile : Nat) (fifo : Nat)
  /-- BUNDLE_ISSUE (R116). -/
  | bundleIssue (core : Core) (ecc : List EccHit)
  /-- BUNDLE_RESUME (R116). -/
  | bundleResume (core : Core) (ecc : List EccHit)
  /-- M_SEQUENCE_END (R130). -/
  | mSequenceEnd (tile : Nat) (ecc : List EccHit)
  /-- TILE_DMA_COMPLETE (R136). -/
  | tileDmaComplete (tile : Nat) (slot : Nat)
  /-- READ_MEMORY (R168). -/
  | readMemory (c : Call) (cursor : Nat)
  /-- READ_MEM_ERRORS (R161). -/
  | readMemErrors (c : Call) (cursor : Nat)
  /-- MIGRATE_START (R150). -/
  | migrateStart (c : Call) (src : TierRange) (dst : TierRange) (rate : Nat)
  /-- MIGRATE_RELEASE (R152). -/
  | migrateRelease (c : Call) (id : Nat)
  /-- MIGRATE_ABORT (R151). -/
  | migrateAbort (c : Call) (id : Nat)
  /-- READ_MIGRATIONS (R151). -/
  | readMigrations (c : Call) (cursor : Nat)
  /-- SET_ALLOTMENT (R149). -/
  | setAllotment (c : Call) (ranges : List TierRange)
  /-- CXL_ADD (R167). -/
  | cxlAdd (c : Call) (dev : Nat)
  /-- CXL_REMOVE (R165). -/
  | cxlRemove (c : Call) (dev : Nat)
  /-- QUARANTINE_CLEAR (R157). -/
  | quarantineClear (c : Call) (lines : List LineLoc)
  /-- RETRAIN_CHANNEL (R163). -/
  | retrainChannel (c : Call) (ch : Nat)
  /-- SET_SCRUB (R160). -/
  | setScrub (c : Call) (sramS : Nat) (gddrS : Nat)
  /-- MIGRATION_COPY_DONE (R151). -/
  | migrationCopyDone (id : Nat) (bad : List Nat)
  /-- SCRUB_READ (R160). -/
  | scrubRead (loc : LineLoc) (found : Option EccKind) (overwritten : Bool)
  /-- EDC_FAIL (R162). -/
  | edcFail (ch : Nat) (addr : Nat) (fails : Nat) (who : Nat)
  /-- TEMP_DRIFT_RETRAIN (R163). -/
  | tempDriftRetrain (ch : Nat) (temp : Nat)
  /-- RETRAIN_DONE (R163). -/
  | retrainDone (ch : Nat) (ok : Bool) (replayOk : Bool) (temp : Nat) (holdNs : Nat)
  /-- CXL_EVENT_POLL (R148). -/
  | cxlEventPoll (dev : Nat) (events : List CxlEvent)
  /-- CXL_DEVICE_LOST (R166). -/
  | cxlDeviceLost (dev : Nat)
  /-- CXL_REMOVE_DRAIN_END (R165). -/
  | cxlRemoveDrainEnd (dev : Nat)
  /-- SET_TRANSLATION (R195). -/
  | setTranslation (c : Call) (p : TransSet)
  /-- READ_TRANSLATION (R196). -/
  | readTranslation (c : Call) (cursor : Nat)
  /-- INVALIDATE (R193). -/
  | invalidate (c : Call) (scope : InvScope)
  /-- READ_FAULTS (R196). -/
  | readFaults (c : Call) (cursor : Nat)
  /-- DMA_TRANSFER_UNIT (R184). -/
  | dmaTransferUnit (x : Nat) (ecc : List EccHit)
  /-- WALK_COMPLETE (R182). -/
  | walkComplete (w : Nat) (how : HostEnd) (stores : List HostStore)
  /-- TR_FQHEAD (R188). -/
  | trFqhead (w : RegWrite)
  /-- RETRY (R189). -/
  | retry (w : RegWrite)
  /-- FAIL (R189). -/
  | fail (w : RegWrite)
  /-- FAULT_TIMEOUT (R190). -/
  | faultTimeout (x : Nat)
  /-- READ_LINKS (R225). -/
  | readLinks (c : Call) (cursor : Nat)
  /-- READ_GANGS (R225). -/
  | readGangs (c : Call) (cursor : Nat)
  /-- READ_ROLLCALL (R225). -/
  | readRollcall (c : Call) (cursor : Nat)
  /-- READ_ROUTES (R225). -/
  | readRoutes (c : Call) (cursor : Nat)
  /-- SET_GANG (R210). -/
  | setGang (c : Call) (gang : Nat) (kind : GangKind) (members : List Nat) (spares : List Nat)
  /-- GRANT_GANG (R214). -/
  | grantGang (c : Call) (gang : Nat)
  /-- GANG_WITHDRAW (R214). -/
  | gangWithdraw (c : Call) (gang : Nat)
  /-- SET_VIS_TIMEOUT (R209). -/
  | setVisTimeout (c : Call) (gang : Nat) (us : Nat)
  /-- ROLLCALL_RUN (R218). -/
  | rollcallRun (c : Call)
  /-- SET_ROLLCALL (R225). -/
  | setRollcall (c : Call) (ns : Nat)
  /-- SET_REDUNDANCY (R224). -/
  | setRedundancy (c : Call) (level : Nat)
  /-- RECAL_LINK (R212). -/
  | recalLink (c : Call) (link : Nat) (force : Bool)
  /-- SET_ROUTE (R223). -/
  | setRoute (c : Call) (die : Nat) (entries : List RouteEntry)
  /-- SET_LINK_THRESH (R206). -/
  | setLinkThresh (c : Call) (crc : Nat) (hours : Nat)
  /-- SIGNAL_DETECT (R200). -/
  | signalDetect (link : Nat)
  /-- HELLO (R210). -/
  | hello (h : CtlHead) (m : HelloMsg)
  /-- HELLO_RESEND (R204). -/
  | helloResend (link : Nat)
  /-- TRAINING_TIMEOUT (R200). -/
  | trainingTimeout (link : Nat)
  /-- JL_DATA_FRAME (R205). -/
  | jlDataFrame (link : Nat) (fr : JlFrame)
  /-- JL_NAK (R205). -/
  | jlNak (h : CtlHead) (seq : Nat)
  /-- NAK_RESEND (R205). -/
  | nakResend (link : Nat)
  /-- REPLAY_TIMER (R205). -/
  | replayTimer (link : Nat)
  /-- LOSS_OF_SIGNAL (R211). -/
  | lossOfSignal (link : Nat)
  /-- REFORM (R211). -/
  | reform (h : CtlHead) (m : ReformMsg)
  /-- REFORM_ACK (R211). -/
  | reformAck (h : CtlHead) (restart : Nat)
  /-- REFORM_RESEND (R204). -/
  | reformResend (gang : Nat)
  /-- RECAL_DONE (R212). -/
  | recalDone (link : Nat) (ok : Bool)
  /-- FAILED_LINK_RETRY (R201). -/
  | failedLinkRetry (link : Nat)
  /-- PERIODIC_RECAL (R212). -/
  | periodicRecal (link : Nat)
  /-- VIS_ACK (R208). -/
  | visAck (gang : Nat)
  /-- READ_DATA (R208). -/
  | readData (gang : Nat)
  /-- VIS_TIMEOUT (R209). -/
  | visTimeout (gang : Nat) (tag : Nat)
  /-- FWD (R215). -/
  | fwd (gang : Nat)
  /-- TOKEN (R220). -/
  | tokenMsg (gang : Nat)
  /-- HOLD (R220). -/
  | holdMsg (gang : Nat)
  /-- HOLD_RESEND (R220). -/
  | holdResend
  /-- RETURN (R220). -/
  | returnMsg (gang : Nat)
  /-- LOOP (R220). -/
  | loopMsg (gang : Nat)
  /-- ROLLCALL_ANSWER_TIMEOUT (R220). -/
  | rollcallAnswerTimeout (gang : Nat)
  /-- RESULT (R221). -/
  | resultMsg (gang : Nat)
  /-- CREATE_QP (R266). -/
  | createQp (c : Call)
  /-- MODIFY_QP (R233): STATE of the context's image, and the bytes of the image behind it (Tables 8-2, 9-5). -/
  | modifyQp (c : Call) (qpn : Nat) (goal : Byte) (ctx : List Byte)
  /-- DESTROY_QP (R235). -/
  | destroyQp (c : Call) (qpn : Nat)
  /-- READ_QP (R232). -/
  | readQp (c : Call) (which : QpPage)
  /-- CREATE_CQ (R246). -/
  | createCq (c : Call) (base : Nat) (log : Nat) (vec : Nat) (count : Nat) (time : Nat)
  /-- DESTROY_CQ (R246). -/
  | destroyCq (c : Call) (cqn : Nat)
  /-- READ_CQ (R266). -/
  | readCq (c : Call) (cursor : Nat)
  /-- ISSUE_PASS (R252). -/
  | issuePass (c : Call) (p : PassSet)
  /-- REVOKE_PASS (R255). -/
  | revokePass (c : Call) (key : Nat)
  /-- PASS_DRAINED (R254). -/
  | passDrained (idx : Nat)
  /-- READ_PASSES (R251). -/
  | readPasses (c : Call) (cursor : Nat)
  /-- TALLY_SET (R263). -/
  | tallySet (c : Call) (handle : Nat) (value : DWord)
  /-- TALLY_READ (R266). -/
  | tallyRead (c : Call) (handle : Nat) (count : Nat) (cursor : Nat)
  /-- SET_QUEUE_GRANT (R266). -/
  | setQueueGrant (c : Call) (qps : Nat) (cqs : Nat) (passes : Nat) (tallies : Nat)
  /-- SQ_DB (R244). -/
  | sqDb (w : DoorbellWrite)
  /-- RQ_DB (R244). -/
  | rqDb (w : DoorbellWrite)
  /-- CQ_DB (R248). -/
  | cqDb (w : DoorbellWrite)
  /-- CQ_ARM (R249). -/
  | cqArm (w : DoorbellWrite)
  /-- DOORBELL_RETRY (R244). -/
  | doorbellRetry (kind : Nat) (n : Nat)
  /-- CQ_MODERATION_TIMER (R249). -/
  | cqModerationTimer (cqn : Nat)
  /-- WAIT_RELEASE (R265). -/
  | waitRelease (qpn : Nat)
  /-- QE_TCVALUE (R263). -/
  | qeTcvalue (w : RegWrite)
  /-- QE_TCADD (R263). -/
  | qeTcadd (w : RegWrite)
  /-- PT_SEND (R273). -/
  | ptSend (k : Nat)
  /-- PT_WRITE (R273). -/
  | ptWrite (k : Nat)
  /-- PT_READ_REQ (R273). -/
  | ptReadReq (k : Nat)
  /-- PT_READ_RESP (R276). -/
  | ptReadResp (k : Nat)
  /-- PT_FADD (R273). -/
  | ptFadd (k : Nat)
  /-- PT_CAS (R273). -/
  | ptCas (k : Nat)
  /-- PT_ATOMIC_RESP (R276). -/
  | ptAtomicResp (k : Nat)
  /-- PT_ACK (R284). -/
  | ptAck (k : Nat)
  /-- PLACEMENT_DONE (R276). -/
  | placementDone (qpn : Nat) (msn : Nat)
  /-- ACK_TIMER (R276). -/
  | ackTimer (qpn : Nat)
  /-- RTO_EXPIRY (R278). -/
  | rtoExpiry (qpn : Nat) (psn : Nat)
  /-- RNR_WAIT_EXPIRY (R280). -/
  | rnrWaitExpiry (qpn : Nat)
  /-- PATH_PENALTY_END (R283). -/
  | pathPenaltyEnd (qpn : Nat) (path : Nat)
  /-- ROCE_PACKET (R289). -/
  | rocePacket (k : Nat)
  /-- FENCE_PEER (R287). -/
  | fencePeer (c : Call) (addr : BitVec 128)
  /-- UNFENCE_PEER (R287). -/
  | unfencePeer (c : Call) (addr : BitVec 128)
  /-- READ_FENCES (R291). -/
  | readFences (c : Call) (cursor : Nat)
  /-- READ_PATHS (R291). -/
  | readPaths (c : Call) (cursor : Nat)
  /-- READ_CC (R291). -/
  | readCc (c : Call) (cursor : Nat)
  /-- SET_CC (R285). -/
  | setCc (c : Call) (p : CcSet)
  /-- SET_PT_PORT (R268). -/
  | setPtPort (c : Call) (port : Nat)
  /-- PT_PORT_GRACE_END (R291). -/
  | ptPortGraceEnd
  /-- CREATE_GROUP (R296). -/
  | createGroup (c : Call)
  /-- DESTROY_GROUP (R300). -/
  | destroyGroup (c : Call) (handle : Nat)
  /-- SET_GROUP_MODE (R314). -/
  | setGroupMode (c : Call) (handle : Nat) (fmt : Nat) (effSeq : Nat)
  /-- READ_COLL_GROUPS (R319). -/
  | readCollGroups (c : Call) (cursor : Nat)
  /-- READ_COLLECTIVES (R319). -/
  | readCollectives (c : Call) (cursor : Nat)
  /-- SET_ACCUM_SHARE (R295). -/
  | setAccumShare (c : Call) (mib : Nat)
  /-- COLL_ADMIT (R295). -/
  | collAdmit (id : Nat)
  /-- COLL_DATA (R311). -/
  | collData (k : Nat)
  /-- COLL_CREDIT (R311). -/
  | collCredit (k : Nat)
  /-- COLL_ABORT (R317). -/
  | collAbort (k : Nat)
  /-- COLL_PEER_TIMEOUT (R316). -/
  | collPeerTimeout (id : Nat)
  /-- CHUNK_FINISHED (R313). -/
  | chunkFinished (id : Nat) (chunk : Nat)
  /-- COLL_COMPLETE (R313). -/
  | collComplete (id : Nat)
  /-- COLL_END (R316). -/
  | collEnd (id : Nat)
  /-- READ_PORTS (R349). -/
  | readPorts (c : Call) (cursor : Nat)
  /-- SET_PORT (R321). -/
  | setPort (c : Call) (port : Nat) (p : PortSet)
  /-- WRITE_RULES (R329). -/
  | writeRules (c : Call) (edits : List RuleEdit) (conn : Option Bool) (udf0 : Option Nat) (udf1 : Option Nat) (empty : Bool)
  /-- COMMIT_RULES (R330). -/
  | commitRules (c : Call)
  /-- DISCARD_STAGED (R329). -/
  | discardStaged (c : Call)
  /-- READ_RULES (R331). -/
  | readRules (c : Call) (cursor : Nat)
  /-- SET_TXQ (R341). -/
  | setTxq (c : Call) (q : Nat) (p : SchedSet)
  /-- SET_NODE (R341). -/
  | setNode (c : Call) (kind : Nat) (n : Nat) (p : SchedSet)
  /-- SET_TX_GRANT (R342). -/
  | setTxGrant (c : Call) (group : Nat) (classLo : Nat) (classN : Nat) (qLo : Nat) (qN : Nat)
  /-- READ_SCHED (R349). -/
  | readSched (c : Call) (cursor : Nat)
  /-- SET_METER (R335). -/
  | setMeter (c : Call) (die : Nat) (n : Nat) (p : MeterSet)
  /-- READ_METERS (R349). -/
  | readMeters (c : Call) (cursor : Nat)
  /-- SET_TIMETABLE (R345). -/
  | setTimetable (c : Call) (port : Nat) (t : Timetable)
  /-- READ_TIMETABLE (R349). -/
  | readTimetable (c : Call) (cursor : Nat)
  /-- SET_GATE_CLOCK (R343). -/
  | setGateClock (c : Call) (incr : Nat) (step : Int)
  /-- READ_GATE_CLOCK (R349). -/
  | readGateClock (c : Call) (cursor : Nat)
  /-- SET_HISTOGRAM (R347). -/
  | setHistogram (c : Call) (lo : Nat) (n : Nat) (k : Nat) (on : Bool)
  /-- READ_HISTOGRAM (R349). -/
  | readHistogram (c : Call) (cursor : Nat)
  /-- SET_REPORT_CARD (R348). -/
  | setReportCard (c : Call) (p : CardSet)
  /-- TAKE_REPORT_CARD (R348). -/
  | takeReportCard (c : Call)
  /-- READ_REPORT_CARD (R349). -/
  | readReportCard (c : Call) (cursor : Nat)
  /-- SET_PUNT (R346). -/
  | setPunt (c : Call) (p : PuntSet) (unread : Bool)
  /-- SET_REFILL (R334). -/
  | setRefill (c : Call) (quarters : Nat)
  /-- PP_INJECT (R346). -/
  | ppInject (w : RegWrite)
  /-- ETH_FRAME_RX (R324). -/
  | ethFrameRx (node : Nat) (bytes : List Byte) (found : FrameChecks)
  /-- FRAG_ENTRY_EXPIRY (R332). -/
  | fragEntryExpiry (die : Nat) (k : Nat)
  /-- REFILL (R334). -/
  | refill
  /-- TX_FRAME_SELECT (R339). -/
  | txFrameSelect (node : Nat) (found : FrameChecks)
  /-- GATE_CHANGE (R344). -/
  | gateChange (port : Nat)
  /-- REPORT_CARD_PERIOD (R348). -/
  | reportCardPeriod (func : Nat)
  /-- READ_STORAGE (R369). -/
  | readStorage (c : Call) (cursor : Nat)
  /-- READ_STORAGE_ERRLOG (R363). -/
  | readStorageErrlog (c : Call) (cursor : Nat)
  /-- STORAGE_CONNECT (R351). -/
  | storageConnect (c : Call) (p : ConnSet) (mqes : Option Nat)
  /-- STORAGE_DISCONNECT (R352). -/
  | storageDisconnect (c : Call) (conn : Nat)
  /-- NS_CREATE (R352). -/
  | nsCreate (c : Call) (conn : Nat) (nsid : Nat) (nonatomic : Bool) (target : Option TargetNs)
  /-- NS_DESTROY (R352). -/
  | nsDestroy (c : Call) (handle : Nat)
  /-- NS_ATTACH (R352). -/
  | nsAttach (c : Call) (handle : Nat) (func : Nat)
  /-- NS_DETACH (R352). -/
  | nsDetach (c : Call) (handle : Nat) (func : Nat)
  /-- NS_SET_CACHE (R354). -/
  | nsSetCache (c : Call) (handle : Nat) (base : Nat) (size : Nat)
  /-- STORAGE_RESTART (R364). -/
  | storageRestart (c : Call) (func : Nat) (errSeq : Nat) (flush : Bool)
  /-- SET_STORAGE_POWER (R368). -/
  | setStoragePower (c : Call) (func : Nat) (idleUs : List Nat) (deepest : Nat)
  /-- SET_CLASS_LIMIT (R369). -/
  | setClassLimit (c : Call) (cls : Nat)
  /-- SET_STORAGE_ARB (R360). -/
  | setStorageArb (c : Call) (wh : Nat) (wm : Nat) (wl : Nat)
  /-- SET_STORAGE_MODE (R365). -/
  | setStorageMode (c : Call) (serial : Bool)
  /-- TASK_GO (R356). -/
  | taskGo (w : RegWrite)
  /-- STORAGE_PICK (R360). -/
  | storagePick (conn : Nat)
  /-- TARGET_RESPONSE (R358). -/
  | targetResponse (k : Nat) (data : List Byte)
  /-- KEEP_ALIVE (R351). -/
  | keepAlive (conn : Nat) (ok : Bool)
  /-- RECONNECT_ATTEMPT (R353). -/
  | reconnectAttempt (conn : Nat) (ok : Bool) (peers : List (Nat × Nat))
  /-- SPS_IDLE (R368). -/
  | spsIdle (func : Nat)
  /-- SPS_EXIT_DONE (R368). -/
  | spsExitDone (func : Nat) (late : Bool)
  /-- SBSP_CMD (R367). -/
  | sbspCmd (bytes : List Byte)
  /-- XFER_RDY (R367). -/
  | xferRdy (bytes : List Byte)
  /-- SBSP_DATA (R367). -/
  | sbspData (bytes : List Byte)
  /-- SBSP_NAK (R366). -/
  | sbspNak (bytes : List Byte)
  /-- SBSP_WAIT_TIMEOUT (R367). -/
  | sbspWaitTimeout
  /-- CKPT_SETUP (R372). -/
  | ckptSetup (c : Call) (runId : Nat) (half0 : Nat) (half1 : Nat) (halfSize : Nat)
  /-- CKPT_TEARDOWN (R372). -/
  | ckptTeardown (c : Call) (runId : Nat)
  /-- CKPT_SAVE (R381). -/
  | ckptSave (c : Call) (addr : Nat)
  /-- CKPT_RESTORE (R388). -/
  | ckptRestore (c : Call) (addr : Nat)
  /-- CKPT_REBUILD (R392). -/
  | ckptRebuild (c : Call) (p : RebuildSet)
  /-- CKPT_CANCEL (R393). -/
  | ckptCancel (c : Call) (job : Nat)
  /-- CKPT_READ (R393). -/
  | ckptRead (c : Call) (cursor : Nat)
  /-- SET_STAGING (R374). -/
  | setStaging (c : Call) (base : Nat) (size : Nat)
  /-- CKPT_SET_TRUST (R390). -/
  | ckptSetTrust (c : Call) (digests : List (BitVec 256))
  /-- CKPT_SET_RATE (R393). -/
  | ckptSetRate (c : Call) (gb : Nat)
  /-- CKPT_ARMED_START (R378). -/
  | ckptArmedStart (job : Nat)
  /-- CAPTURE_DONE (R381). -/
  | captureDone (job : Nat)
  /-- SEAL_DONE (R381). -/
  | sealDone (job : Nat)
  /-- DRAIN_DONE (R384). -/
  | drainDone (job : Nat)
  /-- PARITY (R382). -/
  | parityMsg (k : Nat)
  /-- MIRROR (R382). -/
  | mirrorMsg (k : Nat)
  /-- PARITY_ACK (R382). -/
  | parityAck (k : Nat)
  /-- SHARD_RECORD (R386). -/
  | shardRecord (k : Nat) (miss : List Nat)
  /-- MANIFEST_COMMIT (R386). -/
  | manifestCommit (job : Nat)
  /-- REBUILD_REQ (R392). -/
  | rebuildReq (k : Nat)
  /-- REBUILD_DATA (R392). -/
  | rebuildData (k : Nat)
  /-- REFUSE (R392). -/
  | refuseMsg (k : Nat)
  /-- CKPT_JOB_TIMEOUT (R387). -/
  | ckptJobTimeout (job : Nat)
  /-- CKPT_RESTORE_DONE (R390). -/
  | ckptRestoreDone (job : Nat)
  /-- READ_SECURITY (R425). -/
  | readSecurity (c : Call) (cursor : Nat)
  /-- READ_IDENTITY (R425). -/
  | readIdentity (c : Call) (cursor : Nat)
  /-- KEY_LOAD (R401). -/
  | keyLoad (c : Call)
  /-- KEY_ERASE (R404). -/
  | keyErase (c : Call) (slot : Nat)
  /-- READ_KEYS (R405). -/
  | readKeys (c : Call) (cursor : Nat)
  /-- SET_CIPHER_RING (R407). -/
  | setCipherRing (c : Call) (base : Nat) (log : Nat) (vec : Nat)
  /-- READ_CIPHER_RING (R425). -/
  | readCipherRing (c : Call) (cursor : Nat)
  /-- SET_KEY_POLICY (R406). -/
  | setKeyPolicy (c : Call) (limit : Nat) (clear : Bool)
  /-- SVN_COMMIT (R420). -/
  | svnCommit (c : Call) (v : Nat)
  /-- KEY_REVOKE (R421). -/
  | keyRevoke (c : Call) (slot : Nat)
  /-- CIPHER_CORE_ENABLE (R399). -/
  | cipherCoreEnable (c : Call) (core : Nat)
  /-- CE_RINGDB (R411). -/
  | ceRingdb (w : RegWrite)
  /-- DESCRIPTOR_DONE (R410). -/
  | descriptorDone (part : Nat) (k : Nat) (miss : Option (Nat × Nat))
  /-- GET_VERSION (R422). -/
  | getVersion (bytes : List Byte)
  /-- GET_CAPABILITIES (R422). -/
  | getCapabilities (bytes : List Byte)
  /-- NEGOTIATE_ALGORITHMS (R422). -/
  | negotiateAlgorithms (bytes : List Byte)
  /-- GET_DIGESTS (R422). -/
  | getDigests (bytes : List Byte)
  /-- GET_CERTIFICATE (R413). -/
  | getCertificate (bytes : List Byte)
  /-- CHALLENGE (R422). -/
  | challenge (bytes : List Byte) (miss : List Nat)
  /-- GET_MEASUREMENTS (R423). -/
  | getMeasurements (bytes : List Byte) (miss : List Nat)
  /-- DOE_ABORT (R424). -/
  | doeAbort
  /-- PART_CREATE (R447). -/
  | partCreate (c : Call)
  /-- PART_DESTROY (R449). -/
  | partDestroy (c : Call)
  /-- PART_DESTROY_DONE (R449). -/
  | partDestroyDone (part : Nat)
  /-- PART_SET_EXPERT (R35). -/
  | partSetExpert (c : Call) (grant : Bool)
  /-- PART_SET_SLOTS (R448). -/
  | partSetSlots (c : Call) (slots : Nat)
  /-- READ_PARTITIONS (R451). -/
  | readPartitions (c : Call) (cursor : Nat)
  /-- READ_FUNCTIONS (R451). -/
  | readFunctions (c : Call) (cursor : Nat)
  /-- FUNC_ASSIGN (R450). -/
  | funcAssign (c : Call) (func : Nat)
  /-- FUNC_ENABLE (R442). -/
  | funcEnable (c : Call) (func : Nat)
  /-- FUNC_DISABLE (R441). -/
  | funcDisable (c : Call) (func : Nat)
  /-- FLR (R443). -/
  | flr (func : Nat)
  /-- VF_ENABLE_CLEAR (R444). -/
  | vfEnableClear
  /-- HOT_RESET (R445). -/
  | hotReset (down : Bool)
  /-- QUIESCE_END (R441). -/
  | quiesceEnd (func : Nat)
  /-- QUIESCE_TIMEOUT (R441). -/
  | quiesceTimeout (func : Nat)
  /-- HOST_READ_COMPLETION (R435). -/
  | hostReadCompletion (tag : Nat) (how : HostEnd) (bytes : List Byte)
  /-- COMPLETION_TIMEOUT (R438). -/
  | completionTimeout (tag : Nat)
  /-- ZERO_LENGTH_READ (R437). -/
  | zeroLengthRead (func : Nat)
  /-- HELD_ACCESS_RESUME (R439). -/
  | heldAccessResume (func : Nat)
  /-- MSIX_UNMASK (R432). -/
  | msixUnmask (func : Nat) (vec : Nat)
  /-- READ_DEVICE (R484). -/
  | readDevice (c : Call) (cursor : Nat)
  /-- READ_MODES (R473). -/
  | readModes (c : Call) (cursor : Nat)
  /-- READ_EVENTS (R479). -/
  | readEvents (c : Call) (frm : Nat) (sev : Nat) (lo : Nat) (hi : Nat)
  /-- READ_EVENT_LIMITS (R484). -/
  | readEventLimits (c : Call) (cursor : Nat)
  /-- READ_FLASH_LOG (R480). -/
  | readFlashLog (c : Call) (seq : Nat)
  /-- EVT_FLUSH (R481). -/
  | evtFlush (c : Call)
  /-- EVT_SET_LIMIT (R477). -/
  | evtSetLimit (c : Call) (code : Nat) (rate : Nat) (burst : Nat)
  /-- READ_FIRMWARE (R484). -/
  | readFirmware (c : Call) (cursor : Nat)
  /-- READ_CRASHDUMP (R466). -/
  | readCrashdump (c : Call) (p : Nat) (cursor : Nat)
  /-- FW_STAGE (R467). -/
  | fwStage (c : Call) (addr : Nat) (len : Nat)
  /-- FW_FLASH (R468). -/
  | fwFlash (c : Call) (img : Nat)
  /-- FW_ACTIVATE (R469). -/
  | fwActivate (c : Call) (targets : List Nat)
  /-- FW_CANCEL (R470). -/
  | fwCancel (c : Call)
  /-- FW_DUMP_CLEAR (R466). -/
  | fwDumpClear (c : Call) (p : Nat)
  /-- FW_RECOVERY_LOAD (R472). -/
  | fwRecoveryLoad (c : Call) (addr : Nat) (len : Nat)
  /-- FW_SWITCH (R469). -/
  | fwSwitch (p : Nat)
  /-- FW_SWITCH_DONE (R469). -/
  | fwSwitchDone (p : Nat)
  /-- ROLLBACK_WINDOW_END (R471). -/
  | rollbackWindowEnd (p : Nat)
  /-- PROCESSOR_WATCHDOG (R460). -/
  | processorWatchdog (p : Nat)
  /-- PROCESSOR_RESTARTED (R462). -/
  | processorRestarted (p : Nat)
  /-- EPOCH_SWITCH (R473). -/
  | epochSwitch
  /-- MODE_ACK_TIMEOUT (R473). -/
  | modeAckTimeout (units : Nat)
  /-- STAGED_DISCARD (R474). -/
  | stagedDiscard (unit : Nat)
  /-- FAULT_FLUSH_END (R481). -/
  | faultFlushEnd
  /-- PWRFAIL_ASSERT (R482). -/
  | pwrfailAssert (ns : Nat)
  /-- PWRFAIL_DEASSERT (R482). -/
  | pwrfailDeassert
  /-- POWER_FAIL_FLUSH_END (R482). -/
  | powerFailFlushEnd
  /-- DEVICE_RESET (R503). -/
  | deviceReset (c : Call)
  /-- SOFT_RESET_FIRE (R503). -/
  | softResetFire
  /-- READ_RESET (R503). -/
  | readReset (c : Call) (cursor : Nat)
  /-- BLOCK_RESET (R496). -/
  | blockReset (c : Call)
  /-- BLOCK_IDLE (R496). -/
  | blockIdle (kind : Nat) (index : Nat) (timedOut : Bool)
  /-- POWER_ON_RESET (R486). -/
  | powerOnReset
  /-- BROWN_OUT (R489). -/
  | brownOut (rail : Rail)
  /-- PERST_N (R446). -/
  | perstN
  /-- SYS_RST_N (R489). -/
  | sysRstN
  /-- SYSTEM_WATCHDOG (R489). -/
  | systemWatchdog
  /-- DEBUG_RESET (R545). -/
  | debugReset (level : ResetLevel)
  /-- CLOCK_FAILURE (R502). -/
  | clockFailure (why : ClockLoss)
  /-- OPTION_LOAD_DONE (R498). -/
  | optionLoadDone (crcOk : Bool)
  /-- ROOT_PLL_LOCK (R501). -/
  | rootPllLock
  /-- RESET_RELEASE (R495). -/
  | resetRelease
  /-- BOOT_IMAGE_READ (R417). -/
  | bootImageRead
  /-- GDDR7_TRAINING_DONE (R141). -/
  | gddr7TrainingDone (ch : Nat) (ok : Bool) (temp : Nat)
  /-- ENDPOINT_READY (R499). -/
  | endpointReady (speed : Nat) (width : Nat) (flit : Bool)
  /-- READ_POWER (R517). -/
  | readPower (c : Call) (cursor : Nat)
  /-- SET_LATENCY_TOL (R506). -/
  | setLatencyTol (c : Call) (us : Nat)
  /-- SET_POWER_LIMIT (R510). -/
  | setPowerLimit (c : Call) (watts : Nat)
  /-- SET_THERMAL (R513). -/
  | setThermal (c : Call) (t : Nat)
  /-- SET_PSTATE_LIMIT (R506). -/
  | setPstateLimit (c : Call) (p : Nat)
  /-- CONTROL_PERIOD (R507). -/
  | controlPeriod
  /-- WAKE (R507). -/
  | wake (entering : Bool)
  /-- POWER_SAMPLE (R512). -/
  | powerSample (mW : Nat) (tileMw : Nat)
  /-- THERMAL_SAMPLE (R513). -/
  | thermalSample (temps : List Nat) (steps : Nat)
  /-- EMERGENCY_CLEAR (R515). -/
  | emergencyClear
  /-- WEAR_CHARGE (R514). -/
  | wearCharge
  /-- WEAR_RECORD_WRITE (R514). -/
  | wearRecordWrite
  /-- I3C_READ (R544). -/
  | i3cRead (addr : Nat)
  /-- IDLE_FRAME (R205). -/
  | idleFrame (link : Nat) (fr : JlFrame)
  /-- CONFIGURATION_WRITE (R439). -/
  | configurationWrite (func : Nat) (ch : CfgChange)
  /-- DOE_DISCOVERY (R422). -/
  | doeDiscovery (index : Nat)
  /-- CXL_MEDIA_READY (R148). -/
  | cxlMediaReady (dev : Nat) (capacity : Nat)
  /-- PORT_LINK_STATE (R321). -/
  | portLinkState (node : Nat) (up : Bool)
  deriving DecidableEq, Repr

end Sys2Proof
end

