-- ==== Sys2Proof/Config.lean ====
section
/-! DEFINITION. What the part fixes once: status and completion codes, sizes, and the free values the spec leaves open. -/

namespace Sys2Proof.Config

/-! ## Mailbox status codes (Table 0-2, R10) -/

def ok : Nat := 0x0000
def badOpcode : Nat := 0x0001
def badLength : Nat := 0x0002
def badValue : Nat := 0x0003
def noResource : Nat := 0x0004
def busy : Nat := 0x0005
def notPermitted : Nat := 0x0006
def wrongState : Nat := 0x0007
def deferred : Nat := 0x0008
def fwRestarting : Nat := 0x0009
def timeout : Nat := 0x000A
def modePartial : Nat := 0x000B
def quiescing : Nat := 0x000C
def doorbellAhead : Nat := 0x000D
/-- Codes of the subsystems (Tables 3-8, 7-9, 12-12, 14-9). -/
def noSpare : Nat := 0x3001
def rollcallConflict : Nat := 0x3002
def targetUnreachable : Nat := 0x6001
def atomicUnsupported : Nat := 0x6002
def keyUnwrapFail : Nat := 0x9003

/-! ## Completion codes (Table 0-3, R15) -/

def ccOk : Nat := 0x00
def ccLength : Nat := 0x01
def ccProtection : Nat := 0x02
def ccRemoteAccess : Nat := 0x03
def ccRemoteOp : Nat := 0x04
def ccRetry : Nat := 0x05
def ccTransTimeout : Nat := 0x06
def ccFlushed : Nat := 0x07
def ccData : Nat := 0x08
def ccFenced : Nat := 0x09
def ccVisTimeout : Nat := 0x0A

/-! ## Device pools (Table 1-8, R31) -/

def poolQps : Nat := 1048576
def poolCqs : Nat := 65536
def poolPasses : Nat := 16777216
def poolTallies : Nat := 16384
def poolNamespaces : Nat := 4095

/-! ## Free values (log 7, log 8): constants without a body, so that nothing in Lean knows them -/

/-- The value drawn when the spec leaves a 64-bit value open, by the count of draws so far. -/
opaque freeValue : Nat → BitVec 64
/-- The state of the free-running stochastic-rounding generator at a draw (R60). -/
opaque freeGenerator : Nat → BitVec 32
/-- How many rows of a readback fit the piece that firmware builds next, less one (R458). -/
opaque pieceRows : Nat → Nat
/-- The fused unique device secret (R412). -/
opaque deviceSecret : Unit → BitVec 256
/-- SHA3-256 (R397, R415): an outside standard, uninterpreted. -/
opaque sha3 : List Byte → BitVec 256
/-- AES in the mode `m` (direction, key, nonce or tweak, additional data, data): output bytes and tag. Uninterpreted. -/
opaque aes : Nat → Bool → List Byte → List Byte → List Byte → List Byte → List Byte × List Byte
/-- AES key unwrap: none when the integrity check fails. Uninterpreted. -/
opaque aesUnwrap : List Byte → List Byte → Option (List Byte)
/-- ML-DSA-44: the public key of a seed, and the signature by a seed with a context over a message. Uninterpreted. -/
opaque mlDsaPublic : BitVec 256 → List Byte
opaque mlDsaSign : BitVec 256 → List Byte → List Byte → List Byte
/-- ML-DSA-44 verification under a public key with a context of a message's signature. Uninterpreted. -/
opaque mlDsaVerify : List Byte → List Byte → List Byte → List Byte → Bool
/-- The certificate chain written at manufacture, and the key in its device certificate (R413). -/
opaque certChain : Unit → List Byte
opaque certKey : Unit → List Byte
/-- SHA3-256 of the security core ROM (Table 14-10). -/
opaque romDigest : Unit → BitVec 256

/-- The level of CXL_PRSNT_N of a device index at a local counter: a device is present (R167). No command carries the pin. -/
opaque cxlPresent : Nat → Nat → Bool

end Sys2Proof.Config
end

