-- ==== Sys2Proof/Machine/Formats.lean ====
section
/-! DEFINITION. Number formats and arithmetic (02): exact values, rounding, conversion, MX blocks, FP32 accumulation, stochastic rounding. -/

namespace Sys2Proof.Machine

/-! ## Exact values -/

/-- A number as the engines see it: NaN, an infinity, or exactly `± m * 2^e`. -/
inductive FVal where
  | nan
  | inf (neg : Bool)
  | fin (neg : Bool) (m : Nat) (e : Int)
  deriving DecidableEq, Repr

def FVal.zero : FVal := .fin false 0 0

def FVal.isZero : FVal → Bool
  | .fin _ m _ => m == 0
  | _ => false

/-- Exact product (R65): NaN for infinity times zero. -/
def FVal.mul : FVal → FVal → FVal
  | .nan, _ => .nan
  | _, .nan => .nan
  | .inf a, .inf b => .inf (a != b)
  | .inf a, .fin b m _ => if m = 0 then .nan else .inf (a != b)
  | .fin a m _, .inf b => if m = 0 then .nan else .inf (a != b)
  | .fin a m e, .fin b n f => .fin (a != b) (m * n) (e + f)

/-- Exact product of two integers, each in its unit (R65): it has no negative zero. -/
def FVal.mulInt (x y : FVal) : FVal :=
  match x.mul y with
  | .fin a m e => .fin (a && m != 0) m e
  | z => z

/-- Exact sum with the zero-sign rule of R67. -/
def FVal.add : FVal → FVal → FVal
  | .nan, _ => .nan
  | _, .nan => .nan
  | .inf a, .inf b => if a = b then .inf a else .nan
  | .inf a, .fin _ _ _ => .inf a
  | .fin _ _ _, .inf b => .inf b
  | .fin a m e, .fin b n f =>
    if m = 0 ∧ n = 0 then .fin (a && b) 0 0
    else
      let g := min e f
      let x : Int := (if a then -1 else 1) * (m * 2 ^ (e - g).toNat : Nat)
      let y : Int := (if b then -1 else 1) * (n * 2 ^ (f - g).toNat : Nat)
      let z := x + y
      .fin (decide (z < 0)) z.natAbs g

def FVal.negate : FVal → FVal
  | .nan => .nan
  | .inf a => .inf (!a)
  | .fin a m e => .fin (!a) m e

/-- Order of two numbers that are not NaN: is the first below the second? -/
def FVal.lt : FVal → FVal → Bool
  | .nan, _ => false
  | _, .nan => false
  | .inf a, .inf b => a && !b
  | .inf a, .fin _ _ _ => a
  | .fin _ _ _, .inf b => !b
  | .fin a m e, .fin b n f =>
    let g := min e f
    let x : Int := (if a then -1 else 1) * (m * 2 ^ (e - g).toNat : Nat)
    let y : Int := (if b then -1 else 1) * (n * 2 ^ (f - g).toNat : Nat)
    decide (x < y)

/-- Maximum (R70): NaN propagates and max(+0, -0) is +0. -/
def FVal.max : FVal → FVal → FVal
  | .nan, _ => .nan
  | _, .nan => .nan
  | x, y =>
    if x.isZero && y.isZero then
      match x, y with
      | .fin a _ _, .fin b _ _ => .fin (a && b) 0 0
      | _, _ => x
    else if x.lt y then y else x

/-- Minimum (R70): NaN propagates and min(+0, -0) is -0. -/
def FVal.min : FVal → FVal → FVal
  | .nan, _ => .nan
  | _, .nan => .nan
  | x, y =>
    if x.isZero && y.isZero then
      match x, y with
      | .fin a _ _, .fin b _ _ => .fin (a || b) 0 0
      | _, _ => x
    else if y.lt x then y else x

/-! ## Element formats (Table 2-1, Table 2-2) -/

/-- A floating-point element format: exponent and mantissa bits, bias, code of the largest finite magnitude. -/
structure FFmt where
  eb : Nat
  mb : Nat
  bias : Nat
  maxCode : Nat
  /-- infinity's code, where there is one -/
  infCode : Option Nat
  /-- canonical NaN (R51), where there is one -/
  nanCode : Option Nat
  deriving DecidableEq, Repr

def fp32 : FFmt := ⟨8, 23, 127, 0x7F7FFFFF, some 0x7F800000, some 0x7FC00000⟩
def bf16 : FFmt := ⟨8, 7, 127, 0x7F7F, some 0x7F80, some 0x7FC0⟩
def fp16 : FFmt := ⟨5, 10, 15, 0x7BFF, some 0x7C00, some 0x7E00⟩
def e4m3 : FFmt := ⟨4, 3, 7, 0x7E, none, some 0x7F⟩
def e5m2 : FFmt := ⟨5, 2, 15, 0x7B, some 0x7C, some 0x7E⟩
def e3m2 : FFmt := ⟨3, 2, 3, 0x1F, none, none⟩
def e2m3 : FFmt := ⟨2, 3, 1, 0x1F, none, none⟩
def e2m1 : FFmt := ⟨2, 1, 1, 0x7, none, none⟩

/-- What an element is: a float or an integer with the exponent of its unit. -/
inductive Elem where
  | float (f : FFmt)
  /-- INT8 (unit 2^0, from -128) or MXINT8 (unit 2^-6, encoded from -127) (R50) -/
  | int (mx : Bool)
  deriving DecidableEq, Repr

/-- The element of a format code (Table 2-1), or none for a reserved code. -/
def fmtElem : Nat → Option Elem
  | 0x0 => some (.float fp32)
  | 0x1 => some (.float bf16)
  | 0x2 => some (.float fp16)
  | 0x3 => some (.float e4m3)
  | 0x4 => some (.float e5m2)
  | 0x5 => some (.int false)
  | 0x6 => some (.float e2m1)
  | 0x8 => some (.float e4m3)
  | 0x9 => some (.float e5m2)
  | 0xA => some (.float e3m2)
  | 0xB => some (.float e2m3)
  | 0xC => some (.float e2m1)
  | 0xD => some (.int true)
  | _ => none

/-- Element bits of a format code (Table 2-1); 0 for a reserved code. -/
def fmtBits : Nat → Nat
  | 0x0 => 32
  | 0x1 | 0x2 => 16
  | 0x3 | 0x4 | 0x5 | 0x8 | 0x9 | 0xD => 8
  | 0xA | 0xB => 6
  | 0x6 | 0xC => 4
  | _ => 0

/-- An MX format (Table 2-1). -/
def fmtMx (c : Nat) : Bool := decide (0x8 ≤ c ∧ c ≤ 0xD)

/-- An integer format: INT8 or MXINT8. -/
def fmtInt (c : Nat) : Bool := c == 0x5 || c == 0xD

/-- A tile MAC operand (Table 2-1). -/
def fmtMac (c : Nat) : Bool := decide (1 ≤ c ∧ c ≤ 0xD ∧ c ≠ 7)

/-- Accepted by tile loads, stores and the V slot (Table 2-1). -/
def fmtTile (c : Nat) : Bool := decide (c ≤ 0xD ∧ c ≠ 7)

/-- Accepted by a collective reduction and as a wire conversion target (Table 2-1). -/
def fmtWire (c : Nat) : Bool := decide (c ≤ 0xD ∧ c ≠ 7 ∧ c ≠ 6)

/-- The exponent of the largest element of an MX format (R63). -/
def mxEmax : Nat → Int
  | 0x8 => 8
  | 0x9 => 15
  | 0xA => 4
  | 0xB => 2
  | 0xC => 2
  | _ => 0

/-! ## Decoding (R49, R50, R52) -/

/-- Value of a float code. -/
def FFmt.decode (f : FFmt) (c : Nat) : FVal :=
  let w := f.eb + f.mb
  let neg := c / 2 ^ w % 2 == 1
  let mag := c % 2 ^ w
  let ex := mag / 2 ^ f.mb
  let man := mag % 2 ^ f.mb
  if f.infCode = some mag then .inf neg
  else if mag > f.maxCode then .nan
  else if ex = 0 then .fin neg man (1 - (f.bias : Int) - f.mb)
  else .fin neg (2 ^ f.mb + man) ((ex : Int) - f.bias - f.mb)

/-- Value of an element code. -/
def Elem.decode : Elem → Nat → FVal
  | .float f, c => f.decode c
  | .int mx, c =>
    let n := c % 256
    let e : Int := if mx then -6 else 0
    if n < 128 then .fin false n e else .fin true (256 - n) e

/-- Value of an element under an E8M0 scale code (R52). -/
def scaled (scale : Nat) (x : FVal) : FVal :=
  if scale = 0xFF then .nan
  else match x with
    | .fin a m e => .fin a m (e + scale - 127)
    | y => y

/-! ## Rounding (R57 to R59, R62) -/

/-- RM of Table 2-6. -/
inductive RMode where
  | rne
  | rtz
  | rdn
  | rup
  | sr
  deriving DecidableEq, Repr

def rmode : Nat → Option RMode
  | 0 => some .rne
  | 1 => some .rtz
  | 2 => some .rdn
  | 3 => some .rup
  | 4 => some .sr
  | _ => none

/-- Rounds `m * 2^-s` to an integer in magnitude, by mode and sign, with a 16-bit draw for SR. -/
def roundShift (rm : RMode) (neg : Bool) (m s draw : Nat) : Nat :=
  let lo := m / 2 ^ s
  let rem := m % 2 ^ s
  if rem = 0 then lo
  else match rm with
    | .rne => if 2 * rem > 2 ^ s ∨ (2 * rem = 2 ^ s ∧ lo % 2 = 1) then lo + 1 else lo
    | .rtz => lo
    | .rdn => if neg then lo + 1 else lo
    | .rup => if neg then lo else lo + 1
    | .sr => if rem * 65536 / 2 ^ s + draw ≥ 65536 then lo + 1 else lo

/-- The code of a magnitude rounded by a mode with the exponent range taken as unbounded above. -/
def FFmt.roundMag (f : FFmt) (rm : RMode) (neg : Bool) (m : Nat) (e : Int) (draw : Nat) : Nat :=
  if m = 0 then 0
  else
    let top : Int := (Nat.log2 m : Int) + e
    let emin : Int := 1 - (f.bias : Int)
    let q : Int := max (top - f.mb) (emin - f.mb)
    let n := if e ≥ q then m * 2 ^ (e - q).toNat else roundShift rm neg m (q - e).toNat draw
    -- n lies at most at 2^(mb+1), where it is the first code of the next binade
    if n < 2 ^ f.mb then n
    else ((q + f.mb + f.bias).toNat) * 2 ^ f.mb + (n - 2 ^ f.mb)

/-- A conversion's result: code, a NaN turned into zero (or a NaN block), a saturation (R62). -/
structure Cvt where
  code : Nat
  nonfin : Bool
  sat : Bool
  deriving DecidableEq, Repr

/-- Sign bit of a float code. -/
def FFmt.sign (f : FFmt) (neg : Bool) : Nat := if neg then 2 ^ (f.eb + f.mb) else 0

/-- The result of an overflow or an infinity that does not saturate (Table 2-7, SAT = 0). -/
def FFmt.overInf (f : FFmt) (neg : Bool) : Cvt :=
  match f.infCode, f.nanCode with
  | some i, _ => ⟨i + f.sign neg, false, false⟩
  | none, some n => ⟨n, false, false⟩
  | none, none => ⟨f.maxCode + f.sign neg, false, true⟩

/-- Largest finite of the sign: a saturation. -/
def FFmt.overMax (f : FFmt) (neg : Bool) : Cvt := ⟨f.maxCode + f.sign neg, false, true⟩

/-- Does a finite magnitude exceed the largest finite value exactly (SR's finite overflow, R59)? -/
def FFmt.exceeds (f : FFmt) (m : Nat) (e : Int) : Bool :=
  match f.decode f.maxCode with
  | .fin _ n g => FVal.lt (.fin false n g) (.fin false m e)
  | _ => false

/-- Conversion of a value to a float format under SAT and RM (R58, R62, Table 2-7). -/
def FFmt.convert (f : FFmt) (sat : Bool) (rm : RMode) (draw : Nat) : FVal → Cvt
  | .nan =>
    match f.nanCode with
    | some n => ⟨n, false, false⟩
    | none => ⟨0, true, false⟩
  | .inf neg => if sat then f.overMax neg else f.overInf neg
  | .fin neg m e =>
    let c := f.roundMag rm neg m e draw
    let beyond := if rm = .sr then f.exceeds m e else decide (c > f.maxCode)
    if beyond then
      if sat then f.overMax neg
      else match rm with
        | .rne | .sr => f.overInf neg
        | .rtz => f.overMax neg
        | .rdn => if neg then f.overInf neg else f.overMax neg
        | .rup => if neg then f.overMax neg else f.overInf neg
    else ⟨c + f.sign neg, false, false⟩

/-- Conversion to INT8, or to an MXINT8 element (which clamps to -127, R50). -/
def intConvert (mx : Bool) (rm : RMode) (draw : Nat) : FVal → Cvt
  | .nan => ⟨0, true, false⟩
  | .inf neg => ⟨if neg then (if mx then 129 else 128) else 127, false, true⟩
  | .fin neg m e =>
    let e' : Int := if mx then e + 6 else e
    let n := if e' ≥ 0 then m * 2 ^ e'.toNat else roundShift rm neg m (-e').toNat draw
    let lim := if neg && !mx then 128 else 127
    -- under SR a magnitude above the largest is an overflow and is not rounded (R59)
    let beyond := decide (n > lim) || (rm == .sr && FVal.lt (.fin false lim 0) (.fin false m e'))
    let k := if beyond then lim else n
    ⟨if neg then (256 - k) % 256 else k, false, beyond⟩

def Elem.convert (el : Elem) (sat : Bool) (rm : RMode) (draw : Nat) (x : FVal) : Cvt :=
  match el with
  | .float f => f.convert sat rm draw x
  | .int mx => intConvert mx rm draw x

/-- FP32 code of a value rounded to nearest even with IEEE overflow (R66, R67). -/
def roundFp32 (x : FVal) : Nat := (fp32.convert false .rne 0 x).code

/-- FP32 sum, product, maximum and minimum of two FP32 codes (R67, R69, R70). -/
def fadd (a b : Nat) : Nat := roundFp32 ((fp32.decode a).add (fp32.decode b))
def fmul (a b : Nat) : Nat := roundFp32 ((fp32.decode a).mul (fp32.decode b))
def fmax (a b : Nat) : Nat := roundFp32 ((fp32.decode a).max (fp32.decode b))
def fmin (a b : Nat) : Nat := roundFp32 ((fp32.decode a).min (fp32.decode b))

/-! ## Stochastic rounding (R60) -/

/-- One step of the Galois generator. -/
def lfsrStep (s : Nat) : Nat := if s % 2 = 1 then (s / 2) ^^^ 0x80200003 else s / 2

/-- `n` steps. -/
def lfsrSteps : Nat → Nat → Nat
  | 0, s => s
  | n + 1, s => lfsrSteps n (lfsrStep s)

/-- A draw: the state after 16 steps; the draw is its low 16 bits. -/
def next16 (s : Nat) : Nat := lfsrSteps 16 s

/-! ## Converting sequences -/

/-- A converted sequence: codes, scale codes of MX blocks, generator, and the two counts (R62). -/
structure CvtSeq where
  codes : List Nat
  scales : List Nat
  gen : Nat
  nonfin : Nat
  sat : Nat
  deriving DecidableEq, Repr

/-- Control byte fields (Table 2-5). -/
def cvtSat (c : Byte) : Bool := bitOf 7 c.toNat
def cvtRm (c : Byte) : Option RMode := rmode (bitsOf 6 4 c.toNat)
def cvtFmt (c : Byte) : Nat := bitsOf 3 0 c.toNat

/-- The control byte of a structure without room for one (R57). -/
def cvtDefault (fmt : Nat) : Byte := BitVec.ofNat 8 (0x80 + fmt)

/-- Converts values one by one; SR takes one draw per element (R549). -/
def convertElems (el : Elem) (sat : Bool) (rm : RMode) : Nat → List FVal → CvtSeq
  | gen, [] => ⟨[], [], gen, 0, 0⟩
  | gen, x :: xs =>
    let gen' := if rm = .sr then next16 gen else gen
    let c := el.convert sat rm (gen' % 65536) x
    let r := convertElems el sat rm gen' xs
    ⟨c.code :: r.codes, [], r.gen, r.nonfin + c.nonfin.toNat, r.sat + c.sat.toNat⟩

/-- floor(log2) of the largest magnitude of a block, none for an all-zero block. -/
def blockTop : List FVal → Option Int
  | [] => none
  | .fin _ m e :: xs =>
    if m = 0 then blockTop xs
    else
      let t : Int := (Nat.log2 m : Int) + e
      match blockTop xs with
      | none => some t
      | some u => some (max t u)
  | _ :: xs => blockTop xs

def FVal.finite : FVal → Bool
  | .fin _ _ _ => true
  | _ => false

/-- Draws taken and discarded for `n` elements. -/
def skipDraws (rm : RMode) (n gen : Nat) : Nat := if rm = .sr then lfsrSteps (16 * n) gen else gen

/-- Encodes one block of 32 values (R63). -/
def encodeBlock (fmt : Nat) (el : Elem) (rm : RMode) (gen : Nat) (v : List FVal) : CvtSeq :=
  if !v.all FVal.finite then
    ⟨v.map (fun _ => 0), [0xFF], skipDraws rm v.length gen, 1, 0⟩
  else
    let x : Int := match blockTop v with
      | none => -127
      | some t => max (-127) (min 127 (t - mxEmax fmt))
    let y := v.map (fun f => match f with
      | .fin a m e => FVal.fin a m (e - x)
      | g => g)
    -- the element clamps at its largest value whatever SAT is (R63)
    let r := convertElems el true rm gen y
    ⟨r.codes, [(x + 127).toNat], r.gen, r.nonfin, r.sat⟩

/-- The elements of a sequence in blocks of `n`, the last one padded with zeros (R56). -/
def blocksOf (n : Nat) : Nat → List FVal → List (List FVal)
  | 0, _ => []
  | fuel + 1, xs =>
    if xs.isEmpty then []
    else
      let h := xs.take n
      (h ++ List.replicate (n - h.length) FVal.zero) :: blocksOf n fuel (xs.drop n)

/-- Encodes blocks in order. -/
def encodeBlocks (fmt : Nat) (el : Elem) (rm : RMode) : Nat → List (List FVal) → CvtSeq
  | gen, [] => ⟨[], [], gen, 0, 0⟩
  | gen, b :: bs =>
    let h := encodeBlock fmt el rm gen b
    let r := encodeBlocks fmt el rm h.gen bs
    ⟨h.codes ++ r.codes, h.scales ++ r.scales, r.gen, h.nonfin + r.nonfin, h.sat + r.sat⟩

/-- Converts a sequence to the format of a control byte. -/
def convertSeq (cvt : Byte) (gen : Nat) (xs : List FVal) : CvtSeq :=
  match fmtElem (cvtFmt cvt), cvtRm cvt with
  | some el, some rm =>
    if fmtMx (cvtFmt cvt) then encodeBlocks (cvtFmt cvt) el rm gen (blocksOf 32 xs.length xs)
    else convertElems el (cvtSat cvt) rm gen xs
  | _, _ => ⟨[], [], gen, 0, 0⟩

/-! ## Packing (R54, R55) -/

/-- The number formed by element codes, the first one in the low bits (R54). -/
def packNat (w : Nat) : List Nat → Nat
  | [] => 0
  | c :: cs => c % 2 ^ w + 2 ^ w * packNat w cs

/-- Bytes of packed elements of width `w`. -/
def packElems (w : Nat) (cs : List Nat) : List Byte := leBytes ((cs.length * w + 7) / 8) (packNat w cs)

/-- `n` elements of width `w` from a number. -/
def unpackNat (w : Nat) : Nat → Nat → List Nat
  | 0, _ => []
  | n + 1, v => v % 2 ^ w :: unpackNat w n (v / 2 ^ w)

/-- `n` element codes of width `w` from bytes. -/
def unpackElems (w n : Nat) (bs : List Byte) : List Nat := unpackNat w n (leNat bs)

/-- Exact values of element codes of a format, with the scale codes of its blocks where it is an MX format. -/
def decodeElems (fmt : Nat) (codes scales : List Nat) : List FVal :=
  match fmtElem fmt with
  | none => []
  | some el =>
    if fmtMx fmt then codes.zipIdx.map (fun p => scaled (scales.getD (p.2 / 32) 0) (el.decode p.1))
    else codes.map el.decode

/-- Decoding of a value to FP32: exact (R61), an infinity or a NaN too, but for an MX result beyond FP32, which converts as a
finite overflow under the decoding operation's control byte (R64). -/
def decodeFp32 (cvt : Byte) (x : FVal) : Cvt :=
  fp32.convert (x.finite && cvtSat cvt) ((cvtRm cvt).getD .rne) 0 x

/-- Values decoded to FP32, and how many of them saturated (R62). -/
def decodeVals (cvt : Byte) (xs : List FVal) : List Nat × Nat :=
  let r := xs.map (decodeFp32 cvt)
  (r.map Cvt.code, r.countP Cvt.sat)

/-- Converts values to the format of a control byte by way of FP32 (R61); saturations of the decoding count too. -/
def recode (cvt : Byte) (gen : Nat) (xs : List FVal) : CvtSeq :=
  let d := decodeVals cvt xs
  let r := convertSeq cvt gen (d.1.map fp32.decode)
  { r with sat := d.2 + r.sat }

/-- Size of an MX wire group (Table 2-4). -/
def groupBytes (fmt : Nat) : Nat := 4 + 4 * (fmtBits fmt * 4)

/-- Wire form of a sequence: plain elements, or groups of four blocks (R55, R56). -/
def wireGroups (fmt : Nat) : Nat → List Nat → List Nat → List Byte
  | 0, _, _ => []
  | fuel + 1, codes, scales =>
    if codes.isEmpty then []
    else
      let c := codes.take 128
      let s := scales.take 4
      (s ++ List.replicate (4 - s.length) 0).map (BitVec.ofNat 8)
        ++ packElems (fmtBits fmt) (c ++ List.replicate (128 - c.length) 0)
        ++ wireGroups fmt fuel (codes.drop 128) (scales.drop 4)

def wireEncode (fmt : Nat) (r : CvtSeq) : List Byte :=
  if fmtMx fmt then wireGroups fmt r.codes.length r.codes r.scales else packElems (fmtBits fmt) r.codes

/-- Values of `n` elements from their wire form. -/
def wireDecode (fmt : Nat) : Nat → Nat → List Byte → List FVal
  | 0, _, _ => []
  | fuel + 1, n, bs =>
    if n = 0 then []
    else if fmtMx fmt then
      let k := min n 128
      let sc := (bs.take 4).map BitVec.toNat
      let el := unpackElems (fmtBits fmt) k ((bs.drop 4).take (groupBytes fmt - 4))
      decodeElems fmt el sc ++ wireDecode fmt fuel (n - k) (bs.drop (groupBytes fmt))
    else decodeElems fmt (unpackElems (fmtBits fmt) n bs) []

/-- Wire bytes of `n` elements of a format. -/
def wireBytes (fmt n : Nat) : Nat :=
  if fmtMx fmt then (n + 127) / 128 * groupBytes fmt else (n * fmtBits fmt + 7) / 8

end Sys2Proof.Machine
end

