-- ==== Sys2Proof/Machine/Mem.lean ====
section
/-! DEFINITION. Sparse tables and the one flat memory: reading, writing and the canonical form. -/

namespace Sys2Proof.Machine

variable {α : Type}

/-! ## Tables in rising order of their key -/

/-- The entry at a key. -/
def tget : Tab α → Nat → Option α
  | [], _ => none
  | (j, v) :: r, k => if j == k then some v else tget r k

/-- The entry at a key, or a default. -/
def tgetD (t : Tab α) (k : Nat) (d : α) : α := (tget t k).getD d

/-- Sets the entry at a key, keeping the keys rising. -/
def tset : Tab α → Nat → α → Tab α
  | [], k, v => [(k, v)]
  | (j, w) :: r, k, v =>
    if k < j then (k, v) :: (j, w) :: r
    else if j == k then (k, v) :: r
    else (j, w) :: tset r k v

/-- Removes the entry at a key. -/
def tdel (t : Tab α) (k : Nat) : Tab α := t.filter (fun e => e.1 != k)

/-- Changes the entry at a key where there is one. -/
def tmod (t : Tab α) (k : Nat) (f : α → α) : Tab α := t.map (fun e => if e.1 == k then (k, f e.2) else e)

/-- The keys of a table. -/
def tkeys (t : Tab α) : List Nat := t.map (·.1)

/-- The lowest number from `k` on, looked for at most `fuel` times, that no key takes (log 9). -/
def firstFree (keys : List Nat) : Nat → Nat → Nat
  | 0, k => k
  | fuel + 1, k => if keys.contains k then firstFree keys fuel (k + 1) else k

/-- The lowest number from `lo` below `lo + n` that no key takes (log 9). -/
def lowestFree (keys : List Nat) (lo n : Nat) : Option Nat :=
  let k := firstFree keys keys.length lo
  if k < lo + n then some k else none

/-- A key that the table does not use: the lowest one (log 9). -/
def freshKey (t : Tab α) : Nat := firstFree (tkeys t) t.length 0

/-! ## The flat memory

A key is `space * 2^64 + address`. A byte that no entry lists reads 0 (log 2). -/

def spaceSize : Nat := 2 ^ 64
def spHost : Nat := 0
def spGddr : Nat := 1
def spCxl : Nat := 2

def spSlab (k : Nat) : Nat := 4 + k
def spAccel (g : Nat) : Nat := 0x100 + g
def spTile (t : Nat) : Nat := 0x200 + t
def spImem (t : Nat) : Nat := 0x300 + t
def spFwRam (p : Nat) : Nat := 0x400 + p
def spFwImem (p : Nat) : Nat := 0x500 + p
def spFlash (i : Nat) : Nat := 0x600 + i
def spMbox (m : Nat) : Nat := 0x1000 + m

/-- The key of an address of a space. -/
def mkey (space addr : Nat) : Nat := space * spaceSize + addr

/-! ## Regions of slab-shared SRAM (Table 1-2), in the table's order in each slab -/

def slabFwData : Nat := 0x1E80000
def slabDump : Nat := 0x2680000

/-- Space and address of offset `o` of the firmware data region: 8 MiB in each slab. -/
def fwDataAt (o : Nat) : Nat × Nat := (spSlab (o / 2 ^ 23), slabFwData + o % 2 ^ 23)

/-- Offset of a processor's slot in the crash-dump area: scheduler core, power-management core, security core, cluster control
cores; the index lies behind them (R465, log 128). -/
def dumpOff (p : Nat) : Nat :=
  match p with
  | 2 => 0
  | 1 => 2 * 2 ^ 20
  | 0 => 3 * 2 ^ 20
  | n => 3 * 2 ^ 20 + 2 ^ 18 * (n - 2)

/-- Key of the first byte of a processor's crash dump: the area holds 2 MiB in each slab. -/
def dumpKey (p : Nat) : Nat := mkey (spSlab (dumpOff p / 2 ^ 21)) (slabDump + dumpOff p % 2 ^ 21)

/-- Key of a processor's entry in the dump index, the last 768 KiB of the area (R465; an entry is one header, log 49). -/
def dumpIndexKey (p : Nat) : Nat := mkey (spSlab 3) (slabDump + 2 ^ 21 - 786432 + 64 * p)

/-- One byte of memory: what an unlisted byte reads as is 0 (log 2). -/
def mrd (m : List Host.Cell) (k : Nat) : Byte := (tget m k).getD 0

/-- Writes one byte; a zero byte is not listed. -/
def mwr (m : List Host.Cell) (k : Nat) (b : Byte) : List Host.Cell := if b = 0 then tdel m k else tset m k b

/-- `n` bytes from a key upward. -/
def mrdN (m : List Host.Cell) (k : Nat) : Nat → List Byte
  | 0 => []
  | n + 1 => mrd m k :: mrdN m (k + 1) n

/-- Writes bytes from a key upward. -/
def mwrN (m : List Host.Cell) (k : Nat) : List Byte → List Host.Cell
  | [] => m
  | b :: bs => mwrN (mwr m k b) (k + 1) bs

/-- The keys of a list of cells rise strictly. -/
def risingFrom : Nat → List Host.Cell → Bool
  | _, [] => true
  | lo, (k, _) :: r => decide (lo ≤ k) && risingFrom (k + 1) r

/-- Canonical form: rising keys and no listed zero. -/
def Memory.wf (m : List Host.Cell) : Bool := risingFrom 0 m && m.all (fun c => c.2 != 0)

/-- Takes every listed byte of a range out: the range reads 0. -/
def clearRange (m : List Host.Cell) (k n : Nat) : List Host.Cell := m.filter (fun c => !(decide (k ≤ c.1 ∧ c.1 < k + n)))

/-- Copies a range onto another one of the same length. -/
def copyRange (m : List Host.Cell) (src dst n : Nat) : List Host.Cell :=
  (m.filter (fun c => decide (src ≤ c.1 ∧ c.1 < src + n))).foldl (fun a c => tset a (c.1 - src + dst) c.2) (clearRange m dst n)

/-! ## CRCs -/

/-- One step of a reflected CRC over a bit. -/
def crcBit (poly c : Nat) : Nat := if c % 2 == 1 then (c / 2) ^^^ poly else c / 2

/-- Eight steps. -/
def crcByte (poly c : Nat) (b : Byte) : Nat :=
  crcBit poly (crcBit poly (crcBit poly (crcBit poly (crcBit poly (crcBit poly (crcBit poly (crcBit poly (c ^^^ b.toNat))))))))

/-- CRC-32C (Castagnoli), reflected, initial value and final xor all ones. -/
def crc32c (bs : List Byte) : Nat := (bs.foldl (crcByte 0x82F63B78) 0xFFFFFFFF) ^^^ 0xFFFFFFFF

/-- CRC-64/XZ: reflected ECMA-182 polynomial, initial value and final xor all ones. -/
def crc64 (bs : List Byte) : Nat :=
  (bs.foldl (crcByte 0xC96C5795D7870F42) 0xFFFFFFFFFFFFFFFF) ^^^ 0xFFFFFFFFFFFFFFFF

end Sys2Proof.Machine
end

