-- ==== Sys2Proof/Machine/Derusk.lean ====
section
/-! DEFINITION. Derusk and Derusk-S (04): syllables, bundles, the checks made before a bundle executes, and index arithmetic. -/

namespace Sys2Proof.Machine

open Sys2Proof

/-! ## Exception causes (Table 4-12) -/

def excIllSlot : Nat := 0x0001
def excIllBundle : Nat := 0x0002
def excIllOp : Nat := 0x0003
def excIllFormat : Nat := 0x0004
def excIllMode : Nat := 0x0005
def excProtAddr : Nat := 0x0010
def excProtWindow : Nat := 0x0011
def excProtResident : Nat := 0x0012
def excMisalign : Nat := 0x0013
def excProtImem : Nat := 0x0014
def excIoPort : Nat := 0x0020
def excIoTally : Nat := 0x0021
def excIoRelease : Nat := 0x0022
def excIoDma : Nat := 0x0023
def excStackOver : Nat := 0x0030
def excStackUnder : Nat := 0x0031

/-! ## Syllables (R108) -/

/-- The stop bit. -/
def sylStop (w : Nat) : Bool := bitOf 31 w
/-- The slot code: 0 C, 1 A, 2 L, 3 M, 4 V, 5 S, 6 X. -/
def sylSlot (w : Nat) : Nat := bitsOf 30 28 w
def sylOp (w : Nat) : Nat := bitsOf 27 24 w

/-- Sign extension of the low `n` bits of a number. -/
def sextN (n v : Nat) : Int := if v % 2 ^ n ≥ 2 ^ (n - 1) then (v % 2 ^ n : Nat) - (2 ^ n : Nat) else (v % 2 ^ n : Nat)
/-- A number modulo 2^32. -/
def wrap32 (i : Int) : Nat := (i % 4294967296).toNat
/-- Signed value of a 32-bit number. -/
def signed32 (v : Nat) : Int := sextN 32 v

/-- Syllables of the bundle at a syllable index: up to the first stop bit, at most eight, none beyond the last index. -/
def fetchBundle (rd : Nat → Nat) (top : Nat) : Nat → Nat → List Nat
  | 0, _ => []
  | fuel + 1, pc =>
    if pc > top then []
    else
      let w := rd pc
      if sylStop w then [w] else w :: fetchBundle rd top fuel (pc + 1)

/-- The syllable of a slot. -/
def slotOf (b : List Nat) (k : Nat) : Option Nat := b.find? (fun w => sylSlot w == k)

/-! ## Fields of the M, V and X slots (R126, R131, R134) -/

def mMop (w : Nat) : Nat := bitsOf 27 25 w
def mAfmt (w : Nat) : Nat := bitsOf 24 21 w
def mWfmt (w : Nat) : Nat := bitsOf 20 17 w
def mAsrc (w : Nat) : Nat := bitsOf 16 14 w
def mWsrc (w : Nat) : Nat := bitsOf 13 12 w
def mCount (w : Nat) : Nat := bitsOf 7 0 w + 1
/-- Bytes of an activation column and of a weight row (R127). -/
def mColBytes (w : Nat) : Nat := 8 * fmtBits (mAfmt w)
def mRowBytes (w : Nat) : Nat := 4 * fmtBits (mWfmt w)
/-- The FIFO that a sequence reads, if it reads one. -/
def mFifo (w : Nat) : Option Nat := if mAsrc w < 4 then some (mAsrc w) else none

def vVop (w : Nat) : Nat := bitsOf 27 23 w
def vCol (w : Nat) : Bool := bitOf 22 w
def vIdx (w : Nat) : Nat := bitsOf 21 16 w
def vIsel (w : Nat) : Bool := bitOf 15 w
def vSeg (w : Nat) : Nat := bitsOf 14 12 w
def vCvt (w : Nat) : Byte := BitVec.ofNat 8 w
/-- The V operations that take the L line. -/
def vTakesLine (op : Nat) : Bool := decide (2 ≤ op ∧ op ≤ 7)
def vIsStore (w : Nat) : Bool := vVop w == 9

/-- Elements of a row or column. -/
def vLen (col : Bool) : Nat := if col then 64 else 32

/-- A segment (Table 4-9): first element, elements, byte offset in the line, bytes. -/
structure Seg where
  first : Nat
  count : Nat
  off : Nat
  len : Nat
  deriving DecidableEq, Repr

def segOf (width : Nat) (col : Bool) (s : Nat) : Seg :=
  let bytes := vLen col * width / 8
  if bytes ≥ 64 then { first := s * (512 / width), count := 512 / width, off := 0, len := 64 }
  else { first := 0, count := vLen col, off := s * bytes, len := bytes }

/-- Segments of a row or column. -/
def segCount (width : Nat) (col : Bool) : Nat :=
  let bytes := vLen col * width / 8
  if bytes ≥ 64 then bytes / 64 else 64 / bytes

def xIn (w : Nat) : Bool := sylOp w == 0
def xOut (w : Nat) : Bool := sylOp w == 1
def xPort (w : Nat) : Nat := bitsOf 23 12 w
def xKind (w : Nat) : Nat := bitsOf 11 10 w

/-! ## Checks of one syllable (R109) -/

def specMode (w : Nat) : Nat := bitsOf 23 21 w
def specVal (w : Nat) : Nat := bitsOf 20 0 w

/-- Check of an address specifier (R113). -/
def specCheck (w : Nat) : Nat :=
  if specMode w = 3 ∧ specVal w ≠ 0 then excIllOp else if specMode w > 5 then excIllMode else 0

def cCheck (scalar : Bool) (w : Nat) : Nat :=
  match sylOp w with
  | 0 | 9 | 10 => if bitsOf 23 0 w ≠ 0 then excIllOp else 0
  | 11 => if scalar ∨ bitsOf 23 0 w ≠ 0 then excIllOp else 0
  | 7 | 8 => if bitsOf 23 16 w ≠ 0 then excIllOp else 0
  | 1 | 2 | 3 | 4 | 5 | 6 => if bitOf 22 w ∧ bitsOf 21 12 w ≠ 0 then excIllOp else 0
  | _ => excIllOp

def aCheck (w : Nat) : Nat :=
  let op := sylOp w
  let sel := bitOf 22 w
  let imm := bitsOf 21 0 w
  if op > 12 then excIllOp
  else if sel ∧ imm ≠ 0 ∧ op ≠ 11 ∧ op ≠ 12 then excIllOp
  else if op = 3 ∧ (sel ∨ imm / 65536 ≠ 0) then excIllOp
  else if (op = 7 ∨ op = 8 ∨ op = 9) ∧ !sel ∧ imm / 32 ≠ 0 then excIllOp
  else 0

/-- Derusk-S has no stream FIFOs: a FIFO operation is a reserved one there (log 26). -/
def lCheck (scalar : Bool) (w : Nat) : Nat :=
  match sylOp w with
  | 0 => specCheck w
  | 1 => if scalar ∨ bitsOf 23 2 w ≠ 0 then excIllOp else 0
  | _ => excIllOp

def mCheck (w : Nat) : Nat :=
  if mMop w > 1 ∨ bitsOf 11 8 w ≠ 0 then excIllOp
  else if (mFifo w).isSome ∧ fmtMx (mAfmt w) ∧ mCount w % 2 = 1 then excIllOp
  else if !fmtMac (mAfmt w) ∨ !fmtMac (mWfmt w) then excIllFormat
  else if mAsrc w > 5 ∨ mWsrc w = 3 ∨ (mWsrc w = 2 ∧ mAsrc w ≥ 4) then excIllMode
  else 0

def vCheck (w : Nat) : Nat :=
  let op := vVop w
  let fmt := cvtFmt (vCvt w)
  if op = 0 ∨ op > 9 ∨ bitsOf 11 8 w ≠ 0 then excIllOp
  else if op = 1 then (if bitsOf 22 0 w ≠ 0 then excIllOp else 0)
  else if vCol w ∧ vIdx w > 31 ∧ !vIsel w then excIllOp
  else if (cvtRm (vCvt w)).isNone then excIllOp
  else if fmtTile fmt ∧ vSeg w ≥ segCount (fmtBits fmt) (vCol w) then excIllOp
  else if !fmtTile fmt then excIllFormat
  else 0

def sCheck (scalar : Bool) (w : Nat) : Nat :=
  match sylOp w with
  | 0 | 1 | 2 => specCheck w
  | 3 | 4 => if scalar ∨ bitsOf 23 1 w ≠ 0 then excIllOp else 0
  | _ => excIllOp

/-- An IN of KIND 11 names no kind: a reserved field. -/
def xCheck (w : Nat) : Nat :=
  if sylOp w > 1 ∨ (sylOp w = 0 ∧ xKind w = 3) then excIllOp
  else if bitsOf 9 0 w ≠ 0 ∧ !(xOut w && xKind w == 3) then excIllOp
  else 0

/-- The checks ILL_OP, ILL_FORMAT, ILL_MODE of a syllable in its slot. -/
def fieldCheck (scalar : Bool) (w : Nat) : Nat :=
  match sylSlot w with
  | 0 => cCheck scalar w
  | 1 => aCheck w
  | 2 => lCheck scalar w
  | 3 => mCheck w
  | 4 => vCheck w
  | 5 => sCheck scalar w
  | _ => xCheck w

/-! ## Checks of a bundle (R109, R117, R125, R132, R134) -/

/-- Registers that a bundle may write, for R117: IX, IY, MSPA, MSPW, VSLP, VSSP. -/
def specWrites (w : Nat) : List Nat :=
  if specMode w = 4 then [0] else if specMode w = 5 then [1] else []

def sylWrites (w : Nat) : List Nat :=
  match sylSlot w with
  | 1 => if sylOp w ≤ 11 then [if bitOf 23 w then 1 else 0] else []
  | 2 => if sylOp w = 0 then specWrites w else []
  | 3 =>
    if mMop w > 1 then []
    else (if mAsrc w = 4 ∨ mWsrc w = 2 then [0] else []) ++ (if mWsrc w = 0 then [1] else []) ++
    (if fmtMx (mAfmt w) ∧ mAsrc w ≥ 4 then [2] else []) ++ (if fmtMx (mWfmt w) then [3] else [])
  | 4 =>
    if vVop w ≠ 1 ∧ fmtMx (cvtFmt (vCvt w)) then
      (if vTakesLine (vVop w) then [4] else if vIsStore w then [5] else [])
    else []
  | 5 => if sylOp w ≤ 2 then specWrites w else []
  | 6 =>
    if xOut w then (if 0x20 ≤ xPort w ∧ xPort w ≤ 0x23 then [xPort w - 0x20 + 2] else [])
    else if xIn w then (if xKind w = 1 then [0] else if xKind w = 2 then [1] else [])
    else []
  | _ => []

/-- FIFOs that a syllable pops. A syllable of a reserved operation writes and pops nothing. -/
def sylPops (w : Nat) : List Nat :=
  match sylSlot w with
  | 2 => if sylOp w = 1 then [w % 4] else []
  | 3 => if mMop w > 1 then [] else (mFifo w).toList
  | 6 => if xIn w ∧ xKind w = 0 ∧ xPort w < 4 then [xPort w] else []
  | _ => []

/-- Has a consumer its producer in the bundle? -/
def hasProducer (b : List Nat) (w : Nat) : Bool :=
  match sylSlot w with
  | 4 => !vTakesLine (vVop w) || (slotOf b 2).isSome
  | 5 =>
    match sylOp w with
    | 0 | 3 => (slotOf b 4).any vIsStore
    | 1 | 4 => (slotOf b 2).isSome
    | 2 => (slotOf b 6).any (fun x => xIn x && xKind x == 0)
    | _ => true
  | 6 =>
    if xKind w ≠ 0 then true
    else if xOut w then (slotOf b 2).isSome
    else !xIn w || (slotOf b 5).any (fun x => sylOp x == 2)
  | _ => true

/-- The cause of one syllable, given the slot before it and what earlier syllables write and pop. A clash belongs to the
later of its two syllables, a missing producer to the consumer (log 27). -/
def sylCause (scalar : Bool) (b : List Nat) (prev : Option Nat) (wr pops : List Nat) (w : Nat) : Nat :=
  let k := sylSlot w
  if k = 7 ∨ (scalar ∧ (k = 3 ∨ k = 4)) then excIllSlot
  else if prev.any (fun p => decide (k ≤ p)) || (k == 6 && !sylStop w) || (sylWrites w).any wr.contains ||
      (sylPops w).any pops.contains || !hasProducer b w then excIllBundle
  else fieldCheck scalar w

def bundleScan (scalar : Bool) (b : List Nat) : List Nat → Option Nat → List Nat → List Nat → Nat
  | [], _, _, _ => 0
  | w :: ws, prev, wr, pops =>
    let c := sylCause scalar b prev wr pops w
    if c ≠ 0 then c else bundleScan scalar b ws (some (sylSlot w)) (wr ++ sylWrites w) (pops ++ sylPops w)

/-- The cause with which a bundle is refused before it executes; 0 for none (R109, R110). -/
def bundleCause (scalar : Bool) (b : List Nat) : Nat :=
  let c := bundleScan scalar b b none [] []
  if c ≠ 0 then c
  else match b.getLast? with
    | some w => if sylStop w then 0 else excProtImem
    | none => excProtImem

/-! ## Control and index arithmetic (R120, R123, R113) -/

/-- Is a compare-and-branch taken? -/
def branchTaken (w ix iy : Nat) : Bool :=
  let a := if bitOf 23 w then iy else ix
  let b := if bitOf 22 w then (if bitOf 23 w then ix else iy) else wrap32 (sextN 10 (bitsOf 21 12 w))
  match sylOp w with
  | 1 => a == b
  | 2 => a != b
  | 3 => decide (signed32 a < signed32 b)
  | 4 => decide (signed32 a ≥ signed32 b)
  | 5 => decide (a < b)
  | _ => decide (a ≥ b)

/-- Where a C syllable sends the processor: next index, return stack, cause. -/
structure Flow where
  pc : Nat
  rstack : List Nat
  exc : Nat
  deriving DecidableEq, Repr

/-- The C slot over a return stack of `depth` entries and an IMEM that ends at `top`. The index behind the last syllable of
IMEM stays one past `top`, so that the next fetch finds nothing (R109); a return address has the width of an index (log 125). -/
def flowOf (depth top pc len ix iy : Nat) (rstack : List Nat) (c : Option Nat) : Flow :=
  let seq : Flow := { pc := pc + len, rstack := rstack, exc := 0 }
  match c with
  | none => seq
  | some w =>
    let op := sylOp w
    if 1 ≤ op ∧ op ≤ 6 then
      if branchTaken w ix iy then
        let n : Int := (pc : Int) + sextN 12 (bitsOf 11 0 w)
        if n < 0 ∨ n > (top : Int) then { seq with exc := excProtImem } else { seq with pc := n.toNat }
      else seq
    else if op = 7 then { seq with pc := bitsOf 15 0 w }
    else if op = 8 then
      if rstack.length ≥ depth then { seq with exc := excStackOver }
      else { pc := bitsOf 15 0 w, rstack := rstack ++ [(pc + len) % (top + 1)], exc := 0 }
    else if op = 9 then
      match rstack.getLast? with
      | none => { seq with exc := excStackUnder }
      | some r => { pc := r, rstack := rstack.dropLast, exc := 0 }
    else seq

/-- Result of an A-slot operation that touches no memory, modulo 2^32 (R112). -/
def aluOf (w ix iy : Nat) : Nat :=
  let d := if bitOf 23 w then iy else ix
  let other := if bitOf 23 w then ix else iy
  let imm := bitsOf 21 0 w
  let src := if bitOf 22 w then other else wrap32 (sextN 22 imm)
  match sylOp w with
  | 0 => (d + src) % 2 ^ 32
  | 1 => (d + 2 ^ 32 - src) % 2 ^ 32
  | 2 => src
  | 3 => imm % 65536 * 65536
  | 4 => d &&& src
  | 5 => d ||| src
  | 6 => d ^^^ src
  | 7 => d * 2 ^ (src % 32) % 2 ^ 32
  | 8 => d / 2 ^ (src % 32)
  | 9 => wrap32 (signed32 d / (2 ^ (src % 32) : Nat))
  | _ => d * src % 2 ^ 32

/-- Effective address of LDW and STW. -/
def aAddr (w ix iy : Nat) : Nat :=
  let other := if bitOf 23 w then ix else iy
  wrap32 ((if bitOf 22 w then (other : Int) else 0) + sextN 22 (bitsOf 21 0 w))

/-- Effective address of a specifier (Table 4-3). -/
def specAddr (w ix iy : Nat) : Nat :=
  match specMode w with
  | 0 => specVal w * 64
  | 1 => wrap32 ((ix : Int) + sextN 21 (specVal w))
  | 2 => wrap32 ((iy : Int) + sextN 21 (specVal w))
  | 3 => (ix + iy) % 2 ^ 32
  | 4 => ix
  | _ => iy

/-- Post-increment of a specifier. -/
def specUpdate (w ix iy : Nat) : List (Nat × Nat) :=
  match specMode w with
  | 4 => [(0, wrap32 ((ix : Int) + sextN 21 (specVal w)))]
  | 5 => [(1, wrap32 ((iy : Int) + sextN 21 (specVal w)))]
  | _ => []

/-- The value that an OUT of a value kind carries. -/
def xValue (w ix iy : Nat) : Nat :=
  match xKind w with
  | 1 => ix
  | 2 => iy
  | _ => bitsOf 9 0 w

end Sys2Proof.Machine
end

