-- ==== Sys2Proof/Machine/Types/Base.lean ====
section
/-! DEFINITION. State of the chip as a whole, the registers shared by all blocks, mailboxes, firmware processors, recorder, partitions and functions. -/

namespace Sys2Proof.Machine

/-! ## Registers every block has (19) -/

/-- ERRSTAT: the first dropped write of a block (R525). -/
structure ErrStat where
  valid : Bool
  ovf : Bool
  cause : Nat
  offset : Nat
  /-- QE_ERRSTAT DB and SB_ERRSTAT SLOT: the drop was at a doorbell lane or a task slot. -/
  door : Bool
  deriving DecidableEq, Repr

/-- DEV_BADADDR (R532). -/
structure BadAddr where
  valid : Bool
  write : Bool
  bar2 : Bool
  offset : Nat
  deriving DecidableEq, Repr

/-- The registers shared by all blocks. A counter's key is `block * 64 + c`; an absent entry holds its reset value. -/
structure Regs where
  counters : Tab DWord
  snaps : Tab DWord
  err : Tab ErrStat
  badAddr : Tab BadAddr
  scratch : Tab DWord
  deriving DecidableEq, Repr

/-! ## Mailboxes (16) -/

/-- The command in service at a mailbox, for the work that answers it later: `gen` counts the commands that the
mailbox gave up without a response (R441, R488). -/
structure MbRef where
  func : Nat
  urgent : Bool
  gen : Nat
  deriving DecidableEq, Repr

/-- A request as copied at GO (Table 16-1) with its payload bytes. -/
structure Req where
  opcode : Nat
  flags : Nat
  part : Nat
  tag : Nat
  length : Nat
  /-- a reserved header field is non-zero -/
  rsvd : Bool
  payload : List Byte
  deriving DecidableEq, Repr

/-- What a response carries beside its header: the numbers of a result, and NEXT of a readback (R458). -/
structure Body where
  rows : List (List Nat)
  next : Option Nat
  deriving DecidableEq, Repr

structure Resp where
  status : Nat
  tag : Nat
  opcode : Nat
  body : Body
  deriving DecidableEq, Repr

/-- Where a mailbox's command stands (R456, R457, R461). -/
inductive MbPhase where
  | idle
  /-- copied at GO and not yet served -/
  | waiting
  /-- in service; `committed` past its commit point -/
  | running (committed : Bool)
  /-- the response is determined and not yet written whole -/
  | answered
  deriving DecidableEq, Repr

structure Mailbox where
  irq : Bool
  vec : Nat
  /-- MB_STAT STATE: 0 IDLE, 1 BUSY, 2 DONE -/
  state : Nat
  tag : Nat
  phase : MbPhase
  req : Option Req
  resp : Option Resp
  gen : Nat
  /-- local counter at GO -/
  goAt : Nat
  /-- cursors returned to this mailbox (R458), with the opcode they belong to -/
  cursors : List (Nat × Nat)
  /-- processor that serves the request in service -/
  proc : Nat
  deriving DecidableEq, Repr

/-! ## Firmware processors (16, 04) -/

inductive PState where
  | running
  | restarting
  | switching
  | failed
  | stopped
  deriving DecidableEq, Repr

/-- A component of a firmware image: where its bytes lie in the image, its entry, its digest (R416). -/
structure Comp where
  target : Nat
  off : Nat
  len : Nat
  entry : Nat
  digest : BitVec 256
  deriving DecidableEq, Repr

/-- A firmware image as a processor runs it: BUILD and SVN, and the entry and the digest of its component. -/
structure FwImage where
  build : Nat
  svn : Nat
  entry : Nat
  digest : BitVec 256
  /-- where the component's bytes lie in the GDDR7 reserve while it waits to be switched to -/
  body : Nat
  len : Nat
  deriving DecidableEq, Repr

/-- The header of a crash dump (Table 16-7); its bytes lie in the processor's slot of the crash-dump area. -/
structure Dump where
  cause : Nat
  exc : Nat
  pc : Nat
  time : Nat
  build : Nat
  seq : Nat
  len : Nat
  deriving DecidableEq, Repr

inductive Activation where
  | none
  | armed
  | deferred
  deriving DecidableEq, Repr

/-- Registers of a processor: the scalar part of Table 4-2, and whether a bundle waits whole (R116). -/
structure CoreRegs where
  ix : Word
  iy : Word
  pc : Nat
  rstack : List Nat
  waiting : Bool
  /-- a HALT has taken effect (R121) -/
  halted : Bool
  deriving DecidableEq, Repr

structure Proc where
  pstate : PState
  act : Activation
  dump : Option Dump
  dumpLost : Bool
  restarts : Nat
  crashes : Nat
  /-- local-counter times of the crashes within the last 10 minutes (R464) -/
  crashTimes : List Nat
  active : FwImage
  previous : Option FwImage
  /-- the image of an armed or deferred activation, and that of the switch in progress or in its 10 s window (R471) -/
  arming : Option FwImage
  target : Option FwImage
  inbox : List (List Byte)
  lcnth : Word
  core : CoreRegs
  deriving DecidableEq, Repr

/-- The staged image (R467): BUILD, SVN, its components, and its bytes' place in the GDDR7 reserve. -/
structure StagedImage where
  build : Nat
  svn : Nat
  comps : List Comp
  addr : Nat
  len : Nat
  deriving DecidableEq, Repr

/-- A change staged over more than one unit (R39, R473). -/
inductive StagedKind where
  /-- COMMIT_RULES: units are the two pipeline halves -/
  | rules
  /-- SET_GROUP_MODE: units are the two collective units -/
  | groupMode (handle fmt effSeq : Nat)
  /-- SET_REFILL, in quarters of a microsecond: units are the two pipeline halves (R334) -/
  | refill (quarters : Nat)
  deriving DecidableEq, Repr

/-- Block kind of the two units of a change: 2 collective units, 3 pipeline halves (Table 17-5). -/
def StagedKind.block : StagedKind → Nat
  | .rules => 3
  | .groupMode _ _ _ => 2
  | .refill _ => 3

structure StagedChange where
  epoch : Nat
  kind : StagedKind
  mb : MbRef
  /-- bitmap of the units that still hold the staged settings -/
  units : Nat
  deriving DecidableEq, Repr

structure Fw where
  procs : Tab Proc
  staged : Option StagedImage
  epoch : Nat
  /-- changes staged and not yet switched or discarded, oldest first -/
  changes : List StagedChange
  deriving DecidableEq, Repr

/-! ## Event recorder (16) -/

/-- Rate settings and bucket of a code (R477). Tokens are counted in units of 1e-8 record. -/
structure EvCode where
  rate : Nat
  burst : Nat
  tokens : Nat
  at' : Nat
  suppressed : Nat
  deriving DecidableEq, Repr

structure EvRec where
  pos : Nat
  bytes : List Byte
  deriving DecidableEq, Repr

inductive Flush where
  | none
  /-- a fault flush; its cause (1 fault, 3 EVT_FLUSH) -/
  | fault (cause : Nat)
  | power
  deriving DecidableEq, Repr

/-- A flush kept in a flash event-log slot (R480). -/
structure FlashSlot where
  slot : Nat
  seq : Nat
  cause : Nat
  time : Nat
  wpos : Nat
  recs : List EvRec
  deriving DecidableEq, Repr

structure Recorder where
  recs : List EvRec
  wpos : Nat
  nextSlot : Nat
  flush : Flush
  /-- PWRFAIL_N holds the recorder: no record but FLUSH is admitted (R482) -/
  held : Bool
  /-- the FLUSH record of a power-fail flush that has ended is due when the recorder resumes (R482) -/
  owed : Bool
  codes : Tab EvCode
  /-- bits [63:32] of the counter at the record before (R476) -/
  lastHi : Option Nat
  seq : Nat
  slots : List FlashSlot
  deriving DecidableEq, Repr

/-! ## Partitions and functions (15) -/

/-- What a partition holds of the pools, and its settings. -/
structure Part where
  destroying : Bool
  /-- mailbox whose PART_DESTROY waits -/
  destroyer : Option MbRef
  expert : Bool
  slots : Nat
  qps : Nat
  cqs : Nat
  passes : Nat
  tallies : Nat
  namespaces : Nat
  allot : List TierRange
  /-- checkpoint staging grant (R374): slab, base, size -/
  staging : List (Nat × Nat × Nat)
  /-- transmit grant (R342): group node, class range, queue range -/
  txGrant : Option (Nat × (Nat × Nat) × (Nat × Nat))
  /-- latency tolerance in microseconds (R506) -/
  latTol : Nat
  /-- key slot limit and clear-load permission (R406) -/
  keyLimit : Nat
  keyClear : Bool
  /-- highest storage class (R369): 0 urgent to 3 low as the chapter numbers them -/
  classLimit : Nat
  /-- cap on accumulation SRAM in KiB (R295) -/
  accumShare : Nat
  /-- manifest trust list: public-key digests (R390) -/
  trust : List (BitVec 256)
  deriving DecidableEq, Repr

inductive FState where
  | disabled
  | enabled
  | quiescing
  deriving DecidableEq, Repr

structure Func where
  fstate : FState
  part : Nat
  qcause : Nat
  /-- state after the quiesce in progress -/
  after : FState
  /-- an FLR completes when the quiesce ends (R443) -/
  flr : Bool
  /-- local state is reset when the quiesce ends (R444) -/
  resetAtEnd : Bool
  /-- 90 ms of the quiesce have passed: what ran under the function has ended (R441) -/
  overdue : Bool
  /-- FUNC_DISABLE commands answered when the quiesce ends -/
  waiters : List MbRef
  d3 : Bool
  bme : Bool
  tenBit : Bool
  /-- Completion Timeout value code of Device Control 2 -/
  cto : Nat
  unmasked : List Nat
  pendingBits : List Nat
  deriving DecidableEq, Repr

/-- The physical function's link and Device Control settings, VF Enable, and the identification of its configuration space (R1). -/
structure Endpoint where
  vendorId : Nat
  deviceId : Nat
  revisionId : Nat
  mps : Nat
  mrrs : Nat
  vfEnable : Bool
  /-- configuration requests are answered with Request Retry Status -/
  rrs : Bool
  speed : Nat
  width : Nat
  flit : Bool
  bar0Mib : Nat
  bar2Mib : Nat
  vfBar2Mib : Nat
  /-- a hot reset's quiesce of the physical function is in progress -/
  hotReset : Bool
  deriving DecidableEq, Repr

/-! ## Chip: fuses, resets, boot, clocks (17, 14) -/

/-- A single-block reset in progress (R496): kind 1 to 5 of Table 17-8, index, mailbox. -/
structure BlockRst where
  kind : Nat
  index : Nat
  mb : MbRef
  deriving DecidableEq, Repr

structure Chip where
  optFuses : BitVec 256
  /-- the option block as loaded (R498) -/
  opt : BitVec 256
  serial : DWord
  rootKeys : List (BitVec 256)
  revoked : Nat
  fusedSvn : Nat
  lcount : Nat
  cause : Nat
  level : Nat
  /-- level of the reset that is asserted -/
  asserted : Option ResetLevel
  loaded : Bool
  rootLock : Bool
  refOk : Bool
  backup : Bool
  faultN : Bool
  perst : Bool
  sysRst : Bool
  pwrFail : Bool
  lowRails : List Rail
  /-- a reset waiting for the fault flush to end (R493): level and source bit -/
  flushWait : Option (ResetLevel × Nat)
  /-- DEVICE_RESET's reset, due 1 ms after its response (R503) -/
  soft : Option ResetLevel
  /-- boot: images read, image in use, rejects with the failing check of R417, recovery (R418) -/
  bootDone : Bool
  bootTried : List Nat
  bootImage : Option Nat
  rejects : List (Nat × Nat)
  recovery : Bool
  blockRsts : List BlockRst
  deriving DecidableEq, Repr

end Sys2Proof.Machine
end

