-- ==== Sys2Proof/Machine/Types/Tiles.lean ====
section
/-! DEFINITION. State of the tensor tiles, streams, bench slots, groups and jobs (03, 04). -/

namespace Sys2Proof.Machine

/-- TSTATE of BN_TILESTAT. -/
inductive TState where
  | idle
  | run
  | stalled
  | stopped
  | exception
  deriving DecidableEq, Repr, Inhabited

/-- The M sequence in flight (MSEQ of Table 4-2): its syllable, steps remaining, operand addresses, scale addresses. -/
structure MSeq where
  syl : Nat
  steps : Nat
  act : Nat
  wt : Nat
  spa : Nat
  spw : Nat
  deriving DecidableEq, Repr, Inhabited

/-- A tile-issued DMA descriptor outstanding (Table 4-11) with the transfer that carries it. -/
structure TileDma where
  va : Nat
  taddr : Nat
  len : Nat
  out : Bool
  srcFmt : Nat
  cvt : Byte
  tally : Nat
  seed : Word
  /-- place in the order of issue -/
  order : Nat
  /-- its transfer once started, and the code with which that ended -/
  xfer : Option Nat
  landed : Option Nat
  deriving DecidableEq, Repr, Inhabited

/-- A by-reference packet buffer that a tile holds (R78, R86): bytes, FIFO of its stream, slab it lies in. -/
structure NetBuf where
  len : Nat
  fifo : Nat
  slab : Nat
  deriving DecidableEq, Repr, Inhabited

/-- A tile: the state of Table 4-2, its FIFOs by port 0 to 5 (R84), its DMA slots (R135). -/
structure Tile where
  ix : Word
  iy : Word
  pc : Nat
  tstate : TState
  rstack : List Nat
  mspa : Word
  mspw : Word
  vslp : Word
  vssp : Word
  srgen : Word
  tsel : Nat
  /-- ACC[i][j] at key `32 * i + j`; an absent element is +0 -/
  acc : Tab Word
  mseq : Option MSeq
  fifos : Tab (List Byte)
  dma : Tab TileDma
  exc : Nat
  /-- a bundle waits whole (R116) -/
  waiting : Bool
  /-- the tile waits at a JBND (R122) -/
  atJbnd : Bool
  /-- by-reference buffers held, by BUFADDR -/
  bufs : Tab NetBuf
  /-- bytes that the bundle with the M sequence in flight has stored over, by data-space address: the sequence reads them as
  they were before the bundle (R116) -/
  mview : Tab Byte
  deriving DecidableEq, Repr, Inhabited

/-- A packet for a network-receive stream (R86). -/
structure NetPkt where
  tag : Nat
  port : Nat
  ver : Nat
  payload : List Byte
  deriving DecidableEq, Repr

/-- A stream bound to a FIFO (Table 3-2). -/
structure Binding where
  part : Nat
  slot : Nat
  tile : Nat
  fifo : Nat
  kind : Nat
  srcFmt : Nat
  cvt : Byte
  quota : Nat
  target : Nat
  length : Nat
  recLen : Nat
  seed : Word
  /-- state of the stream's stochastic-rounding generator -/
  gen : Word
  /-- records delivered so far (SEQ) and packets dropped -/
  seq : Nat
  drops : Nat
  /-- bytes moved by a DMA stream -/
  moved : Nat
  xfer : Option Nat
  /-- packets that wait in the packet buffer (R87), oldest first -/
  queue : List NetPkt
  /-- bytes left of each record in the input FIFO, oldest first -/
  recs : List Nat
  /-- a DMA stream that has ended (R90) -/
  ended : Bool
  unbindMb : Option MbRef
  deriving DecidableEq, Repr

/-- Table 3-4. -/
inductive WState where
  | empty
  | loading
  | resident
  | reloadPending
  | saved
  deriving DecidableEq, Repr

/-- A region being loaded: its transfer, and whether it is written and checked. -/
structure LoadItem where
  region : Region
  /-- transfers of the elements and of the scale array; none before they start -/
  xfer : Option Nat
  scaleXfer : Option Nat
  /-- source bytes read so far -/
  data : Option (List Byte)
  scales : Option (List Byte)
  /-- every source byte read so far lay in GDDR7 or the CXL tier (R93) -/
  inner : Bool
  /-- how the region ended: 0 written, else a status -/
  ended : Option Nat
  deriving DecidableEq, Repr

/-- A loaded region; it is clean if its source lay in GDDR7 or the CXL tier (R93). -/
structure Loaded where
  region : Region
  clean : Bool
  deriving DecidableEq, Repr

structure SlotSt where
  wstate : WState
  regions : List Loaded
  /-- regions staged by RELOAD_REGION (R95) -/
  staged : List Region
  loads : List LoadItem
  /-- the load in progress is a reload -/
  reload : Bool
  loadMb : Option MbRef
  deriving DecidableEq, Repr

inductive GPhase where
  | waiting
  | restoring
  | resident
  | saving
  deriving DecidableEq, Repr

/-- The group of a partition (R100). -/
structure Group where
  slots : Tab SlotSt
  /-- first bench of the placement -/
  first : Nat
  phase : GPhase
  pinned : Bool
  /-- SRAM write wait threshold (R76) -/
  portWait : Nat
  /-- local counter when the quantum started (R102) -/
  quantumAt : Nat
  /-- register state of sliced-out tiles by slot * 8 + tile (Table 3-5) -/
  saved : Tab Tile
  deriving DecidableEq, Repr

inductive JState where
  /-- armed on a tally counter -/
  | armed
  /-- held for a reload (R95) or a restore (R97) -/
  | held
  | running
  /-- every tile halted or a cause ended the job: completion code and operation-specific field -/
  | ending (code opspec : Nat)
  deriving DecidableEq, Repr

structure Job where
  part : Nat
  func : Nat
  req : JobReq
  jstate : JState
  /-- it has started its tiles -/
  ran : Bool
  deriving DecidableEq, Repr

structure Tiles where
  tiles : Tab Tile
  binds : Tab Binding
  groups : Tab Group
  jobs : Tab Job
  quantum : Nat
  deriving DecidableEq, Repr

end Sys2Proof.Machine
end

