-- ==== Sys2Proof/Machine/Types/Ckpt.lean ====
section
/-! DEFINITION. State of the checkpoint engine (13): set-ups with their halves, parity duties, jobs. -/

namespace Sys2Proof.Machine

/-- A region entry (Table 13-3), of a save, of a target, or a piece of an image with its offsets in the body (R377). -/
structure CkRegion where
  name : List Byte
  kind : Nat
  fmt : Nat
  ndim : Nat
  cvt : Byte
  shape : List Nat
  origin : List Nat
  extent : List Nat
  elem : Nat
  scale : Nat
  /-- a field that must be zero is not -/
  zeroSet : Bool
  deriving DecidableEq, Repr

inductive HState where
  | empty
  | capturing
  | captured
  | sealed
  | failed
  deriving DecidableEq, Repr

/-- A snapshot half (R380). -/
structure Half where
  hstate : HState
  step : Nat
  prot : Bool
  stored : Bool
  imgLen : Nat
  pieces : List CkRegion
  deriving DecidableEq, Repr

/-- What a contributor to a parity half has sent: bytes, and its image's length once known. -/
structure Contrib where
  addr : Nat
  got : Nat
  imgLen : Option Nat
  deriving DecidableEq, Repr

/-- A holder's or a mirror's duty for a parity group (R373, R382): memory of two halves. -/
structure Duty where
  group : Nat
  mirror : Bool
  base : Nat
  /-- STEP of the newest complete parity, and its half -/
  complete : Option (Nat × Nat)
  /-- STEP in building in the other half -/
  building : Option Nat
  from' : List Contrib
  deriving DecidableEq, Repr

structure Setup where
  part : Nat
  runId : Nat
  addrs : List Nat
  halfSize : Nat
  /-- parity group size (0 none), system size and level when it was made (R373) -/
  g : Nat
  n : Nat
  level : Nat
  halves : List Half
  duties : List Duty
  lastStep : Nat
  deriving DecidableEq, Repr

/-- A save descriptor (Table 13-2). -/
structure SaveDesc where
  runId : Nat
  step : Nat
  shardId : Nat
  wrid : Nat
  regions : Nat
  extents : Nat
  reclaim : Nat
  manExt : Extent
  /-- the zero field of MANEXT is set -/
  manZero : Bool
  repl : List Nat
  nreg : Nat
  next : Nat
  nshards : Nat
  manAddr : Nat
  capTally : Nat
  doneTally : Nat
  cq : Nat
  armTally : Nat
  armThresh : Nat
  tmo : Nat
  flags : Nat
  cls : Nat
  zeroSet : Bool
  deriving DecidableEq, Repr

/-- A restore descriptor (R388). -/
structure RestoreDesc where
  runId : Nat
  step : Nat
  wrid : Nat
  ntargets : Nat
  sources : Nat
  cls : Nat
  tally : Nat
  cq : Nat
  tmo : Nat
  nman : Nat
  targets : Nat
  manifests : Nat
  result : Nat
  zeroSet : Bool
  deriving DecidableEq, Repr

/-- A shard's entry of a manifest (Table 13-5). -/
structure ShardRec where
  shardId : Nat
  writer : Nat
  imgLen : Nat
  digest : BitVec 256
  extents : List Extent
  deriving DecidableEq, Repr

/-- A storage command of a job that waits, with the bytes of a write. -/
structure CkCmd where
  ext : Extent
  /-- extent it belongs to -/
  index : Nat
  cmd : TaskCmd
  deriving DecidableEq, Repr

/-- What a job does now. -/
inductive CkPhase where
  | armed
  | capture
  | seal
  | parity
  | drain
  /-- the manifest writer waits for records; then it commits -/
  | manifest
  | commit
  /-- restore: the manifest of candidate `i` is read, then its shards, then targets are placed -/
  | readManifest
  | readShards
  | place
  /-- rebuild streams -/
  | rebuild
  deriving DecidableEq, Repr

/-- A stream of a rebuild: its source, whether it is parity, bytes received and its length once known. -/
structure Stream where
  addr : Nat
  parity : Bool
  got : Nat
  len : Option Nat
  deriving DecidableEq, Repr

inductive CkKind where
  | save
  | restore
  | rebuild
  deriving DecidableEq, Repr

structure CkJob where
  part : Nat
  setup : Nat
  kind : CkKind
  phase : CkPhase
  half : Nat
  save : Option SaveDesc
  restore : Option RestoreDesc
  regions : List CkRegion
  extents : List Extent
  /-- region transfers outstanding (region * 2 + scale); regions of tile state still to be taken -/
  reads : List Nat
  tiles : List Nat
  writer : Bool
  skipped : Bool
  /-- storage commands still to be handed on, one after the other, and whether one is under way -/
  todo : List CkCmd
  busy : Bool
  /-- the command under way -/
  cur : Option CkCmd
  /-- extents written so far -/
  written : List Extent
  records : List ShardRec
  /-- restore: candidate, its shards, data read so far, manifests and extents rejected -/
  cand : Nat
  man : Option (List ShardRec)
  data : List Byte
  shards : List (List Byte)
  reclaim : List Extent
  source : Nat
  usedStep : Nat
  streams : List Stream
  bytes : Nat
  wrid : Nat
  cq : Nat
  tally : Nat
  deriving DecidableEq, Repr

structure Ck where
  setups : Tab Setup
  jobs : Tab CkJob
  rateGb : Nat
  deriving DecidableEq, Repr

def Half.fresh : Half := { hstate := .empty, step := 0, prot := false, stored := false, imgLen := 0, pieces := [] }
def Ck.fresh : Ck := { setups := [], jobs := [], rateGb := 0 }

end Sys2Proof.Machine
end

