-- ==== Sys2Proof/Machine/Types/Coll.lean ====
section
/-! DEFINITION. State of the two collective units (10): groups, collectives in flight, their chunks and credits. -/

namespace Sys2Proof.Machine

/-- An edge to another rank (R297): KIND 1 a roll-call address, KIND 2 a local QPN. -/
structure CEdge where
  rank : Nat
  kind : Nat
  target : Nat
  deriving DecidableEq, Repr

/-- A CREDIT that came before this rank started its SEQ. -/
structure EarlyCredit where
  seq : Nat
  phase : Nat
  rank : Nat
  count : Nat
  deriving DecidableEq, Repr

/-- A group (R296 to R300). -/
structure CGroup where
  part : Nat
  tag : Nat
  n : Nat
  rank : Nat
  fanin : Nat
  depth : Nat
  unit : Nat
  /-- the wire conversion control byte from a SEQ on, the latest change last (R314) -/
  modes : List (Nat × Byte)
  nres : Nat
  resLen : Nat
  /-- current half of each residual slot as a bitmap -/
  halves : Nat
  tmoMs : Nat
  edges : List CEdge
  /-- ring: the neighbours in the order prev, next; tree: parent first -/
  broken : Option (Nat × Nat)
  nextSeq : Nat
  early : List EarlyCredit
  /-- SEQs for which an ABORT has been sent on (R317) -/
  aborted : List Nat
  /-- ABORTs for SEQs not started: SEQ, code here, rank -/
  doomed : List (Nat × Nat × Nat)
  deriving DecidableEq, Repr

structure COperand where
  elem : Nat
  scale : Nat
  deriving DecidableEq, Repr

/-- A descriptor (Table 10-3). -/
structure CollDesc where
  op : Nat
  red : Nat
  alg : Nat
  flags : Nat
  group : Nat
  nsrc : Nat
  ndst : Nat
  count : Nat
  srcFmt : Nat
  dstCvt : Byte
  rslot : Nat
  chunk : Nat
  progress : Nat
  seed : Nat
  src : List COperand
  dst : List COperand
  /-- a field that must be zero is not -/
  zeroSet : Bool
  deriving DecidableEq, Repr

/-- A chunk to be sent on an edge. -/
structure OutChunk where
  phase : Nat
  rank : Nat
  key : Nat
  n : Nat
  bytes : List Byte
  deriving DecidableEq, Repr

/-- A chunk being worked on. -/
structure CWork where
  /-- credit for sending it is already taken (this rank's first partial) -/
  own : Bool
  /-- source reads outstanding, by number 2 * source + scale, and what they brought -/
  reads : List Nat
  src : Tab (List Byte)
  /-- contribution, then the sum so far (FP32 codes, or 32-bit integers for INT8) -/
  sum : Option (List Nat)
  /-- received wire bytes by element offset, by sending rank -/
  parts : Tab (Tab (List Byte))
  have' : Tab Nat
  /-- ranks whose chunk is whole, in order of arrival, and those combined -/
  whole : List Nat
  combined : List Nat
  /-- destination writes and sends outstanding; the rank to credit when both are zero -/
  writes : Nat
  sends : Nat
  credit : Option Nat
  deriving DecidableEq, Repr

/-- A collective. Work of the reduce phase has its chunk's key, of the gather phase the key + 2^80. -/
structure Coll where
  group : Nat
  seq : Nat
  qpn : Nat
  idx : Nat
  desc : CollDesc
  admitted : Bool
  /-- chunks granted to this rank, and used, by `phase * 65536 + rank` -/
  txGrant : Tab Nat
  txUsed : Tab Nat
  txSent : Tab Nat
  /-- chunks this rank has granted, and chunks begun -/
  rxGrant : Tab Nat
  rxBegun : List (Nat × Nat)
  starts : List Nat
  outq : List OutChunk
  works : Tab CWork
  /-- result chunks written and not yet finished, and finished -/
  landed : List Nat
  finished : List Nat
  /-- bytes written to the destinations so far -/
  bytes : Nat
  /-- every write so far went the way of the entry's completion (R261) -/
  same : Bool
  gen : Nat
  /-- cause of the end: code here and rank -/
  ended : Option (Nat × Nat)
  deriving DecidableEq, Repr

structure Cu where
  groups : Tab CGroup
  colls : Tab Coll
  nextColl : Nat
  deriving DecidableEq, Repr

def Cu.fresh : Cu := { groups := [], colls := [], nextColl := 0 }

def CWork.fresh : CWork :=
  { own := false, reads := [], src := [], sum := none, parts := [], have' := [], whole := [], combined := [], writes := 0,
    sends := 0, credit := none }

end Sys2Proof.Machine
end

