-- ==== Sys2Proof/Machine/Types/Links.lean ====
section
/-! DEFINITION. State of the Jodaul links, gangs and the roll call (07). -/

namespace Sys2Proof.Machine

/-- Table 7-1. -/
inductive LState where
  | down
  | training
  | active
  | spare
  | recal
  | failed
  | miswired
  deriving DecidableEq, Repr

/-- A DATA frame in the replay buffer: its gang frame number, how often it was sent and when last. -/
structure Unacked where
  fr : JlFrame
  gpos : Nat
  sends : Nat
  at' : Nat
  deriving DecidableEq, Repr

structure Link where
  lstate : LState
  gang : Option Nat
  pserial : DWord
  plink : Nat
  /-- next SEQ to send and next SEQ expected (R205) -/
  seqTx : Nat
  seqRx : Nat
  replay : List Unacked
  /-- a NAK waits for the expected frame -/
  nak : Bool
  /-- times of CRC failures within the last second (R206) -/
  crcTimes : List Nat
  /-- local counter at the end of the last training -/
  trainedAt : Nat
  /-- frames of credit still to be returned to the partner, by VC -/
  owed : Tab Nat
  /-- a recalibration waits for a spare (R212) -/
  recalWait : Bool
  recalMb : Option MbRef
  /-- it recalibrates once its traffic has left it (R201, R212) -/
  recalDue : Bool
  /-- the position a member recalibrated with FORCE goes back to (R212) -/
  backTo : Option Nat
  deriving DecidableEq, Repr

/-- A message (Table 7-4). -/
structure JMsg where
  op : Nat
  flags : Nat
  tag : Nat
  len : Nat
  dst : Nat
  addr : Nat
  data : List Byte
  deriving DecidableEq, Repr

/-- A frame that waits for credit or for the end of a re-form. -/
structure QFrame where
  sop : Bool
  eop : Bool
  bytes : List Byte
  deriving DecidableEq, Repr

/-- A tag outstanding on an accelerator gang (R209). -/
structure JTag where
  write : Bool
  xfer : Nat
  /-- bytes of a READ not yet arrived, and the address of its first byte -/
  left : Nat
  addr : Nat
  /-- the operation has ended and the response is late -/
  ended : Bool
  deriving DecidableEq, Repr

inductive GState where
  /-- set, and not every member has trained yet -/
  | forming
  | up
  | reforming
  | down
  deriving DecidableEq, Repr

structure Gang where
  kind : GangKind
  members : List Nat
  spares : List Nat
  gstate : GState
  grant : Option Nat
  withdraw : Option MbRef
  timeoutUs : Nat
  /-- next gang frame number to send and to deliver (R211) -/
  gposTx : Nat
  gposRx : Nat
  /-- frames sent whose credit has not come back, by VC; 64 a member may be (R203) -/
  spent : Tab Nat
  sendq : Tab (List QFrame)
  rxq : Tab JlFrame
  /-- message bytes received so far, by VC -/
  rxPart : Tab (List Byte)
  inbox : List JMsg
  tags : Tab JTag
  /-- frames from the oldest unacknowledged one on, and those that a re-form has yet to send again (R211) -/
  kept : List Unacked
  resend : List Unacked
  /-- re-form in progress: restart GPOS, REFORM sent last and how often -/
  restart : Nat
  order : List Nat
  reforms : Nat
  deriving DecidableEq, Repr

/-- The role of a peer gang in the roll call (R220). -/
inductive Role where
  | parent
  | subtree (lo hi : Nat)
  | cross
  | ringClose
  | beyond
  | unconnected
  deriving DecidableEq, Repr

/-- What a run leaves for the routing tables (R223): they are computed from it. -/
structure RouteBase where
  addr : Nat
  size : Nat
  ring : Bool
  parent : Option Nat
  roles : Tab Role
  deriving DecidableEq, Repr

structure RollCall where
  /-- RCSTATE: 0 IDLE, 1 RUNNING, 2 DONE, 3 CONFLICT -/
  rcstate : Nat
  /-- address and size of the last RESULT; the address taken in the present run -/
  addr : Nat
  taken : Nat
  size : Nat
  round : Nat
  head : DWord
  depth : Nat
  parent : Option Nat
  next : Nat
  maxHops : Nat
  budgetNs : Nat
  ring : Bool
  short : Bool
  /-- CONFLICT and SHORT collected in the present run -/
  conflict : Bool
  beyond : Bool
  roles : Tab Role
  /-- the gang whose answer to a TOKEN is awaited, and whether it has sent HOLD (R220) -/
  waiting : Option Nat
  waitHold : Bool
  /-- routing of the last successful run -/
  table : Option RouteBase
  level : Nat
  /-- level raised by SET_REDUNDANCY -/
  raised : Nat
  fwdOn : Bool
  /-- FWD traffic of each die held during a run (R221) -/
  held : List (Nat × JMsg)
  mb : Option MbRef
  deriving DecidableEq, Repr

/-- A FWD message consumed at this device for an engine (R215). -/
structure FwdIn where
  /-- I/O die it arrived on -/
  die : Nat
  src : Nat
  cls : Nat
  data : List Byte
  deriving DecidableEq, Repr

structure Jl where
  links : Tab Link
  gangs : Tab Gang
  /-- entries that SET_ROUTE has written since the last run, by die * 65536 + DST -/
  routes : Tab Nat
  rc : RollCall
  /-- CRC threshold per second and periodic interval in hours -/
  crcThresh : Nat
  recalHours : Nat
  arrived : List FwdIn
  deriving DecidableEq, Repr

def Link.fresh : Link :=
  { lstate := .down, gang := none, pserial := 0, plink := 0, seqTx := 0, seqRx := 0, replay := [], nak := false,
    crcTimes := [], trainedAt := 0, owed := [], recalWait := false, recalMb := none, recalDue := false, backTo := none }

def RollCall.fresh : RollCall :=
  { rcstate := 0, addr := 0, taken := 0, size := 0, round := 0, head := 0, depth := 0, parent := none, next := 0,
    maxHops := 65535, budgetNs := 0, ring := false, short := false, conflict := false, beyond := false, roles := [],
    waiting := none, waitHold := false, table := none, level := 0, raised := 0, fwdOn := false, held := [], mb := none }

def Jl.fresh : Jl :=
  { links := (List.range 64).map (fun n => (n, Link.fresh)), gangs := [], routes := [], rc := RollCall.fresh,
    crcThresh := 100, recalHours := 24, arrived := [] }

end Sys2Proof.Machine
end

