-- ==== Sys2Proof/Machine/Types/Out.lean ====
section
/-! DEFINITION. What the part sends to the outside: the model keeps it as a list in the order it was sent (log 1). -/

namespace Sys2Proof.Machine

/-- PCIe error reporting (AER) of a function. -/
inductive AerKind where
  | advisory
  | completionTimeout
  | completionError
  deriving DecidableEq, Repr

inductive Out where
  /-- an MSI-X message of a function's vector -/
  | msix (func vec : Nat)
  | aer (func : Nat) (kind : AerKind)
  /-- a read completed with Completer Abort -/
  | completerAbort (func : Nat)
  | hostWrite (func addr : Nat) (bytes : List Byte)
  | hostRead (func addr len tag : Nat)
  | zeroLengthRead (func addr tag : Nat)
  /-- a Jodaul frame on a link -/
  | jl (link : Nat) (fr : JlFrame)

  /-- an Ethernet frame at a port -/
  | eth (port : Nat) (bytes : List Byte)
  /-- a packet that the queue engine originates, at a port node: destination address, UDP source and destination port,
  DSCP, ECN, PCP, IPv6 flow label, whether its UDP checksum is that of the datagram or zero, UDP payload (R268, R288) -/
  | pkt (node : Nat) (dst : BitVec 128) (sport dport dscp ecn pcp flow : Nat) (sum : Bool) (payload : List Byte)
  /-- a serial storage packet -/
  | sbsp (bytes : List Byte)
  /-- a DOE data object -/
  | doe (bytes : List Byte)
  /-- answer to an I3C read: none is a NACK -/
  | i3c (value : Option (List Byte))
  /-- a CXL link disabled or enabled -/
  | cxlLink (dev : Nat) (on : Bool)
  | faultN (asserted : Bool)
  /-- the in-band interrupt of the I3C port, sent when FAULT_N asserts (R544) -/
  | i3cInterrupt
  /-- a configuration write or FLR has completed -/
  | flrDone (func : Nat)
  deriving DecidableEq, Repr

end Sys2Proof.Machine
end

