-- ==== Sys2Proof/Machine/Types/Queues.lean ====
section
/-! DEFINITION. State of queue pairs, completion queues, hall passes, tally counters (08) and of the transport (09). -/

namespace Sys2Proof.Machine

/-- A send entry as taken (Table 8-4). -/
structure SqEnt where
  op : Nat
  flags : Nat
  length : Nat
  laddr : Nat
  raddr : Nat
  key : Nat
  imm : Nat
  wrid : DWord
  opa : DWord
  opb : DWord
  tally : Nat
  deriving DecidableEq, Repr

/-- Where a started operation stands. -/
inductive OpSt where
  /-- WAIT: holds the SQ on its counter -/
  | waiting
  /-- its local data is being read -/
  | gathering (xfer : Nat)
  /-- ready to be cut into packets -/
  | ready (data : List Byte)
  /-- its packets are in the stream; responses or acknowledgement awaited -/
  | sent
  /-- its response data or local copy is being placed -/
  | placing (xfer : Nat)
  /-- a collective runs for it -/
  | coll (id : Nat)
  | done (code : Nat)
  /-- a collective has ended: code, bytes, OPSPEC -/
  | collDone (code bytes opspec : Nat)
  deriving DecidableEq, Repr

/-- A started send entry, or (`remote`) an access through a TGT 0x7 page that joins the stream (R241). -/
structure SqOp where
  idx : Nat
  ent : SqEnt
  st : OpSt
  msn : Nat
  /-- first PSN of its packets, and how many they are -/
  psn : Nat
  npsn : Nat
  /-- transfer of an engine whose remote access this is -/
  remote : Option Nat
  /-- bytes of a READ or atomic response not yet visible at LADDR -/
  left : Nat
  /-- bytes of a READ response received in order (TYPE 1) -/
  rcvd : Nat
  /-- bytes moved before it failed (R247) -/
  moved : Nat
  /-- the first of its landings that has failed, by transfer, with the code (R262) -/
  failAt : Option (Nat × Nat)
  samePath : Bool
  deriving DecidableEq, Repr

/-- A packet of the stream: waiting to be sent, or sent and unacknowledged (R277). -/
structure TxPkt where
  psn : Nat
  op : Nat
  flags : Nat
  msn : Nat
  addr : Nat
  key : Nat
  aux : Nat
  payload : List Byte
  path : Nat
  sends : Nat
  sentAt : Nat
  /-- position in the order of transmissions -/
  order : Nat
  acked : Bool
  deriving DecidableEq, Repr

/-- An available receive entry (Table 8-6). -/
structure RqEnt where
  idx : Nat
  laddr : Nat
  length : Nat
  wrid : DWord
  deriving DecidableEq, Repr

/-- Port, UDP source port, TS and PSN of a received packet: what answers it goes back on its path and echoes its TS (R271,
R283). -/
structure Via where
  port : Nat
  sport : Nat
  ts : Nat
  psn : Nat
  deriving DecidableEq, Repr

/-- An acknowledgement that has fallen due (R276). -/
structure AckDue where
  via : Via
  syndrome : Nat
  dly : Nat
  nakPsn : Nat
  deriving DecidableEq, Repr

/-- An inbound message (R273 to R276). -/
structure InMsg where
  msn : Nat
  op : Nat
  /-- bytes of the message that have arrived, and that have been placed; total once EOM was seen -/
  got : Nat
  placed : Nat
  total : Option Nat
  imm : Option Nat
  /-- first PSN, for a NAK, and the PSN of the last packet once it was seen -/
  psn : Nat
  last : Nat
  /-- address and key of its first packet, which later packets of a RoCEv2 message do not carry -/
  base : Nat
  key : Nat
  /-- transfers still placing packets of the message -/
  xfers : List Nat
  entry : Option RqEnt
  pass : Option Nat
  /-- bytes of a message for a collective unit (R298) -/
  data : List Byte
  /-- completion code of the first failure in issue order, and its transfer (R262) -/
  code : Nat
  codeX : Nat
  deriving DecidableEq, Repr

/-- An admitted packet that waits for its turn in the stream (R259, R273). -/
structure RxPkt where
  psn : Nat
  op : Nat
  flags : Nat
  msn : Nat
  addr : Nat
  key : Nat
  aux : Nat
  payload : List Byte
  pass : Option Nat
  /-- it arrived marked CE -/
  ce : Bool
  via : Via
  deriving DecidableEq, Repr

/-- The read loop of a ring (R244). -/
inductive LoopSt where
  | idle
  /-- sleeps before it reads an entry again: tries so far -/
  | sleeping (tries : Nat)
  /-- a ring access goes the way of a transfer: its number, and the tries so far -/
  | stalled (xfer tries : Nat)
  /-- the entry read has FENCE, and starts once every earlier entry has completed (R257) -/
  | fenced (entry : List Byte)
  deriving DecidableEq, Repr

/-- Transport state (Table 9-5) and the sender's and receiver's books. -/
structure Xport where
  sndNxt : Nat
  sndUna : Nat
  csp : Nat
  msnTx : Nat
  vmsnRx : Nat
  vmsnPeer : Nat
  cwnd : Nat
  srtt : Nat
  rttvar : Nat
  base : Nat
  baseAt : Nat
  rto : Nat
  nPaths : Nat
  portMask : Nat
  sportBase : Nat
  retryCnt : Nat
  rnrRetry : Nat
  penalty : Nat
  rnrWait : Bool
  rnrRefuse : Bool
  rnrPsn : Nat
  /-- NAKPSN of the RNR this sender waits on, and how often it was named -/
  rnrTxPsn : Nat
  rnrCount : Nat
  bitmap : Nat
  sqPsn : Nat
  rqPsn : Nat
  repaths : List Nat
  lastCut : Nat
  nextPath : Nat
  sentCount : Nat
  /-- packets sent since the last one with ACKREQ -/
  sinceReq : Nat
  queue : List TxPkt
  unacked : List TxPkt
  pathSent : Tab Nat
  pathLost : Tab Nat
  /-- an admitted packet has not been acknowledged; a CE mark is still to be echoed (TYPE 1: a CNP is still to be counted) -/
  ackDue : Bool
  ece : Bool
  /-- local counter at the last CNP sent (TYPE 1) -/
  cnpAt : Option Nat
  /-- admitted packets that wait for their turn, and the next PSN to start -/
  hold : List RxPkt
  execPsn : Nat
  /-- the last packet received, and those whose bytes are still being placed, by transfer -/
  via : Via
  vias : Tab Via
  /-- acknowledgements that have fallen due in this step, which are merged (R276) -/
  due : List AckDue
  /-- transmissions so far: the order of sending -/
  txOrder : Nat
  /-- MSN of the RoCEv2 message whose packets arrive -/
  roceMsn : Nat
  /-- PSN of the last packet of the last visible RoCEv2 message, and the results of its last atomics by PSN -/
  ackPsn : Nat
  roceAtomics : List (Nat × DWord)
  deriving DecidableEq, Repr

structure Qp where
  qstate : QpState
  typ : Nat
  gen : Nat
  part : Nat
  sqStat : Nat
  rqStat : Nat
  sqBase : Nat
  rqBase : Nat
  sqLog : Nat
  rqLog : Nat
  scq : Nat
  rcq : Nat
  sqCi : Nat
  sqDb : Nat
  sqComp : Nat
  rqCi : Nat
  rqDb : Nat
  peer : Nat
  peerGen : Nat
  peerAddr : BitVec 128
  txq : Nat
  mtu : Nat
  maxRd : Nat
  keySlot : Nat
  errCode : Nat
  errOp : Nat
  errIndex : Nat
  x : Xport
  ops : List SqOp
  avail : List RqEnt
  inMsgs : List InMsg
  sqLoop : LoopSt
  rqLoop : LoopSt
  /-- bound to a collective group or a storage connection by number + 1; 0 unbound -/
  bound : Nat
  deriving DecidableEq, Repr

/-- A completion entry to be written (Table 8-7) without its PHASE. -/
structure Cqe where
  wrid : DWord
  bytes : Nat
  opspec : Nat
  src : Nat
  kind : Nat
  op : Nat
  code : Nat
  flags : Nat
  /-- the counter incremented once the entry is written: partition and handle (R264) -/
  tpart : Nat
  tally : Nat
  deriving DecidableEq, Repr

structure Cq where
  part : Nat
  func : Nat
  base : Nat
  log : Nat
  vec : Nat
  modCount : Nat
  modTime : Nat
  tail : Nat
  released : Nat
  /-- armed at a doorbell INDEX -/
  arm : Option Nat
  /-- the moderation time runs since the first qualifying completion -/
  timing : Bool
  ovf : Bool
  held : List Cqe
  /-- a stalled write of the ring, by transfer -/
  stalled : Option Nat
  deriving DecidableEq, Repr

inductive PassState where
  | free
  | valid
  | revoking
  deriving DecidableEq, Repr

structure Pass where
  pstate : PassState
  gen : Nat
  rights : Nat
  part : Nat
  bind : Nat
  base : Nat
  length : Nat
  tally : Nat
  revoker : Option MbRef
  deriving DecidableEq, Repr

/-- Congestion-control parameters (Table 9-4): times in ns, fractions in ten-thousandths, which sixteenths and the default
BETA of 0.8 are whole numbers of, lengths in MTUs. -/
structure CcParams where
  targetNs : Nat
  betaM : Nat
  betaMaxM : Nat
  betaEcnM : Nat
  ai : Nat
  minW : Nat
  maxW : Nat
  initW : Nat
  baseAgeS : Nat
  rtoMinNs : Nat
  rnrDlyUs : Nat
  deriving DecidableEq, Repr

/-- A packet handed to the queue engine by the pipeline and not yet handled (R26 stage 2 to 3). -/
structure Arrived where
  die : Nat
  port : Nat
  src : BitVec 128
  ce : Bool
  udpSrc : Nat
  /-- the receiving QP -/
  qpn : Nat
  /-- a packet of a local pair (TYPE 2) -/
  loc : Bool
  /-- a RoCEv2 packet -/
  roce : Bool
  /-- bytes of the packet buffer it holds: pool and count (R324) -/
  pool : Nat
  room : Nat
  bytes : List Byte
  deriving DecidableEq, Repr

structure Fence where
  addr : BitVec 128
  qps : List Nat
  mb : Option MbRef
  deriving DecidableEq, Repr

structure Qe where
  qps : Tab Qp
  cqs : Tab Cq
  passes : Tab Pass
  /-- free indices of a partition's pool, longest free first (R250) -/
  freed : Tab (List Nat)
  nextPass : Nat
  /-- generations of QPNs that no longer exist -/
  gens : Tab Nat
  /-- counters by partition * 65536 + handle -/
  tallies : Tab DWord
  tcsel : Tab Nat
  cc : CcParams
  ptPort : Nat
  oldPort : Option Nat
  fences : List Fence
  arrived : List Arrived
  /-- collective messages received over queue pairs: QPN and bytes (R298) -/
  collIn : List (Nat × List Byte)
  deriving DecidableEq, Repr

def Via.zero : Via := { port := 0, sport := 0, ts := 0, psn := 0 }

def Xport.fresh : Xport :=
  { sndNxt := 0, sndUna := 0, csp := 0, msnTx := 0, vmsnRx := 0, vmsnPeer := 0, cwnd := 0, srtt := 0, rttvar := 0,
    base := 0, baseAt := 0, rto := 0, nPaths := 1, portMask := 0, sportBase := 0, retryCnt := 7, rnrRetry := 7,
    penalty := 0, rnrWait := false, rnrRefuse := false, rnrPsn := 0, rnrTxPsn := 0, rnrCount := 0, bitmap := 0, sqPsn := 0, rqPsn := 0,
    repaths := [], lastCut := 0, nextPath := 0, sentCount := 0, sinceReq := 0, queue := [], unacked := [],
    pathSent := [], pathLost := [], ackDue := false, ece := false, cnpAt := none, hold := [], execPsn := 0,
    via := Via.zero, vias := [], due := [], txOrder := 0, roceMsn := 0, ackPsn := 0, roceAtomics := [] }

def Qp.fresh (part gen : Nat) : Qp :=
  { qstate := .reset, typ := 0, gen := gen, part := part, sqStat := 0, rqStat := 0, sqBase := 0, rqBase := 0, sqLog := 6,
    rqLog := 6, scq := 0, rcq := 0, sqCi := 0, sqDb := 0, sqComp := 0, rqCi := 0, rqDb := 0, peer := 0, peerGen := 0,
    peerAddr := 0, txq := 0, mtu := 1, maxRd := 1, keySlot := 0xFFFFFFFF, errCode := 0, errOp := 0, errIndex := 0,
    x := Xport.fresh, ops := [], avail := [], inMsgs := [], sqLoop := .idle, rqLoop := .idle, bound := 0 }

/-- Defaults of Table 9-4 (fractions in ten-thousandths) and RNRDLY 4 µs (R274). -/
def CcParams.default : CcParams :=
  { targetNs := 5000, betaM := 8000, betaMaxM := 5000, betaEcnM := 2500, ai := 1, minW := 1, maxW := 256, initW := 16,
    baseAgeS := 10, rtoMinNs := 16000, rnrDlyUs := 4 }

def Qe.fresh : Qe :=
  { qps := [], cqs := [], passes := [], freed := [], nextPass := 0, gens := [], tallies := [], tcsel := [],
    cc := CcParams.default, ptPort := 9348, oldPort := none, fences := [], arrived := [], collIn := [] }

end Sys2Proof.Machine
end

