-- ==== Sys2Proof/Machine/Types/Pipe.lean ====
section
/-! DEFINITION. State of the packet pipeline (11): ports, packet buffer, rule sets, fragments, meters, scheduler, gate clock, rings, report cards. -/

namespace Sys2Proof.Machine

/-- An Ethernet port (R321 to R323). -/
structure PortSt where
  mode : Nat
  maxFrame : Nat
  reserveKiB : Nat
  enable : Bool
  deriving DecidableEq, Repr

/-- A rule set (R329); `hits` counts frames and bytes of the rules with COUNT (R331). -/
structure RuleSet where
  version : Nat
  rules : Tab Rule
  conn : Bool
  udf0 : Nat
  udf1 : Nat
  hits : Tab (Nat × Nat)
  deriving DecidableEq, Repr

/-- What the classifier decided for a frame (R332). -/
structure Decision where
  version : Nat
  /-- none is the default action -/
  rule : Option Nat
  action : Nat
  param : Nat
  spread : Nat
  colour : Nat
  dscp : Option Nat
  drop : Bool
  deriving DecidableEq, Repr

/-- A fragment table entry (R332). -/
structure FragEnt where
  sip : BitVec 128
  dip : BitVec 128
  proto : Nat
  id : Nat
  dec : Decision
  deriving DecidableEq, Repr

/-- A meter; buckets in units of 2^-16 byte (R334, R335). -/
structure Meter where
  set : MeterSet
  next : Option MeterSet
  tc : Nat
  te : Nat
  green : Nat
  yellow : Nat
  red : Nat
  deriving DecidableEq, Repr

/-- Where a frame's bytes are stored: a port's reserve 0 to 7, or 8 for the shared pool (R324). -/
structure Room where
  pool : Nat
  bytes : Nat
  deriving DecidableEq, Repr

/-- A frame in a transmit queue; an injected one names its slot index. -/
structure TxFrame where
  bytes : List Byte
  at' : Nat
  room : Option Room
  inject : Option Nat
  deriving DecidableEq, Repr

/-- A scheduler node or transmit queue (R337, R338). Keys: port node n, group node 0x100 + n, class node 0x1000 + n, queue
0x10000 + n. -/
structure Sched where
  set : SchedSet
  next : Option SchedSet
  /-- tokens in units of 2^-16 byte -/
  tokens : Int
  /-- frame bytes left of the object's round-robin turn (R339) -/
  deficit : Int
  /-- the child served last, by priority -/
  last : Tab Nat
  frames : List TxFrame
  /-- the QP served last -/
  lastQp : Nat
  sentFrames : Nat
  sentBytes : Nat
  drops : Nat
  deriving DecidableEq, Repr

/-- A port's timetables (R344, R345): the entry in force and the entry last applied. -/
structure Gate where
  cur : Option Timetable
  /-- with the GTIME in ns of the cycle start at which it comes into force -/
  staged : Option (Timetable × Nat)
  /-- GATES in force -/
  gates : Nat
  deriving DecidableEq, Repr

/-- A sampled queue (R347). -/
structure Hist where
  part : Nat
  k : Nat
  seen : Nat
  depth : Tab Nat
  delay : Tab Nat
  deriving DecidableEq, Repr

/-- A function's report card (R348). -/
structure Card where
  set : CardSet
  seq : Nat
  missed : Nat
  /-- the write of a card in progress, by transfer -/
  stalled : Option Nat
  deriving DecidableEq, Repr

/-- A punted frame that waits for the ring's memory. -/
structure PuntFrame where
  version : Nat
  /-- the slot's bytes: header and frame -/
  bytes : List Byte
  room : Room
  deriving DecidableEq, Repr

structure Pipe where
  ports : Tab PortSt
  /-- port nodes whose link is up -/
  up : List Nat
  /-- per port node and counter: key node * 8 + c (Table 11-7 bit 0) -/
  portCtr : Tab Nat
  /-- bytes stored per pool of `Room` -/
  used : Tab Nat
  cur : RuleSet
  staged : Option RuleSet
  retiring : List RuleSet
  lastRetired : Option RuleSet
  /-- per die, oldest first -/
  frags : Tab (List FragEnt)
  /-- refill interval in quarters of a microsecond, and a staged one -/
  refillQ : Nat
  refillNext : Option Nat
  refills : Nat
  meters : Tab Meter
  /-- settings of meters that nothing had set, until the next refill -/
  newMeters : Tab MeterSet
  sched : Tab Sched
  /-- GTIME in units of 2^-32 ns, and its advance per AONCLK cycle -/
  gtime : Nat
  incr : Nat
  gates : Tab Gate
  hists : Tab Hist
  /-- local counter at which each QP that is ready became so (R347) -/
  readyAt : Tab Nat
  punt : Option PuntSet
  puntTail : Nat
  puntWait : List PuntFrame
  puntXfer : Option Nat
  injDb : Nat
  injCi : Nat
  /-- read loop of the inject ring, and slots taken whose frames wait to be sent -/
  injLoop : LoopSt
  injBusy : List Nat
  cards : Tab Card
  deriving DecidableEq, Repr

def RuleSet.empty : RuleSet := { version := 0, rules := [], conn := true, udf0 := 0, udf1 := 0, hits := [] }

/-- A port at reset: MAXFRAME 9,216, reserve 2 MiB (R322, R323). -/
def PortSt.fresh : PortSt := { mode := 0, maxFrame := 9216, reserveKiB := 2048, enable := false }

def Gate.fresh : Gate := { cur := none, staged := none, gates := 255 }

/-- A scheduler object that nothing has set: it has no parent and carries nothing (R337). -/
def Sched.fresh : Sched :=
  { set := { parent := none, prio := 0, weight := 1, shaper := { rateMbps := 0, burst := 1024, lenMode := 0, overhead := 0 },
             tc := 0, dscp := 0, pcp := 0, qlimit := 0 },
    next := none, tokens := 1024 * 65536, deficit := 0, last := [], frames := [], lastQp := 0, sentFrames := 0,
    sentBytes := 0, drops := 0 }

def Pipe.fresh : Pipe :=
  { ports := (List.range 8).map (fun n => (n, PortSt.fresh)), up := [], portCtr := [], used := [], cur := RuleSet.empty,
    staged := none, retiring := [], lastRetired := none, frags := [], refillQ := 4, refillNext := none, refills := 0,
    meters := [], newMeters := [], sched := [], gtime := 0, incr := 10 * 2 ^ 32, gates := [], hists := [], readyAt := [], punt := none, puntTail := 0,
    puntWait := [], puntXfer := none, injDb := 0, injCi := 0, injLoop := .idle, injBusy := [], cards := [] }

end Sys2Proof.Machine
end

