-- ==== Sys2Proof/Machine/Types/Power.lean ====
section
/-! DEFINITION. State of power and thermal management (18). -/

namespace Sys2Proof.Machine

structure Pm where
  /-- device state 0 to 4, and the deepest state allowed by SET_PSTATE_LIMIT (R505, R506) -/
  pstate : Nat
  deepest : Nat
  /-- local counter when the present state, or the last refusal or abort, began (R507, R509) -/
  since : Nat
  /-- an access to a domain that is off waits for the wake it has asked for (R45, R507) -/
  waking : Bool
  /-- POWER_LIMIT in W (R510) and T_THROTTLE in °C (R513) -/
  limitW : Nat
  tThrottle : Nat
  /-- limits that act, in the order they began: 1 absolute, 2 peak, 3 sustained, 4 thermal, 5 critical -/
  limits : List Nat
  /-- duty in sixteenths of the benches of unpinned and of pinned groups, and the halving of step 3 (R511) -/
  dutyFree : Nat
  dutyPinned : Nat
  halved : Bool
  /-- last sample in mW -/
  powerMw : Nat
  /-- accounts in µs (R512): absolute, peak, sustained; each drains at a tenth -/
  accAbs : Nat
  accPeak : Nat
  accSust : Nat
  /-- last readings of the 64 sensors in °C -/
  temps : List Nat
  emerg : Bool
  /-- the 108 °C trip has stopped tiles, collective units and SerDes (R513) -/
  tripped : Bool
  /-- wear units charged, and as written in the flash devices (R514) -/
  wear : Nat
  wearFlash : Nat
  /-- by state: name code of the last agent to refuse entry, and refusals (R509) -/
  refuse : Tab Nat
  refusals : Tab Nat
  deriving DecidableEq, Repr

def Pm.fresh : Pm :=
  { pstate := 0, deepest := 4, since := 0, waking := false, limitW := 650, tThrottle := 100, limits := [], dutyFree := 16, dutyPinned := 16,
    halved := false, powerMw := 0, accAbs := 0, accPeak := 0, accSust := 0, temps := [], emerg := false, tripped := false, wear := 0,
    wearFlash := 0, refuse := [], refusals := [] }

/-- The limit that began last: 0 for none (PM_STATUS LIMIT). -/
def Pm.acting (p : Pm) : Nat := p.limits.getLast?.getD 0

/-- Hottest reading and its sensor. -/
def Pm.hottest (p : Pm) : Nat × Nat :=
  p.temps.zipIdx.foldl (fun a t => if t.1 > a.1 then t else a) (0, 0)

end Sys2Proof.Machine
end

