-- ==== Sys2Proof/Machine/Types/Sec.lean ====
section
/-! DEFINITION. State of the cipher engine, the key stores, the descriptor rings and attestation (14). -/

namespace Sys2Proof.Machine

/-- A loaded key slot (R400, R401). Usage: 1 PT pair, 2 DATA, 3 XTS, 4 WRAP. -/
structure KeySlot where
  usage : Nat
  part : Nat
  key : List Byte
  /-- second slot of a pair: the receive key -/
  rx : Bool
  /-- invocation counter of a transmit key (R272) -/
  count : Nat
  deriving DecidableEq, Repr

/-- A cipher descriptor as taken (Table 14-4). -/
structure CipherDesc where
  op : Nat
  mode : Nat
  flags : Nat
  keySlot : Nat
  src : Nat
  dst : Nat
  length : Nat
  aadLen : Nat
  aad : Nat
  tag : Nat
  iv : List Byte
  tally : Nat
  /-- a field that must be zero is not -/
  zeroSet : Bool
  deriving DecidableEq, Repr

/-- Where a started descriptor stands. -/
inductive DescSt where
  /-- inputs are read, one transfer after the other: those read so far (source, additional data, tag) -/
  | reading (xfer : Nat) (got : List (List Byte))
  /-- computed: output, tag and outcome wait for DESCRIPTOR_DONE -/
  | computed (out tag : List Byte) (code detail : Nat)
  /-- outputs are written: transfers outstanding, then DONE -/
  | writing (xfers : List Nat) (outLen code detail : Nat)
  | done (outLen code detail : Nat)
  /-- the outcome is being written by transfers -/
  | closing (code detail : Nat)
  deriving DecidableEq, Repr

structure StartedDesc where
  idx : Nat
  desc : CipherDesc
  /-- the key as it stood when the descriptor started (R404) -/
  key : Option KeySlot
  st : DescSt
  deriving DecidableEq, Repr

/-- A partition's descriptor ring (R407). -/
structure CipherRing where
  base : Nat
  log : Nat
  func : Nat
  vec : Nat
  db : Nat
  ci : Nat
  di : Nat
  status : Nat
  loop : LoopSt
  descs : List StartedDesc
  deriving DecidableEq, Repr

/-- The SPDM responder (R422): state of the connection and the messages that signatures cover. -/
structure Spdm where
  /-- 0 start, 1 after version, 2 after capabilities, 3 after algorithms -/
  phase : Nat
  /-- messages up to ALGORITHMS -/
  transcript : List Byte
  /-- digest and certificate messages since -/
  certMsgs : List Byte
  /-- measurement messages not yet signed -/
  measMsgs : List Byte
  deriving DecidableEq, Repr

def Spdm.fresh : Spdm := { phase := 0, transcript := [], certMsgs := [], measMsgs := [] }

structure Sec where
  keys : Tab KeySlot
  rings : Tab CipherRing
  /-- mismatch times of a core in the last second (R399); cores 0-15 AES, 16-19 SHA3, 20-21 ML-DSA -/
  misses : Tab (List Nat)
  coresOut : List Nat
  /-- measurements of the components in use, by target 0 to 5 (R417, R423) -/
  measured : Tab (BitVec 256)
  spdm : Spdm
  deriving DecidableEq, Repr

def Sec.fresh : Sec :=
  { keys := [], rings := [], misses := [], coresOut := [], measured := [], spdm := Spdm.fresh }

end Sys2Proof.Machine
end

