-- ==== Sys2Proof/Machine/Types/Storage.lean ====
section
/-! DEFINITION. State of the block storage function (12): target connections, namespaces with their caches, task slots, commands, error logs, serial mode. -/

namespace Sys2Proof.Machine

/-- The work a target command belongs to. -/
inductive CidOwner where
  | task (func slot : Nat)
  /-- a cache line of a task's namespace -/
  | fill (func slot line : Nat)
  | serial
  /-- a shard read or write of a checkpoint job (13) -/
  | ckpt (job : Nat)
  deriving DecidableEq, Repr

/-- A command outstanding at a target. -/
structure CidEnt where
  owner : CidOwner
  cls : Nat
  blocks : Nat
  deriving DecidableEq, Repr

/-- A target connection (R351). -/
structure Conn where
  part : Nat
  addr : BitVec 128
  typ : Nat
  subnqn : List Byte
  hostnqn : List Byte
  admin : Nat
  /-- I/O queue pairs by class 0 urgent to 3 low -/
  io : List Nat
  depth : Nat
  online : Bool
  /-- the I/O queues are released in SPS3 (Table 12-5) -/
  released : Bool
  /-- credits of the round for high, medium, low, and the class it has reached -/
  credits : List Nat
  reached : Nat
  /-- the function served last, by class -/
  last : Tab Nat
  nextCid : Nat
  out : Tab CidEnt
  deriving DecidableEq, Repr

/-- A namespace (R352, R354, R361). -/
structure Ns where
  conn : Nat
  nsid : Nat
  bs : Nat
  blocks : Nat
  nonatomic : Bool
  attached : List Nat
  /-- read cache: base and size in the CXL tier -/
  cache : Option (Nat × Nat)
  /-- cached 64 KiB lines with their place in the cache, the most recently used first -/
  lines : List (Nat × Nat)
  deriving DecidableEq, Repr

inductive TaskPhase where
  | queued
  /-- the buffer's pages are being translated (R357) -/
  | probing (xfer : Nat)
  /-- its commands are at the target -/
  | sent
  /-- its cache lines are being filled -/
  | filling
  /-- cached data is being copied to the buffer -/
  | copying (xfer : Nat)
  /-- the outcome is known; the pass drains and the data becomes visible (R358) -/
  | closing
  deriving DecidableEq, Repr

/-- A command QUEUED or ACTIVE. -/
structure Task where
  cmd : TaskCmd
  /-- order of the GO writes -/
  order : Nat
  phase : TaskPhase
  pass : Option Nat
  /-- blocks handed to the target and blocks answered -/
  sentBlk : Nat
  doneBlk : Nat
  /-- cache lines still to be filled, those outstanding, and the outstanding ones that a modifying command has overtaken -/
  missing : List Nat
  asked : List Nat
  stale : List Nat
  code : Nat
  nvstat : Nat
  bytes : Nat
  /-- serial and checkpoint commands: the bytes to write, or those read -/
  data : List Byte
  deriving DecidableEq, Repr

/-- A task slot: bytes 0 to 47 as written, and what the SW4 writes (Table 12-1). -/
structure SlotRegs where
  raw : List Byte
  state : Nat
  code : Nat
  nvstat : Nat
  bytes : Nat
  errSeq : Nat
  deriving DecidableEq, Repr

/-- An error log entry (Table 12-3). -/
structure ErrEnt where
  seq : Nat
  slot : Nat
  opc : Nat
  code : Nat
  ns : Nat
  nvstat : Nat
  nblk : Nat
  lba : Nat
  time : Nat
  deriving DecidableEq, Repr

/-- A function's storage state. -/
structure SbFunc where
  frozen : Bool
  errSeq : Nat
  log : List ErrEnt
  lost : Nat
  /-- newest ERRSEQ that a requester has named as read (R364) -/
  readSeq : Nat
  sps : Nat
  waking : Bool
  deepest : Nat
  /-- idle times of SPS1 to SPS3 in µs -/
  idleUs : List Nat
  deriving DecidableEq, Repr

/-- The serial command that runs (R367). -/
structure Serial where
  tag : Nat
  cmd : TaskCmd
  /-- WRITE: bytes received and the range granted (offset, length, received of it) -/
  data : List Byte
  grant : Option (Nat × Nat)
  /-- READ: the target's data has arrived -/
  ready : Bool
  /-- bytes of a READ sent -/
  sent : Nat
  /-- the command is at the target -/
  atTarget : Bool
  cid : Nat
  deriving DecidableEq, Repr

structure Sb where
  conns : Tab Conn
  nss : Tab Ns
  slots : Tab SlotRegs
  tasks : Tab Task
  order : Nat
  funcs : Tab SbFunc
  serialMode : Bool
  serial : Option Serial
  /-- the last packets sent for the serial command, to answer NAK (R366) -/
  lastSent : List Byte
  weights : List Nat
  /-- commands of checkpoint jobs that have ended: job, code, bytes read -/
  ckDone : List (Nat × Nat × List Byte)
  deriving DecidableEq, Repr

def Task.fresh (c : TaskCmd) (order : Nat) : Task :=
  { cmd := c, order := order, phase := .queued, pass := none, sentBlk := 0, doneBlk := 0, missing := [], asked := [], stale := [], code := 0,
    nvstat := 0, bytes := 0, data := [] }

def SlotRegs.fresh : SlotRegs := { raw := List.replicate 48 0, state := 0, code := 0, nvstat := 0, bytes := 0, errSeq := 0 }

def SbFunc.fresh : SbFunc :=
  { frozen := false, errSeq := 0, log := [], lost := 0, readSeq := 0, sps := 0, waking := false, deepest := 3,
    idleUs := [100, 10000, 1000000] }

def Sb.fresh : Sb :=
  { conns := [], nss := [], slots := [], tasks := [], order := 0, funcs := [], serialMode := false, serial := none,
    lastSent := [], weights := [8, 4, 1], ckDone := [] }

end Sys2Proof.Machine
end

