-- ==== Sys2Proof/Machine/Types/Tiers.lean ====
section
/-! DEFINITION. State of the memory tiers (05) and of address translation with its transfers (06). -/

namespace Sys2Proof.Machine

/-! ## Memory tiers (05) -/

/-- GC_STATUS CSTATE. -/
inductive CState where
  | untrained
  | active
  | retraining
  | offline
  deriving DecidableEq, Repr

structure Chan where
  cstate : CState
  temp : Nat
  /-- lines retired to spare lines (R159), by line base -/
  remaps : List Nat
  /-- a failed burst waits for its one replay after the retraining -/
  replay : Bool
  /-- local counter at the last drift-triggered retraining (R163) -/
  driftAt : Option Nat
  /-- the check cache (R144), most recently used first: check lines by the 512 bytes of tier addresses they protect, and whether
  each is dirty -/
  checks : List (Nat × Bool)
  mb : Option MbRef
  deriving DecidableEq, Repr

inductive CxlState where
  | absent
  /-- present and not in service -/
  | present
  /-- enumerated, waiting for media ready (R148) -/
  | bringUp
  | inService
  /-- CXL_REMOVE waits for outstanding requests (R165) -/
  | removing
  /-- lost without CXL_REMOVE (R166) -/
  | lost
  deriving DecidableEq, Repr

structure CxlDev where
  cstate : CxlState
  /-- bytes of the device in service, at most 128 GiB, and whether the device holds more (R147) -/
  capacity : Nat
  truncated : Bool
  mb : Option MbRef
  deriving DecidableEq, Repr

/-- Table 5-2. -/
inductive MigState where
  | copying
  | redirecting
  | aborted
  deriving DecidableEq, Repr

structure Mig where
  part : Nat
  src : TierRange
  dst : TierRange
  rate : Nat
  mstate : MigState
  /-- bytes copied so far, from the base upward (R151) -/
  copied : Nat
  bad : Nat
  deriving DecidableEq, Repr

/-- A memory error record (Table 5-3). -/
structure MemRec where
  tier : Nat
  kind : Nat
  unit : Nat
  part : Nat
  count : Nat
  loc : Nat
  time : Nat
  symbol : Nat
  deriving DecidableEq, Repr

inductive ReserveUse where
  | qpContexts
  | passes
  | saveArea (part slot : Nat)
  | residual (group : Nat)
  | parity (duty setup : Nat)
  | stagedImage
  | previousImage (proc : Nat)
  deriving DecidableEq, Repr

/-- A reserved range of GDDR7 (R145). -/
structure Reserve where
  use : ReserveUse
  base : Nat
  size : Nat
  deriving DecidableEq, Repr

structure Tiers where
  /-- GDDR7 device density in Gbit: 16, 24 or 32 (R141) -/
  density : Nat
  chans : Tab Chan
  cxl : Tab CxlDev
  migs : Tab Mig
  /-- quarantined lines and 2 MiB regions by memory key (R158) -/
  qlines : List Nat
  qregions : List Nat
  /-- lines written whole again inside a quarantined region (R157) -/
  qcleared : List Nat
  /-- lines whose reads are held because both lists are full (R158) -/
  fatal : List Nat
  /-- times of the correctable errors of a line (R159) -/
  corr : Tab (List Nat)
  log : List MemRec
  lost : Nat
  /-- errors of a kind at a line so far: key `line * 8 + kind` -/
  counts : Tab Nat
  /-- a held line has left `fatal`: the accesses that wait for one are tried again -/
  freed : Bool
  /-- lines of clean regions that a cluster control core has still to rewrite from their source (R96) -/
  rewrites : List Nat
  reserves : List Reserve
  /-- scrub periods in seconds (R160) -/
  scrubSram : Nat
  scrubGddr : Nat
  deriving DecidableEq, Repr

/-! ## Translation (06) -/

/-- A partition's translation: SET_TRANSLATION's fields and its fault queue (R186 to R192). -/
structure Trans where
  set : Bool
  root : Nat
  rootBits : Nat
  func : Nat
  fqBase : Nat
  vec : Nat
  timeoutMs : Nat
  head : Nat
  tail : Nat
  tphase : Bool
  ovf : Bool
  /-- records written and not released -/
  unreleased : Nat
  nextTag : Nat
  deriving DecidableEq, Repr

/-- A leaf: target kind, UNIT, KEY, ADDR, rights, page size as a power of two (Table 6-2, R175). -/
structure Leaf where
  tgt : Nat
  unit : Nat
  key : Nat
  addr : Nat
  r : Bool
  w : Bool
  hp : Bool
  size : Nat
  /-- host bus address and level of its entry -/
  pte : Nat
  level : Nat
  deriving DecidableEq, Repr

/-- A TLB entry (R181); a set lists its entries most recently used first. -/
structure TlbEnt where
  part : Nat
  page : Nat
  leaf : Leaf
  deriving DecidableEq, Repr

/-- A non-leaf entry of the walk cache (R182): the table that covers `head'` at `level - 1`. -/
structure WcEnt where
  part : Nat
  level : Nat
  head' : Nat
  table : Nat
  deriving DecidableEq, Repr

structure Walk where
  part : Nat
  va : Nat
  level : Nat
  table : Nat
  func : Nat
  /-- an INVALIDATE that overlaps the walk has discarded its result (R193) -/
  discarded : Bool
  deriving DecidableEq, Repr

inductive OwnerKind where
  | tileDma
  | stream
  | image
  | sq
  | rq
  | cq
  | inbound
  /-- a responder's read for READ_REQ -/
  | readResp
  /-- the landing of a READ or atomic response at the requester -/
  | landing
  | atomic
  | coll
  | task
  | serial
  | ckpt
  | cipher
  | firmware
  | card
  | punt
  deriving DecidableEq, Repr

/-- The work a transfer belongs to. -/
structure Owner where
  kind : OwnerKind
  a : Nat
  b : Nat
  /-- hall pass of an inbound access: its index + 1; 0 none -/
  c : Nat
  deriving DecidableEq, Repr

/-- Rows of a range: first address, row count, row length, stride (R183). A contiguous range has one row. -/
structure Rows where
  base : Nat
  rows : Nat
  rowLen : Nat
  stride : Nat
  deriving DecidableEq, Repr

inductive HoldWhy where
  /-- a sliced-out slot (R178) -/
  | sliced
  /-- a function that may not send (R439) -/
  | func (f : Nat)
  /-- a channel that retrains (R163) -/
  | channel (c : Nat)
  /-- a line while both quarantine lists are full (R158) -/
  | memFatal
  /-- not admitted while the partition is under back-pressure (R192) -/
  | pressure (part : Nat)
  /-- a domain that is off, until the device has woken (R45, R507) -/
  | power
  /-- work of an SQ's entry behind an earlier one that stalls on a fault (R185): QP and ring index -/
  | behind (qpn idx : Nat)
  deriving DecidableEq, Repr

inductive XState where
  | ready
  /-- a page of the unit is being walked or waits for a walk -/
  | walking (va : Nat)
  /-- stalled on a fault (R185), by tag -/
  | stalled (tag : Nat)
  | held (why : HoldWhy)
  /-- the unit's outstanding pieces have not all arrived -/
  | moving
  /-- every byte moved; visibility is outstanding (R27) -/
  | settling
  | done (code : Nat)
  deriving DecidableEq, Repr

/-- A piece of a unit still to arrive: offset in the transfer and length. -/
structure Piece where
  off : Nat
  len : Nat
  deriving DecidableEq, Repr

/-- A part of a unit still to be sent: to the host under function `unit`, or over gang `unit`. -/
structure Cut where
  host : Bool
  unit : Nat
  addr : Nat
  off : Nat
  len : Nat
  deriving DecidableEq, Repr

/-- A transfer between an engine and device virtual addresses (R183). -/
structure Xfer where
  part : Nat
  agent : Nat
  unit : Nat
  ctx : Nat
  owner : Owner
  write : Bool
  /-- an atomic reads and writes (R185): 0 none, 1 add, 2 compare and swap, with its operands -/
  atomic : Nat
  opa : DWord
  opb : DWord
  /-- an access through a hall pass (R179) -/
  remote : Bool
  /-- pages are translated and checked, and no byte moves (R357) -/
  probe : Bool
  va : Rows
  /-- the engine's side: bytes read so far, or the bytes to write -/
  data : List Byte
  /-- the path of the completion under the same-path rule (R261): a class of `pathClass`, and whether all data so far took it -/
  samePath : Option Nat
  spOk : Bool
  pos : Nat
  /-- pages of the current unit translated so far -/
  got : List (Nat × Leaf)
  st : XState
  /-- parts of the unit that wait for a tag (R209, R436) -/
  todo : List Cut
  /-- outstanding pieces by host tag, and by gang * 65536 + JL tag -/
  hpieces : Tab Piece
  jpieces : Tab Piece
  /-- functions whose posted writes are not yet followed by a zero-length read, and the tags of reads awaited (R437) -/
  zneed : List Nat
  zwait : List Nat
  /-- remote operations awaited: QP and operation number (R179) -/
  rops : List (Nat × Nat)
  /-- parts that have failed: offset and code (R262) -/
  fails : List (Nat × Nat)
  /-- it was admitted: back-pressure no longer holds its start (R192) -/
  admitted : Bool
  /-- place in the order in which transfers were held (R163) -/
  heldSeq : Nat
  /-- every page so far lay in GDDR7 or the CXL tier (R93) -/
  inner : Bool
  /-- local counter when the fault of its unit was first raised (R190) -/
  firstFault : Option Nat
  deriving DecidableEq, Repr

/-- A fault that is outstanding or waits for queue space (Table 6-5). -/
structure FaultRec where
  part : Nat
  xfer : Nat
  tag : Nat
  vaddr : Nat
  pte : Nat
  time : Nat
  length : Nat
  ctx : Nat
  reason : Nat
  level : Nat
  access : Nat
  agent : Nat
  unit : Nat
  written : Bool
  /-- timed out while it waited for queue space: its record is still written, and no transfer stalls on it (R190) -/
  ended : Bool
  deriving DecidableEq, Repr

inductive HostReqKind where
  | read
  | zlr
  | walk
  deriving DecidableEq, Repr

/-- A non-posted request outstanding to the host (R436). -/
structure HostReq where
  kind : HostReqKind
  func : Nat
  addr : Nat
  len : Nat
  /-- the transfer of a read, or the walk of a page table read -/
  owner : Nat
  deriving DecidableEq, Repr

/-- An INVALIDATE or SET_TRANSLATION waiting for accesses that used what it discarded (R193). -/
structure Inval where
  mb : MbRef
  part : Nat
  /-- transfers with the position of the unit under way -/
  xfers : List (Nat × Nat)
  deriving DecidableEq, Repr

structure Xl where
  trans : Tab Trans
  tlb : Tab (List TlbEnt)
  wcache : List WcEnt
  walks : Tab Walk
  walkq : List (Nat × Nat)
  faults : List FaultRec
  xfers : Tab Xfer
  nextXfer : Nat
  nextHeld : Nat
  /-- partitions that were under back-pressure when last looked at (R192) -/
  pressed : List Nat
  hreqs : Tab HostReq
  /-- the last byte of the last posted write of a function (R437) -/
  lastPosted : Tab Nat
  invals : List Inval
  deriving DecidableEq, Repr

end Sys2Proof.Machine
end

