-- ==== Sys2Proof/Machine/State.lean ====
section
/-! DEFINITION. The state of the SW4 as plain data, and its value right after the power-on reset. -/

namespace Sys2Proof.Machine

open Sys2Proof

/-- Why a step faults. No command of this block faults: every behaviour the spec describes is an effect. -/
inductive Fault where
  deriving DecidableEq, Repr

/-- Why a command is refused. -/
inductive Refusal where
  /-- raised by the dispatch for a command without a meaning in this model; safe: nothing follows from it -/
  | notModelled (mnemonic : String)
  deriving DecidableEq, Repr

/-- The whole state. Part by part: the chip's resets and fuses, shared registers, mailboxes, firmware, recorder,
partitions, functions, tiles, the flat memory, memory tiers, translation, Jodaul links, queues and transport. -/
structure State where
  chip : Chip
  ep : Endpoint
  regs : Regs
  mb : Tab Mailbox
  fw : Fw
  ev : Recorder
  parts : Tab Part
  funcs : Tab Func
  ti : Tiles
  mem : List Host.Cell
  tiers : Tiers
  xl : Xl
  jl : Jl
  qe : Qe
  pp : Pipe
  sec : Sec
  pm : Pm
  cu : Cu
  sb : Sb
  ck : Ck
  /-- what has been sent outside, oldest first (log 1) -/
  out : List Out
  /-- count of free values drawn (log 8) -/
  draws : Nat
  /-- the commands that wait, first in first out -/
  pending : List Instr
  deriving DecidableEq, Repr

/-! ## Values at reset -/

def Mailbox.fresh (gen : Nat) : Mailbox :=
  { irq := false, vec := 0, state := 0, tag := 0, phase := .idle, req := none, resp := none, gen := gen, goAt := 0,
    cursors := [], proc := 2 }

def CoreRegs.fresh : CoreRegs := { ix := 0, iy := 0, pc := 0, rstack := [], waiting := false, halted := false }

def FwImage.none : FwImage := { build := 0, svn := 0, entry := 0, digest := 0, body := 0, len := 0 }

/-- A firmware processor at its reset values (FW_PSTAT 0). -/
def Proc.fresh : Proc :=
  { pstate := .running, act := .none, dump := none, dumpLost := false, restarts := 0, crashes := 0, crashTimes := [],
    active := FwImage.none, previous := none, arming := none, target := none, inbox := [], lcnth := 0, core := CoreRegs.fresh }

def Fw.fresh : Fw :=
  { procs := (List.range 19).map (fun p => (p, Proc.fresh)), staged := none, epoch := 0, changes := [] }

def Recorder.fresh : Recorder :=
  { recs := [], wpos := 0, nextSlot := 0, flush := .none, held := false, owed := false, codes := [], lastHi := none, seq := 0, slots := [] }

def Regs.fresh : Regs := { counters := [], snaps := [], err := [], badAddr := [], scratch := [] }

/-- Partition 0 holds every pooled resource, no bench slot and no allotment (R29); other settings are the defaults. -/
def Part.zero : Part :=
  { destroying := false, destroyer := none, expert := true, slots := 0, qps := Config.poolQps, cqs := Config.poolCqs,
    passes := Config.poolPasses, tallies := Config.poolTallies, namespaces := Config.poolNamespaces, allot := [],
    staging := [], txGrant := none, latTol := 100, keyLimit := 1024, keyClear := true, classLimit := 1,
    accumShare := 16384, trust := [] }

/-- A function at reset: the physical function is ENABLED and a virtual function DISABLED in partition 0 (R440, HI_FSTAT). -/
def Func.fresh (f : Nat) : Func :=
  { fstate := if f = 0 then .enabled else .disabled, part := 0, qcause := 0, after := .disabled, flr := false,
    resetAtEnd := false, overdue := false, waiters := [], d3 := false, bme := false, tenBit := false, cto := 0, unmasked := [],
    pendingBits := [] }

/-- The endpoint's values at reset: MPS 128 B, MRRS 512 B (R435), HI_LINK 0x0000_0200. -/
def Endpoint.fresh : Endpoint :=
  { vendorId := 0x1F4A, deviceId := 0x5704, revisionId := 0xB1, mps := 0, mrrs := 2, vfEnable := false, rrs := true, speed := 0, width := 0, flit := false, bar0Mib := 64,
    bar2Mib := 1, vfBar2Mib := 1, hotReset := false }

/-- The chip right after the power-on reset is asserted (R486, R491). The fuses are the model's choice (log 3). -/
def Chip.fresh : Chip :=
  { optFuses := 0, opt := 0, serial := 0x5704000000000001, rootKeys := [0, 0, 0, 0], revoked := 0, fusedSvn := 0,
    lcount := 0, cause := 1, level := 0, asserted := some .powerOn, loaded := false, rootLock := false, refOk := false,
    backup := false, faultN := false, perst := false, sysRst := false, pwrFail := false, lowRails := [],
    flushWait := none, soft := none, bootDone := false, bootTried := [], bootImage := none, rejects := [],
    recovery := false, blockRsts := [] }

def Tile.fresh : Tile :=
  { ix := 0, iy := 0, pc := 0, tstate := .idle, rstack := [], mspa := 0, mspw := 0, vslp := 0, vssp := 0, srgen := 0,
    tsel := 0, acc := [], mseq := none, fifos := [], dma := [], exc := 0, waiting := false, atJbnd := false, bufs := [],
    mview := [] }

def Tiles.fresh : Tiles :=
  { tiles := (List.range 128).map (fun t => (t, Tile.fresh)), binds := [], groups := [], jobs := [], quantum := 1000 }

def Chan.fresh : Chan :=
  { cstate := .untrained, temp := 0, remaps := [], replay := false, driftAt := none, checks := [], mb := none }

/-- Bytes of the GDDR7 data region of a device density in Gbit (R142, R143). -/
def gddrSize (density : Nat) : Nat := density * 32 / 8 * 2 ^ 30 / 8 * 7

/-- Queue-pair contexts and hall passes lie directly below the highest tier address (R145). -/
def Reserve.boot (density : Nat) : List Reserve :=
  let top := gddrSize density
  [⟨.qpContexts, top - 2 ^ 28, 2 ^ 28⟩, ⟨.passes, top - 2 ^ 28 - 2 ^ 29, 2 ^ 29⟩]

def CxlDev.none : CxlDev := { cstate := .absent, capacity := 0, truncated := false, mb := Option.none }

def Tiers.fresh : Tiers :=
  { density := 32, chans := (List.range 16).map (fun c => (c, Chan.fresh)),
    cxl := (List.range 8).map (fun d => (d, CxlDev.none)), migs := [], qlines := [], qregions := [], qcleared := [], fatal := [],
    corr := [], log := [], lost := 0, counts := [], freed := false, rewrites := [], reserves := Reserve.boot 32, scrubSram := 600, scrubGddr := 3600 }

/-- A partition's translation block at reset: TR_FQSTAT 0x0000_1000. -/
def Trans.fresh : Trans :=
  { set := false, root := 0, rootBits := 1, func := 0, fqBase := 0, vec := 0, timeoutMs := 1000, head := 0, tail := 0,
    tphase := true, ovf := false, unreleased := 0, nextTag := 0 }

def Xl.fresh : Xl :=
  { trans := [], tlb := [], wcache := [], walks := [], walkq := [], faults := [], xfers := [], nextXfer := 0, nextHeld := 0, pressed := [], hreqs := [],
    lastPosted := [], invals := [] }

/-- The machine right after the power-on reset. -/
def State.reset : State :=
  { chip := Chip.fresh, ep := Endpoint.fresh, regs := Regs.fresh, mb := [], fw := Fw.fresh, ev := Recorder.fresh,
    parts := [(0, Part.zero)], funcs := (List.range 256).map (fun f => (f, Func.fresh f)), ti := Tiles.fresh, mem := [],
    tiers := Tiers.fresh, xl := Xl.fresh, jl := Jl.fresh, qe := Qe.fresh, pp := Pipe.fresh, sec := Sec.fresh, pm := Pm.fresh,
    cu := Cu.fresh, sb := Sb.fresh, ck := Ck.fresh, out := [], draws := 0, pending := [] }

end Sys2Proof.Machine
end

