-- ==== Sys2Proof/Machine/Ops.lean ====
section
/-! DEFINITION. Shared operations: outputs, counters, host writes and interrupts, functions and partitions, the event recorder, mailbox service and readback. -/

namespace Sys2Proof.Machine

open Sys2Proof

/-! ## Outputs and free values -/

/-- Sends something outside. -/
def emit (o : Out) (s : State) : State := { s with out := s.out ++ [o] }

/-- Draws a free value: the value and the state whose next draw is another one (log 8). -/
def draw (s : State) : DWord × State := (Config.freeValue s.draws, { s with draws := s.draws + 1 })

/-! ## Block numbers (Table 19-1) -/

def bkDevice (f : Nat) : Nat := 0x2000 + f
def bkMailbox (m : Nat) : Nat := 0x1000 + m
def bkReset : Nat := 3
def bkPower : Nat := 4
def bkFirmware : Nat := 5
def bkRecorder : Nat := 6
def bkCkpt : Nat := 7
def bkRollCall : Nat := 8
def bkTransport (d : Nat) : Nat := 0x10 + d
def bkColl (d : Nat) : Nat := 0x12 + d
def bkPipe (d : Nat) : Nat := 0x14 + d
def bkBench (b : Nat) : Nat := 0x20 + b
def bkChan (c : Nat) : Nat := 0x30 + c
def bkLink (n : Nat) : Nat := 0x40 + n
def bkTrans (p : Nat) : Nat := 0x80 + p
def bkQueue (p : Nat) : Nat := 0xC0 + p
def bkCipher (p : Nat) : Nat := 0x100 + p
def bkHost (f : Nat) : Nat := 0x200 + f
def bkStorage (f : Nat) : Nat := 0x300 + f

/-- Is the domain of a target (Table 6-3) off in the device's power state: tiles from P1, gangs and the CXL tier from P3, GDDR7 in P4
(Table 18-1)? -/
def domainOff (tgt : Nat) (s : State) : Bool :=
  match tgt with
  | 1 => decide (s.pm.pstate ≥ 1)
  | 3 => decide (s.pm.pstate ≥ 4)
  | 4 => decide (s.pm.pstate ≥ 3)
  | 6 => decide (s.pm.pstate ≥ 3)
  | _ => false

/-- An access to a domain that is off asks for the wake that it waits for (R507). -/
def needWake (s : State) : State := { s with pm := { s.pm with waking := true } }

/-- The device returns to P0, and its entry delays start again (R507). -/
def wakeUp (s : State) : State := { s with pm := { s.pm with pstate := 0, since := s.chip.lcount, waking := false } }

/-- Firmware's own access to a target wakes the device first; its stall is time, which the model leaves out (log 143). -/
def wakeFor (tgt : Nat) (s : State) : State := if domainOff tgt s then wakeUp s else s

/-- Value of counter `c` of a block. -/
def counter (blk c : Nat) (s : State) : DWord := tgetD s.regs.counters (blk * 64 + c) 0

/-- Adds to a counter, which wraps (R169 and its likes). -/
def bump (blk c n : Nat) (s : State) : State :=
  { s with regs := { s.regs with
      counters := tset s.regs.counters (blk * 64 + c) (counter blk c s + BitVec.ofNat 64 n) } }

/-! ## Parts of the state by number -/

def func? (f : Nat) (s : State) : Func := tgetD s.funcs f (Func.fresh f)
def modFunc (f : Nat) (g : Func → Func) (s : State) : State := { s with funcs := tset s.funcs f (g (func? f s)) }
def part? (p : Nat) (s : State) : Option Part := tget s.parts p
def modPart (p : Nat) (g : Part → Part) (s : State) : State := { s with parts := tmod s.parts p g }
def proc? (p : Nat) (s : State) : Proc := tgetD s.fw.procs p Proc.fresh
def modProc (p : Nat) (g : Proc → Proc) (s : State) : State :=
  { s with fw := { s.fw with procs := tset s.fw.procs p (g (proc? p s)) } }
def tile? (t : Nat) (s : State) : Tile := tgetD s.ti.tiles t Tile.fresh
def modTile (t : Nat) (g : Tile → Tile) (s : State) : State :=
  { s with ti := { s.ti with tiles := tset s.ti.tiles t (g (tile? t s)) } }
def group? (p : Nat) (s : State) : Option Group := tget s.ti.groups p
def setGroup (p : Nat) (g : Group) (s : State) : State := { s with ti := { s.ti with groups := tset s.ti.groups p g } }
def chan? (c : Nat) (s : State) : Chan := tgetD s.tiers.chans c Chan.fresh
def modChan (c : Nat) (g : Chan → Chan) (s : State) : State :=
  { s with tiers := { s.tiers with chans := tset s.tiers.chans c (g (chan? c s)) } }
def cxl? (d : Nat) (s : State) : CxlDev := tgetD s.tiers.cxl d CxlDev.none
def modCxl (d : Nat) (g : CxlDev → CxlDev) (s : State) : State :=
  { s with tiers := { s.tiers with cxl := tset s.tiers.cxl d (g (cxl? d s)) } }
def trans? (p : Nat) (s : State) : Trans := tgetD s.xl.trans p Trans.fresh
def modTrans (p : Nat) (g : Trans → Trans) (s : State) : State :=
  { s with xl := { s.xl with trans := tset s.xl.trans p (g (trans? p s)) } }
def xfer? (x : Nat) (s : State) : Option Xfer := tget s.xl.xfers x
def setXfer (x : Nat) (f : Xfer) (s : State) : State := { s with xl := { s.xl with xfers := tset s.xl.xfers x f } }
def delXfer (x : Nat) (s : State) : State := { s with xl := { s.xl with xfers := tdel s.xl.xfers x } }

/-- Number of a mailbox in `mb`. -/
def mbIx (func : Nat) (urgent : Bool) : Nat := 2 * func + urgent.toNat
def mbox? (m : Nat) (s : State) : Mailbox := tgetD s.mb m (Mailbox.fresh 0)
def modMbox (m : Nat) (g : Mailbox → Mailbox) (s : State) : State := { s with mb := tset s.mb m (g (mbox? m s)) }

/-- Option byte `i` of the loaded option block (Table 17-3). -/
def optByte (i : Nat) (s : State) : Nat := s.chip.opt.toNat / 256 ^ i % 256
/-- The option block's DISABLE bit `i` (R550). -/
def disabled (i : Nat) (s : State) : Bool := bitOf i (optByte 2 s)
/-- Fabric mode (R489). -/
def fabric (s : State) : Bool := bitOf 0 (optByte 0 s)

/-! ## Memory of the state -/

/-- Bytes of a space. -/
def rdMem (space addr n : Nat) (s : State) : List Byte := mrdN s.mem (mkey space addr) n
/-- Writes bytes of a space. -/
def wrMem (space addr : Nat) (bs : List Byte) (s : State) : State := { s with mem := mwrN s.mem (mkey space addr) bs }
/-- Takes over the bytes a host stored in its own memory (log 1). -/
def hostStores (w : List HostStore) (s : State) : State :=
  { s with mem := w.foldl (fun m p => mwr m (mkey spHost p.1) p.2) s.mem }

/-! ## Requests to the host (15) -/

/-- May the part send requests under a function's requester ID (R432, R439)? -/
def canSend (f : Nat) (s : State) : Bool :=
  let g := func? f s
  g.fstate == .enabled && g.bme && !g.d3

/-- Requests of a quiescing function still run until its quiesce ends, or for 90 ms (R441). -/
def mayRequest (f : Nat) (s : State) : Bool :=
  let g := func? f s
  (g.fstate == .enabled || (g.fstate == .quiescing && !g.overdue)) && g.bme && !g.d3

/-- A posted write under a function (R434, R435): host memory changes and the write is the function's last one. -/
def hostWrite (f addr : Nat) (bs : List Byte) (s : State) : State :=
  let s1 := wrMem spHost addr bs s
  let s2 := { s1 with xl := { s1.xl with lastPosted := tset s1.xl.lastPosted f (addr + bs.length - 1) } }
  emit (.hostWrite f addr bs) (bump (bkHost f) 2 bs.length s2)

/-- Number of MSI-X vectors of a function (R429). -/
def vectors (f : Nat) : Nat := if f = 0 then 2048 else 64

/-- An event of a vector: a message if the function can send and the vector is not masked, else its pending bit (R432). -/
def msix (f v : Nat) (s : State) : State :=
  let g := func? f s
  if canSend f s && g.unmasked.contains v then
    emit (.msix f v) (bump (bkHost f) 6 1 s)
  else if g.pendingBits.contains v then s
  else modFunc f (fun g => { g with pendingBits := g.pendingBits ++ [v] }) s

/-! ## Partitions -/

/-- Does a partition exist, and has its destruction not begun (R36)? -/
def partLive (p : Nat) (s : State) : Bool :=
  match part? p s with
  | some g => !g.destroying
  | none => false

/-- Partition of a function. -/
def funcPart (f : Nat) (s : State) : Nat := (func? f s).part

/-- Partitions that a function's readback covers: the physical function sees them all (R43). -/
def sees (c : Call) (part : Nat) (s : State) : Bool := c.func == 0 || funcPart c.func s == part

/-! ## Event recorder (R476 to R479) -/

def tokenUnit : Nat := 100000000

/-- Is the severity fatal, or the code one the recorder itself writes (never limited, R477)? -/
def unlimited (code sev : Nat) : Bool := sev == 3 || code < 3

/-- Rate settings of a code with its bucket filled up to now. -/
def evCode (code : Nat) (s : State) : EvCode :=
  let c : EvCode := tgetD s.ev.codes code { rate := 100, burst := 32, tokens := 32 * tokenUnit, at' := 0, suppressed := 0 }
  { c with tokens := min (c.burst * tokenUnit) (c.tokens + c.rate * (s.chip.lcount - c.at')), at' := s.chip.lcount }

/-- Bytes of a record (Table 16-8): header, SRC, PART, zero, payload padded to 8 bytes. -/
def evBytes (code sev src part : Nat) (payload : List Byte) (time : Nat) : List Byte :=
  let body := [BitVec.ofNat 8 src, BitVec.ofNat 8 part, 0, 0] ++ payload
  let pad := (8 - body.length % 8) % 8
  let n := (8 + body.length + pad) / 8
  leBytes 2 code ++ [BitVec.ofNat 8 n, BitVec.ofNat 8 sev] ++ leBytes 4 time ++ body ++ List.replicate pad 0

/-- The records still kept when the write position is `w`: the ring holds 4 MiB (R479). -/
def evRing (w : Nat) (l : List EvRec) : List EvRec := l.filter (fun r => decide (w ≤ r.pos + 2 ^ 22))

/-- Appends bytes as a record at the write position (R479). -/
def evAppend (bs : List Byte) (s : State) : State :=
  let w := s.ev.wpos + bs.length
  let r : EvRec := { pos := s.ev.wpos, bytes := bs }
  bump bkRecorder 0 1 { s with ev := { s.ev with recs := evRing w (s.ev.recs ++ [r]), wpos := w } }

/-- Appends a TIMEBASE record where one is due (R476). -/
def evTimebase (s : State) : State :=
  let hi := s.chip.lcount / 2 ^ 32
  if s.ev.lastHi = some hi then s
  else
    let s1 := evAppend (evBytes 0 0 0xFF 0xFF (leBytes 8 s.chip.lcount) s.chip.lcount) s
    { s1 with ev := { s1.ev with lastHi := some hi } }

/-- Admits the bytes of a record to the ring, after the TIMEBASE and SUPPRESSED records that are due (R476, R477). -/
def evKeep (code sev : Nat) (bs : List Byte) (s : State) : State :=
  let c := evCode code s
  let s1 := evTimebase s
  let s2 := if c.suppressed = 0 then s1
    else evAppend (evBytes 1 1 0xFF 0xFF (leBytes 2 code ++ [0, 0] ++ leBytes 4 c.suppressed) s.chip.lcount) s1
  let s3 := evAppend bs s2
  if unlimited code sev then
    { s3 with ev := { s3.ev with codes := tset s3.ev.codes code { c with suppressed := 0 } } }
  else
    { s3 with ev := { s3.ev with codes := tset s3.ev.codes code { c with tokens := c.tokens - tokenUnit, suppressed := 0 } } }

/-- A record that its bucket suppresses is counted (R477, R485). -/
def evSuppress (code : Nat) (s : State) : State :=
  let c := evCode code s
  bump bkRecorder 1 1 { s with ev := { s.ev with codes := tset s.ev.codes code { c with suppressed := c.suppressed + 1 } } }

/-- Starts a fault flush, or joins the one that runs (R481). -/
def startFlush (cause : Nat) (s : State) : State :=
  match s.ev.flush with
  | .none => if s.ev.held then s else { s with ev := { s.ev with flush := .fault cause } }
  | _ => s

/-- Raises a record given as bytes (R476 to R478, R481): kept, suppressed or not admitted; vector 0 for error and fatal. -/
def eventRaw (code sev : Nat) (bs : List Byte) (s : State) : State :=
  let s1 :=
    if s.ev.held && code != 2 then s
    else if unlimited code sev || decide ((evCode code s).tokens ≥ tokenUnit) then evKeep code sev bs s
    else evSuppress code s
  let s2 := if sev ≥ 2 then msix 0 0 s1 else s1
  if sev = 3 then startFlush 1 s2 else s2

/-- Raises an event record. -/
def event (code sev src part : Nat) (payload : List Byte) (s : State) : State :=
  eventRaw code sev (evBytes code sev src part payload s.chip.lcount) s

/-! ## Dropped writes (R524, R525) -/

def errStat? (blk : Nat) (s : State) : ErrStat :=
  tgetD s.regs.err blk { valid := false, ovf := false, cause := 0, offset := 0, door := false }

/-- Logs a dropped write in the ERRSTAT of a block: the first one, or OVF (R525). -/
def logDrop (blk cause offset : Nat) (door : Bool) (s : State) : State :=
  let e := errStat? blk s
  let g : ErrStat := if e.valid then { e with ovf := true }
    else { valid := true, ovf := e.ovf, cause := cause, offset := offset % 65536, door := door }
  { s with regs := { s.regs with err := tset s.regs.err blk g } }

/-- A write dropped with an AER Advisory Non-Fatal Error to the function that sent it (R524). -/
def dropWrite (func blk cause offset : Nat) (door : Bool) (s : State) : State :=
  emit (.aer func .advisory) (logDrop blk cause offset door s)

/-! ## Opcodes (16) -/

/-- Opcodes that any function may send. -/
def opsBasic : List Nat :=
  [0x5010, 0x5011, 0x5012, 0x5020, 0x5021, 0x5030, 0x5031, 0x5040, 0x5041, 0x5042, 0x5043, 0x5852,
   0x1100, 0x1101, 0x1110, 0x1111, 0x1112, 0x1113, 0x1200, 0x1201, 0x1210, 0x1211,
   0x3000, 0x3001, 0x3002, 0x4000, 0x4001, 0x4002, 0x4003, 0x4010, 0x4011, 0x4012, 0x4020, 0x4021, 0x4022, 0x4030,
   0x4031, 0x4102, 0x4103, 0x4104, 0x4200, 0x4201, 0x4202, 0x4203, 0x4204,
   0x8000, 0x8020, 0x8021, 0x8023, 0x8041, 0x8043, 0x8050, 0x8051, 0x8052, 0x8053, 0x8054,
   0x6000, 0x6001, 0x6030, 0x6031, 0x7000, 0x7001, 0x7010, 0x7011, 0x7012, 0x7013, 0x7020,
   0x9000, 0x9001, 0x9010, 0x9011, 0x9012, 0x9020, 0x9021, 0x2010, 0x2011, 0x1000, 0x1001, 0xC000, 0xA000, 0xA001]

/-- Opcodes marked PF only. -/
def opsPf : List Nat :=
  [0x5850, 0x5851, 0x1120, 0x1121, 0x1122, 0x1123, 0x1850, 0x1851, 0x3003, 0x3010, 0x3011, 0x3012, 0x3020, 0x3021,
   0x3022, 0x3850, 0x3851, 0x3852, 0x4850, 0x4100, 0x4101, 0x4851, 0x4852, 0x4860,
   0x8001, 0x8010, 0x8011, 0x8012, 0x8013, 0x8022, 0x8030, 0x8031, 0x8040, 0x8042, 0x8060, 0x8850,
   0x6010, 0x6011, 0x6020, 0x6021, 0x6022, 0x6023, 0x6032, 0x6850, 0x6851, 0x7021, 0x7022, 0x7850,
   0x9030, 0x9031, 0x9850, 0x9851, 0x2000, 0x2001, 0x2002, 0x2003, 0x2020, 0x2021, 0x2022,
   0xB000, 0xB001, 0xB002, 0xB010, 0xB850, 0xC001, 0xC010, 0xC011, 0xC012, 0xC013, 0xC014, 0xC015,
   0x1020, 0x1021, 0x1870, 0xA010, 0xA850, 0xA851]

/-- Is the opcode defined, and its feature not disabled (R455 check 1, Table 17-9)? -/
def opKnown (op : Nat) (s : State) : Bool :=
  (opsBasic.contains op || opsPf.contains op) &&
  !((op / 4096 == 5 && disabled 0 s) || ((op == 0x1121 || op == 0x1122) && disabled 1 s) ||
    (op / 4096 == 6 && disabled 2 s) || (op / 4096 == 7 && disabled 3 s) ||
    (((0x4200 ≤ op && op ≤ 0x4204) || op == 0x4860) && disabled 4 s))

def opExpert (op : Nat) : Bool := bitOf 11 op

/-- The processor that serves an opcode (Table 16-3). -/
def opProc (op : Nat) : Nat :=
  if op / 4096 = 9 ∨ op = 0x1020 ∨ op = 0x1021 ∨ op = 0x1870 then 0 else if op / 4096 = 10 then 1 else 2

/-- The payload length of the opcodes whose request layout the spec fixes in bytes. -/
def opLength (op : Nat) : Option Nat :=
  if op = 0x2000 then some 32 else if op = 0x1020 then some 1 else if op = 0x1870 then some 8
  else if op = 0x5020 then some 32 else if op = 0x4200 then some 48 else none

/-! ## Serving a request (R455 to R462) -/

/-- A processor serves commands. -/
def procUp (p : Nat) (s : State) : Bool := s.chip.bootDone && (proc? p s).pstate == .running
/-- A processor is down: every command it serves is answered FW_RESTARTING (R462). -/
def procDown (p : Nat) (s : State) : Bool :=
  !s.chip.bootDone || (proc? p s).pstate == .restarting || (proc? p s).pstate == .failed || (proc? p s).pstate == .stopped

def runningCount (s : State) : Nat :=
  s.mb.countP (fun e => match e.2.phase with
    | .running _ => true
    | _ => false)

/-- An urgent request waits that no service has started (R457). -/
def urgentWaiting (s : State) : Bool := s.mb.any (fun e => e.1 % 2 == 1 && e.2.phase == .waiting)

def Body.empty : Body := { rows := [], next := none }
def Body.nums (l : List Nat) : Body := { rows := [l], next := none }

/-- Determines the response of a mailbox's command; MAILBOX_DONE writes it (R456). -/
def answer (m status : Nat) (b : Body) (s : State) : State :=
  modMbox m (fun x => { x with
    phase := .answered,
    resp := some { status := status, tag := x.tag, opcode := (x.req.map Req.opcode).getD 0, body := b },
    cursors := match b.next, x.req with
      | some n, some r => if n = 0 then x.cursors else x.cursors ++ [(r.opcode, n)]
      | _, _ => x.cursors }) s

/-- Ends the command that a deferred piece of work belongs to, where its mailbox still runs it (R441, R488). -/
def finish (r : MbRef) (status : Nat) (b : Body) (s : State) : State :=
  let m := mbIx r.func r.urgent
  let x := mbox? m s
  match x.phase with
  | .running _ => if x.gen = r.gen then answer m status b s else s
  | _ => s

/-- Is the command of a reference still in service? -/
def stillRunning (r : MbRef) (s : State) : Bool :=
  let x := mbox? (mbIx r.func r.urgent) s
  match x.phase with
  | .running _ => x.gen == r.gen
  | _ => false

/-- What serving a request leads to. -/
inductive Ans where
  /-- a status other than OK and DEFERRED: no effect (R11) -/
  | reject (status : Nat)
  /-- OK, with effects in place -/
  | ok (s : State) (b : Body)
  /-- DEFERRED (R10) -/
  | deferred (s : State)
  /-- the command runs on; `committed` once past its commit point (R461) -/
  | later (s : State) (committed : Bool)
  /-- the request goes on waiting: its work needs a processor that switches images (R459) -/
  | wait

/-- Checks 2 to 6 of R455 with recovery's limits (R418), in order: the status of the first that fails. -/
def precheck (func : Nat) (r : Req) (s : State) : Option Nat :=
  let own := funcPart func s
  if !opKnown r.opcode s then some Config.badOpcode
  else if r.flags % 2 != (opExpert r.opcode).toNat || r.flags / 2 != 0 || r.rsvd || r.part > 63 || r.length > 4064 then
    some Config.badValue
  else if s.chip.recovery then
    if r.opcode = 0x9000 ∨ r.opcode = 0xC015 then none else some Config.fwRestarting
  else if func ≠ 0 ∧ (r.part ≠ own ∨ opsPf.contains r.opcode) then some Config.notPermitted
  else if opExpert r.opcode && !(((part? own s).map Part.expert).getD false) then some Config.notPermitted
  else if (func? func s).fstate = .disabled then some Config.wrongState
  else if (func? func s).fstate = .quiescing then some Config.quiescing
  else if r.opcode ≠ 0x2000 ∧ !partLive r.part s then some Config.wrongState
  else match opLength r.opcode with
    | some n => if r.length = n then none else some Config.badLength
    | none => none

/-- The processor that answers a mailbox: the security core in recovery (R418). -/
def serveProc (op : Nat) (s : State) : Nat := if s.chip.recovery then 0 else opProc op

/-- A reference to the command in service at a call's mailbox. -/
def callRef (c : Call) (s : State) : MbRef :=
  { func := c.func, urgent := c.urgent, gen := (mbox? (mbIx c.func c.urgent) s).gen }

/-- Starts service: the wait of the request is counted in PKTCLK cycles (SERVICE_WAIT). -/
def startService (m proc : Nat) (s : State) : State :=
  bump (bkMailbox m) 3 ((s.chip.lcount - (mbox? m s).goAt) * 12) (modMbox m (fun x => { x with proc := proc }) s)

/-- The mailbox hardware answers with FW_RESTARTING itself: while the scheduler core is down, and in recovery at every
mailbox but the physical function's normal one (R462, R418). -/
def hardwareAnswers (c : Call) (s : State) : Bool := if s.chip.recovery then c.urgent || c.func != 0 else procDown 2 s

/-- Serves the request that waits in a mailbox, if its opcode is `op`: firmware's checks in their order (R455), the
state of the processors (R459, R462), then the opcode's own work `k`. Without such a request nothing happens (log 11). -/
def serve (c : Call) (op : Nat) (k : Req → State → Ans) (s : State) : State :=
  let m := mbIx c.func c.urgent
  match (mbox? m s).phase, (mbox? m s).req with
  | .waiting, some r =>
    if r.opcode ≠ op then s
    else if (!c.urgent && urgentWaiting s) || runningCount s ≥ 64 then s
    else if hardwareAnswers c s then answer m Config.fwRestarting Body.empty s
    else
      let p := serveProc op s
      let s1 := startService m p s
      if !s.chip.recovery && (proc? 2 s).pstate == .switching then s
      else match precheck c.func r s with
      | some st => answer m st Body.empty s1
      | none =>
        if !s.chip.recovery && procDown p s then answer m Config.fwRestarting Body.empty s1
        else if (proc? p s).pstate == .switching then s
        else if c.wrongLen then answer m Config.badLength Body.empty s1
        else if c.rsvdSet then answer m Config.badValue Body.empty s1
        else match k r s1 with
          | .reject st => answer m st Body.empty s1
          | .ok t b => answer m Config.ok b t
          | .deferred t => answer m Config.deferred Body.empty t
          | .later t cm => modMbox m (fun x => { x with phase := .running cm }) t
          | .wait => s
  | _, _ => s

/-! ## Readback (R458) -/

/-- One piece of a readback: rows from the cursor on, as many as firmware fits, with NEXT (R458). A cursor that
firmware did not return is refused. -/
def page (c : Call) (op cursor : Nat) (rows : List (List Nat)) (s : State) : Ans :=
  let x := mbox? (mbIx c.func c.urgent) s
  if cursor ≠ 0 ∧ !x.cursors.contains (op, cursor) then .reject Config.badValue
  else
    let n := Config.pieceRows s.draws + 1
    let next := if cursor + n < rows.length then cursor + n else 0
    .ok { s with draws := s.draws + 1 } { rows := (rows.drop cursor).take n, next := some next }

/-- A piece of a readback. A payload too short for its CURSOR is of the wrong length; without one the readback starts at its
beginning. -/
def pageRead (c : Call) (r : Req) (op cursor : Nat) (rows : List (List Nat)) (s : State) : Ans :=
  if r.length < 8 ∧ (r.length ≠ 0 ∨ cursor ≠ 0) then .reject Config.badLength else page c op cursor rows s

/-- Serves a readback opcode: the rows are built from the state at service. -/
def serveRead (c : Call) (op cursor : Nat) (rows : Req → State → List (List Nat)) (s : State) : State :=
  serve c op (fun r t => pageRead c r op cursor (rows r t) t) s

/-- The mailbox gives up its command without a response (R441, R488). -/
def abandonMbox (m : Nat) (s : State) : State :=
  modMbox m (fun x => { x with phase := .idle, state := 0, gen := x.gen + 1, req := none }) s

end Sys2Proof.Machine
end

