-- ==== Sys2Proof/Machine/Access.lean ====
section
/-! DEFINITION. Access to the memory tiers (05): migration, channels and devices, quarantine, error records. -/

namespace Sys2Proof.Machine

open Sys2Proof

/-! ## Places -/

/-- A range of the part's own memory: space number (Mem) and address. -/
structure Place where
  space : Nat
  addr : Nat
  deriving DecidableEq, Repr

/-- Key of the 64-byte line of a place. -/
def lineKey (p : Place) : Nat := mkey p.space (p.addr / 64 * 64)
/-- Key of the 2 MiB region of a line (R158). -/
def regionKey (key : Nat) : Nat := key / 2 ^ 21 * 2 ^ 21

/-- TIER and UNIT of Table 5-3 of a place. -/
def tierOf (p : Place) : Nat × Nat :=
  if p.space = spGddr then (2, p.addr / 4096 % 16)
  else if p.space = spCxl then (3, p.addr / 2 ^ 37)
  else if p.space ≥ spTile 0 then (0, (p.space - spTile 0) % 256)
  else (1, p.space - spSlab 0)

/-- LOC of Table 5-3. -/
def locOf (p : Place) : Nat :=
  let a := p.addr / 64 * 64
  match (tierOf p).1 with
  | 0 => (tierOf p).2 * 2 ^ 32 + a
  | 1 => (tierOf p).2 * 2 ^ 32 + a
  | _ => a

/-- The place a line finding names. -/
def locPlace : LineLoc → Place
  | .tile t o => ⟨spTile t, o⟩
  | .shared k o => ⟨spSlab k, o⟩
  | .gddr a => ⟨spGddr, a⟩
  | .cxl a => ⟨spCxl, a⟩

def tierSpace : Tier → Nat
  | .gddr => spGddr
  | .cxl => spCxl

/-- Two ranges overlap. -/
def overlap (a n b m : Nat) : Bool := decide (a < b + m ∧ b < a + n)
/-- A range lies inside another. -/
def inside (a n b m : Nat) : Bool := decide (b ≤ a ∧ a + n ≤ b + m)

/-! ## Reserved ranges (R145) -/

/-- Ranges of GDDR7 that a reserved part may not touch: other parts and every allotment. -/
def gddrTaken (s : State) : List (Nat × Nat) :=
  s.tiers.reserves.map (fun r => (r.base, r.size)) ++
  s.parts.flatMap (fun p => (p.2.allot.filter (fun r => r.tier == .gddr)).map (fun r => (r.base, r.size)))

/-- The highest base at or below `top - n` at which `n` bytes are free. -/
def highestFree (taken : List (Nat × Nat)) (n : Nat) : Nat → Nat → Option Nat
  | 0, _ => none
  | fuel + 1, top =>
    if top < n then none
    else
      let b := (top - n) / 65536 * 65536
      match taken.find? (fun r => overlap b (max 1 n) r.1 r.2) with
      | none => some b
      | some r => highestFree taken n fuel r.1

/-- Bytes of the whole 64 KiB pages that hold `n` bytes. -/
def wholePages (n : Nat) : Nat := (n + 65535) / 65536 * 65536

/-- Where a new range of the reserve lies: as high as there is room. -/
def reserveBase (size : Nat) (s : State) : Option Nat :=
  highestFree (gddrTaken s) size (2 + (gddrTaken s).length) (gddrSize s.tiers.density)

/-- Reserves a range for a part: the highest free one that is large enough (R145). -/
def reserve (use : ReserveUse) (n : Nat) (s : State) : Option (Nat × State) :=
  let size := wholePages n
  match reserveBase size s with
  | none => none
  | some b =>
    let r : Reserve := { use := use, base := b, size := size }
    some (b, { s with tiers := { s.tiers with reserves := s.tiers.reserves ++ [r] } })

/-- Gives back the ranges of the parts that a predicate names. -/
def unreserve (p : ReserveUse → Bool) (s : State) : State :=
  { s with tiers := { s.tiers with reserves := s.tiers.reserves.filter (fun r => !p r.use) } }

/-- Where a write to a tier address goes besides: a migration in COPYING forwards it to the destination of what it has copied
(Table 5-2). -/
def forwardTo (p : Place) (s : State) : Option Place :=
  (s.tiers.migs.find? (fun e => e.2.mstate == .copying && tierSpace e.2.src.tier == p.space &&
      inside p.addr 1 e.2.src.base e.2.copied)).map (fun e => ⟨tierSpace e.2.dst.tier, e.2.dst.base + (p.addr - e.2.src.base)⟩)

/-- Where an access to a tier address goes: a migration in REDIRECTING leads it to the destination (Table 5-2). -/
def redirect (p : Place) (s : State) : Place :=
  match s.tiers.migs.find? (fun e => e.2.mstate == .redirecting && tierSpace e.2.src.tier == p.space &&
      inside p.addr 1 e.2.src.base e.2.src.size) with
  | some e => ⟨tierSpace e.2.dst.tier, e.2.dst.base + (p.addr - e.2.src.base)⟩
  | none => p

/-! ## Error records (R161) -/

/-- Errors of a kind at a line so far, this one included. -/
def errCount (key kind : Nat) (s : State) : Nat := tgetD s.tiers.counts (key * 8 + kind) 0 + 1

/-- The log with a new record (R161), and whether it was counted in LOST. -/
def logRecord (r : MemRec) (l : List MemRec) : List MemRec × Bool :=
  if l.length < 1024 then (l ++ [r], false)
  else match l.findIdx? (fun x => x.kind == 0) with
    | some i => (l.eraseIdx i ++ [r], false)
    | none =>
      match l.findIdx? (fun x => x.kind != 1) with
      | some i => if r.kind = 0 then (l, false) else (l.eraseIdx i ++ [r], false)
      | none => (l, true)

/-- Bytes of a memory error record (Table 5-3). -/
def MemRec.bytes (r : MemRec) : List Byte :=
  [BitVec.ofNat 8 r.tier, BitVec.ofNat 8 r.kind, BitVec.ofNat 8 r.unit, BitVec.ofNat 8 r.part] ++ leBytes 4 r.count
    ++ leBytes 8 r.loc ++ leBytes 8 r.time ++ [BitVec.ofNat 8 r.symbol] ++ List.replicate 7 0

/-- Records a memory error: log, event, and for kinds 1 to 6 the manager's vector (R161). -/
def memError (p : Place) (kind part symbol : Nat) (s : State) : State :=
  let key := lineKey p
  let r : MemRec :=
    { tier := (tierOf p).1, kind := kind, unit := (tierOf p).2, part := part,
      count := errCount key kind s, loc := locOf p, time := s.chip.lcount, symbol := symbol }
  let l := logRecord r s.tiers.log
  let s1 := { s with tiers := { s.tiers with
    log := l.1, lost := s.tiers.lost + l.2.toNat, counts := tset s.tiers.counts (key * 8 + kind) r.count } }
  event 0x41 (if kind = 0 then 1 else 2) 2 part r.bytes s1

/-! ## Quarantine (R155 to R158) -/

def quarantined (key : Nat) (s : State) : Bool :=
  s.tiers.qlines.contains key || (s.tiers.qregions.contains (regionKey key) && !s.tiers.qcleared.contains key)

/-- Puts a line into quarantine; with both lists full its reads are held and the memory-fatal event rises (R158). A line of a
quarantined region that was cleared enters that region again. -/
def quarantine (key : Nat) (s : State) : State :=
  if quarantined key s then s
  else if s.tiers.qregions.contains (regionKey key) then
    { s with tiers := { s.tiers with qcleared := s.tiers.qcleared.filter (· != key) } }
  else if s.tiers.qlines.length < 16384 then { s with tiers := { s.tiers with qlines := s.tiers.qlines ++ [key] } }
  else if s.tiers.qregions.length < 1024 then
    { s with tiers := { s.tiers with
        qregions := s.tiers.qregions ++ [regionKey key] } }
  else if s.tiers.fatal.contains key then s
  else event 0x42 3 2 0xFF [] { s with tiers := { s.tiers with fatal := s.tiers.fatal ++ [key] } }

/-- Lines whose reads were held because both lists were full enter the lists while there is room (R158). -/
def placeFatal (s : State) : State :=
  s.tiers.fatal.foldl (fun (t : State) (k : Nat) =>
    if t.tiers.qlines.length < 16384 ∨ t.tiers.qregions.length < 1024 then
      quarantine k { t with tiers := { t.tiers with fatal := t.tiers.fatal.filter (· != k), freed := true } }
    else t) s

/-- Takes a line out of quarantine (R157); a line that was held takes the room. -/
def unquarantine (key : Nat) (s : State) : State :=
  placeFatal { s with tiers := { s.tiers with
      qlines := s.tiers.qlines.filter (· != key),
      qcleared := if s.tiers.qregions.contains (regionKey key) && !s.tiers.qcleared.contains key
        then s.tiers.qcleared ++ [key] else s.tiers.qcleared,
      fatal := s.tiers.fatal.filter (· != key), freed := s.tiers.freed || s.tiers.fatal.contains key } }

/-- Nanoseconds-free day in local-counter ticks (R159: 24 hours at 10 ns). -/
def dayTicks : Nat := 8640000000000

/-- A GDDR7 line is retired to a spare line where its channel's remap table has room (R159). -/
def retireRoom (p : Place) (s : State) : Bool :=
  p.space == spGddr && decide ((chan? (tierOf p).2 s).remaps.length < 4096)

def retire (p : Place) (part : Nat) (s : State) : State :=
  memError p 2 part 0xFF (modChan (tierOf p).2 (fun c =>
    if c.remaps.contains (locOf p) then c else { c with remaps := c.remaps ++ [locOf p] }) s)

/-- A corrected error: counted and reported, and a GDDR7 line with three in 24 hours is retired (R154, R159). -/
def corrected (p : Place) (part symbol : Nat) (s : State) : State :=
  let s1 := memError p 0 part symbol s
  if p.space ≠ spGddr then s1
  else
    let s2 := bump (bkChan (tierOf p).2) 0 1 s1
    let key := lineKey p
    let ts := (tgetD s.tiers.corr key []).filter (fun t => decide (s.chip.lcount < t + dayTicks)) ++ [s.chip.lcount]
    if ts.length ≥ 3 then
      let s3 := { s2 with tiers := { s2.tiers with corr := tdel s2.tiers.corr key } }
      if retireRoom p s3 then retire p part s3 else quarantine key s3
    else { s2 with tiers := { s2.tiers with corr := tset s2.tiers.corr key ts } }

/-! ## Regions of a tile, and the copies that stand in for a bad line (R91, R93, R96, R156) -/

/-- Elements of a region, and bytes of its source and of its source's scales. -/
def regionElems (r : Region) : Nat := r.length * 8 / max 1 (fmtBits (cvtFmt r.cvt))
def regionSrc (r : Region) : Nat := (regionElems r * fmtBits r.srcFmt + 7) / 8
def regionScales (fmt : Nat) (r : Region) : Nat := if fmtMx fmt then (regionElems r + 31) / 32 else 0

/-- The ranges a region writes: its elements, and the scales of an MX region of SRAM (R53). -/
def regionRanges (r : Region) : List (Nat × Nat) :=
  (r.dest, r.length) :: (if r.kind ≠ .program ∧ regionScales (cvtFmt r.cvt) r ≠ 0 then [(r.dstScale, regionScales (cvtFmt r.cvt) r)] else [])

/-- A region of a physical tile covers an address: a program region in IMEM, any other in SRAM. -/
def regionAt (t : Nat) (r : Region) (p : Place) : Bool :=
  if r.kind = .program then p.space == spImem t && inside p.addr 1 r.dest r.length
  else p.space == spTile t && (regionRanges r).any (fun x => inside p.addr 1 x.1 x.2)

/-- The clean region that a line of a resident tile lies in: partition, physical tile, region. -/
def cleanRegion (p : Place) (s : State) : Option (Nat × Nat × Region) :=
  s.ti.groups.findSome? (fun g => if g.2.phase = .resident then g.2.slots.findSome? (fun e =>
    e.2.regions.findSome? (fun r =>
      let t := ((g.2.first + e.1) % 16) * 8 + r.region.tile
      if r.clean && regionAt t r.region p then some (g.1, t, r.region) else none)) else none)

/-- Bytes of the packet buffer at the start of each slab (R78, Table 1-2). -/
def slabPackets : Nat := 0x1800000

/-- The line lies where the spec never quarantines: in the queue-pair context or hall-pass cache, which are written through and
fetched again, or in the packet buffer, whose packet is dropped (R156, Table 1-2). -/
def copiedLine (p : Place) : Bool := decide (spSlab 0 ≤ p.space ∧ p.space < spSlab 4 ∧ p.addr < 0x1D00000)

/-- An uncorrectable codeword met by an access: recorded, and the line quarantined (R155), but for one with a valid copy: a line
of a clean region awaits its cluster control core, which rewrites it from its source (R96, R156). -/
def uncorrectable (p : Place) (part : Nat) (s : State) : State :=
  let s1 := memError p (if p.space = spCxl then 5 else 1) part 0xFF s
  let s2 := if p.space = spGddr then bump (bkChan (tierOf p).2) 1 1 s1 else s1
  if copiedLine p then s2
  else if (cleanRegion p s2).isSome then
    { s2 with tiers := { s2.tiers with rewrites := s2.tiers.rewrites.filter (· != lineKey p) ++ [lineKey p] } }
  else quarantine (lineKey p) s2

def CState.code : CState → Nat
  | .untrained => 0
  | .active => 1
  | .retraining => 2
  | .offline => 3

/-! ## Service of lines -/

/-- Why a line is not served at once. -/
inductive Block where
  | fail (code : Nat)
  | hold (why : HoldWhy)
  deriving DecidableEq, Repr

/-- The channel or device of a line: OFFLINE ends with 0x08, RETRAINING holds, a lost device ends with 0x08, a device out of
service with 0x02 (R163 to R166). -/
def unitBlock (p : Place) (s : State) : Option Block :=
  if p.space = spGddr then
    match (chan? (tierOf p).2 s).cstate with
    | .active => none
    | .retraining => some (.hold (.channel (tierOf p).2))
    | _ => some (.fail Config.ccData)
  else if p.space = spCxl then
    match (cxl? (tierOf p).2 s).cstate with
    | .inService => none
    | .lost => some (.fail Config.ccData)
    | _ => some (.fail Config.ccProtection)
  else none

/-! ## The check cache (R144) -/

/-- A data access looks its check line up in its channel's cache of 4,096 lines. A miss is counted and brings the line in, in
place of the one used longest ago (log 131); a write makes it dirty. -/
def checkTouch (write : Bool) (addr : Nat) (s : State) : State :=
  let ch := addr / 4096 % 16
  let k := addr / 512
  match (chan? ch s).checks.find? (fun e => e.1 == k) with
  | some e => modChan ch (fun c => { c with checks := (k, e.2 || write) :: c.checks.filter (fun x => x.1 != k) }) s
  | none => bump (bkChan ch) 5 1 (modChan ch (fun c => { c with checks := ((k, write) :: c.checks).take 4096 }) s)

/-- The same for a place; only GDDR7 has check lines. -/
def checkPlace (write : Bool) (p : Place) (s : State) : State := if p.space = spGddr then checkTouch write p.addr s else s

/-- The same for each check line of a range, of which `n` are left. -/
def checkSpan (write : Bool) : Nat → Place → State → State
  | 0, _, s => s
  | n + 1, p, s => checkSpan write n ⟨p.space, p.addr + 512⟩ (checkPlace write p s)

/-- A finding of the error code at a line. -/
def hitAt (ecc : List EccHit) (key : Nat) : Option EccKind :=
  (ecc.find? (fun h => lineKey (locPlace h.loc) == key)).map EccHit.kind

/-- Does a read of a line stop? With the state after the finding is recorded. -/
def readLine (p : Place) (part : Nat) (ecc : List EccHit) (s : State) : Option Block × State :=
  match unitBlock p s with
  | some b => (some b, s)
  | none =>
    let key := lineKey p
    if s.tiers.fatal.contains key then (some (.hold .memFatal), s)
    else if quarantined key s || s.tiers.rewrites.contains key then (some (.fail Config.ccData), s)
    else
      let s1 := checkPlace false p s
      match hitAt ecc key with
      | some .uncorrectable =>
        let t := uncorrectable p part s1
        (some (if t.tiers.fatal.contains key then .hold .memFatal else .fail Config.ccData), t)
      | some (.corrected sym) => (none, corrected p part sym s1)
      | none => (none, s1)

/-- Bytes of a codeword (R140, R142). -/
def cwBytes (p : Place) : Nat := if p.space = spGddr then 64 else 32

/-- A finding at a codeword that a write of `n` bytes merges with: one that it covers in part (R157). The offset of a finding
names the codeword. -/
def mergeHit (ecc : List EccHit) (p : Place) (n : Nat) : Option EccKind :=
  (ecc.find? (fun h =>
    let c := (locPlace h.loc).addr / cwBytes p * cwBytes p
    lineKey (locPlace h.loc) == lineKey p && overlap c (cwBytes p) p.addr n && !inside c (cwBytes p) p.addr n)).map EccHit.kind

/-- Does a write of `n` bytes inside one line stop (R157)? A whole line clears a quarantine and is checked by reading it
back; a part of a codeword reads the codeword. -/
def writeLine (p : Place) (n part : Nat) (ecc : List EccHit) (s : State) : Option Block × State :=
  match unitBlock p s with
  | some b => (some b, s)
  | none =>
    let key := lineKey p
    let whole := p.addr % 64 == 0 && n == 64
    let bad := hitAt ecc key == some .uncorrectable
    if s.tiers.fatal.contains key || quarantined key s then
      if !whole then (some (.fail Config.ccData), s)
      else if !bad then (none, unquarantine key (checkPlace true p s))
      else
        let s1 := uncorrectable p part (checkPlace true p s)
        if retireRoom p s1 then (none, unquarantine key (retire p part s1)) else (some (.fail Config.ccData), s1)
    else if p.space = spCxl then (if bad then some (.fail Config.ccData) else none, s)
    else
      let s1 := checkPlace true p s
      match mergeHit ecc p n with
      | some .uncorrectable => (some (.fail Config.ccData), uncorrectable p part s1)
      | some (.corrected sym) => (none, corrected p part sym s1)
      | none => (none, s1)

/-- The second copy of a write that a migration forwards: it is written too, or holds the write; one that fails leaves the source
as the current copy (R151, R153). -/
def writeCopy (p : Place) (n part : Nat) (s : State) : Option HoldWhy × Option Place × State :=
  match forwardTo p s with
  | none => (none, none, s)
  | some d =>
    match writeLine d n part [] s with
    | (some (.hold w), t) => (some w, none, t)
    | (some (.fail _), t) => (none, none, t)
    | (none, t) => (none, some d, t)

/-- Outcome of an access to a range. -/
inductive Acc where
  | ok (bytes : List Byte) (s : State)
  | stop (b : Block) (s : State)

/-- Reads a range line by line (R154 to R157). -/
def readSpan (part : Nat) (ecc : List EccHit) : Nat → Place → Nat → State → Acc
  | 0, _, _, s => .ok [] s
  | fuel + 1, p, n, s =>
    if n = 0 then .ok [] s
    else
      let k := min n (64 - p.addr % 64)
      let q := redirect p s
      match readLine q part ecc s with
      | (some b, t) => .stop b t
      | (none, t) =>
        match readSpan part ecc fuel ⟨p.space, p.addr + k⟩ (n - k) t with
        | .ok bs u => .ok (rdMem q.space q.addr k t ++ bs) u
        | .stop b u => .stop b u

/-- Writes a range line by line. A line that fails leaves the lines before it written. -/
def writeSpan (part : Nat) (ecc : List EccHit) : Nat → Place → List Byte → State → Acc
  | 0, _, _, s => .ok [] s
  | fuel + 1, p, bs, s =>
    if bs.isEmpty then .ok [] s
    else
      let k := min bs.length (64 - p.addr % 64)
      let q := redirect p s
      match writeLine q k part ecc s with
      | (some b, t) => .stop b t
      | (none, t) =>
        match writeCopy q k part t with
        | (some w, _, u) => .stop (.hold w) u
        | (none, d, u) =>
          let u1 := match d with
            | some d => wrMem d.space d.addr (bs.take k) u
            | none => u
          writeSpan part ecc fuel ⟨p.space, p.addr + k⟩ (bs.drop k) (wrMem q.space q.addr (bs.take k) u1)

/-- What holds an access to a line: a retraining channel, or a line whose reads are held. -/
def lineHold (p : Place) (s : State) : Option HoldWhy :=
  match unitBlock p s with
  | some (.hold w) => some w
  | some (.fail _) => none
  | none => if s.tiers.fatal.contains (lineKey p) then some .memFatal else none

/-- Does any line of a range hold the access, or its second copy where it is a write? Nothing moves then. -/
def spanHold (write : Bool) : Nat → Place → Nat → State → Option HoldWhy
  | 0, _, _, _ => none
  | fuel + 1, p, n, s =>
    if n = 0 then none
    else
      let k := min n (64 - p.addr % 64)
      let q := redirect p s
      let copy := if write then (forwardTo q s).bind (fun d => lineHold d s) else none
      match (lineHold q s).or copy with
      | some w => some w
      | none => spanHold write fuel ⟨p.space, p.addr + k⟩ (n - k) s

/-- Fuel that covers the lines of `n` bytes. -/
def lineFuel (n : Nat) : Nat := n / 64 + 2

end Sys2Proof.Machine
end

