-- ==== Sys2Proof/Machine/FwOps.lean ====
section
/-! DEFINITION. Firmware images (16): checking an image, switching a processor's image at a job boundary, crashes. -/

namespace Sys2Proof.Machine

open Sys2Proof

/-- A power or thermal emergency is in force (R515). -/
def emergency (s : State) : Bool := s.pm.emerg

/-- The processor of a bench. -/
def benchProc (b : Nat) : Nat := 3 + b

/-- Writer of a record about a processor: the scheduler core, and the security core about the scheduler core (log 47). -/
def fwSrc (p : Nat) : Nat := if p = 2 then 0 else 2

/-- Raises a record about a processor (Table 16-9). -/
def fwEvent (code sev p : Nat) (more : List Byte) (s : State) : State := event code sev (fwSrc p) 0xFF (BitVec.ofNat 8 p :: more) s

/-- Bytes of a firmware processor's instruction memory: 262,144 syllables (R138). -/
def fwImemBytes : Nat := 2 ^ 20

/-- Local data RAM of a processor (Table 16-4). -/
def fwRamBytes (p : Nat) : Nat := if p = 2 then 2 ^ 20 else 2 ^ 18

/-- Loads the bytes of a component from a memory place into a processor (R499). -/
def loadFw (p src len : Nat) (s : State) : State :=
  { s with mem := copyRange (clearRange s.mem (mkey (spFwImem p) 0) fwImemBytes) src (mkey (spFwImem p) 0) (min len fwImemBytes) }

/-- A processor with its registers at an entry. -/
def atEntry (e : Nat) : CoreRegs := { CoreRegs.fresh with pc := e % 262144 }

/-- Begins an armed activation: the processor switches images, and its old one is kept in the GDDR7 reserve (R470, R471). In
an emergency the boundary does not switch it (Table 16-10). While the reserve cannot hold the old one, the activation stays armed
(log 62). -/
def beginSwitch (p : Nat) (s : State) : State :=
  let x := proc? p s
  match x.arming with
  | some t =>
    if x.act = .armed ∧ x.pstate = .running then
      if emergency s then fwEvent 0x0304 1 p [0, 0, 0] (modProc p (fun x => { x with act := .deferred }) s)
      else
        let s1 := unreserve (fun u => u == .previousImage p) s
        match reserve (.previousImage p) fwImemBytes s1 with
        | none => s
        | some (b, s2) =>
          let s3 := { s2 with mem := copyRange s2.mem (mkey (spFwImem p) 0) (mkey spGddr b) fwImemBytes }
          modProc p (fun x => { x with
              pstate := .switching, act := .none, arming := none, target := some t, active := { x.active with body := b } })
            (loadFw p (mkey spGddr t.body) t.len s3)
    else s
  | none => s

/-- A job boundary of a bench lets its core's armed activation take place (R122, Table 16-3). -/
def benchBoundary (b : Nat) (s : State) : State := beginSwitch (benchProc b) s

/-- A bench's core is down: restarting, failed or stopped (R99, R548). -/
def benchDown (b : Nat) (s : State) : Bool := procDown (benchProc b) s

end Sys2Proof.Machine
end

