-- ==== Sys2Proof/Machine/LinkOps.lean ====
section
/-! DEFINITION. Operations of the Jodaul links (07): frames and their CRC, messages, credit, gang order, tags. -/

namespace Sys2Proof.Machine

open Sys2Proof

def LState.code : LState → Nat
  | .down => 0
  | .training => 1
  | .active => 2
  | .spare => 3
  | .recal => 4
  | .failed => 5
  | .miswired => 6

def link? (n : Nat) (s : State) : Link := tgetD s.jl.links n Link.fresh
def modLink (n : Nat) (f : Link → Link) (s : State) : State :=
  { s with jl := { s.jl with links := tset s.jl.links n (f (link? n s)) } }
def gang? (g : Nat) (s : State) : Option Gang := tget s.jl.gangs g
def setGang (g : Nat) (x : Gang) (s : State) : State := { s with jl := { s.jl with gangs := tset s.jl.gangs g x } }
def modGang (g : Nat) (f : Gang → Gang) (s : State) : State := { s with jl := { s.jl with gangs := tmod s.jl.gangs g f } }

/-! ## Frames (R202) -/

/-- Bytes 0 to 263 of a frame (Table 7-2). -/
def frameBody (f : JlFrame) : List Byte :=
  [BitVec.ofNat 8 (f.type + 4 * f.vc + 16 * f.sop.toNat + 32 * f.eop.toNat + 64 * f.ctlRsvd), BitVec.ofNat 8 f.len]
    ++ leBytes 3 (f.seq + 4096 * f.ack) ++ [BitVec.ofNat 8 (64 * f.credVc + f.cred)] ++ leBytes 2 f.gpos
    ++ (f.payload ++ List.replicate (256 - f.payload.length) 0)

/-- Does the CRC of a received frame check? -/
def frameOk (f : JlFrame) : Bool := crc64 (frameBody f) == f.crc.toNat

/-- A frame with its CRC. -/
def sealFrame (f : JlFrame) : JlFrame := { f with crc := BitVec.ofNat 64 (crc64 (frameBody f)) }

/-- SEQ of the last DATA frame received in order: the ACK of every frame sent. -/
def ackOf (l : Link) : Nat := (l.seqRx + 4095) % 4096

/-- The VC whose credit a frame returns next, with its amount (R202 CRED). -/
def creditOf (l : Link) : Nat × Nat :=
  match l.owed.find? (fun e => e.2 > 0) with
  | some e => (e.1, min 63 e.2)
  | none => (0, 0)

/-- Sends a frame on a link with the ACK and the credit the link owes. -/
def sendFrame (n : Nat) (f : JlFrame) (s : State) : State :=
  let l := link? n s
  let c := creditOf l
  let g := sealFrame { f with ack := ackOf l, credVc := c.1, cred := c.2 }
  emit (.jl n g) (modLink n (fun l => { l with owed := tset l.owed c.1 (tgetD l.owed c.1 0 - c.2) }) s)

def idleFrame : JlFrame :=
  { type := 0, vc := 0, sop := false, eop := false, ctlRsvd := 0, len := 0, seq := 0, ack := 0, credVc := 0, cred := 0,
    gpos := 0, payload := [], crc := 0 }

/-- Sends an IDLE frame, which carries ACK and credit (R205). -/
def sendIdle (n : Nat) (s : State) : State := sendFrame n idleFrame s

/-- Sends a LINKCTL operation (Table 7-3): its payload bytes. -/
def sendCtl (n : Nat) (payload : List Byte) (s : State) : State :=
  sendFrame n { idleFrame with type := 2, payload := payload } s

def helloBytes (serial : DWord) (n : Nat) (k : GangKind) : List Byte :=
  [1] ++ leBytes 8 serial.toNat ++ [BitVec.ofNat 8 n, if k = .peer then 1 else 0]
def nakBytes (seq : Nat) : List Byte := [2] ++ leBytes 2 seq
/-- REFORM: three bits for each position, the count, the restart GPOS. -/
def reformBytes (order : List Nat) (restart : Nat) : List Byte :=
  [3] ++ leBytes 3 (packNat3 order) ++ [BitVec.ofNat 8 order.length] ++ leBytes 2 (restart % 65536)
where
  packNat3 : List Nat → Nat
    | [] => 0
    | c :: cs => c % 8 + 8 * packNat3 cs
def reformAckBytes (restart : Nat) : List Byte := [4] ++ leBytes 2 (restart % 65536)

/-! ## Messages (R207) -/

def JMsg.header (m : JMsg) : List Byte :=
  [BitVec.ofNat 8 m.op, BitVec.ofNat 8 m.flags] ++ leBytes 2 m.tag ++ leBytes 2 m.len ++ leBytes 2 m.dst ++ leBytes 8 m.addr

/-- Bytes of a message cut into frames of 256 bytes: 240 data bytes in the first frame, 256 in each later one. -/
def cutFrames : Nat → Bool → List Byte → List QFrame
  | 0, _, _ => []
  | fuel + 1, first, bs =>
    if bs.length ≤ 256 then [{ sop := first, eop := true, bytes := bs }]
    else { sop := first, eop := false, bytes := bs.take 256 } :: cutFrames fuel false (bs.drop 256)

def JMsg.frames (m : JMsg) : List QFrame := cutFrames 18 true (m.header ++ m.data)

/-- A message from its bytes; none where it breaks R207. -/
def JMsg.parse (bs : List Byte) : Option JMsg :=
  let n := fun (o k : Nat) => leNat ((bs.drop o).take k)
  let m : JMsg := { op := n 0 1, flags := n 1 1, tag := n 2 2, len := n 4 2, dst := n 6 2, addr := n 8 8, data := bs.drop 16 }
  if bs.length < 16 then none
  else if m.op = 0 ∨ m.op > 6 ∨ m.flags / 4 ≠ 0 then none
  else if (m.op ≠ 5 ∧ m.op ≠ 6 ∧ m.dst ≠ 0) ∨ ((m.op = 4 ∨ m.op = 6) ∧ m.addr ≠ 0) ∨ (m.op = 5 ∧ m.addr / 2 ^ 32 ≠ 0) then none
  else if m.len > 4096 then none
  else some m

/-- The VC a message travels on (R203). -/
def JMsg.vc (m : JMsg) : Nat :=
  match m.op with
  | 1 | 2 => 0
  | 3 | 4 => 1
  | 5 => 2
  | _ => 3

/-- The member that carries gang frame `n` (R211). -/
def memberAt (g : Gang) (n : Nat) : Nat := g.members.getD (n % max 1 g.members.length) 0

/-- Puts one DATA frame of a gang on the member whose turn it is, and into its replay buffer (R205, R211). -/
def putFrame (gi vc : Nat) (q : QFrame) (s : State) : State :=
  match gang? gi s with
  | none => s
  | some g =>
    let n := memberAt g g.gposTx
    let l := link? n s
    let f : JlFrame :=
      { type := 1, vc := vc, sop := q.sop, eop := q.eop, ctlRsvd := 0, len := q.bytes.length - 1, seq := l.seqTx, ack := 0,
        credVc := 0, cred := 0, gpos := g.gposTx % 65536, payload := q.bytes ++ List.replicate (256 - q.bytes.length) 0,
        crc := 0 }
    let u : Unacked := { fr := f, gpos := g.gposTx, sends := 1, at' := s.chip.lcount }
    let s1 := modLink n (fun l => { l with seqTx := (l.seqTx + 1) % 4096, replay := l.replay ++ [u] }) s
    let s2 := modGang gi (fun g => { g with
      gposTx := g.gposTx + 1, kept := g.kept ++ [u] }) s1
    bump (bkLink n) 0 1 (sendFrame n f s2)

/-- Credit of a gang for a VC: 64 frames for each member, less those whose credit has not come back (R203). -/
def frameCredit (g : Gang) (vc : Nat) : Nat := 64 * g.members.length - tgetD g.spent vc 0

/-- A new DATA frame takes credit; one sent again holds what it took. -/
def spendCredit (gi vc : Nat) (s : State) : State :=
  modGang gi (fun g => { g with spent := tset g.spent vc (tgetD g.spent vc 0 + 1) }) s

/-- May the gang send a DATA frame now: up, and the member below 512 unacknowledged (R205)? -/
def laneOpen (g : Gang) (s : State) : Bool :=
  g.gstate == .up && !g.members.isEmpty && decide ((link? (memberAt g g.gposTx) s).replay.length < 512)

/-- Sends again the frames that a re-form has yet to send (R211). -/
def pumpResend (gi : Nat) : Nat → State → State
  | 0, s => s
  | fuel + 1, s =>
    match gang? gi s with
    | none => s
    | some g =>
      match g.resend with
      | [] => s
      | u :: us =>
        if !laneOpen g s then s
        else
          let q : QFrame := { sop := u.fr.sop, eop := u.fr.eop, bytes := u.fr.payload.take (u.fr.len + 1) }
          pumpResend gi fuel (putFrame gi u.fr.vc q (modGang gi (fun g => { g with resend := us }) s))

/-- May the gang send a new DATA frame of a VC: with credit, and nothing to send again (R203, R211)? -/
def maySend (gi vc : Nat) (s : State) : Bool :=
  match gang? gi s with
  | none => false
  | some g => laneOpen g s && g.resend.isEmpty && decide (frameCredit g vc > 0)

/-- Sends the frames that wait on a VC while it may. -/
def pumpVc (gi vc : Nat) : Nat → State → State
  | 0, s => s
  | fuel + 1, s =>
    if !maySend gi vc s then s
    else match (gang? gi s).bind (fun g => (tgetD g.sendq vc []).head?) with
      | none => s
      | some q =>
        let s1 := modGang gi (fun g => { g with sendq := tset g.sendq vc (tgetD g.sendq vc []).tail }) s
        pumpVc gi vc fuel (putFrame gi vc q (spendCredit gi vc s1))

/-- Sends what waits on the four VCs, responses first: no response waits behind a request (R203). -/
def pumpGang (gi : Nat) (s : State) : State :=
  let n := fun (v : Nat) (t : State) => match gang? gi t with
    | some g => (tgetD g.sendq v []).length
    | none => 0
  let s0 := pumpResend gi (((gang? gi s).map (fun g => g.resend.length)).getD 0) s
  let s1 := pumpVc gi 1 (n 1 s0) s0
  let s2 := pumpVc gi 0 (n 0 s1) s1
  let s3 := pumpVc gi 2 (n 2 s2) s2
  pumpVc gi 3 (n 3 s3) s3

/-- A gang is defined and not DOWN. -/
def gangAlive (g : Nat) (s : State) : Bool :=
  match gang? g s with
  | some x => x.gstate != .down
  | none => false

/-- Sends a message on a gang (R207); an accelerator gang is woken first (R508). Nothing is put on a gang that is DOWN (R213). -/
def sendMsg (gi : Nat) (m : JMsg) (s0 : State) : State :=
  let s := if (gang? gi s0).any (fun g => g.kind == .accelerator) then wakeFor 6 s0 else s0
  if gangAlive gi s then
    pumpGang gi (modGang gi (fun g => { g with sendq := tset g.sendq m.vc (tgetD g.sendq m.vc [] ++ m.frames) }) s)
  else s

/-! ## Forwarding (R215, R217) -/

/-- Forward and backward gang of a ring (R223): the gang the TOKEN left on, and the parent, or RING_CLOSE at the head. -/
def ringGangs (b : RouteBase) : Option (Nat × Nat) :=
  let sub := (b.roles.find? (fun e => match e.2 with
    | .subtree _ _ => true
    | _ => false)).map Prod.fst
  let close := (b.roles.find? (fun e => e.2 == .ringClose)).map Prod.fst
  match b.parent, sub, close with
  | some p, some f, _ => some (f, p)
  | some p, none, some f => some (f, p)
  | none, some f, some c => some (f, c)
  | _, _, _ => none

/-- Entry of an address as firmware fills it from the roll call (R223). -/
def baseEntry (b : RouteBase) (d : Nat) : Nat :=
  if d = b.addr ∨ d = 0 ∨ d = 0xFFFF then 0
  else if b.ring then
    match ringGangs b with
    | some (f, k) =>
      if d > b.size then 0
      else if (d + b.size - b.addr) % max 1 b.size ≤ (b.addr + b.size - d) % max 1 b.size then 2 ^ 31 + 2 ^ 30 + k * 256 + f
      else 2 ^ 31 + 2 ^ 30 + f * 256 + k
    | none => 0
  else
    match b.roles.find? (fun e => match e.2 with
      | .subtree lo hi => decide (lo ≤ d ∧ d ≤ hi)
      | _ => false) with
    | some e => 2 ^ 31 + e.1
    | none => match b.parent with
      | some p => 2 ^ 31 + p
      | none => 0

/-- Routing table entry of a die (R217): SET_ROUTE's, or what the last run gives. -/
def routeEntry (die dst : Nat) (s : State) : Nat :=
  tgetD s.jl.routes (die * 65536 + dst) ((s.jl.rc.table.map (fun b => baseEntry b dst)).getD 0)

/-- The gang a die's routing table gives for a destination: ALT while PRIMARY is DOWN (R217). -/
def routeGang (die dst : Nat) (s : State) : Option Nat :=
  let e := routeEntry die dst s
  if !bitOf 31 e then none
  else if !gangAlive (bitsOf 5 0 e) s && bitOf 30 e then some (bitsOf 13 8 e)
  else some (bitsOf 5 0 e)

/-! ## Redundancy (R224) -/

/-- Redundancy level in force. -/
def levelNow (s : State) : Nat := max s.jl.rc.level s.jl.rc.raised
/-- Links in SPARE state, and how many a level requires (Table 7-6). -/
def spareCount (s : State) : Nat := s.jl.links.countP (fun e => e.2.lstate == .spare)
def sparesFor (level : Nat) : Nat := if level = 0 then 0 else if level = 1 then 2 else if level = 2 then 4 else 8
def tooFewSpares (s : State) : Bool := decide (spareCount s < sparesFor (levelNow s))
/-- SHORT of JL_RCINFO. -/
def sparesShort (s : State) : Bool := s.jl.rc.short || tooFewSpares s

/-- Firmware compares the spares with the level after a change, and reports a new shortage. -/
def spareCheck (before t : State) : State :=
  if tooFewSpares t && !tooFewSpares before then
    event 0xC2 1 2 0xFF [BitVec.ofNat 8 (levelNow t), BitVec.ofNat 8 (spareCount t), 0, 0] t
  else t

/-- HOPS of a message sent from here: the roll call's latency budget allows so many (R216). -/
def firstHops (s : State) : Nat := max 1 (min 255 s.jl.rc.maxHops)

/-- A FWD message from an engine of this device. -/
def fwdMsg (dst cls : Nat) (data : List Byte) (s : State) : JMsg :=
  { op := 5, flags := 0, tag := 0, len := data.length, dst := dst,
    addr := s.jl.rc.addr + 65536 * firstHops s + 2 ^ 24 * cls, data := data }

/-- This device consumes a FWD message. -/
def consumeFwd (die : Nat) (m : JMsg) (s : State) : State :=
  { s with jl := { s.jl with arrived := s.jl.arrived ++
    [{ die := die, src := m.addr % 65536, cls := m.addr / 2 ^ 24 % 256, data := m.data }] } }

/-- Gangs with a subtree: those that carry TOKENs down, and RESULT. -/
def subtreeGangs (roles : Tab Role) : List Nat := roles.filterMap (fun (e : Nat × Role) => match e.2 with
  | .subtree _ _ => some e.1
  | _ => none)

/-- Tree gangs of the last successful run: parent and subtrees. -/
def treeGangs (s : State) : List Nat := match s.jl.rc.table with
  | some b => subtreeGangs b.roles ++ b.parent.toList
  | none => []

/-- A message of this device that is discarded: it has no gang of arrival, so the die's first link counts it (log 134). -/
def ownDrop (die : Nat) (s : State) : State := bump (bkLink (32 * die)) 6 1 s

/-- An address that the last run has left out of the system, with no entry of SET_ROUTE for it (R221). -/
def outOfSystem (die dst : Nat) (s : State) : Bool :=
  match s.jl.rc.table with
  | some b => decide (dst > b.size) && dst != 0xFFFF && (tget s.jl.routes (die * 65536 + dst)).isNone
  | none => s.jl.rc.rcstate == 3

/-- A FWD message of this device starts on its way, or is discarded as R215 says. -/
def startFwd (die : Nat) (m : JMsg) (s : State) : State :=
  if !s.jl.rc.fwdOn ∨ m.dst = 0 then ownDrop die s
  else if m.dst = s.jl.rc.addr then consumeFwd die m s
  else if m.dst = 0xFFFF then (treeGangs s).foldl (fun (t : State) (o : Nat) => sendMsg o m t) (consumeFwd die m s)
  else match routeGang die m.dst s with
    | some g => sendMsg g m s
    | none => ownDrop die s

/-- Sends a FWD message of an engine, or holds it during a roll-call run (R221). -/
def sendFwd (die dst cls : Nat) (data : List Byte) (s : State) : State :=
  let m := fwdMsg dst cls data s
  if s.jl.rc.rcstate = 1 then { s with jl := { s.jl with rc := { s.jl.rc with held := s.jl.rc.held ++ [(die, m)] } } }
  else startFwd die m s

/-- What is sent to an address cannot arrive: the gang that its route gives is DOWN (R213), or, outside a run, it is no
longer in the system or has no route (R221). Operations that wait for it end with 0x09. -/
def peerLost (die dst : Nat) (s : State) : Bool :=
  if dst = s.jl.rc.addr ∧ dst ≠ 0 then false
  else match routeGang die dst s with
    | some g => !gangAlive g s || (s.jl.rc.rcstate != 1 && outOfSystem die dst s)
    | none => s.jl.rc.rcstate != 1

/-! ## Tags (R209) -/

/-- A free tag of an accelerator gang; 4,096 may be outstanding. -/
def freeTag (g : Gang) : Option Nat := lowestFree (tkeys g.tags) 0 4096

/-- Key of an outstanding piece: gang and tag. -/
def tagKey (g t : Nat) : Nat := g * 65536 + t

/-- Sends a WRITE of up to 4,096 bytes with VISREQ (R208). -/
def sendWrite (gi tag addr : Nat) (xfer : Nat) (data : List Byte) (s : State) : State :=
  sendMsg gi { op := 1, flags := 1, tag := tag, len := data.length, dst := 0, addr := addr, data := data }
    (modGang gi (fun g => { g with
      tags := tset g.tags tag { write := true, xfer := xfer, left := 0, addr := addr, ended := false } }) s)

/-- Sends a READ of up to 4,096 bytes (R208). -/
def sendRead (gi tag addr : Nat) (xfer n : Nat) (s : State) : State :=
  sendMsg gi { op := 2, flags := 0, tag := tag, len := n, dst := 0, addr := addr, data := [] }
    (modGang gi (fun g => { g with
      tags := tset g.tags tag { write := false, xfer := xfer, left := n, addr := addr, ended := false } }) s)

/-- An operation on a gang has ended: its tags stay until their late responses or a further timeout (R209). -/
def endTags (xfer : Nat) (s : State) : State :=
  { s with jl := { s.jl with gangs := s.jl.gangs.map (fun e => (e.1, { e.2 with
      tags := e.2.tags.map (fun t => (t.1, if t.2.xfer = xfer then { t.2 with ended := true } else t.2)) })) } }

end Sys2Proof.Machine
end

