-- ==== Sys2Proof/Machine/QpOps.lean ====
section
/-! DEFINITION. Queue-pair operations without transfers (08, 09): tallies, packets of a message, paths, sending, acknowledgements. -/

namespace Sys2Proof.Machine

open Sys2Proof

def qp? (n : Nat) (s : State) : Option Qp := tget s.qe.qps n
def modQp (n : Nat) (f : Qp → Qp) (s : State) : State := { s with qe := { s.qe with qps := tmod s.qe.qps n f } }
def modX (n : Nat) (f : Xport → Xport) (s : State) : State := modQp n (fun q => { q with x := f q.x }) s

/-! ## Tally counters (R263) -/

def tallyKey (part h : Nat) : Nat := part * 65536 + h
def tallyGet (part h : Nat) (s : State) : DWord := tgetD s.qe.tallies (tallyKey part h) 0
/-- A handle that names a counter of the partition's grant (R230). -/
def tallyOk (part h : Nat) (s : State) : Bool := decide (h < ((part? part s).map Part.tallies).getD 0) && h != 0xFFFF
def tallyPut (part h : Nat) (v : DWord) (s : State) : State :=
  { s with qe := { s.qe with tallies := tset s.qe.tallies (tallyKey part h) v } }
/-- One atomic update; handle 0xFFFF is no counter (R230, R263). -/
def tallyAdd (part h : Nat) (v : DWord) (s : State) : State :=
  if tallyOk part h s then tallyPut part h (tallyGet part h s + v) s else s
/-- The comparison of TWAIT and WAIT (R115, R265). -/
def tallyPassed (part h threshold : Nat) (s : State) : Bool :=
  decide (((tallyGet part h s).toNat % 2 ^ 32 + 2 ^ 32 - threshold % 2 ^ 32) % 2 ^ 32 < 2 ^ 31)

/-! ## Sequence arithmetic (R273) -/

/-- `a - b` modulo 2^32. -/
def diff32 (a b : Nat) : Nat := (a % 2 ^ 32 + 2 ^ 32 - b % 2 ^ 32) % 2 ^ 32
/-- `a` precedes `b`. -/
def before32 (a b : Nat) : Bool := decide (diff32 a b ≥ 2 ^ 31)
def succ32 (a : Nat) : Nat := (a + 1) % 2 ^ 32
/-- `a - b` modulo 2^24, as TYPE 1 counts. -/
def diff24 (a b : Nat) : Nat := (a % 2 ^ 24 + 2 ^ 24 - b % 2 ^ 24) % 2 ^ 24

/-! ## Packets of an operation (R270) -/

/-- Payload bytes of a packet (Table 8-2 MTU). -/
def mtuBytes (code : Nat) : Nat := 512 * 2 ^ code

/-- PT operation of a send operation (Table 9-2). -/
def ptOp : Nat → Nat
  | 1 | 2 => 1
  | 3 | 4 => 2
  | 5 => 3
  | 6 => 5
  | _ => 6

def txPkt (psn op flags msn addr key aux : Nat) (payload : List Byte) : TxPkt :=
  { psn := psn, op := op, flags := flags, msn := msn, addr := addr, key := key, aux := aux, payload := payload, path := 0,
    sends := 0, sentAt := 0, order := 0, acked := false }

/-- Data packets of a message of `op` from offset `off`; a message without data is one empty packet. -/
def cutData (op mtu msn base key : Nat) (imm : Option Nat) : Nat → Nat → Nat → List Byte → List TxPkt
  | 0, _, _, _ => []
  | fuel + 1, psn, off, bs =>
    let last := decide (bs.length ≤ mtu)
    let flags := (if off = 0 then 1 else 0) + (if last then 2 else 0) + (if last && imm.isSome then 4 else 0)
    let p := txPkt psn op flags msn (base + off) key (if last then imm.getD 0 else 0) (bs.take mtu)
    if last then [p] else p :: cutData op mtu msn base key imm fuel (succ32 psn) (off + mtu) (bs.drop mtu)

/-- The packets of a started entry: its data for SEND and WRITE, one request for the others. -/
def cutEntry (q : Qp) (e : SqEnt) (msn : Nat) (data : List Byte) : List TxPkt :=
  let mtu := mtuBytes q.mtu
  let psn := q.x.sndNxt
  let imm := if e.op = 2 ∨ e.op = 4 then some e.imm else none
  match e.op with
  | 1 | 2 => cutData 1 mtu msn 0 0 imm (data.length / mtu + 1) psn 0 data
  | 3 | 4 => cutData 2 mtu msn e.raddr e.key imm (data.length / mtu + 1) psn 0 data
  | 5 => [txPkt psn 3 3 msn e.raddr e.key e.length []]
  | 6 => [txPkt psn 5 3 msn e.raddr e.key 0 (beBytes 8 e.opa.toNat)]
  | _ => [txPkt psn 6 3 msn e.raddr e.key 0 (beBytes 8 e.opa.toNat ++ beBytes 8 e.opb.toNat)]

/-- PSNs that the packets of an entry use: for TYPE 1 a read uses one for each response packet (R289). -/
def psnCount (q : Qp) (e : SqEnt) (pkts : List TxPkt) : Nat :=
  if q.typ = 1 ∧ e.op = 5 then max 1 ((e.length + mtuBytes q.mtu - 1) / mtuBytes q.mtu) else pkts.length

def psnMod (typ : Nat) : Nat := if typ = 1 then 2 ^ 24 else 2 ^ 32

/-- Is a packet one of this QP's own requests? -/
def ownRequest (p : TxPkt) : Bool := p.op != 4 && p.op != 7

/-- Does an operation travel in packets? -/
def netOp (op : Nat) : Bool := decide (1 ≤ op ∧ op ≤ 7)

/-- Packets of one ready operation join the stream: it takes the next MSN and PSNs. -/
def cutOp (n : Nat) (o : SqOp) (data : List Byte) (s : State) : State :=
  match qp? n s with
  | none => s
  | some q =>
    let msn := q.x.msnTx
    let pkts := cutEntry q o.ent msn data
    modQp n (fun q => { q with
      x := { q.x with
        queue := q.x.queue ++ pkts, msnTx := succ32 msn,
        sndNxt := (q.x.sndNxt + psnCount q o.ent pkts) % psnMod q.typ },
      ops := q.ops.map (fun p => if p.idx = o.idx ∧ p.remote = o.remote then
        { p with st := .sent, msn := msn, psn := q.x.sndNxt, npsn := psnCount q o.ent pkts } else p) }) s

/-- The next operation to cut: the first in stream order that has not joined the stream, if it is ready (R257, R258). -/
def nextCut : List SqOp → Option (SqOp × List Byte)
  | [] => none
  | o :: os =>
    if !netOp o.ent.op then
      match o.st with
      | .waiting => none
      | _ => nextCut os
    else match o.st with
      | .ready data => some (o, data)
      | .gathering _ => none
      | _ => nextCut os

/-- Cuts every operation that may join the stream. -/
def cutOps (n : Nat) : Nat → State → State
  | 0, s => s
  | fuel + 1, s =>
    match (qp? n s).bind (fun q => nextCut q.ops) with
    | none => s
    | some (o, data) => cutOps n fuel (cutOp n o data s)

/-! ## Headers (Tables 9-1 and 9-3) -/

def ptHeader (q : Qp) (p : TxPkt) (flags ts : Nat) : List Byte :=
  [1, BitVec.ofNat 8 p.op, BitVec.ofNat 8 flags, BitVec.ofNat 8 q.peerGen] ++ beBytes 4 q.peer ++ beBytes 4 p.psn
    ++ beBytes 4 p.msn ++ beBytes 8 p.addr ++ beBytes 4 p.key ++ beBytes 4 p.aux ++ beBytes 4 ts

/-- A 256-bit bitmap as bytes: bit i from bit 0 of the first byte. -/
def bitmapBytes (b : Nat) : List Byte := leBytes 32 b

def ackHeader (q : Qp) (flags : Nat) (d : AckDue) : List Byte :=
  [1, 8, BitVec.ofNat 8 flags, BitVec.ofNat 8 q.peerGen] ++ beBytes 4 q.peer ++ beBytes 4 q.x.csp ++ beBytes 4 q.x.vmsnRx
    ++ beBytes 4 d.via.ts ++ [BitVec.ofNat 8 d.syndrome, BitVec.ofNat 8 d.dly, 0, 0] ++ beBytes 4 d.nakPsn ++ beBytes 4 0
    ++ bitmapBytes q.x.bitmap

/-! ## Key slots in use (R272) -/

def hasKey (q : Qp) : Bool := q.typ == 0 && q.keySlot != 0xFFFFFFFF

/-- Seals a PT packet under the transmit key: IV from the slot's invocation counter, AES-GCM over header and IV (R272). -/
def sealPt (q : Qp) (header payload : List Byte) (s : State) : List Byte × State :=
  if !hasKey q then (header ++ payload, s)
  else
    let k : KeySlot := tgetD s.sec.keys q.keySlot { usage := 1, part := q.part, key := [], rx := false, count := 0 }
    let iv := beBytes 8 k.count
    let r := Config.aes 4 true k.key (List.replicate 4 0 ++ iv) (header ++ iv) payload
    let s1 := { s with sec := { s.sec with keys := tmod s.sec.keys q.keySlot (fun k => { k with count := k.count + 1 }) } }
    (header ++ iv ++ r.1 ++ r.2, bump (bkCipher q.part) 5 1 s1)

/-! ## Paths (R282, R283) -/

def setBits (mask : Nat) : List Nat := (List.range 8).filter (fun i => bitOf i mask)

/-- Port of a path: the `(k mod b)`-th set bit of PORTMASK. -/
def pathPort (x : Xport) (k : Nat) : Nat :=
  let b := setBits x.portMask
  b.getD (k % max 1 b.length) 0

/-- UDP source port of a path. -/
def pathSport (x : Xport) (k : Nat) : Nat := 49152 + (x.sportBase + k + 8 * (x.repaths.getD k 0)) % 16384

/-- Sub-ports of a mode. -/
def subPorts (mode : Nat) : Nat := if mode = 0 then 1 else if mode = 1 then 2 else 4

/-- The port node a packet leaves by: sub-ports are spread by the UDP source port (R282). -/
def portNode (port sport : Nat) (s : State) : Nat :=
  4 * port + sport % subPorts ((tget s.pp.ports port).map PortSt.mode |>.getD 0)

/-- Is a path penalised, and not every path so? -/
def skipPath (x : Xport) (k : Nat) : Bool :=
  bitOf k x.penalty && !((List.range x.nPaths).all (fun j => bitOf j x.penalty))

/-- The first usable path from `k` on. -/
def usablePath (x : Xport) (k : Nat) : Nat :=
  (((List.range x.nPaths).map (fun j => (k + j) % max 1 x.nPaths)).find? (fun j => !skipPath x j)).getD (k % max 1 x.nPaths)

/-! ## Sending -/

/-- DSCP and PCP of a transmit queue (R268, R338). -/
def txqMarks (txq : Nat) (s : State) : Nat × Nat :=
  match tget s.pp.sched (0x10000 + txq) with
  | some o => (o.set.dscp, o.set.pcp)
  | none => (0, 0)

/-- An IPv4-mapped IPv6 address. -/
def mapped (a : BitVec 128) : Bool := a.toNat / 2 ^ 32 == 0xFFFF

/-- ECT(0) in the ECN field of an IP header. -/
def ect0 : Nat := 2

/-- Sends a PT packet or ACK of a connection: ECT(0), the UDP port, the checksum and the flow label on IPv6 (R268, R269). -/
def sendPt (q : Qp) (port sport : Nat) (payload : List Byte) (s : State) : State :=
  let m := txqMarks q.txq s
  let v6 := !mapped q.peerAddr
  emit (.pkt (portNode port sport s) q.peerAddr sport s.qe.ptPort m.1 ect0 m.2 (if v6 then q.peer else 0) v6 payload) s

/-- The peer of a local pair, where each names the other with its current generation. -/
def localPeer (n : Nat) (q : Qp) (s : State) : Option Qp :=
  match qp? q.peer s with
  | some r => if r.typ = 2 ∧ r.peer = n ∧ r.peerGen = q.gen ∧ q.peerGen = r.gen then some r else none
  | none => none

/-- Hands a packet of a local pair to the peer; without the peer's agreement it goes nowhere. -/
def sendLocal (n : Nat) (q : Qp) (bytes : List Byte) (s : State) : State :=
  match localPeer n q s with
  | none => s
  | some _ =>
    { s with qe := { s.qe with arrived := s.qe.arrived ++
        [{ die := 0, port := 0, src := 0, ce := false, udpSrc := 0, qpn := q.peer, loc := true, roce := false, pool := 8, room := 0, bytes := bytes }] } }

/-! ## RoCEv2 packets (R288): the four ICRC bytes that end each one are left out of the payload -/

/-- Base transport header. -/
def bth (opcode pad : Nat) (q : Qp) (ackReq : Bool) (psn : Nat) : List Byte :=
  [BitVec.ofNat 8 opcode, BitVec.ofNat 8 (0x40 + 16 * pad), 0xFF, 0xFF, 0] ++ beBytes 3 q.peer
    ++ [if ackReq then 0x80 else 0] ++ beBytes 3 psn

def aeth (syndrome msn : Nat) : List Byte := BitVec.ofNat 8 syndrome :: beBytes 3 msn

/-- Sends a packet of a TYPE 1 QP on its one path (Table 9-6). It is marked ECT(0), for the CNPs of the table, and has no UDP
checksum, as the standard says (log 137). -/
def sendRoce (q : Qp) (payload : List Byte) (s : State) : State :=
  let m := txqMarks q.txq s
  let sport := 49152 + q.x.sportBase
  emit (.pkt (portNode (pathPort q.x 0) sport s) q.peerAddr sport 4791 m.1 ect0 m.2 0 false payload) s

/-- Timer code of an RNR NAK: the shortest of the standard's delays that is not below the one asked for. -/
def rnrCode (us : Nat) : Nat := ([10, 20, 30, 40, 60, 80, 120, 160, 240].findIdx (fun t => decide (us ≤ t))) + 1

/-- AETH syndrome of an answer: ACK, RNR NAK, and the NAKs for a remote access error, a remote operational error, a PSN
sequence error and an invalid request. -/
def roceSyndrome (syndrome dly : Nat) : Nat :=
  match syndrome with
  | 0 => 0x1F
  | 1 => 0x20 + rnrCode dly
  | 2 => 0x62
  | 3 => 0x63
  | 4 => 0x60
  | _ => 0x61

/-- The acknowledge packet of a TYPE 1 QP: an ACK names the last visible message's last packet (R289). -/
def sendRoceAck (q : Qp) (syndrome dly nakPsn : Nat) (s : State) : State :=
  sendRoce q (bth 17 0 q false (if syndrome = 0 then q.x.ackPsn else nakPsn) ++ aeth (roceSyndrome syndrome dly) q.x.vmsnRx) s

/-- An ACK falls due, in answer to a packet (R271, R276). A TYPE 1 QP sends its own at once. -/
def ackVia (n : Nat) (d : AckDue) (s : State) : State :=
  match qp? n s with
  | none => s
  | some q =>
    if q.typ = 1 then sendRoceAck q d.syndrome d.dly d.nakPsn (modX n (fun x => { x with ackDue := false }) s)
    else modX n (fun x => { x with due := x.due ++ [d] }) s

/-- The same, in answer to the last packet received. -/
def sendAck (n syndrome dly nakPsn : Nat) (s : State) : State :=
  ackVia n { via := ((qp? n s).map (fun q => q.x.via)).getD Via.zero, syndrome := syndrome, dly := dly, nakPsn := nakPsn } s

/-- Sends an ACK of a connection, on the path of the packet that triggered it. -/
def putAck (n : Nat) (s : State) (d : AckDue) : State :=
  match qp? n s with
  | none => s
  | some q =>
    let h := ackHeader q ((if hasKey q then 16 else 0) + (if q.x.ece then 64 else 0)) d
    let s1 := modX n (fun x => { x with ackDue := false, ece := false }) s
    if q.typ = 2 then sendLocal n q h s1
    else
      let r := sealPt q h [] s1
      sendPt q d.via.port d.via.sport r.1 r.2

/-- ACKs that have fallen due together, merged: each refusal has its own, and one of them serves for the plain ones too
(R276, log 138). -/
def mergeDue (l : List AckDue) : List AckDue :=
  let naks := (l.filter (fun d => d.syndrome != 0)).eraseDups
  if naks.isEmpty then l.getLast?.toList else naks

/-- Sends what has fallen due on a QP. -/
def flushDue (s : State) (n : Nat) : State :=
  (mergeDue (((qp? n s).map (fun q => q.x.due)).getD [])).foldl (putAck n) (modX n (fun x => { x with due := [] }) s)

/-- Sends the ACKs of the step. -/
def flushAcks (s : State) : State := (tkeys (s.qe.qps.filter (fun e => !e.2.x.due.isEmpty))).foldl flushDue s

/-- Payload bytes sent and not acknowledged (R284). -/
def inflight (x : Xport) : Nat := (x.unacked.filter (fun p => !p.acked)).foldl (fun a p => a + p.payload.length) 0

/-- May the packet at the front of the stream be sent: no new one during an RNR wait, the window, and 256 consecutive PSNs (R277,
R280, R284)? -/
def sendable (q : Qp) (p : TxPkt) : Bool :=
  (!q.x.rnrWait || p.sends != 0) &&
  (q.typ == 2 || decide (inflight q.x + p.payload.length ≤ q.x.cwnd)) &&
  (p.sends != 0 || (if q.typ = 1 then decide (diff24 p.psn q.x.sndUna < 256) else decide (diff32 p.psn q.x.sndUna < 256)))

/-- Does the QP's state let its stream run (Table 8-3)? -/
def streaming (q : Qp) : Bool :=
  q.qstate == .rtr || q.qstate == .rts || q.qstate == .draining || q.qstate == .drained

/-- A QP is ready when it has a packet that may be sent. -/
def qpReady (q : Qp) : Bool :=
  streaming q && match q.x.queue with
    | p :: _ => sendable q p
    | [] => false

/-- Path of the next transmission of a packet: new packets take the paths in turn, a lost one the next usable path after that of its
last copy (R278, R283). -/
def txPath (p : TxPkt) (x : Xport) : Nat := if p.sends = 0 then usablePath x x.nextPath else usablePath x (p.path + 1)

/-- Books a packet as sent: time, path, order and number of transmissions (R277). -/
def bookSent (p : TxPkt) (path : Nat) (now : Nat) (x : Xport) : Xport :=
  let g := { p with path := path, sends := p.sends + 1, sentAt := now, order := x.txOrder, acked := false }
  { x with
    queue := x.queue.tail, unacked := x.unacked ++ [g], txOrder := x.txOrder + 1,
    nextPath := if p.sends = 0 then (path + 1) % max 1 x.nPaths else x.nextPath,
    sinceReq := if bitOf 1 p.flags ∨ x.sinceReq ≥ 15 then 0 else x.sinceReq + 1,
    pathSent := tset x.pathSent path (tgetD x.pathSent path 0 + 1) }

/-- FLAGS of a packet at this transmission: ACKREQ on EOM and on every 16th packet, ENC, RETX (R270, R277). -/
def sendFlags (q : Qp) (p : TxPkt) : Nat :=
  p.flags + (if bitOf 1 p.flags ∨ q.x.sinceReq ≥ 15 then 8 else 0) + (if hasKey q then 16 else 0) + (if p.sends > 0 then 32 else 0)

/-- Local pairs move their packets to the peer as they become sendable. -/
def pumpLocal (n : Nat) : Nat → State → State
  | 0, s => s
  | fuel + 1, s =>
    match qp? n s with
    | none => s
    | some q =>
      if q.typ = 2 ∧ qpReady q = true ∧ (localPeer n q s).isSome then
        match q.x.queue with
        | [] => s
        | p :: _ =>
          let bytes := ptHeader q p (sendFlags q p) (s.chip.lcount % 2 ^ 32) ++ p.payload
          pumpLocal n fuel (sendLocal n q bytes (modX n (bookSent p 0 s.chip.lcount) s))
      else s

/-- Cuts what may join the stream, and lets a local pair move on. -/
def pumpQp (n : Nat) (s : State) : State :=
  let k := ((qp? n s).map (fun q => q.ops.length)).getD 0
  let s1 := cutOps n k s
  pumpLocal n (((qp? n s1).map (fun q => q.x.queue.length)).getD 0) s1

/-! ## Accesses through TGT 0x7 (R241) -/

def SqEnt.zero : SqEnt :=
  { op := 8, flags := 0, length := 0, laddr := 0, raddr := 0, key := 0, imm := 0, wrid := 0, opa := 0, opb := 0, tally := 0xFFFF }

/-- An access of a transfer joins the SQ's stream after every started entry: a WRITE of `data`, or a READ of `n` bytes.
`off` is where its
bytes stand in the transfer's data. -/
def remoteOp (n xfer : Nat) (write : Bool) (raddr key : Nat) (off len : Nat) (data : List Byte) (idx : Nat) (s : State) : State :=
  let e := { SqEnt.zero with op := if write then 3 else 5, length := len, laddr := off, raddr := raddr, key := key }
  let o : SqOp :=
    { idx := idx, ent := e, st := .ready data, msn := 0, psn := 0, npsn := 0, remote := some xfer, left := if write then 0 else len,
      rcvd := 0, moved := 0, failAt := none, samePath := false }
  pumpQp n (modQp n (fun q => { q with ops := q.ops ++ [o] }) s)

end Sys2Proof.Machine
end

