-- ==== Sys2Proof/Machine/Translate.lean ====
section
/-! DEFINITION. Address translation (06): page table entries, walks, the TLB and walk cache, access checks, fault records. -/

namespace Sys2Proof.Machine

open Sys2Proof

/-! ## Page table entries (R172 to R176) -/

/-- Page size of a leaf at a level, as a power of two (Table 6-1). -/
def levelBits : Nat → Nat
  | 0 => 16
  | 1 => 21
  | 2 => 30
  | _ => 38

/-- Index of an address into a table of a level (Table 6-1). -/
def levelIndex (rootBits level va : Nat) : Nat :=
  match level with
  | 0 => va / 2 ^ 16 % 32
  | 1 => va / 2 ^ 21 % 512
  | 2 => va / 2 ^ 30 % 256
  | _ => va / 2 ^ 38 % 2 ^ rootBits

/-- Alignment a table of a level needs (R172). -/
def tableAlign : Nat → Nat
  | 0 => 512
  | 1 => 8192
  | _ => 4096

/-- A page table entry as read (Table 6-2). -/
structure Pte where
  v : Bool
  isLeaf : Bool
  r : Bool
  w : Bool
  hp : Bool
  rsvd : Nat
  tgt : Nat
  unit : Nat
  key : Nat
  addr : Nat
  deriving DecidableEq, Repr

def Pte.parse (bs : List Byte) : Pte :=
  let f := leNat (bs.take 4)
  { v := bitOf 0 f, isLeaf := bitOf 1 f, r := bitOf 2 f, w := bitOf 3 f, hp := bitOf 4 f, rsvd := bitsOf 7 5 f,
    tgt := bitsOf 11 8 f, unit := bitsOf 31 12 f, key := leNat ((bs.drop 4).take 4), addr := leNat ((bs.drop 8).take 8) }

/-- A leaf of a level names a target in its range, aligned and of an allowed page size (Table 6-3, R176). -/
def leafOk (density level : Nat) (e : Pte) : Bool :=
  let size := 2 ^ levelBits level
  e.addr % size == 0 && (e.tgt == 7 || e.key == 0) &&
  match e.tgt with
  | 1 => decide (level ≤ 1 ∧ e.unit < 128 ∧ e.addr + size ≤ 0xA00000)
  | 2 => decide (level = 0 ∧ e.unit < 4 ∧ e.addr + size ≤ 2 ^ 26)
  | 3 => decide (level ≤ 2 ∧ e.unit = 0 ∧ e.addr + size ≤ gddrSize density)
  | 4 => decide (level ≤ 2 ∧ e.unit = 0 ∧ e.addr + size ≤ 2 ^ 40)
  | 5 => decide (e.unit < 256)
  | 6 => decide (e.unit < 64)
  | 7 => true
  | _ => false

/-- Does an entry break R176? -/
def malformed (density level : Nat) (e : Pte) : Bool :=
  e.rsvd != 0 ||
  (if e.isLeaf then !leafOk density level e
   else level == 0 || e.tgt != 0 || e.unit != 0 || e.key != 0 || e.r || e.w || e.hp ||
     e.addr % tableAlign (level - 1) != 0)

/-- What an entry read at a level leads to. -/
inductive WalkStep where
  | leaf (l : Leaf)
  | table (addr : Nat)
  | fault (reason : Nat)
  deriving DecidableEq, Repr

def walkStep (density level pte : Nat) (bs : List Byte) : WalkStep :=
  let e := Pte.parse bs
  if !e.v then .fault 1
  else if malformed density level e then .fault 4
  else if e.isLeaf then
    .leaf { tgt := e.tgt, unit := e.unit, key := e.key, addr := e.addr, r := e.r, w := e.w, hp := e.hp,
            size := levelBits level, pte := pte, level := level }
  else .table e.addr

/-! ## TLB and walk cache (R181, R182) -/

def pageBase (va size : Nat) : Nat := va / 2 ^ size * 2 ^ size

/-- The set a translation lies in. -/
def tlbSet (part page size : Nat) : Nat := ((page / 2 ^ size) ^^^ (61 * part)) % 4096

/-- The entry of a page in its set. -/
def tlbFind (part va size : Nat) (s : State) : Option Leaf :=
  ((tgetD s.xl.tlb (tlbSet part (pageBase va size) size) []).find?
    (fun e => e.part == part && e.page == pageBase va size && e.leaf.size == size)).map TlbEnt.leaf

/-- Makes an entry the most recently used of its set; a set holds eight (R181). -/
def tlbTouch (part va : Nat) (l : Leaf) (s : State) : State :=
  let page := pageBase va l.size
  let k := tlbSet part page l.size
  let rest := (tgetD s.xl.tlb k []).filter (fun e => !(e.part == part && e.page == page && e.leaf.size == l.size))
  { s with xl := { s.xl with tlb := tset s.xl.tlb k (({ part := part, page := page, leaf := l } :: rest).take 8) } }

/-- A lookup probes the set of each of the four sizes at once (R181). -/
def tlbLookup (part va : Nat) (s : State) : Option Leaf :=
  [16, 21, 30, 38].findSome? (fun z => tlbFind part va z s)

/-- Shift of the leading bits that an entry of a level covers. -/
def wcFind (part level va : Nat) (s : State) : Option Nat :=
  (s.xl.wcache.find? (fun e => e.part == part && e.level == level && e.head' == va / 2 ^ levelBits level)).map WcEnt.table

/-- Caches a non-leaf entry; the cache holds 4,096 (R182). -/
def wcPut (part level va table : Nat) (s : State) : State :=
  let p := va / 2 ^ levelBits level
  let rest := s.xl.wcache.filter (fun e => !(e.part == part && e.level == level && e.head' == p))
  { s with xl := { s.xl with wcache := (({ part := part, level := level, head' := p, table := table } : WcEnt) :: rest).take 4096 } }

/-- Where a walk starts: the deepest cached level, else the root (R182). -/
def walkStart (part va : Nat) (s : State) : Nat × Nat :=
  match wcFind part 1 va s with
  | some t => (0, t)
  | none =>
    match wcFind part 2 va s with
    | some t => (1, t)
    | none =>
      match wcFind part 3 va s with
      | some t => (2, t)
      | none => (3, (trans? part s).root)

/-- Address of the entry a walk reads at a level. -/
def pteAddr (part level table va : Nat) (s : State) : Nat :=
  table + 16 * levelIndex (trans? part s).rootBits level va

/-- A page table read of 16 bytes sent to the host, counted (R174, R182). Reads of walks are numbered by walk (log 21). -/
def walkRead1 (func addr : Nat) (s : State) : State :=
  emit (.hostRead func addr 16 (1024 + freshKey s.xl.walks)) (bump (bkHost func) 1 16 (bump (bkHost func) 0 1 s))

/-- Outcome of a translation. -/
inductive Xlate where
  | leaf (l : Leaf) (s : State)
  | fault (reason level pte : Nat) (s : State)

/-- A walk done at once, as the ring accesses of the engines use it: it reads one entry for each level. -/
def walkNow (part va : Nat) : Nat → Nat → Nat → State → Xlate
  | 0, level, table, s => .fault 4 level table s
  | fuel + 1, level, table, s =>
    let a := pteAddr part level table va s
    let s1 := walkRead1 (trans? part s).func a s
    match walkStep s.tiers.density level a (rdMem spHost a 16 s) with
    | .leaf l => .leaf l (tlbTouch part va l (bump (bkTrans part) 2 1 s1))
    | .fault r => .fault r level a (bump (bkTrans part) 2 1 s1)
    | .table t => walkNow part va fuel (level - 1) t (wcPut part level va t s1)

/-- Translates at once: a TLB hit, or a walk (R181, R182). -/
def xlateNow (part va : Nat) (s : State) : Xlate :=
  match tlbLookup part va s with
  | some l => .leaf l (tlbTouch part va l (bump (bkTrans part) 0 1 s))
  | none =>
    let st := walkStart part va s
    walkNow part va 4 st.1 st.2 (bump (bkTrans part) 1 1 s)

/-! ## Address and access checks (R170 to R173, R177 to R179, R185) -/

/-- Does the address end its transfer at once, and is the end counted as DENIED (R170, R171, R173)? -/
def addrDenied (part lo hi : Nat) (s : State) : Option Bool :=
  let t := trans? part s
  if hi ≥ 2 ^ 57 then some true
  else if !t.set then some false
  else if hi ≥ 2 ^ (38 + t.rootBits) then some true
  else if lo > hi then some true
  else none

/-- Ranges that may adjoin cover a range together. -/
def rangesCover (l : List TierRange) : Nat → Nat → Nat → Bool
  | 0, _, _ => false
  | fuel + 1, addr, n =>
    match l.find? (fun r => decide (r.base ≤ addr ∧ addr < r.base + r.size)) with
    | none => false
    | some r => decide (addr + n ≤ r.base + r.size) || rangesCover l fuel (r.base + r.size) (addr + n - (r.base + r.size))

/-- Tier ranges of a partition hold a range (R149). -/
def allotted (part : Nat) (t : Tier) (addr n : Nat) (s : State) : Bool :=
  match part? part s with
  | some p => rangesCover (p.allot.filter (fun r => r.tier == t)) (p.allot.length + 1) addr n
  | none => false

/-- What the checks of an access answer. -/
inductive Check where
  | pass
  /-- 0x03 to the requester of a remote access (R179) -/
  | remote
  | fault (reason : Nat)
  | denied
  | hold (why : HoldWhy)
  deriving DecidableEq, Repr

/-- The tile a TGT 0x1 leaf names, where its group is resident: slot `unit / 8`, tile `unit % 8`. -/
def leafTile (g : Group) (unit : Nat) : Nat := ((g.first + unit / 8) % 16) * 8 + unit % 8

/-- A range of a slot-relative tile lies on a resident weights region (R79, R177). -/
def onResident (g : Group) (slot tile addr n : Nat) : Bool :=
  match tget g.slots slot with
  | some st => st.regions.any (fun r => r.region.kind == .weights && r.region.tile == tile &&
      (regionRanges r.region).any (fun x => overlap addr n x.1 x.2))
  | none => false

/-- The checks of R177 to R179 for `n` bytes at target address `ta`. -/
def checkTarget (part : Nat) (l : Leaf) (write : Bool) (ta n : Nat) (s : State) : Check :=
  match l.tgt with
  | 1 =>
    match group? part s with
    | none => .denied
    | some g =>
      if (tget g.slots (l.unit / 8)).isNone then .denied
      else if g.phase ≠ .resident then .hold .sliced
      else if write && onResident g (l.unit / 8) (l.unit % 8) ta n then .denied
      else .pass
  | 2 =>
    match part? part s with
    | some p => if p.staging.any (fun r => r.1 == l.unit && inside ta n r.2.1 r.2.2) then .pass else .denied
    | none => .denied
  | 3 => if allotted part .gddr ta n s then .pass else .denied
  | 4 => if allotted part .cxl ta n s then .pass else .denied
  | 5 =>
    if funcPart l.unit s ≠ part then .denied
    else if mayRequest l.unit s then .pass else .hold (.func l.unit)
  | 6 =>
    match tget s.jl.gangs l.unit with
    | some g => if g.grant = some part ∧ g.kind = .accelerator then .pass else .denied
    | none => .denied
  | _ => .pass

/-- The whole check of a leaf for an access: HP, then R, then W, then the target (R179, R185, R177). -/
def checkLeaf (part : Nat) (l : Leaf) (write atomic remote : Bool) (ta n : Nat) (s : State) : Check :=
  if remote && !l.hp then .remote
  else if (!write || atomic) && !l.r then .fault 3
  else if (write || atomic) && !l.w then .fault 2
  else checkTarget part l (write || atomic) ta n s

/-! ## Faults (R185 to R192) -/

/-- Transfers of a partition stalled on faults (STALLED, R192). -/
def stalledCount (part : Nat) (s : State) : Nat := s.xl.faults.countP (fun f => f.part == part && !f.ended)
/-- Back-pressure (BP, R192). -/
def backPressure (part : Nat) (s : State) : Bool := decide (stalledCount part s > 256)
/-- Faults that wait for queue space (WAITING, R191). -/
def waitingCount (part : Nat) (s : State) : Nat := s.xl.faults.countP (fun f => f.part == part && !f.written)

/-- Bytes 0 to 62 of a fault record (Table 6-5). -/
def FaultRec.bytes (f : FaultRec) : List Byte :=
  leBytes 8 f.vaddr ++ leBytes 8 f.pte ++ leBytes 8 f.time ++ leBytes 4 f.length ++ leBytes 4 f.ctx ++ leBytes 2 f.tag
    ++ [BitVec.ofNat 8 f.reason, BitVec.ofNat 8 f.level, BitVec.ofNat 8 f.access, BitVec.ofNat 8 f.agent]
    ++ leBytes 2 f.unit ++ List.replicate 23 0

/-- Writes a record at the tail of the partition's queue, PHASE last, with a message into an empty queue (R186, R187). -/
def writeFault (f : FaultRec) (s : State) : State :=
  let t := trans? f.part s
  let a := t.fqBase + 64 * t.tail
  let s1 := hostWrite t.func (a + 63) [if t.tphase then 1 else 0] (hostWrite t.func a f.bytes s)
  let s2 := modTrans f.part (fun t => { t with
    tail := (t.tail + 1) % 4096,
    tphase := if t.tail = 4095 then !t.tphase else t.tphase,
    unreleased := t.unreleased + 1 }) (bump (bkTrans f.part) 3 1 s1)
  if t.unreleased = 0 then msix t.func t.vec s2 else s2

/-- A tag that no outstanding fault of the partition has (Table 6-5, log 9). -/
def freshTag (part : Nat) (s : State) : Nat :=
  firstFree ((s.xl.faults.filter (fun f => f.part == part)).map FaultRec.tag) 65536 (trans? part s).nextTag % 65536

/-- Raises a fault of a transfer: its record is written, or held back while the queue is full or
its function may not send (R185, R186, R191, R439). -/
def raiseFault (x : Nat) (f : FaultRec) (s : State) : State :=
  let t := trans? f.part s
  let g := { f with tag := freshTag f.part s, xfer := x }
  let s1 := modTrans f.part (fun t => { t with nextTag := (g.tag + 1) % 65536 }) s
  if t.unreleased < 4096 && waitingCount f.part s == 0 && mayRequest t.func s then
    writeFault g { s1 with xl := { s1.xl with faults := s1.xl.faults ++ [{ g with written := true }] } }
  else if t.unreleased < 4096 then { s1 with xl := { s1.xl with faults := s1.xl.faults ++ [{ g with written := false }] } }
  else
    let s2 := { s1 with xl := { s1.xl with faults := s1.xl.faults ++ [{ g with access := g.access + 4, written := false }] } }
    bump (bkTrans f.part) 4 1 (modTrans f.part (fun t => { t with ovf := true }) s2)

/-- Takes a fault out of the outstanding ones. -/
def dropFault (part tag : Nat) (s : State) : State :=
  { s with xl := { s.xl with faults := s.xl.faults.filter (fun f => !(f.part == part && f.tag == tag)) } }

/-- A fault has timed out: it is outstanding no more. A record that waits for queue space is not withdrawn (R190, R191). -/
def expireFault (part tag : Nat) (s : State) : State :=
  { s with xl := { s.xl with faults := (s.xl.faults.map (fun f =>
      if f.part == part && f.tag == tag then { f with ended := true } else f)).filter (fun f => !(f.ended && f.written)) } }

/-- Writes waiting faults of a partition in the order they were raised while there is room (R191). -/
def drainFaults (part : Nat) : Nat → State → State
  | 0, s => s
  | fuel + 1, s =>
    if (trans? part s).unreleased ≥ 4096 ∨ !mayRequest (trans? part s).func s then s
    else match s.xl.faults.find? (fun f => f.part == part && !f.written) with
      | none => s
      | some f =>
        let s1 := { s with xl := { s.xl with
          faults := s.xl.faults.map (fun g => if g.part == part && g.tag == f.tag then { g with written := true } else g) } }
        drainFaults part fuel (writeFault f (if f.ended then dropFault part f.tag s1 else s1))


end Sys2Proof.Machine
end

