-- ==== Sys2Proof/Machine/Transfer.lean ====
section
/-! DEFINITION. Transfers (06): units, their translation and checks, movement on every target, holds, ends; ring accesses done at once. -/

namespace Sys2Proof.Machine

open Sys2Proof

/-! ## Starting -/

/-- A contiguous range. -/
def Rows.flat (va n : Nat) : Rows := { base := va, rows := 1, rowLen := n, stride := 0 }

/-- A transfer as an engine starts it. -/
def Xfer.mk' (part agent unit ctx : Nat) (o : Owner) (write : Bool) (va : Rows) (data : List Byte) : Xfer :=
  { part := part, agent := agent, unit := unit, ctx := ctx, owner := o, write := write, atomic := 0, opa := 0, opb := 0,
    remote := false, probe := false, va := va, data := data, samePath := none, spOk := false, pos := 0, got := [], st := .ready, todo := [],
    hpieces := [], jpieces := [], zneed := [], zwait := [], rops := [], fails := [], admitted := false, heldSeq := 0, inner := true,
    firstFault := none }

/-- Bytes of a transfer. -/
def Rows.total (v : Rows) : Nat := v.rows * v.rowLen

/-- Adds a transfer: its number and the state with it. One of no bytes is done at once. -/
def startXfer (f : Xfer) (s : State) : Nat × State :=
  let x := s.xl.nextXfer
  let g := if f.va.total = 0 then { f with st := .done Config.ccOk } else f
  (x, setXfer x g { s with xl := { s.xl with nextXfer := x + 1 } })

def modXfer (x : Nat) (f : Xfer → Xfer) (s : State) : State :=
  { s with xl := { s.xl with xfers := tmod s.xl.xfers x f } }

/-! ## Units (R183) -/

/-- Segments (address, length) of the unit at position `pos`. -/
def unitSegs (v : Rows) (pos : Nat) : List (Nat × Nat) :=
  let len := max 1 v.rowLen
  let r := pos / len
  if v.rows ≤ 1 ∨ v.rowLen > 65536 ∨ pos % len ≠ 0 then
    let off := pos % len
    let va := v.base + r * v.stride + off
    [(va, min (v.rowLen - off) (65536 - va % 65536))]
  else
    let n := min (v.rows - r) (min 64 (65536 / len))
    (List.range n).map (fun i => (v.base + (r + i) * v.stride, v.rowLen))

def segsLen (l : List (Nat × Nat)) : Nat := l.foldl (fun a p => a + p.2) 0

/-- A piece of a unit on one page. -/
structure UPiece where
  va : Nat
  len : Nat
  leaf : Leaf
  deriving DecidableEq, Repr

/-- Target address of a piece. -/
def UPiece.ta (p : UPiece) : Nat := p.leaf.addr + p.va % 2 ^ p.leaf.size

/-- What the translation and checks of a unit lead to (R184). -/
inductive UnitRes where
  | pieces (l : List UPiece) (s : State)
  | miss (va : Nat) (s : State)
  | stop (c : Check) (va : Nat) (leaf : Leaf) (s : State)

/-- A page of the unit that is translated already. -/
def gotFind (got : List (Nat × Leaf)) (va : Nat) : Option Leaf :=
  (got.find? (fun e => pageBase va e.2.size == e.1)).map Prod.snd

/-- The leaf of a page: held by the unit, or a TLB lookup, which is counted (R181). -/
def unitPage (f : Xfer) (va : Nat) (s : State) : Option Leaf × State :=
  match gotFind f.got va with
  | some l => (some l, s)
  | none =>
    match tlbLookup f.part va s with
    | some l => (some l, tlbTouch f.part va l (bump (bkTrans f.part) 0 1 s))
    | none => (none, bump (bkTrans f.part) 1 1 s)

/-- An atomic on a host or accelerator page is refused, on a remote page not carried out (R241, R253). -/
def atomicCheck (f : Xfer) (l : Leaf) : Option Check :=
  if f.atomic = 0 then none
  else if f.remote && !l.hp then none
  else if l.tgt = 5 ∨ l.tgt = 6 then some .remote
  else if l.tgt = 7 then some .denied
  else none

/-- Translates and checks the pages of segments in transfer order (R184). -/
def xlateSegs (f : Xfer) : Nat → List (Nat × Nat) → List UPiece → State → UnitRes
  | 0, _, acc, s => .pieces acc.reverse s
  | _, [], acc, s => .pieces acc.reverse s
  | fuel + 1, (va, len) :: rest, acc, s =>
    match unitPage f va s with
    | (none, t) => .miss va t
    | (some l, t) =>
      let k := min len (2 ^ l.size - va % 2 ^ l.size)
      let p : UPiece := { va := va, len := k, leaf := l }
      let c := match atomicCheck f l with
        | some c => c
        | none => checkLeaf f.part l f.write (f.atomic != 0) f.remote p.ta k t
      match c with
      | .pass => xlateSegs f fuel (if k < len then (va + k, len - k) :: rest else rest) (p :: acc) t
      | c => .stop c va l t

/-! ## Ends -/

/-- Ends a transfer with a completion code; what it still awaits no longer matters. -/
def endXfer (x code : Nat) (s : State) : State :=
  endTags x (modXfer x (fun f => { f with st := .done code, todo := [], hpieces := [], jpieces := [], rops := [] }) s)

/-- Offsets of the parts of a transfer that are under way or still to be sent. -/
def partsOut (x : Nat) (f : Xfer) (s : State) : List Nat :=
  f.todo.map Cut.off ++ f.hpieces.map (fun e => e.2.off) ++ f.jpieces.map (fun e => e.2.off) ++
  f.rops.filterMap (fun r => ((qp? r.1 s).bind (fun q => q.ops.find? (fun o => o.idx == r.2 && o.remote == some x))).map (fun o => o.ent.laddr))

/-- The failure that comes first in issue order, of a part and its code. -/
def firstFail (l : List (Nat × Nat)) : Option (Nat × Nat) :=
  l.foldl (fun a p => match a with
    | some q => if p.1 < q.1 then some p else a
    | none => some p) none

/-- A transfer with failures ends with the first of them in issue order, once no part before it is under way (R262). -/
def settleFails (x : Nat) (s : State) : State :=
  match xfer? x s with
  | none => s
  | some f =>
    match firstFail f.fails with
    | none => s
    | some (off, code) => if (partsOut x f s).any (fun o => decide (o < off)) then s else endXfer x code s

/-- The part of a transfer at an offset has failed: nothing behind it is sent any more (R262). -/
def failPart (x off code : Nat) (s : State) : State :=
  settleFails x (modXfer x (fun f => { f with
    st := .moving, fails := f.fails ++ [(off, code)], todo := f.todo.filter (fun c => decide (c.off < off)) }) s)

/-- Ends it as a denied access, which is counted (R170, R173, R177). -/
def denyXfer (x part off : Nat) (s : State) : State := bump (bkTrans part) 7 1 (failPart x off Config.ccProtection s)

/-- The part that a host tag carries fails. -/
def failHostPart (x tag code : Nat) (s : State) : State :=
  match (xfer? x s).bind (fun f => tget f.hpieces tag) with
  | none => s
  | some p => failPart x p.off code (modXfer x (fun f => { f with hpieces := tdel f.hpieces tag }) s)

/-- The part that a JL tag carries fails. -/
def failJlPart (x key code : Nat) (s : State) : State :=
  match (xfer? x s).bind (fun f => tget f.jpieces key) with
  | none => s
  | some p => failPart x p.off code (modXfer x (fun f => { f with jpieces := tdel f.jpieces key }) s)

/-- The unit that a transfer stands at fails. -/
def failUnit (x code : Nat) (s : State) : State :=
  match xfer? x s with
  | none => s
  | some f => failPart x f.pos code s

/-- Every part of a transfer on a lost gang fails. -/
def failGangParts (gi code : Nat) (s : State) (x : Nat) : State :=
  match xfer? x s with
  | none => s
  | some f =>
    let mine := fun (p : Nat × Piece) => p.1 / 65536 == gi
    let cut := fun (c : Cut) => !c.host && c.unit == gi
    match (((f.jpieces.filter mine).map (fun e => e.2.off)) ++ (f.todo.filter cut).map Cut.off).min? with
    | none => s
    | some off =>
      failPart x off code (modXfer x (fun f => { f with
        jpieces := f.jpieces.filter (fun p => !mine p), todo := f.todo.filter (fun c => !cut c) }) s)

/-! ## Walks (R182) -/

def walksOf (part : Nat) (s : State) : Nat := s.xl.walks.countP (fun e => e.2.part == part)

/-- Sends the read of the entry a walk stands at (R174). Reads of walks are numbered by walk (log 21). -/
def sendWalkRead (w : Nat) (k : Walk) (s : State) : State :=
  emit (.hostRead k.func (pteAddr k.part k.level k.table k.va s) 16 (1024 + w)) (bump (bkHost k.func) 0 1 s)

/-- Starts a walk in a free slot. -/
def beginWalk (part va : Nat) (s : State) : State :=
  let w := freshKey s.xl.walks
  let st := walkStart part va s
  let k : Walk := { part := part, va := va, level := st.1, table := st.2, func := (trans? part s).func, discarded := false }
  sendWalkRead w k { s with xl := { s.xl with walks := tset s.xl.walks w k } }

def walkRoom (part : Nat) (s : State) : Bool := decide (s.xl.walks.length < 64) && decide (walksOf part s < 16)

/-- Asks for a walk of an address: it starts, or waits in arrival order for a slot. A walk of the same 64 KiB that runs or
waits already serves. -/
def askWalk (part va : Nat) (s : State) : State :=
  if s.xl.walks.any (fun e => e.2.part == part && e.2.va / 65536 == va / 65536 && !e.2.discarded) ||
      s.xl.walkq.any (fun e => e.1 == part && e.2 / 65536 == va / 65536) then s
  else if walkRoom part s && !s.xl.walkq.any (fun e => e.1 == part) then beginWalk part va s
  else { s with xl := { s.xl with walkq := s.xl.walkq ++ [(part, va)] } }

/-- Starts waiting walks while slots are free, in arrival order. -/
def drainWalks : Nat → State → State
  | 0, s => s
  | fuel + 1, s =>
    match s.xl.walkq.find? (fun e => walkRoom e.1 s) with
    | none => s
    | some e => drainWalks fuel (beginWalk e.1 e.2 { s with xl := { s.xl with walkq := s.xl.walkq.erase e } })

/-! ## Movement -/

/-- Space and address of a piece on one of the part's own memories. -/
def innerPlace (part : Nat) (p : UPiece) (s : State) : Option Place :=
  match p.leaf.tgt with
  | 1 => (group? part s).map (fun g => ⟨spTile (leafTile g p.leaf.unit), p.ta⟩)
  | 2 => some ⟨spSlab p.leaf.unit, p.ta⟩
  | 3 => some ⟨spGddr, p.ta⟩
  | 4 => some ⟨spCxl, p.ta⟩
  | _ => none

/-- Class of a path under R261: host memory, a gang, or the part's own memories. -/
def pathClass (l : Leaf) : Nat := if l.tgt = 5 then 5 else if l.tgt = 6 then 64 + l.unit else if l.tgt = 7 then 7 else 1

/-- Cuts a range where a multiple of `lim` is crossed (R435). -/
def cutRange (host : Bool) (unit lim : Nat) : Nat → Nat → Nat → Nat → List Cut
  | 0, _, _, _ => []
  | fuel + 1, addr, off, len =>
    if len = 0 then []
    else
      let k := min len (lim - addr % lim)
      { host := host, unit := unit, addr := addr, off := off, len := k } :: cutRange host unit lim fuel (addr + k) (off + k) (len - k)

def mpsBytes (s : State) : Nat := 128 * 2 ^ min s.ep.mps 2
def mrrsBytes (s : State) : Nat := 128 * 2 ^ min s.ep.mrrs 5

/-- Posted writes of a range under a function, split by the payload size (R435). -/
def postWrites (func : Nat) : Nat → Nat → List Byte → State → State
  | 0, _, _, s => s
  | fuel + 1, addr, bs, s =>
    if bs.isEmpty then s
    else
      let k := min bs.length (mpsBytes s - addr % mpsBytes s)
      postWrites func fuel (addr + k) (bs.drop k) (hostWrite func addr (bs.take k) s)

/-- Puts bytes into the data of a transfer. -/
def spliceAt (data : List Byte) (off : Nat) (bs : List Byte) : List Byte :=
  data.take off ++ bs ++ data.drop (off + bs.length)

/-- Outcome of moving a piece. -/
inductive Moved where
  | ok (s : State)
  | fail (off code : Nat) (s : State)
  /-- a line is held that no check before the movement could tell (R158) -/
  | hold (w : HoldWhy) (s : State)

/-- The new value of an atomic. -/
def atomicNew (f : Xfer) (old : DWord) : DWord :=
  if f.atomic = 1 then old + f.opa else if old = f.opa then f.opb else old

/-- Remote operations a transfer has outstanding on a QP, numbered on. -/
def nextRop (f : Xfer) : Nat := f.rops.foldl (fun a p => max a (p.2 + 1)) 0

/-- Is a transfer an access to an SQ, RQ, CQ or descriptor ring, which no TGT 0x7 page may hold (R236, R407)? -/
def ringOwner (o : Owner) : Bool :=
  o.kind == .rq || o.kind == .cq || (o.kind == .sq && o.b == 2 ^ 40) || (o.kind == .cipher && decide (o.b ≥ 2 ^ 40))

/-- Moves one piece at offset `off` of the transfer's data, or queues its parts (R184, R208, R241, R434). -/
def movePiece (x : Nat) (ecc : List EccHit) (off : Nat) (p : UPiece) (s : State) : Moved :=
  match xfer? x s with
  | none => .ok s
  | some f =>
    let bs := (f.data.drop off).take p.len
    match innerPlace f.part p s with
    | some q =>
      if f.atomic ≠ 0 then
        match readSpan f.part ecc 3 q 8 s with
        | .stop (.fail c) t => .fail off c t
        | .stop (.hold w) t => .hold w t
        | .ok old t =>
          match writeSpan f.part [] 3 q (leBytes 8 (atomicNew f (BitVec.ofNat 64 (leNat old))).toNat) t with
          | .ok _ u => .ok (modXfer x (fun f => { f with data := old }) u)
          | .stop _ u => .fail off Config.ccData u
      else if f.write then
        match writeSpan f.part ecc (lineFuel p.len) q bs s with
        | .ok _ t => .ok t
        | .stop (.fail c) t => .fail off c t
        | .stop (.hold w) t => .hold w t
      else
        match readSpan f.part ecc (lineFuel p.len) q p.len s with
        | .ok got t => .ok (modXfer x (fun f => { f with data := spliceAt f.data off got }) t)
        | .stop (.fail c) t => .fail off c t
        | .stop (.hold w) t => .hold w t
    | none =>
      if p.leaf.tgt = 5 then
        if f.write then
          .ok (modXfer x (fun f => { f with zneed := if f.zneed.contains p.leaf.unit then f.zneed else f.zneed ++ [p.leaf.unit] })
            (postWrites p.leaf.unit (p.len / 64 + 2) p.ta bs s))
        else
          .ok (modXfer x (fun f => { f with
            todo := f.todo ++ cutRange true p.leaf.unit (mrrsBytes s) (p.len / 64 + 2) p.ta off p.len }) s)
      else if p.leaf.tgt = 6 then
        match gang? p.leaf.unit s with
        | some g =>
          if g.gstate = .down then .fail off Config.ccFenced s
          else .ok (modXfer x (fun f => { f with
            todo := f.todo ++ cutRange false p.leaf.unit 4096 (p.len / 4096 + 2) p.ta off p.len }) s)
        | none => .fail off Config.ccProtection s
      else if f.owner.kind = .coll ∨ ringOwner f.owner = true then .fail off Config.ccProtection s
      else
        match qp? p.leaf.unit s with
        | none => .fail off Config.ccFlushed s
        | some q =>
          if q.part ≠ f.part then .fail off Config.ccProtection s
          else if q.qstate ≠ .rts then .fail off Config.ccFlushed s
          else
            let i := x * 4096 + nextRop f
            .ok (remoteOp p.leaf.unit x f.write p.ta p.leaf.key off p.len bs i
              (modXfer x (fun f => { f with rops := f.rops ++ [(p.leaf.unit, i)] }) s))

/-- Moves the pieces of a unit in order; the first failure ends the movement (R262). -/
def movePieces (x : Nat) (ecc : List EccHit) : Nat → List UPiece → State → Moved
  | _, [], s => .ok s
  | off, p :: ps, s =>
    match movePiece x ecc off p s with
    | .ok t => movePieces x ecc (off + p.len) ps t
    | .fail o c t => .fail o c t
    | .hold w t => .hold w t

/-- Host tags in use under a function (R436). -/
def tagsUnder (func : Nat) (s : State) : Nat := s.xl.hreqs.countP (fun e => e.2.func == func)

def hostTag (func : Nat) (s : State) : Option Nat :=
  if s.xl.hreqs.length < 768 ∧ ((func? func s).tenBit ∨ tagsUnder func s < 256) then some (freshKey s.xl.hreqs) else none

/-- Sends one part of a unit, if a tag is free. -/
def sendCut (x : Nat) (c : Cut) (s : State) : Option State :=
  match xfer? x s with
  | none => none
  | some f =>
    if c.host then
      match hostTag c.unit s with
      | none => none
      | some t =>
        let r : HostReq := { kind := .read, func := c.unit, addr := c.addr, len := c.len, owner := x }
        let s1 := { s with xl := { s.xl with hreqs := tset s.xl.hreqs t r } }
        let s2 := modXfer x (fun f => { f with hpieces := tset f.hpieces t { off := c.off, len := c.len } }) s1
        some (emit (.hostRead c.unit c.addr c.len t) (bump (bkHost c.unit) 0 1 s2))
    else
      match gang? c.unit s with
      | none => none
      | some g =>
        match freeTag g with
        | none => none
        | some t =>
          let s1 := modXfer x (fun f => { f with jpieces := tset f.jpieces (tagKey c.unit t) { off := c.off, len := c.len } }) s
          if f.write then some (sendWrite c.unit t c.addr x ((f.data.drop c.off).take c.len) s1)
          else some (sendRead c.unit t c.addr x c.len s1)

/-- Sends the parts that wait for tags, in order, while tags are free. -/
def pumpTodo (x : Nat) : Nat → State → State
  | 0, s => s
  | fuel + 1, s =>
    match xfer? x s with
    | none => s
    | some f =>
      match f.todo with
      | [] => s
      | c :: cs =>
        match sendCut x c s with
        | none => s
        | some t => pumpTodo x fuel (modXfer x (fun f => { f with todo := cs }) t)

/-- Path class of a page as the tables stand (R261). -/
def pageClass (part va : Nat) (s : State) : Option Nat :=
  match xlateNow part va s with
  | .leaf l _ => some (pathClass l)
  | .fault _ _ _ _ => none

/-- Path class of the slot that a CQ's next completion goes to (R261, log 139). -/
def cqPath (n : Nat) (s : State) : Option Nat :=
  match tget s.qe.cqs n with
  | none => none
  | some c => pageClass c.part (c.base + 32 * ((c.tail + c.held.length) % 2 ^ c.log)) s

/-- Path class of a completion under the same-path rule: that of the CQ's slot and of the counter where they agree (R261). -/
def samePathOf (q : Qp) (e : SqEnt) (s : State) : Option Nat :=
  if !bitOf 2 e.flags then none
  else
    let c := if bitOf 0 e.flags then cqPath q.scq s else none
    match bitOf 0 e.flags, e.tally == 0xFFFF with
    | true, true => c
    | true, false => if c = some 1 then some 1 else none
    | false, false => some 1
    | false, true => none

/-- Path class of the completion of an SQ entry. -/
def entryPath (n idx : Nat) (s : State) : Option Nat :=
  (qp? n s).bind (fun q => (q.ops.find? (fun o => o.idx == idx && o.remote.isNone)).bind (fun o => samePathOf q o.ent s))

/-- Path class of the completion that a transfer works for. -/
def ownerPath (o : Owner) (s : State) : Option Nat :=
  if o.kind = .coll then (tget s.cu.colls o.a).bind (fun c => entryPath c.qpn c.idx s) else entryPath o.a o.b s

/-- A transfer under the same-path rule whose completion still goes the way of its data. -/
def pathHolds (f : Xfer) (s : State) : Bool := f.write && f.samePath.isSome && f.spOk && ownerPath f.owner s == f.samePath

/-- Every page of a range lies on a path, as the tables stand. -/
def onPath (part cl : Nat) (s : State) (r : Nat × Nat) : Bool :=
  r.2 == 0 || (List.range (r.2 / 65536 + 2)).all (fun i => pageClass part (min (r.1 + i * 65536) (r.1 + r.2 - 1)) s == some cl)

/-- Every byte of the unit has moved; writes over a gang under the same-path rule need no acknowledgement yet (R261). -/
def unitMoved (f : Xfer) : Bool :=
  f.todo.isEmpty && f.hpieces.isEmpty && f.rops.isEmpty && (f.jpieces.isEmpty || (f.write && f.samePath.isSome))

/-- An access has drained: its last write is in its target's ordered path, for a gang in the retry buffer (R255). -/
def drainedXfer (f : Xfer) (s : State) : Bool :=
  match f.st with
  | .settling => true
  | .done _ => true
  | .moving =>
    f.write && decide (f.pos + segsLen (unitSegs f.va f.pos) ≥ f.va.total) && f.todo.isEmpty && f.hpieces.isEmpty && f.rops.isEmpty &&
    f.jpieces.all (fun p => (gang? (p.1 / 65536) s).all (fun g => (tgetD g.sendq 0 []).isEmpty))
  | _ => false

/-- Takes a transfer on: a moved unit is followed by the next one, the last by visibility (R27, R260, R437). -/
def advance (x : Nat) (s : State) : State :=
  match xfer? x s with
  | none => s
  | some f =>
    match f.st with
    | .moving =>
      if !f.fails.isEmpty then settleFails x s
      else if !unitMoved f then s
      else
        let pos := f.pos + segsLen (unitSegs f.va f.pos)
        if pos < f.va.total ∧ f.atomic = 0 then modXfer x (fun f => { f with pos := pos, got := [], st := .ready, firstFault := none }) s
        else if pathHolds f s then endXfer x Config.ccOk (modXfer x (fun f => { f with pos := pos }) s)
        else if f.zneed.isEmpty && f.zwait.isEmpty && f.jpieces.isEmpty then
          endXfer x Config.ccOk (modXfer x (fun f => { f with pos := pos, spOk := false }) s)
        else modXfer x (fun f => { f with pos := pos, spOk := false, st := .settling }) s
    | .settling =>
      if f.zneed.isEmpty && f.zwait.isEmpty && f.jpieces.isEmpty then endXfer x Config.ccOk s else s
    | _ => s

/-- Takes up the transfers that wait for tags, in order of start (R436). -/
def pumpWaiting (s : State) : State :=
  (s.xl.xfers.filter (fun e => !e.2.todo.isEmpty)).foldl
    (fun t e => advance e.1 (pumpTodo e.1 e.2.todo.length t)) s

/-- The record of a transfer's fault (Table 6-5). -/
def faultOf (f : Xfer) (va : Nat) (reason pte level : Nat) (s : State) : FaultRec :=
  { part := f.part, xfer := 0, tag := 0, vaddr := va, pte := pte, time := f.firstFault.getD s.chip.lcount,
    length := segsLen (unitSegs f.va f.pos), ctx := f.ctx, reason := reason, level := level,
    access := if f.atomic ≠ 0 then 3 else if f.write then 1 else 2, agent := f.agent, unit := f.unit, written := false, ended := false }

/-- Stalls a transfer on a fault (R185). -/
def stallXfer (x : Nat) (f : Xfer) (va reason pte level : Nat) (s : State) : State :=
  let tag := freshTag f.part s
  let s1 := modXfer x (fun g => { g with st := .stalled tag, got := [], firstFault := some (f.firstFault.getD s.chip.lcount) }) s
  raiseFault x (faultOf f va reason pte level s) s1

/-- Holds a transfer behind those held before it. -/
def setHeld (x : Nat) (w : HoldWhy) (s : State) : State :=
  modXfer x (fun f => { f with st := .held w, got := [], heldSeq := s.xl.nextHeld }) { s with xl := { s.xl with nextHeld := s.xl.nextHeld + 1 } }

/-- Holds a transfer on a slot or a function: it is no fault, and its partition's fault timeout bounds the wait (R178, R439). -/
def holdXfer (x : Nat) (w : HoldWhy) (s : State) : State := setHeld x w s

/-- Starts the unit of an admitted transfer: every page is translated and checked before any byte moves (R184). -/
def runAdmitted (x : Nat) (ecc : List EccHit) (s : State) : State :=
  match xfer? x s with
  | none => s
  | some f =>
    let segs := unitSegs f.va f.pos
    let lo := (segs.head?.map Prod.fst).getD 0
    let hi := (segs.getLast?.map (fun p => p.1 + p.2 - 1)).getD 0
    match addrDenied f.part lo hi s with
    | some counted => if counted then denyXfer x f.part f.pos s else failPart x f.pos Config.ccProtection s
    | none =>
      match xlateSegs f 400 segs [] s with
      | .miss va t =>
        if mayRequest (trans? f.part t).func t then askWalk f.part va (modXfer x (fun f => { f with st := .walking va }) t)
        else holdXfer x (.func (trans? f.part t).func) t
      | .stop c va l t =>
        match c with
        | .remote => failPart x f.pos Config.ccRemoteAccess (if atomicCheck f l = some .remote then bump (bkQueue f.part) 5 1 t else t)
        | .denied => if f.atomic ≠ 0 ∧ l.tgt = 7 then failPart x f.pos Config.ccProtection t else denyXfer x f.part f.pos t
        | .hold w => holdXfer x w t
        | .fault r => stallXfer x f va r l.pte l.level t
        | .pass => t
      | .pieces ps t =>
        if ps.any (fun p => domainOff p.leaf.tgt t) then setHeld x .power (needWake t)
        else match ps.findSome? (fun p => (innerPlace f.part p t).bind (fun q => spanHold (f.write || f.atomic != 0) (lineFuel p.len) q p.len t)) with
        | some w => setHeld x w t
        | none =>
          let n := segsLen segs
          let ok := match f.samePath with
            | some c => ps.all (fun p => pathClass p.leaf == c) && (f.pos == 0 || f.spOk)
            | none => false
          let t1 := modXfer x (fun f => { f with
            st := .moving, spOk := ok, inner := f.inner && ps.all (fun p => p.leaf.tgt == 3 || p.leaf.tgt == 4),
            data := if f.write ∨ f.atomic ≠ 0 then f.data else f.data ++ List.replicate n 0 }) t
          match (if f.probe then .ok t1 else movePieces x ecc f.pos ps t1) with
          | .ok u => advance x (pumpTodo x (((xfer? x u).map (fun g => g.todo.length)).getD 0) u)
          | .fail off c u => failPart x off c (pumpTodo x (((xfer? x u).map (fun g => g.todo.length)).getD 0) u)
          | .hold w u => setHeld x w (modXfer x (fun _ => f) u)

/-- Is the start of a transfer held by back-pressure (R192)? Completions, and work of packets and units admitted before, are not. -/
def gated : OwnerKind → Bool
  | .cq => false
  | .inbound => false
  | .readResp => false
  | .landing => false
  | .atomic => false
  | .serial => false
  | .firmware => false
  | _ => true

/-- A transfer of an SQ's entry, not of its ring, stalls on a fault. -/
def entryStalled (n : Nat) (f : Xfer) : Bool :=
  ((f.owner.kind == .sq && f.owner.b != 2 ^ 40) || f.owner.kind == .landing) && f.owner.a == n && match f.st with
    | .stalled _ => true
    | _ => false

/-- An entry of an SQ before a ring index stalls on a fault (R185). -/
def stallBefore (n idx : Nat) (s : State) : Bool :=
  s.xl.xfers.any (fun e => entryStalled n e.2 && before32 e.2.owner.b idx)

/-- Transfers of the bench DMA engines, which are off with their tiles (Table 18-1). -/
def benchDma (k : OwnerKind) : Bool := k == .tileDma || k == .stream || k == .image

/-- Starts the unit of a transfer; one not yet admitted is held under back-pressure, one of an SQ's entry behind an earlier
entry that stalls, one of an engine that is off until the device has woken. -/
def runUnit (x : Nat) (ecc : List EccHit) (s : State) : State :=
  match xfer? x s with
  | none => s
  | some f =>
    if !f.admitted && gated f.owner.kind && backPressure f.part s then setHeld x (.pressure f.part) s
    else if f.owner.kind == .sq && f.owner.b != 2 ^ 40 && stallBefore f.owner.a f.owner.b s then
      setHeld x (.behind f.owner.a f.owner.b) s
    else if benchDma f.owner.kind && domainOff 1 s then setHeld x .power (needWake s)
    else runAdmitted x ecc (modXfer x (fun g => { g with admitted := true }) s)

/-- Runs the unit of a transfer that stands ready. -/
def runReady (x : Nat) (ecc : List EccHit) (s : State) : State :=
  match xfer? x s with
  | some f => if f.st = .ready then runUnit x ecc s else s
  | none => s

/-- The held transfers that a predicate names, in the order in which they were held. -/
def heldOrder (p : HoldWhy → Bool) (s : State) : List Nat :=
  ((s.xl.xfers.filter (fun e => match e.2.st with
    | .held w => p w
    | _ => false)).foldl (fun (t : Tab (List Nat)) e => tset t e.2.heldSeq (tgetD t e.2.heldSeq [] ++ [e.1])) []).flatMap Prod.snd

/-- Takes up held transfers that a predicate names, in their order (R163). -/
def resumeHeld (p : HoldWhy → Bool) (s : State) : State :=
  (heldOrder p s).foldl (fun t x => runUnit x [] (modXfer x (fun f => { f with st := .ready }) t)) s

/-! ## Structures in rings, accessed at once (R236, log 22) -/

/-- Outcome of a ring access: done, failed, or it must go the way of a transfer (a fault, a hold, an accelerator). -/
inductive RingRes where
  | ok (bytes : List Byte) (s : State)
  | fail (code : Nat) (s : State)
  | wait (s : State)

/-- The leaf and target address of a ring access inside one page. A lookup that hits is counted, but for one whose walk the same
access has just made and counted as a miss (`walked`). -/
def ringPlace (walked : Bool) (part va n : Nat) (write : Bool) (s : State) : (Option UPiece) × RingRes :=
  match addrDenied part va (va + n - 1) s with
  | some counted => (none, .fail Config.ccProtection (if counted then bump (bkTrans part) 7 1 s else s))
  | none =>
    match tlbLookup part va s with
    | none => (none, .wait s)
    | some l =>
      let p : UPiece := { va := va, len := n, leaf := l }
      if domainOff l.tgt s then (none, .wait s) else
      let s1 := if walked then s else bump (bkTrans part) 0 1 s
      match checkLeaf part l write false false p.ta n s with
      | .pass => (some p, .wait (tlbTouch part va l s1))
      | .denied => (none, .fail Config.ccProtection (bump (bkTrans part) 7 1 s1))
      | _ => (none, .wait s)

/-- Brings the translation of a ring page in, by a walk done at once, where the tables hold it; whether it walked. -/
def ringXlate (part va : Nat) (s : State) : Bool × State :=
  if (tlbLookup part va s).isSome || (addrDenied part va va s).isSome || !mayRequest (trans? part s).func s then (false, s)
  else match xlateNow part va s with
    | .leaf _ t => (true, t)
    | .fault _ _ _ _ => (false, s)

/-- Reads `n` bytes of a ring at once. -/
def ringRead (part va n : Nat) (s : State) : RingRes :=
  let w := ringXlate part va s
  let s0 := w.2
  match ringPlace w.1 part va n false s0 with
  | (none, r) => r
  | (some p, .wait t) =>
    match innerPlace part p t with
    | some q =>
      match readSpan part [] (lineFuel n) q n t with
      | .ok bs u => .ok bs u
      | .stop (.fail c) u => .fail c u
      | .stop (.hold _) _ => .wait s0
    | none =>
      if p.leaf.tgt = 5 then
        .ok (rdMem spHost p.ta n t) (emit (.hostRead p.leaf.unit p.ta n 2048)
          (bump (bkHost p.leaf.unit) 1 n (bump (bkHost p.leaf.unit) 0 1 t)))
      else .wait s0
  | (some _, r) => r

/-- Writes bytes of a ring at once, the last byte by a write of its own (R237). -/
def ringWrite (part va : Nat) (bs : List Byte) (s : State) : RingRes :=
  let w := ringXlate part va s
  let s0 := w.2
  let n := bs.length
  match ringPlace w.1 part va n true s0 with
  | (none, r) => r
  | (some p, .wait t) =>
    match innerPlace part p t with
    | some q =>
      match spanHold true (lineFuel n) q n t with
      | some _ => .wait s0
      | none =>
        match writeSpan part [] (lineFuel n) q bs t with
        | .ok _ u => .ok [] u
        | .stop (.fail c) u => .fail c u
        | .stop (.hold _) _ => .wait s0
    | none =>
      if p.leaf.tgt = 5 then
        .ok [] (hostWrite p.leaf.unit (p.ta + n - 1) (bs.drop (n - 1)) (postWrites p.leaf.unit (n / 64 + 2) p.ta (bs.take (n - 1)) t))
      else .wait s0
  | (some _, r) => r


/-- Starts a transfer and its first unit at once. -/
def startNow (f : Xfer) (s : State) : Nat × State :=
  let r := startXfer f s
  (r.1, runReady r.1 [] r.2)

/-- Firmware's read of a structure in a partition's memory: it is refused where a page is not mapped or not readable (R296). -/
def fwRead (part va : Nat) : Nat → Nat → State → Option (List Byte) × State
  | 0, _, s => (some [], s)
  | fuel + 1, n, s =>
    if n = 0 then (some [], s)
    else
      let k := min n (65536 - va % 65536)
      match ringRead part va k s with
      | .ok bs t =>
        match fwRead part (va + k) fuel (n - k) t with
        | (some r, u) => (some (bs ++ r), u)
        | (none, u) => (none, u)
      | .fail _ t => (none, t)
      | .wait t => (none, t)

end Sys2Proof.Machine
end

