-- ==== Sys2Proof/Machine/QpFlow.lean ====
section
/-! DEFINITION. Completion queues, rings of a queue pair, completion of entries, errors of a queue pair (08). -/

namespace Sys2Proof.Machine

open Sys2Proof

/-! ## Completion queues (R246 to R249) -/

def cq? (n : Nat) (s : State) : Option Cq := tget s.qe.cqs n
def modCq (n : Nat) (f : Cq → Cq) (s : State) : State := { s with qe := { s.qe with cqs := tmod s.qe.cqs n f } }

/-- PHASE of ring entry `i` of a ring of 2^log entries (R237). -/
def phaseOf (i log : Nat) : Nat := if i / 2 ^ log % 2 = 0 then 1 else 0

/-- A completion entry (Table 8-7). -/
def cqeBytes (c : Cqe) (phase : Nat) : List Byte :=
  leBytes 8 c.wrid.toNat ++ leBytes 4 c.bytes ++ leBytes 4 c.opspec ++ leBytes 4 (c.src % 2 ^ 20 + c.kind * 2 ^ 24)
    ++ [BitVec.ofNat 8 c.op, BitVec.ofNat 8 c.code, BitVec.ofNat 8 c.flags] ++ List.replicate 8 0 ++ [BitVec.ofNat 8 phase]

/-- Entries of a CQ that are released or not yet written. -/
def cqSpace (c : Cq) : Nat := 2 ^ c.log - diff32 c.tail c.released

/-- A CQ is full when 2^LOG entries are written and not released (R248). -/
def cqFull (c : Cq) : Bool := cqSpace c == 0

/-- Sends the message of an armed CQ and disarms it (R249). -/
def cqFire (n : Nat) (s : State) : State :=
  match cq? n s with
  | some c => msix c.func c.vec (modCq n (fun c => { c with arm := none, timing := false }) s)
  | none => s

/-- Completions written at or beyond the armed INDEX. -/
def cqBeyond (c : Cq) : Nat :=
  match c.arm with
  | some i => if before32 c.tail i then 0 else diff32 c.tail i
  | none => 0

/-- After a completion is written: the message by count, or the moderation time starts (R249). -/
def cqWritten (n : Nat) (s : State) : State :=
  match cq? n s with
  | none => s
  | some c =>
    let k := cqBeyond c
    if k = 0 then s
    else if k ≥ c.modCount ∨ c.modTime = 0 then cqFire n s
    else modCq n (fun c => { c with timing := true }) s

/-- The counter of a completion is incremented, once its entry is written (R264). -/
def cqeTally (e : Cqe) (s : State) : State := tallyAdd e.tpart e.tally 1 s

/-- Books the first held entry as written. -/
def cqAdvance (n : Nat) (s : State) : State :=
  match cq? n s with
  | none => s
  | some c =>
    let s1 := bump (bkQueue c.part) 3 1 (modCq n (fun c => { c with tail := succ32 c.tail, held := c.held.tail }) s)
    (c.held.head?.toList).foldl (fun t e => cqeTally e t) (cqWritten n s1)

/-- Starts the write of a completion that goes the way of a transfer: `part` 0 its bytes 0 to 30, then 1 its PHASE byte (R237). -/
def cqTransfer (n part va : Nat) (bs : List Byte) (s : State) : State :=
  let p := ((cq? n s).map Cq.part).getD 0
  let r := startNow (Xfer.mk' p 1 0 n { kind := .cq, a := n, b := part, c := 0 } true (Rows.flat va bs.length) bs) s
  modCq n (fun c => { c with stalled := some r.1 }) r.2

/-- Slot and bytes of the completion that a CQ writes next. -/
def cqNext (c : Cq) : Option (Nat × List Byte) :=
  c.held.head?.map (fun e => (c.base + 32 * (c.tail % 2 ^ c.log), cqeBytes e (phaseOf c.tail c.log)))

/-- Writes held completions in order while the CQ has space and its ring answers (R248). One whose write fails stays held, and
is written again with what comes next (log 140). -/
def drainCq (n : Nat) : Nat → State → State
  | 0, s => s
  | fuel + 1, s =>
    match cq? n s with
    | none => s
    | some c =>
      match cqNext c with
      | none => s
      | some (va, bs) =>
        if cqFull c || c.stalled.isSome then s
        else
          match ringWrite c.part va bs s with
          | .ok _ t => drainCq n fuel (cqAdvance n t)
          | .fail _ t => t
          | .wait t => cqTransfer n 0 va (bs.take 31) t

/-- Produces a completion: written at once, or held behind a full CQ or one whose ring stalls (R236, R248). -/
def postCqe (n : Nat) (e : Cqe) (s : State) : State :=
  match cq? n s with
  | none => cqeTally e s
  | some c =>
    let s1 := modCq n (fun c => { c with held := c.held ++ [e] }) s
    let s2 := if c.held.length ≥ cqSpace c then bump (bkQueue c.part) 4 1 (modCq n (fun c => { c with ovf := true }) s1) else s1
    drainCq n (c.held.length + 1) s2

/-- A CQ that holds a completion which found it full stops what produces into it (R248). -/
def cqBlocked (n : Nat) (s : State) : Bool :=
  match cq? n s with
  | some c => decide (c.held.length > cqSpace c)
  | none => false

/-! ## Hall passes (R250 to R256) -/

/-- Packets and transfers that an accepted access still has in progress (INFLIGHT, R253, R255). -/
def passInflight (idx : Nat) (s : State) : Nat :=
  s.qe.qps.foldl (fun a e => a + e.2.x.hold.countP (fun k => k.pass == some idx)) 0 +
  s.xl.xfers.countP (fun e => e.2.owner.c == idx + 1 && !drainedXfer e.2 s)

/-- The right that an operation needs: 0 read, 1 write, 2 atomic. -/
def rightOf (op : Nat) : Nat := if op = 2 then 1 else if op = 3 then 0 else 2

/-- Checks an inbound access against the pass its KEY names (R253): its index, or none where it is refused. -/
def passCheck (qpn part key op addr len : Nat) (s : State) : Option Nat :=
  let idx := key / 256
  match tget s.qe.passes idx with
  | none => none
  | some p =>
    if p.pstate = .valid ∧ key % 256 ≠ 0 ∧ p.gen = key % 256 ∧ p.part = part ∧ bitOf (rightOf op) p.rights ∧
        p.base ≤ addr ∧ addr + len ≤ p.base + p.length ∧ (bitOf 31 p.bind = false ∨ p.bind % 2 ^ 20 = qpn) then some idx
    else none

/-! ## Completion of send entries (R235, R257, R264) -/

/-- Writes the completion of an entry where it asks for one or fails, then increments its counter (R238, R264). -/
def completeEntry (n : Nat) (q : Qp) (o : SqOp) (code bytes opspec kind : Nat) (same : Bool) (s : State) : State :=
  let c : Cqe := { wrid := o.ent.wrid, bytes := bytes, opspec := opspec, src := n, kind := kind, op := o.ent.op, code := code,
                   flags := if same ∧ code = 0 then 2 else 0, tpart := q.part, tally := if code = 0 then o.ent.tally else 0xFFFF }
  if bitOf 0 o.ent.flags ∨ (code ≠ 0 ∧ o.ent.op ≠ 9) then postCqe q.scq c s else cqeTally c s

/-- Bytes that an operation has moved: what the peer has acknowledged, what has landed, what a COPY has written (R247, log 141). -/
def movedOf (q : Qp) (o : SqOp) (s : State) : Nat :=
  match o.st with
  | .sent =>
    if o.ent.op ≤ 4 then
      o.ent.length - ((q.x.queue ++ q.x.unacked).filter (fun p => p.msn == o.msn && ownRequest p && !p.acked)).foldl (fun a p => a + p.payload.length) 0
    else o.ent.length - o.left
  | .placing x => ((xfer? x s).map Xfer.pos).getD 0
  | _ => o.moved

/-- Bytes that the completion of an entry reports. -/
def entryBytes (q : Qp) (o : SqOp) (code : Nat) (s : State) : Nat := if code = 0 then o.ent.length else movedOf q o s

/-- Completes a receive entry that no message has filled, or that a failure ends: with its code, the bytes placed and the
operation of its message, if it has one (R235, R247). -/
def flushRecv (q : Qp) (n : Nat) (s : State) (e : RqEnt × Nat × Nat × Nat) : State :=
  postCqe q.rcq { wrid := e.1.wrid, bytes := e.2.2.1, opspec := 0, src := n, kind := 1, op := e.2.2.2, code := e.2.1, flags := 0,
                  tpart := q.part, tally := 0xFFFF } s

/-- Fails the part of a transfer that a remote access carried (R241). -/
def endRemote (n : Nat) (o : SqOp) (code : Nat) (s : State) : State :=
  match o.remote with
  | some x =>
    failPart x o.ent.laddr code (modXfer x (fun f => { f with rops := f.rops.filter (fun r => !(r.1 == n && r.2 == o.idx)) }) s)
  | none => s

/-- Has a packet of an operation been sent? -/
def wasSent (q : Qp) (o : SqOp) : Bool :=
  o.st == .sent && !q.x.queue.any (fun p => p.msn == o.msn && ownRequest p && bitOf 0 p.flags && p.sends == 0)

/-- Code of a flushed operation: a lost peer gives 0x09 to what was sent, else 0x07 (R235). -/
def flushCode (lost : Bool) (q : Qp) (o : SqOp) : Nat :=
  match o.st with
  | .done c => c
  | .collDone c _ _ => c
  | .sent => if lost && wasSent q o then Config.ccFenced else Config.ccFlushed
  | _ => Config.ccFlushed

/-- Completes the started operations of a QP that enters ERROR, in ring order, those with 0x09 first (R235). -/
def flushOps (n : Nat) (q : Qp) (lost : Bool) (s : State) : State :=
  let ring := q.ops.filter (fun o => o.remote.isNone)
  let first := ring.filter (fun o => flushCode lost q o == Config.ccFenced)
  let rest := ring.filter (fun o => flushCode lost q o != Config.ccFenced)
  let put := fun (t : State) (o : SqOp) =>
    completeEntry n q o (flushCode lost q o) (entryBytes q o (flushCode lost q o) s) 0 (if o.ent.op = 16 then 3 else 0) false t
  let s1 := (first ++ rest).foldl put s
  (q.ops.filter (fun o => o.remote.isSome)).foldl (fun t o => endRemote n o (flushCode lost q o) t) s1

/-- Operation code that a receive completion carries. -/
def recvOp (m : InMsg) : Nat := if m.op = 1 then (if m.imm.isSome then 2 else 1) else 4

/-- What the receive entry of a message under way ends with: a message that has failed with its own code, another flushed. -/
def openRecv (m : InMsg) (e : RqEnt) : RqEnt × Nat × Nat × Nat :=
  (e, if m.code = 0 then Config.ccFlushed else m.code, m.placed, if m.code = 0 then 0 else recvOp m)

/-- Receive entries of the messages under way, in message order. -/
def openRecvs (q : Qp) : List (RqEnt × Nat × Nat × Nat) :=
  let put := fun (t : Tab (RqEnt × Nat × Nat × Nat)) (m : InMsg) => match m.entry with
    | some e => tset t (diff32 m.msn q.x.vmsnRx) (openRecv m e)
    | none => t
  (q.inMsgs.foldl put []).map Prod.snd

/-- An entry that FENCE holds back is not taken, and is read again where it is to be flushed (R244, R257). -/
def unfence : LoopSt → LoopSt
  | .fenced _ => .idle
  | l => l

/-- A QP enters ERROR (R235): started entries and receive entries are flushed, its stream ends, inbound packets that have
not started are given up. -/
def toError (n code op idx : Nat) (lost : Bool) (s : State) : State :=
  match qp? n s with
  | none => s
  | some q =>
    if q.qstate = .error ∨ q.qstate = .reset then s
    else
      let s1 := modQp n (fun q => { q with
        qstate := .error, errCode := code, errOp := op, errIndex := idx, ops := [], avail := [], sqComp := q.sqCi,
        sqLoop := unfence q.sqLoop, inMsgs := q.inMsgs.map (fun m => { m with entry := none, code := if m.code = 0 then Config.ccFlushed else m.code }),
        x := { q.x with queue := [], unacked := [], hold := [], rnrWait := false } }) s
      let s2 := flushOps n q lost s1
      (openRecvs q ++ q.avail.map (fun e => (e, Config.ccFlushed, 0, 0))).foldl (flushRecv q n) s2

/-- Does the outcome of an entry leave a bound QP as it was (R298)? -/
def keepsState (q : Qp) (code : Nat) : Bool := q.bound != 0 && code == Config.ccProtection

/-- The first entry of the ring that has not completed. -/
def headOp (q : Qp) : Option SqOp := q.ops.find? (fun o => o.remote.isNone)

/-- Writes completions in ring order for as long as the oldest entry is finished (R257); a failed entry moves the QP to
ERROR, and a draining QP without entries becomes DRAINED (R233). -/
def drainOps (n : Nat) : Nat → State → State
  | 0, s => s
  | fuel + 1, s =>
    match qp? n s with
    | none => s
    | some q =>
      match headOp q with
      | none => if q.qstate = .draining then modQp n (fun q => { q with qstate := .drained }) s else s
      | some o =>
        match o.st with
        | .done code =>
          let s1 := modQp n (fun q => { q with
            ops := q.ops.filter (fun p => !(p.idx == o.idx && p.remote.isNone)), sqComp := succ32 o.idx }) s
          let s2 := completeEntry n q o code (entryBytes q o code s) 0 0 o.samePath s1
          if code ≠ 0 ∧ !keepsState q code then toError n code o.ent.op o.idx false s2
          else drainOps n fuel s2
        | .collDone code bytes opspec =>
          let s1 := modQp n (fun q => { q with
            ops := q.ops.filter (fun p => !(p.idx == o.idx && p.remote.isNone)), sqComp := succ32 o.idx }) s
          let s2 := completeEntry n q o code bytes opspec 3 o.samePath s1
          if code ≠ 0 ∧ !keepsState q code then toError n code o.ent.op o.idx false s2
          else drainOps n fuel s2
        | _ => s

/-- Sets the state of an operation of the ring. -/
def setOp (n idx : Nat) (st : OpSt) (s : State) : State :=
  modQp n (fun q => { q with ops := q.ops.map (fun o => if o.idx = idx ∧ o.remote.isNone then { o with st := st } else o) }) s

/-- An operation of the ring fails; what it has moved stands in its completion. -/
def failOp (n idx code : Nat) (s : State) : State :=
  modQp n (fun q => { q with
    ops := q.ops.map (fun o => if o.idx = idx ∧ o.remote.isNone then { o with st := .done code, moved := movedOf q o s } else o) }) s

/-! ## Send entries (R237 to R239) -/

def SqEnt.parse (bs : List Byte) : SqEnt :=
  let n := fun (o k : Nat) => leNat ((bs.drop o).take k)
  { op := n 0 1, flags := n 1 1, length := n 4 4, laddr := n 8 8, raddr := n 16 8, key := n 24 4, imm := n 28 4,
    wrid := BitVec.ofNat 64 (n 32 8), opa := BitVec.ofNat 64 (n 40 8), opb := BitVec.ofNat 64 (n 48 8), tally := n 56 2 }

/-- Is a phase byte that of entry `i`? -/
def phaseOk (b : Byte) (i log : Nat) : Bool := b.toNat % 2 == phaseOf i log

/-- Range of LENGTH of an operation (Table 8-5). -/
def lengthRange (op : Nat) : Nat × Nat :=
  match op with
  | 1 | 2 | 4 => (0, 2 ^ 30)
  | 3 | 5 | 10 => (1, 2 ^ 30)
  | 6 | 7 => (8, 8)
  | _ => (0, 0)

/-- The completion code of an entry that breaks R239, or 0. -/
def entryBad (q : Qp) (e : SqEnt) (bs : List Byte) : Nat :=
  let zero := fun (o k : Nat) => leNat ((bs.drop o).take k) == 0
  let inl := bitOf 3 e.flags
  let known := decide ((1 ≤ e.op ∧ e.op ≤ 10) ∨ e.op = 16)
  if !known || !zero 2 2 || !zero 58 5 || e.flags / 16 != 0 || (leNat ((bs.drop 63).take 1)) / 2 != 0 then Config.ccProtection
  else if inl && !decide (e.op ≤ 4) then Config.ccProtection
  else if e.op = 10 ∧ (q.typ ≠ 2 ∨ e.key ≠ 0) then Config.ccProtection
  else if e.op = 9 ∧ (e.opa.toNat / 65536 % 65536 ≠ 0 ∨ !decide (e.opa.toNat % 65536 ≠ 0xFFFF)) then Config.ccProtection
  else if (e.op = 6 ∨ e.op = 7) ∧ (e.laddr % 8 ≠ 0 ∨ e.raddr % 8 ≠ 0) then Config.ccProtection
  else
    let r := lengthRange e.op
    let hi := if inl then 24 else r.2
    let lo := if inl then 1 else r.1
    if lo ≤ e.length ∧ e.length ≤ hi then 0 else Config.ccLength

/-- Data of an INLINE entry (R238). -/
def inlineData (e : SqEnt) : List Byte :=
  (leBytes 8 e.laddr ++ leBytes 8 e.opa.toNat ++ leBytes 8 e.opb.toNat).take e.length


def sqOwner (n idx : Nat) : Owner := { kind := .sq, a := n, b := idx, c := 0 }

/-- Starts the work of an entry that is not held (R238, R265): reads its local data, or makes it ready for the stream. -/
def beginEntry (n idx : Nat) (q : Qp) (e : SqEnt) (s : State) : State :=
  match e.op with
  | 8 => setOp n idx (.done 0) s
  | 9 =>
    let h := e.opa.toNat % 65536
    if !tallyOk q.part h s then setOp n idx (.done Config.ccProtection) s
    else if tallyPassed q.part h (e.opa.toNat / 2 ^ 32) s then setOp n idx (.done 0) (bump (bkQueue q.part) 7 1 s)
    else setOp n idx .waiting s
  | 5 | 6 | 7 => setOp n idx (.ready []) s
  | 16 =>
    let r := startNow (Xfer.mk' q.part 1 0 n (sqOwner n idx) false (Rows.flat e.laddr 288) []) s
    setOp n idx (.gathering r.1) r.2
  | _ =>
    if bitOf 3 e.flags then setOp n idx (.ready (inlineData e)) s
    else if e.length = 0 then setOp n idx (.ready []) s
    else
      let r := startXfer (Xfer.mk' q.part 1 0 n (sqOwner n idx) false (Rows.flat e.laddr e.length) []) s
      setOp n idx (.gathering r.1) r.2

/-- Takes the entry at the ring's next slot (R244): it starts, fails its checks or, with `code`, its reading, or is flushed in
ERROR. One that could not be read stands as zeros in its completion (log 142). -/
def takeEntry (n code : Nat) (q : Qp) (bs : List Byte) (s : State) : State :=
  let e := SqEnt.parse bs
  let idx := q.sqCi
  let o : SqOp := { idx := idx, ent := e, st := .done code, msn := 0, psn := 0, npsn := 0, remote := none, left := e.length, rcvd := 0,
                    moved := 0, failAt := none, samePath := false }
  let s1 := modQp n (fun q => { q with ops := q.ops ++ [o], sqCi := succ32 idx, sqLoop := .idle }) s
  if q.qstate = .error then
    let s2 := modQp n (fun q => { q with ops := [], sqComp := succ32 idx }) s1
    completeEntry n q o Config.ccFlushed 0 0 (if e.op = 16 then 3 else 0) false s2
  else if code ≠ 0 then s1
  else if q.bound ≠ 0 then setOp n idx (.done Config.ccProtection) s1
  else
    let c := entryBad q e bs
    if c ≠ 0 then setOp n idx (.done c) s1 else beginEntry n idx q e s1

/-- An entry with FENCE is not taken while an earlier entry of the SQ has not completed (R257). -/
def fencedBehind (q : Qp) (bs : List Byte) : Bool :=
  q.qstate != .error && bitOf 1 ((bs.getD 1 0).toNat) && (headOp q).isSome

/-- A transfer of an entry of the SQ stalls on a fault, and later work of the queue with it (R185). -/
def sqStalled (n : Nat) (s : State) : Bool := s.xl.xfers.any (fun e => entryStalled n e.2)

/-- May the SQ start an entry (Table 8-3, R185, R192, R248, R257, R265)? -/
def sqMayTake (n : Nat) (q : Qp) (s : State) : Bool :=
  q.sqCi != q.sqDb && q.sqStat == 0 && (cq? q.scq s).isSome && !cqBlocked q.scq s &&
  (match q.sqLoop with
   | .idle => true
   | .fenced _ => (headOp q).isNone
   | _ => false) &&
  (q.qstate == .error || (q.qstate == .rts && !backPressure q.part s && !sqStalled n s &&
    !q.ops.any (fun o => o.remote.isNone && o.st == .waiting)))

def sqSlot (q : Qp) : Nat := q.sqBase + 64 * (q.sqCi % 2 ^ q.sqLog)
def rqSlot (q : Qp) : Nat := q.rqBase + 32 * (q.rqCi % 2 ^ q.rqLog)


/-- A local pair whose peer no longer names it with the current generations carries nothing: what is next to go ends as a
packet that no retransmission delivers, with 0x05 (R231, R234, log 25). -/
def localLost (n : Nat) (s : State) : State :=
  match qp? n s with
  | none => s
  | some q =>
    match q.x.queue with
    | [] => s
    | p :: _ =>
      if q.typ = 2 ∧ streaming q = true ∧ (localPeer n q s).isNone then
        let s1 := modX n (fun x => { x with queue := x.queue.filter (fun k => k.msn != p.msn) }) s
        match q.ops.find? (fun o => o.msn == p.msn && o.st == .sent) with
        | none => s1
        | some o =>
          if o.remote.isSome then
            endRemote n o Config.ccRetry (modQp n (fun q => { q with
              ops := q.ops.filter (fun k => !(k.idx == o.idx && k.remote == o.remote)) }) s1)
          else drainOps n (q.ops.length + 1) (failOp n o.idx Config.ccRetry s1)
      else s

/-- An entry whose phase is not valid: the loop sleeps, and after its eighth retry records DOORBELL_AHEAD (R244). -/
def nextTry (tries : Nat) : LoopSt × Bool := if tries < 8 then (.sleeping (tries + 1), false) else (.idle, true)

/-- The SQ's entry is not there yet. -/
def sqAhead (n tries : Nat) (s : State) : State :=
  let r := nextTry tries
  let s1 := modQp n (fun q => { q with sqLoop := r.1 }) s
  if r.2 then bump (bkQueue (((qp? n s).map Qp.part).getD 0)) 2 1 (modQp n (fun q => { q with sqStat := Config.doorbellAhead }) s1) else s1

/-- The bytes of the SQ's next slot have been read: the entry is taken, waits behind a FENCE, or is not there yet. -/
def sqGot (n tries : Nat) (q : Qp) (bs : List Byte) (s : State) : State :=
  if !phaseOk (bs.getD 63 0) q.sqCi q.sqLog then sqAhead n tries s
  else if fencedBehind q bs then modQp n (fun q => { q with sqLoop := .fenced bs }) s
  else takeEntry n 0 q bs s

/-- The SQ's read loop (R244): takes valid entries in ring order; an entry whose phase is not valid starts the back-off, which
has tried `tries` times for the slot it stands at. -/
def sqRun (n : Nat) : Nat → Nat → State → State
  | 0, _, s => s
  | fuel + 1, tries, s0 =>
    let k := ((qp? n s0).map (fun q => q.ops.length)).getD 0
    let s := localLost n (pumpQp n (drainOps n (k + 1) s0))
    match qp? n s with
    | none => s
    | some q =>
      if !sqMayTake n q s then s
      else match q.sqLoop with
        | .fenced bs => sqRun n fuel 0 (takeEntry n 0 q bs s)
        | _ => match ringRead q.part (sqSlot q) 64 s with
          | .fail c t => sqRun n fuel 0 (takeEntry n c q [] t)
          | .wait t =>
            let r := startNow (Xfer.mk' q.part 1 0 n { kind := .sq, a := n, b := 2 ^ 40, c := 0 } false (Rows.flat (sqSlot q) 64) []) t
            modQp n (fun q => { q with sqLoop := .stalled r.1 tries }) r.2
          | .ok bs t => sqRun n fuel 0 (sqGot n tries q bs t)

/-- Fuel of a ring's loop: what is announced. -/
def sqFuel (n : Nat) (s : State) : Nat := ((qp? n s).map (fun q => diff32 q.sqDb q.sqCi + q.ops.length)).getD 0 + 2

/-- The SQ goes on, its back-off at `tries`. -/
def sqTry (n tries : Nat) (s : State) : State := sqRun n (sqFuel n s) tries s

def sqKick (n : Nat) (s : State) : State := sqTry n 0 s

/-! ## Receive entries (R240, R244, R245) -/

/-- A receive entry that cannot be used ends with its code behind the entries before it, and the QP enters ERROR (log 24). -/
def recvBad (n : Nat) (q : Qp) (e : RqEnt) (code : Nat) (s : State) : State :=
  flushRecv q n (toError n code 0 e.idx false s) (e, code, 0, 0)

/-- Takes the receive entry at the ring's next slot: available, or flushed in ERROR; a zero field that is set, a LENGTH
beyond Table 8-6, or with `code` the failure of its reading, ends it (log 24, log 142). -/
def takeRecv (n code : Nat) (q : Qp) (bs : List Byte) (s : State) : State :=
  let f := fun (o k : Nat) => leNat ((bs.drop o).take k)
  let e : RqEnt := { idx := q.rqCi, laddr := f 0 8, length := f 8 4, wrid := BitVec.ofNat 64 (f 16 8) }
  let s1 := modQp n (fun q => { q with rqCi := succ32 q.rqCi, rqLoop := .idle }) s
  let bad := if code ≠ 0 then code
    else if f 12 4 ≠ 0 ∨ f 24 7 ≠ 0 ∨ (leNat ((bs.drop 31).take 1)) / 2 ≠ 0 ∨ e.length > 2 ^ 30 then Config.ccProtection else 0
  if q.qstate = .error then flushRecv q n s1 (e, Config.ccFlushed, 0, 0)
  else if bad ≠ 0 then recvBad n q e bad s1
  else modQp n (fun q => { q with avail := q.avail ++ [e] }) s1

def rqMayTake (q : Qp) : Bool := q.rqCi != q.rqDb && q.rqLoop == .idle && q.rqStat == 0 && q.qstate != .reset

/-- The RQ's entry is not there yet. -/
def rqAhead (n tries : Nat) (s : State) : State :=
  let r := nextTry tries
  let s1 := modQp n (fun q => { q with rqLoop := r.1 }) s
  if r.2 then bump (bkQueue (((qp? n s).map Qp.part).getD 0)) 2 1 (modQp n (fun q => { q with rqStat := Config.doorbellAhead }) s1) else s1

/-- The bytes of the RQ's next slot have been read. -/
def rqGot (n tries : Nat) (q : Qp) (bs : List Byte) (s : State) : State :=
  if phaseOk (bs.getD 31 0) q.rqCi q.rqLog then takeRecv n 0 q bs s else rqAhead n tries s

/-- The RQ's read loop (R244). -/
def rqRun (n : Nat) : Nat → Nat → State → State
  | 0, _, s => s
  | fuel + 1, tries, s =>
    match qp? n s with
    | none => s
    | some q =>
      if !rqMayTake q then s
      else match ringRead q.part (rqSlot q) 32 s with
        | .fail c t => rqRun n fuel 0 (takeRecv n c q [] t)
        | .wait t =>
          let r := startNow (Xfer.mk' q.part 1 0 n { kind := .rq, a := n, b := 0, c := 0 } false (Rows.flat (rqSlot q) 32) []) t
          modQp n (fun q => { q with rqLoop := .stalled r.1 tries }) r.2
        | .ok bs t => rqRun n fuel 0 (rqGot n tries q bs t)

/-- The RQ goes on, its back-off at `tries`. -/
def rqTry (n tries : Nat) (s : State) : State :=
  rqRun n (((qp? n s).map (fun q => diff32 q.rqDb q.rqCi)).getD 0 + 2) tries s

def rqKick (n : Nat) (s : State) : State := rqTry n 0 s

/-- Both rings of a QP. -/
def qpKick (n : Nat) (s : State) : State := sqKick n (rqKick n s)

/-- The QPs of a partition take up work that waited (back-pressure, completion space). -/
def kickPart (part : Nat) (s : State) : State :=
  (s.qe.qps.filter (fun e => e.2.part == part)).foldl (fun t e => qpKick e.1 t) s

/-- Enters ERROR and flushes what is announced (R235). -/
def failQp (n code op idx : Nat) (lost : Bool) (s : State) : State := qpKick n (toError n code op idx lost s)

end Sys2Proof.Machine
end

