-- ==== Sys2Proof/Machine/QpWire.lean ====
section
/-! DEFINITION. The Pratos transport's packets as received and acknowledged (09): admission, placement in stream order, release of messages, the sender's books, congestion control. -/

namespace Sys2Proof.Machine

open Sys2Proof

/-! ## Parsing (Tables 9-1 and 9-3) -/

/-- Big-endian field of a packet. -/
def beAt (bs : List Byte) (o k : Nat) : Nat := beNat ((bs.drop o).take k)

def ptDqpn (bs : List Byte) : Nat := beAt bs 4 4 % 2 ^ 20
def ptGen (bs : List Byte) : Nat := beAt bs 3 1

/-- A sequenced packet from its bytes; `body` is its payload, decrypted. -/
def ptParse (bs body : List Byte) (ce : Bool) (v : Via) : RxPkt :=
  { psn := beAt bs 8 4, op := beAt bs 1 1, flags := beAt bs 2 1, msn := beAt bs 12 4, addr := beAt bs 16 8,
    key := beAt bs 24 4, aux := beAt bs 28 4, payload := body, pass := none, ce := ce, via := v }

/-! ## Admission (R273 to R275) -/

/-- Passes the cumulative point over everything admitted. -/
def advanceCsp : Nat → Nat → Nat → Nat × Nat
  | 0, csp, bm => (csp, bm)
  | fuel + 1, csp, bm => if bm % 2 = 1 then advanceCsp fuel (succ32 csp) (bm / 2) else (succ32 csp, bm / 2)

/-- Marks the PSN at distance `d` from CSP as admitted. -/
def markAdmitted (d : Nat) (x : Xport) : Xport :=
  if d = 0 then
    let r := advanceCsp 257 x.csp x.bitmap
    { x with csp := r.1, bitmap := r.2, ackDue := true }
  else { x with bitmap := x.bitmap ||| 2 ^ (d - 1), ackDue := true }

/-- Does a packet consume a receive entry: the first of a SEND, the last of a WRITE with immediate? -/
def needsEntry (q : Qp) (k : RxPkt) : Bool :=
  q.bound == 0 && ((k.op == 1 && bitOf 0 k.flags) || (k.op == 2 && bitOf 1 k.flags && bitOf 2 k.flags))

/-- Is the receiver ready for a packet (R192, R240, R248, R274)? -/
def rxReady (q : Qp) (k : RxPkt) (s : State) : Bool :=
  !backPressure q.part s &&
  (!needsEntry q k || (decide (q.avail.length > q.x.hold.countP (needsEntry q)) && !cqBlocked q.rcq s))

/-- Bytes an access covers at the responder. -/
def accessLen (k : RxPkt) : Nat := if k.op = 3 then k.aux else if k.op = 2 then k.payload.length else 8

/-- Does a packet name a hall pass (R253)? -/
def namesPass (k : RxPkt) : Bool := k.op == 2 || k.op == 3 || k.op == 5 || k.op == 6

/-- Reads and atomics of the peer that are outstanding at this responder (R275). -/
def respOutstanding (n : Nat) (q : Qp) (s : State) : Nat :=
  q.x.hold.countP (fun k => k.op == 3 || k.op == 5 || k.op == 6) +
  s.xl.xfers.countP (fun e => (e.2.owner.kind == .readResp || e.2.owner.kind == .atomic) && e.2.owner.a == n)

/-! ## Messages (R258, R276) -/

def inMsg? (q : Qp) (msn : Nat) : Option InMsg := q.inMsgs.find? (fun m => m.msn == msn)

def InMsg.start (k : RxPkt) : InMsg :=
  { msn := k.msn, op := k.op, got := 0, placed := 0, total := none, imm := none, psn := k.psn, last := k.psn, base := k.addr,
    key := k.key, xfers := [], entry := none, pass := k.pass, code := 0, codeX := 0, data := [] }

/-- Changes the record of a message, which is made where it is not there yet. -/
def modMsg (n : Nat) (k : RxPkt) (f : InMsg → InMsg) (s : State) : State :=
  modQp n (fun q => { q with
    inMsgs := match inMsg? q k.msn with
      | some _ => q.inMsgs.map (fun m => if m.msn = k.msn then f m else m)
      | none => q.inMsgs ++ [f (InMsg.start k)] }) s

/-- Code of a NAK syndrome at the requester and the reverse (R275, R281). -/
def syndromeOf (code : Nat) : Nat := if code = Config.ccRemoteAccess then 2 else 3

/-- Books a packet's part of its message: bytes, immediate and, on the last packet, the end. -/
def bookPkt (k : RxPkt) (m : InMsg) : InMsg :=
  let got := m.got + k.payload.length
  { m with
    got := got, pass := if m.pass.isSome then m.pass else k.pass,
    imm := if bitOf 1 k.flags && bitOf 2 k.flags then some k.aux else m.imm,
    total := if bitOf 1 k.flags then some got else m.total, last := if bitOf 1 k.flags then k.psn else m.last }

/-- Gives the message the receive entry that waits longest. -/
def giveEntry (n : Nat) (k : RxPkt) (s : State) : State :=
  match qp? n s with
  | none => s
  | some q => modMsg n k (fun m => { m with entry := q.avail.head? }) (modQp n (fun q => { q with avail := q.avail.tail }) s)

/-- A message takes the code of its first failure in issue order: `x` is the transfer, or the next one (R262). -/
def InMsg.fail (x code : Nat) (m : InMsg) : InMsg := if m.code = 0 ∨ x < m.codeX then { m with code := code, codeX := x } else m

/-- The packet that a transfer works for: it is no longer kept. -/
def takeVia (n x : Nat) (s : State) : Via × State :=
  ((((qp? n s).bind (fun q => tget q.x.vias x))).getD Via.zero, modX n (fun q => { q with vias := tdel q.vias x }) s)

/-- A placement that fails: the message keeps its first failure, and the packet is answered (R275). -/
def failPlace (n x : Nat) (v : Via) (msn code : Nat) (s : State) : State :=
  let s1 := modQp n (fun q => { q with inMsgs := q.inMsgs.map (fun m => if m.msn = msn then m.fail x code else m) }) s
  ackVia n { via := v, syndrome := syndromeOf code, dly := 0, nakPsn := v.psn } s1

/-- Do two ranges of a QP's accesses conflict: an outstanding write under any access, an outstanding read under a write
(R259)? -/
def rxConflict (n : Nat) (write : Bool) (addr len : Nat) (s : State) : Bool :=
  s.xl.xfers.any (fun e =>
    let k := e.2.owner.kind
    e.2.owner.a == n && e.2.remote && overlap addr len e.2.va.base e.2.va.total &&
    (k == .inbound || k == .atomic || (k == .readResp && write)) &&
    match e.2.st with
    | .done _ => false
    | _ => true)

/-- Starts a transfer that a packet asks for, and books the packet. -/
def viaXfer (n : Nat) (k : RxPkt) (f : Xfer) (s : State) : Nat × State :=
  let r := startXfer f s
  (r.1, modX n (fun x => { x with vias := tset x.vias r.1 k.via }) r.2)

/-- Starts a transfer of a message and books it. -/
def msgXfer (n : Nat) (k : RxPkt) (f : Xfer) (s : State) : State :=
  let r := viaXfer n k f s
  modMsg n k (fun m => { m with xfers := m.xfers ++ [r.1] }) r.2

def inOwner (kind : OwnerKind) (n psn : Nat) (pass : Option Nat) : Owner :=
  { kind := kind, a := n, b := psn, c := (pass.map (· + 1)).getD 0 }

/-- Lands response bytes: at the requester's local address, or in the data of the transfer whose access it was (R241, R276). -/
def landResp (n : Nat) (q : Qp) (k : RxPkt) (off : Nat) (s : State) : State :=
  match q.ops.find? (fun o => o.msn == k.msn && o.st == .sent && (o.ent.op == 5 || o.ent.op == 6 || o.ent.op == 7)) with
  | none => s
  | some o =>
    match o.remote with
    | some x =>
      modQp n (fun q => { q with
        ops := q.ops.map (fun p => if p.idx = o.idx ∧ p.remote = o.remote then { p with left := p.left - k.payload.length } else p) })
        (modXfer x (fun f => { f with data := spliceAt f.data (o.ent.laddr + off) k.payload }) s)
    | none =>
      (viaXfer n k (Xfer.mk' q.part 1 0 n { kind := .landing, a := n, b := o.idx, c := 0 } true
        (Rows.flat (o.ent.laddr + off) k.payload.length) k.payload) s).2

/-- Starts one admitted packet; none where it must wait for a receive entry or for an access before it (R259). -/
def startPkt (n : Nat) (q : Qp) (k : RxPkt) (s : State) : Option State :=
  let failed := ((inMsg? q k.msn).map (fun m => m.code != 0)).getD false
  match k.op with
  | 1 =>
    if q.bound ≠ 0 then
      let s1 := modMsg n k (fun m => bookPkt k { m with data := m.data ++ k.payload }) s
      if bitOf 1 k.flags then
        let d := (((qp? n s1).bind (fun q => inMsg? q k.msn)).map InMsg.data).getD []
        some { s1 with qe := { s1.qe with collIn := s1.qe.collIn ++ [(n, d)] } }
      else some s1
    else if bitOf 0 k.flags && q.avail.isEmpty then none
    else
      let s1 := if bitOf 0 k.flags then giveEntry n k s else s
      let s2 := modMsg n k (bookPkt k) s1
      if failed then some s2
      else
        match ((qp? n s2).bind (fun q => inMsg? q k.msn)).bind InMsg.entry with
        | none => some s2
        | some e =>
          if k.addr + k.payload.length > e.length then
            let s3 := modMsg n k (InMsg.fail s2.xl.nextXfer Config.ccLength) s2
            some (failQp n Config.ccLength 1 e.idx false (ackVia n { via := k.via, syndrome := 3, dly := 0, nakPsn := k.psn } s3))
          else if k.payload.isEmpty then some s2
          else some (msgXfer n k (Xfer.mk' q.part 1 0 n (inOwner .inbound n k.psn none) true
            (Rows.flat (e.laddr + k.addr) k.payload.length) k.payload) s2)
  | 2 =>
    if needsEntry q k && q.avail.isEmpty then none
    else if rxConflict n true k.addr k.payload.length s then none
    else
      let s1 := if needsEntry q k then giveEntry n k s else s
      let s2 := modMsg n k (bookPkt k) s1
      if failed || k.payload.isEmpty then some s2
      else some (msgXfer n k { Xfer.mk' q.part 1 0 n (inOwner .inbound n k.psn k.pass) true
        (Rows.flat k.addr k.payload.length) k.payload with remote := true } s2)
  | 3 =>
    if rxConflict n false k.addr k.aux s then none
    else some (msgXfer n k { Xfer.mk' q.part 1 0 n (inOwner .readResp n k.psn k.pass) false (Rows.flat k.addr k.aux) [] with
      remote := true } (modMsg n k (bookPkt { k with payload := [] }) s))
  | 5 | 6 =>
    if rxConflict n true k.addr 8 s then none
    else
      let f : Xfer := { Xfer.mk' q.part 1 0 n (inOwner .atomic n k.psn k.pass) false (Rows.flat k.addr 8) [] with
        remote := true, atomic := if k.op = 5 then 1 else 2, opa := BitVec.ofNat 64 (beAt k.payload 0 8),
        opb := BitVec.ofNat 64 (beAt k.payload 8 8) }
      some (msgXfer n k f (modMsg n k (bookPkt { k with payload := [] }) s))
  | 4 => some (landResp n q k k.addr s)
  | 7 => some (landResp n q { k with payload := k.payload.reverse } k.addr s)
  | _ => some s

/-- PSNs that a received packet stands for: for TYPE 1 a read request uses one for each response packet (R289). -/
def rxPsns (q : Qp) (k : RxPkt) : Nat :=
  if q.typ = 1 ∧ k.op = 3 then max 1 ((k.aux + mtuBytes q.mtu - 1) / mtuBytes q.mtu) else 1

/-- Starts admitted packets in stream order for as long as the next one may start (R259, log 23). -/
def startHeld (n : Nat) : Nat → State → State
  | 0, s => s
  | fuel + 1, s =>
    match qp? n s with
    | none => s
    | some q =>
      match q.x.hold.find? (fun k => k.psn == q.x.execPsn) with
      | none => s
      | some k =>
        match startPkt n q k s with
        | none => s
        | some t =>
          startHeld n fuel (modX n (fun x => { x with
            hold := x.hold.filter (fun j => j.psn != k.psn), execPsn := (x.execPsn + rxPsns q k) % psnMod q.typ }) t)

def heldCount (n : Nat) (s : State) : Nat := ((qp? n s).map (fun q => q.x.hold.length)).getD 0

/-- The packet at NAKPSN has arrived while the receiver is ready: an RNR refusal ends (R274). -/
def rnrEnds (k : RxPkt) (ready : Bool) (x : Xport) : Xport := { x with rnrRefuse := x.rnrRefuse && !(ready && k.psn == x.rnrPsn) }

/-- A packet that is refused stands as admitted and its message as failed (R273, R275). -/
def refusePkt (n d : Nat) (k : RxPkt) (ready : Bool) (code : Nat) (s : State) : State :=
  let s1 := modX n (fun x => rnrEnds k ready { markAdmitted d x with
    hold := x.hold ++ [{ k with op := 0, payload := [] }], ece := x.ece || k.ce }) s
  let s2 := modMsg n k (fun m => InMsg.fail s.xl.nextXfer code (bookPkt { k with payload := [] } m)) s1
  sendAck n (syndromeOf code) 0 k.psn s2

/-- The RNR answer to a packet (R274). -/
def rnrAnswer (n psn : Nat) (s : State) : State :=
  sendAck n 1 s.qe.cc.rnrDlyUs psn (modX n (fun x => { x with rnrRefuse := true, rnrPsn := psn }) s)

/-- Handles a sequenced packet at its QP (R273). -/
def rxPacket (n die gen : Nat) (k0 : RxPkt) (s : State) : State :=
  match qp? n s with
  | none => bump (bkTransport die) 4 1 s
  | some q =>
    if gen ≠ q.gen then bump (bkTransport die) 4 1 s
    else if !streaming q then sendAck n 3 0 k0.psn s
    else
      let d := diff32 k0.psn q.x.csp
      if d ≥ 2 ^ 31 ∨ (0 < d ∧ d < 257 ∧ bitOf (d - 1) q.x.bitmap) then sendAck n 0 0 0 (bump (bkTransport die) 2 1 s)
      else if d ≥ 257 then sendAck n 0 0 0 (bump (bkTransport die) 3 1 s)
      else
        let pass := if namesPass k0 then passCheck n q.part k0.key k0.op k0.addr (accessLen k0) s else none
        let k := { k0 with pass := pass }
        if namesPass k0 && pass.isNone then refusePkt n d k (rxReady q k s) Config.ccRemoteAccess (bump (bkQueue q.part) 5 1 s)
        else if q.x.rnrRefuse && !before32 k.psn q.x.rnrPsn && !(k.psn == q.x.rnrPsn && rxReady q k s) then
          rnrAnswer n q.x.rnrPsn s
        else if !rxReady q k s then rnrAnswer n k.psn s
        else if (k.op = 3 ∨ k.op = 5 ∨ k.op = 6) ∧ respOutstanding n q s ≥ q.maxRd then refusePkt n d k true Config.ccRemoteOp s
        else
          let s1 := modX n (fun x => rnrEnds k true { markAdmitted d x with hold := x.hold ++ [k], ece := x.ece || k.ce }) s
          let s2 := startHeld n (heldCount n s1) s1
          if bitOf 3 k.flags then sendAck n 0 0 0 s2 else s2

/-! ## Release of messages (R258, R264, R276) -/

/-- Every part of a message is visible, or it has failed. -/
def msgDone (m : InMsg) : Bool := m.total.isSome && m.xfers.isEmpty

/-- Releases one message: its receive completion, then the pass's counter (R258, R264). -/
def releaseMsg (n : Nat) (q : Qp) (m : InMsg) (s : State) : State :=
  let t := match m.pass.bind (fun i => tget s.qe.passes i) with
    | some p => if m.op = 2 ∧ m.code = 0 then (p.part, p.tally) else (q.part, 0xFFFF)
    | none => (q.part, 0xFFFF)
  match m.entry with
  | none => tallyAdd t.1 t.2 1 s
  | some e => postCqe q.rcq
      { wrid := e.wrid, bytes := if m.code = 0 then m.got else m.placed, opspec := if m.code = 0 then m.imm.getD 0 else 0, src := n,
        kind := 1, op := recvOp m, code := m.code, flags := if m.imm.isSome ∧ m.code = 0 then 1 else 0, tpart := t.1, tally := t.2 } s

/-- Advances VMSN over every message that is done, in message order, and acknowledges (R276). -/
def releaseMsgs (n : Nat) : Nat → Bool → State → State
  | 0, moved, s => if moved then sendAck n 0 0 0 s else s
  | fuel + 1, moved, s =>
    match qp? n s with
    | none => s
    | some q =>
      match inMsg? q q.x.vmsnRx with
      | none => if moved then sendAck n 0 0 0 s else s
      | some m =>
        if !msgDone m then (if moved then sendAck n 0 0 0 s else s)
        else
          let s1 := modQp n (fun q => { q with
            inMsgs := q.inMsgs.filter (fun j => j.msn != m.msn),
            x := { q.x with vmsnRx := succ32 q.x.vmsnRx, ackPsn := if m.op ≤ 2 then m.last else q.x.ackPsn } }) s
          releaseMsgs n fuel (moved || q.typ != 1 || decide (m.op ≤ 2)) (releaseMsg n q m s1)

/-! ## Responses (R281) -/

/-- Queues the packets of a response in the responder's stream. -/
def queueResp (n msn : Nat) (atomic : Bool) (data : List Byte) (s : State) : State :=
  match qp? n s with
  | none => s
  | some q =>
    let pkts := if atomic then [txPkt q.x.sndNxt 7 3 msn 0 0 0 (beBytes 8 (leNat data))]
      else cutData 4 (mtuBytes q.mtu) msn 0 0 none (data.length / mtuBytes q.mtu + 1) q.x.sndNxt 0 data
    pumpQp n (modX n (fun x => { x with
      queue := x.queue ++ pkts, sndNxt := (x.sndNxt + pkts.length) % 2 ^ 32 }) s)

/-! ## Congestion control (R284) -/

/-- A fraction of the window's cut. -/
structure Frac where
  num : Nat
  den : Nat
  deriving DecidableEq, Repr

def Frac.max (a b : Frac) : Frac := if a.num * b.den < b.num * a.den then b else a
def Frac.min (a b : Frac) : Frac := if a.num * b.den < b.num * a.den then a else b

/-- Integer part of `(b - a) / k` added to `a`, as the filters of R284 do. -/
def blend (a b k : Nat) : Nat := (((a : Int) + ((b : Int) - (a : Int)) / (k : Int))).toNat

/-- RTO from the filters (R278): at least RTO_MIN. -/
def rtoOf (srtt rttvar minNs : Nat) : Nat := max (srtt + 4 * rttvar) minNs

/-- Window update on an ACK that acknowledges `bytes` new payload bytes, with round trip `rtt` in ns (R284). -/
def ccUpdate (p : CcParams) (mtu now rtt bytes : Nat) (ece delay : Bool) (x : Xport) : Xport :=
  let old := x.base = 0 ∨ (now - x.baseAt) * 10 > p.baseAgeS * 10 ^ 9
  let base := if old then rtt else min x.base rtt
  let baseAt := if old ∨ rtt ≤ x.base then now else x.baseAt
  let srtt := if x.srtt = 0 then rtt else blend x.srtt rtt 8
  let dev := if rtt ≥ srtt then rtt - srtt else srtt - rtt
  let rttvar := blend x.rttvar dev 4
  let excess := if delay then rtt - base - p.targetNs else 0
  let f0 : Frac := if ece then ⟨p.betaEcnM, 10000⟩ else ⟨0, 1⟩
  let f := if excess > 0 then f0.max (Frac.min ⟨p.betaM * excess, 10000 * rtt⟩ ⟨p.betaMaxM, 10000⟩) else f0
  let x1 := { x with base := base, baseAt := baseAt, srtt := srtt, rttvar := rttvar, rto := rtoOf srtt rttvar p.rtoMinNs }
  if f.num > 0 then
    if (now - x.lastCut) * 10 ≥ srtt then
      { x1 with cwnd := max (x.cwnd * (f.den - f.num) / f.den) (p.minW * mtu), lastCut := now }
    else x1
  else { x1 with cwnd := min (x.cwnd + p.ai * mtu * bytes / max 1 x.cwnd) (p.maxW * mtu) }

/-! ## Loss and retransmission (R278 to R283) -/

/-- A path that lost a packet is penalised and takes a new source port (R283). -/
def penalise (path : Nat) (x : Xport) : Xport :=
  { x with
    penalty := x.penalty ||| 2 ^ path, pathLost := tset x.pathLost path (tgetD x.pathLost path 0 + 1),
    repaths := (List.range 8).map (fun k => if k = path then (x.repaths.getD k 0 + 1) % 256 else x.repaths.getD k 0) }

/-- Puts packets back at the head of the stream, in PSN order. -/
def requeue (ps : List TxPkt) (x : Xport) : Xport :=
  { x with
    queue := ps ++ x.queue,
    unacked := x.unacked.filter (fun p => !ps.any (fun k => k.psn == p.psn)) }

/-- The operation that a packet belongs to completes with a code. -/
def failMsn (n msn code : Nat) (s : State) : State :=
  match qp? n s with
  | none => s
  | some q =>
    let drop := fun (t : State) => modX n (fun x => { x with queue := x.queue.filter (fun p => !(p.msn == msn && ownRequest p)) }) t
    match q.ops.find? (fun o => o.msn == msn && o.st == .sent) with
    | none => drop s
    | some o =>
      if o.remote.isSome then
        endRemote n o code (modQp n (fun q => { q with
          ops := q.ops.filter (fun k => !(k.idx == o.idx && k.remote == o.remote)) }) (drop s))
      else drop (failOp n o.idx code s)

/-- A packet that has been sent RETRY_CNT + 1 times is lost again: its entry completes with 0x05 and the QP enters ERROR (R279). -/
def exhaust (n : Nat) (q : Qp) (p : TxPkt) (s : State) : State :=
  if ownRequest p && q.ops.any (fun o => o.msn == p.msn && o.remote.isNone) then failMsn n p.msn Config.ccRetry s
  else toError n Config.ccRetry 0 0 false (if ownRequest p then failMsn n p.msn Config.ccRetry s else s)

/-- A packet declared lost is resent on the next path, or its entry fails after RETRY_CNT resends (R278, R279). -/
def losePkt (n : Nat) (p : TxPkt) (s : State) : State :=
  match qp? n s with
  | none => s
  | some q =>
    if p.sends ≥ q.x.retryCnt + 1 then exhaust n q p s
    else modX n (fun x => requeue [p] (penalise p.path x)) s

/-- Is a PSN acknowledged by CSP and BITMAP (R277)? -/
def ackedBy (csp bm psn : Nat) : Bool :=
  before32 psn csp || (let d := diff32 psn csp; decide (1 ≤ d ∧ d ≤ 256) && bitOf (d - 1) bm)

/-- Operations that VMSN completes: SEND and WRITE whose message is visible at the responder (R281). -/
def vmsnOps (q : Qp) (vmsn : Nat) : List SqOp :=
  q.ops.filter (fun o => o.st == .sent && decide (o.ent.op ≤ 4) && before32 o.msn vmsn)

/-- An operation of the stream has succeeded. -/
def succeedOp (n : Nat) (o : SqOp) (s : State) : State :=
  match o.remote with
  | none => setOp n o.idx (.done 0) s
  | some x =>
    advance x (modXfer x (fun f => { f with rops := f.rops.filter (fun r => !(r.1 == n && r.2 == o.idx)) })
      (modQp n (fun q => { q with ops := q.ops.filter (fun k => !(k.idx == o.idx && k.remote == o.remote)) }) s))

/-- Reads whose every byte has arrived for a transfer (R241). -/
def finishRemoteReads (n : Nat) (s : State) : State :=
  match qp? n s with
  | none => s
  | some q =>
    (q.ops.filter (fun o => o.remote.isSome && o.ent.op == 5 && o.st == .sent && o.left == 0)).foldl (fun t o => succeedOp n o t) s

/-- Handles an ACK (R277 to R281, R284). -/
def onAck (n die : Nat) (bs : List Byte) (s : State) : State :=
  match qp? n s with
  | none => bump (bkTransport die) 4 1 s
  | some q =>
    if ptGen bs ≠ q.gen then bump (bkTransport die) 4 1 s
    else
      let csp := beAt bs 8 4
      let vmsn := beAt bs 12 4
      let syn := beAt bs 20 1
      let nak := beAt bs 24 4
      let bm := leNat ((bs.drop 32).take 32)
      let ece := bitOf 6 (beAt bs 2 1)
      let isNew := fun (p : TxPkt) => !p.acked && ackedBy csp bm p.psn
      let news := q.x.unacked.filter isNew
      let late := q.x.queue.filter (fun p => p.sends > 0 && ackedBy csp bm p.psn)
      let bytes := (news ++ late).foldl (fun a p => a + p.payload.length) 0
      let nakOp := q.ops.find? (fun o => o.st == .sent && decide (diff32 nak o.psn < o.npsn))
      let s1 := modX n (fun x =>
        let un := x.unacked.map (fun p => if isNew p then { p with acked := true } else p)
        let x1 := { x with
          unacked := un.filter (fun p => !before32 p.psn csp), queue := x.queue.filter (fun p => !(p.sends > 0 && ackedBy csp bm p.psn)),
          sndUna := if before32 x.sndUna csp then csp else x.sndUna,
          vmsnPeer := if before32 x.vmsnPeer vmsn then vmsn else x.vmsnPeer }
        if bytes > 0 ∧ q.typ = 0 then
          ccUpdate s.qe.cc (mtuBytes q.mtu) s.chip.lcount (((s.chip.lcount + 2 ^ 32 - beAt bs 16 4) % 2 ^ 32) * 10) bytes ece true x1
        else x1) s
      -- a packet sent earlier on a path than one now acknowledged is lost (R278)
      let lost := (q.x.unacked.filter (fun p => !p.acked && !isNew p)).filter (fun p =>
        news.any (fun a => a.path == p.path && decide (a.order > p.order)))
      let s2 := if q.typ = 0 then lost.foldl (fun t p => losePkt n p t) s1 else s1
      let s3 :=
        if syn = 1 then
          let cnt := if q.x.rnrTxPsn = nak then q.x.rnrCount + 1 else 1
          let t := modX n (fun x => { x with rnrWait := true, rnrTxPsn := nak, rnrCount := cnt }) s2
          if q.x.rnrRetry ≠ 7 ∧ cnt ≥ max 1 q.x.rnrRetry then
            match nakOp with
            | some o => failMsn n o.msn Config.ccRetry t
            | none => t
          else t
        else if syn = 2 ∨ syn = 3 then
          match nakOp with
          | some o => failMsn n o.msn (if syn = 2 then Config.ccRemoteAccess else Config.ccRemoteOp) s2
          | none => s2
        else s2
      let s4 := match qp? n s3 with
        | some q3 => (vmsnOps q3 q3.x.vmsnPeer).foldl (fun t o => succeedOp n o t) s3
        | none => s3
      sqKick n s4

end Sys2Proof.Machine
end

