-- ==== Sys2Proof/Machine/PipeOps.lean ====
section
/-! DEFINITION. The packet pipeline (11): buffer space, the parser and its key, rules and fragments, meters, gates, the transmit scheduler and refills. -/

namespace Sys2Proof.Machine

open Sys2Proof

/-! ## Ports and the packet buffer (R321 to R324) -/

def nodePort (node : Nat) : Nat := node / 4
def nodeDie (node : Nat) : Nat := node / 16
def port? (n : Nat) (s : State) : PortSt := tgetD s.pp.ports n PortSt.fresh
def modPipe (f : Pipe → Pipe) (s : State) : State := { s with pp := f s.pp }
def pcount (die c n : Nat) (s : State) : State := bump (bkPipe die) c n s

/-- Adds to a counter of a port node (Table 11-7, section 0). -/
def nodeCount (node c n : Nat) (s : State) : State :=
  modPipe (fun p => { p with portCtr := tset p.portCtr (node * 8 + c) (tgetD p.portCtr (node * 8 + c) 0 + n) }) s

/-- A port node exists in its port's mode (R321). -/
def nodeExists (node : Nat) (s : State) : Bool :=
  decide (node < 32) && decide (node % 4 < subPorts (port? (nodePort node) s).mode)

def bufferBytes : Nat := 96 * 2 ^ 20
def usedIn (pool : Nat) (s : State) : Nat := tgetD s.pp.used pool 0

/-- Bytes that the ports' reserves and the quotas of network-receive streams take out of the buffer (R323). -/
def reservedBytes (s : State) : Nat :=
  (s.pp.ports.foldl (fun a e => a + e.2.reserveKiB * 1024) 0) +
  (s.ti.binds.foldl (fun a e => a + if e.2.kind = 1 then e.2.quota * 1024 else 0) 0)

/-- The unreserved shared pool (R323). -/
def sharedBytes (s : State) : Nat := bufferBytes - reservedBytes s

/-- Where an arriving frame is stored: its port's reserve, else the shared pool (R324). -/
def findRoom (port n : Nat) (s : State) : Option Room :=
  if usedIn port s + n ≤ (port? port s).reserveKiB * 1024 then some { pool := port, bytes := n }
  else if usedIn 8 s + n ≤ sharedBytes s then some { pool := 8, bytes := n }
  else none

def takeRoom (r : Room) (s : State) : State :=
  modPipe (fun p => { p with used := tset p.used r.pool (tgetD p.used r.pool 0 + r.bytes) }) s
def freeRoom (r : Room) (s : State) : State :=
  modPipe (fun p => { p with used := tset p.used r.pool (tgetD p.used r.pool 0 - r.bytes) }) s

/-! ## Frame check sequence and DSCP -/

/-- CRC-32 of IEEE 802.3 (also the RoCEv2 ICRC's polynomial). -/
def crc32 (bs : List Byte) : Nat := (bs.foldl (crcByte 0xEDB88320) 0xFFFFFFFF) ^^^ 0xFFFFFFFF

/-- Appends the FCS. -/
def addFcs (bs : List Byte) : List Byte := bs ++ leBytes 4 (crc32 bs)

/-- Does the FCS of a frame check (R322)? -/
def fcsOk (f : List Byte) : Bool := leNat (f.drop (f.length - 4)) == crc32 (f.take (f.length - 4))

/-- Internet checksum of a header of 16-bit words. -/
def ipSum (bs : List Byte) : Nat :=
  let rec go : List Byte → Nat
    | a :: b :: r => a.toNat * 256 + b.toNat + go r
    | [a] => a.toNat * 256
    | [] => 0
  let t := go bs
  let u := t % 65536 + t / 65536
  65535 - (u % 65536 + u / 65536)

/-! ## The parser (R325, R326) -/

/-- A frame as parsed: the key's fields and where its headers stand. -/
structure Parsed where
  node : Nat
  tag : Bool
  vlan : Nat
  etype : Nat
  ipv4 : Bool
  ipv6 : Bool
  frag : Bool
  later : Bool
  trunc : Bool
  pt : Bool
  roce : Bool
  tos : Nat
  proto : Nat
  sip : Nat
  dip : Nat
  sport : Nat
  dport : Nat
  flow : Nat
  qpn : Nat
  tcpf : Nat
  opc : Nat
  udf0 : Nat
  udf1 : Nat
  /-- offsets of the IP header, of the transport header and of the payload; end of the payload -/
  l3 : Nat
  l4 : Nat
  body : Nat
  stop : Nat
  ipid : Nat
  deriving DecidableEq, Repr

/-- A big-endian field of the first 64 bytes: zero where it reaches beyond them. -/
def fld (f : List Byte) (o n : Nat) : Nat := if o + n ≤ 64 then beNat ((f.drop o).take n) else 0

/-- EtherType after at most two tags, the innermost tag and the offset behind it. -/
def parseTags (f : List Byte) : Nat × Option Nat × Nat :=
  let e := fld f 12 2
  if e = 0x8100 then (fld f 16 2, some (fld f 14 2), 18)
  else if e = 0x88A8 ∧ fld f 16 2 = 0x8100 then (fld f 20 2, some (fld f 18 2), 22)
  else (e, none, 14)

/-- Is a UDP destination port that of PT: the one set, or the one before it in its grace (R268)? -/
def isPtPort (p : Nat) (s : State) : Bool := p == s.qe.ptPort || s.qe.oldPort == some p

/-- An IPv4 address as an IPv4-mapped IPv6 one. -/
def mapV4 (a : Nat) : Nat := 0xFFFF * 2 ^ 32 + a

def parse (node udf0 udf1 : Nat) (f : List Byte) (s : State) : Parsed :=
  let t := parseTags f
  let l3 := t.2.2
  let v4 := t.1 == 0x0800
  let v6 := t.1 == 0x86DD
  let v6frag := v6 && fld f (l3 + 6) 1 == 44
  let l4 := if v4 then l3 + 4 * (fld f l3 1 % 16) else if v6frag then l3 + 48 else l3 + 40
  let fw := if v4 then fld f (l3 + 6) 2 % 2 ^ 14 else if v6frag then fld f (l3 + 42) 2 else 0
  let offset := if v4 then fw % 2 ^ 13 else fw / 8
  let more := if v4 then bitOf 13 fw else bitOf 0 fw
  let frag := (v4 && (more || offset != 0)) || v6frag
  let later := frag && offset != 0
  let proto := if v4 then fld f (l3 + 9) 1 else if v6frag then fld f (l3 + 40) 1 else if v6 then fld f (l3 + 6) 1 else 0
  let l4ok := (v4 || v6) && !later
  let udp := l4ok && proto == 17
  let tcp := l4ok && proto == 6
  let dport := if udp || tcp then fld f (l4 + 2) 2 else 0
  let pt := udp && l4 + 4 ≤ 64 && isPtPort dport s
  let roce := udp && dport == 4791
  let p := l4 + 8
  let flow := if v6 then fld f l3 4 % 2 ^ 20 else 0
  let qpn := if pt then (if v6 then flow else fld f (p + 4) 4 % 2 ^ 20) else if roce then fld f (p + 5) 3 else 0
  let opc := if pt then fld f (p + 1) 1 else if roce then fld f p 1 else 0
  let beyond := fun (o n : Nat) => decide (o + n > 64)
  let trunc := (v4 && beyond l3 20) || (v6 && beyond l3 40) || (v6frag && beyond (l3 + 40) 8) ||
    ((udp || tcp) && beyond l4 4) || (tcp && beyond (l4 + 13) 1) ||
    (pt && ((!v6 && beyond (p + 4) 4) || beyond (p + 1) 1)) || (roce && (beyond (p + 5) 3 || beyond p 1))
  let ipEnd := if v4 then l3 + fld f (l3 + 2) 2 else if v6 then l3 + 40 + fld f (l3 + 4) 2 else f.length - 4
  { node := node, tag := t.2.1.isSome, vlan := t.2.1.getD 0, etype := t.1, ipv4 := v4, ipv6 := v6, frag := frag,
    later := later, trunc := trunc, pt := pt, roce := roce,
    tos := if v4 then fld f (l3 + 1) 1 else if v6 then fld f l3 2 / 16 % 256 else 0, proto := proto,
    sip := if v4 then mapV4 (fld f (l3 + 12) 4) else if v6 then fld f (l3 + 8) 16 else 0,
    dip := if v4 then mapV4 (fld f (l3 + 16) 4) else if v6 then fld f (l3 + 24) 16 else 0,
    sport := if udp || tcp then fld f l4 2 else 0, dport := dport, flow := flow, qpn := qpn,
    tcpf := if tcp then fld f (l4 + 13) 1 else 0, opc := opc, udf0 := fld f udf0 4, udf1 := fld f udf1 4, l3 := l3, l4 := l4,
    body := if udp then p else if tcp then l4 + 4 * (fld f (l4 + 12) 1 / 16) else if v4 || v6 then l4 else l3,
    stop := min ipEnd (f.length - 4),
    ipid := if v4 then fld f (l3 + 4) 2 else if v6frag then fld f (l3 + 44) 4 else 0 }

/-- The key of Table 11-1. -/
def Parsed.key (p : Parsed) : List Byte :=
  let flags := p.tag.toNat + 2 * p.ipv4.toNat + 4 * p.ipv6.toNat + 8 * p.frag.toNat + 16 * p.later.toNat + 32 * p.trunc.toNat
    + 64 * p.pt.toNat + 128 * p.roce.toNat
  beBytes 1 p.node ++ beBytes 1 flags ++ beBytes 2 p.vlan ++ beBytes 2 p.etype ++ beBytes 1 p.tos ++ beBytes 1 p.proto
    ++ beBytes 16 p.sip ++ beBytes 16 p.dip ++ beBytes 2 p.sport ++ beBytes 2 p.dport ++ beBytes 4 p.flow ++ beBytes 4 p.qpn
    ++ beBytes 1 p.tcpf ++ beBytes 1 p.opc ++ [0, 0] ++ beBytes 4 p.udf0 ++ beBytes 4 p.udf1

/-- Payload bytes of a frame: behind the headers the parser knows, without FCS and padding (log 28). -/
def Parsed.payload (p : Parsed) (f : List Byte) : List Byte := (f.drop p.body).take (p.stop - p.body)

/-- Writes a DSCP into a frame, with its IPv4 checksum and FCS (R336). -/
def setDscp (p : Parsed) (dscp : Nat) (f : List Byte) : List Byte :=
  let b := f.take (f.length - 4)
  if p.ipv4 then
    let b1 := spliceAt b (p.l3 + 1) [BitVec.ofNat 8 (dscp * 4 + p.tos % 4)]
    let n := p.l4 - p.l3
    let b2 := spliceAt b1 (p.l3 + 10) [0, 0]
    addFcs (spliceAt b2 (p.l3 + 10) (beBytes 2 (ipSum ((b2.drop p.l3).take n))))
  else if p.ipv6 then
    let w := beNat ((b.drop p.l3).take 2)
    addFcs (spliceAt b p.l3 (beBytes 2 (w / 4096 * 4096 + (dscp * 4 + p.tos % 4) * 16 + w % 16)))
  else f

/-! ## Rules (R328, R332) -/

/-- Does a rule match a key? -/
def ruleHits (r : Rule) (k : BitVec 512) : Bool := k &&& r.mask == r.key &&& r.mask

/-- The rule that acts: highest PRIO, then lowest index. -/
def bestRule (k : BitVec 512) : List (Nat × Rule) → Option (Nat × Rule)
  | [] => none
  | e :: r =>
    match bestRule k r with
    | none => if ruleHits e.2 k then some e else none
    | some b => if ruleHits e.2 k && decide (b.2.prio ≤ e.2.prio) then some e else some b

/-- A parameter out of range, a reserved action or a non-zero zero field (R328). -/
def ruleBad (r : Rule) : Bool :=
  let f := r.aflags.toNat
  r.zeroSet || decide (r.action > 4) || decide (r.prio > 65535) || decide (f / 16 ≠ 0) || decide (bitsOf 3 2 f = 3) ||
  !(decide (r.meter < 4096) || r.meter == 65535) || decide (r.newDscp > 63) ||
  (if r.action = 2 then decide (r.spread < 1 ∨ r.spread > 16) || decide (r.param.toNat / 2 ^ 22 ≠ 0)
   else r.spread != 0 || (if r.action = 3 then decide (r.param.toNat ≥ 65536) else r.param != 0))

/-- The rule set of a version that is still known. -/
def ruleSetOf (v : Nat) (s : State) : Option RuleSet :=
  if s.pp.cur.version = v then some s.pp.cur
  else match s.pp.retiring.find? (fun r => r.version == v) with
    | some r => some r
    | none => s.pp.lastRetired.filter (fun r => r.version == v)

/-- Counts a frame at a rule with COUNT (R331). -/
def RuleSet.hit (i n : Nat) (r : RuleSet) : RuleSet :=
  match tget r.rules i with
  | some q =>
    if bitOf 0 q.aflags.toNat then
      let h := tgetD r.hits i (0, 0)
      { r with hits := tset r.hits i (h.1 + 1, h.2 + n) }
    else r
  | none => r

def countHit (v : Nat) (i : Option Nat) (n : Nat) (s : State) : State :=
  match i with
  | none => s
  | some k =>
    let up := fun (r : RuleSet) => if r.version = v then r.hit k n else r
    modPipe (fun p => { p with
      cur := up p.cur, retiring := p.retiring.map up, lastRetired := p.lastRetired.map up }) s

/-! ## Meters (R334 to R336) -/

def meterKey (die m : Nat) : Nat := die * 65536 + m

/-- Accounted length of a frame in units of 2^-16 byte (R333). -/
def accounted (lenMode overhead n : Nat) : Nat := (n + if lenMode = 1 then overhead else 0) * 65536

/-- Colour of a frame of accounted length `b` and incoming colour `c` (0 green, 1 yellow, 2 red), with the buckets after it. -/
def meterColour (m : Meter) (c b : Nat) : Nat × Meter :=
  if m.set.mode = 0 then
    if c = 0 ∧ m.tc ≥ b then (0, { m with tc := m.tc - b })
    else if c ≠ 2 ∧ m.te ≥ b then (1, { m with te := m.te - b })
    else (2, m)
  else if c = 2 ∨ m.te < b then (2, m)
  else if c = 1 ∨ m.tc < b then (1, { m with te := m.te - b })
  else (0, { m with te := m.te - b, tc := m.tc - b })

def meterCount (colour : Nat) (m : Meter) : Meter :=
  match colour with
  | 0 => { m with green := m.green + 1 }
  | 1 => { m with yellow := m.yellow + 1 }
  | _ => { m with red := m.red + 1 }

/-- What metering a frame leads to: colour, action of the colour (0 pass, 1 drop, 2 set DSCP), DSCP of the colour. -/
structure Metered where
  colour : Nat
  action : Nat
  dscp : Nat

/-- Meters a frame. A meter that nothing has set lets the frame keep its colour. -/
def meterFrame (die m pre n : Nat) (s : State) : Metered × State :=
  match tget s.pp.meters (meterKey die m) with
  | none => ({ colour := pre, action := 0, dscp := 0 }, s)
  | some x =>
    let c := if x.set.aware then pre else 0
    let r := meterColour x c (accounted x.set.lenMode x.set.overhead n)
    ({ colour := r.1, action := x.set.actions.getD r.1 0, dscp := x.set.dscps.getD r.1 0 },
     modPipe (fun p => { p with meters := tset p.meters (meterKey die m) (meterCount r.1 r.2) }) s)

/-- Tokens that a rate in Mb/s gains at a refill, in units of 2^-16 byte: RATE × I / 8 with I in quarters of a µs. -/
def gainOf (rate quarters : Nat) : Nat := rate * quarters * 2048

/-- A meter at a refill: a staged change applies first, with the buckets clamped (R335, R336). -/
def refillMeter (quarters : Nat) (m : Meter) : Meter :=
  let m1 := match m.next with
    | none => m
    | some n => { m with set := n, next := none, tc := min m.tc (n.cbs * 65536), te := min m.te (n.ebs * 65536) }
  let c := m1.set.cbs * 65536
  let e := m1.set.ebs * 65536
  if m1.set.mode = 0 then
    let t := m1.tc + gainOf m1.set.cir quarters
    { m1 with tc := min t c, te := min (m1.te + (t - min t c)) e }
  else { m1 with tc := min (m1.tc + gainOf m1.set.cir quarters) c, te := min (m1.te + gainOf m1.set.pir quarters) e }

/-! ## Gates (R343 to R345) -/

/-- GTIME in whole nanoseconds. -/
def gtimeNs (s : State) : Nat := s.pp.gtime / 2 ^ 32

/-- Gates of the entry into which an offset of the cycle falls; the last entry holds to the end. -/
def gatesIn (off : Nat) : List (Byte × Nat) → Nat
  | [] => 255
  | [e] => e.1.toNat
  | e :: r => if off < e.2 then e.1.toNat else gatesIn (off - e.2) r

/-- Offset of a time in the cycle of a timetable. -/
def cycleOff (t : Timetable) (ns : Nat) : Nat := ((((ns : Int) - t.base) % (max 1 t.cycleNs : Nat))).toNat

/-- The first cycle start of a timetable at or after its BASE and a time (R345). -/
def firstStart (t : Timetable) (ns : Nat) : Nat :=
  if ns ≤ t.base then t.base else t.base + (ns - t.base + max 1 t.cycleNs - 1) / max 1 t.cycleNs * max 1 t.cycleNs

def gatesAt (t : Timetable) (ns : Nat) : Nat := gatesIn (cycleOff t ns) t.entries

/-- Start offsets of the entries, within the cycle, and its end. -/
def entryStarts (cycle : Nat) : Nat → List (Byte × Nat) → List Nat
  | _, [] => []
  | at', e :: r => (if at' < cycle then [at'] else []) ++ entryStarts cycle (at' + e.2) r

/-- Does a bit of the gates change from 1 to 0 within `gPs` picoseconds from a time on (R344)? -/
def closesWithin (t : Timetable) (tc ns gPs : Nat) : Bool :=
  let c := cycleOff t ns
  let cyc := max 1 t.cycleNs
  let bounds := entryStarts cyc 0 t.entries ++ (entryStarts cyc 0 t.entries).map (· + cyc)
  bounds.any (fun b => decide (c < b ∧ (b - c) * 1000 ≤ gPs) &&
    bitOf tc (gatesIn ((b + cyc - 1) % cyc) t.entries) && !bitOf tc (gatesIn (b % cyc) t.entries))

/-- Guard band in picoseconds: (MAXFRAME + 20) × 8 bits at the sub-port's rate (R344). -/
def guardPs (maxFrame mode : Nat) : Nat := (maxFrame + 20) * 8 * (if mode = 0 then 10 else if mode = 1 then 20 else 40) / 8

/-- May a frame of a traffic class start at a port node: its gate is open, and neither the timetable nor the switch to a staged one
closes it within the guard band (R344, R345)? -/
def gateOpen (node tc : Nat) (s : State) : Bool :=
  match tget s.pp.gates (nodePort node) with
  | none => true
  | some g =>
    let ns := gtimeNs s
    let guard := guardPs (port? (nodePort node) s).maxFrame (port? (nodePort node) s).mode
    bitOf tc g.gates && !(g.cur.any (fun t => closesWithin t tc ns guard)) &&
    !(g.staged.any (fun t => decide (ns < t.2 ∧ (t.2 - ns) * 1000 ≤ guard) && !bitOf tc (gatesAt t.1 t.2)))

/-- Puts the gates of a port in force: a staged timetable from its first cycle start on, then the entry of now (R345). -/
def gateNow (port : Nat) (s : State) : State :=
  match tget s.pp.gates port with
  | none => s
  | some g =>
    let ns := gtimeNs s
    let due := match g.staged with
      | none => false
      | some t => decide (t.2 ≤ ns)
    let cur := if due then g.staged.map Prod.fst else g.cur
    let h : Gate := { cur := cur, staged := if due then none else g.staged, gates := match cur with
      | none => 255
      | some t => gatesAt t ns }
    modPipe (fun p => { p with gates := tset p.gates port h }) s

/-! ## The transmit scheduler (R337 to R340) -/

/-- Key of an object of a level. -/
def schedKey (level n : Nat) : Nat :=
  match level with
  | 0 => n
  | 1 => 0x100 + n
  | 2 => 0x1000 + n
  | _ => 0x10000 + n

def sched? (k : Nat) (s : State) : Sched := tgetD s.pp.sched k Sched.fresh
def modSched (k : Nat) (f : Sched → Sched) (s : State) : State :=
  modPipe (fun p => { p with sched := tset p.sched k (f (tgetD p.sched k Sched.fresh)) }) s

/-- Key of an object's parent. A port node has none. -/
def parentKey (k : Nat) (o : Sched) : Option Nat :=
  if k < 0x100 then none
  else o.set.parent.map (fun p => if k ≥ 0x10000 then 0x1000 + p else if k ≥ 0x1000 then 0x100 + p else p)

/-- Children of an object in key order. -/
def childrenOf (k : Nat) (s : State) : List Nat :=
  (s.pp.sched.filter (fun e => parentKey e.1 e.2 == some k)).map Prod.fst

/-- Ready QPs that send through a queue. -/
def readyQps (q : Nat) (s : State) : List Nat :=
  (s.qe.qps.filter (fun e => e.2.txq == q && e.2.typ != 2 && qpReady e.2)).map Prod.fst

/-- R339's eligible. -/
def eligible (node : Nat) : Nat → Nat → State → Bool
  | 0, _, _ => false
  | fuel + 1, k, s =>
    let o := sched? k s
    if o.set.shaper.rateMbps ≠ 0 ∧ o.tokens < 0 then false
    else if k ≥ 0x10000 then (!o.frames.isEmpty || !(readyQps (k - 0x10000) s).isEmpty) && gateOpen node o.set.tc s
    else (childrenOf k s).any (fun c => eligible node fuel c s)

/-- The children of `l` in rotation behind the one served last. -/
def rotate (l : List Nat) (last : Option Nat) : List Nat :=
  match last with
  | none => l
  | some k => l.filter (fun c => decide (k < c)) ++ l.filter (fun c => decide (c ≤ k))

/-- Takes turns until one has bytes left: each turn brings a quantum (log 29). -/
def takeTurn : Nat → List Nat → State → Option (Nat × State)
  | 0, _, _ => none
  | _, [], _ => none
  | fuel + 1, c :: r, s =>
    let t := modSched c (fun o => { o with deficit := o.deficit + (o.set.weight * 1024 : Nat) }) s
    if (sched? c t).deficit > 0 then some (c, t) else takeTurn fuel (r ++ [c]) t

/-- R339's pick: the keys from the node down to the queue. -/
def pickPath (node : Nat) : Nat → Nat → State → Option (List Nat × State)
  | 0, _, _ => none
  | fuel + 1, k, s =>
    if k ≥ 0x10000 then some ([k], s)
    else
      let cs := (childrenOf k s).filter (fun c => eligible node 4 c s)
      match (cs.map (fun c => (sched? c s).set.prio)).max? with
      | none => none
      | some p =>
        let same := cs.filter (fun c => (sched? c s).set.prio == p)
        let last := tget (sched? k s).last p
        let r := match last with
          | some c => if same.contains c && decide ((sched? c s).deficit > 0) then some (c, s) else takeTurn (32 * same.length) (rotate same last) s
          | none => takeTurn (32 * same.length) same s
        match r with
        | none => none
        | some (c, t) =>
          match pickPath node fuel c (modSched k (fun o => { o with last := tset o.last p c }) t) with
          | none => none
          | some (ks, u) => some (k :: ks, u)

/-- Each shaper on a path loses the frame's length, and each object its share of its turn. -/
def chargePath (ks : List Nat) (n : Nat) (s : State) : State :=
  ks.foldl (fun t k => modSched k (fun o => { o with
    tokens := o.tokens - (accounted o.set.shaper.lenMode o.set.shaper.overhead n : Nat),
    deficit := o.deficit - n }) t) s

/-- A scheduler object at a refill: a staged change first, then its tokens (R340, R341). -/
def refillSched (quarters : Nat) (o : Sched) : Sched :=
  let o1 := match o.next with
    | none => o
    | some n =>
      let top : Int := (n.shaper.burst * 65536 : Nat)
      let fresh := o.set.parent.isNone && n.parent.isSome
      { o with set := n, next := none, tokens := if fresh then top else min o.tokens top }
  { o1 with tokens := min (o1.tokens + (gainOf o1.set.shaper.rateMbps quarters : Nat)) (o1.set.shaper.burst * 65536 : Nat) }

def queuedBytes (o : Sched) : Nat := o.frames.foldl (fun a f => a + f.bytes.length) 0

/-- Packet-buffer bytes that the forwarded frames of a queue hold. -/
def forwardedBytes (o : Sched) : Nat := (o.frames.filter (fun f => f.room.isSome)).foldl (fun a f => a + f.bytes.length) 0

/-- Puts a frame into a transmit queue (R338): none where QLIMIT does not let it in. -/
def forward (q : Nat) (f : List Byte) (room : Room) (s : State) : Option State :=
  let o := sched? (0x10000 + q) s
  if forwardedBytes o + f.length > o.set.qlimit then none
  else some (modSched (0x10000 + q) (fun o => { o with
    frames := o.frames ++ [{ bytes := f, at' := s.chip.lcount, room := some room, inject := none }] }) s)

/-- A record of a transmit stream becomes a frame of its queue, one at a time beyond QLIMIT (log 30). -/
def txPush (q : Nat) (bytes : List Byte) (s : State) : Option State :=
  let o := sched? (0x10000 + q) s
  if !o.frames.isEmpty && decide (queuedBytes o + bytes.length + 4 > o.set.qlimit) then none
  else some (modSched (0x10000 + q) (fun o => { o with
    frames := o.frames ++ [{ bytes := addFcs bytes, at' := s.chip.lcount, room := none, inject := none }] }) s)

/-! ## Histograms (R347) -/

/-- Bin of a value whose bin 0 ends below 2^lo. -/
def histBin (lo v : Nat) : Nat := if v < 2 ^ lo then 0 else min 15 (Nat.log2 v - lo + 1)

def holdAdd (t : Tab Nat) (b : Nat) : Tab Nat := tset t b (min (2 ^ 32 - 1) (tgetD t b 0 + 1))

/-- Takes a delay sample of one dequeued frame in 2^k. -/
def sampleDelay (q ns : Nat) (s : State) : State :=
  match tget s.pp.hists q with
  | none => s
  | some h =>
    let n := h.seen + 1
    let g := if n % 2 ^ h.k = 0 then { h with seen := n, delay := holdAdd h.delay (histBin 7 ns) } else { h with seen := n }
    modPipe (fun p => { p with hists := tset p.hists q g }) s

/-- Takes the depth samples of a 64th refill. -/
def sampleDepths (s : State) : State :=
  modPipe (fun p => { p with hists := p.hists.map (fun e =>
    (e.1, { e.2 with depth := holdAdd e.2.depth (histBin 10 (queuedBytes (tgetD p.sched (0x10000 + e.1) Sched.fresh))) })) }) s

end Sys2Proof.Machine
end

