-- ==== Sys2Proof/Machine/TileOps.lean ====
section
/-! DEFINITION. Tiles, groups and jobs (03): placement of slots, a tile wherever it stands, FIFOs, converted sequences, how a job starts and ends. -/

namespace Sys2Proof.Machine

open Sys2Proof

def tileSram : Nat := 10 * 2 ^ 20
def tileImem : Nat := 256 * 2 ^ 10

/-- Codes of TSTATE (BN_TILESTAT). -/
def TState.code : TState → Nat
  | .idle => 0
  | .run => 1
  | .stalled => 2
  | .stopped => 3
  | .exception => 4

/-- A slot without an image. -/
def SlotSt.fresh : SlotSt := { wstate := .empty, regions := [], staged := [], loads := [], reload := false, loadMb := none }

/-! ## Placement (R100) -/

def benchOf (g : Group) (slot : Nat) : Nat := (g.first + slot) % 16

/-- The tiles of a group stand on benches: it is resident, or being saved. -/
def onBenches (g : Group) : Bool := g.phase == .resident || g.phase == .saving

/-- The benches that a group holds. -/
def benchesOf (g : Group) : List Nat := if g.phase = .waiting then [] else (tkeys g.slots).map (benchOf g)

/-- The physical tile of a slot-relative one, while the group's tiles stand on benches. -/
def physTile (part slot rel : Nat) (s : State) : Option Nat :=
  match group? part s with
  | some g => if onBenches g && (tget g.slots slot).isSome then some (benchOf g slot * 8 + rel) else none
  | none => none

/-- Partition and slot on a bench. -/
def benchOwner (b : Nat) (s : State) : Option (Nat × Nat) :=
  s.ti.groups.findSome? (fun e =>
    if e.2.phase = .waiting then none
    else ((tkeys e.2.slots).find? (fun i => benchOf e.2 i == b)).map (fun i => (e.1, i)))

/-- Partition, slot and slot-relative number of a physical tile. -/
def tilePlace (t : Nat) (s : State) : Option (Nat × Nat × Nat) := (benchOwner (t / 8) s).map (fun o => (o.1, o.2, t % 8))

/-- A tile of a slot wherever its state stands: on its bench, or in the save area (R103). -/
def tileAt (part slot rel : Nat) (s : State) : Tile :=
  match physTile part slot rel s with
  | some t => tile? t s
  | none => ((group? part s).map (fun g => tgetD g.saved (slot * 8 + rel) Tile.fresh)).getD Tile.fresh

def modTileAt (part slot rel : Nat) (f : Tile → Tile) (s : State) : State :=
  match physTile part slot rel s with
  | some t => modTile t f s
  | none =>
    match group? part s with
    | some g => setGroup part { g with saved := tset g.saved (slot * 8 + rel) (f (tgetD g.saved (slot * 8 + rel) Tile.fresh)) } s
    | none => s

def slotSt? (part slot : Nat) (s : State) : Option SlotSt := (group? part s).bind (fun g => tget g.slots slot)
def modSlot (part slot : Nat) (f : SlotSt → SlotSt) (s : State) : State :=
  match group? part s with
  | some g => setGroup part { g with slots := tmod g.slots slot f } s
  | none => s


/-- Ranges of a slot's tile that hold resident weights, their scales included (R79). -/
def residentOf (part slot rel : Nat) (s : State) : List (Nat × Nat) :=
  match slotSt? part slot s with
  | some st => (st.regions.filter (fun r => r.region.kind == .weights && r.region.tile == rel)).flatMap (fun r => regionRanges r.region)
  | none => []

/-- Does a range of a physical tile touch resident weights? -/
def residentHit (t addr n : Nat) (s : State) : Bool :=
  match tilePlace t s with
  | some p => (residentOf p.1 p.2.1 p.2.2 s).any (fun r => overlap addr n r.1 r.2)
  | none => false

/-! ## Free-running generator (R60) -/

/-- The state of an engine's free-running generator: free, but never zero. -/
def freeGen (s : State) : Nat × State :=
  let v := (Config.freeGenerator s.draws).toNat
  (if v = 0 then 1 else v, { s with draws := s.draws + 1 })

/-- The generator an operation starts from: its seed, or the free-running one for a seed of 0. -/
def seedGen (seed : Nat) (s : State) : Nat × State := if seed = 0 then freeGen s else (seed, s)

/-! ## Sequences in FIFOs and descriptors without scale arrays (log 31)

MX data travels in wire groups there: the elements of four blocks behind their four scales. -/

/-- Elements that a number of bytes holds; none for a part of an element or of a wire group. The spec does not say what a
converting stream or tile DMA does with such a length: the model refuses it (DESIGN CHOICE, log 124). -/
def elemsIn (fmt n : Nat) : Option Nat :=
  if fmtBits fmt = 0 then none
  else if fmtMx fmt then (if n % groupBytes fmt = 0 then some (n / groupBytes fmt * 128) else none)
  else if n * 8 % fmtBits fmt = 0 then some (n * 8 / fmtBits fmt) else none

/-- Bytes in another format of what is `n` bytes in one format. -/
def otherBytes (fmt n other : Nat) : Nat :=
  if fmt = other then n else match elemsIn fmt n with
    | some k => wireBytes other k
    | none => 0

/-- A converted sequence with its generator and counts. -/
structure Converted where
  bytes : List Byte
  gen : Nat
  nonfin : Nat
  sat : Nat

/-- Converts a sequence; the same format passes unchanged. -/
def convertWire (src : Nat) (cvt : Byte) (gen : Nat) (bs : List Byte) : Converted :=
  if src = cvtFmt cvt then { bytes := bs, gen := gen, nonfin := 0, sat := 0 }
  else match elemsIn src bs.length with
    | none => { bytes := bs, gen := gen, nonfin := 0, sat := 0 }
    | some n =>
      let r := recode cvt gen (wireDecode src (n + 1) n bs)
      { bytes := wireEncode (cvtFmt cvt) r, gen := r.gen, nonfin := r.nonfin, sat := r.sat }

/-- Counters of a tile (Table 3-9): c of tile `t` in its bench's block. -/
def tileCount (t c n : Nat) (s : State) : State := if n = 0 then s else bump (bkBench (t / 8)) (8 * (t % 8) + c) n s

def countCvt (t : Nat) (c : Converted) (s : State) : State := tileCount t 6 c.sat (tileCount t 5 c.nonfin s)

/-! ## FIFOs (R84) -/

def fifo? (t f : Nat) (s : State) : List Byte := tgetD (tile? t s).fifos f []
def fifoRoom (t f : Nat) (s : State) : Nat := 8192 - (fifo? t f s).length

/-- Key of a stream: by partition, slot, slot-relative tile and FIFO. -/
def bindKey (part slot rel f : Nat) : Nat := ((part * 16 + slot) * 8 + rel) * 8 + f
def bind? (k : Nat) (s : State) : Option Binding := tget s.ti.binds k
def modBind (k : Nat) (f : Binding → Binding) (s : State) : State := { s with ti := { s.ti with binds := tmod s.ti.binds k f } }
/-- Key of the stream at a physical tile's FIFO. -/
def bindKeyAt (t f : Nat) (s : State) : Option Nat := (tilePlace t s).map (fun p => bindKey p.1 p.2.1 p.2.2 f)

/-- Takes `n` bytes from the front of a record list. -/
def eatRecs (n : Nat) : List Nat → List Nat
  | [] => []
  | r :: rs => if n < r then (r - n) :: rs else eatRecs (n - r) rs

def pushFifo (t f : Nat) (bs : List Byte) (s : State) : State :=
  modTile t (fun x => { x with fifos := tset x.fifos f (tgetD x.fifos f [] ++ bs) }) s

/-- Pops `n` bytes: they leave the records of the stream. -/
def popFifo (t f n : Nat) (s : State) : State :=
  let s1 := modTile t (fun x => { x with fifos := tset x.fifos f ((tgetD x.fifos f []).drop n) }) s
  match bindKeyAt t f s with
  | some k => modBind k (fun b => { b with recs := eatRecs n b.recs }) s1
  | none => s1

/-! ## Jobs (R97, R98) -/

/-- Slot and tile of each tile of a job's masks. -/
def jobTiles (r : JobReq) : List (Nat × Nat) :=
  r.slots.flatMap (fun e => ((List.range 8).filter (fun i => bitOf i e.mask.toNat)).map (fun i => (e.slot, i)))

def job? (j : Nat) (s : State) : Option Job := tget s.ti.jobs j
def setJob (j : Nat) (x : Job) (s : State) : State := { s with ti := { s.ti with jobs := tset s.ti.jobs j x } }

/-- The job that runs, or ran, on a tile and has not ended whole. A held or armed job holds none yet. -/
def jobOf (part slot rel : Nat) (s : State) : Option (Nat × Job) :=
  s.ti.jobs.find? (fun e => e.2.ran && e.2.part == part && (jobTiles e.2.req).contains (slot, rel))

def jobAt (t : Nat) (s : State) : Option (Nat × Job) := (tilePlace t s).bind (fun p => jobOf p.1 p.2.1 p.2.2 s)

/-- Stops a tile at its bundle boundary. What waits is abandoned; an M sequence runs on behind an exception (R98, R137). -/
def stopTile (x : Tile) : Tile :=
  if x.tstate = .run ∨ x.tstate = .stalled then { x with tstate := .stopped, waiting := false, atJbnd := false, mseq := none } else x

def modJobTiles (j : Job) (f : Tile → Tile) (s : State) : State :=
  (jobTiles j.req).foldl (fun t p => modTileAt j.part p.1 p.2 f t) s

/-- A cause ends a job: its tiles stop, and JOB_END follows once their DMA has drained (R98). -/
def endJob (j code opspec : Nat) (s : State) : State :=
  match job? j s with
  | none => s
  | some x =>
    match x.jstate with
    | .ending _ _ => s
    | _ => modJobTiles x stopTile (setJob j { x with jstate := .ending code opspec } s)

/-- Ends the job on a physical tile with a code, if one runs there. -/
def failTile (t code : Nat) (s : State) : State :=
  match jobAt t s with
  | some (j, x) => if x.jstate = .running then endJob j code 0 s else s
  | none => s

/-- A tile at job start (Table 4-2). -/
def startedTile (entry gen : Nat) (x : Tile) : Tile :=
  { x with
    ix := 0, iy := 0, pc := entry % 65536, tstate := .run, rstack := [], mspa := 0, mspw := 0, vslp := 0, vssp := 0,
    srgen := BitVec.ofNat 32 gen, tsel := 0, acc := [], mseq := none, exc := 0, waiting := false, atJbnd := false }

/-- Entry of a tile in a request. -/
def entryOf (r : JobReq) (slot rel : Nat) : Nat :=
  ((r.slots.find? (fun e => e.slot == slot)).map (fun e => e.entries.getD rel 0)).getD 0

def startTiles (x : Job) : List (Nat × Nat) → State → State
  | [], s => s
  | p :: ps, s =>
    let g := freeGen s
    startTiles x ps (modTileAt x.part p.1 p.2 (startedTile (entryOf x.req p.1 p.2) g.1) g.2)

/-- Benches of a job, where its group stands. -/
def jobBenches (x : Job) (s : State) : List Nat :=
  match group? x.part s with
  | some g => x.req.slots.map (fun e => benchOf g e.slot)
  | none => []

def jobSlots (x : Job) (s : State) : List SlotSt := x.req.slots.filterMap (fun e => slotSt? x.part e.slot s)

/-- What a held job waits for: its group is resident, every slot RESIDENT, no other job on its tiles, every bench's core serving, its
CQ not blocked (R95, R97, R99, R248, R459). -/
def jobReady (x : Job) (s : State) : Bool :=
  (group? x.part s).any (fun g => g.phase == .resident) && (jobSlots x s).all (fun st => st.wstate == .resident) &&
  (jobTiles x.req).all (fun p => (jobOf x.part p.1 p.2 s).isNone) && (jobBenches x s).all (fun b => procUp (benchProc b) s) &&
  !x.req.cq.any (fun n => cqBlocked n s)

/-- A held job starts, once the device is awake (R507). A job whose slot was emptied meanwhile ends with 0x07 (log 32). -/
def launch (j : Nat) (s : State) : State :=
  match job? j s with
  | none => s
  | some x =>
    if x.jstate ≠ .held then s
    else if (jobSlots x s).any (fun st => st.wstate == .empty) then endJob j Config.ccFlushed 0 s
    else if jobReady x s then
      if domainOff 1 s then needWake s
      else startTiles x (jobTiles x.req) (setJob j { x with jstate := .running, ran := true } s)
    else s

/-- Takes up held jobs in order. -/
def kickJobs (s : State) : State := (tkeys s.ti.jobs).foldl (fun t j => launch j t) s

/-- Signals a job's completion target: the queue entry first, then the counter (R97, R247, R264). -/
def signalJob (j : Nat) (x : Job) (code opspec : Nat) (s : State) : State :=
  match x.req.cq with
  | some n => postCqe n { wrid := BitVec.ofNat 64 j, bytes := 0, opspec := opspec, src := j % 2 ^ 20, kind := 2, op := 0,
                          code := code, flags := 0, tpart := x.part, tally := x.req.tally } s
  | none => tallyAdd x.part x.req.tally 1 s

/-- A job runs on a slot. -/
def slotBusy (part slot : Nat) (s : State) : Bool :=
  s.ti.jobs.any (fun e => e.2.part == part && e.2.ran && e.2.req.slots.any (fun r => r.slot == slot))

/-- A job runs on a bench: its processor has no boundary now. -/
def benchBusy (b : Nat) (s : State) : Bool :=
  s.ti.jobs.any (fun e => e.2.ran && (jobBenches e.2 s).contains b)

end Sys2Proof.Machine
end

