-- ==== Sys2Proof/Machine/TileMac.lean ====
section
/-! DEFINITION. The MAC array and the accumulator (04): issue and steps of an M sequence, operations of the V slot. -/

namespace Sys2Proof.Machine

open Sys2Proof

/-! ## Data space (R77, R78, R114) -/

def localEnd : Nat := 0xA00000
def windowLo : Nat := 0x1000000
def windowHi : Nat := 0x5000000

/-- Cause of a range outside tile-local SRAM: none, PROT_WINDOW or PROT_ADDR. -/
def localCause (lo hi : Nat) : Nat :=
  if hi ≤ localEnd then 0 else if windowLo ≤ lo ∧ hi ≤ windowHi then excProtWindow else excProtAddr

/-! ## Issue of an M sequence (R126 to R129) -/

/-- What an M syllable does at issue: a cause, the sequence, register updates by number. -/
structure MIssue where
  exc : Nat
  seq : MSeq
  upd : List (Nat × Nat)

/-- Bytes by which a memory operand moves per step. -/
def mActInc (w : Nat) : Nat := if mAsrc w = 4 then mColBytes w else 0
def mWtInc (w : Nat) : Nat := if mWsrc w = 1 then 0 else mRowBytes w

/-- Checks the whole range a sequence reads and advances the pointers (R128). PROT_ADDR goes before PROT_WINDOW and MISALIGN
(log 33). -/
def mIssue (x : Tile) (w : Nat) : MIssue :=
  let n := mCount w
  let ix := x.ix.toNat
  let iy := x.iy.toNat
  let base := if mWsrc w = 2 then ix else iy
  let mem := decide (mAsrc w ≥ 4)
  let amx := fmtMx (mAfmt w)
  let wmx := fmtMx (mWfmt w)
  let rng := (if mem then [(ix, ix + (n - 1) * mActInc w + mColBytes w)] else []) ++
    (if mem && amx then [(x.mspa.toNat, x.mspa.toNat + 2 * n)] else []) ++
    [(base, base + (n - 1) * mWtInc w + mRowBytes w)] ++ (if wmx then [(x.mspw.toNat, x.mspw.toNat + n)] else [])
  let causes := rng.map (fun r => localCause r.1 r.2)
  let exc := if causes.contains excProtAddr then excProtAddr
    else if causes.contains excProtWindow then excProtWindow
    else if (mem && ix % mColBytes w != 0) || base % mRowBytes w != 0 then excMisalign
    else 0
  { exc := exc,
    seq := { syl := w, steps := n, act := if mem then ix else 0, wt := base, spa := x.mspa.toNat, spw := x.mspw.toNat },
    upd := (if mAsrc w = 4 then [(0, (ix + n * mColBytes w) % 2 ^ 32)] else []) ++
      (if mWsrc w = 0 then [(1, (base + n * mRowBytes w) % 2 ^ 32)]
       else if mWsrc w = 2 then [(0, (base + n * mRowBytes w) % 2 ^ 32)] else []) ++
      (if mem && amx then [(2, (x.mspa.toNat + 2 * n) % 2 ^ 32)] else []) ++
      (if wmx then [(3, (x.mspw.toNat + n) % 2 ^ 32)] else []) }

/-! ## Steps (R65 to R67, R126, R127) -/

/-- Both operands are 4 bits wide: two products meet in one update (R66). -/
def mPair (w : Nat) : Bool := fmtBits (mAfmt w) == 4 && fmtBits (mWfmt w) == 4

/-- Steps taken together: a pair of 4-bit steps, or the two columns of a wire group (R129). -/
def mChunk (q : MSeq) : Nat :=
  if q.steps ≥ 2 ∧ (mPair q.syl ∨ ((mFifo q.syl).isSome ∧ fmtMx (mAfmt q.syl))) then 2 else 1

/-- TILECLK cycles of a chunk (R127). -/
def mCycles (w n : Nat) : Nat := if mPair w then 1 else if max (fmtBits (mAfmt w)) (fmtBits (mWfmt w)) = 16 then 2 * n else n

/-- An element of ACC after products; the first step of MMAZ drops what stood there. -/
def macCell (fresh : Bool) (old : Nat) (ps : List FVal) : Nat :=
  let start := if fresh then none else some (fp32.decode old)
  let total := ps.foldl (fun a p => match a with
    | none => some p
    | some x => some (x.add p)) start
  roundFp32 (total.getD .zero)

/-- ACC[i][j]; an absent element is +0. -/
def accGet (a : Tab Word) (i j : Nat) : Nat := (tgetD a (32 * i + j) 0).toNat

/-- The exact product of a step: of two integer operands an integer (R65). A product of an integer and a float has the sign
rule of floats (DESIGN CHOICE, log 124). -/
def mProduct (w : Nat) (x y : FVal) : FVal := if fmtInt (mAfmt w) && fmtInt (mWfmt w) then x.mulInt y else x.mul y

/-- One update of every element by the products of `cols` (activation column, weight row). -/
def macUpdate (w : Nat) (fresh : Bool) (a : Tab Word) (cols : List (List FVal × List FVal)) : Tab Word :=
  (List.range 2048).filterMap (fun k =>
    let i := k / 32
    let j := k % 32
    let v := macCell fresh (accGet a i j) (cols.map (fun c => mProduct w (c.1.getD i .zero) (c.2.getD j .zero)))
    if v = 0 then none else some (k, BitVec.ofNat 32 v))

/-- The steps of a chunk: together for a 4-bit pair, else one after the other. -/
def macChunk (w : Nat) (fresh : Bool) (a : Tab Word) (cols : List (List FVal × List FVal)) : Tab Word :=
  if mPair w then macUpdate w fresh a cols
  else (cols.foldl (fun (r : Bool × Tab Word) c => (false, macUpdate w r.1 r.2 [c])) (fresh, a)).2

/-- Elements of an operand from its bytes and scales. -/
def operandVals (fmt n : Nat) (bs scales : List Byte) : List FVal :=
  decodeElems fmt (unpackElems (fmtBits fmt) n bs) (scales.map BitVec.toNat)

/-- Bytes read at an address, with those that the sequence's own bundle stored over as they were before it (R116). -/
def asBefore (view : Tab Byte) (a : Nat) (bs : List Byte) : List Byte :=
  if view.isEmpty then bs else bs.zipIdx.map (fun e => tgetD view (a + e.2) e.1)

/-- Reads `n` operands of `size` bytes, `inc` apart, from a tile's SRAM. -/
def fetchOps (t part : Nat) (ecc : List EccHit) (size inc : Nat) : Nat → Nat → State → Except Block (List (List Byte)) × State
  | 0, _, s => (.ok [], s)
  | n + 1, a, s =>
    match readSpan part ecc (lineFuel size) ⟨spTile t, a⟩ size s with
    | .stop b u => (.error b, u)
    | .ok bs u =>
      match fetchOps t part ecc size inc n (a + inc) u with
      | (.ok r, v) => (.ok (asBefore (tile? t s).mview a bs :: r), v)
      | (.error b, v) => (.error b, v)

/-- Activation columns of a chunk that come from a FIFO's bytes. -/
def fifoCols (fmt n : Nat) (bs : List Byte) : List (List FVal) :=
  let b := 4 * fmtBits fmt
  (List.range n).map (fun i =>
    if fmtMx fmt then operandVals fmt 64 ((bs.drop (4 + 2 * i * b)).take (2 * b)) ((bs.drop (2 * i)).take 2)
    else operandVals fmt 64 ((bs.drop (2 * i * b)).take (2 * b)) [])

/-- Bytes a chunk takes from its FIFO. -/
def fifoNeed (w n : Nat) : Nat := if fmtMx (mAfmt w) then groupBytes (mAfmt w) else n * mColBytes w

/-- An M sequence in flight whose FIFO does not hold what its next chunk takes: the tile is stalled (R88). -/
def starved (x : Tile) : Bool :=
  match x.mseq with
  | some q => q.steps != 0 && (mFifo q.syl).any (fun f => decide ((tgetD x.fifos f []).length < fifoNeed q.syl (mChunk q)))
  | none => false

/-- TSTATE as registers show it. -/
def shownState (x : Tile) : TState := if x.tstate = .run ∧ starved x then .stalled else x.tstate

/-- What a chunk of an M sequence leads to. -/
inductive MRes where
  | ok (s : State)
  /-- the activation FIFO does not hold the next column (R88), or a line is held -/
  | wait (s : State)
  | fail (code : Nat) (s : State)

/-- Runs one chunk of the sequence of a tile. -/
def mStep (t part : Nat) (ecc : List EccHit) (q : MSeq) (s : State) : MRes :=
  let w := q.syl
  let n := mChunk q
  let stop := fun (b : Block) (u : State) => match b with
    | .fail c => MRes.fail c u
    | .hold _ => MRes.wait s
  match fetchOps t part ecc (mRowBytes w) (mWtInc w) n q.wt s with
  | (.error b, u) => stop b u
  | (.ok wts, s1) =>
    match fetchOps t part ecc 1 1 (if fmtMx (mWfmt w) then n else 0) q.spw s1 with
    | (.error b, u) => stop b u
    | (.ok wsc, s2) =>
      let rows := wts.zipIdx.map (fun e => operandVals (mWfmt w) 32 e.1 (wsc.getD e.2 []))
      let fresh := mMop w == 1 && q.steps == mCount w
      let fin := fun (cols : List (List FVal)) (u : State) =>
        tileCount t 0 (mCycles w n) (modTile t (fun x => { x with
          acc := macChunk w fresh x.acc (cols.zip rows),
          mseq := some { q with
            steps := q.steps - n, act := q.act + n * mActInc w, wt := q.wt + n * mWtInc w,
            spa := if mAsrc w ≥ 4 ∧ fmtMx (mAfmt w) then q.spa + 2 * n else q.spa,
            spw := if fmtMx (mWfmt w) then q.spw + n else q.spw } }) u)
      match mFifo w with
      | some f =>
        if (fifo? t f s2).length < fifoNeed w n then .wait s
        else .ok (fin (fifoCols (mAfmt w) n (fifo? t f s2)) (popFifo t f (fifoNeed w n) s2))
      | none =>
        match fetchOps t part ecc (mColBytes w) (mActInc w) n q.act s2 with
        | (.error b, u) => stop b u
        | (.ok as, s3) =>
          match fetchOps t part ecc 2 2 (if fmtMx (mAfmt w) then n else 0) q.spa s3 with
          | (.error b, u) => stop b u
          | (.ok asc, s4) => .ok (fin (as.zipIdx.map (fun e => operandVals (mAfmt w) 64 e.1 (asc.getD e.2 []))) s4)

/-- Runs the sequence of a tile as far as its operands allow (R130). An uncorrectable operand ends the job with 0x08 (R96). -/
def mRun (t : Nat) (ecc : List EccHit) : Nat → State → State
  | 0, s => s
  | fuel + 1, s =>
    match (tile? t s).mseq with
    | none => s
    | some q =>
      if q.steps = 0 then s
      else match mStep t (((tilePlace t s).map Prod.fst).getD 0xFF) ecc q s with
        | .ok u => mRun t [] fuel u
        | .wait u => u
        | .fail c u => failTile t c (modTile t (fun x => { x with mseq := none }) u)

/-- Bytes have come into a FIFO: a sequence that starves on it goes on. -/
def mFeed (t f : Nat) (s : State) : State :=
  match (tile? t s).mseq with
  | some q => if mFifo q.syl = some f ∧ q.steps < mCount q.syl then mRun t [] q.steps s else s
  | none => s

/-! ## The V slot (R131 to R133) -/

/-- What a V syllable does. -/
structure VRes where
  acc : Tab Word
  /-- the V result: 64 bytes, those outside the segment zero -/
  out : List Byte
  gen : Nat
  nonfin : Nat
  sat : Nat
  /-- scale bytes written at VSSP -/
  scales : List Byte

/-- Sets an element of ACC. -/
def accPut (a : Tab Word) (k v : Nat) : Tab Word := if v = 0 then tdel a k else tset a k (BitVec.ofNat 32 v)

/-- Scale bytes that a row or column has (R133). -/
def vScales (w : Nat) : Nat := if vCol w then 2 else 1

/-- Keys of the elements of ACC that a syllable selects. -/
def vCells (iy w : Nat) (g : Seg) : List Nat :=
  let i := if vIsel w then (iy + vIdx w) % (if vCol w then 32 else 64) else vIdx w
  (List.range g.count).map (fun e => if vCol w then 32 * (g.first + e) + i else 32 * i + g.first + e)

/-- One element after an operation of Table 4-10 with the decoded element (FP32 codes). -/
def vElem (op old x : Nat) : Nat :=
  match op with
  | 2 => x
  | 3 => fadd old x
  | 4 | 5 => fmul old x
  | 6 => fmax old x
  | 7 => fmin old x
  | _ => fmax old 0

/-- The V slot over a tile as it stood before the bundle. -/
def vExec (x : Tile) (w : Nat) (line scales : List Byte) : VRes :=
  let op := vVop w
  let cvt := vCvt w
  let fmt := cvtFmt cvt
  let g := segOf (fmtBits fmt) (vCol w) (vSeg w)
  let cells := vCells x.iy.toNat w g
  let old := cells.map (fun k => (tgetD x.acc k 0).toNat)
  let keep : VRes := { acc := x.acc, out := List.replicate 64 0, gen := x.srgen.toNat, nonfin := 0, sat := 0, scales := [] }
  if op = 1 then { keep with acc := [] }
  else if op = 9 then
    let r := convertSeq cvt x.srgen.toNat (old.map fp32.decode)
    { keep with
      out := spliceAt (List.replicate 64 0) g.off (packElems (fmtBits fmt) (r.codes.take g.count)),
      gen := r.gen, nonfin := r.nonfin, sat := r.sat, scales := r.scales.map (BitVec.ofNat 8) }
  else
    let vals := operandVals fmt g.count ((line.drop g.off).take g.len) scales
    let dec := decodeVals cvt vals
    let xs := dec.1
    let ys := old.zipIdx.map (fun e => vElem op e.1 (if op = 5 then xs.getD 0 0 else xs.getD e.2 0))
    { keep with
      acc := (cells.zip ys).foldl (fun a e => accPut a e.1 e.2) x.acc,
      sat := if vTakesLine op then dec.2 else 0 }

end Sys2Proof.Machine
end

