-- ==== Sys2Proof/Machine/StreamOps.lean ====
section
/-! DEFINITION. What moves data to and from tiles (03, 04): streams of the six kinds, tile-issued DMA, loading of images and reloads, job boundaries. -/

namespace Sys2Proof.Machine

open Sys2Proof

/-- Agent 0 of Table 6-5 is a bench DMA engine; its transfers carry no context number. -/
def benchXfer (part bench : Nat) (o : Owner) (write : Bool) (va n : Nat) (data : List Byte) : Xfer :=
  Xfer.mk' part 0 bench 0xFFFFFFFF o write (Rows.flat va n) data

/-! ## Network receive (R86, R87) -/

/-- Record header of a packet (Table 3-3). -/
def recHeader (p : NetPkt) (byref : Bool) (seq bufaddr : Nat) : List Byte :=
  leBytes 2 p.payload.length ++ leBytes 2 p.tag ++ [BitVec.ofNat 8 p.port, BitVec.ofNat 8 p.ver, if byref then 1 else 0, 0]
    ++ leBytes 4 (seq % 2 ^ 32) ++ leBytes 4 bufaddr

/-- An inline payload is padded with zeros to a multiple of 16. -/
def pad16 (bs : List Byte) : List Byte := bs ++ List.replicate ((16 - bs.length % 16) % 16) 0

def round64 (n : Nat) : Nat := (n + 63) / 64 * 64

/-- Buffers that tiles hold, sliced-out ones too: window address and bytes. No two of them share an address in any slab, so that
a group that comes back to another slab keeps its buffers (log 126). -/
def heldBufs (s : State) : List (Nat × Nat) :=
  (s.ti.tiles.map Prod.snd ++ s.ti.groups.flatMap (fun g => g.2.saved.map Prod.snd)).flatMap (fun x =>
    x.bufs.map (fun b => (b.1, round64 b.2.len)))

/-- The lowest window address of the packet buffer at which `n` bytes are free (log 9). -/
def findBuf (bufs : List (Nat × Nat)) (n : Nat) : Nat → Nat → Option Nat
  | 0, _ => none
  | fuel + 1, a =>
    if a + n > windowLo + 0x1D00000 then none
    else match bufs.find? (fun b => overlap a (max 1 n) b.1 b.2) with
      | none => some a
      | some b => findBuf bufs n fuel (b.1 + b.2)

/-- Bytes of a stream's QUOTA in use: packets that wait and buffers not released (R87). -/
def quotaUsed (b : Binding) (s : State) : Nat :=
  b.queue.foldl (fun a p => a + p.payload.length) 0 +
  ((tileAt b.part b.slot b.tile s).bufs.filter (fun e => e.2.fifo == b.fifo)).foldl (fun a e => a + e.2.len) 0

/-- Puts a record of a stream into its FIFO. -/
def putRecord (k t f : Nat) (bs : List Byte) (s : State) : State :=
  mFeed t f (modBind k (fun b => { b with seq := b.seq + 1, recs := b.recs ++ [bs.length] }) (pushFifo t f bs s))

/-- Room for the payload of a by-reference packet of a binding, where its FIFO has room for the record (R87). -/
def netBuf (t : Nat) (b : Binding) (p : NetPkt) (s : State) : Option Nat :=
  if fifoRoom t b.fifo s < 16 then none
  else findBuf (heldBufs s) (round64 p.payload.length) 512 (windowLo + 0x500000)

/-- Delivers the oldest packet that waits for a binding, where there is room for it. A payload of at most 4,096 bytes goes
inline: the spec only says that longer ones go by reference (DESIGN CHOICE, log 126). -/
def netNext (k : Nat) (s : State) : Option State :=
  match bind? k s with
  | none => none
  | some b =>
    match b.queue, physTile b.part b.slot b.tile s with
    | p :: r, some t =>
      if (group? b.part s).any (fun g => g.phase != .resident) then none
      else if p.payload.length > 4096 then
        (match netBuf t b p s with
         | none => none
         | some a =>
           let s1 := modBind k (fun b => { b with queue := r }) (wrMem (spSlab (t / 32)) (a - windowLo) p.payload s)
           let s2 := modTile t (fun x => { x with bufs := tset x.bufs a { len := p.payload.length, fifo := b.fifo, slab := t / 32 } }) s1
           some (putRecord k t b.fifo (recHeader p true b.seq a) s2))
      else
        let bs := recHeader p false b.seq 0 ++ pad16 p.payload
        if fifoRoom t b.fifo s < bs.length then none
        else some (putRecord k t b.fifo bs (modBind k (fun b => { b with queue := r }) s))
    | _, _ => none

/-- Delivers the packets that wait, while the FIFO has room for the next record. -/
def pumpNet (k : Nat) : Nat → State → State
  | 0, s => s
  | fuel + 1, s =>
    match netNext k s with
    | none => s
    | some t => if domainOff 1 s then needWake s else pumpNet k fuel t

/-- A packet for a stream arrives: it waits within the QUOTA or is dropped and counted (R87). -/
def netArrive (k : Nat) (p : NetPkt) (s : State) : State :=
  match bind? k s with
  | none => s
  | some b =>
    if quotaUsed b s + p.payload.length > b.quota * 1024 then modBind k (fun b => { b with drops := b.drops + 1 }) s
    else pumpNet k (b.queue.length + 1) (modBind k (fun b => { b with queue := b.queue ++ [p] }) s)

/-- The network-receive stream of a partition with a flow tag. -/
def streamOf (part tag : Nat) (s : State) : Option Nat :=
  (s.ti.binds.find? (fun e => e.2.part == part && e.2.kind == 1 && e.2.target == tag)).map Prod.fst

/-! ## DMA streams (R90) -/

/-- Bytes of the next record at the FIFO side. -/
def nextRec (b : Binding) : Nat := min b.recLen (b.length - b.moved)

/-- DMA into a FIFO: the next record is read when the FIFO has room for it. -/
def pumpDmaIn (k : Nat) (s : State) : State :=
  match bind? k s with
  | none => s
  | some b =>
    match physTile b.part b.slot b.tile s with
    | none => s
    | some t =>
      if b.xfer.isSome || b.ended || b.unbindMb.isSome || decide (b.moved ≥ b.length) || decide (fifoRoom t b.fifo s < nextRec b) ||
          (group? b.part s).any (fun g => g.phase != .resident) || backPressure b.part s then s
      else
        let off := otherBytes (cvtFmt b.cvt) b.moved b.srcFmt
        let n := otherBytes (cvtFmt b.cvt) (nextRec b) b.srcFmt
        let r := startXfer (benchXfer b.part (t / 8) { kind := .stream, a := k, b := 0, c := 0 } false (b.target + off) n []) s
        runReady r.1 [] (modBind k (fun b => { b with xfer := some r.1 }) r.2)

/-- DMA out of a FIFO: the next record is written when the FIFO holds it. -/
def pumpDmaOut (k : Nat) (s : State) : State :=
  match bind? k s with
  | none => s
  | some b =>
    match physTile b.part b.slot b.tile s with
    | none => s
    | some t =>
      if b.xfer.isSome || b.ended || decide (b.moved ≥ b.length) || decide ((fifo? t b.fifo s).length < nextRec b) || backPressure b.part s then s
      else
        let c := convertWire b.srcFmt b.cvt b.gen.toNat ((fifo? t b.fifo s).take (nextRec b))
        let off := otherBytes b.srcFmt b.moved (cvtFmt b.cvt)
        let s1 := countCvt t c (popFifo t b.fifo (nextRec b) s)
        let r := startXfer (benchXfer b.part (t / 8) { kind := .stream, a := k, b := 0, c := 0 } true (b.target + off) c.bytes.length c.bytes)
          (modBind k (fun b => { b with gen := BitVec.ofNat 32 c.gen }) s1)
        runReady r.1 [] (modBind k (fun b => { b with xfer := some r.1 }) r.2)

/-! ## Bench links and network transmit (R81, R82, R87) -/

/-- The stream at the other end of a link-out stream: the bench-link-in stream of the peer tile that names this tile; several
pair up in FIFO order. -/
def linkPeer (b : Binding) (s : State) : Option Nat :=
  let mine := (s.ti.binds.filter (fun e => e.2.part == b.part && e.2.kind == 6 && e.2.slot == b.slot && e.2.tile == b.tile &&
    e.2.target == b.target)).map (fun e => e.2.fifo)
  let theirs := (s.ti.binds.filter (fun e => e.2.part == b.part && e.2.kind == 5 && e.2.slot == b.target / 256 &&
    e.2.tile == b.target % 256 && e.2.target == b.slot * 256 + b.tile)).map Prod.fst
  theirs[(mine.idxOf b.fifo)]?

/-- Moves records over a link while the sender holds one and the receiver has room. -/
def pumpLink (k : Nat) : Nat → State → State
  | 0, s => s
  | fuel + 1, s =>
    match bind? k s with
    | none => s
    | some b =>
      match physTile b.part b.slot b.tile s, (linkPeer b s).bind (fun j => (bind? j s).map (fun p => (j, p))) with
      | some t, some (j, p) =>
        match physTile p.part p.slot p.tile s with
        | none => s
        | some u =>
          if (fifo? t b.fifo s).length < b.recLen then s
          else
            let c := convertWire b.srcFmt b.cvt b.gen.toNat ((fifo? t b.fifo s).take b.recLen)
            let d := convertWire p.srcFmt p.cvt p.gen.toNat c.bytes
            if fifoRoom u p.fifo s < d.bytes.length then s
            else
              let s1 := countCvt t c (popFifo t b.fifo b.recLen (modBind k (fun b => { b with gen := BitVec.ofNat 32 c.gen }) s))
              let s2 := countCvt u d (pushFifo u p.fifo d.bytes s1)
              let s3 := modBind j (fun p => { p with gen := BitVec.ofNat 32 d.gen, recs := p.recs ++ [d.bytes.length] }) s2
              pumpLink k fuel (mFeed u p.fifo s3)
      | _, _ => s

/-- Sends records of a transmit stream as frames of its queue. -/
def pumpTx (k : Nat) : Nat → State → State
  | 0, s => s
  | fuel + 1, s =>
    match bind? k s with
    | none => s
    | some b =>
      match physTile b.part b.slot b.tile s with
      | none => s
      | some t =>
        if (fifo? t b.fifo s).length < b.recLen then s
        else
          let c := convertWire b.srcFmt b.cvt b.gen.toNat ((fifo? t b.fifo s).take b.recLen)
          match txPush (b.target % 65536) c.bytes s with
          | none => s
          | some u => pumpTx k fuel (countCvt t c (popFifo t b.fifo b.recLen (modBind k (fun b => { b with gen := BitVec.ofNat 32 c.gen }) u)))

/-- Moves a stream as far as it can go. -/
def pumpBind (k : Nat) (s : State) : State :=
  match (bind? k s).map (fun b => b.kind) with
  | some 1 => pumpNet k (((bind? k s).map (fun b => b.queue.length)).getD 0) s
  | some 2 => pumpTx k 128 s
  | some 3 => pumpDmaIn k s
  | some 4 => pumpDmaOut k s
  | some 6 => pumpLink k 128 s
  | _ => s

/-- Moves every stream as far as it can go. -/
def kickStreams (s : State) : State := (tkeys s.ti.binds).foldl (fun t k => pumpBind k t) s

/-- Does a stream's output FIFO hold what its sink can still take: frames to transmit, or a record of a DMA stream that is not
abandoned (R103 step 3)? What a bench link holds waits for its peer and is saved. -/
def canDrain (b : Binding) (s : State) : Bool :=
  let fill := (tgetD (tileAt b.part b.slot b.tile s).fifos b.fifo []).length
  if b.kind = 2 then decide (b.recLen ≤ fill)
  else b.kind == 4 && !b.ended && decide (b.moved < b.length) && decide (nextRec b ≤ fill) &&
    !(b.xfer.bind (fun x => xfer? x s)).any (fun f => f.st == .held .sliced)

/-- Takes a stream out, with what its FIFO holds: the bytes are discarded. -/
def dropBind (k : Nat) (s : State) : State :=
  match bind? k s with
  | none => s
  | some b =>
    modTileAt b.part b.slot b.tile (fun x => { x with fifos := tset x.fifos b.fifo [] })
      { s with ti := { s.ti with binds := tdel s.ti.binds k } }

/-- Records that an unbinding discards: those in the FIFO and those that wait (R90). -/
def recordsLeft (b : Binding) (fill : Nat) : Nat :=
  if b.fifo ≤ 3 then b.recs.length + b.queue.length else (fill + b.recLen - 1) / max 1 b.recLen

/-- Ends an unbinding once nothing is in transit (R90): the response holds the drop count. -/
def tryUnbind (k : Nat) (s : State) : State :=
  match bind? k s with
  | none => s
  | some b =>
    match b.unbindMb, b.xfer with
    | some m, none =>
      let fill := (tgetD (tileAt b.part b.slot b.tile s).fifos b.fifo []).length
      finish m Config.ok (Body.nums [b.drops + recordsLeft b fill]) (dropBind k s)
    | _, _ => s

/-- A DMA stream's transfer has ended (R90, R98). -/
def streamDone (k code : Nat) (f : Xfer) (s : State) : State :=
  match bind? k s with
  | none => s
  | some b =>
    match physTile b.part b.slot b.tile s with
    | none => modBind k (fun b => { b with xfer := none }) s
    | some t =>
      if code ≠ 0 then tryUnbind k (failTile t code (modBind k (fun b => { b with xfer := none, ended := true }) s))
      else if b.kind = 3 then
        let c := convertWire b.srcFmt b.cvt b.gen.toNat f.data
        let s1 := countCvt t c (pushFifo t b.fifo c.bytes s)
        let s2 := modBind k (fun b => { b with
          xfer := none, gen := BitVec.ofNat 32 c.gen, moved := b.moved + c.bytes.length, recs := b.recs ++ [c.bytes.length] }) s1
        tryUnbind k (pumpDmaIn k (mFeed t b.fifo s2))
      else
        let s1 := modBind k (fun b => { b with xfer := none, moved := b.moved + nextRec b }) s
        tryUnbind k (pumpDmaOut k s1)

/-! ## Tile-issued DMA (R135, R136) -/

/-- The next descriptor of a tile that has not landed, in order of issue. -/
def nextDma (x : Tile) : Option (Nat × TileDma) :=
  (x.dma.filter (fun e => e.2.landed.isNone)).foldl (fun (a : Option (Nat × TileDma)) e => match a with
    | none => some e
    | some b => if e.2.order < b.2.order then some e else a) none

def modDma (t i : Nat) (f : TileDma → TileDma) (s : State) : State := modTile t (fun x => { x with dma := tmod x.dma i f }) s

/-- A descriptor's end: its code is kept until TILE_DMA_COMPLETE; a failure ends the job (R98, R136). -/
def landDma (t i code : Nat) (s : State) : State :=
  let s1 := modDma t i (fun d => { d with xfer := none, landed := some code }) s
  if code = 0 then s1 else failTile t code s1

/-- Starts the next descriptor of a tile: they run in order of issue (log 34). -/
def startDma (t : Nat) : Nat → State → State
  | 0, s => s
  | fuel + 1, s =>
    match tilePlace t s, nextDma (tile? t s) with
    | some p, some (i, d) =>
      if d.xfer.isSome then s
      else
        let o : Owner := { kind := .tileDma, a := (p.1 * 16 + p.2.1) * 8 + p.2.2, b := i, c := 0 }
        if d.out then
          match readSpan p.1 [] (lineFuel d.len) ⟨spTile t, d.taddr⟩ d.len s with
          | .stop (.fail c) u => startDma t fuel (landDma t i c u)
          | .stop (.hold _) u => startDma t fuel (landDma t i Config.ccData u)
          | .ok bs u =>
            let g := if d.srcFmt = cvtFmt d.cvt then (0, u) else seedGen d.seed.toNat u
            let c := convertWire d.srcFmt d.cvt g.1 bs
            let r := startXfer (benchXfer p.1 (t / 8) o true d.va c.bytes.length c.bytes) (countCvt t c g.2)
            runReady r.1 [] (modDma t i (fun d => { d with xfer := some r.1 }) r.2)
        else
          let n := otherBytes (cvtFmt d.cvt) d.len d.srcFmt
          let r := startXfer (benchXfer p.1 (t / 8) o false d.va n []) s
          runReady r.1 [] (modDma t i (fun d => { d with xfer := some r.1 }) r.2)
    | _, _ => s

/-- A descriptor's transfer has ended: data for the tile is written to its SRAM, as far as it arrived. Table 3-9 names the
conversions of stores, streams and loads; those of tile-issued DMA are counted on the issuing tile too (DESIGN CHOICE, log 124). -/
def tileDmaDone (a i code : Nat) (f : Xfer) (s : State) : State :=
  match physTile (a / 128) (a / 8 % 16) (a % 8) s with
  | none => s
  | some t =>
  match tget (tile? t s).dma i, tilePlace t s with
  | some d, some p =>
    if d.out then startDma t 8 (landDma t i code s)
    else
      let got := if code = 0 then f.data else f.data.take f.pos
      let g := if d.srcFmt = cvtFmt d.cvt then (0, s) else seedGen d.seed.toNat s
      let c := convertWire d.srcFmt d.cvt g.1 got
      let bs := c.bytes.take d.len
      match writeSpan p.1 [] (lineFuel bs.length) ⟨spTile t, d.taddr⟩ bs (countCvt t c g.2) with
      | .ok _ u => startDma t 8 (landDma t i code u)
      | .stop (.fail e) u => startDma t 8 (landDma t i e u)
      | .stop (.hold _) u => startDma t 8 (landDma t i Config.ccData u)
  | _, _ => s

/-! ## Loading (R91 to R96) -/

def imageOwner (part slot i : Nat) (scale : Bool) : Owner := { kind := .image, a := part * 16 + slot, b := 2 * i + scale.toNat, c := 0 }

def modLoad (part slot i : Nat) (f : LoadItem → LoadItem) (s : State) : State :=
  modSlot part slot (fun st => { st with loads := st.loads.zipIdx.map (fun e => if e.2 = i then f e.1 else e.1) }) s

/-- Starts the reads of the regions of a slot that stands on its bench. -/
def startLoads (part slot : Nat) (s : State) : State :=
  match slotSt? part slot s, physTile part slot 0 s with
  | some st, some t0 =>
    if (group? part s).any (fun g => g.phase != .resident) then s
    else st.loads.zipIdx.foldl (fun u e =>
      if e.1.xfer.isSome ∨ e.1.data.isSome ∨ e.1.ended.isSome then u
      else
        let r := e.1.region
        let a := startXfer (benchXfer part (t0 / 8) (imageOwner part slot e.2 false) false r.src (regionSrc r) []) u
        let u1 := runReady a.1 [] (modLoad part slot e.2 (fun l => { l with xfer := some a.1 }) a.2)
        if regionScales r.srcFmt r = 0 then modLoad part slot e.2 (fun l => { l with scales := some [] }) u1
        else
          let b := startXfer (benchXfer part (t0 / 8) (imageOwner part slot e.2 true) false r.srcScale (regionScales r.srcFmt r) []) u1
          runReady b.1 [] (modLoad part slot e.2 (fun l => { l with scaleXfer := some b.1 }) b.2)) s
  | _, _ => s

/-- Converts the source of a region: element bytes and scale bytes of its target, with the counts (R61 to R63). -/
def regionBytes (r : Region) (gen : Nat) (data scales : List Byte) : List Byte × List Byte × Converted :=
  if r.srcFmt = cvtFmt r.cvt then (data, scales, { bytes := [], gen := gen, nonfin := 0, sat := 0 })
  else
    let c := recode r.cvt gen (operandVals r.srcFmt (regionElems r) data scales)
    (packElems (fmtBits (cvtFmt r.cvt)) c.codes, c.scales.map (BitVec.ofNat 8),
     { bytes := [], gen := c.gen, nonfin := c.nonfin, sat := c.sat })

/-- Writes a converted region into its tile. -/
def writeRegion (part t : Nat) (r : Region) (els scs : List Byte) (s : State) : State :=
  if r.kind = .program then wrMem (spImem t) r.dest els s
  else
    let put := fun (a : Nat) (bs : List Byte) (u : State) => match writeSpan part [] (lineFuel bs.length) ⟨spTile t, a⟩ bs u with
      | .ok _ v => v
      | .stop _ v => v
    put r.dstScale scs (put r.dest els s)

/-- A region whose source is read whole is checked against its digest and written (R91, R92). A region carries no seed: under SR
each starts from the free-running generator (DESIGN CHOICE, log 124). -/
def loadRegion (part slot i : Nat) (s : State) : State :=
  match (slotSt? part slot s).bind (fun st => st.loads[i]?) with
  | none => s
  | some l =>
    match l.data, l.scales, physTile part slot l.region.tile s with
    | some data, some scales, some t =>
      if l.region.digest.any (fun d => d != Config.sha3 (data ++ scales)) then
        modLoad part slot i (fun l => { l with ended := some 0x5001 }) s
      else
        let g := if l.region.srcFmt = cvtFmt l.region.cvt then (0, s) else seedGen 0 s
        let r := regionBytes l.region g.1 data scales
        modLoad part slot i (fun l => { l with ended := some 0 }) (countCvt t r.2.2 (writeRegion part t l.region r.1 r.2.1 g.2))
    | _, _, _ => s

/-- A source read of a load has ended. A source that cannot be read ends the load with BAD_VALUE (log 35). -/
def imageDone (a b code : Nat) (f : Xfer) (s : State) : State :=
  let part := a / 16
  let slot := a % 16
  let i := b / 2
  if code ≠ 0 then modLoad part slot i (fun l => { l with ended := some (l.ended.getD Config.badValue) }) s
  else if b % 2 = 1 then
    loadRegion part slot i (modLoad part slot i (fun l => { l with scales := some f.data, inner := l.inner && f.inner }) s)
  else loadRegion part slot i (modLoad part slot i (fun l => { l with data := some f.data, inner := l.inner && f.inner }) s)

/-- The regions of a slot after a load: a reload replaces those it overlaps. A weights or program region is clean if its whole
source, scales included, lay in GDDR7 or the CXL tier (R93). -/
def loadedRegions (st : SlotSt) : List Loaded :=
  let new := st.loads.map (fun l => ({ region := l.region, clean := l.region.kind != .data && l.inner } : Loaded))
  let old := if st.reload then
      st.regions.filter (fun o => !new.any (fun n => n.region.tile == o.region.tile && n.region.kind == o.region.kind &&
        overlap n.region.dest n.region.length o.region.dest o.region.length))
    else []
  old ++ new

def newItem (r : Region) : LoadItem :=
  { region := r, xfer := none, scaleXfer := none, data := none, scales := none, inner := true, ended := none }

/-- At the slot's job boundary a staged reload moves the slot to LOADING (R95). Another job on the slot pauses for it and goes on
with the new weights: the boundary of either job is the slot's (DESIGN CHOICE, log 127). -/
def applyReload (part slot : Nat) (s : State) : State :=
  match slotSt? part slot s with
  | some st =>
    if st.wstate = .reloadPending then
      startLoads part slot (modSlot part slot (fun st => { st with
        wstate := .loading, reload := true, loads := st.staged.map newItem, staged := [] }) s)
    else s
  | none => s

/-! ## Job boundaries and ends (R98, R122) -/

/-- Tiles of a job that wait at a JBND go on, unless a reload of one of its slots still runs (R122) or its CQ is blocked (R248). -/
def resumeJbnd (j : Nat) (s : State) : State :=
  match job? j s with
  | some x =>
    if x.jstate = .running ∧ (jobTiles x.req).all (fun p => (tileAt x.part p.1 p.2 s).atJbnd) ∧
        (jobSlots x s).all (fun st => st.wstate == .resident) && !x.req.cq.any (fun n => cqBlocked n s) then
      modJobTiles x (fun y => { y with atJbnd := false }) s
    else s
  | none => s

/-- The last tile of a job has reached its JBND: the completion is signalled, staged reloads and activations apply, and the
tiles go on (R122). -/
def jobBoundary (j : Nat) (x : Job) (s : State) : State :=
  let s1 := signalJob j x 0 0 s
  let s2 := x.req.slots.foldl (fun u e => applyReload x.part e.slot u) s1
  let s3 := (jobBenches x s2).foldl (fun u b => benchBoundary b u) s2
  resumeJbnd j s3

/-- A tile stands at a JBND. If another tile of the job has ended, the job ends (R122). -/
def reachJbnd (j : Nat) (x : Job) (s : State) : State :=
  let ts := (jobTiles x.req).map (fun p => tileAt x.part p.1 p.2 s)
  if ts.any (fun y => y.tstate == .idle) then endJob j Config.ccOk 0 s
  else if ts.all (fun y => y.atJbnd) then jobBoundary j x s
  else s

/-- A tile has halted: the job ends when every one has, or when others wait at a JBND (R98, R122). -/
def reachHalt (j : Nat) (x : Job) (s : State) : State :=
  let ts := (jobTiles x.req).map (fun p => tileAt x.part p.1 p.2 s)
  if ts.all (fun y => y.tstate == .idle) || ts.any (fun y => y.atJbnd) then endJob j Config.ccOk 0 s else s

/-- The tiles of an ending job have no bench DMA outstanding, and no M sequence behind an exception (R98, R137). -/
def jobDrained (x : Job) (s : State) : Bool :=
  (jobTiles x.req).all (fun p =>
    let y := tileAt x.part p.1 p.2 s
    y.dma.isEmpty && (y.mseq.isNone || y.tstate != .exception))

/-- Writes the completion of an ending job; the end of a job that ran is a job boundary of its slots and benches (R95, R98). -/
def finishJob (j : Nat) (x : Job) (code opspec : Nat) (s : State) : State :=
  let s1 := signalJob j x code opspec { s with ti := { s.ti with jobs := tdel s.ti.jobs j } }
  let s2 := if x.ran then x.req.slots.foldl (fun u e => applyReload x.part e.slot u) s1 else s1
  let s3 := (jobBenches x s2).foldl (fun u b => if x.ran && !benchBusy b u then benchBoundary b u else u) s2
  kickJobs s3

end Sys2Proof.Machine
end

