-- ==== Sys2Proof/Machine/CollOps.lean ====
section
/-! DEFINITION. Collectives (10): descriptors, admission, contributions, chunks and credits along a ring or a tree, ends. -/

namespace Sys2Proof.Machine

open Sys2Proof

def cgroup? (h : Nat) (s : State) : Option CGroup := tget s.cu.groups h
def modCu (f : Cu → Cu) (s : State) : State := { s with cu := f s.cu }
def modCgroup (h : Nat) (f : CGroup → CGroup) (s : State) : State := modCu (fun c => { c with groups := tmod c.groups h f }) s
def coll? (id : Nat) (s : State) : Option Coll := tget s.cu.colls id
def modColl (id : Nat) (f : Coll → Coll) (s : State) : State := modCu (fun c => { c with colls := tmod c.colls id f }) s
def modWork (id wk : Nat) (f : CWork → CWork) (s : State) : State :=
  modColl id (fun c => { c with works := tset c.works wk (f (tgetD c.works wk CWork.fresh)) }) s
/-- Adds to a counter of a collective unit (Table 10-10). -/
def cuCount (g : CGroup) (c n : Nat) (s : State) : State := bump (bkColl g.unit) c n s

/-- The mode of a group for a SEQ: the latest change that is in effect (R314). -/
def modeAt (g : CGroup) (seq : Nat) : Byte :=
  (((g.modes.filter (fun m => decide (m.1 ≤ seq))).getLast?).map Prod.snd).getD 0

/-! ## Layout of a collective (R302, R307, R308, R310) -/

def isRing (d : CollDesc) : Bool := d.alg == 0
def isInt (d : CollDesc) : Bool := d.srcFmt == 5
def ringSeg (g : CGroup) (d : CollDesc) : Nat := 128 * ((d.count + 128 * g.n - 1) / (128 * g.n))

/-- Elements of a segment. -/
def segElems (g : CGroup) (d : CollDesc) (k : Nat) : Nat :=
  if isRing d && d.op == 1 then min ((k + 1) * ringSeg g d) d.count - k * ringSeg g d else d.count

/-- First element of a segment in the sources and in the destinations. -/
def srcBase (g : CGroup) (d : CollDesc) (k : Nat) : Nat :=
  if !isRing d then 0 else if d.op = 1 then k * ringSeg g d else if d.op = 3 then k * d.count else 0
def dstBase (g : CGroup) (d : CollDesc) (k : Nat) : Nat :=
  if !isRing d then 0 else if d.op = 1 then k * ringSeg g d else if d.op = 4 then k * d.count else 0

def chunkKey (seg no : Nat) : Nat := seg * 2 ^ 40 + no
def keySeg (key : Nat) : Nat := key % 2 ^ 80 / 2 ^ 40
def keyNo (key : Nat) : Nat := key % 2 ^ 40
/-- Key of the gather phase's work for a chunk. -/
def gatherKey (key : Nat) : Nat := key % 2 ^ 80 + 2 ^ 80
def workPhase (wk : Nat) : Nat := wk / 2 ^ 80

def chunksIn (g : CGroup) (d : CollDesc) (k : Nat) : Nat := (segElems g d k + d.chunk - 1) / d.chunk
/-- Elements of a chunk. -/
def chunkElems (g : CGroup) (d : CollDesc) (key : Nat) : Nat :=
  min d.chunk (segElems g d (keySeg key) - keyNo key * d.chunk)
def segKeys (g : CGroup) (d : CollDesc) (k : Nat) : List Nat := (List.range (chunksIn g d k)).map (chunkKey k)

/-! ## Neighbours -/

def prevRank (g : CGroup) : Nat := (g.rank + g.n - 1) % g.n
def nextRank (g : CGroup) : Nat := (g.rank + 1) % g.n
def parentRank (g : CGroup) : Option Nat := if g.rank = 0 then none else some ((g.rank - 1) / g.fanin)
def childRanks (g : CGroup) : List Nat :=
  ((List.range g.fanin).map (fun i => g.rank * g.fanin + 1 + i)).filter (fun r => decide (r < g.n))

/-- Edges (phase, rank) on which a collective receives, and on which it sends. -/
def rxEdges (g : CGroup) (d : CollDesc) : List (Nat × Nat) :=
  if isRing d then
    (if d.op = 4 then [] else [(0, prevRank g)]) ++ (if d.op = 3 then [] else [(1, prevRank g)])
  else (childRanks g).map (fun r => (0, r)) ++ (if d.op = 1 then (parentRank g).toList.map (fun r => (1, r)) else [])

def txEdges (g : CGroup) (d : CollDesc) : List (Nat × Nat) :=
  if isRing d then
    (if d.op = 4 then [] else [(0, nextRank g)]) ++ (if d.op = 3 then [] else [(1, nextRank g)])
  else (parentRank g).toList.map (fun r => (0, r)) ++ (if d.op = 1 then (childRanks g).map (fun r => (1, r)) else [])

def edgeKey (phase rank : Nat) : Nat := phase * 65536 + rank

/-- Neighbours of an algorithm. -/
def algRanks (g : CGroup) (alg : Nat) : List Nat :=
  (if alg = 0 then [prevRank g, nextRank g] else (parentRank g).toList ++ childRanks g).eraseDups

/-- Segments whose chunks this rank sends in a phase. -/
def sentSegs (g : CGroup) (d : CollDesc) (phase : Nat) : List Nat :=
  if !isRing d then [0]
  else (List.range g.n).filter (fun k => k != if phase = 0 then g.rank else (g.rank + 1) % g.n)

/-- Chunks this rank sends on an edge of a phase in the whole. -/
def chunksToSend (g : CGroup) (d : CollDesc) (phase : Nat) : Nat :=
  (sentSegs g d phase).foldl (fun a k => a + chunksIn g d k) 0

/-- Segments of this rank's result. -/
def resultSegs (g : CGroup) (d : CollDesc) : List Nat :=
  if !isRing d then (if d.op = 2 ∧ g.rank ≠ 0 then [] else [0])
  else if d.op = 3 then [g.rank] else List.range g.n

def resultChunks (g : CGroup) (d : CollDesc) : Nat := (resultSegs g d).foldl (fun a k => a + chunksIn g d k) 0

/-! ## Descriptors (R301 to R303) -/

def CollDesc.parse (bs : List Byte) : CollDesc :=
  let f := fun (o k : Nat) => leNat ((bs.drop o).take k)
  let opd := fun (o : Nat) => ({ elem := f o 8, scale := f (o + 8) 8 } : COperand)
  { op := f 0 1, red := f 1 1, alg := f 2 1, flags := f 3 1, group := f 4 2, nsrc := f 6 1, ndst := f 7 1, count := f 8 8,
    srcFmt := f 16 1, dstCvt := BitVec.ofNat 8 (f 17 1), rslot := f 18 1,
    chunk := if f 20 4 = 0 then 65536 else f 20 4, progress := f 24 2, seed := f 28 4,
    src := (List.range (f 6 1)).map (fun i => opd (32 + 16 * i)), dst := (List.range (f 7 1)).map (fun i => opd (160 + 16 * i)),
    zeroSet := f 19 1 != 0 || f 26 2 != 0 || f 3 1 / 4 != 0 ||
      leNat ((bs.drop (32 + 16 * f 6 1)).take (128 - 16 * f 6 1)) != 0 || leNat ((bs.drop (160 + 16 * f 7 1)).take (128 - 16 * f 7 1)) != 0 }

def descEf (d : CollDesc) : Bool := bitOf 0 d.flags
def zeroResid (d : CollDesc) : Bool := bitOf 1 d.flags

/-- Elements each source and each destination holds (Table 10-5). -/
def srcElems (g : CGroup) (d : CollDesc) : Nat := if d.op = 3 then g.n * d.count else d.count
def dstElems (g : CGroup) (d : CollDesc) : Nat := if d.op = 4 then g.n * d.count else d.count

/-- Ranges an operand covers: elements, and scales of an MX format. -/
def operandRanges (fmt n : Nat) (o : COperand) : List (Nat × Nat) :=
  if fmtMx fmt then [(o.elem, (n + 31) / 32 * (fmtBits fmt * 4)), (o.scale, (n + 31) / 32)] else [(o.elem, (n * fmtBits fmt + 7) / 8)]

def operandBad (fmt : Nat) (o : COperand) : Bool :=
  o.elem % 32 != 0 || (if fmtMx fmt then o.scale % 32 != 0 else o.scale != 0)

/-- Two ranges that overlap without being identical. -/
def clash (l : List (Nat × Nat)) : Bool :=
  l.any (fun a => l.any (fun b => overlap a.1 a.2 b.1 b.2 && !(a.1 == b.1 && a.2 == b.2)))

/-- Bytes of accumulation SRAM that a collective reserves (R295). -/
def reservation (g : CGroup) (d : CollDesc) : Nat := g.depth * d.chunk * 4

def partShare (p : Nat) (s : State) : Nat := ((part? p s).map Part.accumShare).getD 0

/-- The operations of Table 10-5. -/
def opSupported (d : CollDesc) : Bool :=
  match d.op, d.alg with
  | 1, 0 | 1, 1 | 2, 1 => true
  | 3, 0 | 4, 0 => d.count % 128 == 0
  | _, _ => false

/-- Is a descriptor rejected (R303)? -/
def descBad (g : CGroup) (d : CollDesc) (s : State) : Bool :=
  let wire := modeAt g g.nextSeq
  let ints := [d.srcFmt == 5, cvtFmt wire == 5, cvtFmt d.dstCvt == 5]
  d.zeroSet || !opSupported d || decide (d.red > 2) || (d.op == 4 && d.red != 0) ||
  decide (d.nsrc < 1 ∨ d.nsrc > 8 ∨ d.ndst > 8) || (d.op == 2 && g.rank != 0 && d.ndst != 0) ||
  !fmtWire d.srcFmt || !fmtWire (cvtFmt d.dstCvt) || (cvtRm d.dstCvt).isNone ||
  (ints.any id && !ints.all id) ||
  decide (d.chunk % 1024 ≠ 0 ∨ d.chunk < 1024 ∨ d.chunk > 1048576) ||
  !(d.progress == 0xFFFF || tallyOk g.part d.progress s) ||
  (if descEf d then d.red != 0 || cvtFmt wire == 0 || decide (srcElems g d > g.resLen) || decide (d.rslot ≥ g.nres) else d.rslot != 0) ||
  d.src.any (operandBad d.srcFmt) || d.dst.any (operandBad (cvtFmt d.dstCvt)) ||
  decide (reservation g d > 2 ^ 24) || decide (reservation g d > partShare g.part s * 1024) ||
  clash (d.src.flatMap (operandRanges d.srcFmt (srcElems g d)) ++ d.dst.flatMap (operandRanges (cvtFmt d.dstCvt) (dstElems g d)))

/-! ## Messages (R310) -/

def opSig (d : CollDesc) : Nat := d.op + 16 * d.red + 256 * d.alg + 4096 * (d.count % 2 ^ 20)

structure CHead where
  tag : Nat
  seq : Nat
  kind : Nat
  phase : Nat
  cvt : Nat
  code : Nat
  src : Nat
  seg : Nat
  no : Nat
  elem : Nat
  n : Nat
  sig : Nat
  deriving DecidableEq, Repr

def CHead.bytes (h : CHead) : List Byte :=
  leBytes 4 h.tag ++ leBytes 4 h.seq ++ leBytes 1 h.kind ++ leBytes 1 h.phase ++ leBytes 1 h.cvt ++ leBytes 1 h.code
    ++ leBytes 2 h.src ++ leBytes 2 h.seg ++ leBytes 4 h.no ++ leBytes 4 h.elem ++ leBytes 4 h.n ++ leBytes 4 h.sig

def CHead.parse (bs : List Byte) : CHead :=
  let f := fun (o k : Nat) => leNat ((bs.drop o).take k)
  { tag := f 0 4, seq := f 4 4, kind := f 8 1, phase := f 9 1, cvt := f 10 1, code := f 11 1, src := f 12 2, seg := f 14 2,
    no := f 16 4, elem := f 20 4, n := f 24 4, sig := f 28 4 }

def edgeOf (g : CGroup) (rank : Nat) : Option CEdge := g.edges.find? (fun e => e.rank == rank)

/-- The operation of an engine's own message on a bound QP belongs to no transfer. -/
def noXfer : Nat := 2 ^ 60

/-- Sends a message as one SEND of a bound QP (R310). -/
def qpMessage (n : Nat) (bytes : List Byte) (s : State) : State :=
  match qp? n s with
  | none => s
  | some q =>
    if q.qstate ≠ .rts then s
    else
      let idx := q.ops.foldl (fun a o => max a (o.idx + 1)) (2 ^ 41)
      let o : SqOp := { idx := idx, ent := { SqEnt.zero with op := 1, length := bytes.length }, st := .ready bytes, msn := 0,
                        psn := 0, npsn := 0, remote := some noXfer, left := 0, rcvd := 0, moved := 0, failAt := none, samePath := false }
      pumpQp n (modQp n (fun q => { q with ops := q.ops ++ [o] }) s)

/-- Sends one message on an edge. -/
def sendEdge (g : CGroup) (rank : Nat) (bytes : List Byte) (s : State) : State :=
  match edgeOf g rank with
  | some e => if e.kind = 2 then qpMessage e.target bytes s else sendFwd g.unit e.target 1 bytes s
  | none => s

/-- A neighbour is reachable: its gang is not DOWN, its QP not in ERROR (Table 10-7). -/
def edgeAlive (g : CGroup) (rank : Nat) (s : State) : Bool :=
  match edgeOf g rank with
  | none => false
  | some e =>
    if e.kind = 2 then (qp? e.target s).any (fun q => q.qstate == .rts)
    else (routeGang g.unit e.target s).any (fun k => gangAlive k s)

def headOf (g : CGroup) (c : Coll) (kind phase : Nat) : CHead :=
  { tag := g.tag, seq := c.seq % 2 ^ 32, kind := kind, phase := phase, cvt := (modeAt g c.seq).toNat, code := 0, src := g.rank,
    seg := 0, no := 0, elem := 0, n := 0, sig := opSig c.desc }

/-- Elements of one JL message: whole runs of 128 that fit with the header into 4,096 bytes. -/
def jlElems (fmt : Nat) : Nat := if fmtMx fmt then 4064 / groupBytes fmt * 128 else 4064 / (16 * max 1 (fmtBits fmt)) * 128

/-- Messages (offset, elements, bytes) of a chunk's wire bytes. -/
def cutChunk (fmt step : Nat) : Nat → Nat → Nat → List Byte → List (Nat × Nat × List Byte)
  | 0, _, _, _ => []
  | fuel + 1, off, n, bs =>
    if n = 0 then []
    else
      let k := min n step
      (off, k, bs.take (wireBytes fmt k)) :: cutChunk fmt step fuel (off + k) (n - k) (bs.drop (wireBytes fmt k))

/-- Sends a chunk on its edge (R310). -/
def sendChunk (id : Nat) (o : OutChunk) (s : State) : State :=
  match coll? id s with
  | none => s
  | some c =>
    match cgroup? c.group s with
    | none => s
    | some g =>
      let fmt := cvtFmt (modeAt g c.seq)
      let step := if (edgeOf g o.rank).any (fun e => e.kind == 2) then o.n else jlElems fmt
      let ms := cutChunk fmt (max 1 step) (o.n + 1) 0 o.n o.bytes
      let s1 := ms.foldl (fun t m =>
        sendEdge g o.rank ({ headOf g c 1 o.phase with
          seg := if isRing c.desc then keySeg o.key else 0, no := keyNo o.key, elem := m.1, n := m.2.1 }.bytes ++ m.2.2) t) s
      cuCount g 5 o.bytes.length (modColl id (fun c => { c with
        txSent := tset c.txSent (edgeKey o.phase o.rank) (tgetD c.txSent (edgeKey o.phase o.rank) 0 + 1) }) s1)

/-- Sends a CREDIT for an edge: chunks granted so far (R311). -/
def sendCredit (id phase rank : Nat) (s : State) : State :=
  match coll? id s with
  | none => s
  | some c =>
    match cgroup? c.group s with
    | none => s
    | some g => sendEdge g rank { headOf g c 2 phase with no := tgetD c.rxGrant (edgeKey phase rank) 0 }.bytes s

/-- Grants `k` more chunks on an edge. -/
def grantCredit (id phase rank k : Nat) (s : State) : State :=
  sendCredit id phase rank (modColl id (fun c => { c with
    rxGrant := tset c.rxGrant (edgeKey phase rank) (tgetD c.rxGrant (edgeKey phase rank) 0 + k) }) s)

/-! ## Ends (R316, R317) -/

/-- Sends ABORT on the edges of an algorithm, once per SEQ. -/
def sendAborts (h seq alg code sig : Nat) (s : State) : State :=
  match cgroup? h s with
  | none => s
  | some g =>
    if g.aborted.contains seq then s
    else
      let hd : CHead := { tag := g.tag, seq := seq % 2 ^ 32, kind := 3, phase := 0, cvt := (modeAt g seq).toNat, code := code,
                          src := g.rank, seg := 0, no := 0, elem := 0, n := 0, sig := sig }
      let s1 := modCgroup h (fun g => { g with aborted := g.aborted ++ [seq] }) s
      (algRanks g alg).foldl (fun t r => if edgeAlive g r t then sendEdge g r hd.bytes t else t) s1

def collOwner (id b : Nat) : Owner := { kind := .coll, a := id, b := b, c := 0 }
def ofColl (id : Nat) (f : Xfer) : Bool := f.owner.kind == .coll && f.owner.a == id

/-- A cause ends a collective: it stops reading and sending, and tells its neighbours (R316). -/
def collFail (id code rank abort : Nat) (s : State) : State :=
  match coll? id s with
  | none => s
  | some c =>
    if c.ended.isSome then s
    else
      let s1 := modColl id (fun c => { c with ended := some (code, rank), outq := [], starts := [], works := [] }) s
      let s2 := (s1.xl.xfers.filter (fun e => ofColl id e.2 && !e.2.write)).foldl (fun t e => endXfer e.1 Config.ccFlushed t) s1
      sendAborts c.group c.seq c.desc.alg abort (opSig c.desc) s2

/-! ## Arithmetic (R69 to R71, R305) -/

def sat32 (i : Int) : Nat := wrap32 (max (-2147483648) (min 2147483647 i))

/-- One combination of two values. -/
def combine (int : Bool) (red a b : Nat) : Nat :=
  if int then
    match red with
    | 0 => sat32 (signed32 a + signed32 b)
    | 1 => if signed32 a < signed32 b then b else a
    | _ => if signed32 b < signed32 a then b else a
  else match red with
    | 0 => fadd a b
    | 1 => fmax a b
    | _ => fmin a b

/-- An integer element as INT32. -/
def intValue : FVal → Nat
  | .fin a m e => wrap32 ((if a then -1 else 1) * ((m : Int) * 2 ^ e.toNat))
  | _ => 0

/-- Decoded elements as the unit holds them, and how many saturated (R62, R64, R69). -/
def unitValues (int : Bool) (cvt : Byte) (xs : List FVal) : List Nat × Nat :=
  if int then (xs.map intValue, 0) else decodeVals cvt xs

/-- A held value as a number to be converted. -/
def unitNumber (int : Bool) (v : Nat) : FVal :=
  if int then .fin (decide (signed32 v < 0)) (signed32 v).natAbs 0 else fp32.decode v

def zipWith2 (f : Nat → Nat → Nat) : List Nat → List Nat → List Nat
  | a :: as, b :: bs => f a b :: zipWith2 f as bs
  | _, _ => []

/-- Encodes held values under a control byte with the collective's generator; the counts of R62 go to the unit. -/
def encodeVals (id : Nat) (g : CGroup) (int : Bool) (cvt : Byte) (vs : List Nat) (s : State) : CvtSeq × State :=
  let gen := ((coll? id s).map Coll.gen).getD 1
  let r := convertSeq cvt gen (vs.map (unitNumber int))
  (r, cuCount g 7 r.sat (cuCount g 6 r.nonfin (modColl id (fun c => { c with gen := r.gen }) s)))

/-! ## Residuals (R299, R305, R306) -/

def residBase (h : Nat) (s : State) : Option Nat :=
  (s.tiers.reserves.find? (fun r => r.use == .residual h)).map Reserve.base

def residPlace (h : Nat) (g : CGroup) (slot half elem : Nat) (s : State) : Place :=
  ⟨spGddr, (residBase h s).getD 0 + ((slot * 2 + half) * g.resLen + elem) * 4⟩

/-- Reads `n` FP32 residuals; the code of a failure. -/
def readResid (h : Nat) (g : CGroup) (slot half elem n : Nat) (s : State) : Except Nat (List Nat) × State :=
  match readSpan g.part [] (lineFuel (4 * n)) (residPlace h g slot half elem s) (4 * n) s with
  | .ok bs t => (.ok (unpackElems 32 n bs), t)
  | .stop (.fail c) t => (.error c, t)
  | .stop (.hold _) t => (.error Config.ccData, t)

def writeResid (h : Nat) (g : CGroup) (slot half elem : Nat) (vs : List Nat) (s : State) : Except Nat Unit × State :=
  match writeSpan g.part [] (lineFuel (4 * vs.length)) (residPlace h g slot half elem s) (packElems 32 vs) s with
  | .ok _ t => (.ok (), t)
  | .stop (.fail c) t => (.error c, t)
  | .stop (.hold _) t => (.error Config.ccData, t)

/-- A residual half that a chunk of the contribution touches cannot be served now (R163). -/
def residHeld (g : CGroup) (c : Coll) (elem n : Nat) (s : State) : Bool :=
  [0, 1].any (fun h => (spanHold true (lineFuel (4 * n)) (residPlace c.group g c.desc.rslot h elem s) (4 * n) s).isSome)

/-- Quantises a contribution with error feedback (R305, R71). An INT8 contribution is an INT32 sum: its FP32 value is what is
quantised, and what comes back is INT32 again (R69). -/
def quantise (id : Nat) (g : CGroup) (c : Coll) (elem : Nat) (vs : List Nat) (s : State) : Except Nat (List Nat) × State :=
  let d := c.desc
  let half := (bitOf d.rslot g.halves).toNat
  let rd := if zeroResid d then (.ok (vs.map (fun _ => 0)), s) else readResid c.group g d.rslot half elem vs.length s
  match rd with
  | (.error e, t) => (.error e, t)
  | (.ok rs, t) =>
    let v := zipWith2 fadd (vs.map (fun x => roundFp32 (unitNumber (isInt d) x))) rs
    let cvt := modeAt g c.seq
    let w := encodeVals id g false cvt v t
    let q := unitValues (isInt d) cvt ((decodeElems (cvtFmt cvt) w.1.codes w.1.scales).take v.length)
    let e := zipWith2 (fun a b => roundFp32 ((fp32.decode a).add (unitNumber (isInt d) b).negate)) v q.1
    match writeResid c.group g d.rslot (1 - half) elem e (cuCount g 7 q.2 w.2) with
    | (.error x, u) => (.error x, u)
    | (.ok _, u) => (.ok q.1, u)

/-! ## Contributions (R305) -/

/-- Starts the reads of a chunk's contribution. -/
def startReads (id key wk : Nat) (own : Bool) (s : State) : State :=
  match coll? id s with
  | none => s
  | some c =>
    match cgroup? c.group s with
    | none => s
    | some g =>
      let d := c.desc
      let n := chunkElems g d key
      let at' := srcBase g d (keySeg key) + keyNo key * d.chunk
      let js := (List.range d.nsrc).flatMap (fun i => if fmtMx d.srcFmt then [2 * i, 2 * i + 1] else [2 * i])
      let s1 := modWork id wk (fun w => { w with own := own, reads := js }) s
      js.foldl (fun t j =>
        let o := d.src.getD (j / 2) { elem := 0, scale := 0 }
        let range := if j % 2 = 1 then (o.scale + at' / 32, (n + 31) / 32)
          else if fmtMx d.srcFmt then (o.elem + at' / 32 * (fmtBits d.srcFmt * 4), (n + 31) / 32 * (fmtBits d.srcFmt * 4))
          else (o.elem + at' * fmtBits d.srcFmt / 8, (n * fmtBits d.srcFmt + 7) / 8)
        (startXfer (Xfer.mk' g.part 2 g.unit 0xFFFFFFFF (collOwner id (wk * 64 + j)) false (Rows.flat range.1 range.2) []) t).2) s1

/-- The sum of a chunk's sources, in ascending order, and the saturations of their decoding. An MX source that decodes beyond
FP32 converts under the descriptor's DSTCVT (DESIGN CHOICE, log 124: a collective has two control bytes and R64 does not say
which one decodes its sources). -/
def sumSources (int : Bool) (d : CollDesc) (n : Nat) (w : CWork) : List Nat × Nat :=
  let one := fun (i : Nat) => unitValues int d.dstCvt
    ((decodeElems d.srcFmt (unpackElems (fmtBits d.srcFmt) n (tgetD w.src (2 * i) []))
      ((tgetD w.src (2 * i + 1) []).map BitVec.toNat)).take n)
  (List.range d.nsrc).tail.foldl (fun a i => (zipWith2 (combine int d.red) a.1 (one i).1, a.2 + (one i).2)) (one 0)

/-! ## Results (R307 to R309, R313) -/

/-- Ranges of a chunk in a destination: elements, and scales of an MX format. -/
def chunkRanges (d : CollDesc) (at' n : Nat) (o : COperand) : List (Nat × Nat) :=
  let fmt := cvtFmt d.dstCvt
  if fmtMx fmt then [(o.elem + at' * fmtBits fmt / 8, (n + 31) / 32 * (fmtBits fmt * 4)), (o.scale + at' / 32, (n + 31) / 32)]
  else [(o.elem + at' * fmtBits fmt / 8, (n * fmtBits fmt + 7) / 8)]

/-- Path of a chunk's writes under the same-path rule: that of the entry's completion, where every destination lies on it (R261,
R313). -/
def chunkPath (g : CGroup) (c : Coll) (at' n : Nat) (s : State) : Option Nat :=
  match entryPath c.qpn c.idx s with
  | none => none
  | some cl => if (c.desc.dst.flatMap (chunkRanges c.desc at' n)).all (onPath g.part cl s) then some cl else none

/-- Writes a chunk's final values to every destination; without destinations nothing is outstanding. The values are converted
anew for each destination, in ascending index, from the collective's one generator (DESIGN CHOICE, log 124: the spec does not
order the draws of several destinations). -/
def writeResult (id key wk : Nat) (vs : List Nat) (s : State) : State :=
  match coll? id s with
  | none => s
  | some c =>
    match cgroup? c.group s with
    | none => s
    | some g =>
      let d := c.desc
      let k := key % 2 ^ 80
      if d.ndst = 0 then modColl id (fun c => { c with landed := c.landed ++ [k] }) s
      else
        let at' := dstBase g d (keySeg k) + keyNo k * d.chunk
        let fmt := cvtFmt d.dstCvt
        let path := chunkPath g c at' (chunkElems g d k) s
        (List.range d.ndst).foldl (fun t i =>
          let r := encodeVals id g (isInt d) d.dstCvt vs t
          let o := d.dst.getD i { elem := 0, scale := 0 }
          let els := packElems (fmtBits fmt) r.1.codes
          let put := fun (j a : Nat) (bs : List Byte) (u : State) =>
            modWork id wk (fun w => { w with writes := w.writes + 1 })
              (startXfer { Xfer.mk' g.part 2 g.unit 0xFFFFFFFF (collOwner id (wk * 64 + 32 + j)) true (Rows.flat a bs.length) bs with
                samePath := path } u).2
          let t1 := put (2 * i) (o.elem + at' * fmtBits fmt / 8) els r.2
          if fmtMx fmt then put (2 * i + 1) (o.scale + at' / 32) (r.1.scales.map (BitVec.ofNat 8)) t1 else t1) s

/-- Queues a chunk for an edge. -/
def queueChunk (id phase rank key n wk : Nat) (bytes : List Byte) (s : State) : State :=
  modWork id wk (fun w => { w with sends := w.sends + 1 })
    (modColl id (fun c => { c with outq := c.outq ++ [{ phase := phase, rank := rank, key := key % 2 ^ 80, n := n, bytes := bytes }] }) s)

/-- A chunk's final wire bytes at their owner, or a received one of the gather phase: written, and passed on (R307, R308). -/
def finalChunk (id key : Nat) (wire : List Byte) (owner : Bool) (s : State) : State :=
  match coll? id s with
  | none => s
  | some c =>
    match cgroup? c.group s with
    | none => s
    | some g =>
      let d := c.desc
      let cvt := modeAt g c.seq
      let n := chunkElems g d key
      let wk := gatherKey key
      let vs := unitValues (isInt d) cvt (wireDecode (cvtFmt cvt) (n + 1) n wire)
      let s1 := writeResult id key wk vs.1 (cuCount g 7 vs.2 (modWork id wk id' s))
      let goal := if !isRing d then (if d.op = 1 then childRanks g else [])
        else if d.op = 3 then [] else if !owner && keySeg key == (g.rank + 1) % g.n then [] else [nextRank g]
      goal.foldl (fun t r => queueChunk id 1 r key n wk wire t) s1
where
  id' (w : CWork) : CWork := w

/-- A work of the gather phase with nothing outstanding returns its credit and is finished. -/
def closeWork (id wk : Nat) (s : State) : State :=
  match (coll? id s).bind (fun c => tget c.works wk) with
  | none => s
  | some w =>
    if workPhase wk = 1 ∧ w.writes = 0 ∧ w.sends = 0 then
      let s1 := modColl id (fun c => { c with works := tdel c.works wk }) s
      match w.credit with
      | some r => grantCredit id 1 r 1 s1
      | none => s1
    else s

/-- A chunk whose every input is combined: it goes on, or is final (R307, R308). -/
def reducedChunk (id key : Nat) (w : CWork) (vs : List Nat) (s : State) : State :=
  match coll? id s with
  | none => s
  | some c =>
    match cgroup? c.group s with
    | none => s
    | some g =>
      let d := c.desc
      let cvt := modeAt g c.seq
      let n := chunkElems g d key
      let r := encodeVals id g (isInt d) cvt vs s
      let wire := wireEncode (cvtFmt cvt) r.1
      let s1 := modColl id (fun c => { c with works := tdel c.works key }) r.2
      let final := if isRing d then d.op == 4 || keySeg key == g.rank else g.rank == 0
      if final then
        let s2 := finalChunk id key wire true s1
        -- ALLGATHER's own chunk has taken its credit already
        if w.own ∧ d.op = 4 then
          match ((coll? id s2).map Coll.outq).getD [] |>.find? (fun o => o.key == key && o.phase == 1) with
          | some o => closeWork id (gatherKey key) (sendChunk id o (modWork id (gatherKey key) (fun w => { w with sends := w.sends - 1 })
              (modColl id (fun c => { c with outq := c.outq.erase o }) s2)))
          | none => s2
        else closeWork id (gatherKey key) s2
      else
        let goal := if isRing d then nextRank g else (parentRank g).getD 0
        let o : OutChunk := { phase := 0, rank := goal, key := key, n := n, bytes := wire }
        if w.own then sendChunk id o s1
        else modColl id (fun c => { c with outq := c.outq ++ [o] }) s1

/-- Ranks whose chunk a reduce-phase work waits for. -/
def inputsOf (g : CGroup) (d : CollDesc) (w : CWork) : List Nat :=
  if w.own then [] else if isRing d then [prevRank g] else childRanks g

/-- Combines what has arrived whole with the contribution, in order of arrival, returning credit (R308, R311). -/
def combineWork (id key : Nat) (s : State) : State :=
  match coll? id s with
  | none => s
  | some c =>
    match cgroup? c.group s, tget c.works key with
    | some g, some w =>
      match w.sum with
      | none => s
      | some sum =>
        let d := c.desc
        let cvt := modeAt g c.seq
        let n := chunkElems g d key
        let vals := fun (r : Nat) =>
          unitValues (isInt d) cvt (wireDecode (cvtFmt cvt) (n + 1) n ((tgetD w.parts r []).flatMap Prod.snd))
        let total := w.whole.foldl (fun a r => zipWith2 (combine (isInt d) d.red) (vals r).1 a) sum
        let sat := w.whole.foldl (fun a r => a + (vals r).2) 0
        let s1 := cuCount g 7 sat (cuCount g 4 (n * w.whole.length) (modWork id key (fun w => { w with
          sum := some total, combined := w.combined ++ w.whole, whole := [] }) s))
        let s2 := w.whole.foldl (fun t r => grantCredit id 0 r 1 t) s1
        match (coll? id s2).bind (fun c => tget c.works key) with
        | some w2 => if (inputsOf g d w2).all (fun r => w2.combined.contains r) then reducedChunk id key w2 total s2 else s2
        | none => s2
    | _, _ => s

/-- The contribution of a chunk is read whole; one that waits for its residuals is taken up later. -/
def contribute (id key : Nat) (s : State) : State :=
  match coll? id s with
  | none => s
  | some c =>
    match cgroup? c.group s, tget c.works key with
    | some g, some w =>
      let d := c.desc
      let n := chunkElems g d key
      let at' := srcBase g d (keySeg key) + keyNo key * d.chunk
      if descEf d && residHeld g c at' n s then s else
      let sum := sumSources (isInt d) d n w
      let s1 := cuCount g 7 sum.2 (cuCount g 4 (n * d.nsrc) s)
      let r := if descEf d then quantise id g c at' sum.1 s1 else (.ok sum.1, s1)
      match r with
      | (.error e, t) => collFail id e g.rank 4 t
      | (.ok vs, t) => combineWork id key (modWork id key (fun w => { w with sum := some vs, src := [] }) t)
    | _, _ => s

/-! ## Moving on -/

/-- Chunks granted to this rank on an edge and not yet used. -/
def creditLeft (c : Coll) (phase rank : Nat) : Nat :=
  tgetD c.txGrant (edgeKey phase rank) 0 - tgetD c.txUsed (edgeKey phase rank) 0

def useCredit (id phase rank : Nat) (s : State) : State :=
  modColl id (fun c => { c with txUsed := tset c.txUsed (edgeKey phase rank) (tgetD c.txUsed (edgeKey phase rank) 0 + 1) }) s

/-- The edge on which this rank's first chunks leave. -/
def startEdge (g : CGroup) (d : CollDesc) : Option (Nat × Nat) :=
  if isRing d then some (if d.op = 4 then 1 else 0, nextRank g) else (parentRank g).map (fun r => (0, r))

/-- Sends what waits on the edges while there is credit, and starts this rank's first chunks. -/
def pumpColl (id : Nat) : Nat → State → State
  | 0, s => s
  | fuel + 1, s =>
    match coll? id s with
    | none => s
    | some c =>
      if c.ended.isSome then s
      else match cgroup? c.group s with
        | none => s
        | some g =>
          match c.outq.find? (fun o => decide (creditLeft c o.phase o.rank > 0)) with
          | some o =>
            let s1 := modColl id (fun c => { c with outq := c.outq.erase o }) (useCredit id o.phase o.rank s)
            let wk := gatherKey o.key
            let s2 := sendChunk id o s1
            let s3 := if o.phase = 1 then closeWork id wk (modWork id wk (fun w => { w with sends := w.sends - 1 }) s2) else s2
            pumpColl id fuel s3
          | none =>
            match c.starts, startEdge g c.desc with
            | key :: rest, some e =>
              if creditLeft c e.1 e.2 = 0 then s
              else pumpColl id fuel (startReads id key key true (useCredit id e.1 e.2
                (modColl id (fun c => { c with starts := rest }) s)))
            | _, _ => s

def kickColl (id : Nat) (s : State) : State :=
  pumpColl id (((coll? id s).map (fun c => c.outq.length + c.starts.length)).getD 0 + 1) s

/-- A transfer of a collective has ended. -/
def collXferDone (id b code : Nat) (f : Xfer) (s : State) : State :=
  match coll? id s with
  | none => s
  | some c =>
    match cgroup? c.group s with
    | none => s
    | some g =>
      if c.ended.isSome then s
      else if code ≠ 0 then collFail id code g.rank 4 s
      else
        let wk := b / 64
        let j := b % 64
        if j < 32 then
          let s1 := modWork id wk (fun w => { w with reads := w.reads.filter (· != j), src := tset w.src j f.data }) s
          if ((coll? id s1).bind (fun c => tget c.works wk)).any (fun w => w.reads.isEmpty) then kickColl id (contribute id wk s1) else s1
        else
          let s1 := modColl id (fun c => { c with bytes := c.bytes + f.data.length, same := c.same && f.samePath.isSome && f.spOk })
            (modWork id wk (fun w => { w with writes := w.writes - 1 }) s)
          let left := (((coll? id s1).bind (fun c => tget c.works wk)).map CWork.writes).getD 0
          let s2 := if left = 0 then modColl id (fun c => { c with landed := c.landed ++ [wk % 2 ^ 80] }) s1 else s1
          closeWork id wk s2

/-! ## Start and admission (R295, R304, R311) -/

/-- This rank's first chunks (step t = 0, a leaf of a tree, ALLGATHER's own segment). -/
def firstKeys (g : CGroup) (d : CollDesc) : List Nat :=
  if isRing d then segKeys g d (if d.op = 4 then g.rank else (g.rank + g.n - 1) % g.n)
  else if (childRanks g).isEmpty then segKeys g d 0 else []

/-- SRAM reserved on a unit, in all and by a partition; collectives admitted. -/
def reservedOn (unit : Nat) (part : Option Nat) (s : State) : Nat :=
  s.cu.colls.foldl (fun a e => match cgroup? e.2.group s with
    | some g => if e.2.admitted ∧ g.unit = unit ∧ (part.isNone ∨ part = some g.part) then a + reservation g e.2.desc else a
    | none => a) 0

def inflightOn (unit : Nat) (s : State) : Nat :=
  s.cu.colls.countP (fun e => e.2.admitted && (cgroup? e.2.group s).any (fun g => g.unit == unit))

/-- It is the turn of a collective in its group. -/
def groupTurn (id : Nat) (c : Coll) (s : State) : Bool :=
  !s.cu.colls.any (fun e => e.2.group == c.group && decide (e.1 < id))

/-- A change of the group's mode that is to hold for a collective is staged: which mode it uses is not settled (R314, log 145). -/
def modeOpen (c : Coll) (s : State) : Bool :=
  s.fw.changes.any (fun x => match x.kind with
    | .groupMode h _ q => h == c.group && decide (q ≤ c.seq)
    | .rules => false
    | .refill _ => false)

/-- May a waiting collective be admitted now: its group's turn, none of its unit before it, and room (R295)? -/
def admissible (id : Nat) (s : State) : Bool :=
  match coll? id s with
  | none => false
  | some c =>
    match cgroup? c.group s with
    | none => false
    | some g =>
      !c.admitted && c.ended.isNone && groupTurn id c s && !modeOpen c s && !s.chip.blockRsts.any (fun r => r.kind == 2 && r.index == g.unit) &&
      !s.cu.colls.any (fun e => decide (e.1 < id) && !e.2.admitted && e.2.ended.isNone && groupTurn e.1 e.2 s && !modeOpen e.2 s &&
        (cgroup? e.2.group s).any (fun h => h.unit == g.unit)) &&
      decide (reservedOn g.unit none s + reservation g c.desc ≤ 2 ^ 24) &&
      decide (reservedOn g.unit (some g.part) s + reservation g c.desc ≤ partShare g.part s * 1024) &&
      decide (inflightOn g.unit s < 64)

/-- Admits a collective: it grants DEPTH chunks on every edge on which it receives, and starts (R295, R311). -/
def admitColl (id : Nat) (s : State) : State :=
  match coll? id s with
  | none => s
  | some c =>
    match cgroup? c.group s with
    | none => s
    | some g =>
      let s1 := modColl id (fun c => { c with admitted := true, starts := firstKeys g c.desc }) s
      kickColl id ((rxEdges g c.desc).foldl (fun t e => grantCredit id e.1 e.2 g.depth t) s1)

/-- Ends the COLL entry of a collective. -/
def endEntry (qpn idx code bytes opspec : Nat) (s : State) : State :=
  sqKick qpn (setOp qpn idx (.collDone code bytes opspec) s)

/-- OPSPEC of a completion (R313). -/
def collSpec (seq rank : Nat) : Nat := seq % 65536 * 65536 + rank % 65536

/-- The descriptor of a COLL entry has been read (R301): the collective starts, or its entry completes at once. -/
def startColl (qpn idx code : Nat) (bs : List Byte) (s : State) : State :=
  let reject := fun (c : Nat) => let d := draw s; endEntry qpn idx c 0 (d.1.toNat % 2 ^ 32) d.2
  match qp? qpn s with
  | none => s
  | some q =>
    let d := CollDesc.parse bs
    if code ≠ 0 then reject code
    else match cgroup? d.group s with
      | none => reject Config.ccProtection
      | some g =>
        if g.part ≠ q.part then reject Config.ccProtection
        else match ((g.doomed.find? (fun e => e.1 == g.nextSeq)).map Prod.snd).or g.broken with
          | some b =>
            endEntry qpn idx b.1 0 (collSpec g.nextSeq b.2) (cuCount g 1 1 (modCgroup d.group (fun g => { g with nextSeq := g.nextSeq + 1 }) s))
          | none =>
            if descBad g d s then reject Config.ccProtection
            else
              let id := s.cu.nextColl
              let sg := seedGen d.seed s
              let early := g.early.filter (fun e => e.seq == g.nextSeq)
              let c : Coll :=
                { group := d.group, seq := g.nextSeq, qpn := qpn, idx := idx, desc := d, admitted := false,
                  txGrant := early.foldl (fun t e => tset t (edgeKey e.phase e.rank) e.count) [], txUsed := [], txSent := [],
                  rxGrant := [], rxBegun := [], starts := [], outq := [], works := [], landed := [], finished := [], bytes := 0, same := true,
                  gen := sg.1, ended := none }
              let s1 := modCgroup d.group (fun g => { g with
                nextSeq := g.nextSeq + 1, early := g.early.filter (fun e => e.seq != c.seq) }) sg.2
              setOp qpn idx (.coll id) (modCu (fun u => { u with colls := tset u.colls id c, nextColl := id + 1 }) s1)

/-! ## Completion -/

/-- Every chunk of the result is finished and every chunk is sent; without destinations the last send is credited back too
(R313). -/
def collReady (g : CGroup) (c : Coll) : Bool :=
  c.admitted && c.ended.isNone && c.finished.length == resultChunks g c.desc && c.outq.isEmpty && c.starts.isEmpty &&
  c.works.isEmpty && c.landed.isEmpty &&
  (txEdges g c.desc).all (fun e => tgetD c.txSent (edgeKey e.1 e.2) 0 == chunksToSend g c.desc e.1 &&
    (c.desc.ndst != 0 || tgetD c.txGrant (edgeKey e.1 e.2) 0 == g.depth + chunksToSend g c.desc e.1))

/-- Takes a collective out of its unit. -/
def dropColl (id : Nat) (s : State) : State := modCu (fun u => { u with colls := tdel u.colls id }) s

/-- Completes with 0x00: the residual half flips first (R306, R313). -/
def completeColl (id : Nat) (g : CGroup) (c : Coll) (s : State) : State :=
  let s1 := if descEf c.desc then modCgroup c.group (fun g => { g with halves := g.halves ^^^ 2 ^ c.desc.rslot }) s else s
  let path := fun (o : SqOp) => if o.idx = c.idx ∧ o.remote.isNone then { o with samePath := c.same && c.desc.ndst != 0 } else o
  endEntry c.qpn c.idx 0 c.bytes (collSpec c.seq 0xFFFF)
    (cuCount g 0 1 (dropColl id (modQp c.qpn (fun q => { q with ops := q.ops.map path }) s1)))

/-- Collectives of a broken group that have not begun complete with the code that broke it (R300). -/
def failQueued (h code rank : Nat) (s : State) : State :=
  (s.cu.colls.filter (fun e => e.2.group == h && !e.2.admitted && e.2.ended.isNone)).foldl (fun t e =>
    match cgroup? h t with
    | some g => endEntry e.2.qpn e.2.idx code 0 (collSpec e.2.seq rank) (cuCount g 1 1 (dropColl e.1 t))
    | none => t) s

/-- Writes the failure completion and breaks the group (R300, R316). -/
def endColl (id : Nat) (g : CGroup) (c : Coll) (code rank : Nat) (s : State) : State :=
  let s1 := modCgroup c.group (fun g => { g with broken := if g.broken.isSome then g.broken else some (code, rank) }) (dropColl id s)
  failQueued c.group code rank (endEntry c.qpn c.idx code c.bytes (collSpec c.seq rank) (cuCount g 1 1 s1))

/-! ## Received messages -/

/-- The collective of a group with a SEQ. -/
def collOf (h seq : Nat) (s : State) : Option (Nat × Coll) := s.cu.colls.find? (fun e => e.2.group == h && e.2.seq == seq)

def groupOfTag (tag : Nat) (s : State) : Option (Nat × CGroup) := s.cu.groups.find? (fun e => e.2.tag == tag)

/-- Is a chunk one that this rank receives in a phase? -/
def chunkExpected (g : CGroup) (d : CollDesc) (h : CHead) : Bool :=
  (rxEdges g d).contains (h.phase, h.src) &&
  (if isRing d then decide (h.seg < g.n) && (if h.phase = 0 then h.seg != prevRank g else h.seg != g.rank) else h.seg == 0) &&
  decide (h.no < chunksIn g d h.seg) && decide (0 < h.n) && decide (h.elem + h.n ≤ chunkElems g d (chunkKey h.seg h.no))

/-- Handles a DATA message (R307, R308, R311, R315). -/
def rxData (die hh : Nat) (g : CGroup) (h : CHead) (body : List Byte) (s : State) : State :=
  let reject := bump (bkColl die) 3 1 s
  match collOf hh h.seq s with
  | none => reject
  | some (id, c) =>
    let key := chunkKey h.seg h.no
    let wk := key + h.phase * 2 ^ 80
    let ek := edgeKey h.phase h.src
    if c.ended.isSome then s
    else if h.sig ≠ opSig c.desc ∨ h.cvt ≠ (modeAt g c.seq).toNat then collFail id Config.ccRemoteOp h.src 4 s
    else if !c.admitted || !chunkExpected g c.desc h || body.length ≠ wireBytes (cvtFmt (modeAt g c.seq)) h.n ||
        (!c.rxBegun.contains (ek, key) && decide ((c.rxBegun.filter (fun b => b.1 == ek)).length ≥ tgetD c.rxGrant ek 0)) then
      collFail id Config.ccRemoteOp h.src 4 reject
    else
      let first := !c.works.any (fun e => e.1 == wk)
      let s1 := modColl id (fun c => { c with rxBegun := if c.rxBegun.contains (ek, key) then c.rxBegun else c.rxBegun ++ [(ek, key)] }) s
      let s2 := modWork id wk (fun w => { w with
        parts := tset w.parts h.src (tset (tgetD w.parts h.src []) h.elem body),
        have' := tset w.have' h.src (tgetD w.have' h.src 0 + h.n) }) s1
      let s3 := if first ∧ h.phase = 0 then startReads id key wk false s2 else s2
      match (coll? id s3).bind (fun c => tget c.works wk) with
      | none => s3
      | some w =>
        if tgetD w.have' h.src 0 < chunkElems g c.desc key then s3
        else if h.phase = 0 then
          kickColl id (combineWork id wk (modWork id wk (fun w => { w with whole := w.whole ++ [h.src] }) s3))
        else
          let wire := (tgetD w.parts h.src []).flatMap Prod.snd
          let s4 := modWork id wk (fun w => { w with credit := some h.src, parts := [] }) s3
          kickColl id (closeWork id wk (finalChunk id key wire false s4))

/-- Handles a CREDIT message (R311). -/
def rxCredit (hh : Nat) (g : CGroup) (h : CHead) (s : State) : State :=
  match collOf hh h.seq s with
  | some (id, _) =>
    kickColl id (modColl id (fun c => { c with
      txGrant := tset c.txGrant (edgeKey h.phase h.src) (max h.no (tgetD c.txGrant (edgeKey h.phase h.src) 0)) }) s)
  | none =>
    if h.seq < g.nextSeq then s
    else modCgroup hh (fun g => { g with
      early := g.early.filter (fun e => !(e.seq == h.seq && e.phase == h.phase && e.rank == h.src)) ++
        [{ seq := h.seq, phase := h.phase, rank := h.src, count := h.no }] }) s

/-- Code of this rank for an ABORT (Table 10-7). -/
def abortCode (carried : Nat) : Nat := if carried = Config.ccFenced then Config.ccFenced else Config.ccRemoteOp

/-- An ABORT breaks its group: what waits in it completes with the code that broke it (R300). -/
def breakGroup (hh : Nat) (g : CGroup) (code rank : Nat) (s : State) : State :=
  let b := g.broken.getD (code, rank)
  failQueued hh b.1 b.2 (modCgroup hh (fun g => { g with broken := some b }) s)

/-- Handles an ABORT (R316, R317). -/
def rxAbort (hh : Nat) (g : CGroup) (h : CHead) (s : State) : State :=
  match collOf hh h.seq s with
  | some (id, _) => breakGroup hh g (abortCode h.code) h.src (collFail id (abortCode h.code) h.src h.code s)
  | none =>
    if h.seq < g.nextSeq then s
    else
      let s1 := modCgroup hh (fun g => { g with doomed := g.doomed ++ [(h.seq, abortCode h.code, h.src)] }) s
      breakGroup hh g (abortCode h.code) h.src (sendAborts hh h.seq (bitsOf 11 8 h.sig) h.code h.sig s1)

/-- Handles a message of a collective; `die` is where it arrived (R294, R311). -/
def collMessage (die : Nat) (bs : List Byte) (s : State) : State :=
  let h := CHead.parse bs
  match groupOfTag h.tag s with
  | none => if h.kind = 3 then bump (bkColl die) 2 1 s else bump (bkColl die) 3 1 s
  | some (hh, g) =>
    match h.kind with
    | 1 => rxData die hh g h (bs.drop 32) s
    | 2 => rxCredit hh g h s
    | 3 => rxAbort hh g h (cuCount g 2 1 s)
    | _ =>
      let s1 := bump (bkColl die) 3 1 s
      match collOf hh h.seq s1 with
      | some (id, _) => collFail id Config.ccRemoteOp h.src 4 s1
      | none => s1

/-! ## What ends collectives from elsewhere (Table 10-7) -/

/-- The cause that a collective's surroundings give: its entry's QP in ERROR, or a neighbour lost. -/
def collLoss (c : Coll) (s : State) : Option (Nat × Nat × Nat) :=
  match cgroup? c.group s with
  | none => none
  | some g =>
    if (qp? c.qpn s).all (fun q => q.qstate == .error) then some (Config.ccFlushed, g.rank, 4)
    else
      match (algRanks g c.desc.alg).find? (fun r =>
        match edgeOf g r with
        | none => false
        | some e =>
          if e.kind = 2 then (qp? e.target s).all (fun q => q.qstate == .error)
          else peerLost g.unit e.target s) with
      | some r => some (Config.ccFenced, r, Config.ccFenced)
      | none => none

/-- Contributions of a collective that waited for their residuals go on (R163). -/
def resumeResid (id : Nat) (c : Coll) (s : State) : State :=
  (c.works.filter (fun w => w.2.sum.isNone && w.2.reads.isEmpty && !w.2.src.isEmpty)).foldl (fun t w =>
    match (coll? id t).bind (fun c => (cgroup? c.group t).map (fun g => residHeld g c
        (srcBase g c.desc (keySeg w.1) + keyNo w.1 * c.desc.chunk) (chunkElems g c.desc w.1) t)) with
    | some false => kickColl id (contribute id w.1 t)
    | _ => t) s

/-- Ends every collective that has lost what it needs; the others go on. -/
def watchColls (s : State) : State :=
  s.cu.colls.foldl (fun t e => match collLoss e.2 t with
    | some l => collFail e.1 l.1 l.2.1 l.2.2 t
    | none => if e.2.ended.isSome then t else resumeResid e.1 e.2 t) s

end Sys2Proof.Machine
end

