-- ==== Sys2Proof/Machine/PassOps.lean ====
section
/-! DEFINITION. Issuing and revoking hall passes (08), and creating queue pairs for firmware's own use. -/

namespace Sys2Proof.Machine

open Sys2Proof

def pass? (i : Nat) (s : State) : Option Pass := tget s.qe.passes i
def modQe (f : Qe → Qe) (s : State) : State := { s with qe := f s.qe }
def modPass (i : Nat) (f : Pass → Pass) (s : State) : State := modQe (fun q => { q with passes := tmod q.passes i f }) s

/-- Passes of a partition that are issued. -/
def passesOf (part : Nat) (s : State) : Nat := s.qe.passes.countP (fun e => e.2.part == part && e.2.pstate != .free)

/-- Key of `freed` for indices that no partition owns. -/
def unowned : Nat := 64

/-- The index issued next to a partition: its pool's index that has been free longest (R250). A pool takes up new indices
until it holds as many as the grant. -/
def nextIndex (part : Nat) (s : State) : Option (Nat × State) :=
  let grant := ((part? part s).map Part.passes).getD 0
  if passesOf part s ≥ grant then none
  else if s.qe.passes.countP (fun e => e.2.part == part) < grant then
    if s.qe.nextPass < Config.poolPasses then some (s.qe.nextPass, modQe (fun q => { q with nextPass := q.nextPass + 1 }) s)
    else match tgetD s.qe.freed unowned [] with
      | i :: r => some (i, modQe (fun q => { q with freed := tset q.freed unowned r }) s)
      | [] => none
  else match tgetD s.qe.freed part [] with
    | i :: r => some (i, modQe (fun q => { q with freed := tset q.freed part r }) s)
    | [] => none

def passGen (i : Nat) (s : State) : Nat :=
  match pass? i s with
  | none => 1
  | some p => if p.gen ≥ 255 then 1 else p.gen + 1

/-- Issues a pass of a partition: its key and the state (R250, R252). -/
def issuePass (part rights bind base length tally : Nat) (s : State) : Option (Nat × State) :=
  match nextIndex part s with
  | none => none
  | some (i, t) =>
    let g := passGen i t
    let p : Pass := { pstate := .valid, gen := g, rights := rights, part := part, bind := bind, base := base, length := length,
                      tally := tally, revoker := none }
    some (i * 256 + g, modQe (fun q => { q with passes := tset q.passes i p }) t)

/-- Frees a pass whose last access has drained (R254). -/
def freePass (i : Nat) (s : State) : State :=
  match pass? i s with
  | none => s
  | some p =>
    bump (bkQueue p.part) 6 1 <| modQe (fun q => { q with freed := tset q.freed p.part (tgetD q.freed p.part [] ++ [i]) })
      (modPass i (fun p => { p with pstate := .free, revoker := none }) s)

/-- Accesses of a pass that are stalled on a fault or on a sliced-out tile are abandoned (R255). -/
def abandonPass (i : Nat) (s : State) : State :=
  s.xl.xfers.foldl (fun t e =>
    if e.2.owner.c = i + 1 then
      match e.2.st with
      | .stalled tag => failUnit e.1 Config.ccRemoteAccess (dropFault e.2.part tag t)
      | .held .sliced => failUnit e.1 Config.ccRemoteAccess t
      | _ => t
    else t) s

/-- A pass begins to be revoked; one without accesses in progress is free at once (R254, R255). -/
def beginRevoke (i : Nat) (mb : Option MbRef) (s : State) : State :=
  abandonPass i (modPass i (fun p => { p with pstate := .revoking, revoker := mb }) s)

/-- A pass whose admitted accesses have drained is free, and its REVOKE_PASS is answered. -/
def tryDrain (i : Nat) (s : State) : State :=
  match pass? i s with
  | some p =>
    if p.pstate = .revoking ∧ passInflight i s = 0 then
      let s1 := freePass i s
      match p.revoker with
      | some m => finish m Config.ok Body.empty s1
      | none => s1
    else s
  | none => s

/-- Queue pairs of a partition. -/
def qpsOf (part : Nat) (s : State) : Nat := s.qe.qps.countP (fun e => e.2.part == part)

/-- Creates a queue pair: the lowest free number (log 9), with the generation that continues its number's (R234). -/
def newQp (part : Nat) (s : State) : Option (Nat × State) :=
  if qpsOf part s ≥ ((part? part s).map Part.qps).getD 0 then none
  else
    let n := freshKey s.qe.qps
    if n ≥ Config.poolQps then none
    else some (n, modQe (fun q => { q with qps := tset q.qps n (Qp.fresh part (tgetD q.gens n 0)) }) s)

/-- Takes a queue pair out, keeping its generation. -/
def dropQp (n : Nat) (s : State) : State :=
  match qp? n s with
  | some q => modQe (fun e => { e with qps := tdel e.qps n, gens := tset e.gens n q.gen }) s
  | none => s

end Sys2Proof.Machine
end

