-- ==== Sys2Proof/Machine/StorageOps.lean ====
section
/-! DEFINITION. The block storage function (12): checks, arbitration, commands to targets, the read cache, completion, the serial mode's packets. -/

namespace Sys2Proof.Machine

open Sys2Proof

def modSb (f : Sb → Sb) (s : State) : State := { s with sb := f s.sb }
def conn? (n : Nat) (s : State) : Option Conn := tget s.sb.conns n
def modConn (n : Nat) (f : Conn → Conn) (s : State) : State := modSb (fun b => { b with conns := tmod b.conns n f }) s
def ns? (h : Nat) (s : State) : Option Ns := tget s.sb.nss h
def modNs (h : Nat) (f : Ns → Ns) (s : State) : State := modSb (fun b => { b with nss := tmod b.nss h f }) s
def task? (k : Nat) (s : State) : Option Task := tget s.sb.tasks k
def modTask (k : Nat) (f : Task → Task) (s : State) : State := modSb (fun b => { b with tasks := tmod b.tasks k f }) s
def slotRegs (k : Nat) (s : State) : SlotRegs := tgetD s.sb.slots k SlotRegs.fresh
def modSlotRegs (k : Nat) (f : SlotRegs → SlotRegs) (s : State) : State :=
  modSb (fun b => { b with slots := tset b.slots k (f (tgetD b.slots k SlotRegs.fresh)) }) s
def sbFunc (f : Nat) (s : State) : SbFunc := tgetD s.sb.funcs f SbFunc.fresh
def modSbFunc (f : Nat) (g : SbFunc → SbFunc) (s : State) : State :=
  modSb (fun b => { b with funcs := tset b.funcs f (g (tgetD b.funcs f SbFunc.fresh)) }) s

/-- Key of a task slot; the serial command has a key of its own and acts for the physical function (R365). -/
def taskKey (func slot : Nat) : Nat := func * 256 + slot
def serialKey : Nat := 65536
/-- Commands of checkpoint job `j` (R384): they count as one more function in the rotation. -/
def ckKey (j : Nat) : Nat := 2 ^ 17 + j
def taskFunc (k : Nat) : Nat := if k = serialKey then 0 else if k ≥ 2 ^ 17 then k else k / 256
def taskSlot (k : Nat) : Nat := if k ≥ serialKey then 0 else k % 256
/-- The partition for which a command runs. -/
def taskPart (k : Nat) (s : State) : Nat :=
  if k ≥ 2 ^ 17 then ((tget s.ck.jobs (k - 2 ^ 17)).map CkJob.part).getD 0 else funcPart (taskFunc k) s
/-- Adds to a function's storage counter; commands of a checkpoint belong to no function. -/
def sbCount (k c n : Nat) (s : State) : State := if k ≥ 2 ^ 17 then s else bump (bkStorage (taskFunc k)) c n s

/-! ## Commands (Table 12-1, R356) -/

def TaskCmd.parse (bs : List Byte) : TaskCmd :=
  let f := fun (o k : Nat) => leNat ((bs.drop o).take k)
  { opc := f 0 1, ctlf := BitVec.ofNat 8 (f 1 1), ns := f 2 2, nblk := f 4 4, lba := f 8 8, addr := f 16 8,
    htag := BitVec.ofNat 64 (f 24 8), tally := f 32 2, vec := f 34 2, zeroSet := f 36 12 != 0 || f 1 1 / 16 != 0 }

def taskCls (c : TaskCmd) : Nat := bitsOf 1 0 c.ctlf.toNat
def isRw (c : TaskCmd) : Bool := c.opc == 1 || c.opc == 2
def isMod (c : TaskCmd) : Bool := c.opc == 2 || c.opc == 4 || c.opc == 5

/-- Outcome of the checks of a command as it leaves QUEUED; 0 for none (R356). -/
def taskBad (k : Nat) (c : TaskCmd) (s : State) : Nat :=
  match ns? c.ns s with
  | none => Config.ccProtection
  | some n =>
    let limit := ((part? (taskPart k s) s).map Part.classLimit).getD 1
    let mine := if k ≥ 2 ^ 17 then (tget s.sb.conns n.conn).any (fun x => x.part == taskPart k s) else n.attached.contains (taskFunc k)
    if c.zeroSet || decide (c.opc < 1 ∨ c.opc > 5) || !mine || decide (taskCls c < limit) ||
        (isRw c && c.addr % 4 != 0) || (!isRw c && c.addr != 0) then Config.ccProtection
    else if (isRw c && decide (c.nblk = 0 ∨ c.nblk * n.bs > 2 ^ 24)) || (decide (c.opc ≥ 4) && c.nblk == 0) ||
        (c.opc == 3 && c.nblk != 0) || decide (c.lba + c.nblk > n.blocks) then Config.ccLength
    else 0

/-- Do two commands overlap on a namespace (R359)? -/
def taskClash (a b : TaskCmd) : Bool :=
  a.ns == b.ns && (a.opc == 3 || b.opc == 3 || overlap a.lba a.nblk b.lba b.nblk)

/-- Commands of a function that are QUEUED or ACTIVE. -/
def liveTasks (func : Nat) (s : State) : Nat := s.sb.tasks.countP (fun e => taskFunc e.1 == func && e.1 != serialKey)

/-! ## Arbitration (R357, R359, R360) -/

/-- Room in a class's I/O queue of a connection. -/
def queueRoom (c : Conn) (cls : Nat) : Bool := decide (c.out.countP (fun e => e.2.cls == cls) < c.depth)

/-- The connection that a command's namespace lies on. -/
def taskConn (c : TaskCmd) (s : State) : Option Nat := (ns? c.ns s).map Ns.conn

/-- May a QUEUED command be picked now? -/
def pickable (k : Nat) (t : Task) (s : State) : Bool :=
  let f := taskFunc k
  t.phase == .queued && (decide (k ≥ serialKey) || (!(sbFunc f s).frozen && (sbFunc f s).sps == 0 && !(sbFunc f s).waking)) &&
  !s.sb.tasks.any (fun e => taskFunc e.1 == f && decide (e.2.order < t.order) && taskClash e.2.cmd t.cmd) &&
  (!isRw t.cmd || decide (k ≥ serialKey) || decide (passesOf (funcPart f s) s < ((part? (funcPart f s) s).map Part.passes).getD 0)) &&
  match (taskConn t.cmd s).bind (fun n => conn? n s) with
  | some c => queueRoom c (taskCls t.cmd)
  | none => true

/-- The next command of a class on a connection, round robin over functions. -/
def nextOf (conn cls : Nat) (c : Conn) (s : State) : Option Nat :=
  let l := s.sb.tasks.filter (fun e => taskConn e.2.cmd s == some conn && taskCls e.2.cmd == cls && pickable e.1 e.2 s)
  let best := fun (fs : List (Nat × Task)) => fs.foldl (fun (a : Option (Nat × Task)) e => match a with
    | none => some e
    | some b => if taskFunc e.1 < taskFunc b.1 ∨ (taskFunc e.1 = taskFunc b.1 ∧ e.2.order < b.2.order) then some e else a) none
  let after := match tget c.last cls with
    | some f => l.filter (fun e => decide (taskFunc e.1 > f))
    | none => l
  (match best after with
    | some e => some e
    | none => best l).map Prod.fst

/-- One pass over high, medium, low from the class the round has reached. -/
def roundPick (conn : Nat) (c : Conn) (s : State) : List Nat → Option (Nat × Nat)
  | [] => none
  | i :: r =>
    match (if c.credits.getD i 0 > 0 then nextOf conn (i + 1) c s else none) with
    | some k => some (i, k)
    | none => roundPick conn c s r

/-- R360's pick: the command and the connection after it. -/
def pick (conn : Nat) (c : Conn) (s : State) : Option (Nat × Conn) :=
  match nextOf conn 0 c s with
  | some k => some (k, { c with last := tset c.last 0 (taskFunc k) })
  | none =>
    let take := fun (c : Conn) (p : Nat × Nat) =>
      (p.2, { c with credits := c.credits.set p.1 (c.credits.getD p.1 0 - 1), reached := p.1, last := tset c.last (p.1 + 1) (taskFunc p.2) })
    match roundPick conn c s ((List.range 3).filter (fun i => decide (c.reached ≤ i))) with
    | some p => some (take c p)
    | none =>
      let c2 := { c with credits := s.sb.weights, reached := 0 }
      (roundPick conn c2 s [0, 1, 2]).map (take c2)

/-! ## Completion (R358, R362, R363) -/

def nextErrSeq (n : Nat) : Nat := if n ≥ 0xFFFFFFFF then 1 else n + 1

/-- Adds an entry to a function's error log, which keeps the last 64 (R363). -/
def logError (func : Nat) (e : ErrEnt) (freeze : Bool) (s : State) : State :=
  modSbFunc func (fun f =>
    let l := f.log ++ [e]
    let gone := l.take (l.length - 64)
    { f with errSeq := e.seq, log := l.drop (l.length - 64), frozen := f.frozen || freeze,
             lost := f.lost + gone.countP (fun g => decide (g.seq > f.readSeq)) }) s

/-- A packet of the serial port (Table 12-4). -/
def sbspPacket (type tag : Nat) (payload : List Byte) : List Byte :=
  let b := [0xA5, BitVec.ofNat 8 type] ++ leBytes 2 tag ++ leBytes 2 payload.length ++ [0, 0] ++ payload
  b ++ leBytes 4 (crc32c b)

def sbspSend (bs : List Byte) (s : State) : State := emit (.sbsp bs) (modSb (fun b => { b with lastSent := bs }) s)

def respPayload (code nvstat bytes seq : Nat) : List Byte :=
  [BitVec.ofNat 8 code, 0] ++ leBytes 2 nvstat ++ leBytes 4 bytes ++ leBytes 4 seq

/-- Writes a command's outcome: error log, slot with STATE last, counter, vector (R358, R362). A slot that a function's reset has
cleared meanwhile stays as it is (R444). -/
def completeTask (k code nvstat bytes : Nat) (freeze : Bool) (s : State) : State :=
  match task? k s with
  | none => s
  | some t =>
    if k ≥ 2 ^ 17 then
      modSb (fun b => { b with tasks := tdel b.tasks k, ckDone := b.ckDone ++ [(k - 2 ^ 17, code, t.data)] }) s
    else
    let f := taskFunc k
    let serial := k == serialKey
    let seq := if code = 0 then 0 else nextErrSeq (sbFunc f s).errSeq
    let s1 := modSb (fun b => { b with tasks := tdel b.tasks k }) s
    let s2 := if code = 0 then s1 else sbCount k 1 1 (logError f
      { seq := seq, slot := taskSlot k, opc := t.cmd.opc, code := code, ns := t.cmd.ns, nvstat := nvstat, nblk := t.cmd.nblk,
        lba := t.cmd.lba, time := s.chip.lcount } (freeze && !serial) s1)
    let s3 := sbCount k 0 1 (sbCount k 2 (if t.cmd.opc = 1 then bytes else 0) (sbCount k 3 (if t.cmd.opc = 2 then bytes else 0) s2))
    if serial then
      match s3.sb.serial with
      | some r => sbspSend (sbspPacket 4 r.tag (respPayload code nvstat bytes seq)) (modSb (fun b => { b with serial := none }) s3)
      | none => s3
    else if (slotRegs k s3).state = 0 then s3
    else
      let s4 := modSlotRegs k (fun g => { g with state := 3, code := code, nvstat := nvstat, bytes := bytes, errSeq := seq }) s3
      let s5 := tallyAdd (funcPart f s4) t.cmd.tally 1 s4
      if bitOf 3 t.cmd.ctlf.toNat then msix f t.cmd.vec s5 else s5

/-- The outcome of a command is known: its pass is revoked, and it completes once that has drained and its data is visible
(R358). -/
def closeTask (k code nvstat : Nat) (s : State) : State :=
  match task? k s with
  | none => s
  | some t =>
    let own := (s.xl.xfers.filter (fun e => e.2.owner.kind == .task && e.2.owner.a == k)).map Prod.fst
    let s1 := own.foldl (fun u x => endXfer x Config.ccFlushed u)
      (modTask k (fun t => { t with phase := .closing, code := code, nvstat := nvstat }) s)
    match t.pass with
    | some i => beginRevoke i none s1
    | none => s1

/-- Whether a task's pass is free and no transfer moves data for it. -/
def passClear (p : Option Nat) (s : State) : Bool :=
  match p with
  | some i => (pass? i s).all (fun p => p.pstate == .free) && !s.xl.xfers.any (fun x => x.2.owner.c == i + 1)
  | none => true

/-- Completes one closing command whose pass has drained and whose data is visible. -/
def settleTask (k : Nat) (x : Task) (s : State) : State :=
  if x.phase = .closing then
    let u := match x.pass with
      | some i => tryDrain i s
      | none => s
    if passClear x.pass u then completeTask k x.code x.nvstat x.bytes true u else u
  else s

/-- Completes the closing commands whose pass has drained and whose data is visible. -/
def closeTasks (s : State) : State := s.sb.tasks.foldl (fun t e => settleTask e.1 e.2 t) s

/-! ## Commands at a target (R351, R361) -/

/-- A command of the NVMe I/O set with a keyed buffer. -/
def nvmeCmd (opc cid nsid addr len key lba w12 : Nat) : List Byte :=
  leBytes 1 opc ++ [0x40] ++ leBytes 2 cid ++ leBytes 4 nsid ++ leBytes 16 0 ++ leBytes 8 addr ++ leBytes 3 len ++ leBytes 4 key
    ++ [0x40] ++ leBytes 8 lba ++ leBytes 4 w12 ++ leBytes 12 0

/-- NVMe opcode of a task's OPC. -/
def nvmeOpc : Nat → Nat
  | 1 => 0x02
  | 2 => 0x01
  | 3 => 0x00
  | 4 => 0x08
  | _ => 0x09

/-- Bytes of the capsule of one target command of `n` blocks from block `lba`. -/
def capsule (cid : Nat) (ns : Ns) (c : TaskCmd) (key off lba n : Nat) : List Byte :=
  let w := if c.opc = 3 then 0 else n - 1 + (if bitOf 2 c.ctlf.toNat then 2 ^ 30 else 0)
  if c.opc = 5 then
    nvmeCmd 0x09 cid ns.nsid 0 16 0 0 0 ++ leBytes 4 0 ++ leBytes 4 n ++ leBytes 8 lba
  else nvmeCmd (nvmeOpc c.opc) cid ns.nsid (if isRw c then c.addr + off else 0) (if isRw c then n * ns.bs else 0) key lba w

/-- Blocks of the next target command of a task: a WRITE is cut at 256 KiB in LBA space (R361). -/
def nextPiece (ns : Ns) (t : Task) : Nat :=
  let left := t.cmd.nblk - t.sentBlk
  if t.cmd.opc = 2 then
    if t.cmd.nblk * ns.bs ≤ 262144 then left
    else min left (262144 / max 1 ns.bs - (t.cmd.lba + t.sentBlk) % (262144 / max 1 ns.bs))
  else min left 65536

/-- Sends one command on a class's queue, with a new command identifier. -/
def sendTarget (conn cls : Nat) (owner : CidOwner) (blocks : Nat) (bytes : Nat → List Byte) (s : State) : State :=
  match conn? conn s with
  | none => s
  | some c =>
    let cid := (lowestFree (tkeys c.out) 0 65536).getD 0
    qpMessage (c.io.getD cls 0) (bytes cid) (modConn conn (fun c => { c with
      out := tset c.out cid { owner := owner, cls := cls, blocks := blocks } }) s)

/-- Commands of a task outstanding at its target. -/
def outstanding (k : Nat) (c : Conn) : Nat := c.out.countP (fun e => match e.2.owner with
  | .task f i => taskKey f i == k
  | .serial => k == serialKey
  | .ckpt j => ckKey j == k
  | _ => false)

def cidOwner (k : Nat) : CidOwner := if k = serialKey then .serial else if k ≥ 2 ^ 17 then .ckpt (k - 2 ^ 17) else .task (taskFunc k) (taskSlot k)

/-- Hands a task's commands to its target while its queue has room; ends it once all are answered. -/
def pumpTask (k : Nat) : Nat → State → State
  | 0, s => s
  | fuel + 1, s =>
    match task? k s with
    | none => s
    | some t =>
      match ns? t.cmd.ns s with
      | none => closeTask k Config.ccProtection 0 s
      | some ns =>
        match conn? ns.conn s with
        | none => s
        | some c =>
          if !c.online then closeTask k Config.ccFenced 0 s
          else
            let more := t.code == 0 && (if t.cmd.opc = 3 then t.sentBlk == 0 && t.doneBlk == 0 && outstanding k c == 0 else decide (t.sentBlk < t.cmd.nblk))
            if more then
              if !queueRoom c (taskCls t.cmd) then s
              else
                let n := if t.cmd.opc = 3 then 0 else nextPiece ns t
                let key := (t.pass.bind (fun i => (pass? i s).map (fun p => i * 256 + p.gen))).getD 0
                pumpTask k fuel (sendTarget ns.conn (taskCls t.cmd) (cidOwner k) n
                  (fun cid => capsule cid ns t.cmd key (t.sentBlk * ns.bs) (t.cmd.lba + t.sentBlk) n ++
                    if k ≥ serialKey ∧ t.cmd.opc = 2 then (t.data.drop (t.sentBlk * ns.bs)).take (n * ns.bs) else [])
                  (modTask k (fun t => { t with phase := .sent, sentBlk := t.sentBlk + n }) s))
            else if t.phase = .sent ∧ outstanding k c = 0 then
              if k = serialKey ∧ t.cmd.opc = 1 ∧ t.code = 0 then
                modSb (fun b => { b with serial := b.serial.map (fun r => { r with ready := true, data := t.data }) }) s
              else closeTask k t.code t.nvstat s
            else s

def pumpFuel (k : Nat) (s : State) : Nat := ((task? k s).map (fun t => t.cmd.nblk)).getD 0 + 2

/-! ## Read cache (R354) -/

/-- 64 KiB lines of a namespace that a command needs. -/
def linesOf (ns : Ns) (c : TaskCmd) : List Nat :=
  let lo := c.lba * ns.bs / 65536
  let hi := (c.lba + max 1 c.nblk - 1) * ns.bs / 65536
  (List.range (hi + 1 - lo)).map (· + lo)

/-- An active command that modifies the namespace overlaps a line: it is not filled. -/
def lineLocked (h : Nat) (ns : Ns) (line : Nat) (s : State) : Bool :=
  s.sb.tasks.any (fun e => e.2.cmd.ns == h && isMod e.2.cmd && e.2.phase != .queued &&
    overlap (e.2.cmd.lba * ns.bs) (e.2.cmd.nblk * ns.bs) (line * 65536) 65536)

/-- Takes the lines that a modifying command overlaps out of the cache; a fill of one that is outstanding is not kept. -/
def dropLines (c : TaskCmd) (s : State) : State :=
  match ns? c.ns s with
  | none => s
  | some ns =>
    let hit := fun (l : Nat) => overlap (c.lba * ns.bs) (c.nblk * ns.bs) (l * 65536) 65536
    modSb (fun b => { b with tasks := b.tasks.map (fun (e : Nat × Task) =>
        (e.1, if e.2.cmd.ns = c.ns then { e.2 with stale := e.2.stale ++ e.2.asked.filter hit } else e.2)) })
      (modNs c.ns (fun ns => { ns with lines := ns.lines.filter (fun l => !hit l.1) }) s)

/-- Puts a line into the cache, replacing the least recently used one. -/
def putLine (h line part : Nat) (data : List Byte) (s : State) : State :=
  match ns? h s with
  | some ns =>
    match ns.cache with
    | none => s
    | some (base, size) =>
      let keep := (ns.lines.filter (fun l => l.1 != line)).take (size / 65536 - 1)
      match lowestFree (keep.map Prod.snd) 0 (size / 65536) with
      | none => s
      | some i =>
        match writeSpan part [] (lineFuel 65536) ⟨spCxl, base + i * 65536⟩ (data.take 65536) s with
        | .ok _ t => modNs h (fun n => { n with lines := (line, i) :: keep }) t
        | .stop _ t => t
  | none => s

/-- Bytes of a READ from the cache; none where a line is gone or uncorrectable (R358). -/
def cachedBytes (part base : Nat) (ns : Ns) (c : TaskCmd) (s : State) : Option (List Byte) × State :=
  let r := (linesOf ns c).foldl (fun (a : Option (List Byte) × State) l =>
    match a.1, ns.lines.find? (fun e => e.1 == l) with
    | some bs, some e =>
      match readSpan part [] (lineFuel 65536) ⟨spCxl, base + e.2 * 65536⟩ 65536 a.2 with
      | .ok got t => (some (bs ++ got), t)
      | .stop _ t => (none, t)
    | _, _ => (none, a.2)) (some [], s)
  (r.1.map (fun bs => (bs.drop (c.lba * ns.bs % 65536)).take (c.nblk * ns.bs)), r.2)

/-- Marks lines as the most recently used. -/
def touchLines (ls : List Nat) (ns : Ns) : Ns :=
  { ns with lines := (ns.lines.filter (fun l => ls.contains l.1)) ++ ns.lines.filter (fun l => !ls.contains l.1) }

def taskOwner (k b : Nat) : Owner := { kind := .task, a := k, b := b, c := 0 }

/-- Serves a READ from the cache, or, where that fails, from the target. -/
def serveCached (k : Nat) (t : Task) (ns : Ns) (base : Nat) (s : State) : State :=
  let f := taskFunc k
  match cachedBytes (funcPart f s) base ns t.cmd s with
  | (none, u) => pumpTask k (pumpFuel k u) u
  | (some bs, u) =>
    let r := startXfer (Xfer.mk' (funcPart f s) 3 0 (f * 256 + taskSlot k) (taskOwner k 1) true (Rows.flat t.cmd.addr bs.length) bs)
      (modNs t.cmd.ns (touchLines (linesOf ns t.cmd)) u)
    modTask k (fun t => { t with phase := .copying r.1, bytes := bs.length }) r.2

/-- Asks for the missing lines of a READ while its queue has room. -/
def pumpFill (k : Nat) : Nat → State → State
  | 0, s => s
  | fuel + 1, s =>
    match task? k s with
    | none => s
    | some t =>
      match ns? t.cmd.ns s with
      | none => s
      | some ns =>
        match conn? ns.conn s, t.missing with
        | some c, l :: rest =>
          if !c.online then closeTask k Config.ccFenced 0 s
          else if !queueRoom c (taskCls t.cmd) then s
          else
            let n := 65536 / max 1 ns.bs
            pumpFill k fuel (sendTarget ns.conn (taskCls t.cmd) (.fill (taskFunc k) (taskSlot k) l) n
              (fun cid => nvmeCmd 0x02 cid ns.nsid 0 (n * ns.bs) 0 (l * n) (n - 1))
              (modTask k (fun t => { t with phase := .filling, missing := rest, asked := t.asked ++ [l] }) s))
        | _, _ => s

/-- The buffer of a READ or WRITE is translated (R357): it is served from the cache, by filling lines, or by the target. -/
def dispatchTask (k : Nat) (s : State) : State :=
  match task? k s with
  | none => s
  | some t =>
    match ns? t.cmd.ns s with
    | none => closeTask k Config.ccProtection 0 s
    | some ns =>
      match ns.cache with
      | some (base, _) =>
        let ls := linesOf ns t.cmd
        if t.cmd.opc ≠ 1 ∨ t.cmd.nblk * ns.bs > 2 ^ 20 then pumpTask k (pumpFuel k s) s
        else
          let miss := ls.filter (fun l => !ns.lines.any (fun e => e.1 == l))
          if miss.isEmpty then serveCached k t ns base (sbCount k 4 1 s)
          else if miss.any (fun l => lineLocked t.cmd.ns ns l s) then pumpTask k (pumpFuel k s) s
          else pumpFill k (miss.length + 1) (modTask k (fun t => { t with missing := miss, phase := .filling }) s)
      | none => pumpTask k (pumpFuel k s) s

/-- A picked command becomes ACTIVE: it is checked, its pass issued and its buffer translated (R356, R357). -/
def startTask (k : Nat) (s : State) : State :=
  match task? k s with
  | none => s
  | some t =>
    let f := taskFunc k
    let s1 := if k ≥ serialKey then s else modSlotRegs k (fun g => { g with state := 2 }) s
    let bad := taskBad k t.cmd s
    if bad ≠ 0 then completeTask k bad 0 0 true s1
    else match ns? t.cmd.ns s1 with
      | none => completeTask k Config.ccProtection 0 0 true s1
      | some ns =>
        match conn? ns.conn s1 with
        | none => completeTask k Config.ccFenced 0 0 true s1
        | some c =>
          if !c.online then completeTask k Config.ccFenced 0 0 true s1
          else
            let s2 := if isMod t.cmd then dropLines t.cmd s1 else s1
            if !isRw t.cmd || decide (k ≥ serialKey) then pumpTask k (pumpFuel k s2) s2
            else
              let part := funcPart f s2
              let n := t.cmd.nblk * ns.bs
              match issuePass part (if t.cmd.opc = 1 then 2 else 1) (2 ^ 31 + c.io.getD (taskCls t.cmd) 0) t.cmd.addr n 0xFFFF s2 with
              | none => completeTask k Config.ccProtection 0 0 true s2
              | some (key, s3) =>
                let r := startXfer { Xfer.mk' part 3 0 (f * 256 + taskSlot k) (taskOwner k 0) (t.cmd.opc == 1)
                  (Rows.flat t.cmd.addr n) [] with probe := true } s3
                modTask k (fun t => { t with pass := some (key / 256), phase := .probing r.1 }) r.2

/-- A transfer of a task has ended: its buffer's translation, or the copy out of the cache. -/
def taskXferDone (k b code : Nat) (s : State) : State :=
  match task? k s with
  | none => s
  | some t =>
    match t.phase with
    | .closing => s
    | _ =>
      if code ≠ 0 then closeTask k code 0 (modTask k (fun t => { t with bytes := 0 }) s)
      else if b = 0 then dispatchTask k s
      else closeTask k 0 0 s

/-! ## Responses of targets (R358) -/

/-- A command identifier is free again, and what waits for room goes on. -/
def kickConn (conn : Nat) (s : State) : State :=
  (s.sb.tasks.filter (fun e => taskConn e.2.cmd s == some conn)).foldl (fun t e =>
    match (task? e.1 t).map Task.phase with
    | some .sent => pumpTask e.1 (pumpFuel e.1 t) t
    | some .filling => pumpFill e.1 (((task? e.1 t).map (fun x => x.missing.length)).getD 0 + 1) t
    | _ => t) s

/-- A target has answered a task's command. -/
def taskResponse (k status blocks bs : Nat) (data : List Byte) (s : State) : State :=
  let s1 := if status = 0 then
      modTask k (fun t => { t with data := if k ≥ serialKey ∧ t.cmd.opc = 1 then t.data ++ data.take (blocks * bs) else t.data, doneBlk := t.doneBlk + blocks + (if t.cmd.opc = 3 then 1 else 0),
                                   bytes := if isRw t.cmd then t.bytes + blocks * bs else t.bytes }) s
    else modTask k (fun t => { t with code := Config.ccRemoteOp, nvstat := status }) s
  pumpTask k (pumpFuel k s1) s1

/-- A target has answered a fill: the line is kept unless a command that modifies it runs (R354). -/
def fillResponse (k line status : Nat) (data : List Byte) (s : State) : State :=
  match task? k s with
  | none => s
  | some t =>
    let s1 := modTask k (fun t => { t with asked := t.asked.filter (· != line), stale := t.stale.filter (· != line) }) s
    if status ≠ 0 then closeTask k Config.ccRemoteOp status s1
    else match ns? t.cmd.ns s1 with
      | none => s1
      | some ns =>
        let u := if lineLocked t.cmd.ns ns line s1 || t.stale.contains line then s1 else putLine t.cmd.ns line (taskPart k s1) data s1
        let s2 := if (ns? t.cmd.ns u).any (fun m => m.lines.any (fun e => e.1 == line)) then sbCount k 5 1 u else u
        match task? k s2, ns? t.cmd.ns s2 with
        | some u, some m =>
          if u.phase = .filling ∧ u.missing.isEmpty ∧ u.asked.isEmpty then serveCached k u m ((m.cache.map Prod.fst).getD 0) s2 else s2
        | _, _ => s2

/-- A connection is lost (R353): commands in flight end with 0x09 and its namespaces are OFFLINE. -/
def loseConn (n : Nat) (s : State) : State :=
  match conn? n s with
  | none => s
  | some c =>
    let s1 := modConn n (fun c => { c with online := false, out := [] }) s
    let s2 := (s1.sb.tasks.filter (fun e => taskConn e.2.cmd s1 == some n)).foldl (fun t e =>
      match e.2.phase with
      | .queued => t
      | .closing => t
      | _ => closeTask e.1 Config.ccFenced 0 t) s1
    (c.admin :: c.io).foldl (fun t q => toError q Config.ccFenced 0 0 true t) s2

/-- Connections whose queue pairs have left RTS, into ERROR or otherwise, are lost (R353). -/
def watchConns (s : State) : State :=
  s.sb.conns.foldl (fun t e =>
    if e.2.online && (e.2.admin :: e.2.io).any (fun q => !((qp? q t).any (fun x => x.qstate == .rts))) then loseConn e.1 t else t) s

/-! ## Serial mode (R366, R367) -/

/-- A well-formed packet: SYNC, length and CRC. -/
def sbspOk (bs : List Byte) : Bool :=
  bs.getD 0 0 == 0xA5 && decide (bs.length ≥ 12) && bs.length == 12 + leNat ((bs.drop 4).take 2) &&
  leNat (bs.drop (bs.length - 4)) == crc32c (bs.take (bs.length - 4))

def sbspTag (bs : List Byte) : Nat := leNat ((bs.drop 2).take 2)
def sbspType (bs : List Byte) : Nat := (bs.getD 1 0).toNat
def sbspBody (bs : List Byte) : List Byte := (bs.drop 8).take (bs.length - 12)

/-- Answers a packet that does not check with NAK, if its TAG can be read. -/
def sbspNakFor (bs : List Byte) (s : State) : State :=
  if bs.length ≥ 4 then emit (.sbsp (sbspPacket 5 (sbspTag bs) [])) s else s

/-- Total bytes of a serial command's data. -/
def serialBytes (c : TaskCmd) (s : State) : Nat := if isRw c then c.nblk * ((ns? c.ns s).map Ns.bs).getD 0 else 0

/-- Grants the next range of a serial WRITE (R367). -/
def grantSerial (s : State) : State :=
  match s.sb.serial with
  | none => s
  | some r =>
    let left := serialBytes r.cmd s - r.data.length
    let n := min 65536 left
    sbspSend (sbspPacket 2 r.tag (leBytes 8 r.data.length ++ leBytes 4 n))
      (modSb (fun b => { b with serial := some { r with grant := some (r.data.length, n) } }) s)

/-- DATA packets of a granted range of a READ. -/
def serialData (tag : Nat) : Nat → List Byte → State → State
  | 0, _, s => s
  | fuel + 1, bs, s =>
    if bs.isEmpty then s else serialData tag fuel (bs.drop 4096) (sbspSend (sbspPacket 3 tag (bs.take 4096)) s)

/-- Answers a host's XFER_RDY once the target's data is there; the last byte is followed by RESP. -/
def answerXferRdy (s : State) : State :=
  match s.sb.serial with
  | none => s
  | some r =>
    match r.grant with
    | some (o, n) =>
      if !r.ready then s
      else
        let bs := (r.data.drop o).take n
        let s1 := serialData r.tag (bs.length / 4096 + 2) bs (modSb (fun b => { b with serial := some { r with grant := none, sent := r.sent + bs.length } }) s)
        if r.sent + bs.length ≥ serialBytes r.cmd s then closeTask serialKey 0 0 s1 else s1
    | none => s

/-- Ends the serial command with a code. -/
def endSerial (code : Nat) (s : State) : State := closeTasks (closeTask serialKey code 0 s)

end Sys2Proof.Machine
end

