-- ==== Sys2Proof/Machine/SliceOps.lean ====
section
/-! DEFINITION. Time slicing of groups (03): what a slice-out saves, placement of waiting groups, restore (R100 to R104). -/

namespace Sys2Proof.Machine

open Sys2Proof


/-- Bytes of a save area for one tile: SRAM, IMEM and 64 KiB of state (R104). -/
def tileSave : Nat := 10813440
/-- A save area: one slot (R104). -/
def saveBytes : Nat := 86507520

/-- Base of a slot's save area in GDDR7. -/
def saveArea (part slot : Nat) (s : State) : Option Nat :=
  (s.tiers.reserves.find? (fun r => r.use == .saveArea part slot)).map Reserve.base

/-! ## Abandoning DMA (R103 step 2) -/

/-- Does a transfer belong to the tiles of a partition's group? -/
def groupXfer (part : Nat) (f : Xfer) : Bool :=
  f.part == part && (f.owner.kind == .tileDma || f.owner.kind == .stream || f.owner.kind == .image)

/-- Data of it is on the way, or its visibility is outstanding. -/
def underway (f : Xfer) : Bool :=
  match f.st with
  | .moving => true
  | .settling => true
  | _ => false

/-- A transfer that waits is abandoned; it is replayed whole after the restore. -/
def abandonXfer (f : Xfer) : Xfer :=
  match f.st with
  | .done _ => f
  | _ => { f with pos := 0, got := [], todo := [], inner := true, st := .held .sliced, data := if f.write then f.data else [] }

/-- Abandons what waits of a group's DMA, with the faults it stalled on. -/
def abandonDma (part : Nat) (s : State) : State :=
  let tags := s.xl.xfers.filterMap (fun e => if groupXfer part e.2 then (match e.2.st with
    | .stalled t => some t
    | _ => none) else none)
  let s1 := { s with xl := { s.xl with
      xfers := s.xl.xfers.map (fun e => if groupXfer part e.2 && !underway e.2 then (e.1, abandonXfer e.2) else e) } }
  tags.foldl (fun t g => dropFault part g t) s1

/-! ## The 64 KiB part of a tile's save area (R104, R111) -/

/-- A FIFO in 8 KiB, zeros behind what it holds. -/
def fifoBytes (x : Tile) (f : Nat) : List Byte := (tgetD x.fifos f [] ++ List.replicate 8192 0).take 8192

/-- The 64 bytes of registers in the order of Table 4-2. -/
def tileRegBytes (x : Tile) : List Byte :=
  let q := x.mseq.getD { syl := 0, steps := 0, act := 0, wt := 0, spa := 0, spw := 0 }
  leBytes 4 x.ix.toNat ++ leBytes 4 x.iy.toNat ++ leBytes 4 (x.pc % 65536) ++ leBytes 4 (x.tstate.code + 16 * x.rstack.length) ++
  (List.range 4).flatMap (fun i => leBytes 2 (x.rstack.getD i 0)) ++
  leBytes 4 x.mspa.toNat ++ leBytes 4 x.mspw.toNat ++ leBytes 4 x.vslp.toNat ++ leBytes 4 x.vssp.toNat ++ leBytes 4 x.srgen.toNat ++
  leBytes 4 x.tsel ++ leBytes 4 q.syl ++ leBytes 2 q.steps ++ leBytes 4 q.act ++ leBytes 4 q.wt ++ [0, 0]

/-- ACC, input FIFOs and registers: 41,024 bytes. -/
def smallBytes (x : Tile) : List Byte :=
  (List.range 2048).flatMap (fun k => leBytes 4 (tgetD x.acc k 0).toNat) ++ (List.range 4).flatMap (fifoBytes x) ++ tileRegBytes x

def TState.ofCode : Nat → TState
  | 1 => .run
  | 2 => .stalled
  | 3 => .stopped
  | 4 => .exception
  | _ => .idle

def fieldOf (bs : List Byte) (o k : Nat) : Nat := leNat ((bs.drop o).take k)
def word32At (bs : List Byte) (o : Nat) : Word := BitVec.ofNat 32 (fieldOf bs o 4)

/-- An M sequence from its 16 bytes. Its scale addresses are no part of them: they follow from the scale pointers, which were
advanced at issue (R128). -/
def seqOf (bs : List Byte) (mspa mspw : Nat) : Option MSeq :=
  let w := fieldOf bs 0 4
  let n := fieldOf bs 4 2
  if w = 0 then none
  else some { syl := w, steps := n, act := fieldOf bs 6 4, wt := fieldOf bs 10 4, spa := (mspa + 2 ^ 32 - 2 * n) % 2 ^ 32,
              spw := (mspw + 2 ^ 32 - n) % 2 ^ 32 }

/-- A tile with its registers read back. An index one past IMEM and the scale addresses of a sequence stay as they were. -/
def withRegs (bs : List Byte) (x : Tile) : Tile :=
  let ts := fieldOf bs 12 4
  let q := seqOf (bs.drop 48) (fieldOf bs 24 4) (fieldOf bs 28 4)
  { x with
    ix := word32At bs 0, iy := word32At bs 4, pc := if x.pc > 65535 then x.pc else fieldOf bs 8 4, tstate := TState.ofCode (ts % 16),
    rstack := (List.range (ts / 16 % 8)).map (fun i => fieldOf bs (16 + 2 * i) 2), mspa := word32At bs 24, mspw := word32At bs 28,
    vslp := word32At bs 32, vssp := word32At bs 36, srgen := word32At bs 40, tsel := fieldOf bs 44 4,
    mseq := q.map (fun q => match x.mseq with
      | some o => { q with spa := o.spa, spw := o.spw }
      | none => q) }

/-- A tile with the 64 KiB part read back; each FIFO has the length that it had. -/
def withSmall (bs : List Byte) (x : Tile) : Tile :=
  let y := withRegs (bs.drop 40960) x
  { y with
    acc := (List.range 2048).filterMap (fun k => if word32At bs (4 * k) = 0 then none else some (k, word32At bs (4 * k))),
    fifos := (List.range 4).foldl (fun t f => tset t f ((bs.drop (8192 + 8192 * f)).take (tgetD x.fifos f []).length)) y.fifos }

/-! ## Saving (R103, Table 3-5) -/

/-- What the clean regions of a slot's tile cover is not saved. -/
def cleanOf (st : SlotSt) (rel : Nat) : List Region :=
  (st.regions.filter (fun r => r.clean && r.region.tile == rel)).map Loaded.region

/-- Ranges without what one range covers. -/
def cutOut (c : Nat × Nat) (l : List (Nat × Nat)) : List (Nat × Nat) :=
  l.flatMap (fun r =>
    if overlap r.1 r.2 c.1 c.2 then
      (if r.1 < c.1 then [(r.1, c.1 - r.1)] else []) ++
      (if c.1 + c.2 < r.1 + r.2 then [(c.1 + c.2, r.1 + r.2 - (c.1 + c.2))] else [])
    else [r])

/-- Ranges of a tile's SRAM that are saved: dirty regions and unloaded space. -/
def savedSram (st : SlotSt) (rel : Nat) : List (Nat × Nat) :=
  (((cleanOf st rel).filter (fun r => r.kind != .program)).flatMap regionRanges).foldl (fun l c => cutOut c l) [(0, tileSram)]

/-- Ranges of its IMEM that are saved: dirty program regions. What no program region covers is not kept: it reads 0 after a
restore (log 75). -/
def savedImem (st : SlotSt) (rel : Nat) : List (Nat × Nat) :=
  (st.regions.filter (fun r => !r.clean && r.region.kind == .program && r.region.tile == rel)).map (fun r => (r.region.dest, r.region.length))

/-- Copies ranges that start at two keys. -/
def copyRanges (m : List Host.Cell) (src dst : Nat) (l : List (Nat × Nat)) : List Host.Cell :=
  l.foldl (fun m r => copyRange m (src + r.1) (dst + r.1) r.2) m

/-- Accesses to ranges of GDDR7 behind an address, for the check caches (R144). -/
def checkRanges (write : Bool) (a : Nat) (l : List (Nat × Nat)) (s : State) : State :=
  l.foldl (fun t r => checkSpan write ((r.2 + 511) / 512) ⟨spGddr, a + r.1⟩ t) s

/-- A tile as saved: what it waits on is reissued after the restore. -/
def savedTile (x : Tile) : Tile :=
  { x with waiting := false, tstate := if x.tstate = .stalled then .run else x.tstate }

/-- Writes a tile's part of a save area at a GDDR7 address. -/
def fillArea (st : SlotSt) (rel t a : Nat) (x : Tile) (m : List Host.Cell) : List Host.Cell :=
  let b := mkey spGddr (a + rel * tileSave)
  let m1 := copyRanges m (mkey (spTile t) 0) b (savedSram st rel)
  mwrN (copyRanges m1 (mkey (spImem t) 0) (b + tileSram) (savedImem st rel)) (b + tileSram + tileImem) (smallBytes x)

/-- Saves one tile of a slot. What the 64 KiB part does not hold (log 75) is kept beside it. -/
def saveTile (part slot rel t : Nat) (s : State) : State :=
  let x := savedTile (tile? t s)
  let s1 := match saveArea part slot s, slotSt? part slot s with
    | some a, some st =>
      checkSpan true ((41024 + 511) / 512) ⟨spGddr, a + rel * tileSave + tileSram + tileImem⟩
        (checkRanges true (a + rel * tileSave + tileSram) (savedImem st rel)
          (checkRanges true (a + rel * tileSave) (savedSram st rel) { s with mem := fillArea st rel t a x s.mem }))
    | _, _ => s
  match group? part s1 with
  | some g => modTile t (fun _ => Tile.fresh) (setGroup part { g with saved := tset g.saved (slot * 8 + rel) x } s1)
  | none => s1

/-- A slot's state once sliced out (Table 3-4). -/
def slicedState : WState → WState
  | .resident => .saved
  | w => w

/-- Saves a group whose DMA and output FIFOs have drained. -/
def saveGroup (part : Nat) (g : Group) (s : State) : State :=
  let s2 := (tkeys g.slots).foldl (fun u i =>
    (List.range 8).foldl (fun v rel => saveTile part i rel (benchOf g i * 8 + rel) v) u) (wakeFor 1 s)
  match group? part s2 with
  | some h => setGroup part { h with
      phase := .waiting, slots := h.slots.map (fun e => (e.1, { e.2 with wstate := slicedState e.2.wstate })) } s2
  | none => s2

/-! ## Placement and restore (R100 to R103) -/

/-- Is a bench free, and not being reset alone (R496)? -/
def benchFree (b : Nat) (s : State) : Bool :=
  !s.ti.groups.any (fun e => (benchesOf e.2).contains b) && !s.chip.blockRsts.any (fun r => r.kind == 1 && r.index == b)

/-- The lowest bench at which a run of `n` benches is free. -/
def freeRun (n : Nat) (s : State) : Option Nat :=
  (List.range 16).find? (fun b => (List.range n).all (fun i => benchFree ((b + i) % 16) s))

/-- Partitions that hold a group, in rotation behind one. -/
def rotation (part : Nat) (s : State) : List Nat :=
  let ks := tkeys s.ti.groups
  ks.filter (fun k => decide (part < k)) ++ ks.filter (fun k => decide (k ≤ part))

/-- Starts the restore of the waiting groups that fit, in rotation behind a partition (R101). -/
def placeWaiting (part : Nat) (s : State) : State :=
  (rotation part s).foldl (fun u p =>
    match group? p u with
    | some g =>
      if g.phase = .waiting ∧ !g.slots.isEmpty then
        match freeRun g.slots.length u with
        | some b => setGroup p { g with first := b, phase := .restoring } u
        | none => u
      else u
    | none => u) s

/-- A GDDR7 channel retrains: the save areas, which lie over every channel, are held (R163). -/
def areasHeld (s : State) : Bool := s.tiers.chans.any (fun e => e.2.cstate == .retraining)

/-- Steps 2 and 3 of a slice-out as far as they go now: DMA that waits is abandoned, output FIFOs move to their sinks. -/
def drainGroup (part : Nat) (s : State) : State := kickStreams (abandonDma part s)

/-- Steps 2 and 3 are done, and the save areas can be written. -/
def groupDrained (part : Nat) (s : State) : Bool :=
  !s.xl.xfers.any (fun e => groupXfer part e.2 && (underway e.2 || e.2.st == .ready)) &&
  !s.ti.binds.any (fun e => e.2.part == part && canDrain e.2 s) && !areasHeld s

/-- A group being saved leaves its benches once its DMA and output FIFOs have drained, and waiting groups are placed (R103). -/
def trySave (part : Nat) (s : State) : State :=
  match group? part s with
  | some g =>
    if g.phase = .saving then
      let s1 := drainGroup part s
      if groupDrained part s1 then placeWaiting part (saveGroup part ((group? part s1).getD g) s1) else s1
    else s
  | none => s

/-- Free bytes. -/
def freeBytes : Nat → State → List Byte × State
  | 0, s => ([], s)
  | n + 1, s =>
    let d := draw s
    let r := freeBytes n d.2
    (BitVec.ofNat 8 d.1.toNat :: r.1, r.2)

/-- Elements and scales of a clean region read from its source again (R93). The bytes of a source that cannot be read are free. -/
def regionAgain (part : Nat) (r : Region) (s : State) : List Byte × List Byte × State :=
  let rd := fun (a n : Nat) (u : State) => match fwRead part a (n / 65536 + 2) n u with
    | (some bs, v) => (bs, v)
    | (none, v) => freeBytes n v
  let d := rd r.src (regionSrc r) s
  let c := rd r.srcScale (regionScales r.srcFmt r) d.2
  let g := if r.srcFmt = cvtFmt r.cvt then (0, c.2) else seedGen 0 c.2
  let b := regionBytes r g.1 d.1 c.1
  (b.1, b.2.1, g.2)

/-- Restores a clean region from its source (R93, R103). -/
def restoreRegion (part t : Nat) (r : Region) (s : State) : State :=
  let b := regionAgain part r s
  writeRegion part t r b.1 b.2.1 b.2.2

/-- Where bytes at an address meet a 64-byte line, and those bytes. -/
def linePart (line a : Nat) (bs : List Byte) : Nat × List Byte :=
  let lo := max line a
  (lo, (bs.drop (lo - a)).take (min (line + 64) (a + bs.length) - lo))

/-- The cluster control core rewrites a line of a clean region from its source (R96). -/
def rewriteLine (s : State) (key : Nat) : State :=
  let p : Place := ⟨key / spaceSize, key % spaceSize⟩
  let s0 := { s with tiers := { s.tiers with rewrites := s.tiers.rewrites.filter (· != key) } }
  match cleanRegion p s with
  | none => s0
  | some (part, t, r) =>
    if !procUp (benchProc (t / 8)) s then s
    else
      let b := regionAgain part r s0
      let e := linePart p.addr r.dest b.1
      let c := linePart p.addr r.dstScale b.2.1
      wrMem p.space c.1 (if r.kind = .program then [] else c.2) (wrMem p.space e.1 e.2 b.2.2)

/-- Rewrites the lines of clean regions that await it. -/
def rewriteLines (s : State) : State := s.tiers.rewrites.foldl rewriteLine s

/-- The pages of a range of GDDR7 on OFFLINE channels hold free values (R164, log 129); whether there is one. -/
def spoilPages : Nat → Nat → State → Bool × State
  | 0, _, s => (false, s)
  | n + 1, a, s =>
    if (chan? (a / 4096 % 16) s).cstate = .offline then
      let b := freeBytes 4096 s
      (true, (spoilPages n (a + 4096) (wrMem spGddr a b.1 b.2)).2)
    else spoilPages n (a + 4096) s

/-- By-reference buffers of a restored tile move to the slab on which it stands now, at the same window addresses (log 126). -/
def moveBufs (t : Nat) (x : Tile) (m : List Host.Cell) : Tile × List Host.Cell :=
  ({ x with bufs := x.bufs.map (fun b => (b.1, { b.2 with slab := t / 32 })) },
   x.bufs.foldl (fun m b => if b.2.slab = t / 32 then m
     else copyRange m (mkey (spSlab b.2.slab) (b.1 - windowLo)) (mkey (spSlab (t / 32)) (b.1 - windowLo)) (round64 b.2.len)) m)

/-- Restores one tile of a slot from its save area; whether the area had lost bytes. -/
def restoreTile (part slot rel t : Nat) (s : State) : Bool × State :=
  let wiped := fun (u : State) => { u with mem := clearRange (clearRange u.mem (mkey (spTile t) 0) tileSram) (mkey (spImem t) 0) tileImem }
  let kept := tgetD (((group? part s).map Group.saved).getD []) (slot * 8 + rel) Tile.fresh
  match saveArea part slot s, slotSt? part slot s with
  | some a, some st =>
    let b := a + rel * tileSave
    let sp := spoilPages (tileSave / 4096) b (checkSpan false ((41024 + 511) / 512) ⟨spGddr, b + tileSram + tileImem⟩
      (checkRanges false (b + tileSram) (savedImem st rel) (checkRanges false b (savedSram st rel) s)))
    let s1 := wiped sp.2
    let m1 := copyRanges s1.mem (mkey spGddr b) (mkey (spTile t) 0) (savedSram st rel)
    let m2 := copyRanges m1 (mkey spGddr (b + tileSram)) (mkey (spImem t) 0) (savedImem st rel)
    let x := moveBufs t (withSmall (mrdN m2 (mkey spGddr (b + tileSram + tileImem)) 41024) kept) m2
    (sp.1, (cleanOf st rel).foldl (fun u r => restoreRegion part t r u) (modTile t (fun _ => x.1) { s1 with mem := x.2 }))
  | _, _ => (false, modTile t (fun _ => kept) (wiped s))

/-- A slot whose save area has lost bytes: the jobs on it end with 0x08 (R98, log 129). -/
def endLost (part slot : Nat) (s : State) : State :=
  (tkeys (s.ti.jobs.filter (fun e => e.2.part == part && e.2.ran && e.2.req.slots.any (fun r => r.slot == slot)))).foldl
    (fun u j => endJob j Config.ccData 0 u) s

/-- Restores one tile, and ends what its lost bytes end. -/
def restoreOne (part slot rel t : Nat) (s : State) : State :=
  let r := restoreTile part slot rel t s
  if r.1 then endLost part slot r.2 else r.2

/-- The slots of a restored group: SAVED becomes RESIDENT; a reload named meanwhile takes effect now (R95). -/
def restoreSlots (part : Nat) (g : Group) (s : State) : State :=
  (tkeys g.slots).foldl (fun u i =>
    let u1 := modSlot part i (fun st =>
      if st.wstate = .saved then { st with wstate := if st.staged.isEmpty then .resident else .reloadPending } else st) u
    let u2 := if (tget g.slots i).any (fun st => st.wstate == .saved && !st.staged.isEmpty) then applyReload part i u1 else u1
    startLoads part i u2) s

/-! ## Save areas (R104) -/

/-- Bench slots granted device-wide. -/
def slotsGranted (s : State) : Nat := s.parts.foldl (fun a e => a + e.2.slots) 0

def isSaveArea : ReserveUse → Bool
  | .saveArea _ _ => true
  | _ => false

def areaOf (part : Nat) : ReserveUse → Bool
  | .saveArea p _ => p == part
  | _ => false

/-- Takes a zeroed save area for each of some slots; none where the reserve cannot hold them. -/
def takeAreas (part : Nat) : List Nat → State → Option State
  | [], s => some s
  | i :: r, s =>
    if (saveArea part i s).isSome then takeAreas part r s
    else match reserve (.saveArea part i) saveBytes s with
      | none => none
      | some (b, t) => takeAreas part r { t with mem := clearRange t.mem (mkey spGddr b) saveBytes }

/-- Takes the areas of every unpinned group. -/
def takeAllAreas : List (Nat × Group) → State → Option State
  | [], s => some s
  | e :: r, s =>
    if e.2.pinned then takeAllAreas r s
    else match takeAreas e.1 (tkeys e.2.slots) s with
      | none => none
      | some t => takeAllAreas r t

/-- The areas are released when the total is 16 or below and every group is resident; those of pinned groups as soon as they
are resident. -/
def releaseAreas (s : State) : State :=
  let s1 := unreserve (fun u => s.ti.groups.any (fun e => e.2.pinned && e.2.phase == .resident && areaOf e.1 u)) s
  if slotsGranted s ≤ 16 ∧ s.ti.groups.all (fun e => e.2.phase == .resident) then unreserve isSaveArea s1 else s1

/-- A restore finishes: the group is resident, its quantum starts, its jobs and held accesses go on (R102, R103). -/
def restoreGroup (part : Nat) (g : Group) (s : State) : State :=
  let s0 := setGroup part { g with phase := .resident } (wakeFor 1 s)
  let s1 := (tkeys g.slots).foldl (fun u i =>
    (List.range 8).foldl (fun v rel => restoreOne part i rel (benchOf g i * 8 + rel) v) u) s0
  let s2 := match group? part s1 with
    | some h => setGroup part { h with quantumAt := s1.chip.lcount, saved := [] } s1
    | none => s1
  let s3 := restoreSlots part g s2
  let s4 := resumeHeld (fun w => w == .sliced) s3
  let s5 := (tkeys s4.ti.jobs).foldl (fun u j => resumeJbnd j u) (kickJobs s4)
  kickStreams s5

/-- Slices out the group whose quantum expired (R102, R103). A group without a waiting rival keeps its benches for another
quantum; a bench whose core is down holds its group (R99). -/
def quantumEnd (part : Nat) (s : State) : State :=
  match group? part s with
  | some g =>
    if g.phase ≠ .resident ∨ g.pinned then s
    else if !s.ti.groups.any (fun e => e.2.phase == .waiting && !e.2.slots.isEmpty) then
      setGroup part { g with quantumAt := s.chip.lcount } s
    else if (benchesOf g).any (fun b => benchDown b s) then s
    else trySave part (setGroup part { g with phase := .saving } s)
  | none => s

end Sys2Proof.Machine
end

