-- ==== Sys2Proof/Machine/TileExec.lean ====
section
/-! DEFINITION. A bundle of a tensor tile (04): evaluation of its slots on the state before it, stalls, exceptions, and its effects taken together. -/

namespace Sys2Proof.Machine

open Sys2Proof

/-! ## Data space (R77 to R79, R114) -/

/-- A window range lies in a buffer that the tile holds in its own slab (R78). -/
def bufReadable (t : Nat) (x : Tile) (ea n : Nat) : Bool :=
  x.bufs.any (fun b => b.2.slab == t / 32 && inside ea n b.1 (round64 b.2.len))

/-- Cause of an L, S or A access of `n` bytes. Whether an address lies in the map of R77 is asked of the address itself; the
window check goes before alignment (log 36). -/
def dsCause (t : Nat) (x : Tile) (write : Bool) (ea n : Nat) (s : State) : Nat :=
  if ea < localEnd then
    if ea % n ≠ 0 then excMisalign
    else if write && residentHit t (ea / 64 * 64) 64 s then excProtResident
    else 0
  else if windowLo ≤ ea ∧ ea < windowHi then
    if write ∨ !bufReadable t x (ea / n * n) n then excProtWindow
    else if ea % n ≠ 0 then excMisalign
    else 0
  else excProtAddr

/-- Where a data-space address lies. -/
def dsPlace (t ea : Nat) : Place := if ea < localEnd then ⟨spTile t, ea⟩ else ⟨spSlab (t / 32), ea - windowLo⟩

/-- Bytes of data space, as the bundle finds them. -/
def dsBytes (t ea n : Nat) (s : State) : List Byte := rdMem (dsPlace t ea).space (dsPlace t ea).addr n s

/-- The SRAM half of a tile-local address; the window has its own port (R75). -/
def halfOf (ea : Nat) : Option Nat := if ea < localEnd then some (ea / 0x500000) else none

/-! ## Evaluation -/

/-- Why a bundle waits whole. -/
inductive Stall where
  | input
  | output
  | dmaRoom
  | pressure
  | tally
  | interlock
  deriving DecidableEq, Repr

/-- What the slots of a bundle do: register updates (0 IX, 1 IY, 2 to 5 the scale pointers), stores, pops, pushes, the ranges
that reads touch, causes by slot, a stall, and the rest. -/
structure Plan where
  upd : List (Nat × Nat)
  stores : List (Nat × List Byte)
  reads : List (Nat × Nat)
  ports : List Nat
  pops : List Nat
  pushes : List (Nat × List Byte)
  exc : List (Nat × Nat)
  stall : Option Stall
  v : Option VRes
  seq : Option MSeq
  dma : Option TileDma
  seed : Option Nat
  tsel : Option Nat
  tadd : Option Nat
  release : Option Nat

def Plan.empty : Plan :=
  { upd := [], stores := [], reads := [], ports := [], pops := [], pushes := [], exc := [], stall := none, v := none, seq := none,
    dma := none, seed := none, tsel := none, tadd := none, release := none }

def Plan.fault (k c : Nat) (p : Plan) : Plan := { p with exc := p.exc ++ [(k, c)] }
def Plan.wait (w : Stall) (p : Plan) : Plan := if p.stall.isNone then { p with stall := some w } else p

/-- The A slot. -/
def evalA (t : Nat) (x : Tile) (w : Nat) (s : State) (p : Plan) : Plan :=
  let ix := x.ix.toNat
  let iy := x.iy.toNat
  let d := if bitOf 23 w then 1 else 0
  if sylOp w = 11 ∨ sylOp w = 12 then
    let ea := aAddr w ix iy
    let c := dsCause t x (sylOp w == 12) ea 4 s
    if c ≠ 0 then p.fault 1 c
    else
      let q := { p with reads := p.reads ++ [(ea, 4)], ports := p.ports ++ (halfOf ea).toList }
      if sylOp w = 11 then { q with upd := q.upd ++ [(d, leNat (dsBytes t ea 4 s))] }
      else { q with stores := q.stores ++ [(ea, leBytes 4 (if d = 1 then iy else ix))] }
  else { p with upd := p.upd ++ [(d, aluOf w ix iy)] }

/-- The L slot, with the line it reads. -/
def evalL (t : Nat) (x : Tile) (w : Nat) (s : State) (p : Plan) : List Byte × Plan :=
  if sylOp w = 0 then
    let ea := specAddr w x.ix.toNat x.iy.toNat
    let c := dsCause t x false ea 64 s
    if c ≠ 0 then ([], p.fault 2 c)
    else (dsBytes t ea 64 s, { p with
      reads := p.reads ++ [(ea, 64)], ports := p.ports ++ (halfOf ea).toList, upd := p.upd ++ specUpdate w x.ix.toNat x.iy.toNat })
  else if (fifo? t (w % 4) s).length < 64 then ([], p.wait .input)
  else ((fifo? t (w % 4) s).take 64, { p with pops := p.pops ++ [w % 4] })

/-- The M slot. -/
def evalM (x : Tile) (w : Nat) (p : Plan) : Plan :=
  let m := mIssue x w
  if m.exc ≠ 0 then p.fault 3 m.exc else { p with upd := p.upd ++ m.upd, seq := some m.seq }

/-- The V slot, with the L line. Scale arrays lie in tile-local SRAM (log 37). -/
def evalV (t : Nat) (x : Tile) (w : Nat) (line : List Byte) (s : State) (p : Plan) : Plan :=
  let n := vScales w
  let mx := fmtMx (cvtFmt (vCvt w)) && vVop w != 1
  let ld := mx && vTakesLine (vVop w)
  let st := mx && vIsStore w
  let a := if st then x.vssp.toNat else x.vslp.toNat
  let c := if ld || st then localCause a (a + n) else 0
  if c ≠ 0 then p.fault 4 c
  else if st && residentHit t a n s then p.fault 4 excProtResident
  else
    let r := vExec x w line (if ld then dsBytes t a n s else [])
    { p with
      v := some r,
      reads := p.reads ++ (if ld then [(a, n)] else []),
      upd := p.upd ++ (if ld then [(4, (a + n) % 2 ^ 32)] else if st then [(5, (a + n) % 2 ^ 32)] else []),
      stores := p.stores ++ (if st then [(a, r.scales)] else []) }

/-- Directions and widths of a tile's ports (Table 4-4): IN line, IN value, OUT line, OUT value. -/
def portHas (out line : Bool) (port : Nat) : Bool :=
  match out, line with
  | false, true => decide (port < 4)
  | false, false => decide (8 ≤ port ∧ port ≤ 0xD) || decide (0x20 ≤ port ∧ port ≤ 0x23) || [0x30, 0x32, 0x33, 0x41, 0x50].contains port
  | true, true => port == 4 || port == 5
  | true, false => decide (0x20 ≤ port ∧ port ≤ 0x24) || [0x10, 0x30, 0x31, 0x34, 0x40].contains port

/-- Fields of a DMA descriptor (Table 4-11). -/
def dmaParse (bs : List Byte) : TileDma :=
  let n := fun (o k : Nat) => leNat ((bs.drop o).take k)
  { va := n 0 8, taddr := n 8 4, len := n 12 4, out := n 16 1 == 1, srcFmt := n 17 1, cvt := BitVec.ofNat 8 (n 18 1),
    tally := n 20 2, seed := BitVec.ofNat 32 (n 24 4), order := 0, xfer := none, landed := none }

/-- Does a descriptor break a rule of Table 4-11 (R135)? -/
def dmaBad (t part : Nat) (bs : List Byte) (s : State) : Bool :=
  let n := fun (o k : Nat) => leNat ((bs.drop o).take k)
  let d := dmaParse bs
  d.va % 64 != 0 || d.taddr % 64 != 0 || d.len == 0 || d.len % 64 != 0 || decide (d.taddr + d.len > localEnd) ||
  decide (n 16 1 > 1) || n 19 1 != 0 || n 22 2 != 0 || n 28 4 != 0 ||
  !fmtTile d.srcFmt || !fmtTile (cvtFmt d.cvt) || (cvtRm d.cvt).isNone ||
  (d.srcFmt != cvtFmt d.cvt && (elemsIn (if d.out then d.srcFmt else cvtFmt d.cvt) d.len).isNone) ||
  (d.tally != 0xFFFF && !tallyOk part d.tally s) || (!d.out && residentHit t d.taddr d.len s)

/-- Value of an IN port that gives a value. -/
def inValue (t part slot : Nat) (x : Tile) (port : Nat) (s : State) : Nat :=
  if port ≤ 0xD then (fifo? t (port - 8) s).length
  else match port with
    | 0x20 => x.mspa.toNat
    | 0x21 => x.mspw.toNat
    | 0x22 => x.vslp.toNat
    | 0x23 => x.vssp.toNat
    | 0x30 => x.tsel
    | 0x32 => (tallyGet part x.tsel s).toNat % 2 ^ 32
    | 0x33 => (tallyGet part x.tsel s).toNat / 2 ^ 32
    | 0x41 => 8 - x.dma.length
    | _ => t % 8 + 8 * slot + 128 * part

/-- The X slot, with the line an IN reads. -/
def evalX (t part slot : Nat) (x : Tile) (w : Nat) (line : List Byte) (s : State) (p : Plan) : List Byte × Plan :=
  let port := xPort w
  if !portHas (xOut w) (xKind w == 0) port then ([], p.fault 6 excIoPort)
  else if !xOut w then
    if port < 4 then
      if (fifo? t port s).length < 64 then ([], p.wait .input)
      else ((fifo? t port s).take 64, { p with pops := p.pops ++ [port] })
    else if (port = 0x32 ∨ port = 0x33) ∧ !tallyOk part x.tsel s then ([], p.fault 6 excIoTally)
    else ([], { p with upd := p.upd ++ [(if xKind w = 1 then 0 else 1, inValue t part slot x port s)] })
  else
    let v := xValue w x.ix.toNat x.iy.toNat
    ([], match port with
    | 4 | 5 => if fifoRoom t port s < 64 then p.wait .output else { p with pushes := p.pushes ++ [(port, line)] }
    | 0x10 => if (tget x.bufs v).isNone then p.fault 6 excIoRelease else { p with release := some v }
    | 0x24 => { p with seed := some v }
    | 0x30 => if tallyOk part v s then { p with tsel := some v } else p.fault 6 excIoTally
    | 0x31 => if tallyOk part x.tsel s then { p with tadd := some v } else p.fault 6 excIoTally
    | 0x34 =>
      if !tallyOk part x.tsel s then p.fault 6 excIoTally
      else if tallyPassed part x.tsel v s then p else p.wait .tally
    | 0x40 =>
      if v % 32 ≠ 0 ∨ v + 32 > localEnd ∨ dmaBad t part (dsBytes t v 32 s) s then p.fault 6 excIoDma
      else if backPressure part s then p.wait .pressure
      else if x.dma.length ≥ 8 then p.wait .dmaRoom
      else { p with dma := some (dmaParse (dsBytes t v 32 s)), reads := p.reads ++ [(v, 32)] }
    | _ => { p with upd := p.upd ++ [(port - 0x20 + 2, v)] })

/-- The S slot, with the V result, the L line and the X line. -/
def evalS (t : Nat) (x : Tile) (w : Nat) (seg : Option Nat) (vout lline xline : List Byte) (s : State) (p : Plan) : Plan :=
  if sylOp w ≤ 2 then
    let ea := specAddr w x.ix.toNat x.iy.toNat
    let c := dsCause t x true ea 64 s
    if c ≠ 0 then p.fault 5 c
    else
      let q := { p with ports := p.ports ++ (halfOf ea).toList, upd := p.upd ++ specUpdate w x.ix.toNat x.iy.toNat }
      match sylOp w with
      | 0 =>
        let g := segOf (fmtBits (cvtFmt (vCvt (seg.getD 0)))) (vCol (seg.getD 0)) (vSeg (seg.getD 0))
        { q with stores := q.stores ++ [(ea + g.off, (vout.drop g.off).take g.len)] }
      | 1 => { q with stores := q.stores ++ [(ea, lline)] }
      | _ => { q with stores := q.stores ++ [(ea, xline)] }
  else
    let f := 4 + w % 2
    let before := (p.pushes.filter (fun e => e.1 == f)).length
    if fifoRoom t f s < 64 * (before + 1) then p.wait .output
    else { p with pushes := p.pushes ++ [(f, if sylOp w = 3 then vout else lline)] }

/-- All slots of a bundle on the state before it (R116). -/
def evalBundle (t part slot : Nat) (x : Tile) (b : List Nat) (s : State) : Plan :=
  let p0 := Plan.empty
  let p1 := match slotOf b 1 with
    | some w => evalA t x w s p0
    | none => p0
  let l := match slotOf b 2 with
    | some w => evalL t x w s p1
    | none => ([], p1)
  let p3 := match slotOf b 3 with
    | some w => evalM x w l.2
    | none => l.2
  let p4 := match slotOf b 4 with
    | some w => evalV t x w l.1 s p3
    | none => p3
  let xr := match slotOf b 6 with
    | some w => evalX t part slot x w l.1 s p4
    | none => ([], p4)
  match slotOf b 5 with
  | some w => evalS t x w (slotOf b 4) ((xr.2.v.map VRes.out).getD []) l.1 xr.1 s xr.2
  | none => xr.2

/-- The cause of the earliest slot, of several that a bundle raises (log 38). -/
def firstCause (l : List (Nat × Nat)) : Nat :=
  (l.foldl (fun (a : Option (Nat × Nat)) e => match a with
    | none => some e
    | some b => if e.1 < b.1 then some e else a) none).elim 0 Prod.snd

/-! ## Interlocks (R118, R130) -/

/-- Does a bundle wait for the M sequence in flight, or, with HALT, for the DMA of earlier bundles (R118, R121)? -/
def interlocked (x : Tile) (b : List Nat) : Bool :=
  let halt := (slotOf b 0).any (fun w => sylOp w == 10)
  (halt && !x.dma.isEmpty) ||
  match x.mseq with
  | none => false
  | some q =>
    halt || (slotOf b 3).isSome || (slotOf b 4).isSome || (slotOf b 5).any (fun w => sylOp w ≤ 2) ||
    (slotOf b 1).any (fun w => sylOp w == 12) || b.any (fun w => sylSlot w != 3 && (sylPops w).any (fun f => mFifo q.syl == some f))

/-! ## Effects -/

/-- A faulting bundle has no effect: the tile stops in EXCEPTION and its job ends with 0x02 (R137). -/
def tileFault (t cause : Nat) (s : State) : State :=
  let pc := (tile? t s).pc % 65536
  let s1 := tileCount t 7 1 (modTile t (fun x => { x with tstate := .exception, exc := cause, waiting := false }) s)
  match jobAt t s with
  | some (j, _) => endJob j Config.ccProtection (cause * 65536 + pc) s1
  | none => s1

/-- Touches what the bundle reads, with the findings of the error code (R96, R155). -/
def touchReads (t part : Nat) (ecc : List EccHit) : List (Nat × Nat) → State → Option Block × State
  | [], s => (none, s)
  | (a, n) :: r, s =>
    match readSpan part ecc (lineFuel n) (dsPlace t a) n s with
    | .stop b u => (some b, u)
    | .ok _ u => touchReads t part ecc r u

/-- Stores of a bundle, in the order A, scales, S: the S slot's bytes are kept (R117). -/
def putStores (t part : Nat) : List (Nat × List Byte) → State → Option Block × State
  | [], s => (none, s)
  | (a, bs) :: r, s =>
    match writeSpan part [] (lineFuel bs.length) (dsPlace t a) bs s with
    | .stop b u => (some b, u)
    | .ok _ u => putStores t part r u

/-- One register update of a plan. -/
def applyUpd (x : Tile) (u : Nat × Nat) : Tile :=
  let v : Word := BitVec.ofNat 32 u.2
  match u.1 with
  | 0 => { x with ix := v }
  | 1 => { x with iy := v }
  | 2 => { x with mspa := v }
  | 3 => { x with mspw := v }
  | 4 => { x with vslp := v }
  | _ => { x with vssp := v }

/-- The bytes of tile-local SRAM that the stores of a bundle replace, by address. -/
def storedOver (t : Nat) (p : Plan) (s : State) : Tab Byte :=
  p.stores.foldl (fun v e => (dsBytes t e.1 e.2.length s).zipIdx.foldl (fun w b => tset w (e.1 + b.2) b.1) v) []

/-- The registers of a tile after a bundle; `view` is what its stores replaced. -/
def applyRegs (p : Plan) (f : Flow) (view : Tab Byte) (x : Tile) : Tile :=
  let y := p.upd.foldl applyUpd x
  { y with
    pc := f.pc, rstack := f.rstack, tstate := .run, waiting := false,
    acc := (p.v.map VRes.acc).getD x.acc,
    srgen := (p.v.map (fun v => BitVec.ofNat 32 v.gen)).getD x.srgen,
    tsel := p.tsel.getD x.tsel, mseq := if p.seq.isSome then p.seq else x.mseq,
    mview := if p.seq.isSome then view else x.mview,
    bufs := match p.release with
      | some a => tdel x.bufs a
      | none => x.bufs }

/-- Puts a descriptor into a free slot of the tile and starts it if none goes before it (R135). -/
def issueDma (t : Nat) (d : TileDma) (s : State) : State :=
  let x := tile? t s
  let o := x.dma.foldl (fun a e => max a (e.2.order + 1)) 0
  startDma t 8 (modTile t (fun x => { x with dma := tset x.dma (freshKey x.dma) { d with order := o } }) s)

/-- Extra cycles for accesses of one bundle to the same half (R119). -/
def portStalls (ports : List Nat) : Nat := (ports.countP (· == 0) - 1) + (ports.countP (· == 1) - 1)

/-- The control slot's last effects: HALT and JBND (R121, R122). -/
def afterControl (t : Nat) (c : Option Nat) (s : State) : State :=
  match c.map sylOp with
  | some 10 =>
    let s1 := modTile t (fun x => { x with tstate := .idle }) s
    match jobAt t s1 with
    | some (j, x) => reachHalt j x s1
    | none => s1
  | some 11 =>
    let s1 := modTile t (fun x => { x with atJbnd := true }) s
    match jobAt t s1 with
    | some (j, x) => reachJbnd j x s1
    | none => s1
  | _ => s

/-- All effects of a bundle at once (R116). A read that meets an uncorrectable error ends the job with 0x08 instead (R96). -/
def commitBundle (t part : Nat) (ecc : List EccHit) (b : List Nat) (p : Plan) (f : Flow) (s : State) : State :=
  match touchReads t part ecc p.reads s with
  | (some (.fail c), u) => failTile t c u
  | (some (.hold _), _) => modTile t (fun x => { x with waiting := true, tstate := .stalled }) s
  | (none, s1) =>
    match putStores t part p.stores s1 with
    | (some (.fail c), u) => failTile t c u
    | (some (.hold _), _) => modTile t (fun x => { x with waiting := true, tstate := .stalled }) s
    | (none, s2) =>
      let s3 := modTile t (applyRegs p f (storedOver t p s)) s2
      let s4 := p.pops.foldl (fun u k => popFifo t k 64 u) s3
      let s5 := p.pushes.foldl (fun u e => pushFifo t e.1 e.2 u) s4
      let s6 := match p.seed with
        | some v =>
          let g := seedGen v s5
          modTile t (fun x => { x with srgen := BitVec.ofNat 32 g.1 }) g.2
        | none => s5
      let s7 := match p.tadd with
        | some v => tallyAdd part (tile? t s).tsel (BitVec.ofNat 64 v) s6
        | none => s6
      let s8 := match p.dma with
        | some d => issueDma t d s7
        | none => s7
      let s9 := match p.v with
        | some v => tileCount t 6 v.sat (tileCount t 5 v.nonfin s8)
        | none => s8
      let s10 := tileCount t 3 (portStalls p.ports) (tileCount t 4 1 s9)
      let s11 := if p.pops.isEmpty && p.pushes.isEmpty && p.release.isNone then s10 else kickStreams s10
      afterControl t (slotOf b 0) s11

/-- Decodes and issues the bundle at a tile's PC, or finds why it waits whole (R109, R116, R137). -/
def runBundle (t part slot : Nat) (ecc : List EccHit) (s : State) : State :=
  let x := tile? t s
  let b := fetchBundle (fun i => leNat (rdMem (spImem t) (4 * i) 4 s)) 65535 8 x.pc
  let c := bundleCause false b
  match readSpan part ecc (lineFuel (4 * b.length)) ⟨spImem t, 4 * x.pc⟩ (4 * b.length) s with
  | .stop (.fail e) u => failTile t e u
  | .stop (.hold _) _ => modTile t (fun x => { x with waiting := true, tstate := .stalled }) s
  | .ok _ s =>
  if c ≠ 0 then tileFault t c s
  else if interlocked x b then modTile t (fun x => { x with waiting := true }) s
  else
    let f := flowOf 4 65535 x.pc b.length x.ix.toNat x.iy.toNat x.rstack (slotOf b 0)
    let p := evalBundle t part slot x b s
    let exc := (if f.exc ≠ 0 then [(0, f.exc)] else []) ++ p.exc
    if !exc.isEmpty then tileFault t (firstCause exc) s
    else match p.stall with
      | some .interlock => modTile t (fun x => { x with waiting := true }) s
      | some _ => modTile t (fun x => { x with waiting := true, tstate := .stalled }) s
      | none => commitBundle t part ecc b p f s

/-- A tile issues bundles: it runs for a job, its group is resident, its slot holds a usable image (R92, R94), and its M sequence
does not starve on a FIFO (R88). -/
def issues (t : Nat) (s : State) : Option (Nat × Nat) :=
  let x := tile? t s
  match tilePlace t s with
  | some (p, slot, rel) =>
    if (x.tstate == .run || x.tstate == .stalled) && !x.atJbnd && (group? p s).any (fun g => g.phase == .resident) &&
        !starved x && (slotSt? p slot s).any (fun st => st.wstate == .resident || st.wstate == .reloadPending) && (jobOf p slot rel s).any (fun e => e.2.jstate == .running) then
      some (p, slot)
    else none
  | none => none

/-- One bundle of a tile: a new one, or one that waited (`again`). -/
def tileBundle (again : Bool) (t : Nat) (ecc : List EccHit) (s : State) : State :=
  match issues t s with
  | some (p, slot) => if (tile? t s).waiting = again then runBundle t p slot ecc s else s
  | none => s

end Sys2Proof.Machine
end

