-- ==== Sys2Proof/Machine/CkptOps.lean ====
section
/-! DEFINITION. The checkpoint engine (13): images, saving with parity and drain, the manifest, restoring, rebuilding. -/

namespace Sys2Proof.Machine

open Sys2Proof

def modCk (f : Ck → Ck) (s : State) : State := { s with ck := f s.ck }
def setup? (i : Nat) (s : State) : Option Setup := tget s.ck.setups i
def modSetup (i : Nat) (f : Setup → Setup) (s : State) : State := modCk (fun c => { c with setups := tmod c.setups i f }) s
def ckJob? (j : Nat) (s : State) : Option CkJob := tget s.ck.jobs j
def modJob (j : Nat) (f : CkJob → CkJob) (s : State) : State := modCk (fun c => { c with jobs := tmod c.jobs j f }) s
def half? (st : Setup) (h : Nat) : Half := st.halves.getD h Half.fresh
def modHalf (i h : Nat) (f : Half → Half) (s : State) : State :=
  modSetup i (fun st => { st with halves := st.halves.set h (f (half? st h)) }) s
def ckCount (c n : Nat) (s : State) : State := bump bkCkpt c n s
def ownAddr (s : State) : Nat := s.jl.rc.addr

/-- The state of a tile in a KIND 1 piece, which the spec calls opaque: the 64 KiB part of a save area, with the lengths of the
input FIFOs in the part's unused rest (log 130). -/
def tileStateBytes (x : Tile) : List Byte :=
  (smallBytes x ++ (List.range 4).flatMap (fun f => leBytes 2 (tgetD x.fifos f []).length) ++ List.replicate 65536 0).take 65536

/-- A tile from its state in a piece. -/
def tileStateOf (bs : List Byte) : Tile :=
  let fill := fun (f : Nat) => fieldOf bs (41024 + 2 * f) 2
  withSmall bs { Tile.fresh with fifos := (List.range 4).map (fun f => (f, List.replicate (fill f) 0)) }

/-! ## Memory of a partition through its translation -/

def vaRead (part va n : Nat) (s : State) : Option (List Byte) × State := fwRead part va (n / 65536 + 2) n s

/-- Writes a range page by page; false where a page cannot be written. -/
def vaWriteN (part : Nat) : Nat → Nat → List Byte → State → Bool × State
  | 0, _, _, s => (true, s)
  | fuel + 1, va, bs, s =>
    if bs.isEmpty then (true, s)
    else
      let k := min bs.length (65536 - va % 65536)
      match ringWrite part va (bs.take k) s with
      | .ok _ t => vaWriteN part fuel (va + k) (bs.drop k) t
      | .fail _ t => (false, t)
      | .wait t => (false, t)

def vaWrite (part va : Nat) (bs : List Byte) (s : State) : Bool × State := vaWriteN part (bs.length / 65536 + 2) va bs s

/-- Address of offset `o` of a half. -/
def halfVa (st : Setup) (h o : Nat) : Nat := st.addrs.getD h 0 + o
def halfRead (st : Setup) (h o n : Nat) (s : State) : List Byte × State :=
  match vaRead st.part (halfVa st h o) n s with
  | (some bs, t) => (bs, t)
  | (none, t) => freeBytes n t
def halfWrite (st : Setup) (h o : Nat) (bs : List Byte) (s : State) : State := (vaWrite st.part (halfVa st h o) bs s).2

/-! ## Descriptors and region entries (R378, R379, R388) -/

def u (bs : List Byte) (o k : Nat) : Nat := leNat ((bs.drop o).take k)

def CkRegion.parse (bs : List Byte) : CkRegion :=
  let four := fun (o : Nat) => (List.range 4).map (fun i => u bs (o + 4 * i) 4)
  { name := bs.take 64, kind := u bs 64 1, fmt := u bs 65 1, ndim := u bs 66 1, cvt := BitVec.ofNat 8 (u bs 67 1), shape := four 72,
    origin := four 88, extent := four 104, elem := u bs 120 8, scale := u bs 128 8, zeroSet := u bs 68 4 != 0 || u bs 136 8 != 0 }

def CkRegion.bytes (r : CkRegion) : List Byte :=
  (r.name ++ List.replicate (64 - r.name.length) 0) ++ leBytes 1 r.kind ++ leBytes 1 r.fmt ++ leBytes 1 r.ndim ++ [r.cvt] ++ leBytes 4 0
    ++ r.shape.flatMap (leBytes 4) ++ r.origin.flatMap (leBytes 4) ++ r.extent.flatMap (leBytes 4) ++ leBytes 8 r.elem
    ++ leBytes 8 r.scale ++ leBytes 8 0

def ckElems (r : CkRegion) : Nat := r.extent.foldl (· * ·) 1
/-- Bytes of a region's element array and of its scale array. -/
def ckBytes (r : CkRegion) : Nat := if r.kind = 1 then saveBytes else (ckElems r * fmtBits r.fmt + 7) / 8
def ckScales (r : CkRegion) : Nat := if r.kind = 0 ∧ fmtMx r.fmt then (ckElems r + 31) / 32 else 0

def lastDim (l : List Nat) (n : Nat) : Nat := l.getD (n - 1) 0

/-- Is a region entry refused (R47, R379)? -/
def ckRegionBad (save : Bool) (r : CkRegion) : Bool :=
  r.zeroSet || r.name.getD 0 0 == 0 || r.name.getD 63 0 != 0 || decide (r.kind > 1) ||
  (r.kind == 0 && ((fmtElem r.fmt).isNone || decide (r.ndim < 1 ∨ r.ndim > 4) ||
    (List.range 4).any (fun i => decide (r.origin.getD i 0 + r.extent.getD i 0 > r.shape.getD i 0) || r.extent.getD i 0 == 0 ||
      (decide (i ≥ r.ndim) && r.shape.getD i 0 != 1)) ||
    (fmtMx r.fmt && (lastDim r.origin r.ndim % 32 != 0 || lastDim r.extent r.ndim % 32 != 0 || r.elem % 32 != 0 || r.scale % 32 != 0)) ||
    (!fmtMx r.fmt && r.scale != 0))) ||
  (if save then r.cvt != 0 else (cvtRm r.cvt).isNone || (fmtElem (cvtFmt r.cvt)).isNone)

def Extent.parse (bs : List Byte) : Extent × Bool :=
  ({ ns := u bs 0 2, nblk := u bs 4 4, lba := u bs 8 8 }, u bs 2 2 != 0)
def Extent.bytes (e : Extent) : List Byte := leBytes 2 e.ns ++ [0, 0] ++ leBytes 4 e.nblk ++ leBytes 8 e.lba

/-- `n` items of `k` bytes. -/
def itemsOf (k : Nat) : Nat → List Byte → List (List Byte)
  | 0, _ => []
  | n + 1, bs => bs.take k :: itemsOf k n (bs.drop k)

def SaveDesc.parse (bs : List Byte) : SaveDesc :=
  { runId := u bs 0 8, step := u bs 8 8, shardId := u bs 16 8, wrid := u bs 24 8, regions := u bs 32 8, extents := u bs 40 8,
    reclaim := u bs 48 8, manExt := (Extent.parse ((bs.drop 56).take 16)).1, manZero := (Extent.parse ((bs.drop 56).take 16)).2, repl := (List.range 8).map (fun i => u bs (72 + 2 * i) 2),
    nreg := u bs 88 2, next := u bs 90 2, nshards := u bs 92 2, manAddr := u bs 94 2, capTally := u bs 96 2, doneTally := u bs 98 2,
    cq := u bs 100 2, armTally := u bs 102 2, armThresh := u bs 104 4, tmo := u bs 108 4, flags := u bs 112 1, cls := u bs 113 1,
    zeroSet := u bs 114 14 != 0 || u bs 112 1 / 4 != 0 }

def RestoreDesc.parse (bs : List Byte) : RestoreDesc :=
  { runId := u bs 0 8, step := u bs 8 8, wrid := u bs 16 8, ntargets := u bs 24 2, sources := u bs 26 1, cls := u bs 27 1, tally := u bs 28 2,
    cq := u bs 30 2, tmo := u bs 32 4, nman := u bs 36 2, targets := u bs 40 8, manifests := u bs 48 8, result := u bs 56 8,
    zeroSet := u bs 38 2 != 0 || u bs 26 1 / 4 != 0 }

/-! ## Images (R375 to R377) -/

def align (n k : Nat) : Nat := (n + k - 1) / k * k

/-- Pieces of a body: arrays follow one another, each aligned to 32 bytes (log 40). -/
def layPieces : Nat → List CkRegion → List CkRegion × Nat
  | o, [] => ([], o)
  | o, r :: rs =>
    let e := align o 32
    let c := align (e + ckBytes r) 32
    let next := if ckScales r = 0 then e + ckBytes r else c + ckScales r
    let t := layPieces next rs
    ({ r with elem := e, scale := if ckScales r = 0 then 0 else c } :: t.1, t.2)

def segCountOf (bodyLen : Nat) : Nat := (bodyLen + 2 ^ 20 - 1) / 2 ^ 20
/-- Offset of the body in an image. -/
def bodyBase (np nseg : Nat) : Nat := align (128 + 144 * np + 32 * nseg) 4096

def shaBytes (bs : List Byte) : List Byte := leBytes 32 (Config.sha3 bs).toNat

/-- Segments of a body. -/
def segsOf : Nat → List Byte → List (List Byte)
  | 0, _ => []
  | n + 1, bs => bs.take (2 ^ 20) :: segsOf n (bs.drop (2 ^ 20))

/-- Header and tables of an image over its body. -/
def imageHead (runId step shardId : Nat) (pieces : List CkRegion) (body : List Byte) : List Byte × List Byte :=
  let nseg := segCountOf body.length
  let tables := pieces.flatMap CkRegion.bytes ++ (segsOf nseg body).flatMap shaBytes
  let img := bodyBase pieces.length nseg + body.length
  let h := [0x46, 0x4D, 0x53, 0x53, 0x48, 0x41, 0x52, 0x44] ++ leBytes 2 1 ++ [0, 0] ++ leBytes 4 pieces.length ++ leBytes 8 runId
    ++ leBytes 8 step ++ leBytes 8 shardId ++ leBytes 8 img ++ leBytes 4 nseg ++ [20] ++ List.replicate 11 0 ++ shaBytes tables
  (h ++ shaBytes h, tables)

structure ImgHead where
  np : Nat
  runId : Nat
  step : Nat
  shardId : Nat
  imgLen : Nat
  nseg : Nat
  ok : Bool
  deriving DecidableEq, Repr

/-- A header as read, with its magic, version and own digest checked. -/
def ImgHead.parse (bs : List Byte) : ImgHead :=
  { np := u bs 12 4, runId := u bs 16 8, step := u bs 24 8, shardId := u bs 32 8, imgLen := u bs 40 8, nseg := u bs 48 4,
    ok := bs.take 10 == [0x46, 0x4D, 0x53, 0x53, 0x48, 0x41, 0x52, 0x44, 1, 0] && (bs.drop 96).take 32 == shaBytes (bs.take 96) }

/-- Tables of an image and their digest. -/
def imgTables (h : ImgHead) (img : List Byte) : List Byte := (img.drop 128).take (144 * h.np + 32 * h.nseg)
def tablesOk (h : ImgHead) (img : List Byte) : Bool := (img.drop 64).take 32 == shaBytes (imgTables h img)
def imgBody (h : ImgHead) (img : List Byte) : List Byte := (img.take h.imgLen).drop (bodyBase h.np h.nseg)
def segmentsOk (h : ImgHead) (img : List Byte) : Bool :=
  (segsOf h.nseg (imgBody h img)).flatMap shaBytes == (imgTables h img).drop (144 * h.np)
def imgPieces (h : ImgHead) (img : List Byte) : List CkRegion := (itemsOf 144 h.np (imgTables h img)).map CkRegion.parse

/-- A shard verifies when every link of the chain matches (R376). -/
def shardOk (img : List Byte) : Bool :=
  let h := ImgHead.parse img
  h.ok && tablesOk h img && segmentsOk h img

/-! ## Groups (R373) -/

def groupOf (st : Setup) (a : Nat) : Nat := (a - 1) / max 1 st.g
def groupCount (st : Setup) : Nat := (st.n + max 1 st.g - 1) / max 1 st.g
def membersOf (st : Setup) (j : Nat) : List Nat :=
  ((List.range st.g).map (fun i => j * st.g + 1 + i)).filter (fun a => decide (a ≤ st.n))
def holderOf (st : Setup) (j : Nat) : Nat := if j + 1 < groupCount st then (j + 1) * st.g + 1 else 1
def mirrorOf (st : Setup) (j : Nat) : Nat := (holderOf st j + 1) % max 1 st.n + 1
/-- Parity of the grouping still stands: level and size are those of the set-up. -/
def parityOn (st : Setup) (s : State) : Bool := st.g != 0 && st.level == levelNow s && st.n == s.jl.rc.size

/-! ## Messages (Table 13-4) -/

structure CkHead where
  runId : Nat
  step : Nat
  offset : Nat
  kind : Nat
  src : Nat
  len : Nat
  deriving DecidableEq, Repr

def CkHead.parse (bs : List Byte) : CkHead :=
  { runId := u bs 0 8, step := u bs 8 8, offset := u bs 16 8, kind := u bs 24 1, src := u bs 26 2, len := u bs 28 4 }
def CkHead.bytes (h : CkHead) : List Byte :=
  leBytes 8 h.runId ++ leBytes 8 h.step ++ leBytes 8 h.offset ++ leBytes 1 h.kind ++ [0] ++ leBytes 2 h.src ++ leBytes 4 h.len

/-- Sends one message; what is addressed to this device stays here. -/
def ckSend (dst kind runId step offset : Nat) (data : List Byte) (s : State) : State :=
  let h : CkHead := { runId := runId, step := step, offset := offset, kind := kind, src := ownAddr s, len := data.length }
  if dst = ownAddr s then
    let m : FwdIn := { die := 0, src := dst, cls := 2, data := h.bytes ++ data }
    { s with jl := { s.jl with arrived := s.jl.arrived ++ [m] } }
  else sendFwd 0 dst 2 (h.bytes ++ data) s

/-- Streams bytes in messages of at most 4,064 data bytes. -/
def ckStream (dst kind runId step : Nat) : Nat → Nat → List Byte → State → State
  | 0, _, _, s => s
  | fuel + 1, o, bs, s =>
    if bs.isEmpty then s
    else ckStream dst kind runId step fuel (o + 4064) (bs.drop 4064) (ckSend dst kind runId step o (bs.take 4064) s)

/-! ## Jobs: starts and ends (R380, R387) -/

/-- A job works on a half. What waits only for the step's manifest holds no half. -/
def jobUses (st : Nat) (h : Nat) (s : State) : Bool :=
  s.ck.jobs.any (fun e => e.2.setup == st && e.2.half == h && e.2.phase != .manifest && e.2.phase != .commit)

/-- The half with the newest SEALED step. -/
def newestSealed (st : Setup) : Option Nat :=
  let ok := fun (h : Nat) => (half? st h).hstate == .sealed
  if ok 0 && ok 1 then some (if (half? st 1).step > (half? st 0).step then 1 else 0)
  else if ok 0 then some 0 else if ok 1 then some 1 else none

/-- The half a save takes: not the newest sealed one, not locked (R380). -/
def freeHalf (i : Nat) (st : Setup) (s : State) : Option Nat :=
  [0, 1].find? (fun h => newestSealed st != some h && !jobUses i h s)

/-- Writes a job's completion and increments its counter (R247, R387, R393). -/
def ckComplete (j : Nat) (x : CkJob) (code reason detail : Nat) (s : State) : State :=
  let opspec := reason * 65536 + detail % 65536
  let c : Cqe := { wrid := BitVec.ofNat 64 x.wrid, bytes := x.bytes % 2 ^ 32, opspec := opspec, src := j, kind := 4, op := 0,
                   code := code, flags := 0, tpart := x.part, tally := x.tally }
  let s1 := modCk (fun k => { k with jobs := tdel k.jobs j }) s
  let s2 := modSb (fun b => { b with tasks := tdel b.tasks (ckKey j) }) s1
  let s3 := (s2.xl.xfers.filter (fun e => e.2.owner.kind == .ckpt && e.2.owner.a == j)).foldl (fun t e => endXfer e.1 Config.ccFlushed t) s2
  let s4 := postCqe x.cq c s3
  match x.kind with
  | .save => ckCount (if code = 0 then 0 else 1) 1 s4
  | .restore => if code = 0 then ckCount 6 1 s4 else s4
  | .rebuild => s4

/-- Writes the reclaim list of a writer whose drain has failed (R387). -/
def writeReclaim (x : CkJob) (s : State) : State :=
  match x.save with
  | some d => if x.writer ∧ x.phase = .drain ∧ d.reclaim ≠ 0 then (vaWrite x.part d.reclaim (leBytes 8 x.written.length ++ x.written.flatMap Extent.bytes) s).2 else s
  | none => s

/-- The result record of a restore (R388). -/
def writeResult' (x : CkJob) (s : State) : State :=
  match x.restore with
  | some d => (vaWrite x.part d.result (leBytes 8 x.usedStep ++ leBytes 1 x.source ++ [0, 0, 0] ++ leBytes 4 (min 256 x.reclaim.length)
      ++ (x.reclaim.take 256).flatMap Extent.bytes) s).2
  | none => s

/-- Places the dirty state of a slot over the image that has been loaded again (R379, R391). -/
def placeSlot (part slot : Nat) (piece : List Byte) (s0 : State) : State :=
  let s := wakeFor 1 s0
  (List.range 8).foldl (fun t rel =>
    let bs := (piece.drop (rel * tileSave)).take tileSave
    match physTile part slot rel t with
    | some k =>
      let put := fun (sp off : Nat) (l : List (Nat × Nat)) (v : State) =>
        l.foldl (fun v r => wrMem sp r.1 ((bs.drop (off + r.1)).take r.2) v) v
      let st := (slotSt? part slot t).getD SlotSt.fresh
      modTile k (fun _ => tileStateOf (bs.drop (tileSram + tileImem)))
        (put (spImem k) tileSram (savedImem st rel) (put (spTile k) 0 (savedSram st rel) t))
    | none => t) s

/-- After a restore that ends with another code than 0x00 the target contents are undefined (R390): free values (log 8). -/
def freeTargets (x : CkJob) (s : State) : State :=
  x.regions.foldl (fun (t : State) (r : CkRegion) =>
    let b := freeBytes (ckBytes r) t
    if r.kind = 1 then placeSlot x.part (r.elem % 16) b.1 b.2
    else
      let u := (vaWrite x.part r.elem b.1 b.2).2
      let c := freeBytes (ckScales r) u
      (vaWrite x.part r.scale c.1 c.2).2) s

/-- Ends a job with a failure: a save's or a rebuild's half becomes FAILED (R387, R392, R393). -/
def ckFail (j code reason detail : Nat) (s : State) : State :=
  match ckJob? j s with
  | none => s
  | some x =>
    let s1 := match x.kind with
      | .restore => writeResult' x (freeTargets x s)
      | _ =>
        let mine := x.save.all (fun d => (setup? x.setup s).any (fun st => (half? st x.half).step == d.step))
        writeReclaim x (if x.half < 2 ∧ x.phase ≠ .armed ∧ mine then modHalf x.setup x.half (fun h => { h with hstate := .failed }) s else s)
    ckComplete j x code reason detail s1

/-- Phase numbers of a save in OPSPEC (Table 13-6). -/
def phaseNo : CkPhase → Nat
  | .armed | .capture => 1
  | .seal => 2
  | .parity => 3
  | .drain => 4
  | .manifest | .commit => 5
  | .rebuild => 1
  | .readManifest | .readShards => 1
  | .place => 2

/-! ## Capture (R381) -/

def ckOwner (j b : Nat) : Owner := { kind := .ckpt, a := j, b := b, c := 0 }

/-- Offset of the body in the image of a half that is being captured. -/
def bodyAt (hf : Half) : Nat := bodyBase hf.pieces.length (segCountOf (layEnd hf.pieces))
where
  layEnd (ps : List CkRegion) : Nat := ps.foldl (fun a p => max a (max (p.elem + ckBytes p) (p.scale + ckScales p))) 0

def bodyLenOf (hf : Half) : Nat := bodyAt.layEnd hf.pieces

/-- Is a device reachable: this one, or one with a valid routing entry (R383)? Fences name IP addresses, which stand for no
roll-call address (log 146). -/
def reachable (a : Nat) (s : State) : Bool := a == ownAddr s || (routeGang 0 a s).isSome

/-- The writer of a shard (R383). -/
def writerOf (d : SaveDesc) (s : State) : Option Nat :=
  (d.repl.filter (fun a => a != 0 && reachable a s)).min?

/-- A save starts: its half's image is zero (log 40), the writer is settled (R383). -/
def openHalf (j : Nat) (x : CkJob) (s : State) : State :=
  let hf : Half := { Half.fresh with
    hstate := .capturing, step := (x.save.map SaveDesc.step).getD 0, pieces := (layPieces 0 x.regions).1 }
  let s1 := modHalf x.setup x.half (fun _ => hf) (modJob j (fun x => { x with
    phase := .capture, writer := x.save.any (fun d => !bitOf 1 d.flags && writerOf d s == some (ownAddr s)) }) s)
  match setup? x.setup s1 with
  | some st => halfWrite st x.half 0 (List.replicate (bodyAt hf + bodyLenOf hf) 0) s1
  | none => s1

/-- Starts the reads of every region of a save; tile states are taken later. -/
def startCapture (j : Nat) (s : State) : State :=
  match ckJob? j s with
  | none => s
  | some x =>
    x.regions.zipIdx.foldl (fun t e =>
      let r := e.1
      if r.kind = 1 then modJob j (fun x => { x with tiles := x.tiles ++ [e.2] }) t
      else
        let rd := fun (b va n : Nat) (t : State) =>
          modJob j (fun x => { x with reads := x.reads ++ [b] })
            (startXfer (Xfer.mk' x.part 4 0 j (ckOwner j b) false (Rows.flat va n) []) t).2
        let t1 := rd (2 * e.2) r.elem (ckBytes r) t
        if ckScales r = 0 then t1 else rd (2 * e.2 + 1) r.scale (ckScales r) t1) (openHalf j x s)

/-- A region's array has been read: it goes into the half's body. -/
def captureRead (j b code : Nat) (data : List Byte) (s : State) : State :=
  match ckJob? j s with
  | none => s
  | some x =>
    if code ≠ 0 then ckFail j code 1 (b / 2) s
    else match setup? x.setup s with
      | none => s
      | some st =>
        let hf := half? st x.half
        match hf.pieces[b / 2]? with
        | none => s
        | some p =>
          let o := if b % 2 = 1 then p.scale else p.elem
          ckCount 2 data.length (halfWrite st x.half (bodyAt hf + o) data
            (modJob j (fun x => { x with reads := x.reads.filter (· != b), bytes := x.bytes + data.length }) s))

/-- Dirty state of a bench slot's tiles as one piece: on its bench, or in its save area. What is not saved reads 0 there. -/
def slotBytes (part slot : Nat) (s : State) : List Byte :=
  let st := (slotSt? part slot s).getD SlotSt.fresh
  (List.range 8).flatMap (fun rel =>
    let mem := match physTile part slot rel s with
      | some t =>
        let own := s.mem.filter (fun c => c.1 / spaceSize == spTile t || c.1 / spaceSize == spImem t)
        mrdN (fillArea st rel t 0 Tile.fresh own) (mkey spGddr (rel * tileSave)) (tileSram + tileImem)
      | none => match saveArea part slot s with
        | some a => rdMem spGddr (a + rel * tileSave) (tileSram + tileImem) s
        | none => []
    mem ++ tileStateBytes (tileAt part slot rel s))

/-- A slot's state can be taken: no job runs on it, or it is SAVED (R379). -/
def slotTakable (part slot : Nat) (s : State) : Bool :=
  match slotSt? part slot s with
  | some st => st.wstate == .saved || !slotBusy part slot s
  | none => false

/-- Takes the tile states that can be taken. -/
def captureTiles (j : Nat) (s : State) : State :=
  match ckJob? j s with
  | none => s
  | some x => x.tiles.foldl (fun t i =>
      match setup? x.setup t with
      | none => t
      | some st =>
        let hf := half? st x.half
        let slot := ((x.regions[i]?).map CkRegion.elem).getD 0 % 16
        if !slotTakable x.part slot t then t
        else
          let bs := slotBytes x.part slot (wakeFor 1 t)
          ckCount 2 bs.length (halfWrite st x.half (bodyAt hf + ((hf.pieces[i]?).map CkRegion.elem).getD 0) bs
            (modJob j (fun x => { x with tiles := x.tiles.filter (· != i), bytes := x.bytes + bs.length }) (wakeFor 1 t)))) s

/-! ## Seal, parity, drain (R381 to R384) -/

/-- Blocks and byte capacity of extents. -/
def extBytes (e : Extent) (s : State) : Nat := e.nblk * ((ns? e.ns s).map Ns.bs).getD 0


def ckTask (opc cls : Nat) (fua : Bool) (e : Extent) : TaskCmd :=
  { opc := opc, ctlf := BitVec.ofNat 8 (cls + if fua then 4 else 0), ns := e.ns, nblk := e.nblk, lba := e.lba, addr := 0, htag := 0,
    tally := 0xFFFF, vec := 0, zeroSet := false }

/-- Cuts an extent into commands of at most 256 KiB, aligned in LBA space (R361, R384). -/
def cutExtent (opc cls : Nat) (fua : Bool) (bs index : Nat) : Nat → Extent → List CkCmd
  | 0, _ => []
  | fuel + 1, e =>
    if e.nblk = 0 then []
    else
      let per := 262144 / max 1 bs
      let n := min e.nblk (per - e.lba % max 1 per)
      { ext := { e with nblk := n }, index := index, cmd := ckTask opc cls fua { e with nblk := n } } ::
        cutExtent opc cls fua bs index fuel { e with nblk := e.nblk - n, lba := e.lba + n }

def extentCmds (opc cls : Nat) (fua : Bool) (es : List Extent) (s : State) : List CkCmd :=
  es.zipIdx.flatMap (fun p => cutExtent opc cls fua (((ns? p.1.ns s).map Ns.bs).getD 512) p.2 (p.1.nblk + 1) p.1)

/-- The extents that hold `n` bytes, the last one shortened. -/
def usedExtents (s : State) : Nat → List Extent → List Extent
  | _, [] => []
  | n, e :: es =>
    let b := ((ns? e.ns s).map Ns.bs).getD 512
    if n = 0 then []
    else if extBytes e s < n then e :: usedExtents s (n - extBytes e s) es
    else [{ e with nblk := (n + b - 1) / max 1 b }]

/-- Byte offset of each command in its image. -/
def withOffsets (s : State) : Nat → List CkCmd → List (Nat × CkCmd)
  | _, [] => []
  | o, c :: cs => (o, c) :: withOffsets s (o + extBytes c.ext s) cs

/-- Hands the next storage command of a job on: it is queued beside the task slots (R384). -/
def ckNextCmd (j : Nat) (s : State) : State :=
  match ckJob? j s with
  | none => s
  | some x =>
    if x.busy then s
    else match x.todo with
      | [] => s
      | c :: rest =>
        let r : List Byte × State := if c.cmd.opc = 2 then
            match x.phase, setup? x.setup s with
            | .commit, _ => ((x.data.drop (extAt s c x)).take (extBytes c.ext s), s)
            | _, some st => halfRead st x.half (extAt s c x) (extBytes c.ext s) s
            | _, none => ([], s)
          else ([], s)
        let t := Task.fresh c.cmd r.2.sb.order
        modJob j (fun x => { x with todo := rest, busy := true, cur := some c })
          (modSb (fun b => { b with tasks := tset b.tasks (ckKey j) { t with data := r.1 }, order := b.order + 1 }) r.2)
where
  /-- offset of a command's bytes in what is written: image, or manifest -/
  extAt (s : State) (c : CkCmd) (x : CkJob) : Nat :=
    let es := if x.phase = .commit then (x.save.map (fun d => [d.manExt])).getD [] else x.extents
    (es.take c.index).foldl (fun a e => a + extBytes e s) 0 +
      (c.ext.lba - ((es[c.index]?).map Extent.lba).getD 0) * ((ns? c.ext.ns s).map Ns.bs).getD 0

/-- The save's own phases have ended: it completes, or waits for records at the manifest writer (R381). -/
def ownPhasesDone (j : Nat) (s : State) : State :=
  match ckJob? j s with
  | none => s
  | some x =>
    match x.save with
    | none => s
    | some d =>
      if d.manAddr = ownAddr s ∧ !bitOf 1 d.flags then modJob j (fun x => { x with phase := .manifest }) s
      else
        let prot := ((setup? x.setup s).map (fun st => (half? st x.half).prot)).getD false
        ckComplete j x 0 0 (x.writer.toNat + 2 * prot.toNat + 8 * x.skipped.toNat) s

/-- The half is captured whole: it is digested, its header written last, and its parity sent; the writer's drain begins. -/
def sealHalf (j : Nat) (s : State) : State :=
  match ckJob? j s with
  | none => s
  | some x =>
    match x.save, setup? x.setup s with
    | some d, some st =>
      let hf := half? st x.half
      let b := halfRead st x.half (bodyAt hf) (bodyLenOf hf) s
      let hd := imageHead d.runId d.step d.shardId hf.pieces b.1
      let img := bodyAt hf + bodyLenOf hf
      let s1 := ckCount 3 img (halfWrite st x.half 0 hd.1 (halfWrite st x.half 128 hd.2 b.2))
      let s2 := modSetup x.setup (fun st => { st with lastStep := max st.lastStep d.step })
        (modHalf x.setup x.half (fun h => { h with hstate := .sealed, imgLen := img }) s1)
      let par := parityOn st s2
      let full := halfRead st x.half 0 img s2
      let s3 := if par then ckStream (holderOf st (groupOf st (ownAddr s))) 1 d.runId d.step (img / 4064 + 2) 0 full.1 full.2 else full.2
      let s4 := modJob j (fun x => { x with phase := if x.writer then .drain else .parity, skipped := !par }) s3
      if !x.writer then ownPhasesDone j s4
      else if img > x.extents.foldl (fun a e => a + extBytes e s4) 0 then ckFail j Config.ccRemoteOp 2 (x.extents.length - 1) s4
      else
        let used := usedExtents s4 img x.extents
        let ws := extentCmds 2 d.cls false used s4
        -- the command that holds the header goes last
        let nss := (used.map Extent.ns).eraseDups
        let fl := nss.map (fun n => ({ ext := { ns := n, nblk := 0, lba := 0 }, index := used.length,
                                        cmd := ckTask 3 d.cls false { ns := n, nblk := 0, lba := 0 } } : CkCmd))
        ckNextCmd j (modJob j (fun x => { x with extents := used, todo := ws.tail ++ ws.take 1 ++ fl }) s4)
    | _, _ => s

def ShardRec.bytes (r : ShardRec) : List Byte :=
  leBytes 8 r.shardId ++ leBytes 2 r.writer ++ leBytes 2 r.extents.length ++ leBytes 4 0 ++ leBytes 8 r.imgLen ++ leBytes 8 0
    ++ leBytes 32 r.digest.toNat ++ r.extents.flatMap Extent.bytes

def ShardRec.parse (bs : List Byte) : ShardRec :=
  { shardId := u bs 0 8, writer := u bs 8 2, imgLen := u bs 16 8, digest := BitVec.ofNat 256 (u bs 32 32),
    extents := (itemsOf 16 (u bs 10 2) (bs.drop 64)).map (fun e => (Extent.parse e).1) }

/-- The image is durable: STORED is set and the record goes to the manifest writer (R384). -/
def drained (j : Nat) (s : State) : State :=
  match ckJob? j s with
  | none => s
  | some x =>
    match x.save, setup? x.setup s with
    | some d, some st =>
      let hf := half? st x.half
      let h := halfRead st x.half 96 32 s
      let r : ShardRec := { shardId := d.shardId, writer := ownAddr s, imgLen := hf.imgLen, digest := BitVec.ofNat 256 (leNat h.1), extents := x.extents }
      let s1 := modHalf x.setup x.half (fun h => { h with stored := true }) h.2
      if peerLost 0 d.manAddr s1 then ckFail j Config.ccFenced 9 d.manAddr s1
      else ownPhasesDone j (ckSend d.manAddr 3 d.runId d.step 0 r.bytes s1)
    | _, _ => s

/-! ## Manifest (R385, R386) -/

def insertRec (r : ShardRec) : List ShardRec → List ShardRec
  | [] => [r]
  | x :: xs => if r.shardId < x.shardId then r :: x :: xs else if r.shardId = x.shardId then r :: xs else x :: insertRec r xs

/-- ASCII "FMS-SW4-IDENTITY". -/
def identityLabel : List Byte := [0x46, 0x4D, 0x53, 0x2D, 0x53, 0x57, 0x34, 0x2D, 0x49, 0x44, 0x45, 0x4E, 0x54, 0x49, 0x54, 0x59]

/-- Seed of the device identity key (R412). -/
def identitySeed : BitVec 256 := Config.sha3 (leBytes 32 (Config.deviceSecret ()).toNat ++ identityLabel)

/-- ASCII "FMS-CKPT-MANIFEST": the context of manifest signatures (R414). -/
def manifestContext : List Byte := [0x46, 0x4D, 0x53, 0x2D, 0x43, 0x4B, 0x50, 0x54, 0x2D, 0x4D, 0x41, 0x4E, 0x49, 0x46, 0x45, 0x53, 0x54]

/-- A manifest over records in rising order of SHARDID (Table 13-5). -/
def manifestBytes (d : SaveDesc) (recs : List ShardRec) (s : State) : List Byte :=
  let body := recs.flatMap ShardRec.bytes
  let h := [0x46, 0x4D, 0x53, 0x4D, 0x41, 0x4E, 0x49, 0x46] ++ leBytes 2 1 ++ [0, 0] ++ leBytes 4 d.nshards ++ leBytes 8 d.runId
    ++ leBytes 8 d.step ++ leBytes 8 s.chip.lcount ++ leBytes 4 body.length ++ leBytes 2 (ownAddr s) ++ [0, 0] ++ leBytes 8 s.chip.serial.toNat
    ++ leBytes 8 0 ++ shaBytes body
  let dig := shaBytes h
  h ++ dig ++ body ++ Config.mlDsaPublic identitySeed ++ Config.mlDsaSign identitySeed manifestContext dig

/-- All records are there: the manifest is signed and written with FUA, then flushed (R386). -/
def commitManifest (j : Nat) (s : State) : State :=
  match ckJob? j s with
  | none => s
  | some x =>
    match x.save with
    | none => s
    | some d =>
      if x.phase = .manifest ∧ x.records.length = d.nshards then
        let m := manifestBytes d x.records s
        let b := ((ns? d.manExt.ns s).map Ns.bs).getD 512
        if m.length > extBytes d.manExt s then ckFail j Config.ccRemoteOp 2 0 s
        else
          let e := { d.manExt with nblk := (m.length + b - 1) / max 1 b }
          let ws := extentCmds 2 d.cls true [e] s
          let fl : CkCmd := { ext := { ns := e.ns, nblk := 0, lba := 0 }, index := 0, cmd := ckTask 3 d.cls false { ns := e.ns, nblk := 0, lba := 0 } }
          ckNextCmd j (modJob j (fun x => { x with phase := .commit, data := m ++ List.replicate (e.nblk * b - m.length) 0, todo := ws ++ [fl] }) s)
      else s

/-- A record arrives at the manifest writer; those of another STEP are discarded. -/
def takeRecord (h : CkHead) (body : List Byte) (s : State) : State :=
  match s.ck.jobs.find? (fun e => e.2.kind == .save && e.2.save.any (fun d => d.runId == h.runId && d.step == h.step && d.manAddr == ownAddr s)) with
  | some (j, _) => commitManifest j (modJob j (fun x => { x with records := insertRec (ShardRec.parse body) x.records }) s)
  | none => s

/-! ## Parity at holders and mirrors (R382) -/

def xorBytes (a b : List Byte) : List Byte := List.zipWith (· ^^^ ·) a b

def setupOf (runId : Nat) (s : State) : Option (Nat × Setup) := s.ck.setups.find? (fun e => e.2.runId == runId)

/-- The half in which a duty builds: the one that is not complete. -/
def buildHalf (d : Duty) : Nat := match d.complete with
  | some c => 1 - c.2
  | none => 0

def modDuty (i g : Nat) (m : Bool) (f : Duty → Duty) (s : State) : State :=
  modSetup i (fun st => { st with duties := st.duties.map (fun d => if d.group = g ∧ d.mirror = m then f d else d) }) s

def dutyOf (st : Setup) (g : Nat) (m : Bool) : Option Duty := st.duties.find? (fun d => d.group == g && d.mirror == m)

/-- Books bytes of a contributor; its image's length stands in the header. -/
def bookContrib (a o : Nat) (data : List Byte) (l : List Contrib) : List Contrib :=
  let c := (l.find? (fun c => c.addr == a)).getD { addr := a, got := 0, imgLen := none }
  let c1 := { c with got := c.got + data.length, imgLen := if o = 0 then some (u data 40 8) else c.imgLen }
  l.filter (fun c => c.addr != a) ++ [c1]

def contribDone (c : Contrib) : Bool := c.imgLen.any (fun n => decide (c.got ≥ n))

/-- Opens a duty's building half for a new STEP. -/
def openBuild (i : Nat) (st : Setup) (d : Duty) (step : Nat) (s : State) : State :=
  modDuty i d.group d.mirror (fun d => { d with building := some step, from' := [] })
    { s with mem := clearRange s.mem (mkey spGddr (d.base + buildHalf d * st.halfSize)) st.halfSize }

/-- Tells every member of a group that its parity is complete. -/
def ackMembers (st : Setup) (g step : Nat) (s : State) : State :=
  (membersOf st g).foldl (fun t a => ckSend a 2 st.runId step 0 [] t) s

/-- The building half is complete. -/
def completeParity (i : Nat) (st : Setup) (d : Duty) (step : Nat) (s : State) : State :=
  let h := buildHalf d
  let s1 := modDuty i d.group d.mirror (fun d => { d with complete := some (step, h), building := none, from' := [] }) s
  if d.mirror then ckSend (holderOf st d.group) 2 st.runId step 0 [] s1
  else if st.level = 3 then
    ckStream (mirrorOf st d.group) 6 st.runId step (st.halfSize / 4064 + 2) 0 (rdMem spGddr (d.base + h * st.halfSize) st.halfSize s1) s1
  else ackMembers st d.group step s1

/-- A contribution of a member at its holder, or of a holder at its mirror. -/
def takeParity (mirror : Bool) (h : CkHead) (data : List Byte) (s : State) : State :=
  match setupOf h.runId s with
  | none => s
  | some (i, st) =>
    let g := if mirror then (st.duties.find? (fun d => d.mirror && holderOf st d.group == h.src)).map Duty.group else some (groupOf st h.src)
    match g.bind (fun g => dutyOf st g mirror) with
    | none => s
    | some d0 =>
      let s0 := ckCount 5 data.length s
      let newest := max (d0.building.getD 0) ((d0.complete.map Prod.fst).getD 0)
      if d0.building ≠ some h.step ∧ h.step ≤ newest then s0
      else
        let s1 := if d0.building = some h.step then s0 else openBuild i st d0 h.step s0
        let a := d0.base + buildHalf d0 * st.halfSize + h.offset
        let s2 := if h.offset + data.length > st.halfSize then s1
          else if mirror then wrMem spGddr a data s1 else wrMem spGddr a (xorBytes (rdMem spGddr a data.length s1) data) s1
        let s3 := modDuty i d0.group mirror (fun d => { d with from' := bookContrib h.src h.offset data d.from' }) s2
        match (setup? i s3).bind (fun st => dutyOf st d0.group mirror) with
        | none => s3
        | some d =>
          let whole := if mirror then d.from'.any (fun c => decide (c.got ≥ st.halfSize))
            else (membersOf st d.group).all (fun m => d.from'.any (fun c => c.addr == m && contribDone c))
          if whole then completeParity i st d h.step s3 else s3

/-- A PARITY_ACK: at a member its half is PROTECTED; from a mirror the holder tells its members. -/
def takeParityAck (h : CkHead) (s : State) : State :=
  match setupOf h.runId s with
  | none => s
  | some (i, st) =>
    match st.duties.find? (fun d => !d.mirror && mirrorOf st d.group == h.src && d.complete.any (fun c => c.1 == h.step)) with
    | some d => if st.level = 3 ∧ h.src ≠ holderOf st (groupOf st (ownAddr s)) then ackMembers st d.group h.step s else mark i st s
    | none => mark i st s
where
  mark (i : Nat) (st : Setup) (s : State) : State :=
    [0, 1].foldl (fun t k => if (half? st k).step = h.step ∧ (half? st k).hstate = .sealed then modHalf i k (fun h => { h with prot := true }) t else t) s

/-! ## Rebuilding (R392) -/

/-- A source's answer to a REBUILD_REQ; OFFSET 0 asks for the half, 1 + g for the parity of group g (log 41). -/
def takeRebuildReq (h : CkHead) (s : State) : State :=
  match setupOf h.runId s with
  | none => ckSend h.src 7 h.runId h.step 0 [] s
  | some (_, st) =>
    if h.offset ≠ 0 then
      match st.duties.find? (fun d => d.group + 1 == h.offset && d.complete.any (fun c => c.1 == h.step)) with
      | some d =>
        let b := d.base + (d.complete.map Prod.snd).getD 0 * st.halfSize
        ckStream h.src 5 h.runId h.step (st.halfSize / 4064 + 2) 0 (rdMem spGddr b st.halfSize s) s
      | none => ckSend h.src 7 h.runId h.step 0 [] s
    else
      match [0, 1].find? (fun k => (half? st k).hstate == .sealed && (half? st k).step == h.step) with
      | some k =>
        let r := halfRead st k 0 (half? st k).imgLen s
        ckStream h.src 5 h.runId h.step ((half? st k).imgLen / 4064 + 2) 0 r.1 r.2
      | none => ckSend h.src 7 h.runId h.step 0 [] s

def rebuildJob (h : CkHead) (s : State) : Option (Nat × CkJob) :=
  s.ck.jobs.find? (fun e => e.2.kind == .rebuild && e.2.usedStep == h.step && (setup? e.2.setup s).any (fun st => st.runId == h.runId) &&
    e.2.streams.any (fun x => x.addr == h.src))

/-- Every stream has ended: the chain is verified (R392). -/
def endRebuild (j : Nat) (x : CkJob) (s : State) : State :=
  match setup? x.setup s with
  | none => s
  | some st =>
    let h := halfRead st x.half 0 128 s
    let hd := ImgHead.parse h.1
    let r := halfRead st x.half 0 (min hd.imgLen st.halfSize) h.2
    let s1 := ckCount 3 r.1.length r.2
    if hd.imgLen ≤ st.halfSize ∧ shardOk r.1 then
      ckComplete j { x with bytes := hd.imgLen } 0 0 0 (modHalf x.setup x.half (fun _ =>
        { Half.fresh with hstate := .sealed, step := x.usedStep, imgLen := hd.imgLen, pieces := imgPieces hd r.1 }) s1)
    else ckFail j Config.ccData 4 0 s1

/-- Data of a source: under PARITY the streams are combined. -/
def takeRebuildData (h : CkHead) (data : List Byte) (s : State) : State :=
  match rebuildJob h s with
  | none => s
  | some (j, x) =>
    match setup? x.setup s with
    | none => s
    | some st =>
      if h.offset + data.length > st.halfSize then s
      else
        let old := halfRead st x.half h.offset data.length s
        let s1 := halfWrite st x.half h.offset (xorBytes old.1 data) old.2
        let s2 := modJob j (fun x => { x with streams := x.streams.map (fun q =>
          if q.addr = h.src then { q with got := q.got + data.length, len := if q.parity then some st.halfSize else if h.offset = 0 then some (u data 40 8) else q.len }
          else q) }) s1
        match ckJob? j s2 with
        | some y => if y.streams.all (fun q => q.len.any (fun n => decide (q.got ≥ n))) then endRebuild j y s2 else s2
        | none => s2

/-- A source that a rebuild still waits for and that cannot answer (R213, R221). -/
def lostSource (x : CkJob) (s : State) : Option Nat :=
  if x.kind = .rebuild then
    (x.streams.find? (fun q => !q.len.any (fun n => decide (q.got ≥ n)) && peerLost 0 q.addr s)).map Stream.addr
  else none

/-- Ends every rebuild that has lost a source, with reason PEER. -/
def watchRebuilds (s : State) : State :=
  s.ck.jobs.foldl (fun (t : State) (e : Nat × CkJob) => match lostSource e.2 t with
    | some a => ckFail e.1 Config.ccFenced 9 a t
    | none => t) s

/-! ## Restoring (R388 to R391) -/

/-- Elements of a piece or target as (global index, position). -/
def indexOf (r : CkRegion) (pos : Nat) : List Nat :=
  let d := fun (i : Nat) => r.extent.getD i 1
  [pos / (d 1 * d 2 * d 3) % max 1 (d 0), pos / (d 2 * d 3) % max 1 (d 1), pos / d 3 % max 1 (d 2), pos % max 1 (d 3)].zipWith
    (fun a o => a + o) r.origin

/-- Position in a piece of a global index; none outside it. -/
def posIn (p : CkRegion) (ix : List Nat) : Option Nat :=
  let rel := (List.range 4).map (fun i => (ix.getD i 0, p.origin.getD i 0, p.extent.getD i 1))
  if rel.all (fun t => decide (t.2.1 ≤ t.1 ∧ t.1 < t.2.1 + t.2.2)) then
    some (rel.foldl (fun a t => a * t.2.2 + (t.1 - t.2.1)) 0)
  else none

/-- Pieces of images that can serve a target: same name and global shape. -/
def serves (t p : CkRegion) : Bool := p.kind == t.kind && p.name == t.name && (t.kind == 1 || p.shape == t.shape)

/-- The piece and position of each element of a target; none where no piece covers it. -/
def coverOf (t : CkRegion) (ps : List (Nat × CkRegion)) : Option (List ((Nat × CkRegion) × Nat)) :=
  (List.range (ckElems t)).mapM (fun k => ps.findSome? (fun p =>
    if serves t p.2 then (posIn p.2 (indexOf t k)).map (fun q => (p, q)) else none))

/-- Is a target covered? -/
def covered (t : CkRegion) (ps : List (Nat × CkRegion)) : Bool :=
  if t.kind = 1 then ps.any (fun p => serves t p.2) else (coverOf t ps).isSome

/-- Code of element `q` of a piece in its body, and its scale code. -/
def pieceCode (p : CkRegion) (body : List Byte) (q : Nat) : Nat × Nat :=
  let w := fmtBits p.fmt
  let c := leNat ((body.drop (p.elem + q * w / 8)).take 5) / 2 ^ (q * w % 8) % 2 ^ w
  (c, if fmtMx p.fmt then u body (p.scale + q / 32) 1 else 0)

/-- Bytes of a target's elements and scales from the bodies of the images; `gen` for stochastic rounding. The format is the entry's
FMT also where its CVT names another one, which the spec does not settle (DESIGN CHOICE, log 124). -/
def targetBytes (t : CkRegion) (bodies : List (List Byte)) (cov : List ((Nat × CkRegion) × Nat)) (gen : Nat) : List Byte × List Byte :=
  let cs := cov.map (fun c => (c.1.2.fmt, pieceCode c.1.2 (bodies.getD c.1.1 []) c.2))
  if cs.all (fun c => c.1 == t.fmt) then
    (packElems (fmtBits t.fmt) (cs.map (fun c => c.2.1)),
     if fmtMx t.fmt then ((cs.zipIdx.filter (fun e => e.2 % 32 == 0)).map (fun e => BitVec.ofNat 8 e.1.2.2)) else [])
  else
    let cvt := BitVec.ofNat 8 (t.cvt.toNat / 16 * 16 + t.fmt)
    let vals := cs.map (fun c => match fmtElem c.1 with
      | some el => if fmtMx c.1 then scaled c.2.2 (el.decode c.2.1) else el.decode c.2.1
      | none => FVal.zero)
    let r := recode cvt gen vals
    (packElems (fmtBits t.fmt) r.codes, r.scales.map (BitVec.ofNat 8))

/-- Places every target from images: bodies by number, pieces with the number of their image. -/
def placeTargets (j : Nat) (bodies : List (List Byte)) (ps : List (Nat × CkRegion)) (s : State) : State :=
  match ckJob? j s with
  | none => s
  | some x =>
    match x.regions.zipIdx.find? (fun e => !covered e.1 ps) with
    | some e => ckFail j Config.ccRemoteOp 8 e.2 s
    | none =>
      let s1 := modJob j (fun x => { x with phase := .place, reads := [] }) s
      x.regions.zipIdx.foldl (fun t e =>
        if e.1.kind = 1 then
          match ps.find? (fun p => serves e.1 p.2) with
          | some p => placeSlot x.part (e.1.elem % 16) (((bodies.getD p.1 []).drop p.2.elem).take saveBytes) t
          | none => t
        else match coverOf e.1 ps with
          | none => t
          | some cov =>
            let g := seedGen 0 t
            let r := targetBytes e.1 bodies cov g.1
            let wr := fun (b va : Nat) (bs : List Byte) (t : State) =>
              modJob j (fun x => { x with reads := x.reads ++ [b], bytes := x.bytes + bs.length })
                (startXfer (Xfer.mk' x.part 4 0 j (ckOwner j b) true (Rows.flat va bs.length) bs) t).2
            let t1 := wr (2 * e.2) e.1.elem r.1 g.2
            if r.2.isEmpty then t1 else wr (2 * e.2 + 1) e.1.scale r.2 t1) s1

/-- A target's write has ended. -/
def placeDone (j b code : Nat) (s : State) : State :=
  if code ≠ 0 then ckFail j code 1 (b / 2) s
  else modJob j (fun x => { x with reads := x.reads.filter (· != b) }) s

/-- Starts reading the manifest of the next candidate, or ends the restore (R390). -/
def nextCandidate (j i : Nat) (s : State) : State :=
  match ckJob? j s with
  | none => s
  | some x =>
    match x.extents[i]?, x.restore with
    | some e, some d => ckNextCmd j (modJob j (fun x => { x with
        phase := .readManifest, cand := i, data := [], shards := [], man := none, busy := false, todo := extentCmds 1 d.cls false [e] s }) s)
    | _, _ => ckFail j Config.ccRemoteOp 7 x.extents.length s

/-- A candidate is rejected: its extents are listed for reclaim, and the next one is examined (R390). -/
def rejectCandidate (j : Nat) (s : State) : State :=
  match ckJob? j s with
  | none => s
  | some x =>
    let es := (x.extents[x.cand]?).toList ++ (x.man.getD []).flatMap ShardRec.extents
    nextCandidate j (x.cand + 1) (ckCount 7 1 (modJob j (fun x => { x with reclaim := x.reclaim ++ es }) s))

/-- A manifest as read: step and shards, where it passes the checks of R390. -/
def checkManifest (x : CkJob) (d : RestoreDesc) (m : List Byte) (s : State) : Option (Nat × List ShardRec) :=
  let n := u m 12 4
  let bl := u m 40 4
  let body := (m.drop 128).take bl
  let pub := (m.drop (128 + bl)).take 1312
  let sig := (m.drop (1440 + bl)).take 2420
  let step := u m 24 8
  let recs := shardsOf n body
  if m.take 10 == [0x46, 0x4D, 0x53, 0x4D, 0x41, 0x4E, 0x49, 0x46, 1, 0] && u m 16 8 == d.runId &&
      (m.drop 96).take 32 == shaBytes (m.take 96) && (m.drop 64).take 32 == shaBytes body &&
      (((part? x.part s).map Part.trust).getD []).contains (Config.sha3 pub) && Config.mlDsaVerify pub manifestContext ((m.drop 96).take 32) sig &&
      (d.step == 0 || d.step == step) then some (step, recs)
  else none
where
  shardsOf : Nat → List Byte → List ShardRec
    | 0, _ => []
    | k + 1, bs =>
      let r := ShardRec.parse bs
      r :: shardsOf k (bs.drop (64 + 16 * r.extents.length))

/-- Does a shard's image belong to the manifest and verify (R390)? -/
def shardMatches (d : RestoreDesc) (step : Nat) (r : ShardRec) (img : List Byte) : Bool :=
  let h := ImgHead.parse img
  h.runId == d.runId && h.step == step && h.shardId == r.shardId && h.ok && tablesOk h img &&
  (img.drop 96).take 32 == leBytes 32 r.digest.toNat

/-- The reads of the phase of a restore are whole. -/
def restoreReadDone (j : Nat) (s : State) : State :=
  match ckJob? j s with
  | none => s
  | some x =>
    match x.restore with
    | none => s
    | some d =>
      let readShard := fun (k : Nat) (recs : List ShardRec) (t : State) => match recs[k]? with
        | some r => ckNextCmd j (modJob j (fun x => { x with phase := .readShards, data := [], todo := extentCmds 1 d.cls false r.extents t }) t)
        | none => t
      match x.phase with
      | .readManifest =>
        match checkManifest x d x.data s with
        | none => rejectCandidate j s
        | some (step, recs) => readShard 0 recs (modJob j (fun x => { x with man := some recs, usedStep := step, source := 2 }) s)
      | .readShards =>
        let recs := x.man.getD []
        let imgs := x.shards ++ [x.data]
        if imgs.length < recs.length then readShard imgs.length recs (modJob j (fun x => { x with shards := imgs }) s)
        else
          let pairs := recs.zip imgs
          if pairs.all (fun p => shardMatches d x.usedStep p.1 p.2) && imgs.all (fun i => segmentsOk (ImgHead.parse i) i) then
            let s1 := ckCount 3 (imgs.foldl (fun a i => a + i.length) 0) s
            placeTargets j (imgs.map (fun i => imgBody (ImgHead.parse i) i))
              (imgs.zipIdx.flatMap (fun e => (imgPieces (ImgHead.parse e.1) e.1).map (fun p => (e.2, p)))) s1
          else rejectCandidate j (ckCount 7 (pairs.countP (fun p => !shardMatches d x.usedStep p.1 p.2)) s)
      | _ => s

/-- Starts a restore: from memory where it can (R389), else from the store. -/
def startRestore (j : Nat) (s : State) : State :=
  match ckJob? j s with
  | none => s
  | some x =>
    match x.restore, setup? x.setup s with
    | some d, some st =>
      let ok := fun (h : Nat) => (half? st h).step == d.step && ((half? st h).hstate == .captured || (half? st h).hstate == .sealed)
      let from' := if bitOf 0 d.sources then [0, 1].find? ok else none
      let miss := match from' with
        | some h => (x.regions.zipIdx.find? (fun e => !covered e.1 ((half? st h).pieces.map (fun p => (0, p))))).map Prod.snd
        | none => some 0
      match from', miss with
      | some h, none =>
        let b := halfRead st h (bodyAt (half? st h)) (bodyLenOf (half? st h)) s
        placeTargets j [b.1] ((half? st h).pieces.map (fun p => (0, p)))
          (modJob j (fun x => { x with half := h, source := 1, usedStep := d.step }) b.2)
      | _, m => if bitOf 1 d.sources then nextCandidate j 0 s else ckFail j Config.ccRemoteOp 8 (m.getD 0) s
    | _, _ => s

/-! ## Storage commands of jobs -/

/-- A storage command of a job has ended. -/
def ckCmdDone (j code : Nat) (data : List Byte) (s : State) : State :=
  match ckJob? j s with
  | none => s
  | some x =>
    let c := x.cur
    let s1 := modJob j (fun x => { x with busy := false, cur := none }) s
    match x.kind with
    | .save =>
      if code ≠ 0 then ckFail j (if code = Config.ccFenced then code else Config.ccRemoteOp) 2 ((c.map CkCmd.index).getD 0) s1
      else match c with
        | some k =>
          if k.cmd.opc = 2 then
            ckNextCmd j (ckCount 4 (extBytes k.ext s) (modJob j (fun x => { x with
              written := if x.written.contains ((x.extents[k.index]?).getD k.ext) then x.written else x.written ++ [(x.extents[k.index]?).getD k.ext] }) s1))
          else ckNextCmd j s1
        | none => ckNextCmd j s1
    | .restore =>
      if code ≠ 0 then rejectCandidate j s1
      else
        let s2 := modJob j (fun x => { x with data := x.data ++ data }) s1
        if x.todo.isEmpty then restoreReadDone j s2 else ckNextCmd j s2
    | .rebuild => s1

/-- Takes up the storage commands that have ended. -/
def takeCkDone (s : State) : State :=
  s.sb.ckDone.foldl (fun t e => ckCmdDone e.1 e.2.1 e.2.2 t) (modSb (fun b => { b with ckDone := [] }) s)

/-- A transfer of the checkpoint engine has ended. -/
def ckXferDone (j b code : Nat) (f : Xfer) (s : State) : State := if f.write then placeDone j b code s else captureRead j b code f.data s

/-- May a job start: its counter satisfies its threshold (R378), and its CQ is not blocked (R248)? -/
def armPassed (x : CkJob) (s : State) : Bool :=
  x.save.all (fun d => !bitOf 0 d.flags || tallyPassed x.part d.armTally d.armThresh s) && !cqBlocked x.cq s

/-- Zeroes a half. -/
def zeroHalf (st : Setup) (h : Nat) (s : State) : State := halfWrite st h 0 (List.replicate st.halfSize 0) s

/-- The group whose parity a rebuild asks a source for: that of the members it names, else one that the source serves. -/
def groupAsked (st : Setup) (x : CkJob) (source : Nat) : Nat :=
  match x.streams.find? (fun q => !q.parity) with
  | some q => groupOf st q.addr
  | none => ((List.range (groupCount st)).find? (fun j => holderOf st j == source || mirrorOf st j == source)).getD 0

/-- Starts a rebuild: its half is zeroed and its streams are asked for (R392). -/
def startRebuild (x : CkJob) (s : State) : State :=
  match setup? x.setup s with
  | none => s
  | some st =>
    let v := zeroHalf st x.half (modHalf x.setup x.half (fun _ => { Half.fresh with step := x.usedStep }) s)
    x.streams.foldl (fun w q => ckSend q.addr 4 st.runId x.usedStep (if q.parity then groupAsked st x q.addr + 1 else 0) [] w) v

/-- A job that waits to start does so where it may. -/
def beginCk (j : Nat) (s : State) : State :=
  match ckJob? j s with
  | none => s
  | some x =>
    if x.phase ≠ .armed ∨ armPassed x s = false then s
    else
      let t := wakeFor 3 s
      match x.kind with
      | .save => startCapture j t
      | .restore => startRestore j (modJob j (fun x => { x with phase := .readManifest }) t)
      | .rebuild => startRebuild x (modJob j (fun x => { x with phase := .rebuild }) t)

/-- Takes up jobs that waited behind a blocked CQ (R248); a save that waits on a counter has its own event. -/
def kickCk (s : State) : State :=
  (tkeys (s.ck.jobs.filter (fun e => e.2.phase == .armed && e.2.save.all (fun d => !bitOf 0 d.flags)))).foldl (fun t j => beginCk j t) s

end Sys2Proof.Machine
end

