-- ==== Sys2Proof/Machine/CipherOps.lean ====
section
/-! DEFINITION. The cipher engine (14): key slots, checks, descriptor rings. -/

namespace Sys2Proof.Machine

open Sys2Proof

def modSec (f : Sec → Sec) (s : State) : State := { s with sec := f s.sec }
def keySlot? (n : Nat) (s : State) : Option KeySlot := tget s.sec.keys n
def cring? (p : Nat) (s : State) : Option CipherRing := tget s.sec.rings p
def modRing (p : Nat) (f : CipherRing → CipherRing) (s : State) : State := modSec (fun k => { k with rings := tmod k.rings p f }) s
def ceCount (p c n : Nat) (s : State) : State := bump (bkCipher p) c n s

/-! ## Checks and cores (R398, R399) -/

/-- Die of a core: 0 to 15 AES, 16 to 19 SHA3, 20 and 21 ML-DSA (Table 14-1). -/
def coreDie (c : Nat) : Nat := if c < 16 then c / 8 else if c < 20 then (c - 16) / 2 else c - 20

/-- Local-counter ticks of one second. -/
def secTicks : Nat := 100000000

/-- A check mismatch at a core; the third within 1 s takes it out of service (R399). -/
def coreMiss (c : Nat) (s : State) : State :=
  let ts := (tgetD s.sec.misses c []).filter (fun t => decide (s.chip.lcount < t + secTicks)) ++ [s.chip.lcount]
  let s1 := modSec (fun k => { k with misses := tset k.misses c ts }) s
  if ts.length ≥ 3 ∧ !s.sec.coresOut.contains c then
    event 0x241 2 0 0xFF [BitVec.ofNat 8 (coreDie c), BitVec.ofNat 8 c, 0, 0] (modSec (fun k => { k with coresOut := k.coresOut ++ [c] }) s1)
  else s1

/-! ## Keys (R400 to R406) -/

/-- Key slots that a partition holds. -/
def keysOf (p : Nat) (s : State) : Nat := s.sec.keys.countP (fun e => e.2.part == p)

/-- The lowest free slot, even with its neighbour free for a pair (log 9). -/
def freeKey (pair : Bool) (s : State) : Option Nat :=
  let ks := tkeys s.sec.keys
  if pair then (lowestFree (ks.map (· / 2)) 0 32768).map (2 * ·) else lowestFree ks 0 65536

/-- A queue pair not in RESET names the slot or its pair (R404). -/
def keyNamed (n : Nat) (k : KeySlot) (s : State) : Bool :=
  s.qe.qps.any (fun e => e.2.qstate != .reset && e.2.keySlot != 0xFFFFFFFF && k.usage == 1 && e.2.keySlot / 2 == n / 2)

/-- Bytes of key material of a USAGE are valid (Table 14-3). -/
def keyLenOk (usage n : Nat) : Bool :=
  if usage = 1 then n == 32 else if usage = 2 ∨ usage = 4 then n == 16 || n == 32 else if usage = 3 then n == 32 || n == 64 else false

/-- First three bytes of the encryption of a zero block (R405). -/
def keyCheck (k : KeySlot) : Nat := leNat ((Config.aes 7 true k.key [] [] (List.replicate 16 0)).1.take 3)

/-! ## Descriptors (R408 to R411) -/

def CipherDesc.parse (bs : List Byte) : CipherDesc :=
  { op := u bs 0 1, mode := u bs 1 1, flags := u bs 2 1, keySlot := u bs 4 4, src := u bs 8 8, dst := u bs 16 8, length := u bs 24 4,
    aadLen := u bs 28 4, aad := u bs 32 8, tag := u bs 40 8, iv := (bs.drop 48).take 16, tally := u bs 72 2,
    zeroSet := u bs 3 1 != 0 || u bs 74 53 != 0 || u bs 127 1 / 2 != 0 }

/-- A field that does not suit the operation (Table 14-6, FIELD). -/
def descField (d : CipherDesc) : Bool :=
  let crypt := d.op == 1 || d.op == 2
  let modeOk := if crypt then decide (1 ≤ d.mode ∧ d.mode ≤ 5) else if d.op = 3 ∨ d.op = 4 then d.mode == 6
    else if d.op = 5 ∨ d.op = 6 then d.mode == 0 else false
  d.zeroSet || !modeOk || decide (d.flags ≥ 4) || (bitOf 0 d.flags && d.mode != 1) || (!crypt && d.dst != 0) ||
  (if d.mode = 4 then decide (d.aadLen > 2 ^ 20) || u d.iv 12 4 != 0 else d.aadLen != 0) ||
  (decide (d.op ≥ 5) && d.keySlot != 0xFFFFFFFF)

/-- LENGTH out of the range of Table 14-5. -/
def descLength (d : CipherDesc) : Bool :=
  let n := d.length
  if d.op = 6 then n != 32
  else if d.mode = 1 then
    if d.op = 1 ∧ bitOf 0 d.flags then decide (n > 2 ^ 30 - 16) else n % 16 != 0 || decide (n < 16 ∨ n > 2 ^ 30)
  else if d.mode = 5 then decide (n < 16 ∨ n > 2 ^ 24)
  else decide (n > 2 ^ 30)

/-- The key of a descriptor where it is suitable: none is DETAIL KEY; HASH and SIG_VERIFY need none. -/
def descKey (p : Nat) (d : CipherDesc) (s : State) : Option (Option KeySlot) :=
  if d.op ≥ 5 then some none
  else match keySlot? d.keySlot s with
    | some k => if k.part = p ∧ k.usage = (if d.mode = 5 then 3 else 2) then some (some k) else none
    | none => none

/-- The inputs of a descriptor in the order they are read: address and length. -/
def descInputs (d : CipherDesc) : List (Nat × Nat) :=
  if d.op = 6 then [(d.aad, 32), (d.src, 1312), (d.tag, 2420)]
  else
    [(d.aad, if d.mode = 4 then d.aadLen else 0), (d.src, d.length),
     (d.tag, if (d.mode = 4 ∧ d.op = 2) ∨ d.op = 4 then 16 else 0)]

/-- A list of bytes brought to a length. -/
def fitBytes (n : Nat) (bs : List Byte) : List Byte := (bs ++ List.replicate (n - bs.length) 0).take n

/-- PKCS#7 padding of a decrypted message: its length where the padding is valid. -/
def unpad (bs : List Byte) : Option Nat :=
  let n := (bs.getD (bs.length - 1) 0).toNat
  if 1 ≤ n ∧ n ≤ 16 ∧ (bs.drop (bs.length - n)).all (fun b => b.toNat == n) then some (bs.length - n) else none


/-- What a descriptor computes from its inputs (R409, R410): output, tag, code and detail. The ciphers are uninterpreted (log 7). -/
def descCompute (d : CipherDesc) (key : List Byte) (aad src tag : List Byte) : List Byte × List Byte × Nat × Nat :=
  if d.op = 5 then ([], leBytes 32 (Config.sha3 src).toNat, 0, 0)
  else if d.op = 6 then ([], [], if Config.mlDsaVerify src [] aad tag then (0, 0) else (Config.ccProtection, 6))
  else
    let iv := if d.mode = 4 then d.iv.take 12 else d.iv
    if d.op = 3 ∨ d.op = 4 then
      let t := fitBytes 16 (Config.aes 6 true key [] [] src).2
      if d.op = 3 then ([], t, 0, 0) else ([], [], if t = tag then (0, 0) else (Config.ccProtection, 1))
    else if d.op = 1 then
      let pad := 16 - d.length % 16
      let m := if d.mode = 1 ∧ bitOf 0 d.flags then src ++ List.replicate pad (BitVec.ofNat 8 pad) else src
      let r := Config.aes d.mode true key iv aad m
      (fitBytes m.length r.1, if d.mode = 4 then fitBytes 16 r.2 else [], 0, 0)
    else
      let r := Config.aes d.mode false key iv aad src
      let out := fitBytes d.length r.1
      if d.mode = 4 ∧ fitBytes 16 r.2 ≠ tag then (List.replicate d.length 0, [], Config.ccProtection, 1)
      else if d.mode = 1 ∧ bitOf 0 d.flags then
        match unpad out with
        | some n => (out.take n, [], 0, 0)
        | none => (List.replicate d.length 0, [], Config.ccProtection, 2)
      else (out, [], 0, 0)

def cOwner (p idx k : Nat) : Owner := { kind := .cipher, a := p, b := 8 * idx + k, c := 0 }
def cXfer (p : Nat) (o : Owner) (write : Bool) (va n : Nat) (data : List Byte) : Xfer :=
  Xfer.mk' p 1 0 0xFFFFFFFF o write (Rows.flat va n) data

/-- The 4 KiB pieces of the input that had arrived when a read failed: their output is overwritten with zeros (R410). -/
def wholePieces (n : Nat) : Nat := n / 4096 * 4096

def modDesc (p idx : Nat) (f : StartedDesc → StartedDesc) (s : State) : State :=
  modRing p (fun r => { r with descs := r.descs.map (fun d => if d.idx = idx then f d else d) }) s

/-- Starts reading the next input that has bytes, or computes (R396, R397). -/
def readInput (p : Nat) (e : StartedDesc) : Nat → List (List Byte) → State → State
  | 0, _, s => s
  | fuel + 1, got, s =>
    match (descInputs e.desc)[got.length]? with
    | some (a, n) =>
      if n = 0 then readInput p e fuel (got ++ [[]]) s
      else
        let r := startXfer (cXfer p (cOwner p e.idx 0) false a n []) s
        runReady r.1 [] (modDesc p e.idx (fun d => { d with st := .reading r.1 got }) r.2)
    | none =>
      let c := descCompute e.desc ((e.key.map KeySlot.key).getD []) (got.getD 0 []) (got.getD 1 []) (got.getD 2 [])
      ceCount p 2 e.desc.length (modDesc p e.idx (fun d => { d with st := .computed c.1 c.2.1 c.2.2.1 c.2.2.2 }) s)

/-- Starts a descriptor (R404, R409, R410). -/
def startDesc (p idx : Nat) (bs : List Byte) (s : State) : State :=
  let d := CipherDesc.parse bs
  let add := fun (k : Option KeySlot) (st : DescSt) (s : State) =>
    let e : StartedDesc := { idx := idx, desc := d, key := k, st := st }
    modRing p (fun r => { r with descs := r.descs ++ [e], ci := succ32 r.ci }) s
  let no := fun (code detail : Nat) => add none (.computed [] [] code detail) s
  if descField d then no Config.ccProtection 5
  else if descLength d then no Config.ccLength 0
  else match descKey p d s with
    | none => no Config.ccProtection 4
    | some k => readInput p { idx := idx, desc := d, key := k, st := .done 0 0 0 } 4 [] (add k (.done 0 0 0) s)

def ringBase (r : CipherRing) (i : Nat) : Nat := r.base + 128 * (i % 2 ^ r.log)

/-- The ring's descriptor is not there yet (R244). -/
def cipherAhead (p tries : Nat) (s : State) : State :=
  let g := nextTry tries
  let s1 := modRing p (fun r => { r with loop := g.1 }) s
  if g.2 then ceCount p 7 1 (modRing p (fun r => { r with status := Config.doorbellAhead }) s1) else s1

/-- The bytes of the ring's next slot have been read. -/
def cipherGot (p tries : Nat) (r : CipherRing) (bs : List Byte) (s : State) : State :=
  if phaseOk (bs.getD 127 0) r.ci r.log then startDesc p r.ci bs s else cipherAhead p tries s

/-- The ring's read loop (R411, as R244). -/
def cipherRun (p : Nat) : Nat → Nat → State → State
  | 0, _, s => s
  | fuel + 1, tries, s =>
    match cring? p s with
    | none => s
    | some r =>
      if r.ci = r.db ∨ r.loop ≠ .idle ∨ r.status ≠ 0 ∨ backPressure p s then s
      else match ringRead p (ringBase r r.ci) 128 s with
        | .fail _ t => modRing p (fun r => { r with db := r.ci }) t
        | .wait t =>
          let x := startNow (cXfer p { kind := .cipher, a := p, b := 2 ^ 40, c := 0 } false (ringBase r r.ci) 128 []) t
          modRing p (fun r => { r with loop := .stalled x.1 tries }) x.2
        | .ok bs t => cipherRun p fuel 0 (cipherGot p tries r bs t)

/-- The ring goes on, its back-off at `tries`. -/
def cipherTry (p tries : Nat) (s : State) : State :=
  cipherRun p (((cring? p s).map (fun r => diff32 r.db r.ci)).getD 0 + 1) tries s

def cipherKick (p : Nat) (s : State) : State := cipherTry p 0 s

/-! ## Completion (R410, R411) -/

/-- Writes a part of an outcome; a write that cannot be done at once goes by a transfer. -/
def putOutcome (p k va : Nat) (bs : List Byte) (s : State) : Bool × State :=
  match ringWrite p va bs s with
  | .ok _ t => (true, t)
  | .fail _ t => (true, t)
  | .wait t => (false, (startNow (cXfer p { kind := .cipher, a := p, b := 2 ^ 41 + k, c := 0 } true va bs.length bs) t).2)

/-- The oldest descriptor's DONE is written: it is counted, its counter incremented and its vector sent. -/
def descDone (p : Nat) (r : CipherRing) (e : StartedDesc) (code detail : Nat) (s : State) : State :=
  let s1 := modRing p (fun r => { r with descs := r.descs.drop 1, di := succ32 r.di }) s
  let s2 := ceCount p (if code = 0 then 0 else 1) 1 s1
  let s3 := if detail = 1 ∨ detail = 6 then ceCount p 3 1 s2 else s2
  let s4 := if e.desc.tally = 0xFFFF then s3 else tallyAdd p e.desc.tally 1 s3
  if bitOf 1 e.desc.flags then msix r.func r.vec s4 else s4

/-- DONE is written in ring order, after OUTLEN, CODE and DETAIL. -/
def drainRing (p : Nat) : Nat → State → State
  | 0, s => s
  | fuel + 1, s =>
    match cring? p s with
    | none => s
    | some r =>
      match r.descs with
      | e :: _ =>
        (match e.st with
         | .done n c d =>
           let a := ringBase r e.idx
           let w := putOutcome p 0 (a + 76) (leBytes 4 n ++ [BitVec.ofNat 8 c, BitVec.ofNat 8 d, 0, 0]) s
           if !w.1 then modDesc p e.idx (fun g => { g with st := .closing c d }) w.2
           else
             let v := putOutcome p 1 (a + 126) [1] w.2
             if !v.1 then modDesc p e.idx (fun g => { g with st := .closing c d }) v.2
             else drainRing p fuel (descDone p r e c d v.2)
         | _ => s)
      | [] => s

def ringFuel (p : Nat) (s : State) : Nat := ((cring? p s).map (fun r => r.descs.length)).getD 0 + 1

/-- Starts the writes of a descriptor's outcome: its output and tag, or zeros over what was written at DST. -/
def releaseDesc (p : Nat) (e : StartedDesc) (out tag : List Byte) (code detail : Nat) (s : State) : State :=
  let ws := (if out.isEmpty then [] else [(1, e.desc.dst, out)]) ++ (if tag.isEmpty then [] else [(2, e.desc.tag, tag)])
  let n := if code = 0 ∧ e.desc.op ≤ 2 then out.length else 0
  let r := ws.foldl (fun (a : List (Nat × List Byte × Nat) × State) w =>
    let x := startXfer (cXfer p (cOwner p e.idx w.1) true w.2.1 w.2.2.length w.2.2) a.2
    (a.1 ++ [(x.1, [], 0)], x.2)) ([], s)
  let xs := r.1.map (fun w => w.1)
  let st : DescSt := if xs.isEmpty then .done n code detail else .writing xs n code detail
  let s1 := xs.foldl (fun t x => runReady x [] t) (modDesc p e.idx (fun d => { d with st := st }) r.2)
  drainRing p (ringFuel p s1) s1

/-- A write of an outcome has ended; a failed one takes the descriptor's code, and what was written is zeroed. -/
def writeEnded (p : Nat) (e : StartedDesc) (x k code : Nat) (f : Xfer) (s : State) : State :=
  match e.st with
  | .writing xs n c d =>
    let left := xs.filter (· != x)
    if code = 0 ∨ k = 3 then
      let s1 := modDesc p e.idx (fun g => { g with st := if left.isEmpty then .done n c d else .writing left n c d }) s
      drainRing p (ringFuel p s1) s1
    else
      let written := if k = 1 then f.pos else n
      let c1 := if c = 0 then code else c
      if written = 0 then
        let s1 := modDesc p e.idx (fun g => { g with st := if left.isEmpty then .done 0 c1 0 else .writing left 0 c1 0 }) s
        drainRing p (ringFuel p s1) s1
      else
        let z := startXfer (cXfer p (cOwner p e.idx 3) true e.desc.dst written (List.replicate written 0)) s
        runReady z.1 [] (modDesc p e.idx (fun g => { g with st := .writing (left ++ [z.1]) 0 c1 0 }) z.2)
  | _ => s

/-- A transfer of the oldest descriptor's outcome has ended: after the fields comes DONE, after DONE the next descriptor. -/
def outcomeEnded (p k : Nat) (s : State) : State :=
  match cring? p s with
  | none => s
  | some r =>
    match r.descs with
    | e :: _ =>
      (match e.st with
       | .closing c d =>
         let v := if k = 0 then putOutcome p 1 (ringBase r e.idx + 126) [1] s else (true, s)
         if !v.1 then v.2
         else
           let t := descDone p r e c d v.2
           drainRing p (ringFuel p t) t
       | _ => s)
    | [] => s

/-- A transfer of a descriptor ring has ended. -/
def cipherXferDone (x : Nat) (f : Xfer) (code : Nat) (s : State) : State :=
  let p := f.owner.a
  if f.owner.b ≥ 2 ^ 41 then outcomeEnded p (f.owner.b - 2 ^ 41) s
  else if f.owner.b = 2 ^ 40 then
    match cring? p s with
    | none => s
    | some r =>
      let s1 := modRing p (fun r => { r with loop := .idle }) s
      match r.loop with
      | .stalled _ tries => if code ≠ 0 then modRing p (fun r => { r with db := r.ci }) s1 else cipherKick p (cipherGot p tries r f.data s1)
      | _ => s
  else
    match (cring? p s).bind (fun r => r.descs.find? (fun d => d.idx == f.owner.b / 8)) with
    | none => s
    | some e =>
      match e.st with
      | .reading _ got =>
        if code ≠ 0 then
          let z := if e.desc.op ≤ 2 ∧ got.length = 1 then List.replicate (wholePieces f.pos) (0 : Byte) else []
          modDesc p e.idx (fun d => { d with st := .computed z [] code 0 }) s
        else readInput p e 4 (got ++ [f.data]) s
      | _ => writeEnded p e x (f.owner.b % 8) code f s

end Sys2Proof.Machine
end

