-- ==== Sys2Proof/Machine/PuntOps.lean ====
section
/-! DEFINITION. The punt and inject rings and the report cards of the packet pipeline (11). -/

namespace Sys2Proof.Machine

open Sys2Proof

/-! ## Slots whose byte 63 is written last -/

/-- A transfer of the pipeline in a partition's memory (log 42: AGENT 1). -/
def ppXfer (part : Nat) (k : OwnerKind) (a b : Nat) (write : Bool) (va n : Nat) (data : List Byte) : Xfer :=
  Xfer.mk' part 1 0 0xFFFFFFFF { kind := k, a := a, b := b, c := 0 } write (Rows.flat va n) data

/-- The bytes of a slot with byte 63 as the previous pass left it: the phase that is not valid yet (R237). -/
def slotBefore (phase : Nat) (bs : List Byte) : List Byte := bs.set 63 (BitVec.ofNat 8 (1 - phase))

/-- Is the ring's next slot free? Consumption is not visible: once the ring has been filled it is a free value (log 43). -/
def slotFree (count log : Nat) (s : State) : Bool × State :=
  if count < 2 ^ log then (true, s)
  else
    let d := draw s
    (d.1 &&& 1 == 1, d.2)

/-! ## Punt (R346) -/

/-- Header of a punt slot. -/
def puntHeader (len node ver rule : Nat) (cut : Bool) (s : State) : List Byte :=
  leBytes 2 len ++ [BitVec.ofNat 8 node, BitVec.ofNat 8 ver] ++ leBytes 2 rule ++ [if cut then 1 else 0, 0] ++ leBytes 8 (gtimeNs s)
    ++ leBytes 8 s.chip.lcount ++ List.replicate 40 0

/-- Starts the write of the oldest punted frame that waits. -/
def pumpPunt (s : State) : State :=
  match s.pp.punt, s.pp.puntXfer, s.pp.puntWait with
  | some p, none, f :: _ =>
    let i := s.pp.puntTail
    let r := startXfer (ppXfer 0 .punt 0 0 true (p.punt + 4096 * (i % 2 ^ p.puntLog)) f.bytes.length
      (slotBefore (phaseOf i p.puntLog) f.bytes)) s
    runReady r.1 [] (modPipe (fun q => { q with puntXfer := some r.1 }) r.2)
  | _, _, _ => s

/-- A PUNT frame goes into the next punt slot, or is dropped where the ring is full or none is named. -/
def puntFrame (node ver rule : Nat) (f : List Byte) (room : Room) (s : State) : State :=
  match s.pp.punt with
  | none => freeRoom room (pcount 0 6 1 s)
  | some p =>
    let r := slotFree (s.pp.puntTail + s.pp.puntWait.length) p.puntLog s
    if !r.1 then freeRoom room (pcount 0 6 1 r.2)
    else
      let bs := puntHeader f.length node ver rule (decide (f.length > 4032)) r.2 ++ f.take 4032
      pumpPunt (modPipe (fun q => { q with puntWait := q.puntWait ++ [{ version := ver, bytes := bs, room := room }] }) r.2)

/-- A version retires when its last punted frame is placed (R330). -/
def retireVersions (s : State) : State :=
  let held := fun (r : RuleSet) => s.pp.puntWait.any (fun f => f.version == r.version)
  match (s.pp.retiring.filter (fun r => !held r)).getLast? with
  | some r => modPipe (fun p => { p with retiring := p.retiring.filter held, lastRetired := some r }) s
  | none => s

/-- The write of a punted frame, or of its phase, has ended. A write that fails loses the frame. -/
def puntDone (b code : Nat) (s : State) : State :=
  match s.pp.punt, s.pp.puntWait with
  | some p, f :: rest =>
    let i := s.pp.puntTail
    let ph := phaseOf i p.puntLog
    if b = 0 ∧ code = 0 then
      let r := startXfer (ppXfer 0 .punt 0 1 true (p.punt + 4096 * (i % 2 ^ p.puntLog) + 63) 1 [BitVec.ofNat 8 ph]) s
      runReady r.1 [] (modPipe (fun q => { q with puntXfer := some r.1 }) r.2)
    else
      let s1 := freeRoom f.room (modPipe (fun q => { q with puntXfer := none, puntWait := rest, puntTail := if code = 0 then i + 1 else i }) s)
      pumpPunt (retireVersions s1)
  | _, _ => modPipe (fun q => { q with puntXfer := none }) s

/-! ## Inject (R346) -/

/-- Is a transmit queue in a partition's grant (R342)? -/
def txqGranted (part q : Nat) (s : State) : Bool :=
  match (part? part s).bind Part.txGrant with
  | some (_, _, lo, n) => decide (lo ≤ q ∧ q < lo + n)
  | none => false

/-- Writes GTIME and then DONE into an inject slot. -/
def injectDone (slot flags gtime : Nat) (ts : Bool) (s : State) : State :=
  match s.pp.punt with
  | none => s
  | some p =>
    let a := p.inject + 4096 * (slot % 2 ^ p.injectLog)
    let put := fun (va : Nat) (bs : List Byte) (s : State) => match ringWrite 0 va bs s with
      | .ok _ t => t
      | .fail _ t => t
      | .wait t => (startNow (ppXfer 0 .punt 0 8 true va bs.length bs) t).2
    let s1 := if ts then put (a + 8) (leBytes 8 gtime) s else s
    modPipe (fun q => { q with injBusy := q.injBusy.filter (· != slot) }) (put (a + 4) [BitVec.ofNat 8 (flags % 2 + 2)] s1)

/-- Takes an inject slot: its frame goes into its queue, and a bad LEN or TXQ is refused (R346, log 28). -/
def takeInject (i : Nat) (bs : List Byte) (s : State) : State :=
  let len := u bs 0 2
  let q := u bs 2 2
  let flags := u bs 4 1
  let s1 := modPipe (fun p => { p with injCi := succ32 i, injBusy := p.injBusy ++ [i] }) s
  if len < 60 ∨ len > 4032 ∨ !txqGranted 0 q s then injectDone i flags 0 true (pcount 0 6 1 s1)
  else
    let f : TxFrame := { bytes := addFcs ((bs.drop 64).take len), at' := s.chip.lcount, room := none, inject := some (i * 256 + flags) }
    modSched (0x10000 + q) (fun o => { o with frames := o.frames ++ [f] }) s1

/-- Address of entry `i` of the inject ring. -/
def injectSlot (p : PuntSet) (i : Nat) : Nat := p.inject + 4096 * (i % 2 ^ p.injectLog)

/-- The bytes of the inject ring's next slot have been read: the entry is taken, or the loop sleeps; after the eighth retry it
waits for the next PP_INJECT. -/
def injectGot (p : PuntSet) (tries : Nat) (bs : List Byte) (s : State) : State :=
  if phaseOk (bs.getD 63 0) s.pp.injCi p.injectLog then takeInject s.pp.injCi bs s
  else modPipe (fun q => { q with injLoop := .sleeping (tries + 1) }) s

/-- Takes the next announced entry of the inject ring; whether the ring goes on. -/
def injectNext (p : PuntSet) (tries : Nat) (s : State) : Bool × State :=
  let i := s.pp.injCi
  if i = s.pp.injDb ∨ s.pp.injLoop ≠ .idle then (false, s)
  else match ringRead 0 (injectSlot p i) 4096 s with
    | .fail _ t => (false, modPipe (fun q => { q with injDb := q.injCi }) t)
    | .wait t =>
      let x := startNow (ppXfer 0 .punt 0 9 false (injectSlot p i) 4096 []) t
      (false, modPipe (fun q => { q with injLoop := .stalled x.1 tries }) x.2)
    | .ok bs t => (true, injectGot p tries bs t)

/-- The inject ring's read loop (R244, R346). -/
def injectRun : Nat → Nat → State → State
  | 0, _, s => s
  | fuel + 1, tries, s =>
    match s.pp.punt with
    | none => s
    | some p =>
      let r := injectNext p tries s
      if r.1 then injectRun fuel 0 r.2 else r.2

/-- The ring goes on, its back-off at `tries`. -/
def injectTry (tries : Nat) (s : State) : State := injectRun (diff32 s.pp.injDb s.pp.injCi + 1) tries s

def injectKick (s : State) : State := injectTry 0 s

/-- A stalled read of the inject ring has ended. -/
def injectRead (code : Nat) (data : List Byte) (s : State) : State :=
  match s.pp.punt with
  | none => s
  | some p =>
    let s1 := modPipe (fun q => { q with injLoop := .idle }) s
    match s.pp.injLoop with
    | .stalled _ tries => if code ≠ 0 then modPipe (fun q => { q with injDb := q.injCi }) s1 else injectKick (injectGot p tries data s1)
    | _ => s

/-! ## Report cards (R347, R348) -/

def u64s (l : List Nat) : List Byte := l.flatMap (leBytes 8)
def bins (t : Tab Nat) : List Byte := (List.range 16).flatMap (fun b => leBytes 4 (tgetD t b 0))

/-- Queues of a function's card: section 4 lists the sampled queues the function may see. -/
def cardHists (func : Nat) (s : State) : List (Nat × Hist) :=
  s.pp.hists.filter (fun e => func == 0 || e.2.part == funcPart func s)

/-- The sections of a card in the order of Table 11-7. -/
def cardBody (func : Nat) (c : CardSet) (s : State) : List Byte :=
  let on := fun (b : Nat) => bitOf b c.sections && (func == 0 || b == 2 || b == 4)
  (if on 0 then u64s ((List.range 256).map (fun k => tgetD s.pp.portCtr k 0)) else []) ++
  (if on 1 then u64s ((List.range 16).map (fun k => (counter (bkPipe (k / 8)) (k % 8) s).toNat)) else []) ++
  (if on 2 then u64s ((List.range c.qN).flatMap (fun i =>
    let o := sched? (0x10000 + c.qLo + i) s
    [o.sentFrames, o.sentBytes, o.drops])) else []) ++
  (if on 3 then u64s ((List.range 8192).flatMap (fun k => match tget s.pp.meters (meterKey (k / 4096) (k % 4096)) with
    | some m => [m.green, m.yellow, m.red]
    | none => [0, 0, 0])) else []) ++
  (if on 4 then (cardHists func s).flatMap (fun e => leBytes 4 e.1 ++ [0, 0, 0, 0] ++ bins e.2.depth ++ bins e.2.delay) else [])

/-- A card: its header with a phase, and its sections. -/
def cardBytes (func : Nat) (c : Card) (s : State) : List Byte :=
  let b := cardBody func c.set s
  leBytes 4 (64 + b.length) ++ leBytes 4 c.seq ++ leBytes 8 s.chip.lcount ++ leBytes 8 s.chip.lcount ++ leBytes 8 (gtimeNs s)
    ++ leBytes 4 c.set.sections ++ List.replicate 27 0 ++ [BitVec.ofNat 8 (phaseOf c.seq c.set.log)] ++ b

def cardAddr (c : Card) (len : Nat) : Nat := c.set.ring + c.seq % 2 ^ c.set.log * ((len + 4095) / 4096 * 4096)

/-- Takes a card now, or skips it: the ring is full, or the card before it is not written yet (log 43). -/
def takeCard (func : Nat) (s : State) : State :=
  match tget s.pp.cards func with
  | none => s
  | some c =>
    let r := slotFree c.seq c.set.log s
    if !r.1 ∨ c.stalled.isSome then modPipe (fun p => { p with cards := tset p.cards func { c with missed := c.missed + 1 } }) r.2
    else
      let bs := cardBytes func c r.2
      let x := startXfer (ppXfer (funcPart func s) .card func bs.length true (cardAddr c bs.length) bs.length
        (slotBefore (phaseOf c.seq c.set.log) bs)) r.2
      runReady x.1 [] (modPipe (fun p => { p with cards := tset p.cards func { c with stalled := some x.1 } }) x.2)

/-- The write of a card (`b` is its length), or of its byte 63 (`b` is 0), has ended. -/
def cardDone (func b code : Nat) (s : State) : State :=
  match tget s.pp.cards func with
  | none => s
  | some c =>
    if b = 0 ∨ code ≠ 0 then
      modPipe (fun p => { p with cards := tset p.cards func { c with stalled := none, seq := if code = 0 then c.seq + 1 else c.seq } }) s
    else
      let x := startXfer (ppXfer (funcPart func s) .card func 0 true (cardAddr c b + 63) 1 [BitVec.ofNat 8 (phaseOf c.seq c.set.log)]) s
      runReady x.1 [] (modPipe (fun p => { p with cards := tset p.cards func { c with stalled := some x.1 } }) x.2)

end Sys2Proof.Machine
end

