-- ==== Sys2Proof/Machine/RoceOps.lean ====
section
/-! DEFINITION. RoCEv2 connections (R288 to R290): requests in PSN order with go-back-N, responses and answers. The packet
formats are those of the standard the spec names. -/

namespace Sys2Proof.Machine

open Sys2Proof

/-! ## Packets sent -/

def padOf (n : Nat) : Nat := (4 - n % 4) % 4
def padBytes (n : Nat) : List Byte := List.replicate (padOf n) 0

/-- Opcode of a packet of the stream: FLAGS has first, last and immediate. -/
def roceOpcode (p : TxPkt) : Nat :=
  match p.op with
  | 3 => 12
  | 5 => 20
  | 6 => 19
  | op =>
    let b := if op = 2 then 6 else 0
    let som := bitOf 0 p.flags
    let imm := (bitOf 2 p.flags).toNat
    if bitOf 1 p.flags then (if som then b + 4 + imm else b + 2 + imm) else if som then b else b + 1

/-- Bytes a request moves: the length of its message. -/
def messageLen (q : Qp) (msn : Nat) : Nat := ((q.ops.find? (fun o => o.msn == msn && o.st == .sent)).map (fun o => o.ent.length)).getD 0

def reth (addr key len : Nat) : List Byte := beBytes 8 addr ++ beBytes 4 key ++ beBytes 4 len

/-- A packet of the stream of a TYPE 1 QP, but for its ICRC. -/
def rocePacket (q : Qp) (p : TxPkt) (flags : Nat) : List Byte :=
  let ext := match p.op with
    | 2 => if bitOf 0 p.flags then reth p.addr p.key (messageLen q p.msn) else []
    | 3 => reth p.addr p.key p.aux
    | 5 => beBytes 8 p.addr ++ beBytes 4 p.key ++ p.payload ++ List.replicate 8 0
    | 6 => beBytes 8 p.addr ++ beBytes 4 p.key ++ p.payload.drop 8 ++ p.payload.take 8
    | _ => []
  let data := if p.op ≤ 2 then p.payload else []
  bth (roceOpcode p) (padOf data.length) q (bitOf 3 flags) p.psn ++ ext
    ++ (if bitOf 2 p.flags then beBytes 4 p.aux else []) ++ data ++ padBytes data.length

/-- The pieces of a read response: opcode, PSN, bytes. -/
def respPieces (mtu m : Nat) : Nat → Nat → Nat → List Byte → List (Nat × Nat × List Byte)
  | 0, _, _, _ => []
  | fuel + 1, i, psn, bs =>
    let last := decide (i + 1 ≥ m)
    let op := if m = 1 then 16 else if i = 0 then 13 else if last then 15 else 14
    (op, psn, bs.take mtu) :: if last then [] else respPieces mtu m fuel (i + 1) ((psn + 1) % 2 ^ 24) (bs.drop mtu)

/-- Sends the response to a read or an atomic, with PSNs from the request's on. -/
def roceResp (n psn msn : Nat) (atomic : Bool) (data : List Byte) (s : State) : State :=
  match qp? n s with
  | none => s
  | some q =>
    let die := pathPort q.x 0 / 4
    if atomic then
      let s1 := modX n (fun x => { x with roceAtomics := ((psn, BitVec.ofNat 64 (leNat data)) :: x.roceAtomics).take 64 }) s
      bump (bkTransport die) 0 1 (sendRoce q (bth 18 0 q false psn ++ aeth 0x1F (msn + 1) ++ beBytes 8 (leNat data)) s1)
    else
      let mtu := mtuBytes q.mtu
      let m := max 1 ((data.length + mtu - 1) / mtu)
      (respPieces mtu m m 0 psn data).foldl (fun (t : State) (p : Nat × Nat × List Byte) =>
        bump (bkTransport die) 0 1 (sendRoce q (bth p.1 (padOf p.2.2.length) q false p.2.1
          ++ (if p.1 = 14 then [] else aeth 0x1F (msn + 1)) ++ p.2.2 ++ padBytes p.2.2.length) t)) s

/-! ## Requests received -/

/-- First, last and immediate of a request opcode, and its PT operation. -/
def roceKind (op : Nat) : Option (Nat × Nat) :=
  match op with
  | 0 => some (1, 1)
  | 1 => some (1, 0)
  | 2 => some (1, 2)
  | 3 => some (1, 6)
  | 4 => some (1, 3)
  | 5 => some (1, 7)
  | 6 => some (2, 1)
  | 7 => some (2, 0)
  | 8 => some (2, 2)
  | 9 => some (2, 6)
  | 10 => some (2, 3)
  | 11 => some (2, 7)
  | 12 => some (3, 3)
  | 19 => some (6, 3)
  | 20 => some (5, 3)
  | _ => none

/-- Message under way on a TYPE 1 QP. -/
def openMsg (q : Qp) : Option InMsg := (inMsg? q q.x.roceMsn).bind (fun m => if m.total.isNone then some m else none)

/-- A request from its bytes: first packets carry address, key and length; later ones go on from the message. The second part is
the bytes its pass must cover. -/
def roceParse (q : Qp) (op flags : Nat) (bs : List Byte) : RxPkt × Nat :=
  let som := bitOf 0 flags
  let hasReth := (op = 2 && som) || op = 3
  let a := 12 + (if hasReth then 16 else if op = 5 ∨ op = 6 then 28 else 0)
  let b := a + (if bitOf 2 flags then 4 else 0)
  let pad := beAt bs 1 1 / 16 % 4
  let m := openMsg q
  let addr := if hasReth ∨ op = 5 ∨ op = 6 then beAt bs 12 8 else (m.map (fun m => (if op = 2 then m.base else 0) + m.got)).getD 0
  let key := if hasReth ∨ op = 5 ∨ op = 6 then beAt bs 20 4 else (m.map InMsg.key).getD 0
  let payload := match op with
    | 3 => []
    | 5 => (bs.drop 24).take 8
    | 6 => (bs.drop 32).take 8 ++ (bs.drop 24).take 8
    | _ => (bs.drop b).take (bs.length - b - pad)
  let aux := if op = 3 then beAt bs 24 4 else if bitOf 2 flags then beAt bs a 4 else 0
  ({ psn := beAt bs 9 3, op := op, flags := flags, msn := q.x.roceMsn, addr := addr, key := key, aux := aux, payload := payload,
     pass := none, ce := false, via := Via.zero },
   if op = 2 ∧ som = true then beAt bs 24 4 else if op = 3 then aux else if op = 2 then payload.length else 8)

/-- The packets of a message follow each other, and each but the last carries MTU bytes. -/
def roceOrder (q : Qp) (k : RxPkt) : Bool :=
  (bitOf 0 k.flags != (openMsg q).isSome) && (openMsg q).all (fun m => m.op == k.op) &&
  (if k.op ≤ 2 then
    (if bitOf 1 k.flags then decide (k.payload.length ≤ mtuBytes q.mtu) else k.payload.length == mtuBytes q.mtu) else true)

/-- A duplicate is acknowledged again and not placed; a repeated read is read again and a repeated atomic answered as before. -/
def roceDup (n : Nat) (q : Qp) (k : RxPkt) (len : Nat) (s : State) : State :=
  match k.op with
  | 3 =>
    match passCheck n q.part k.key 3 k.addr len s with
    | some i =>
      (startXfer { Xfer.mk' q.part 1 0 n (inOwner .readResp n k.psn (some i)) false (Rows.flat k.addr k.aux) [] with
        remote := true } s).2
    | none => sendAck n 2 0 k.psn s
  | 5 | 6 =>
    match q.x.roceAtomics.find? (fun e => e.1 == k.psn) with
    | some e => sendRoce q (bth 18 0 q false k.psn ++ aeth 0x1F q.x.vmsnRx ++ beBytes 8 e.2.toNat) s
    | none => s
  | _ => sendAck n 0 0 0 s

/-- Handles a request of a TYPE 1 peer (R289). -/
def roceRequest (n die op flags : Nat) (q : Qp) (bs : List Byte) (s : State) : State :=
  let r := roceParse q op flags bs
  let d := diff24 r.1.psn q.x.csp
  if d ≥ 2 ^ 23 then roceDup n q r.1 r.2 (bump (bkTransport die) 2 1 s)
  else if d ≠ 0 then (if q.x.rnrRefuse then s else sendAck n 4 0 q.x.csp s)
  else if !roceOrder q r.1 then sendAck n 5 0 r.1.psn s
  else
    let pass := if namesPass r.1 then passCheck n q.part r.1.key r.1.op r.1.addr r.2 s else none
    let k := { r.1 with pass := pass }
    if namesPass k && pass.isNone then sendAck n 2 0 k.psn (bump (bkQueue q.part) 5 1 s)
    else if !rxReady q k s then
      sendAck n 1 s.qe.cc.rnrDlyUs k.psn (modX n (fun x => { x with rnrRefuse := true, rnrPsn := k.psn }) s)
    else if (k.op = 3 ∨ k.op = 5 ∨ k.op = 6) ∧ respOutstanding n q s ≥ q.maxRd then sendAck n 3 0 k.psn s
    else
      let s1 := modX n (fun x => { x with
        csp := (x.csp + rxPsns q k) % 2 ^ 24, hold := x.hold ++ [k], rnrRefuse := false, ackDue := true,
        roceMsn := if bitOf 1 k.flags then succ32 x.roceMsn else x.roceMsn }) s
      startHeld n (heldCount n s1) s1

/-! ## Answers received -/

/-- A PSN lies at or before another, modulo 2^24. -/
def upTo24 (a b : Nat) : Bool := decide (diff24 b a < 2 ^ 23)

/-- Requests whose response is what acknowledges them. -/
def responded (p : TxPkt) : Bool := p.op == 3 || p.op == 5 || p.op == 6

/-- Operations of SEND and WRITE whose every packet is acknowledged. -/
def ackedOps (q : Qp) : List SqOp :=
  q.ops.filter (fun o => o.st == .sent && decide (o.ent.op ≤ 4) &&
    !(q.x.queue.any (fun p => p.msn == o.msn)) && !(q.x.unacked.any (fun p => p.msn == o.msn)))

/-- Packets before a PSN are acknowledged, up to the first read or atomic that has no response yet; the window follows. -/
def roceAckBefore (n psn : Nat) (s : State) : State :=
  match qp? n s with
  | none => s
  | some q =>
    let covered := q.x.unacked.filter (fun p => !upTo24 psn p.psn)
    let stop := (covered.filter responded).head?
    let news := covered.filter (fun p => match stop with
      | some r => !upTo24 r.psn p.psn
      | none => true)
    if news.isEmpty then s
    else
      let bytes := news.foldl (fun a p => a + p.payload.length) 0
      let at' := news.foldl (fun a p => max a p.sentAt) 0
      let una := ((q.x.unacked.filter (fun p => !news.contains p)).head?.map TxPkt.psn).getD psn
      let s1 := modX n (fun x =>
        let y := { x with unacked := x.unacked.filter (fun p => !news.contains p), sndUna := una }
        if bytes > 0 then
          { ccUpdate s.qe.cc (mtuBytes q.mtu) s.chip.lcount ((s.chip.lcount - at') * 10) bytes x.ece false y with ece := false }
        else y) s
      match qp? n s1 with
      | some q1 => (ackedOps q1).foldl (fun t o => succeedOp n o t) s1
      | none => s1

/-- Sends again every unacknowledged packet from a PSN on, in order (go-back-N), unless the first has been sent too often. -/
def goBack (n psn : Nat) (s : State) : State :=
  match qp? n s with
  | none => s
  | some q =>
    let again := q.x.unacked.filter (fun p => upTo24 psn p.psn)
    match again with
    | [] => s
    | p :: _ => if p.sends ≥ q.x.retryCnt + 1 then exhaust n q p s else modX n (fun x => requeue again x) s

/-- The operation of a packet fails. -/
def failPsn (n psn code : Nat) (s : State) : State :=
  match (qp? n s).bind (fun q => q.x.unacked.find? (fun p => p.psn == psn)) with
  | some p => failMsn n p.msn code s
  | none => s

/-- The receiver was not ready (R280). -/
def roceRnr (n psn : Nat) (s : State) : State :=
  match qp? n s with
  | none => s
  | some q =>
    let cnt := if q.x.rnrTxPsn = psn then q.x.rnrCount + 1 else 1
    let t := modX n (fun x => { x with rnrWait := true, rnrTxPsn := psn, rnrCount := cnt }) s
    if q.x.rnrRetry ≠ 7 ∧ cnt ≥ max 1 q.x.rnrRetry then failPsn n psn Config.ccRetry t else t

/-- An acknowledge packet. -/
def roceAck (n syndrome psn : Nat) (s : State) : State :=
  match syndrome / 32 with
  | 0 => roceAckBefore n ((psn + 1) % 2 ^ 24) s
  | 1 => roceRnr n psn (roceAckBefore n psn s)
  | 3 =>
    let s1 := roceAckBefore n psn s
    match syndrome with
    | 0x60 => goBack n psn s1
    | 0x62 => failPsn n psn Config.ccRemoteAccess s1
    | _ => failPsn n psn Config.ccRemoteOp s1
  | _ => s

/-- A packet of a read response: it is placed if it is the next one. -/
def roceReadResp (n op psn : Nat) (payload : List Byte) (s : State) : State :=
  match qp? n s with
  | none => s
  | some q =>
    match q.x.unacked.find? (fun p => p.op == 3 && decide (diff24 psn p.psn < max 1 ((p.aux + mtuBytes q.mtu - 1) / mtuBytes q.mtu))) with
    | none => s
    | some p =>
      let off := diff24 psn p.psn * mtuBytes q.mtu
      match q.ops.find? (fun o => o.msn == p.msn && o.st == .sent) with
      | none => s
      | some o =>
        if off ≠ o.rcvd then s
        else
          let bs := payload.take (o.ent.length - off)
          let k : RxPkt := { psn := psn, op := 4, flags := 0, msn := p.msn, addr := off, key := 0, aux := 0, payload := bs,
                             pass := none, ce := false, via := Via.zero }
          let s1 := roceAckBefore n p.psn s
          let s2 := modQp n (fun q => { q with ops := q.ops.map (fun r => if r.msn = o.msn ∧ r.st = .sent then
            { r with rcvd := r.rcvd + bs.length } else r) }) s1
          let s3 := match qp? n s2 with
            | some q2 => landResp n q2 k off s2
            | none => s2
          if op ≥ 15 then finishRemoteReads n (modX n (fun x => { x with unacked := x.unacked.filter (fun r => r.psn != p.psn) }) s3)
          else s3

/-- The response to an atomic. -/
def roceAtomicAck (n psn : Nat) (old : List Byte) (s : State) : State :=
  match (qp? n s).bind (fun q => q.x.unacked.find? (fun p => (p.op == 5 || p.op == 6) && p.psn == psn)) with
  | none => s
  | some p =>
    let k : RxPkt := { psn := psn, op := 7, flags := 3, msn := p.msn, addr := 0, key := 0, aux := 0, payload := old.reverse,
                       pass := none, ce := false, via := Via.zero }
    let s1 := modX n (fun x => { x with unacked := x.unacked.filter (fun r => r.psn != psn) }) (roceAckBefore n psn s)
    match qp? n s1 with
    | some q => landResp n q k 0 s1
    | none => s1

/-- A CNP goes to the peer of a packet that arrived marked CE, at most one in 50 µs (Table 9-6). -/
def cnpFor (n : Nat) (q : Qp) (s : State) : State :=
  if q.x.cnpAt.all (fun t => decide (s.chip.lcount ≥ t + 5000)) then
    sendRoce q (bth 0x81 0 q false 0 ++ List.replicate 16 0) (modX n (fun x => { x with cnpAt := some s.chip.lcount }) s)
  else s

/-- Handles a RoCEv2 packet at its QP (R288, R289): `bs` starts at the base transport header and leaves the ICRC out. -/
def rxRoce (n die : Nat) (ce : Bool) (bs : List Byte) (s : State) : State :=
  match qp? n s with
  | none => bump (bkTransport die) 6 1 s
  | some q0 =>
    if q0.typ ≠ 1 then bump (bkTransport die) 6 1 s
    else if !streaming q0 then s
    else
      let op := beAt bs 0 1
      let s1 := if ce then cnpFor n q0 s else s
      match qp? n s1 with
      | none => s1
      | some q =>
        if op = 0x81 then modX n (fun x => { x with ece := true }) s1
        else match roceKind op with
          | some (k, flags) => roceRequest n die k flags q bs s1
          | none =>
            let pad := beAt bs 1 1 / 16 % 4
            let psn := beAt bs 9 3
            let body := fun (o : Nat) => (bs.drop o).take (bs.length - o - pad)
            let s2 := match op with
              | 13 | 15 | 16 => roceReadResp n op psn (body 16) s1
              | 14 => roceReadResp n op psn (body 12) s1
              | 17 => roceAck n (beAt bs 12 1) psn s1
              | 18 => roceAtomicAck n psn ((bs.drop 16).take 8) s1
              | _ => sendAck n 5 0 psn s1
            sqKick n s2

end Sys2Proof.Machine
end

