-- ==== Sys2Proof/Machine/QpDone.lean ====
section
/-! DEFINITION. What the queue engine does when one of its transfers has ended (08, 09). -/

namespace Sys2Proof.Machine

open Sys2Proof

/-- An SQ ring access that went the way of a transfer has ended. -/
def sqRingDone (n code : Nat) (data : List Byte) (s : State) : State :=
  match qp? n s with
  | none => s
  | some q =>
    match q.sqLoop with
    | .stalled _ tries =>
      let s1 := modQp n (fun q => { q with sqLoop := .idle }) s
      sqKick n (if code ≠ 0 then takeEntry n code q [] s1 else sqGot n tries q data s1)
    | _ => s

/-- An RQ ring access has ended. -/
def rqRingDone (n code : Nat) (data : List Byte) (s : State) : State :=
  match qp? n s with
  | none => s
  | some q =>
    match q.rqLoop with
    | .stalled _ tries =>
      let s1 := modQp n (fun q => { q with rqLoop := .idle }) s
      rqKick n (if code ≠ 0 then takeRecv n code q [] s1 else rqGot n tries q data s1)
    | _ => s

/-- A CQ ring write has ended: its bytes 0 to 30 are followed by the PHASE byte, and that by what is held (R237). One that
failed leaves its completion held (log 140). -/
def cqRingDone (n part code : Nat) (s : State) : State :=
  match cq? n s with
  | none => s
  | some c =>
    let s1 := modCq n (fun c => { c with stalled := none }) s
    if code ≠ 0 then s1
    else if part = 0 then
      match cqNext c with
      | some (va, bs) => cqTransfer n 1 (va + 31) (bs.drop 31) s1
      | none => s1
    else kickPart c.part (drainCq n (c.held.length + 1) (cqAdvance n s1))

/-- Local data of an entry has been read, or a COPY has been written. -/
def sqDataDone (n idx code : Nat) (f : Xfer) (s : State) : State :=
  match (qp? n s).bind (fun q => (q.ops.find? (fun o => o.idx == idx && o.remote.isNone)).map (fun o => (q, o))) with
  | none => s
  | some (q, o) =>
    match o.st with
    | .gathering _ =>
      if code ≠ 0 then sqKick n (failOp n idx code s)
      else if o.ent.op = 10 then
        let g := { Xfer.mk' q.part 1 0 n (sqOwner n idx) true (Rows.flat o.ent.raddr o.ent.length) f.data with
          samePath := samePathOf q o.ent s }
        let r := startXfer g s
        setOp n idx (.placing r.1) r.2
      else sqKick n (setOp n idx (.ready f.data) s)
    | .placing _ =>
      sqKick n (modQp n (fun q => { q with
        ops := q.ops.map (fun p => if p.idx = idx ∧ p.remote.isNone then
          { p with st := .done code, moved := f.pos, samePath := code == 0 && f.samePath.isSome && f.spOk } else p) }) s)
    | _ => s

/-- The transfer of an inbound packet no longer counts for its message. -/
def dropMsgXfer (n x : Nat) (s : State) : State :=
  modQp n (fun q => { q with inMsgs := q.inMsgs.map (fun m => { m with xfers := m.xfers.filter (· != x) }) }) s

/-- The message that a transfer works for. -/
def msgOfXfer (n x : Nat) (s : State) : Option InMsg :=
  (qp? n s).bind (fun q => q.inMsgs.find? (fun m => m.xfers.contains x))

/-- Bytes of a message have been placed (R247). -/
def bookPlaced (n msn k : Nat) (s : State) : State :=
  modQp n (fun q => { q with inMsgs := q.inMsgs.map (fun m => if m.msn = msn then { m with placed := m.placed + k } else m) }) s

/-- A placement has ended. -/
def inboundDone (n x code : Nat) (f : Xfer) (s : State) : State :=
  let v := takeVia n x s
  match msgOfXfer n x v.2 with
  | none => v.2
  | some m =>
    let s1 := bookPlaced n m.msn (if code = 0 then f.va.total else f.pos) (dropMsgXfer n x v.2)
    let s2 := if code = 0 then s1 else failPlace n x v.1 m.msn code s1
    startHeld n (heldCount n s2) s2

/-- The response of a finished read or atomic. -/
def answerRead (n psn msn : Nat) (atomic : Bool) (data : List Byte) (s : State) : State :=
  if (qp? n s).any (fun q => q.typ == 1) then roceResp n psn msn atomic data s else queueResp n msn atomic data s

/-- A responder's read or atomic has ended: its response is sent, or the requester is told (R275). A repeated read of a TYPE 1
peer belongs to no message. -/
def respDone (n psn x code : Nat) (atomic : Bool) (data : List Byte) (s : State) : State :=
  let v := takeVia n x s
  match msgOfXfer n x v.2 with
  | none =>
    match qp? n v.2 with
    | some q => if q.typ = 1 ∧ code = 0 ∧ streaming q = true then roceResp n psn q.x.vmsnRx atomic data v.2 else v.2
    | none => v.2
  | some m =>
    let s1 := dropMsgXfer n x v.2
    let s2 := if code = 0 then answerRead n psn m.msn atomic data s1 else failPlace n x v.1 m.msn code s1
    startHeld n (heldCount n s2) s2

/-- An operation with a landing: `len` more bytes are visible, or transfer `x` has failed. -/
def SqOp.landed (x code len : Nat) (o : SqOp) : SqOp :=
  if code = 0 then { o with left := o.left - len }
  else if o.failAt.all (fun p => decide (x < p.1)) then { o with failAt := some (x, code) } else o

/-- An operation whose response lands ends when the last byte has landed, or with its first failure in issue order once no
landing before it is under way (R262, R276). -/
def settleLanding (n idx : Nat) (s : State) : State :=
  match (qp? n s).bind (fun q => q.ops.find? (fun o => o.idx == idx && o.remote.isNone)) with
  | none => s
  | some o =>
    if o.st ≠ .sent then s
    else match o.failAt with
      | some (x, code) =>
        if s.xl.xfers.any (fun e => e.2.owner.kind == .landing && e.2.owner.a == n && e.2.owner.b == idx && decide (e.1 < x)) then s
        else sqKick n (failOp n idx code s)
      | none => if o.left = 0 then sqKick n (setOp n idx (.done 0) s) else s

/-- Response bytes have landed at the requester (R276); a packet whose bytes cannot be placed is answered so (R275). -/
def landingDone (n idx x code len : Nat) (s : State) : State :=
  let v := takeVia n x s
  let s1 := modQp n (fun q => { q with
    ops := q.ops.map (fun p => if p.idx = idx ∧ p.remote.isNone then p.landed x code len else p) }) v.2
  let told := code ≠ 0 ∧ (qp? n s).any (fun q => q.typ != 1)
  settleLanding n idx (if told then ackVia n { via := v.1, syndrome := 3, dly := 0, nakPsn := v.1.psn } s1 else s1)

/-- Dispatch over the queue engine's transfers. -/
def queueDone (x : Nat) (f : Xfer) (code : Nat) (s : State) : State :=
  let o := f.owner
  match o.kind with
  | .sq => if o.b = 2 ^ 40 then sqRingDone o.a code f.data s else sqDataDone o.a o.b code f s
  | .rq => rqRingDone o.a code f.data s
  | .cq => cqRingDone o.a o.b code s
  | .inbound => inboundDone o.a x code f s
  | .readResp => respDone o.a o.b x code false f.data s
  | .atomic => respDone o.a o.b x code true f.data s
  | .landing => landingDone o.a o.b x code f.va.total s
  | _ => s

end Sys2Proof.Machine
end

