-- ==== Sys2Proof/Machine/Settle.lean ====
section
/-! DEFINITION. What follows at once from the end of transfers: the work each belongs to goes on, and what waited for it is answered. -/

namespace Sys2Proof.Machine

open Sys2Proof

/-- The entry of a QP whose local data a transfer reads. -/
def isColl (n idx : Nat) (s : State) : Bool :=
  ((qp? n s).bind (fun q => q.ops.find? (fun o => o.idx == idx && o.remote.isNone))).any (fun o => o.ent.op == 16)

/-- A transfer has ended: the work it belongs to takes it up. -/
def xferEnded (x : Nat) (f : Xfer) (code : Nat) (s : State) : State :=
  let o := f.owner
  match o.kind with
  | .tileDma => tileDmaDone o.a o.b code f s
  | .stream => streamDone o.a code f s
  | .image => imageDone o.a o.b code f s
  | .sq => if o.b ≠ 2 ^ 40 ∧ isColl o.a o.b s then startColl o.a o.b code f.data s else queueDone x f code s
  | .rq => queueDone x f code s
  | .cq => queueDone x f code s
  | .inbound => queueDone x f code s
  | .readResp => queueDone x f code s
  | .landing => queueDone x f code s
  | .atomic => queueDone x f code s
  | .coll => collXferDone o.a o.b code f s
  | .task => taskXferDone o.a o.b code s
  | .serial => s
  | .ckpt => ckXferDone o.a o.b code f s
  | .cipher => cipherXferDone x f code s
  | .firmware => s
  | .card => cardDone o.a o.b code s
  | .punt => if o.b = 9 then injectRead code f.data s else if o.b = 8 then s else puntDone o.b code s

/-- The first transfer that has ended and is not taken up. -/
def firstEnded : Tab Xfer → Option (Nat × Xfer × Nat)
  | [] => none
  | (x, f) :: r => match f.st with
    | .done c => some (x, f, c)
    | _ => firstEnded r

/-- Does a transfer's unit of the time of an INVALIDATE still run (R193)? -/
def unitRuns (x pos : Nat) (s : State) : Bool :=
  match xfer? x s with
  | some f => (f.st == .moving && f.pos == pos) || f.st == .settling || !f.jpieces.isEmpty
  | none => false

/-- An INVALIDATE or SET_TRANSLATION is answered once no access that used what it discarded is left, and no discarded walk
(R193). -/
def answerInvals (s : State) : State :=
  let ended := fun (i : Inval) =>
    !i.xfers.any (fun x => unitRuns x.1 x.2 s) && !s.xl.walks.any (fun w => w.2.part == i.part && w.2.discarded)
  (s.xl.invals.filter ended).foldl (fun t i => finish i.mb Config.ok Body.empty t)
    { s with xl := { s.xl with invals := s.xl.invals.filter (fun i => !ended i) } }

/-- No transfer has data under way, or still to be sent, over a gang. -/
def gangIdle (g : Nat) (s : State) : Bool :=
  !s.xl.xfers.any (fun e => e.2.jpieces.any (fun p => p.1 / 65536 == g) || e.2.todo.any (fun c => !c.host && c.unit == g))

/-- A gang withdrawal is answered once no operation is left on the gang (R214). -/
def answerWithdrawals (s : State) : State :=
  (s.jl.gangs.filter (fun e => e.2.withdraw.isSome && gangIdle e.1 s)).foldl (fun (t : State) (e : Nat × Gang) =>
    match e.2.withdraw with
    | some r => finish r Config.ok Body.empty (modGang e.1 (fun g => { g with withdraw := none }) t)
    | none => t) s

/-- An access of a fenced peer that has not been accepted into its target's ordered path (R287). -/
def fenceDraining (fe : Fence) (s : State) : Bool :=
  s.xl.xfers.any (fun e => fe.qps.contains e.2.owner.a &&
    (e.2.owner.kind == .inbound || e.2.owner.kind == .readResp || e.2.owner.kind == .atomic) && !drainedXfer e.2 s)

/-- A FENCE_PEER is answered once what was admitted from its peer has drained (R287). -/
def answerFences (s : State) : State :=
  let ended := fun (fe : Fence) => fe.mb.isSome && !fenceDraining fe s
  let s1 := { s with qe := { s.qe with fences := s.qe.fences.map (fun fe => if ended fe then { fe with mb := none } else fe) } }
  (s.qe.fences.filter ended).foldl (fun (t : State) (fe : Fence) => match fe.mb with
    | some r => finish r Config.ok Body.empty t
    | none => t) s1

/-- Notes when each QP that is ready to send became so (R347). -/
def noteReady (s : State) : State :=
  let ready := (s.qe.qps.filter (fun e => e.2.typ != 2 && qpReady e.2)).map (fun (e : Nat × Qp) =>
    (e.1, tgetD s.pp.readyAt e.1 s.chip.lcount))
  modPipe (fun p => { p with readyAt := ready }) s

/-- Accesses that wait for a held line are tried again once one has entered the lists or was written (R158). -/
def resumeFreed (s : State) : State :=
  if s.tiers.freed then resumeHeld (fun w => w == .memFatal) { s with tiers := { s.tiers with freed := false } } else s

/-- Work of an SQ whose earlier entries no longer stall goes on (R185). -/
def resumeBehind (s : State) : State :=
  let free := fun (w : HoldWhy) => match w with
    | .behind n i => !stallBefore n i s
    | _ => false
  let kick := tkeys (s.qe.qps.filter (fun e => sqMayTake e.1 e.2 s))
  kick.foldl (fun t n => sqKick n t) (resumeHeld free s)

/-- Jobs and checkpoints that wait behind a blocked CQ go on once it has space (R248). -/
def resumeBlocked (s : State) : State :=
  let s1 := kickCk (kickJobs s)
  (tkeys s1.ti.jobs).foldl (fun t j => resumeJbnd j t) s1

/-- Back-pressure of a partition has cleared: what it held is admitted, and its queues, rings and streams go on (R192). -/
def pressureOff (s : State) (part : Nat) : State :=
  kickStreams (cipherKick part (kickPart part (resumeHeld (fun w => w == .pressure part) s)))

/-- Notes which partitions are under back-pressure, and takes up those that no longer are. -/
def watchPressure (s : State) : State :=
  let now := (tkeys s.parts).filter (fun p => backPressure p s)
  (s.xl.pressed.filter (fun p => !now.contains p)).foldl pressureOff { s with xl := { s.xl with pressed := now } }

/-- Accesses to a domain that was off go on once the device is awake (R45, R507). -/
def resumePower (s : State) : State := if s.pm.pstate = 0 then resumeHeld (fun w => w == .power) s else s

/-- What waits for transfers of others, and lines to rewrite: groups that leave their benches, streams to unbind, storage commands that close,
checkpoint commands, collectives that have lost what they need, translation commands, gang withdrawals. -/
def hooks (s : State) : State :=
  let s0 := rewriteLines (resumeBlocked (resumeBehind (resumeFreed (resumePower (watchPressure s)))))
  let s1 := (tkeys s0.ti.groups).foldl (fun t p => trySave p t) s0
  let s2 := (tkeys s1.ti.binds).foldl (fun t k => tryUnbind k t) s1
  let s3 := takeCkDone (watchRebuilds (closeTasks (watchConns s2)))
  noteReady (answerFences (answerWithdrawals (answerInvals (watchColls s3))))

/-- Takes up the ends of transfers until none is left, within a bound. -/
def settleN : Nat → State → State
  | 0, s => s
  | fuel + 1, s =>
    match firstEnded s.xl.xfers with
    | some (x, f, c) => settleN fuel (xferEnded x f c (delXfer x s))
    | none =>
      let t := hooks s
      match firstEnded t.xl.xfers with
      | some _ => settleN fuel t
      | none => t

/-- Takes up everything that follows at once from a command; the ACKs that fell due with it go out at its end (R276). -/
def settle (s : State) : State := flushAcks (settleN 4096 s)

/-- The next state of a command, with everything that follows at once. -/
def done (s : State) : Host.Outcome State Fault Refusal := .next (settle s)

end Sys2Proof.Machine
end

