-- ==== Sys2Proof/Machine/ImageOps.lean ====
section
/-! DEFINITION. Firmware images: their header, the checks of the security core, flash images, loading (14, R416 to R419; 17, R499). -/

namespace Sys2Proof.Machine

open Sys2Proof

/-- Image header and component entries (Table 14-8). -/
structure Image where
  build : Nat
  svn : Nat
  totlen : Nat
  root : Nat
  comps : List Comp
  deriving DecidableEq, Repr

/-- Bytes of a flash device that an image may take: 28 MiB (R542; log 48). -/
def flashBytes : Nat := 28 * 2 ^ 20

def imgMagic : List Byte := [0x46, 0x4D, 0x53, 0x49, 0x4D, 0x41, 0x47, 0x45]
def imgContext : List Byte := [0x46, 0x4D, 0x53, 0x2D, 0x49, 0x4D, 0x41, 0x47, 0x45]

def Comp.parse (bs : List Byte) : Comp :=
  { target := u bs 0 1, off := u bs 4 4, len := u bs 8 4, entry := u bs 12 4, digest := BitVec.ofNat 256 (u bs 32 32) }

def Image.parse (bs : List Byte) : Image :=
  { build := u bs 16 8, svn := u bs 12 4, totlen := u bs 24 4, root := u bs 28 1,
    comps := (itemsOf 64 (min 16 (u bs 10 2)) (bs.drop 64)).map Comp.parse }

/-- End of the component entries, of the public key, and of the signature. -/
def Image.keyAt (i : Image) : Nat := 64 + 64 * i.comps.length
def Image.sigAt (i : Image) : Nat := i.keyAt + 1312
def Image.bodyAt (i : Image) : Nat := i.sigAt + 2420

def zeros (bs : List Byte) : Bool := bs.all (· == 0)

/-- Check 1: MAGIC, VERSION, NCOMP, zero fields, TOTLEN. -/
def imageHeadOk (size : Nat) (bs : List Byte) : Bool :=
  let n := u bs 10 2
  bs.take 8 == imgMagic && u bs 8 2 == 1 && decide (1 ≤ n ∧ n ≤ 16) && zeros ((bs.drop 29).take 35) &&
  (itemsOf 64 n (bs.drop 64)).all (fun e => zeros ((e.drop 1).take 3) && zeros ((e.drop 16).take 16)) &&
  decide ((Image.parse bs).bodyAt ≤ u bs 24 4 ∧ u bs 24 4 ≤ size)

/-- Check 5: no target repeats, every component lies inside and has its digest. -/
def compsOk (i : Image) (bs : List Byte) : Bool :=
  (i.comps.map Comp.target).eraseDups.length == i.comps.length &&
  i.comps.all (fun c => decide (c.target ≤ 5) && decide (c.off + c.len ≤ i.totlen) &&
    (Config.sha3 ((bs.drop c.off).take c.len)) == c.digest)

/-- The failing checks of an image in the order of R417: 1 header, 2 root key, 3 signature, 4 SVN, 5 components, 6 targets of
a boot image. -/
def imageFails (size : Nat) (boot : Bool) (bs : List Byte) (s : State) : List Nat :=
  if !imageHeadOk size bs then [1]
  else
    let i := Image.parse bs
    let key := (bs.drop i.keyAt).take 1312
    let digest := shaBytes (bs.take i.sigAt)
    let root := decide (i.root ≤ 3) && !bitOf i.root s.chip.revoked && s.chip.rootKeys.getD i.root 0 == Config.sha3 key
    let signed := Config.mlDsaVerify key imgContext digest ((bs.drop i.sigAt).take 2420)
    (if root then [] else [2]) ++ (if signed then [] else [3]) ++ (if i.svn < s.chip.fusedSvn then [4] else []) ++
    (if compsOk i bs then [] else [5]) ++
    (if boot && !(List.range 6).all (fun t => i.comps.any (fun c => c.target == t)) then [6] else [])

/-- The bytes of a flash image: its header alone where that names no length a device holds. -/
def flashImage (d : Nat) (s : State) : List Byte :=
  let n := leNat (rdMem (spFlash d) 24 4 s)
  rdMem (spFlash d) 0 (if n ≤ flashBytes then n else 64) s

/-- Check of a flash image for boot. -/
def flashFails (d : Nat) (s : State) : List Nat := imageFails flashBytes true (flashImage d s) s

/-- Target of a processor. -/
def procTarget (p : Nat) : Nat := if p = 0 then 1 else if p = 1 then 2 else if p = 2 then 3 else 4
/-- Processors of a target. -/
def procsOf (t : Nat) : List Nat :=
  if t = 1 then [0] else if t = 2 then [1] else if t = 3 then [2] else if t = 4 then (List.range 16).map (3 + ·) else []

def fwImageOf (build svn addr : Nat) (c : Comp) : FwImage :=
  { build := build, svn := svn, entry := c.entry, digest := c.digest, body := addr + c.off, len := c.len }

/-- Loads an accepted boot image, whose bytes lie at a place of memory, into the processors, and records its
measurements (R417, R499). -/
def loadImage (i : Image) (key : Nat) (s : State) : State :=
  let s1 := i.comps.foldl (fun t c => modSec (fun k => { k with measured := tset k.measured c.target c.digest }) t) s
  (List.range 19).foldl (fun t p =>
    match i.comps.find? (fun c => c.target == procTarget p) with
    | none => t
    | some c =>
      modProc p (fun x => { x with pstate := .running, active := fwImageOf i.build i.svn 0 c, core := atEntry c.entry })
        (loadFw p (key + c.off) c.len t)) s1

/-- The order in which BOOTSEL tries the flash images; of two equal ones image A is first (R498). -/
def bootOrder (s : State) : List Nat :=
  let sel := bitsOf 3 2 (optByte 0 s)
  let a := Image.parse (rdMem (spFlash 0) 0 64 s)
  let b := Image.parse (rdMem (spFlash 1) 0 64 s)
  if sel = 1 ∨ (sel = 2 ∧ (a.svn < b.svn ∨ (a.svn = b.svn ∧ a.build < b.build))) then [1, 0] else [0, 1]

end Sys2Proof.Machine
end

