-- ==== Sys2Proof/Machine/ResetOps.lean ====
section
/-! DEFINITION. Resets (17): what each level resets, armed and unarmed sources, flushes that a reset waits for, crashes of processors (16). -/

namespace Sys2Proof.Machine

open Sys2Proof

/-! ## What a level spares (Table 17-1) -/

/-- Memory outside the part, and its flash devices. -/
def spaceOutside (sp : Nat) : Bool :=
  sp == spHost || (decide (0x100 ≤ sp) && decide (sp < 0x200)) || sp == spFlash 0 || sp == spFlash 1
/-- Keys that every reset spares. -/
def keyOutside (k : Nat) : Bool := spaceOutside (k / spaceSize)
/-- Keys of the crash-dump area. -/
def keyDump (k : Nat) : Bool :=
  decide (spSlab 0 ≤ k / spaceSize ∧ k / spaceSize < spSlab 4) && decide (slabDump ≤ k % spaceSize ∧ k % spaceSize < slabDump + 2 ^ 21)
/-- What a system reset spares: the crash-dump area too. -/
def keySystem (k : Nat) : Bool := keyOutside k || keyDump k
/-- What a core reset spares: the contents of GDDR7 and of the CXL tier too. -/
def keyCore (k : Nat) : Bool := keySystem k || k / spaceSize == spGddr || k / spaceSize == spCxl

/-- The memory whose keys a predicate names. -/
def keepKeys (f : Nat → Bool) (m : List Host.Cell) : List Host.Cell := m.filter (fun c => f c.1)

/-- Blocks whose counters and logs a core reset spares. -/
def blockCore (b : Nat) : Bool :=
  b == bkReset || b == bkRecorder || b == bkPower || b == bkRollCall || (decide (0x30 ≤ b) && decide (b < 0x80)) ||
  (decide (0x200 ≤ b) && decide (b < 0x300)) || decide (0x2000 ≤ b)
/-- Blocks whose counters a system reset spares (R485, R504). -/
def blockSystem (b : Nat) : Bool := b == bkReset || b == bkRecorder

def keepRegs (f : Nat → Bool) (r : Regs) : Regs :=
  { counters := r.counters.filter (fun e => f (e.1 / 64)), snaps := r.snaps.filter (fun e => f (e.1 / 64)),
    err := r.err.filter (fun e => f e.1), badAddr := [], scratch := [] }

/-- A processor after a reset: what is counted since power-on, and its dump, are kept (R465, FW_PSTAT). -/
def keepProc (x : Proc) : Proc :=
  { Proc.fresh with dump := x.dump, dumpLost := x.dumpLost, restarts := x.restarts, crashes := x.crashes }

/-- A fault flush that a reset interrupts writes no header (R480, R493). -/
def dropFlush (e : Recorder) : Recorder := match e.flush with
  | .fault _ => { e with flush := .none }
  | _ => e

/-- Fuses and the levels of the pins, which no reset changes. -/
def keepFuses (c : Chip) : Chip :=
  { Chip.fresh with
    optFuses := c.optFuses, serial := c.serial, rootKeys := c.rootKeys, revoked := c.revoked, fusedSvn := c.fusedSvn,
    perst := c.perst, sysRst := c.sysRst, pwrFail := c.pwrFail, lowRails := c.lowRails }

def powerOnState (s : State) : State :=
  { State.reset with
    chip := keepFuses s.chip, mem := keepKeys keyOutside s.mem, tiers := { Tiers.fresh with density := s.tiers.density, reserves := Reserve.boot s.tiers.density },
    pm := { Pm.fresh with wear := s.pm.wearFlash, wearFlash := s.pm.wearFlash, temps := s.pm.temps },
    ev := { Recorder.fresh with seq := s.ev.seq, slots := s.ev.slots },
    out := s.out, draws := s.draws, pending := s.pending }

def systemState (s : State) : State :=
  { powerOnState s with
    chip := { keepFuses s.chip with
      opt := s.chip.opt, lcount := s.chip.lcount, cause := s.chip.cause, level := 1, asserted := some .system, rootLock := s.chip.rootLock,
      refOk := s.chip.refOk, backup := s.chip.backup },
    mem := keepKeys keySystem s.mem, ev := dropFlush s.ev, regs := keepRegs blockSystem s.regs,
    pm := { Pm.fresh with wear := s.pm.wear, wearFlash := s.pm.wearFlash, temps := s.pm.temps },
    fw := { Fw.fresh with procs := s.fw.procs.map (fun (e : Nat × Proc) => (e.1, keepProc e.2)) } }

def endTag (t : JTag) : JTag := { t with ended := true }

/-- Gangs keep their links; operations outstanding on them end silently (R487, R209). -/
def keepGang (g : Gang) : Gang :=
  { g with grant := none, withdraw := none, tags := g.tags.map (fun (e : Nat × JTag) => (e.1, endTag e.2)) }

/-- A function after a core reset: its configuration space stands (Table 17-1, R487). -/
def keepFunc (f : Nat) (x : Func) : Func :=
  { Func.fresh f with d3 := x.d3, bme := x.bme, tenBit := x.tenBit, cto := x.cto, unmasked := x.unmasked, pendingBits := x.pendingBits }

def noRecal (l : Link) : Link := { l with recalMb := none }
def noChanMb (c : Chan) : Chan := { c with mb := none }
def noCxlMb (d : CxlDev) : CxlDev := { d with mb := none }

def coreState (s : State) : State :=
  let t := systemState s
  let links := s.jl.links.map (fun (e : Nat × Link) => (e.1, noRecal e.2))
  let chans := s.tiers.chans.map (fun (e : Nat × Chan) => (e.1, noChanMb e.2))
  let devs := s.tiers.cxl.map (fun (e : Nat × CxlDev) => (e.1, noCxlMb e.2))
  { t with
    chip := { t.chip with
      level := 2, asserted := some .core, loaded := s.chip.loaded, faultN := s.chip.faultN },
    ep := { s.ep with hotReset := false, rrs := false }, funcs := s.funcs.map (fun (e : Nat × Func) => (e.1, keepFunc e.1 e.2)),
    regs := { keepRegs blockCore s.regs with badAddr := s.regs.badAddr },
    mem := keepKeys keyCore s.mem, tiers := { s.tiers with migs := [], freed := false, rewrites := [], chans := chans, cxl := devs, reserves := Reserve.boot s.tiers.density },
    jl := { s.jl with
      links := links, gangs := s.jl.gangs.map (fun (e : Nat × Gang) => (e.1, keepGang e.2)), arrived := [], rc := { s.jl.rc with mb := none } },
    pp := { Pipe.fresh with ports := s.pp.ports, up := s.pp.up, portCtr := s.pp.portCtr }, pm := s.pm,
    sb := { Sb.fresh with serialMode := bitOf 4 (s.chip.opt.toNat % 256) } }

/-! ## Asserting a reset -/

def levelCode : ResetLevel → Nat
  | .powerOn => 0
  | .system => 1
  | .core => 2

/-- The deeper of two levels. -/
def deeper (a b : ResetLevel) : ResetLevel := if levelCode a ≤ levelCode b then a else b
def deepest (a : ResetLevel) : Option ResetLevel → ResetLevel
  | some b => deeper a b
  | none => a

/-- Is a fault flush running? -/
def faultFlush (s : State) : Bool := match s.ev.flush with
  | .fault _ => true
  | _ => false

/-- A reset at a level, or the deepest level of it and a reset in progress (R492). A flush that it interrupts is counted as
abandoned. -/
def doReset (lvl : ResetLevel) (s : State) : State :=
  let l := deepest (deepest lvl s.chip.asserted) (s.chip.flushWait.map Prod.fst)
  let s1 := if faultFlush s then bump bkRecorder 3 1 s else s
  let t := match l with
    | .powerOn => powerOnState s
    | .system => systemState s1
    | .core => coreState s1
  if s.chip.faultN && !t.chip.faultN then emit (.faultN false) t else t

/-- Sources of Table 17-2 by their bits in RST_CAUSE. -/
def setCause (bit : Nat) (s : State) : State := { s with chip := { s.chip with cause := s.chip.cause ||| 2 ^ bit } }

/-- Is a source armed (R489)? -/
def armed (bit : Nat) (s : State) : Bool := fabric s || bit == 0 || bit == 2 || bit == 3

/-- A source asserts a reset; those of R493 wait for a fault flush that runs. -/
def assertReset (lvl : ResetLevel) (bit : Nat) (s : State) : State :=
  let s1 := setCause bit s
  if [4, 5, 6, 8].contains bit && faultFlush s && s.chip.asserted.isNone then
    { s1 with chip := { s1.chip with flushWait := some (deepest lvl (s.chip.flushWait.map Prod.fst), bit) } }
  else
    let t := doReset lvl s1
    { t with chip := { t.chip with cause := s1.chip.cause } }

/-- FAULT_N asserts (R490, R544). -/
def assertFault (s : State) : State := emit .i3cInterrupt (emit (.faultN true) { s with chip := { s.chip with faultN := true } })

def stopProc (x : Proc) : Proc := { x with pstate := .stopped }

/-- The three things of R490: every processor stops, a fault flush runs, FAULT_N asserts. -/
def stopDevice (s : State) : State :=
  assertFault (startFlush 1 { s with fw := { s.fw with procs := s.fw.procs.map (fun (e : Nat × Proc) => (e.1, stopProc e.2)) } })

/-- An unarmed watchdog, lock-up, clock failure or brown-out (R490). -/
def unarmedFault (bit : Nat) (s : State) : State := stopDevice (setCause bit s)

/-- A source of Table 17-2 that is a system reset when armed, and a fault when not. -/
def faultSource (bit : Nat) (s : State) : State := if armed bit s then assertReset .system bit s else unarmedFault bit s

/-! ## Crashes (R461 to R466) -/

def tenMinutes : Nat := 60000000000

/-- Bytes of a processor's slot in the crash-dump area (R465). -/
def dumpSlot (p : Nat) : Nat := if p = 2 then 2 ^ 21 else if p = 1 then 2 ^ 20 else 2 ^ 18

def dumpMagic : List Byte := [0x46, 0x4D, 0x53, 0x43, 0x44, 0x55, 0x4D, 0x50]

/-- Registers and return stack as a dump holds them: IX, IY, PC, then the stack's 16 entries, the oldest first (log 49). -/
def dumpRegs (c : CoreRegs) : List Byte :=
  leBytes 4 c.ix.toNat ++ leBytes 4 c.iy.toNat ++ leBytes 4 (c.pc % 2 ^ 18) ++ (List.range 16).flatMap (fun i => leBytes 4 (c.rstack.getD i 0))

/-- A dump's header with a CRC (Table 16-7). -/
def dumpHeader (p : Nat) (d : Dump) (crc : Nat) : List Byte :=
  dumpMagic ++ [BitVec.ofNat 8 p, BitVec.ofNat 8 d.cause] ++ leBytes 2 d.exc ++ leBytes 4 d.pc ++ leBytes 8 d.time ++
  leBytes 8 d.build ++ leBytes 4 d.len ++ leBytes 4 d.seq ++ leBytes 4 crc ++ List.replicate 20 0

/-- Writes a crash dump into its slot; while the slot holds an unread one its header alone goes into the index (R465, R466). -/
def writeDump (p cause exc : Nat) (s : State) : State :=
  let x := proc? p s
  let regs := dumpRegs x.core
  let len := if x.dump.isSome then 64 else min (dumpSlot p) (64 + regs.length + fwRamBytes p)
  let d : Dump :=
    { cause := cause, exc := exc, pc := x.core.pc % 2 ^ 18, time := s.chip.lcount, build := x.active.build, seq := x.crashes + 1, len := len }
  if x.dump.isSome then
    modProc p (fun x => { x with dumpLost := true })
      { s with mem := mwrN s.mem (dumpIndexKey p) (dumpHeader p d (crc32c (dumpHeader p d 0))) }
  else
    let ram := len - 64 - regs.length
    let m1 := copyRange (clearRange s.mem (dumpKey p) (dumpSlot p)) (mkey (spFwRam p) 0) (dumpKey p + 64 + regs.length) ram
    let m2 := mwrN m1 (dumpKey p) (dumpHeader p d 0 ++ regs)
    let crc := crc32c (mrdN m2 (dumpKey p) len)
    modProc p (fun x => { x with dump := some d }) { s with mem := mwrN m2 (dumpKey p + 40) (leBytes 4 crc) }

/-- Commands that a processor serves and that have not passed their commit point, or all of them, are answered
FW_RESTARTING (R461, R464). -/
def refuseServed (p : Nat) (all : Bool) (s : State) : State :=
  (tkeys s.mb).foldl (fun t m =>
    let x := mbox? m t
    match x.phase with
    | .running c => if x.proc = p ∧ (all || !c) then answer m Config.fwRestarting Body.empty t else t
    | _ => t) s

/-- Work relayed to a bench whose core has FAILED: its commands are answered FW_RESTARTING (R464). -/
def refuseRelayed (b : Nat) (s : State) : State :=
  match benchOwner b s with
  | none => s
  | some (part, slot) =>
    let s1 := match (slotSt? part slot s).bind SlotSt.loadMb with
      | some m => finish m Config.fwRestarting Body.empty (modSlot part slot (fun st => { st with loadMb := none }) s)
      | none => s
    (s1.ti.binds.filter (fun e => e.2.part == part && e.2.slot == slot)).foldl (fun t e => match e.2.unbindMb with
      | some m => finish m Config.fwRestarting Body.empty (modBind e.1 (fun b => { b with unbindMb := none }) t)
      | none => t) s1

/-- A crash while switching or within 10 s of a switch: the processor goes back to its previous image (R471). -/
def rollBack (p : Nat) (s : State) : State :=
  let x := proc? p s
  match x.target with
  | none => s
  | some _ =>
    let back := if x.pstate = .switching then x.active else x.previous.getD x.active
    let s1 := loadFw p (mkey spGddr back.body) fwImemBytes s
    let s2 := modProc p (fun x => { x with active := back, previous := none, target := none, arming := none, act := .none }) s1
    let s3 := modSec (fun k => { k with measured := tset k.measured (procTarget p) back.digest }) s2
    fwEvent 0x0305 2 p ([0, 0, 0] ++ leBytes 8 back.build) s3

/-- The fallback governor takes over from the power-management core: an emergency begins (R515, R516). -/
def governed (p : Nat) (s : State) : State :=
  if p = 1 then event 0x0287 2 0xFF 0xFF [BitVec.ofNat 8 s.pm.pstate, 0, 0, 0] { s with pm := { s.pm with emerg := true } } else s

/-- A processor crashes (R462 to R466, Table 16-6). -/
def procCrash (p cause exc : Nat) (s : State) : State :=
  let x := proc? p s
  if x.pstate = .restarting ∨ x.pstate = .failed ∨ x.pstate = .stopped then s
  else
    let times := x.crashTimes.filter (fun t => decide (s.chip.lcount < t + tenMinutes)) ++ [s.chip.lcount]
    let failed := decide (times.length ≥ 3) && p != 0
    let s1 := writeDump p cause exc s
    let s2 := rollBack p s1
    let s3 := modProc p (fun x => { x with
      pstate := if p = 0 then .stopped else if failed then .failed else .restarting, crashes := x.crashes + 1, crashTimes := times,
      core := { x.core with waiting := false } }) s2
    let s4 := fwEvent 0x0301 2 p ([BitVec.ofNat 8 cause] ++ leBytes 2 exc) s3
    let s5 := governed p (startFlush 1 (refuseServed p (failed || p == 0) s4))
    if p = 0 then faultSource 8 s5
    else if failed then
      fwEvent 0x0306 3 p [0, 0, 0] (if p ≥ 3 then refuseRelayed (p - 3) s5 else s5)
    else s5

/-! ## Codes of registers and readbacks -/

/-- RST_CAUSE as a word. -/
def rstCause (s : State) : Nat := s.chip.cause % 512 + s.chip.level * 2 ^ 14

def PState.code : PState → Nat
  | .running => 0
  | .restarting => 1
  | .switching => 2
  | .failed => 3
  | .stopped => 4

def Activation.code : Activation → Nat
  | .none => 0
  | .armed => 1
  | .deferred => 2

end Sys2Proof.Machine
end

