-- ==== Sys2Proof/Machine/XlCmds.lean ====
section
/-! DEFINITION. Commands and events of address translation and its transfers (06), and the requests to the host (15). -/

namespace Sys2Proof.Machine

open Sys2Proof

/-! ## Invalidation (R193 to R195) -/

/-- Does a range overlap the scope of an invalidation? -/
def scopeHits (sc : InvScope) (a n : Nat) : Bool :=
  match sc with
  | .whole => true
  | .range b l => overlap a n b l

/-- Discards cached translations and the results of walks in flight. A walk is taken to overlap the scope where the largest
page around its address does. -/
def dropScope (part : Nat) (sc : InvScope) (s : State) : State :=
  let tlb := s.xl.tlb.map (fun (e : Nat × List TlbEnt) =>
    (e.1, e.2.filter (fun t => !(t.part == part && scopeHits sc t.page (2 ^ t.leaf.size)))))
  let wc := s.xl.wcache.filter (fun e =>
    !(e.part == part && scopeHits sc (e.head' * 2 ^ levelBits e.level) (2 ^ levelBits e.level)))
  let walks := s.xl.walks.map (fun (e : Nat × Walk) =>
    if e.2.part = part ∧ scopeHits sc (pageBase e.2.va 38) (2 ^ 38) then (e.1, { e.2 with discarded := true }) else e)
  let xfers := s.xl.xfers.map (fun (e : Nat × Xfer) =>
    if e.2.part = part ∧ e.2.st ≠ .moving then (e.1, { e.2 with got := [] }) else e)
  { s with xl := { s.xl with tlb := tlb, wcache := wc, walks := walks, xfers := xfers } }

/-- Invalidates, and has the command wait for the accesses under way. -/
def invalidate (r : MbRef) (part : Nat) (sc : InvScope) (s : State) : State :=
  let busy := s.xl.xfers.filter (fun e => e.2.part == part && (e.2.st == .moving || e.2.st == .settling || !e.2.jpieces.isEmpty))
  let i : Inval := { mb := r, part := part, xfers := busy.map (fun e => (e.1, e.2.pos)) }
  let t := dropScope part sc s
  { t with xl := { t.xl with invals := t.xl.invals ++ [i] } }

/-- A scope of whole 64 KiB units. -/
def scopeOk : InvScope → Bool
  | .whole => true
  | .range b l => b % 65536 == 0 && l % 65536 == 0

def execInvalidate (c : Call) (scope : InvScope) (s : State) : Host.Outcome State Fault Refusal :=
  done (serve c 0x1210 (fun r t =>
    if !scopeOk scope then .reject Config.badValue else .later (invalidate (callRef c t) r.part scope t) true) s)

/-- The fields of SET_TRANSLATION are in range (R172, R173, R186, R190, R195). -/
def transOk (part : Nat) (p : TransSet) (s : State) : Bool :=
  decide (1 ≤ p.rootBits ∧ p.rootBits ≤ 19) && p.root % max 4096 (2 ^ (p.rootBits + 4)) == 0 && decide (p.func < 256) &&
  funcPart p.func s == part && p.fqBase % 4096 == 0 && decide (p.vec < vectors p.func) && decide (p.timeoutMs ≤ 60000)

/-- The translation with new settings; a new fault queue starts empty (R195). -/
def setTrans (p : TransSet) (t : Trans) : Trans :=
  let u := { t with
    set := true, root := p.root, rootBits := p.rootBits, func := p.func, fqBase := p.fqBase, vec := p.vec,
    timeoutMs := if p.timeoutMs = 0 then 1000 else p.timeoutMs }
  if t.set ∧ t.fqBase = p.fqBase then u else { u with head := 0, tail := 0, tphase := true, unreleased := 0 }

def execSetTranslation (c : Call) (p : TransSet) (s : State) : Host.Outcome State Fault Refusal :=
  done (serve c 0x1200 (fun r t =>
    let old := trans? r.part t
    if !transOk r.part p t then .reject Config.badValue
    else if (old.fqBase != p.fqBase || old.func != p.func || old.vec != p.vec) &&
        (old.unreleased != 0 || stalledCount r.part t != 0) then .reject Config.wrongState
    else .later (invalidate (callRef c t) r.part .whole (modTrans r.part (setTrans p) t)) true) s)

/-! ## Readbacks -/

def execReadTranslation (c : Call) (cursor : Nat) (s : State) : Host.Outcome State Fault Refusal :=
  .next (serveRead c 0x1201 cursor (fun r t =>
    let x := trans? r.part t
    [[x.set.toNat, x.root, x.rootBits, x.func, x.fqBase, x.vec, x.timeoutMs, x.head, x.tail, x.tphase.toNat, x.ovf.toNat,
      (backPressure r.part t).toNat, waitingCount r.part t, stalledCount r.part t]]) s)

/-- Every outstanding and waiting fault with its record, raise time and state. -/
def execReadFaults (c : Call) (cursor : Nat) (s : State) : Host.Outcome State Fault Refusal :=
  .next (serveRead c 0x1211 cursor (fun r t =>
    (t.xl.faults.filter (fun f => f.part == r.part)).map (fun f =>
      [f.vaddr, f.pte, f.time, f.length, f.ctx, f.tag, f.reason, f.level, f.access, f.agent, f.unit, f.written.toNat, f.ended.toNat])) s)

/-! ## Failed requests (R438) -/

/-- The code of a failed data or page table read (Table 15-3). -/
def hostCode : HostEnd → Nat
  | .poisoned => Config.ccData
  | _ => Config.ccProtection

/-- Counts a failure and reports it. -/
def countHostEnd (func : Nat) (how : HostEnd) (s : State) : State :=
  match how with
  | .ok => s
  | .timeout => emit (.aer func .completionTimeout) (bump (bkHost func) 4 1 s)
  | _ => emit (.aer func .completionError) (bump (bkHost func) 5 1 s)

/-! ## Units and walks (R182 to R184) -/

def execDmaTransferUnit (x : Nat) (ecc : List EccHit) (s : State) : Host.Outcome State Fault Refusal := done (runReady x ecc s)

/-- Transfers that wait for a walk of an address. -/
def walkWaiters (part va : Nat) (s : State) : List (Nat × Nat) :=
  s.xl.xfers.filterMap (fun (e : Nat × Xfer) => match e.2.st with
    | .walking a => if e.2.part = part ∧ a / 65536 = va / 65536 then some (e.1, a) else none
    | _ => none)

/-- Ends a walk, does `f` to each transfer that waited for it, and starts walks that wait for a slot. -/
def endWalk (w : Nat) (k : Walk) (f : Nat → Nat → State → State) (s : State) : State :=
  let s1 := { s with xl := { s.xl with walks := tdel s.xl.walks w } }
  let s2 := (walkWaiters k.part k.va s).foldl (fun (t : State) (e : Nat × Nat) => f e.1 e.2 t) s1
  drainWalks s2.xl.walkq.length s2

/-- A unit that waited goes on with the translation it waited for. -/
def unitGoesOn (va : Nat) (l : Option Leaf) (x : Nat) (s : State) : State :=
  runUnit x [] (modXfer x (fun f => { f with st := .ready, got := f.got ++ (l.map (fun l => (pageBase va l.size, l))).toList }) s)

/-- A unit that waited meets an entry that stops it. -/
def unitFaults (reason pte level : Nat) (x va : Nat) (s : State) : State :=
  match xfer? x s with
  | some f => stallXfer x f va reason pte level s
  | none => s

/-- One page table read of a walk has completed: the walk descends, ends in a leaf, or stops (R182, R185). A walk whose result
an INVALIDATE discarded ends without one (R193). -/
def walkRead (w : Nat) (k : Walk) (s : State) : State :=
  let a := pteAddr k.part k.level k.table k.va s
  let counted := bump (bkTrans k.part) 2 1 s
  if k.discarded then endWalk w k (fun x va t => unitGoesOn va none x t) s
  else match walkStep s.tiers.density k.level a (rdMem spHost a 16 s) with
    | .leaf l => endWalk w k (fun x va t => unitGoesOn va (some l) x t) (tlbTouch k.part k.va l counted)
    | .fault r => endWalk w k (unitFaults r a k.level) counted
    | .table t =>
      let s1 := wcPut k.part k.level k.va t s
      if mayRequest k.func s1 then
        let k' := { k with level := k.level - 1, table := t }
        sendWalkRead w k' { s1 with xl := { s1.xl with walks := tset s1.xl.walks w k' } }
      else endWalk w k (fun x _ u => holdXfer x (.func k.func) u) s1

/-- The host answers a page table read, with what it stored before in its own memory. -/
def execWalkComplete (w : Nat) (how : HostEnd) (stores : List HostStore) (s : State) : Host.Outcome State Fault Refusal :=
  match tget s.xl.walks w with
  | some k =>
    let s1 := hostStores stores s
    match how with
    | .ok => done (walkRead w k (bump (bkHost k.func) 1 16 s1))
    | e => done (endWalk w k (fun x _ t => failUnit x (hostCode e) t) (countHostEnd k.func e s1))
  | none => .next s

/-- The fault timeout of a stalled or held transfer passes (R178, R190, R439). -/
def execFaultTimeout (x : Nat) (s : State) : Host.Outcome State Fault Refusal :=
  match xfer? x s with
  | some f =>
    let ends := fun (t : State) => failUnit x Config.ccTransTimeout (bump (bkTrans f.part) 5 1 t)
    match f.st with
    | .stalled tag =>
      done (ends (expireFault f.part tag s))
    | .held .sliced => done (ends s)
    | .held (.func _) => done (ends s)
    | _ => .next s
  | none => .next s

/-! ## Requests to the host (R435 to R439) -/

/-- A completion of a non-posted request. -/
def hostAnswer (tag : Nat) (r : HostReq) (how : HostEnd) (bytes : List Byte) (s : State) : State :=
  let s1 := countHostEnd r.func how { s with xl := { s.xl with hreqs := tdel s.xl.hreqs tag } }
  match r.kind with
  | .read =>
    match how with
    | .ok =>
      let bs := (bytes ++ List.replicate r.len 0).take r.len
      let s2 := wrMem spHost r.addr bs (bump (bkHost r.func) 1 r.len s1)
      pumpWaiting (advance r.owner (modXfer r.owner (fun f => match tget f.hpieces tag with
        | some p => { f with data := spliceAt f.data p.off bs, hpieces := tdel f.hpieces tag }
        | none => f) s2))
    | e => pumpWaiting (failHostPart r.owner tag (hostCode e) s1)
  | .zlr =>
    let who := tkeys (s1.xl.xfers.filter (fun e => e.2.zwait.contains tag))
    pumpWaiting (who.foldl (fun (t : State) (x : Nat) =>
      if how = .ok then advance x (modXfer x (fun f => { f with zwait := f.zwait.filter (· != tag) }) t)
      else failPart x (((xfer? x t).map (fun f => f.va.total)).getD 0) Config.ccVisTimeout t) s1)
  | .walk => s1

def execHostReadCompletion (tag : Nat) (how : HostEnd) (bytes : List Byte) (s : State) : Host.Outcome State Fault Refusal :=
  match tget s.xl.hreqs tag with
  | some r => done (hostAnswer tag r how bytes s)
  | none => .next s

def execCompletionTimeout (tag : Nat) (s : State) : Host.Outcome State Fault Refusal :=
  match tget s.xl.hreqs tag with
  | some r => done (hostAnswer tag r .timeout [] s)
  | none => .next s

/-- Transfers whose host writes under a function are complete and not yet followed by a zero-length read (R437). -/
def zlrDue (func : Nat) (s : State) : List Nat :=
  tkeys (s.xl.xfers.filter (fun e => e.2.st == .settling && e.2.zneed.contains func))

/-- A zero-length read is sent under a function, to the last byte of its last posted write, where one is due. -/
def execZeroLengthRead (func : Nat) (s : State) : Host.Outcome State Fault Refusal :=
  let who := zlrDue func s
  match tget s.xl.lastPosted func, hostTag func s with
  | some addr, some tag =>
    if who.isEmpty || !mayRequest func s then .next s
    else
      let r : HostReq := { kind := .zlr, func := func, addr := addr, len := 0, owner := 0 }
      let s1 := { s with xl := { s.xl with hreqs := tset s.xl.hreqs tag r } }
      let s2 := who.foldl (fun (t : State) (x : Nat) =>
        modXfer x (fun f => { f with zneed := f.zneed.filter (· != func), zwait := f.zwait ++ [tag] }) t) s1
      .next (emit (.zeroLengthRead func addr tag) (bump (bkHost func) 3 1 s2))
  | _, _ => .next s

/-- What waited for a function goes on once it may send: held accesses, and fault records of its partition. -/
def functionSends (func : Nat) (s : State) : State :=
  if !mayRequest func s then s
  else
    let p := funcPart func s
    let s1 := resumeHeld (fun w => w == .func func) s
    if (trans? p s1).func = func then drainFaults p (waitingCount p s1) s1 else s1

def execHeldAccessResume (func : Nat) (s : State) : Host.Outcome State Fault Refusal := done (functionSends func s)

end Sys2Proof.Machine
end

