-- ==== Sys2Proof/Machine/CollCmds.lean ====
section
/-! DEFINITION. Commands and events of the collective units (10). -/

namespace Sys2Proof.Machine

open Sys2Proof

/-! ## Groups (R296 to R300) -/

/-- Ranks a device must reach: its ring neighbours, its tree parent and its children (R297). -/
def reachRanks (g : CGroup) : List Nat := ([prevRank g, nextRank g] ++ (parentRank g).toList ++ childRanks g).eraseDups

/-- A group as Table 10-2 names it, without edges. -/
def CGroup.parse (part : Nat) (bs : List Byte) : CGroup :=
  let f := fun (o k : Nat) => leNat ((bs.drop o).take k)
  { part := part, tag := f 0 4, n := f 4 2, rank := f 6 2, fanin := f 8 1, depth := f 9 1, unit := f 10 1,
    modes := [(0, BitVec.ofNat 8 (f 11 1))], nres := f 12 1, resLen := f 16 8, halves := 0,
    tmoMs := if f 32 4 = 0 then 1000 else f 32 4, edges := [], broken := none, nextSeq := 0, early := [], aborted := [], doomed := [] }

/-- A control byte that is a wire conversion target (Tables 2-1, 2-5, 2-6). -/
def wireCvtOk (b : Byte) : Bool := fmtWire (cvtFmt b) && (cvtRm b).isSome

/-- The fields of a request are in range (Table 10-2). -/
def groupFieldsOk (g : CGroup) (bs : List Byte) : Bool :=
  let zero := fun (o k : Nat) => leNat ((bs.drop o).take k) == 0
  g.tag != 0 && decide (2 ≤ g.n ∧ g.n ≤ 65534) && decide (g.rank < g.n) && decide (2 ≤ g.fanin ∧ g.fanin ≤ 8) &&
  decide (2 ≤ g.depth ∧ g.depth ≤ 16) && decide (g.unit ≤ 1) && wireCvtOk (modeAt g 0) && decide (g.nres ≤ 16) &&
  decide (g.resLen ≤ 2 ^ 30) && (g.nres != 0 || g.resLen == 0) && decide (1 ≤ g.tmoMs ∧ g.tmoMs ≤ 60000) && zero 13 3 && zero 36 12

/-- An entry of the rank table: none where a reserved bit is set or the rank is not reached. -/
def rankEdge (r e : Nat) : Option CEdge :=
  if e / 2 ^ 20 % 2 ^ 10 ≠ 0 ∨ e / 2 ^ 30 = 0 ∨ e / 2 ^ 30 = 3 then none
  else some { rank := r, kind := e / 2 ^ 30, target := e % 2 ^ 20 }

/-- Reads the entries of the ranks to reach through the partition's translation; none where one is not readable or reaches
nothing. -/
def readRanks (part table : Nat) : List Nat → State → Option (List CEdge) × State
  | [], s => (some [], s)
  | r :: rs, s =>
    match fwRead part (table + 4 * r) 3 4 s with
    | (none, t) => (none, t)
    | (some bs, t) =>
      match rankEdge r (leNat bs), readRanks part table rs t with
      | some e, (some es, u) => (some (e :: es), u)
      | _, (_, u) => (none, u)

/-- An edge names a roll-call address of the system, or a TYPE 0 QP of the partition (R297). -/
def edgeOk (part : Nat) (e : CEdge) (s : State) : Bool :=
  if e.kind = 1 then decide (1 ≤ e.target ∧ e.target ≤ s.jl.rc.size) && e.target != 0xFFFF
  else (qp? e.target s).any (fun q => q.typ == 0 && q.part == part)

/-- An edge cannot be used now (R297): the roll call is not DONE, or the QP is not in RTS or is bound. -/
def edgeNotReady (e : CEdge) (s : State) : Bool :=
  if e.kind = 1 then s.jl.rc.rcstate != 2 else !(qp? e.target s).any (fun q => q.qstate == .rts && q.bound == 0)

/-- Sets the binding of the QPs that a group's edges name. -/
def bindEdges (es : List CEdge) (b : Nat) (s : State) : State :=
  (es.filter (fun e => e.kind == 2)).foldl (fun t e => modQp e.target (fun q => { q with bound := b }) t) s

/-- Takes a zeroed range for the residual slots (R299). -/
def takeResiduals (h : Nat) (g : CGroup) (s : State) : Option State :=
  let n := g.nres * g.resLen * 8
  if n = 0 then some s
  else match reserve (.residual h) n s with
    | none => none
    | some (b, t) => some { t with mem := clearRange t.mem (mkey spGddr b) n }

/-- CREATE_GROUP for a payload (R296 to R299). -/
def createGroup (part : Nat) (bs : List Byte) (s : State) : Ans :=
  let g := CGroup.parse part bs
  let h := freshKey s.cu.groups
  if !groupFieldsOk g bs || s.cu.groups.any (fun e => e.2.tag == g.tag) then .reject Config.badValue
  else match readRanks part (leNat ((bs.drop 24).take 8)) (reachRanks g) s with
    | (none, _) => .reject Config.badValue
    | (some es, t) =>
      if !es.all (fun e => edgeOk part e t) then .reject Config.badValue
      else if es.any (fun e => edgeNotReady e t) then .reject Config.wrongState
      else if h ≥ 65536 then .reject Config.noResource
      else match takeResiduals h g t with
        | none => .reject Config.noResource
        | some u =>
          .ok (bindEdges es (h + 1) (modCu (fun c => { c with groups := tset c.groups h { g with edges := es } }) u))
            (Body.nums [h, (modeAt g 0).toNat])

def execCreateGroup (c : Call) (s : State) : Host.Outcome State Fault Refusal :=
  .next (serve c 0x4200 (fun r t => createGroup r.part r.payload t) s)

/-- The group a command names, of its header's partition. -/
def groupNamed (h part : Nat) (s : State) : Option CGroup := (cgroup? h s).bind (fun g => if g.part = part then some g else none)

/-- A change of a group's mode is staged. -/
def modeStaged (h : Nat) (s : State) : Bool :=
  s.fw.changes.any (fun c => match c.kind with
    | .groupMode k _ _ => k == h
    | .rules => false
    | .refill _ => false)

/-- A group with a change in progress is busy (R38). -/
def execDestroyGroup (c : Call) (handle : Nat) (s : State) : Host.Outcome State Fault Refusal :=
  .next (serve c 0x4201 (fun r t =>
    match groupNamed handle r.part t with
    | none => .reject Config.badValue
    | some g =>
      if t.cu.colls.any (fun e => e.2.group == handle) then .reject Config.wrongState
      else if modeStaged handle t then .reject Config.busy
      else
        .ok (unreserve (fun x => x == .residual handle) (bindEdges g.edges 0 (modCu (fun u => { u with groups := tdel u.groups handle }) t)))
          Body.empty) s)


/-- Stages a change to both units of its kind, under the next epoch number (R473). -/
def stageChange (k : StagedKind) (mb : MbRef) (s : State) : State :=
  { s with fw := { s.fw with
      epoch := s.fw.epoch + 1, changes := s.fw.changes ++ [{ epoch := s.fw.epoch + 1, kind := k, mb := mb, units := 3 }] } }

def execSetGroupMode (c : Call) (handle fmt effSeq : Nat) (s : State) : Host.Outcome State Fault Refusal :=
  .next (serve c 0x4202 (fun r t =>
    match groupNamed handle r.part t with
    | none => .reject Config.badValue
    | some g =>
      if fmt > 255 ∨ effSeq ≥ 2 ^ 32 ∨ !wireCvtOk (BitVec.ofNat 8 fmt) then .reject Config.badValue
      else if effSeq < g.nextSeq then .reject Config.wrongState
      else if modeStaged handle t then .reject Config.busy
      else .later (stageChange (.groupMode handle fmt effSeq) (callRef c t) t) false) s)

/-- Tag, ranks, neighbours with their QPs or addresses, state, next SEQ, committed and staged modes, residual slots. -/
def execReadCollGroups (c : Call) (cursor : Nat) (s : State) : Host.Outcome State Fault Refusal :=
  .next (serveRead c 0x4203 cursor (fun _ t =>
    (t.cu.groups.filter (fun e => sees c e.2.part t)).map (fun (e : Nat × CGroup) =>
      let g := e.2
      [e.1, g.tag, g.n, g.rank, g.fanin, g.depth, g.unit, g.tmoMs, g.broken.isSome.toNat, (g.broken.map Prod.fst).getD 0, g.nextSeq,
       g.nres, g.resLen, g.halves] ++ g.edges.flatMap (fun k => [k.rank, k.kind, k.target]) ++
      g.modes.flatMap (fun m => [m.1, m.2.toNat]) ++
      t.fw.changes.flatMap (fun x => match x.kind with
        | .groupMode h f q => if h = e.1 then [x.units, f, q] else []
        | .rules => []
        | .refill _ => []))) s)

/-! ## Collectives -/

/-- The phase a collective has reached. -/
def collPhase (c : Coll) : Nat :=
  if c.txSent.any (fun e => decide (e.1 ≥ 65536)) || c.rxBegun.any (fun e => decide (e.1 ≥ 65536)) then 1 else 0

/-- SEQ, descriptor, admission state, phase, chunks finished and credits held per edge of each collective. -/
def execReadCollectives (c : Call) (cursor : Nat) (s : State) : Host.Outcome State Fault Refusal :=
  .next (serveRead c 0x4204 cursor (fun _ t =>
    (t.cu.colls.filter (fun e => (cgroup? e.2.group t).any (fun g => sees c g.part t))).map (fun (e : Nat × Coll) =>
      let k := e.2
      let d := k.desc
      [e.1, k.group, k.seq, k.qpn, k.admitted.toNat, collPhase k, k.finished.length, k.bytes, k.ended.isSome.toNat, d.op, d.red, d.alg,
       d.flags, d.nsrc, d.ndst, d.count, d.srcFmt, d.dstCvt.toNat, d.rslot, d.chunk, d.progress, d.seed] ++
      (d.src ++ d.dst).flatMap (fun o => [o.elem, o.scale]) ++
      k.txGrant.flatMap (fun x => [x.1, x.2 - tgetD k.txUsed x.1 0]) ++
      k.rxGrant.flatMap (fun x => [x.1, x.2 - (k.rxBegun.filter (fun b => b.1 == x.1)).length]))) s)

/-- Ends the waiting collectives of a partition that no longer fit its share (R295). -/
def dropOverShare (part : Nat) (s : State) : State :=
  (s.cu.colls.filter (fun e => !e.2.admitted && e.2.ended.isNone && (cgroup? e.2.group s).any (fun g =>
    g.part == part && decide (reservation g e.2.desc > partShare part s * 1024)))).foldl (fun (t : State) (e : Nat × Coll) =>
      collFail e.1 Config.ccProtection (((cgroup? e.2.group t).map CGroup.rank).getD 0) 4 t) s

def execSetAccumShare (c : Call) (mib : Nat) (s : State) : Host.Outcome State Fault Refusal :=
  done (serve c 0x4860 (fun r t =>
    if mib < 1 ∨ mib > 16 then .reject Config.badValue
    else .ok (dropOverShare r.part (modPart r.part (fun p => { p with accumShare := mib * 1024 }) t)) Body.empty) s)

/-- A collective whose unit runs: the 108 °C trip stops the units (R513). -/
def unitColl? (id : Nat) (s : State) : Option Coll := if s.pm.tripped then none else coll? id s

/-- A waiting collective is admitted to its unit where it may be (R295). -/
def execCollAdmit (id : Nat) (s : State) : Host.Outcome State Fault Refusal :=
  done (if admissible id s && !s.pm.tripped then admitColl id (wakeFor 3 s) else s)

/-- A message of a collective that waits to be handled, with its die: those that came over queue pairs first, then those that came
over Jodaul links. Messages of storage targets are not of a collective. -/
def collWaiting (i : Nat) (s : State) : Option (Nat × List Byte × State) :=
  match s.qe.collIn[i]? with
  | some (n, bs) =>
    let die := ((qp? n s).map (fun q => q.x.via.port)).getD 0 / 4
    if ((qp? n s).map Qp.bound).getD 0 > 2 ^ 20 then none
    else some (die, bs, { s with qe := { s.qe with collIn := s.qe.collIn.eraseIdx i } })
  | none =>
    let j := i - s.qe.collIn.length
    match s.jl.arrived[j]? with
    | some m => if m.cls = 1 then some (m.die, m.data, { s with jl := { s.jl with arrived := s.jl.arrived.eraseIdx j } }) else none
    | none => none

/-- Handles a waiting message whose KIND is one that a predicate names. -/
def collTake (p : Nat → Bool) (i : Nat) (s : State) : State :=
  match collWaiting i s with
  | some (die, bs, t) => if p (CHead.parse bs).kind && !s.pm.tripped then collMessage die bs t else s
  | none => s

/-- DATA; a message with a reserved KIND is discarded (R311). -/
def execCollData (i : Nat) (s : State) : Host.Outcome State Fault Refusal := done (collTake (fun k => k != 2 && k != 3) i s)

def execCollCredit (i : Nat) (s : State) : Host.Outcome State Fault Refusal := done (collTake (· == 2) i s)

def execCollAbort (i : Nat) (s : State) : Host.Outcome State Fault Refusal := done (collTake (· == 3) i s)

/-- Chunks a rank receives on an edge of a phase. -/
def chunksToGet (g : CGroup) (d : CollDesc) (phase : Nat) : Nat :=
  let segs := if !isRing d then [0] else if phase = 0 then (List.range g.n).filter (· != prevRank g) else (List.range g.n).filter (· != g.rank)
  segs.foldl (fun a k => a + chunksIn g d k) 0

/-- The neighbour whose DATA or CREDIT a collective awaits. -/
def awaited (g : CGroup) (c : Coll) : Option Nat :=
  let d := c.desc
  let data := (rxEdges g d).find? (fun e =>
    decide ((c.rxBegun.filter (fun b => b.1 == edgeKey e.1 e.2)).length < chunksToGet g d e.1) ||
    c.works.any (fun w => workPhase w.1 == e.1 && decide (0 < tgetD w.2.have' e.2 0 ∧ tgetD w.2.have' e.2 0 < chunkElems g d w.1)))
  let credit := (txEdges g d).find? (fun e =>
    creditLeft c e.1 e.2 == 0 && decide (tgetD c.txSent (edgeKey e.1 e.2) 0 < chunksToSend g d e.1))
  let last := (txEdges g d).find? (fun e =>
    d.ndst == 0 && decide (tgetD c.txGrant (edgeKey e.1 e.2) 0 < g.depth + chunksToSend g d e.1))
  (data.or (credit.or last)).map Prod.snd

/-- TMO passes with nothing from an awaited neighbour (Table 10-7). -/
def execCollPeerTimeout (id : Nat) (s : State) : Host.Outcome State Fault Refusal :=
  done (match unitColl? id s with
    | none => s
    | some c =>
      match cgroup? c.group s with
      | none => s
      | some g =>
        match awaited g c with
        | some r => if c.admitted && c.ended.isNone then collFail id Config.ccRemoteOp r 4 s else s
        | none => s)

/-- A chunk of the result is visible at every destination: PROGRESS counts it (R313). -/
def execChunkFinished (id chunk : Nat) (s : State) : Host.Outcome State Fault Refusal :=
  done (match unitColl? id s with
    | none => s
    | some c =>
      if !c.landed.contains chunk then s
      else
        let s1 := modColl id (fun c => { c with landed := c.landed.erase chunk, finished := c.finished ++ [chunk] }) s
        match cgroup? c.group s with
        | some g => tallyAdd g.part c.desc.progress 1 s1
        | none => s1)

/-- Every chunk of the result is finished: the collective completes (R313). -/
def execCollComplete (id : Nat) (s : State) : Host.Outcome State Fault Refusal :=
  done (match unitColl? id s with
    | none => s
    | some c =>
      match cgroup? c.group s with
      | some g => if collReady g c then completeColl id g c s else s
      | none => s)

/-- A collective that a cause has ended has no write outstanding any more: it completes with its code (R316). -/
def execCollEnd (id : Nat) (s : State) : Host.Outcome State Fault Refusal :=
  done (match unitColl? id s with
    | none => s
    | some c =>
      match cgroup? c.group s, c.ended with
      | some g, some e => if s.xl.xfers.any (fun x => ofColl id x.2) then s else endColl id g c e.1 e.2 s
      | _, _ => s)

end Sys2Proof.Machine
end

