-- ==== Sys2Proof/Machine/QueueCmds.lean ====
section
/-! DEFINITION. Commands and events of queue pairs, completion queues, hall passes and tally counters (08). -/

namespace Sys2Proof.Machine

open Sys2Proof

/-! ## Naming (R230) -/

/-- The QP a command names, or the status that refuses it. -/
def qpNamed (c : Call) (n part : Nat) (s : State) : Except Nat Qp :=
  match qp? n s with
  | none => .error Config.badValue
  | some q => if c.func ≠ 0 ∧ q.part ≠ part then .error Config.notPermitted else .ok q

/-- The CQ a command names, or the status that refuses it. -/
def cqNamed (c : Call) (n part : Nat) (s : State) : Except Nat Cq :=
  match cq? n s with
  | none => .error Config.badValue
  | some q => if c.func ≠ 0 ∧ q.part ≠ part then .error Config.notPermitted else .ok q

/-- A CQ that serves the QPs of a partition, or the status that refuses it. -/
def cqServes (c : Call) (n part : Nat) (s : State) : Option Nat :=
  match cq? n s with
  | none => some Config.badValue
  | some q => if q.part = part then none else if c.func ≠ 0 then some Config.notPermitted else some Config.badValue

/-- A transmit queue that a QP of a partition may use: one of its grant (R342); partition 0 also holds every queue that is
granted nowhere (R29). -/
def txqServes (part q : Nat) (s : State) : Bool :=
  txqGranted part q s ||
  (part == 0 && decide (q < 65536) && !(s.parts.any (fun e => txqGranted e.1 q s)))

/-! ## Queue pairs (R229 to R235) -/

def execCreateQp (c : Call) (s : State) : Host.Outcome State Fault Refusal :=
  .next (serve c 0x4000 (fun r t =>
    match newQp r.part t with
    | none => .reject Config.noResource
    | some (n, u) => .ok u (Body.nums [n, ((qp? n u).map Qp.gen).getD 0])) s)

/-- Transfers that work for the rings and entries of a QP. -/
def qpXfers (n : Nat) (s : State) : List Nat :=
  tkeys (s.xl.xfers.filter (fun e => e.2.owner.a == n &&
    (e.2.owner.kind == .sq || e.2.owner.kind == .rq || e.2.owner.kind == .landing || e.2.owner.kind == .readResp ||
      e.2.owner.kind == .atomic)))

/-- Takes a transfer out, with the fault it waits on. -/
def cancelXfer (x : Nat) (s : State) : State :=
  match xfer? x s with
  | none => s
  | some f =>
    let s1 := match f.st with
      | .stalled tag => dropFault f.part tag s
      | _ => s
    delXfer x (endXfer x Config.ccFlushed s1)

/-- Nothing of an incarnation works on: what its rings and entries still read or write is given up. -/
def quietQp (n : Nat) (s : State) : State := (qpXfers n s).foldl (fun t x => cancelXfer x t) s

/-- A QP that goes back to RESET. -/
def resetQp (n : Nat) (s : State) : State :=
  modQp n (fun q => { q with
    qstate := .reset, errCode := 0, errOp := 0, errIndex := 0, ops := [], avail := [], inMsgs := [], sqLoop := .idle,
    rqLoop := .idle, x := Xport.fresh }) (quietQp n s)

/-- A field of the context that MODIFY_QP carries, by offset and size (R232). -/
def ctxAt (ctx : List Byte) (o k : Nat) : Nat := leNat ((ctx.drop o).take k)

/-- Offset and size of STATE, which names the state asked for, and of the fields that RESET to INIT sets (Tables 8-2, 8-3). -/
def initSpans : List (Nat × Nat) := [(0, 1), (1, 1), (8, 8), (16, 8), (24, 1), (25, 1), (28, 2), (30, 2), (72, 2), (76, 4)]

/-- Those that INIT to RTR sets (R233, R286); a TYPE 2 QP has no transport state. -/
def rtrSpans (typ : Nat) : List (Nat × Nat) :=
  [(0, 1), (52, 4), (56, 16), (74, 1), (75, 1)] ++
  if typ = 2 then [] else [(172, 1), (173, 1), (174, 2), (176, 1), (177, 1), (216, 4), (220, 4)]

/-- Does a request set no field outside some spans: every byte outside them is zero (log 10)? -/
def setsOnly (spans : List (Nat × Nat)) (ctx : List Byte) : Bool :=
  ctx.zipIdx.all (fun e => e.1 == 0 || spans.any (fun p => decide (p.1 ≤ e.2 ∧ e.2 < p.1 + p.2)))

/-- The context with what RESET to INIT sets. -/
def setInit (ctx : List Byte) (q : Qp) : Qp :=
  { q with
    typ := ctxAt ctx 1 1, sqBase := ctxAt ctx 8 8, rqBase := ctxAt ctx 16 8, sqLog := ctxAt ctx 24 1, rqLog := ctxAt ctx 25 1,
    scq := ctxAt ctx 28 2, rcq := ctxAt ctx 30 2, txq := ctxAt ctx 72 2, keySlot := ctxAt ctx 76 4 }

/-- The context with what INIT to RTR sets. -/
def setRtr (ctx : List Byte) (q : Qp) : Qp :=
  { q with
    peer := ctxAt ctx 52 4 % 2 ^ 20, peerGen := ctxAt ctx 52 4 / 2 ^ 20, peerAddr := BitVec.ofNat 128 (ctxAt ctx 56 16),
    mtu := ctxAt ctx 74 1, maxRd := ctxAt ctx 75 1,
    x := if q.typ = 2 then q.x else { q.x with
      nPaths := ctxAt ctx 172 1, portMask := ctxAt ctx 173 1, sportBase := ctxAt ctx 174 2, retryCnt := ctxAt ctx 176 1,
      rnrRetry := ctxAt ctx 177 1, sqPsn := ctxAt ctx 216 4, rqPsn := ctxAt ctx 220 4 } }

/-- Another QP not in RESET names a key pair (R403). -/
def keyTaken (n slot : Nat) (s : State) : Bool :=
  slot != 0xFFFFFFFF && s.qe.qps.any (fun e => e.1 != n && e.2.qstate != .reset && e.2.keySlot == slot)

/-- The even slot of a PT pair of a partition, or no slot (R403). -/
def keyServes (part slot : Nat) (s : State) : Bool :=
  slot == 0xFFFFFFFF ||
  (match keySlot? slot s with
   | some k => k.usage == 1 && k.part == part && !k.rx
   | none => false)

/-- The status that refuses RESET to INIT with these fields, if any (Table 8-2, R236, R246, R288, R342, R403, R550). -/
def initBad (c : Call) (n : Nat) (q : Qp) (s : State) : Option Nat :=
  if !(q.sqBase % 4096 == 0 && q.rqBase % 4096 == 0 && decide (q.sqBase < 2 ^ 57 ∧ q.rqBase < 2 ^ 57) &&
       decide (6 ≤ q.sqLog ∧ q.sqLog ≤ 16 ∧ 6 ≤ q.rqLog ∧ q.rqLog ≤ 16)) then some Config.badValue
  else if q.typ > 2 ∨ (q.typ = 1 ∧ (disabled 5 s = true ∨ q.keySlot ≠ 0xFFFFFFFF)) then some Config.badValue
  else if !txqServes q.part q.txq s || !keyServes q.part q.keySlot s then some Config.badValue
  else match cqServes c q.scq q.part s, cqServes c q.rcq q.part s with
    | some st, _ => some st
    | none, some st => some st
    | none, none => if keyTaken n q.keySlot s then some Config.busy else none

/-- The transport fields of INIT to RTR are in range (R286, R288). -/
def xportOk (q : Qp) : Bool :=
  q.typ == 2 ||
  (decide (1 ≤ q.x.nPaths ∧ q.x.nPaths ≤ 8) && decide (1 ≤ q.x.portMask ∧ q.x.portMask < 256) && decide (q.x.sportBase < 16384) &&
   decide (1 ≤ q.x.retryCnt ∧ q.x.retryCnt ≤ 15) && decide (q.x.rnrRetry ≤ 7) &&
   (if q.typ = 1 then q.x.nPaths == 1 && decide (q.x.sqPsn < 2 ^ 24 ∧ q.x.rqPsn < 2 ^ 24)
    else q.x.sqPsn == 0 && q.x.rqPsn == 0))

/-- The fields of INIT to RTR are in range (Table 8-2, R286, R288). -/
def rtrOk (q : Qp) : Bool :=
  decide (q.peer < 2 ^ 20 ∧ q.peerGen < 256) && (q.typ != 2 || q.peerAddr == 0) &&
  decide (1 ≤ q.mtu ∧ q.mtu ≤ (if q.typ = 1 then 3 else 4)) && decide (1 ≤ q.maxRd ∧ q.maxRd ≤ 64) && xportOk q

/-- The context as it enters INIT: a new incarnation with new streams and empty rings (R234, R273). -/
def enterInit (q : Qp) : Qp :=
  { q with
    qstate := .init, gen := (q.gen + 1) % 256, sqStat := 0, rqStat := 0, sqCi := 0, sqDb := 0, sqComp := 0, rqCi := 0, rqDb := 0,
    x := Xport.fresh, ops := [], avail := [], inMsgs := [], sqLoop := .idle, rqLoop := .idle }

/-- RTO before the first sample, in ns (R278). -/
def firstRto : Nat := 100000

/-- The context as it enters RTR: window and timer at their initial values, TYPE 1 streams at their PSNs (R284, R286). -/
def enterRtr (cc : CcParams) (q : Qp) : Qp :=
  let tx := if q.typ = 1 then q.x.sqPsn else 0
  let rx := if q.typ = 1 then q.x.rqPsn else 0
  { q with
    qstate := .rtr,
    x := { q.x with
      sndNxt := tx, sndUna := tx, csp := rx, execPsn := rx, cwnd := cc.initW * mtuBytes q.mtu, rto := firstRto } }

/-- The state of a Table 8-3 code. -/
def QpState.ofCode : Nat → Option QpState
  | 0 => some .reset
  | 1 => some .init
  | 2 => some .rtr
  | 3 => some .rts
  | 4 => some .draining
  | 5 => some .drained
  | 6 => some .error
  | _ => none

/-- A transition that sets no field. -/
def bareModify (ctx : List Byte) (a : Ans) : Ans := if setsOnly [(0, 1)] ctx then a else .reject Config.badValue

/-- One transition of MODIFY_QP, to the state that STATE names (R232, R233). -/
def modifyQp (c : Call) (n : Nat) (q : Qp) (ctx : List Byte) (s : State) : Ans :=
  match q.qstate, QpState.ofCode (ctxAt ctx 0 1) with
  | _, none => .reject Config.wrongState
  | .reset, some .init =>
    if !setsOnly initSpans ctx then .reject Config.badValue
    else match initBad c n (setInit ctx q) s with
      | some st => .reject st
      | none => .ok (modQp n (fun _ => enterInit (setInit ctx q)) (quietQp n s)) Body.empty
  | .init, some .rtr =>
    if !setsOnly (rtrSpans q.typ) ctx || !rtrOk (setRtr ctx q) then .reject Config.badValue
    else .ok (modQp n (fun _ => enterRtr s.qe.cc (setRtr ctx q)) s) Body.empty
  | cur, some goal =>
    if goal = .error ∧ cur ≠ .reset then bareModify ctx (.ok (failQp n 0 0 0 false s) Body.empty)
    else if (cur = .rtr ∧ goal = .rts) ∨ (cur = .rts ∧ goal = .draining) ∨ (cur = .drained ∧ goal = .rts) then
      bareModify ctx (.ok (qpKick n (modQp n (fun q => { q with qstate := goal }) s)) Body.empty)
    else if cur = .error ∧ goal = .reset then bareModify ctx (.ok (kickPart q.part (resetQp n s)) Body.empty)
    else .reject Config.wrongState

def execModifyQp (c : Call) (qpn : Nat) (goal : Byte) (ctx : List Byte) (s : State) : Host.Outcome State Fault Refusal :=
  done (serve c 0x4001 (fun r t =>
    match qpNamed c qpn r.part t with
    | .error st => .reject st
    | .ok q => modifyQp c qpn q (goal :: ctx) t) s)

/-- The flush of a QP in ERROR has finished: nothing announced is left (R235). -/
def flushed (q : Qp) : Bool :=
  q.ops.isEmpty && q.avail.isEmpty && q.sqCi == q.sqDb && q.rqCi == q.rqDb && q.sqLoop == .idle && q.rqLoop == .idle

def execDestroyQp (c : Call) (qpn : Nat) (s : State) : Host.Outcome State Fault Refusal :=
  done (serve c 0x4002 (fun r t =>
    match qpNamed c qpn r.part t with
    | .error st => .reject st
    | .ok q =>
      if q.qstate = .reset ∨ (q.qstate = .error ∧ flushed q = true) then .ok (dropQp qpn (quietQp qpn t)) Body.empty
      else .reject Config.wrongState) s)

def QpState.code' : QpState → Nat
  | .reset => 0
  | .init => 1
  | .rtr => 2
  | .rts => 3
  | .draining => 4
  | .drained => 5
  | .error => 6

/-- Transport state (Table 9-5). -/
def xportBytes (x : Xport) : List Byte :=
  let next := ((x.queue.find? (fun p => p.sends == 0)).map TxPkt.psn).getD x.sndNxt
  let msn := ((x.queue.find? (fun p => p.sends == 0 && p.op != 4 && p.op != 7)).map TxPkt.msn).getD x.msnTx
  [next, x.sndUna, x.csp, msn, x.vmsnRx, x.vmsnPeer, x.cwnd, x.srtt, x.rttvar, x.base, x.rto].flatMap (leBytes 4)
    ++ [BitVec.ofNat 8 x.nPaths, BitVec.ofNat 8 x.portMask] ++ leBytes 2 x.sportBase
    ++ [BitVec.ofNat 8 x.retryCnt, BitVec.ofNat 8 x.rnrRetry, BitVec.ofNat 8 x.penalty,
        BitVec.ofNat 8 (x.rnrWait.toNat + 2 * x.rnrRefuse.toNat)]
    ++ leBytes 4 (if x.rnrRefuse then x.rnrPsn else x.rnrTxPsn) ++ leBytes 32 x.bitmap ++ leBytes 4 x.sqPsn ++ leBytes 4 x.rqPsn
    ++ (List.range 8).map (fun k => BitVec.ofNat 8 (x.repaths.getD k 0)) ++ List.replicate 24 0

/-- The QP context (Table 8-2). -/
def ctxBytes (q : Qp) : List Byte :=
  [BitVec.ofNat 8 (QpState.code' q.qstate), BitVec.ofNat 8 q.typ, BitVec.ofNat 8 q.gen, BitVec.ofNat 8 q.part]
    ++ leBytes 2 q.sqStat ++ leBytes 2 q.rqStat ++ leBytes 8 q.sqBase ++ leBytes 8 q.rqBase
    ++ [BitVec.ofNat 8 q.sqLog, BitVec.ofNat 8 q.rqLog, 0, 0] ++ leBytes 2 q.scq ++ leBytes 2 q.rcq
    ++ [q.sqCi, q.sqDb, q.sqComp, q.rqCi, q.rqDb, q.peer + q.peerGen * 2 ^ 20].flatMap (leBytes 4)
    ++ leBytes 16 q.peerAddr.toNat ++ leBytes 2 q.txq ++ [BitVec.ofNat 8 q.mtu, BitVec.ofNat 8 q.maxRd] ++ leBytes 4 q.keySlot
    ++ [BitVec.ofNat 8 q.errCode, BitVec.ofNat 8 q.errOp, 0, 0] ++ leBytes 4 q.errIndex ++ List.replicate 40 0
    ++ (if q.typ = 2 then List.replicate 128 0 else xportBytes q.x)

/-- Bytes as little-endian 8-byte numbers. -/
def words8 (bs : List Byte) : List Nat := (List.range (bs.length / 8)).map (fun i => leNat ((bs.drop (8 * i)).take 8))

/-- A QPN with its context. -/
def qpRow (n : Nat) (q : Qp) : List Nat := n :: words8 (ctxBytes q)

/-- The QP that a QPN selects, or each of the partition, with its context. -/
def execReadQp (c : Call) (which : QpPage) (s : State) : Host.Outcome State Fault Refusal :=
  .next (serve c 0x4003 (fun r t =>
    match which.qpn with
    | none => pageRead c r 0x4003 which.cursor ((t.qe.qps.filter (fun e => e.2.part == r.part)).map (fun (e : Nat × Qp) => qpRow e.1 e.2)) t
    | some n =>
      match qpNamed c n r.part t with
      | .error st => .reject st
      | .ok q => pageRead c r 0x4003 which.cursor [qpRow n q] t) s)

/-! ## Completion queues (R246 to R249) -/

def cqsOf (part : Nat) (s : State) : Nat := s.qe.cqs.countP (fun e => e.2.part == part)

def execCreateCq (c : Call) (base log vec count time : Nat) (s : State) : Host.Outcome State Fault Refusal :=
  .next (serve c 0x4010 (fun r t =>
    if !(base % 4096 == 0 && decide (base < 2 ^ 57) && decide (6 ≤ log ∧ log ≤ 20) && decide (vec < vectors c.func) &&
         decide (1 ≤ count ∧ count ≤ 256) && decide (time ≤ 1000)) then .reject Config.badValue
    else
      let n := freshKey t.qe.cqs
      if cqsOf r.part t ≥ ((part? r.part t).map Part.cqs).getD 0 ∨ n ≥ Config.poolCqs then .reject Config.noResource
      else
        let q : Cq := { part := r.part, func := c.func, base := base, log := log, vec := vec, modCount := count, modTime := time,
                        tail := 0, released := 0, arm := none, timing := false, ovf := false, held := [], stalled := none }
        .ok (modQe (fun e => { e with cqs := tset e.cqs n q }) t) (Body.nums [n])) s)

/-- A QP, a job or a collective names a CQ, or it holds completions that are never dropped (R246, R248). -/
def cqUsed (n : Nat) (q : Cq) (s : State) : Bool :=
  s.qe.qps.any (fun e => e.2.qstate != .reset && (e.2.scq == n || e.2.rcq == n)) ||
  s.ti.jobs.any (fun e => e.2.req.cq == some n) || s.ck.jobs.any (fun e => e.2.cq == n && e.2.part == q.part) || !q.held.isEmpty

def execDestroyCq (c : Call) (cqn : Nat) (s : State) : Host.Outcome State Fault Refusal :=
  .next (serve c 0x4011 (fun r t =>
    match cqNamed c cqn r.part t with
    | .error st => .reject st
    | .ok q =>
      if cqUsed cqn q t then .reject Config.wrongState
      else .ok (modQe (fun e => { e with cqs := tdel e.cqs cqn }) t) Body.empty) s)

/-- Base, size, tail, released index, arm state, OVF, held completions and moderation of each CQ of the partition. -/
def execReadCq (c : Call) (cursor : Nat) (s : State) : Host.Outcome State Fault Refusal :=
  .next (serveRead c 0x4012 cursor (fun r t =>
    (t.qe.cqs.filter (fun e => e.2.part == r.part)).map (fun (e : Nat × Cq) =>
      [e.1, e.2.base, e.2.log, e.2.tail, e.2.released, e.2.arm.isSome.toNat, e.2.arm.getD 0, e.2.ovf.toNat, e.2.held.length,
       e.2.vec, e.2.modCount, e.2.modTime])) s)

/-- The moderation time of an armed CQ has passed since the first completion at or beyond its INDEX (R249). -/
def execCqModerationTimer (cqn : Nat) (s : State) : Host.Outcome State Fault Refusal :=
  .next (match cq? cqn s with
    | some q => if q.timing ∧ cqBeyond q > 0 then cqFire cqn s else s
    | none => s)

/-! ## Hall passes (R250 to R256) -/

/-- The fields of ISSUE_PASS are in range (R230, R251, R252). -/
def passOk (part : Nat) (p : PassSet) (s : State) : Bool :=
  decide (1 ≤ p.rights ∧ p.rights < 8) && decide (p.bind < 2 ^ 32) && p.bind / 2 ^ 20 % 2 ^ 11 == 0 &&
  (!bitOf 31 p.bind || (qp? (p.bind % 2 ^ 20) s).any (fun q => q.part == part)) &&
  decide (1 ≤ p.length) && decide (p.base + p.length ≤ 2 ^ 57) && (p.tally == 0xFFFF || tallyOk part p.tally s)

def execIssuePass (c : Call) (p : PassSet) (s : State) : Host.Outcome State Fault Refusal :=
  .next (serve c 0x4020 (fun r t =>
    if !passOk r.part p t then .reject Config.badValue
    else match issuePass r.part p.rights p.bind p.base p.length p.tally t with
      | none => .reject Config.noResource
      | some (k, u) => .ok u (Body.nums [k])) s)

def execRevokePass (c : Call) (key : Nat) (s : State) : Host.Outcome State Fault Refusal :=
  done (serve c 0x4021 (fun r t =>
    match pass? (key / 256) t with
    | none => .reject Config.wrongState
    | some p =>
      if p.pstate = .free ∨ p.gen ≠ key % 256 then .reject Config.wrongState
      else if c.func ≠ 0 ∧ p.part ≠ r.part then .reject Config.notPermitted
      else if p.pstate = .revoking then .reject Config.busy
      else .later (beginRevoke (key / 256) (some (callRef c t)) t) true) s)

/-- The admitted accesses of a revoking pass have drained: it is FREE, and its REVOKE_PASS is answered (R254, R255). -/
def execPassDrained (idx : Nat) (s : State) : Host.Outcome State Fault Refusal := done (tryDrain idx s)

def PassState.code' : PassState → Nat
  | .free => 0
  | .valid => 1
  | .revoking => 2

/-- A hall-pass entry (Table 8-8). -/
def passBytes (p : Pass) : List Byte :=
  [BitVec.ofNat 8 (PassState.code' p.pstate), BitVec.ofNat 8 p.gen, BitVec.ofNat 8 p.rights, BitVec.ofNat 8 p.part]
    ++ leBytes 4 p.bind ++ leBytes 8 p.base ++ leBytes 8 p.length ++ leBytes 2 p.tally ++ List.replicate 6 0

/-- Index, entry and INFLIGHT of each pass of the partition. -/
def execReadPasses (c : Call) (cursor : Nat) (s : State) : Host.Outcome State Fault Refusal :=
  .next (serveRead c 0x4022 cursor (fun r t =>
    (t.qe.passes.filter (fun e => e.2.part == r.part)).map (fun (e : Nat × Pass) =>
      e.1 :: words8 (passBytes e.2) ++ [passInflight e.1 t])) s)

/-! ## Tally counters (R263, R265) -/

def execTallySet (c : Call) (handle : Nat) (value : DWord) (s : State) : Host.Outcome State Fault Refusal :=
  .next (serve c 0x4030 (fun r t =>
    if tallyOk r.part handle t then .ok (tallyPut r.part handle value t) Body.empty else .reject Config.badValue) s)

def execTallyRead (c : Call) (handle count cursor : Nat) (s : State) : Host.Outcome State Fault Refusal :=
  .next (serve c 0x4031 (fun r t =>
    if count = 0 ∨ !tallyOk r.part (handle + count - 1) t then .reject Config.badValue
    else page c 0x4031 cursor ((List.range count).map (fun i => [(tallyGet r.part (handle + i) t).toNat])) t) s)

/-- The counter of a WAIT satisfies its condition: the WAIT completes and its SQ goes on (R265). -/
def releaseWait (n : Nat) (s : State) : State :=
  match qp? n s with
  | none => s
  | some q =>
    match q.ops.find? (fun o => o.remote.isNone && o.st == .waiting) with
    | none => s
    | some o =>
      if tallyPassed q.part (o.ent.opa.toNat % 65536) (o.ent.opa.toNat / 2 ^ 32) s then
        sqKick n (setOp n o.idx (.done 0) (bump (bkQueue q.part) 7 1 s))
      else s

def execWaitRelease (qpn : Nat) (s : State) : Host.Outcome State Fault Refusal := done (releaseWait qpn s)

/-! ## Grants -/

/-- Counters that the tiles of a partition's group name in their descriptors. -/
def tileTallies (part : Nat) (s : State) : List Nat :=
  (((group? part s).map (fun g => tkeys g.slots)).getD []).flatMap (fun slot =>
    (List.range 8).flatMap (fun rel => (tileAt part slot rel s).dma.map (fun (e : Nat × TileDma) => e.2.tally)))

/-- Counters that the queue engine's objects of a partition name: passes, entries, completions to be written. -/
def queueTallies (part : Nat) (s : State) : List Nat :=
  (s.qe.passes.filter (fun e => e.2.part == part && e.2.pstate != .free)).map (fun e => e.2.tally) ++
  (s.qe.qps.filter (fun e => e.2.part == part)).flatMap (fun e => e.2.ops.flatMap (fun o =>
    if o.ent.op = 9 then [o.ent.opa.toNat % 65536, o.ent.tally] else [o.ent.tally])) ++
  s.qe.cqs.flatMap (fun e => (e.2.held.filter (fun h => h.tpart == part)).map Cqe.tally)

/-- Counters that something of a partition names: besides those, jobs, descriptors of tiles and of the cipher ring, storage
commands, checkpoint jobs and collectives. -/
def talliesNamed (part : Nat) (s : State) : List Nat :=
  queueTallies part s ++ tileTallies part s ++
  (s.ti.jobs.filter (fun e => e.2.part == part)).flatMap (fun e => e.2.req.tally :: (e.2.req.arm.map Prod.fst).toList) ++
  (s.sb.tasks.filter (fun e => taskPart e.1 s == part)).map (fun e => e.2.cmd.tally) ++
  (s.ck.jobs.filter (fun e => e.2.part == part)).flatMap (fun e =>
    e.2.tally :: (e.2.save.map (fun d => if bitOf 0 d.flags then [d.capTally, d.armTally] else [d.capTally])).getD []) ++
  (((s.sec.rings.filter (fun e => e.1 == part)).flatMap (fun e => e.2.descs.map (fun d => d.desc.tally)))) ++
  (s.cu.colls.filter (fun e => (cgroup? e.2.group s).any (fun g => g.part == part))).map (fun e => e.2.desc.progress)

/-- One more than the highest handle of a partition that something names. -/
def talliesUsed (part : Nat) (s : State) : Nat := (talliesNamed part s).foldl (fun a h => if h = 0xFFFF then a else max a (h + 1)) 0

/-- Indices of a partition's pool beyond its grant go back to the device, the longest free first. -/
def trimPasses (part : Nat) (s : State) : State :=
  let owned := s.qe.passes.countP (fun e => e.2.part == part)
  let beyond := owned - ((part? part s).map Part.passes).getD 0
  let free := tgetD s.qe.freed part []
  let gone := free.take beyond
  modQe (fun q => { q with
    freed := tset (tset q.freed part (free.drop beyond)) unowned (tgetD q.freed unowned [] ++ gone),
    passes := q.passes.map (fun (e : Nat × Pass) => if gone.contains e.1 then (e.1, { e.2 with part := unowned }) else e) }) s

/-- Changes a partition's grants of queue objects: what it gains comes from what partition 0 does not use (R29, R447). -/
def setGrants (p qps cqs passes tallies : Nat) (g z : Part) (s : State) : Ans :=
  if p = 0 then
    if qps > g.qps ∨ cqs > g.cqs ∨ passes > g.passes ∨ tallies > g.tallies then .reject Config.noResource
    else if qps = g.qps ∧ cqs = g.cqs ∧ passes = g.passes ∧ tallies = g.tallies then .ok s Body.empty
    else .reject Config.badValue
  else if qps < qpsOf p s ∨ cqs < cqsOf p s ∨ passes < passesOf p s ∨ tallies < talliesUsed p s then .reject Config.wrongState
  else if qps > g.qps + (z.qps - qpsOf 0 s) ∨ cqs > g.cqs + (z.cqs - cqsOf 0 s) ∨ passes > g.passes + (z.passes - passesOf 0 s) ∨
      tallies > g.tallies + (z.tallies - talliesUsed 0 s) then .reject Config.noResource
  else
    let s1 := modPart 0 (fun z => { z with
      qps := z.qps + g.qps - qps, cqs := z.cqs + g.cqs - cqs, passes := z.passes + g.passes - passes,
      tallies := z.tallies + g.tallies - tallies }) s
    let s2 := modPart p (fun g => { g with qps := qps, cqs := cqs, passes := passes, tallies := tallies }) s1
    .ok (trimPasses 0 (trimPasses p s2)) Body.empty

def execSetQueueGrant (c : Call) (qps cqs passes tallies : Nat) (s : State) : Host.Outcome State Fault Refusal :=
  .next (serve c 0x4850 (fun r t =>
    match part? r.part t, part? 0 t with
    | some g, some z => setGrants r.part qps cqs passes tallies g z t
    | _, _ => .reject Config.wrongState) s)

end Sys2Proof.Machine
end

