-- ==== Sys2Proof/Machine/StorageCmds.lean ====
section
/-! DEFINITION. Commands and events of the block storage function (12). -/

namespace Sys2Proof.Machine

open Sys2Proof

/-! ## Readbacks (R363, R369) -/

def connRow (n : Nat) (c : Conn) : List Nat :=
  [0, n, c.part, c.addr.toNat % 2 ^ 64, c.addr.toNat / 2 ^ 64, c.typ, c.depth, c.online.toNat, c.released.toNat, c.admin] ++ c.io

/-- A namespace with its state, cache and those of its attachments that a predicate shows. -/
def nsRow (h : Nat) (n : Ns) (show' : Nat → Bool) (s : State) : List Nat :=
  [1, h, n.conn, n.nsid, n.bs, n.blocks, n.nonatomic.toNat, ((conn? n.conn s).any Conn.online).toNat, (n.cache.map Prod.fst).getD 0,
   (n.cache.map Prod.snd).getD 0, n.lines.length] ++ n.attached.filter show'

/-- A function's power settings, with the advertised exit latencies in µs (Table 12-5). -/
def powerRow (f : Nat) (s : State) : List Nat :=
  let x := sbFunc f s
  [4, f, x.frozen.toNat, x.errSeq, x.sps, x.deepest] ++ x.idleUs ++ [0, 1, 20, 5000]

def slotRow (k : Nat) (r : SlotRegs) (s : State) : List Nat :=
  let live := match (task? k s).map Task.phase with
    | none => 0
    | some .queued => 1
    | some _ => 2
  [5, taskFunc k, taskSlot k, r.state, live, r.code, r.nvstat, r.bytes, r.errSeq]

/-- Connections, namespaces, mode with weights, class limits, functions, slots. A virtual function sees its own function. -/
def execReadStorage (c : Call) (cursor : Nat) (s : State) : Host.Outcome State Fault Refusal :=
  .next (serveRead c 0x6000 cursor (fun _ t =>
    let mine := fun (f : Nat) => c.func == 0 || f == c.func
    (if c.func = 0 then t.sb.conns.map (fun (e : Nat × Conn) => connRow e.1 e.2) else []) ++
    (t.sb.nss.filter (fun (e : Nat × Ns) => c.func == 0 || e.2.attached.contains c.func)).map (fun (e : Nat × Ns) => nsRow e.1 e.2 mine t) ++
    [[2, t.sb.serialMode.toNat, t.sb.serial.isSome.toNat] ++ t.sb.weights] ++
    (t.parts.filter (fun (e : Nat × Part) => sees c e.1 t)).map (fun (e : Nat × Part) => [3, e.1, e.2.classLimit]) ++
    ((tkeys t.funcs).filter mine).map (fun f => powerRow f t) ++
    (t.sb.slots.filter (fun (e : Nat × SlotRegs) => mine (taskFunc e.1))).map (fun (e : Nat × SlotRegs) => slotRow e.1 e.2 t)) s)

/-- An error log entry as Table 12-3 lays it out. -/
def errBytes (e : ErrEnt) : List Byte :=
  leBytes 4 e.seq ++ [BitVec.ofNat 8 e.slot, BitVec.ofNat 8 e.opc, BitVec.ofNat 8 e.code, 0] ++ leBytes 2 e.ns ++ leBytes 2 e.nvstat
    ++ leBytes 4 e.nblk ++ leBytes 8 e.lba ++ leBytes 8 e.time

/-- The log page: its header, then the entries, newest first. -/
def execReadStorageErrlog (c : Call) (cursor : Nat) (s : State) : Host.Outcome State Fault Refusal :=
  .next (serveRead c 0x6001 cursor (fun _ t =>
    let x := sbFunc c.func t
    words8 (leBytes 4 x.errSeq ++ leBytes 4 x.log.length ++ leBytes 4 x.lost ++ leBytes 4 0) ::
      x.log.reverse.map (fun e => words8 (errBytes e))) s)

/-! ## Connections (R351 to R353) -/

/-- A QP of a connection comes up: a new incarnation in RTS towards its peer. -/
def raiseQp (cc : CcParams) (p : ConnSet) (peer : Nat × Nat) (bound : Nat) (q : Qp) : Qp :=
  let g := enterInit { q with
    typ := p.type, txq := p.txq, peer := peer.1, peerGen := peer.2, peerAddr := p.addr, mtu := 3, maxRd := 64, bound := bound }
  let h := enterRtr cc { g with
    x := { g.x with nPaths := 1, portMask := p.portMask, sportBase := 0, retryCnt := 7, rnrRetry := 7 } }
  { h with qstate := .rts }

/-- `bound` of a QP of a connection; collective groups use the numbers below. -/
def connBound (n : Nat) : Nat := 2 ^ 20 + n + 1

/-- Creates a QP for each peer in the partition's grant: none where the grant or the device is exhausted. -/
def createQps (part bound : Nat) (p : ConnSet) : List (Nat × Nat) → State → Option (List Nat × State)
  | [], s => some ([], s)
  | peer :: rest, s =>
    match newQp part s with
    | none => none
    | some (n, t) =>
      match createQps part bound p rest (modQp n (raiseQp s.qe.cc p peer bound) t) with
      | some (ns, u) => some (n :: ns, u)
      | none => none

def connSetOk (part : Nat) (p : ConnSet) (s : State) : Bool :=
  decide (p.type = 0 ∨ (p.type = 1 ∧ disabled 5 s = false)) && decide (1 ≤ p.subnqn.length ∧ p.subnqn.length ≤ 223) &&
  decide (1 ≤ p.hostnqn.length ∧ p.hostnqn.length ≤ 223) && p.peers.length == 5 && txqServes part p.txq s &&
  decide (1 ≤ p.portMask ∧ p.portMask < 256)

/-- `mqes`: the target accepts Connect and states its largest queue; none where it refuses or does not answer within 1 s. -/
def execStorageConnect (c : Call) (p : ConnSet) (mqes : Option Nat) (s : State) : Host.Outcome State Fault Refusal :=
  done (serve c 0x6010 (fun r t =>
    if !connSetOk r.part p t then .reject Config.badValue
    else match lowestFree (tkeys t.sb.conns) 0 256 with
      | none => .reject Config.noResource
      | some n =>
        match createQps r.part (connBound n) p p.peers t, mqes with
        | none, _ => .reject Config.noResource
        | some _, none => .reject Config.targetUnreachable
        | some (qs, u), some m =>
          let k : Conn := { part := r.part, addr := p.addr, typ := p.type, subnqn := p.subnqn, hostnqn := p.hostnqn, admin := qs.headD 0,
                            io := qs.drop 1, depth := min 128 (m + 1), online := true, released := false, credits := t.sb.weights,
                            reached := 0, last := [], nextCid := 0, out := [] }
          .ok (modSb (fun b => { b with conns := tset b.conns n k }) u) (Body.nums [n])) s)

/-- A command of the connection is under way. -/
def connQps (c : Conn) : List Nat := c.admin :: c.io

def execStorageDisconnect (c : Call) (conn : Nat) (s : State) : Host.Outcome State Fault Refusal :=
  done (serve c 0x6011 (fun _ t =>
    match conn? conn t with
    | none => .reject Config.badValue
    | some k =>
      if t.sb.nss.any (fun e => e.2.conn == conn) then .reject Config.wrongState
      else
        let u := modSb (fun b => { b with conns := tdel b.conns conn }) t
        .ok ((connQps k).foldl (fun x q => dropQp q (quietQp q x)) u) Body.empty) s)

/-- Keep Alive of a connection: a failure takes it down. -/
def execKeepAlive (conn : Nat) (ok : Bool) (s : State) : Host.Outcome State Fault Refusal :=
  done (match conn? conn s with
    | some c => if c.online ∧ !ok then loseConn conn s else s
    | none => s)

/-- Firmware's attempt to connect again, once a second: its queue pairs come up as new incarnations. -/
def execReconnectAttempt (conn : Nat) (ok : Bool) (peers : List (Nat × Nat)) (s : State) : Host.Outcome State Fault Refusal :=
  done (match conn? conn s with
    | none => s
    | some c =>
      if c.online || !ok || peers.length != 5 then s
      else
        let up := fun (t : State) (e : Nat × (Nat × Nat)) =>
          modQp e.1 (fun q => raiseQp t.qe.cc { addr := c.addr, type := c.typ, subnqn := c.subnqn, hostnqn := c.hostnqn, peers := peers,
                                                txq := q.txq, portMask := q.x.portMask } e.2 (connBound conn) q) (quietQp e.1 t)
        modConn conn (fun c => { c with online := true, released := false, out := [] }) (((connQps c).zip peers).foldl up s))

/-! ## Namespaces (R352, R354, R361) -/

def nssOf (part : Nat) (s : State) : Nat := s.sb.nss.countP (fun e => (conn? e.2.conn s).any (fun c => c.part == part))

/-- Its power-fail write unit covers 256 KiB, without boundary (R361). -/
def atomicOk (t : TargetNs) : Bool := decide (t.atomicBytes ≥ 262144) && !t.atomicBoundary

/-- `target`: what Identify returns; none where the connection has no such namespace. -/
def execNsCreate (c : Call) (conn nsid : Nat) (nonatomic : Bool) (target : Option TargetNs) (s : State) :
    Host.Outcome State Fault Refusal :=
  .next (serve c 0x6020 (fun _ t =>
    match conn? conn t, target with
    | none, _ => .reject Config.badValue
    | some k, target =>
      if !k.online then .reject Config.targetUnreachable
      else match target with
        | none => .reject Config.badValue
        | some x =>
          if x.blockSize ≠ 512 ∧ x.blockSize ≠ 4096 then .reject Config.badValue
          else if !atomicOk x && !nonatomic then .reject Config.atomicUnsupported
          else if nssOf k.part t ≥ ((part? k.part t).map Part.namespaces).getD 0 then .reject Config.noResource
          else match lowestFree (tkeys t.sb.nss) 1 4095 with
            | none => .reject Config.noResource
            | some h =>
              let n : Ns := { conn := conn, nsid := nsid, bs := x.blockSize, blocks := x.blocks, nonatomic := !atomicOk x, attached := [],
                              cache := none, lines := [] }
              .ok (modSb (fun b => { b with nss := tset b.nss h n }) t) (Body.nums [h])) s)

def execNsDestroy (c : Call) (handle : Nat) (s : State) : Host.Outcome State Fault Refusal :=
  .next (serve c 0x6021 (fun _ t =>
    match ns? handle t with
    | none => .reject Config.badValue
    | some n =>
      if !n.attached.isEmpty then .reject Config.wrongState
      else .ok (modSb (fun b => { b with nss := tdel b.nss handle }) t) Body.empty) s)

/-- The partition that owns a namespace. -/
def nsPart (n : Ns) (s : State) : Option Nat := (conn? n.conn s).map Conn.part

def execNsAttach (c : Call) (handle func : Nat) (s : State) : Host.Outcome State Fault Refusal :=
  .next (serve c 0x6022 (fun _ t =>
    match ns? handle t with
    | none => .reject Config.badValue
    | some n =>
      if func ≥ 256 ∨ nsPart n t ≠ some (funcPart func t) then .reject Config.badValue
      else if n.attached.contains func then .ok t Body.empty
      else if t.sb.nss.countP (fun e => e.2.attached.contains func) ≥ 256 then .reject Config.noResource
      else .ok (modNs handle (fun n => { n with attached := n.attached ++ [func] }) t) Body.empty) s)

def execNsDetach (c : Call) (handle func : Nat) (s : State) : Host.Outcome State Fault Refusal :=
  .next (serve c 0x6022 (fun _ t =>
    match ns? handle t with
    | none => .reject Config.badValue
    | some n =>
      if !n.attached.contains func then .reject Config.badValue
      else if t.sb.tasks.any (fun e => decide (e.1 ≤ serialKey) && taskFunc e.1 == func && e.2.cmd.ns == handle) then .reject Config.busy
      else .ok (modNs handle (fun n => { n with attached := n.attached.filter (· != func) }) t) Body.empty) s)

/-- A cache's range: whole 2 MiB units of an allotment of the owner in the CXL tier. -/
def cacheOk (part base size : Nat) (s : State) : Bool :=
  decide (2 ^ 21 ≤ size ∧ size ≤ 2 ^ 36) && size % 2 ^ 21 == 0 && base % 65536 == 0 && allotted part .cxl base size s

def execNsSetCache (c : Call) (handle base size : Nat) (s : State) : Host.Outcome State Fault Refusal :=
  .next (serve c 0x6023 (fun _ t =>
    match ns? handle t with
    | none => .reject Config.badValue
    | some n =>
      if size ≠ 0 ∧ !cacheOk ((nsPart n t).getD 64) base size t then .reject Config.badValue
      else if t.sb.tasks.any (fun e => e.2.cmd.ns == handle && e.2.phase != .queued) then .reject Config.busy
      else .ok (modNs handle (fun n => { n with cache := if size = 0 then none else some (base, size), lines := [] }) t) Body.empty) s)

/-! ## Settings (R360, R364, R365, R368) -/

/-- QUEUED commands of a function in the order of their GO writes. -/
def queuedOf (func : Nat) (s : State) : List Nat :=
  let l := s.sb.tasks.filter (fun e => decide (e.1 < serialKey) && taskFunc e.1 == func && e.2.phase == .queued)
  (l.foldr (fun (e : Nat × Task) (a : List (Nat × Task)) =>
    a.takeWhile (fun x => decide (x.2.order < e.2.order)) ++ e :: a.dropWhile (fun x => decide (x.2.order < e.2.order))) []).map Prod.fst

def execStorageRestart (c : Call) (func errSeq : Nat) (flush : Bool) (s : State) : Host.Outcome State Fault Refusal :=
  .next (serve c 0x6030 (fun _ t =>
    if func ≥ 256 then .reject Config.badValue
    else if c.func ≠ 0 ∧ func ≠ c.func then .reject Config.notPermitted
    else
      let x := sbFunc func t
      if !x.frozen || x.errSeq != errSeq then .reject Config.wrongState
      else
        let t1 := modSbFunc func (fun f => { f with readSeq := errSeq }) t
        let t2 := if flush then (queuedOf func t1).foldl (fun u k => completeTask k Config.ccFlushed 0 0 false u) t1 else t1
        .ok (modSbFunc func (fun f => { f with frozen := false }) t2) Body.empty) s)

/-- Idle times in µs within the ranges of Table 12-5, each at least the one before it. -/
def idleOk : List Nat → Bool
  | [a, b, d] => decide (10 ≤ a ∧ a ≤ 1000000 ∧ 1000 ≤ b ∧ b ≤ 60000000 ∧ 100000 ≤ d ∧ d ≤ 3600000000 ∧ a ≤ b ∧ b ≤ d)
  | _ => false

def execSetStoragePower (c : Call) (func : Nat) (idleUs : List Nat) (deepest : Nat) (s : State) : Host.Outcome State Fault Refusal :=
  .next (serve c 0x6031 (fun _ t =>
    if func ≥ 256 ∨ deepest > 3 ∨ !idleOk idleUs then .reject Config.badValue
    else if c.func ≠ 0 ∧ func ≠ c.func then .reject Config.notPermitted
    else .ok (modSbFunc func (fun f => { f with idleUs := idleUs, deepest := deepest }) t) Body.empty) s)

def execSetClassLimit (c : Call) (cls : Nat) (s : State) : Host.Outcome State Fault Refusal :=
  .next (serve c 0x6032 (fun r t =>
    if cls > 3 then .reject Config.badValue else .ok (modPart r.part (fun p => { p with classLimit := cls }) t) Body.empty) s)

def execSetStorageArb (c : Call) (wh wm wl : Nat) (s : State) : Host.Outcome State Fault Refusal :=
  .next (serve c 0x6850 (fun _ t =>
    if [wh, wm, wl].all (fun w => decide (1 ≤ w ∧ w ≤ 255)) then .ok (modSb (fun b => { b with weights := [wh, wm, wl] }) t) Body.empty
    else .reject Config.badValue) s)

def execSetStorageMode (c : Call) (serial : Bool) (s : State) : Host.Outcome State Fault Refusal :=
  .next (serve c 0x6851 (fun _ t =>
    if t.sb.serial.isSome || t.sb.tasks.any (fun e => decide (e.1 ≤ serialKey)) then .reject Config.busy
    else .ok (modSb (fun b => { b with serialMode := serial }) t) Body.empty) s)

/-! ## Picks and responses (R357, R358, R360) -/

/-- A connection picks its next command. Numbers from 256 on stand for the commands whose namespace is on no connection: the next
of them ends at its checks. -/
def execStoragePick (conn : Nat) (s : State) : Host.Outcome State Fault Refusal :=
  done (if conn ≥ 256 then
      match s.sb.tasks.find? (fun e => (taskConn e.2.cmd s).isNone && pickable e.1 e.2 s) with
      | some e => startTask e.1 s
      | none => s
    else match conn? conn s with
      | none => s
      | some c =>
        match pick conn c s with
        | some (k, d) => startTask k (modConn conn (fun _ => { d with released := d.released && decide (k < serialKey) }) s)
        | none => modConn conn (fun c => { c with credits := s.sb.weights, reached := 0 }) s)

/-- The status of a response: code type and code (Table 12-1 NVSTAT). -/
def nvStatus (bs : List Byte) : Nat := u bs 14 2 / 2 % 2048

/-- A response taken from the messages received over a connection's queue pairs. -/
def takeResponse (i : Nat) (s : State) : Option (Nat × List Byte × State) :=
  match s.qe.collIn[i]? with
  | none => none
  | some (n, bs) =>
    let b := ((qp? n s).map Qp.bound).getD 0
    if b ≤ 2 ^ 20 then none
    else some (b - 2 ^ 20 - 1, bs, { s with qe := { s.qe with collIn := s.qe.collIn.eraseIdx i } })

/-- A target's response takes effect. `data` is what the target wrote for a command whose buffer is the SW4's own. -/
def execTargetResponse (i : Nat) (data : List Byte) (s : State) : Host.Outcome State Fault Refusal :=
  done (match takeResponse i s with
    | none => s
    | some (n, bs, t) =>
      match conn? n t with
      | none => t
      | some c =>
        match tget c.out (u bs 12 2) with
        | none => t
        | some e =>
          let t1 := modConn n (fun c => { c with out := tdel c.out (u bs 12 2) }) t
          let bsize := fun (k : Nat) => (((task? k t1).bind (fun x => ns? x.cmd.ns t1)).map Ns.bs).getD 0
          let t2 := match e.owner with
            | .task f slot => taskResponse (taskKey f slot) (nvStatus bs) e.blocks (bsize (taskKey f slot)) data t1
            | .fill f slot line => fillResponse (taskKey f slot) line (nvStatus bs) data t1
            | .serial => answerXferRdy (taskResponse serialKey (nvStatus bs) e.blocks (bsize serialKey) data t1)
            | .ckpt j => taskResponse (ckKey j) (nvStatus bs) e.blocks (bsize (ckKey j)) data t1
          kickConn n t2)

/-! ## Power states (R368) -/

/-- Functions that have a namespace of a connection. -/
def connFuncs (conn : Nat) (s : State) : List Nat := (s.sb.nss.filter (fun e => e.2.conn == conn)).flatMap (fun e => e.2.attached)

/-- Connections whose every function is in SPS3 release their I/O queues. -/
def releaseConns (s : State) : State :=
  modSb (fun b => { b with conns := b.conns.map (fun (e : Nat × Conn) =>
    let fs := connFuncs e.1 s
    (e.1, { e.2 with released := e.2.released || (!fs.isEmpty && fs.all (fun f => (sbFunc f s).sps == 3) && e.2.out.isEmpty) })) }) s

/-- A function without a command drops to the next state that its settings allow. -/
def execSpsIdle (func : Nat) (s : State) : Host.Outcome State Fault Refusal :=
  let x := sbFunc func s
  .next (if liveTasks func s ≠ 0 ∨ x.waking = true ∨ x.sps ≥ x.deepest then s
    else releaseConns (modSbFunc func (fun f => { f with sps := f.sps + 1 }) s))

/-- A woken function is back in SPS0. -/
def execSpsExitDone (func : Nat) (late : Bool) (s : State) : Host.Outcome State Fault Refusal :=
  let x := sbFunc func s
  .next (if !x.waking then s
    else
      let s1 := bump (bkStorage func) 6 1 (modSbFunc func (fun f => { f with sps := 0, waking := false }) s)
      let s2 := modSb (fun b => { b with conns := b.conns.map (fun (e : Nat × Conn) =>
        (e.1, { e.2 with released := e.2.released && !(connFuncs e.1 s).contains func })) }) s1
      if late ∧ x.sps = 3 then bump (bkStorage func) 7 1 s2 else s2)

/-! ## Serial mode (R365 to R367) -/

/-- Takes a packet of one of the types in SERIAL mode: a packet that does not check is answered with NAK, others are discarded. -/
def sbspTake (type : Nat) (bs : List Byte) (f : State → State) (s : State) : State :=
  if !s.sb.serialMode then s else if !sbspOk bs then sbspNakFor bs s else if sbspType bs ≠ type then s else f s

/-- Runs a serial command with the data it has. -/
def queueSerial (cmd : TaskCmd) (data : List Byte) (s : State) : State :=
  modSb (fun b => { b with
    tasks := tset b.tasks serialKey { Task.fresh cmd b.order with data := data }
    order := b.order + 1
    serial := b.serial.map (fun r => { r with atTarget := true }) }) s

/-- Ends the serial command with a code. -/
def failSerial (code : Nat) (s : State) : State :=
  match s.sb.serial with
  | none => s
  | some r => endSerial code (if (task? serialKey s).isSome then s else queueSerial r.cmd [] s)

/-- Outcome of the checks of a serial command. -/
def serialBad (body : List Byte) (s : State) : Nat :=
  let c := TaskCmd.parse body
  if body.length ≠ 48 ∨ c.tally ≠ 0xFFFF ∨ c.vec ≠ 0 ∨ c.addr ≠ 0 ∨ disabled 2 s = true then Config.ccProtection else taskBad serialKey c s

def execSbspCmd (bytes : List Byte) (s : State) : Host.Outcome State Fault Refusal :=
  done (sbspTake 1 bytes (fun t =>
    let tag := sbspTag bytes
    if t.sb.serial.isSome then emit (.sbsp (sbspPacket 4 tag (respPayload Config.ccFlushed 0 0 0))) t
    else
      let body := sbspBody bytes
      let c := TaskCmd.parse body
      let r : Serial := { tag := tag, cmd := c, data := [], grant := none, ready := false, sent := 0, atTarget := false, cid := 0 }
      let t1 := modSb (fun b => { b with serial := some r }) t
      let bad := serialBad body t
      if bad ≠ 0 then failSerial bad t1 else if c.opc = 2 then grantSerial t1 else queueSerial c [] t1) s)

/-- The host grants a range of a READ. -/
def execXferRdy (bytes : List Byte) (s : State) : Host.Outcome State Fault Refusal :=
  done (sbspTake 2 bytes (fun t =>
    match t.sb.serial with
    | none => t
    | some r =>
      if r.tag ≠ sbspTag bytes then t
      else
        let o := leNat ((sbspBody bytes).take 8)
        let n := leNat (((sbspBody bytes).drop 8).take 4)
        if r.cmd.opc ≠ 1 ∨ (sbspBody bytes).length ≠ 12 ∨ n < 1 ∨ n > 65536 ∨ o + n > serialBytes r.cmd t then failSerial Config.ccLength t
        else answerXferRdy (modSb (fun b => { b with serial := some { r with grant := some (o, n) } }) t)) s)

/-- Write data within the granted range. -/
def execSbspData (bytes : List Byte) (s : State) : Host.Outcome State Fault Refusal :=
  done (sbspTake 3 bytes (fun t =>
    match t.sb.serial with
    | none => t
    | some r =>
      if r.tag ≠ sbspTag bytes then t
      else
        let body := sbspBody bytes
        match (if r.cmd.opc = 2 then r.grant else none) with
        | none => failSerial Config.ccLength t
        | some (o, n) =>
          let data := r.data ++ body
          if data.length > o + n then failSerial Config.ccLength t
          else
            let t1 := modSb (fun b => { b with serial := some { r with data := data, grant := if data.length = o + n then none else r.grant } }) t
            if data.length < o + n then t1
            else if data.length ≥ serialBytes r.cmd t then queueSerial r.cmd data t1
            else grantSerial t1) s)

/-- The host did not get a packet whole: it is sent again. -/
def execSbspNak (bytes : List Byte) (s : State) : Host.Outcome State Fault Refusal :=
  .next (sbspTake 5 bytes (fun t =>
    if t.sb.lastSent.isEmpty || sbspTag t.sb.lastSent != sbspTag bytes then t else emit (.sbsp t.sb.lastSent) t) s)

/-- The SW4 has waited 100 ms for the host's data or grant. -/
def execSbspWaitTimeout (s : State) : Host.Outcome State Fault Refusal :=
  done (match s.sb.serial with
    | none => s
    | some r => if r.grant.isSome && r.cmd.opc == 2 || r.ready && r.grant.isNone then failSerial Config.ccFlushed s else s)

end Sys2Proof.Machine
end

