-- ==== Sys2Proof/Machine/CkptCmds.lean ====
section
/-! DEFINITION. Commands and events of the checkpoint engine (13). -/

namespace Sys2Proof.Machine

open Sys2Proof

/-! ## Set-ups (R372 to R374) -/

/-- A page of a partition is mapped to GDDR7. -/
def pageInGddr (part va : Nat) (s : State) : Bool × State :=
  match vaRead part va 1 s with
  | (some _, t) => ((tlbLookup part va t).any (fun l => l.tgt == 3), t)
  | (none, t) => (false, t)

/-- Every page of a range is. -/
def rangeInGddr (part : Nat) : Nat → Nat → Nat → State → Bool × State
  | 0, _, _, s => (true, s)
  | fuel + 1, va, n, s =>
    if n = 0 then (true, s)
    else
      let k := min n (65536 - va % 65536)
      match pageInGddr part va s with
      | (true, t) => rangeInGddr part fuel (va + k) (n - k) t
      | (false, t) => (false, t)

/-- Parity group size of a redundancy level. -/
def groupSize (level : Nat) : Nat := if level = 0 then 0 else if level = 1 then 8 else 4

/-- The duties of this device in a set-up's grouping: group, and whether as its mirror. -/
def dutiesOf (st : Setup) (own : Nat) : List (Nat × Bool) :=
  if st.g = 0 ∨ own = 0 then []
  else (List.range (groupCount st)).flatMap (fun j =>
    (if holderOf st j = own then [(j, false)] else []) ++ (if st.level = 3 ∧ mirrorOf st j = own then [(j, true)] else []))

/-- Reserves two halves for each duty: none where the reserve does not suffice. -/
def reserveDuties (i size : Nat) : List (Nat × Bool) → State → Option (List Duty × State)
  | [], s => some ([], s)
  | (g, m) :: rest, s =>
    match reserve (.parity (2 * g + m.toNat) i) (2 * size) s with
    | none => none
    | some (b, t) =>
      match reserveDuties i size rest t with
      | none => none
      | some (ds, u) => some ({ group := g, mirror := m, base := b, complete := none, building := none, from' := [] } :: ds, u)

/-- CKPT_SETUP with fields in range. -/
def makeSetup (part runId half0 half1 halfSize : Nat) (s : State) : Ans :=
  match lowestFree (tkeys s.ck.setups) 0 16 with
  | none => .reject Config.noResource
  | some i =>
    let level := levelNow s
    let st : Setup := { part := part, runId := runId, addrs := [half0, half1], halfSize := halfSize, g := groupSize level, n := s.jl.rc.size,
                        level := level, halves := [Half.fresh, Half.fresh], duties := [], lastStep := 0 }
    match reserveDuties i halfSize (dutiesOf st (ownAddr s)) s with
    | none => .reject Config.noResource
    | some (ds, t) =>
      .ok (modCk (fun c => { c with setups := tset c.setups i { st with duties := ds } }) t) (Body.nums [i, st.g, st.n, level])

def execCkptSetup (c : Call) (runId half0 half1 halfSize : Nat) (s : State) : Host.Outcome State Fault Refusal :=
  .next (serve c 0x7000 (fun r t =>
    if runId = 0 ∨ runId ≥ 2 ^ 64 ∨ t.ck.setups.any (fun e => e.2.runId == runId) = true ∨ halfSize % 65536 ≠ 0 ∨ halfSize = 0 ∨
        halfSize > 2 ^ 36 then .reject Config.badValue
    else
      let pages := halfSize / 65536 + 2
      match rangeInGddr r.part pages half0 halfSize t with
      | (false, _) => .reject Config.badValue
      | (true, t1) =>
        match rangeInGddr r.part pages half1 halfSize t1 with
        | (false, _) => .reject Config.badValue
        | (true, t2) => makeSetup r.part runId half0 half1 halfSize t2) s)

/-- The set-up a job command names, or the status that refuses it (R393). -/
def setupNamed (part runId : Nat) (s : State) : Except Nat (Nat × Setup) :=
  match setupOf runId s with
  | none => .error Config.badValue
  | some e => if e.2.part = part then .ok e else .error Config.notPermitted

def execCkptTeardown (c : Call) (runId : Nat) (s : State) : Host.Outcome State Fault Refusal :=
  .next (serve c 0x7001 (fun r t =>
    match setupNamed r.part runId t with
    | .error st => .reject st
    | .ok (i, _) =>
      if t.ck.jobs.any (fun e => e.2.setup == i) then .reject Config.wrongState
      else .ok (unreserve (fun x => match x with
        | .parity _ k => k == i
        | _ => false) (modCk (fun k => { k with setups := tdel k.setups i }) t)) Body.empty) s)

/-- Where each slab's share of checkpoint staging lies (Table 1-2 read in its order, as R78's window offsets bear out). -/
def stagingLo : Nat := 0x2880000
def stagingHi : Nat := 0x3880000

/-- The same range in each slab's share; a size of 0 takes the grant back. -/
def execSetStaging (c : Call) (base size : Nat) (s : State) : Host.Outcome State Fault Refusal :=
  .next (serve c 0x7021 (fun r t =>
    if size = 0 then .ok (modPart r.part (fun p => { p with staging := [] }) t) Body.empty
    else if base % 65536 ≠ 0 ∨ size % 65536 ≠ 0 ∨ base < stagingLo ∨ base + size > stagingHi then .reject Config.badValue
    else if t.parts.any (fun e => e.1 != r.part && e.2.staging.any (fun g => overlap base size g.2.1 g.2.2)) then .reject Config.noResource
    else .ok (modPart r.part (fun p => { p with staging := (List.range 4).map (fun k => (k, base, size)) }) t) Body.empty) s)

def execCkptSetTrust (c : Call) (digests : List (BitVec 256)) (s : State) : Host.Outcome State Fault Refusal :=
  .next (serve c 0x7022 (fun r t =>
    if digests.length > 64 then .reject Config.badValue else .ok (modPart r.part (fun p => { p with trust := digests }) t) Body.empty) s)

def execCkptSetRate (c : Call) (gb : Nat) (s : State) : Host.Outcome State Fault Refusal :=
  .next (serve c 0x7850 (fun _ t => if gb > 800 then .reject Config.badValue else .ok (modCk (fun k => { k with rateGb := gb }) t) Body.empty) s)

/-! ## Jobs (R378, R388, R392, R393) -/

def newJob (part setup : Nat) (kind : CkKind) (phase : CkPhase) (half wrid cq tally : Nat) : CkJob :=
  { part := part, setup := setup, kind := kind, phase := phase, half := half, save := none, restore := none, regions := [], extents := [],
    reads := [], tiles := [], writer := false, skipped := false, todo := [], busy := false, cur := none, written := [], records := [],
    cand := 0, man := none, data := [], shards := [], reclaim := [], source := 0, usedStep := 0, streams := [], bytes := 0, wrid := wrid,
    cq := cq, tally := tally }

/-- A counter that the partition holds, or none; a CQ of the partition, or none. -/
def tallyField (part h : Nat) (s : State) : Bool := h == 0xFFFF || tallyOk part h s
def cqField (part n : Nat) (s : State) : Bool := n == 0xFFFF || (cq? n s).any (fun q => q.part == part)

/-- A namespace of the partition. -/
def nsOwned (part : Nat) (e : Extent) (s : State) : Bool := (ns? e.ns s).any (fun n => nsPart n s == some part)

/-- A region of a partition's slot (KIND 1) names one that the partition holds. -/
def slotField (part : Nat) (r : CkRegion) (s : State) : Bool := r.kind != 1 || (decide (r.elem < 16) && (slotSt? part r.elem s).isSome)

/-- Bytes of the image that regions make. -/
def imageBytes (rs : List CkRegion) : Nat :=
  let l := layPieces 0 rs
  bodyBase rs.length (segCountOf l.2) + l.2

/-- Does a save descriptor keep to Table 13-2? -/
def saveFieldsOk (part i : Nat) (st : Setup) (d : SaveDesc) (s : State) : Bool :=
  let store := !bitOf 1 d.flags
  let writes := store && d.manAddr == ownAddr s
  !d.zeroSet && !(store && disabled 2 s) && decide (d.step > st.lastStep) && !s.ck.jobs.any (fun e => e.2.setup == i && e.2.save.any (fun x => decide (x.step ≥ d.step))) &&
  decide (1 ≤ d.nreg ∧ d.nreg ≤ 1024) && decide (1 ≤ d.next ∧ d.next ≤ 256) && decide (1 ≤ d.cls ∧ d.cls ≤ 3) &&
  d.repl.contains (ownAddr s) && (!writes || (d.nshards != 0 && !d.manZero && nsOwned part d.manExt s)) && tallyField part d.capTally s &&
  tallyField part d.doneTally s && cqField part d.cq s && (!bitOf 0 d.flags || tallyOk part d.armTally s)

/-- Extents read from a list: none where a zero field is set. -/
def parseExtents (bs : List Byte) : Option (List Extent) :=
  let es := (itemsOf 16 (bs.length / 16) bs).map Extent.parse
  if es.any (fun e => e.2) then none else some (es.map Prod.fst)

/-- Reads a save's region table and extent list: none where they break a rule. -/
def readSave (part : Nat) (st : Setup) (d : SaveDesc) (s : State) : Option (List CkRegion × List Extent) × State :=
  match vaRead part d.regions (144 * d.nreg) s with
  | (none, t) => (none, t)
  | (some rb, t) =>
    match vaRead part d.extents (16 * d.next) t with
    | (none, u) => (none, u)
    | (some eb, u) =>
      let rs := (itemsOf 144 d.nreg rb).map CkRegion.parse
      match parseExtents eb with
      | none => (none, u)
      | some es =>
        if rs.any (ckRegionBad true) || !rs.all (fun r => slotField part r u) || !es.all (fun e => nsOwned part e u) ||
            decide (imageBytes rs > st.halfSize) then (none, u)
        else (some (rs, es), u)

/-- Adds a job: its number. -/
def addJob (x : CkJob) (s : State) : Option (Nat × State) :=
  let j := freshKey s.ck.jobs
  if j ≥ 2047 then none else some (j, modCk (fun k => { k with jobs := tset k.jobs j x }) s)

/-- A save whose descriptor has been read. -/
def acceptSave (part : Nat) (bs : List Byte) (s : State) : Ans :=
  let d := SaveDesc.parse bs
  match setupOf d.runId s with
  | none => .reject Config.badValue
  | some (i, st) =>
    if st.part ≠ part ∨ !saveFieldsOk part i st d s then .reject Config.badValue
    else match readSave part st d s with
      | (none, _) => .reject Config.badValue
      | (some (rs, es), t) =>
        match freeHalf i st t with
        | none => .reject Config.busy
        | some h =>
          let x := { newJob part i .save .armed h d.wrid d.cq d.doneTally with save := some d, regions := rs, extents := es }
          match addJob x t with
          | none => .reject Config.noResource
          | some (j, u) => .ok (beginCk j u) (Body.nums [j])

def execCkptSave (c : Call) (addr : Nat) (s : State) : Host.Outcome State Fault Refusal :=
  done (serve c 0x7010 (fun r t =>
    match vaRead r.part addr 128 t with
    | (none, _) => .reject Config.badValue
    | (some bs, u) => acceptSave r.part bs u) s)

/-- Staging that a partition holds. -/
def stagingBytes (part : Nat) (s : State) : Nat := (((part? part s).map Part.staging).getD []).foldl (fun a g => a + g.2.2) 0

/-- Does a restore descriptor keep to R388? -/
def restoreFieldsOk (part : Nat) (d : RestoreDesc) (s : State) : Bool :=
  !d.zeroSet && !(bitOf 1 d.sources && disabled 2 s) && decide (1 ≤ d.ntargets ∧ d.ntargets ≤ 1024) && decide (d.nman ≤ 16) && decide (d.cls ≤ 3) && tallyField part d.tally s &&
  cqField part d.cq s

/-- A KIND 1 target restores only into a slot whose image has been loaded (R391). -/
def targetSlotOk (part : Nat) (r : CkRegion) (s : State) : Bool :=
  r.kind != 1 || (slotField part r s && (slotSt? part r.elem s).any (fun x => x.wstate == .resident || x.wstate == .saved))

/-- A restore whose descriptor has been read. -/
def acceptRestore (part : Nat) (bs : List Byte) (s : State) : Ans :=
  let d := RestoreDesc.parse bs
  match setupNamed part d.runId s with
  | .error st => .reject st
  | .ok (i, _) =>
    if !restoreFieldsOk part d s then .reject Config.badValue
    else if stagingBytes part s < 2 ^ 22 then .reject Config.noResource
    else match vaRead part d.targets (144 * d.ntargets) s with
      | (none, _) => .reject Config.badValue
      | (some rb, t) =>
        match vaRead part d.manifests (16 * d.nman) t with
        | (none, _) => .reject Config.badValue
        | (some mb, u) =>
          let rs := (itemsOf 144 d.ntargets rb).map CkRegion.parse
          match parseExtents mb with
          | none => .reject Config.badValue
          | some es =>
            if rs.any (ckRegionBad false) || !rs.all (fun r => targetSlotOk part r u) then .reject Config.badValue
            else match addJob { newJob part i .restore .armed 2 d.wrid d.cq d.tally with
                restore := some d, regions := rs, extents := es } u with
              | none => .reject Config.noResource
              | some (j, v) => .ok (beginCk j v) (Body.nums [j])

def execCkptRestore (c : Call) (addr : Nat) (s : State) : Host.Outcome State Fault Refusal :=
  done (serve c 0x7011 (fun r t =>
    match vaRead r.part addr 64 t with
    | (none, _) => .reject Config.badValue
    | (some bs, u) => acceptRestore r.part bs u) s)

/-- The streams of a rebuild. -/
def rebuildStreams (p : RebuildSet) : List Stream :=
  match p.copy with
  | some a => [{ addr := a, parity := false, got := 0, len := none }]
  | none => { addr := p.holder, parity := true, got := 0, len := none } :: p.members.map (fun a => { addr := a, parity := false, got := 0, len := none })


def execCkptRebuild (c : Call) (p : RebuildSet) (s : State) : Host.Outcome State Fault Refusal :=
  done (serve c 0x7012 (fun r t =>
    match setupNamed r.part p.runId t with
    | .error st => .reject st
    | .ok (i, st) =>
      let qs := rebuildStreams p
      let addrs := qs.map Stream.addr
      if addrs.any (fun a => a == 0 || decide (a > 65534)) || addrs.eraseDups.length != addrs.length || !tallyField r.part p.tally t ||
          !cqField r.part p.cq t || decide (p.step ≥ 2 ^ 64) then .reject Config.badValue
      else match freeHalf i st t with
        | none => .reject Config.busy
        | some h =>
          match addJob { newJob r.part i .rebuild .armed h p.wrid p.cq p.tally with usedStep := p.step, streams := qs } t with
          | none => .reject Config.noResource
          | some (j, u) => .ok (beginCk j u) (Body.nums [j])) s)

def execCkptCancel (c : Call) (job : Nat) (s : State) : Host.Outcome State Fault Refusal :=
  done (serve c 0x7013 (fun r t =>
    match ckJob? job t with
    | none => .reject Config.badValue
    | some x =>
      if x.part ≠ r.part then .reject Config.notPermitted
      else .ok (ckFail job Config.ccFlushed 11 (phaseNo x.phase) t) Body.empty) s)

/-! ## Readback -/

def HState.code' : HState → Nat
  | .empty => 0
  | .capturing => 1
  | .captured => 2
  | .sealed => 3
  | .failed => 4

def halfNums (h : Half) : List Nat := [h.hstate.code', h.prot.toNat, h.stored.toNat, h.step, h.imgLen]

/-- A duty: group, mirror, newest complete STEP and its half, STEP in building. -/
def dutyNums (d : Duty) : List Nat :=
  [d.group, d.mirror.toNat, d.base, d.complete.isSome.toNat, (d.complete.map Prod.fst).getD 0, (d.complete.map Prod.snd).getD 0,
   d.building.isSome.toNat, d.building.getD 0]

def CkKind.code' : CkKind → Nat
  | .save => 0
  | .restore => 1
  | .rebuild => 2

/-- A digest as four 64-bit numbers, most significant first. -/
def words256 (b : BitVec 256) : List Nat := (List.range 4).map (fun i => b.toNat / 2 ^ (64 * (3 - i)) % 2 ^ 64)

/-- Set-ups with grouping, halves and parity halves held; jobs with their phases; staging and trust lists; the rate cap. -/
def execCkptRead (c : Call) (cursor : Nat) (s : State) : Host.Outcome State Fault Refusal :=
  .next (serveRead c 0x7020 cursor (fun _ t =>
    (t.ck.setups.filter (fun (e : Nat × Setup) => sees c e.2.part t)).map (fun (e : Nat × Setup) =>
      let x := e.2
      [0, e.1, x.part, x.runId] ++ x.addrs ++ [x.halfSize, x.g, x.n, x.level, x.lastStep] ++ x.halves.flatMap halfNums ++ x.duties.flatMap dutyNums) ++
    (t.ck.jobs.filter (fun (e : Nat × CkJob) => sees c e.2.part t)).map (fun (e : Nat × CkJob) =>
      [1, e.1, e.2.part, e.2.setup, e.2.kind.code', phaseNo e.2.phase, (e.2.phase == .armed).toNat, e.2.half, e.2.bytes, e.2.records.length]) ++
    (t.parts.filter (fun (e : Nat × Part) => sees c e.1 t)).flatMap (fun (e : Nat × Part) =>
      ([2, e.1] ++ e.2.staging.flatMap (fun g => [g.1, g.2.1, g.2.2])) :: e.2.trust.map (fun d => [3, e.1] ++ words256 d)) ++
    [[4, t.ck.rateGb]]) s)

/-! ## Events of a save (R378, R381 to R387) -/

def execCkptArmedStart (job : Nat) (s : State) : Host.Outcome State Fault Refusal :=
  done (match ckJob? job s with
    | some _ => beginCk job s
    | none => s)

/-- The last region read of a capture has ended. -/
def execCaptureDone (job : Nat) (s : State) : Host.Outcome State Fault Refusal :=
  done (match ckJob? job s with
    | none => s
    | some x =>
      if x.phase ≠ .capture ∨ x.reads ≠ [] then s
      else
        let s1 := captureTiles job s
        match ckJob? job s1 with
        | none => s1
        | some y =>
          if y.tiles ≠ [] then s1
          else
            let s2 := modHalf y.setup y.half (fun h => { h with hstate := .captured }) (modJob job (fun x => { x with phase := .seal }) s1)
            tallyAdd y.part ((y.save.map SaveDesc.capTally).getD 0xFFFF) 1 s2)

/-- The image is digested and its header written (R381); records that wait may complete the step here. -/
def execSealDone (job : Nat) (s : State) : Host.Outcome State Fault Refusal :=
  done (match ckJob? job s with
    | some x => if x.phase = .seal then commitManifest job (sealHalf job s) else s
    | none => s)

/-- The last write and Flush of a drain have completed. -/
def execDrainDone (job : Nat) (s : State) : Host.Outcome State Fault Refusal :=
  done (match ckJob? job s with
    | some x => if x.phase = .drain ∧ x.todo.isEmpty = true ∧ x.busy = false then commitManifest job (drained job s) else s
    | none => s)

/-- The Flush after the manifest has completed: the step is committed. -/
def execManifestCommit (job : Nat) (s : State) : Host.Outcome State Fault Refusal :=
  done (match ckJob? job s with
    | none => s
    | some x =>
      if x.phase = .commit ∧ x.todo.isEmpty = true ∧ x.busy = false then
        let prot := ((setup? x.setup s).map (fun st => (half? st x.half).prot)).getD false
        ckComplete job x 0 0 (x.writer.toNat + 2 * prot.toNat + 4 + 8 * x.skipped.toNat) s
      else s)

/-- A job's time limit has passed (R387). -/
def execCkptJobTimeout (job : Nat) (s : State) : Host.Outcome State Fault Refusal :=
  done (match ckJob? job s with
    | none => s
    | some x =>
      if x.kind = .rebuild then s
      else if x.phase = .manifest then
        ckFail job Config.ccRemoteOp 3 ((x.save.map SaveDesc.nshards).getD 0 - x.records.length) s
      else ckFail job Config.ccFlushed 10 (min 4 (phaseNo x.phase)) s)

/-- A restore has placed its last target. -/
def execCkptRestoreDone (job : Nat) (s : State) : Host.Outcome State Fault Refusal :=
  done (match ckJob? job s with
    | none => s
    | some x => if x.phase = .place ∧ x.reads.isEmpty = true then ckComplete job x 0 0 0 (writeResult' x s) else s)

/-! ## Messages of peers (Table 13-4) -/

/-- Takes a checkpoint message of a KIND that a predicate names, from those that wait. -/
def ckTake (p : Nat → Bool) (i : Nat) (f : CkHead → List Byte → State → State) (s : State) : State :=
  match s.jl.arrived[i]? with
  | none => s
  | some m =>
    let h := CkHead.parse m.data
    if m.cls ≠ 2 ∨ !p h.kind then s
    else f h ((m.data.drop 32).take h.len) { s with jl := { s.jl with arrived := s.jl.arrived.eraseIdx i } }

/-- A contribution; a message with a reserved KIND is discarded. -/
def execParityMsg (i : Nat) (s : State) : Host.Outcome State Fault Refusal :=
  done (ckTake (fun k => k == 1 || k == 0 || decide (k > 7)) i (fun h d t => if h.kind = 1 then takeParity false h d t else t) s)

def execMirrorMsg (i : Nat) (s : State) : Host.Outcome State Fault Refusal := done (ckTake (· == 6) i (takeParity true) s)

def execParityAck (i : Nat) (s : State) : Host.Outcome State Fault Refusal := done (ckTake (· == 2) i (fun h _ t => takeParityAck h t) s)

/-- The save whose manifest this device writes for a STEP. -/
def manifestJob (h : CkHead) (s : State) : Option Nat :=
  (s.ck.jobs.find? (fun e => e.2.kind == .save && e.2.save.any (fun d => d.runId == h.runId && d.step == h.step && d.manAddr == ownAddr s))).map
    Prod.fst

/-- `miss`: the cores whose check mismatched while the security core signed; a second mismatch fails the signature (R398). -/
def execShardRecord (i : Nat) (miss : List Nat) (s : State) : Host.Outcome State Fault Refusal :=
  done (ckTake (· == 3) i (fun h d t =>
    let waits := fun (ph : CkPhase) (u : State) => ((manifestJob h u).bind (fun j => ckJob? j u)).any (fun x => x.phase == ph)
    let t1 := takeRecord h d t
    match manifestJob h t1 with
    | none => t1
    | some j =>
      if !(waits .manifest t && waits .commit t1) then t1
      else
        let cs := (miss.filter (fun k => decide (20 ≤ k ∧ k < 22))).take 2
        let t2 := cs.foldl (fun u k => coreMiss k u) t1
        if cs.length = 2 then ckFail j Config.ccRemoteOp 6 0 t2 else t2) s)

def execRebuildReq (i : Nat) (s : State) : Host.Outcome State Fault Refusal := done (ckTake (· == 4) i (fun h _ t => takeRebuildReq h t) s)

def execRebuildData (i : Nat) (s : State) : Host.Outcome State Fault Refusal := done (ckTake (· == 5) i takeRebuildData s)

/-- A source refuses: the rebuild ends (R392). -/
def execRefuseMsg (i : Nat) (s : State) : Host.Outcome State Fault Refusal :=
  done (ckTake (· == 7) i (fun h _ t =>
    match rebuildJob h t with
    | some (j, _) => ckFail j Config.ccFenced 9 h.src t
    | none => t) s)

end Sys2Proof.Machine
end

