-- ==== Sys2Proof/Machine/FwCmds.lean ====
section
/-! DEFINITION. The firmware, event and device opcodes (16, Table 16-11). -/

namespace Sys2Proof.Machine

open Sys2Proof

/-! ## Readbacks -/

def execReadDevice (c : Call) (cursor : Nat) (s : State) : Host.Outcome State Fault Refusal :=
  .next (serveRead c 0x1000 cursor (fun _ t =>
    [t.ep.vendorId, t.ep.deviceId, t.ep.revisionId, t.chip.serial.toNat, t.chip.lcount] :: (List.range 32).map (fun i => optByte i t) ::
    (List.range 19).map (fun p => [p, (proc? p t).pstate.code])) s)

/-- Committed settings of the units, staged ones and E (R473). -/
def execReadModes (c : Call) (cursor : Nat) (s : State) : Host.Outcome State Fault Refusal :=
  .next (serveRead c 0x1001 cursor (fun _ t =>
    [t.fw.epoch, t.pp.cur.version, (t.pp.staged.map RuleSet.version).getD 0, t.pp.refillQ] ::
    (t.fw.changes.map (fun g => [g.epoch, g.units] ++ (match g.kind with
      | .rules => []
      | .groupMode h f e => [h, f, e]
      | .refill q => [q]))) ++
    (t.cu.groups.map (fun e => e.1 :: e.2.modes.flatMap (fun m => [m.1, m.2.toNat])))) s)

/-- CODE and severity of a record. -/
def EvRec.code (r : EvRec) : Nat := u r.bytes 0 2
def EvRec.sev (r : EvRec) : Nat := u r.bytes 3 1 % 4

/-- The words of a record. -/
def recWords (r : EvRec) : List Nat := (itemsOf 8 (r.bytes.length / 8) r.bytes).map leNat

/-- Records from a position on: those that one response covers, filtered, with NEXT and LOST (R479). -/
def execReadEvents (c : Call) (frm sev lo hi : Nat) (s : State) : Host.Outcome State Fault Refusal :=
  .next (serve c 0xB000 (fun _ t =>
    if frm > t.ev.wpos ∨ sev > 3 ∨ lo > hi then .reject Config.badValue
    else
      let oldest := ((t.ev.recs.head?).map EvRec.pos).getD t.ev.wpos
      let from' := max frm oldest
      let seen := (t.ev.recs.filter (fun r => decide (from' ≤ r.pos))).take (Config.pieceRows t.draws + 1)
      let next := ((seen.getLast?).map (fun r => r.pos + r.bytes.length)).getD from'
      let got := seen.filter (fun r => decide (sev ≤ r.sev) && decide (lo ≤ r.code) && decide (r.code ≤ hi))
      .ok { t with draws := t.draws + 1 }
        { rows := [next, from' - frm] :: got.map (fun r => recWords r), next := none }) s)

def execReadEventLimits (c : Call) (cursor : Nat) (s : State) : Host.Outcome State Fault Refusal :=
  .next (serveRead c 0xB001 cursor (fun _ t =>
    (List.range 1024).map (fun k => [(evCode k t).rate, (evCode k t).burst, (evCode k t).suppressed])) s)

/-- Returns the slots of a flush sequence (R480). -/
def execReadFlashLog (c : Call) (seq : Nat) (s : State) : Host.Outcome State Fault Refusal :=
  .next (serve c 0xB002 (fun _ t =>
    .ok t { rows := (t.ev.slots.filter (fun f => f.seq == seq)).flatMap (fun f =>
      [f.slot, f.seq, f.cause, f.time, f.wpos] :: f.recs.map (fun r => recWords r)), next := none }) s)

def execEvtFlush (c : Call) (s : State) : Host.Outcome State Fault Refusal :=
  .next (serve c 0xB010 (fun _ t => .ok (startFlush 3 t) Body.empty) s)

def execEvtSetLimit (c : Call) (code rate burst : Nat) (s : State) : Host.Outcome State Fault Refusal :=
  .next (serve c 0xB850 (fun _ t =>
    if code > 1023 ∨ rate > 65535 ∨ burst < 1 ∨ burst > 1024 then .reject Config.badValue
    else
      let e := evCode code t
      .ok { t with ev := { t.ev with codes := tset t.ev.codes code { e with
        rate := rate, burst := burst, tokens := min e.tokens (burst * tokenUnit) } } } Body.empty) s)

def execReadFirmware (c : Call) (cursor : Nat) (s : State) : Host.Outcome State Fault Refusal :=
  .next (serveRead c 0xC000 cursor (fun _ t =>
    (List.range 19).map (fun p =>
      let x := proc? p t
      let prev := x.previous.getD FwImage.none
      let st := t.fw.staged
      [p, x.pstate.code, x.active.build, x.active.svn, prev.build, prev.svn, (st.map StagedImage.build).getD 0,
       (st.map StagedImage.svn).getD 0, x.act.code])) s)

/-! ## Crash dumps (R466) -/

/-- The words of a dump, one a row. -/
def dumpRows (p : Nat) (s : State) : List (List Nat) :=
  match (proc? p s).dump with
  | some d => (itemsOf 8 ((d.len + 7) / 8) (mrdN s.mem (dumpKey p) d.len)).map (fun w => [leNat w])
  | none => []

/-- A slot's dump has been read once its last piece is returned. -/
def execReadCrashdump (c : Call) (p cursor : Nat) (s : State) : Host.Outcome State Fault Refusal :=
  .next (serve c 0xC001 (fun _ t =>
    if p > 18 then .reject Config.badValue
    else match page c 0xC001 cursor (dumpRows p t) t with
      | .ok v b => .ok (if b.next = some 0 then modProc p (fun x => { x with dump := none }) v else v) b
      | a => a) s)

def execFwDumpClear (c : Call) (p : Nat) (s : State) : Host.Outcome State Fault Refusal :=
  .next (serve c 0xC014 (fun _ t =>
    if p > 18 then .reject Config.badValue
    else .ok (modProc p (fun x => { x with dump := none, dumpLost := false })
      { t with mem := clearRange t.mem (dumpKey p) (dumpSlot p) }) Body.empty) s)

/-! ## Updating (R467 to R472) -/

/-- Status of a rejected update image: ROLLBACK where only the SVN test fails (R419). -/
def imageStatus (fails : List Nat) : Option Nat := if fails.isEmpty then none else if fails = [4] then some 0x9002 else some 0x9001

/-- An activation is armed or deferred. -/
def activating (s : State) : Bool := s.fw.procs.any (fun e => e.2.act != .none)

/-- Reads, checks and copies an update image. A replaced staged image gives its place back first. -/
def stageImage (addr len : Nat) (t : State) : Ans :=
  match vaRead 0 addr (min len 64) t with
  | (none, _) => .reject Config.badValue
  | (some h, t1) =>
    let n := u h 24 4
    if n > len then .reject 0x9001
    else match vaRead 0 addr n t1 with
      | (none, _) => .reject Config.badValue
      | (some bs, t2) =>
        match imageStatus (imageFails (min len flashBytes) false bs t2) with
        | some st => .reject st
        | none =>
          match reserve .stagedImage n (unreserve (fun x => x == .stagedImage) t2) with
          | none => .reject Config.noResource
          | some (b, t3) =>
            let i := Image.parse bs
            let st : StagedImage := { build := i.build, svn := i.svn, comps := i.comps, addr := b, len := n }
            .ok (wrMem spGddr b bs { t3 with fw := { t3.fw with staged := some st } }) Body.empty

def execFwStage (c : Call) (addr len : Nat) (s : State) : Host.Outcome State Fault Refusal :=
  .next (serve c 0xC010 (fun _ t => if activating t then .reject Config.busy else stageImage addr len t) s)

/-- Writes the staged image to a flash device; the image is whole at once (R468, log 51). -/
def execFwFlash (c : Call) (img : Nat) (s : State) : Host.Outcome State Fault Refusal :=
  .next (serve c 0xC011 (fun _ t =>
    match t.fw.staged with
    | none => .reject Config.wrongState
    | some x =>
      if img > 1 ∨ !(List.range 6).all (fun k => x.comps.any (fun c => c.target == k)) then .reject Config.badValue
      else if !(flashFails (1 - img) t).isEmpty then .reject Config.wrongState
      else .ok { t with mem := copyRange (clearRange t.mem (mkey (spFlash img) 0) flashBytes) (mkey spGddr x.addr) (mkey (spFlash img) 0) x.len }
        Body.empty) s)

/-- Arms processors with the components of the staged image, or defers them. -/
def armProcs (x : StagedImage) (act : Activation) (targets : List Nat) (s : State) : State :=
  targets.foldl (fun t k => match x.comps.find? (fun c => c.target == k) with
    | some c => (procsOf k).foldl (fun v p => modProc p (fun y => { y with act := act, arming := some (fwImageOf x.build x.svn x.addr c) }) v) t
    | none => t) s

def execFwActivate (c : Call) (targets : List Nat) (s : State) : Host.Outcome State Fault Refusal :=
  .next (serve c 0xC012 (fun _ t =>
    match t.fw.staged with
    | none => .reject Config.wrongState
    | some x =>
      let ps := targets.flatMap procsOf
      if targets.isEmpty || targets.any (fun k => decide (k < 1 ∨ k > 4) || !x.comps.any (fun c => c.target == k)) then .reject Config.badValue
      else if ps.any (fun p => (proc? p t).act != .none || (proc? p t).pstate == .switching) then .reject Config.busy
      else if emergency t then .deferred (ps.foldl (fun v p => fwEvent 0x0304 1 p [0, 0, 0] v) (armProcs x .deferred targets t))
      else .ok (armProcs x .armed targets t) Body.empty) s)

def disarm (x : Proc) : Proc := { x with act := .none, arming := none }

def execFwCancel (c : Call) (s : State) : Host.Outcome State Fault Refusal :=
  .next (serve c 0xC013 (fun _ t =>
    if !activating t then .reject Config.wrongState
    else .ok { t with fw := { t.fw with procs := t.fw.procs.map (fun e => (e.1, disarm e.2)) } } Body.empty) s)

/-- Counts reads of `n` bytes of host memory under a function. -/
def countReads (func n : Nat) (s : State) : State :=
  bump (bkHost func) 1 n (bump (bkHost func) 0 ((n + mrrsBytes s - 1) / mrrsBytes s) s)

/-- In recovery: the image is read through the physical function, checked and started (R472). -/
def execFwRecoveryLoad (c : Call) (addr len : Nat) (s : State) : Host.Outcome State Fault Refusal :=
  .next (serve c 0xC015 (fun _ t =>
    if !t.chip.recovery then .reject Config.wrongState
    else if !canSend 0 t then .reject Config.badValue
    else
      let n := leNat (rdMem spHost (addr + 24) 4 t)
      let bs := rdMem spHost addr (if n ≤ len then n else min len 64) t
      match imageStatus (imageFails (min len flashBytes) true bs t) with
      | some st => .reject st
      | none =>
        .ok (loadImage (Image.parse bs) (mkey spHost addr)
          (countReads 0 n { t with chip := { t.chip with recovery := false, bootImage := some 2 } })) Body.empty) s)

end Sys2Proof.Machine
end

