-- ==== Sys2Proof/Machine/FwEvents.lean ====
section
/-! DEFINITION. Events of firmware processors, staged changes and the event recorder (16). -/

namespace Sys2Proof.Machine

open Sys2Proof

/-! ## Image switches (R469 to R471) -/

/-- A command runs that a processor serves. -/
def serving (p : Nat) (s : State) : Bool := s.mb.any (fun e => e.2.proc == p && (match e.2.phase with
  | .running _ => true
  | _ => false))

/-- A processor stands at its boundary (Table 16-3). -/
def atBoundary (p : Nat) (s : State) : Bool :=
  if p = 0 then !serving 0 s && s.chip.blockRsts.isEmpty
  else if p = 1 then true
  else if p = 2 then decide (runningCount s = 0) && s.fw.changes.isEmpty
  else !benchBusy (p - 3) s

def execFwSwitch (p : Nat) (s : State) : Host.Outcome State Fault Refusal := .next (if atBoundary p s then beginSwitch p s else s)

/-- The switch ends: the processor runs its new image, and what waited for it is served. -/
def execFwSwitchDone (p : Nat) (s : State) : Host.Outcome State Fault Refusal :=
  let x := proc? p s
  match x.target with
  | some t =>
    if x.pstate = .switching then
      let s1 := modProc p (fun x => { x with pstate := .running, previous := some x.active, active := t, core := atEntry t.entry }) s
      let s2 := modSec (fun k => { k with measured := tset k.measured (procTarget p) t.digest }) s1
      let s3 := fwEvent 0x0303 0 p ([0, 0, 0] ++ leBytes 8 t.build) s2
      done ((tkeys s3.ti.jobs).foldl (fun v j => resumeJbnd j v) (kickJobs s3))
    else .next s
  | none => .next s

/-- 10 s after a switch the previous image is no longer kept (R471). -/
def execRollbackWindowEnd (p : Nat) (s : State) : Host.Outcome State Fault Refusal :=
  if (proc? p s).target.isSome ∧ (proc? p s).pstate = .running then
    .next (modProc p (fun x => { x with target := none, previous := none }) (unreserve (fun x => x == .previousImage p) s))
  else .next s

/-! ## Crashes (R460 to R464) -/

def execProcessorWatchdog (p : Nat) (s : State) : Host.Outcome State Fault Refusal := .next (procCrash p 2 0 s)

def execProcessorRestarted (p : Nat) (s : State) : Host.Outcome State Fault Refusal :=
  if (proc? p s).pstate = .restarting then
    let s1 := modProc p (fun x => { x with
      pstate := .running, restarts := min 255 (x.restarts + 1), inbox := [], core := atEntry x.active.entry }) s
    done (kickJobs (fwEvent 0x0302 0 p [0, 0, 0] s1))
  else .next s

/-! ## Changes over two units (R473, R474) -/

/-- Units of a change: the two pipeline halves, or the two collective units; a unit in reset does not acknowledge (R497). -/
def unitsInReset (k : StagedKind) (s : State) : Nat :=
  (s.chip.blockRsts.filter (fun b => b.kind == k.block)).foldl (fun a b => a ||| 2 ^ b.index) 0

/-- Commits a change: every unit switches at one edge. -/
def commitChange (k : StagedKind) (s : State) : State :=
  match k with
  | .rules =>
    match s.pp.staged with
    | some r => retireVersions (modPipe (fun p => { p with cur := r, staged := none, retiring := p.retiring ++ [p.cur] }) s)
    | none => s
  | .groupMode h f e => modCgroup h (fun g => { g with modes := g.modes ++ [(e, BitVec.ofNat 8 f)] }) s
  | .refill q => modPipe (fun p => { p with refillNext := some q }) s

/-- Replaces a staged change, or takes it out. -/
def setChange (g : StagedChange) (h : Option StagedChange) (s : State) : State :=
  { s with fw := { s.fw with changes := s.fw.changes.flatMap (fun c => if c == g then h.toList else [c]) } }

/-- The epoch signal of the oldest change that every unit has acknowledged. -/
def execEpochSwitch (s : State) : Host.Outcome State Fault Refusal :=
  match s.fw.changes.find? (fun g => stillRunning g.mb s && g.units == 3 && unitsInReset g.kind s == 0) with
  | some g => done (finish g.mb Config.ok Body.empty (commitChange g.kind (setChange g none s)))
  | none => .next s

/-- Units of a change that have not acknowledged. -/
def lateUnits (units : Nat) (g : StagedChange) (s : State) : Nat := (units ||| unitsInReset g.kind s) % 4

/-- Some unit has not acknowledged the oldest such change in time: every unit gets REVERT, and the units that did not acknowledge
hold their staged settings until they discard them. -/
def execModeAckTimeout (units : Nat) (s : State) : Host.Outcome State Fault Refusal :=
  match s.fw.changes.find? (fun g => stillRunning g.mb s && lateUnits units g s != 0) with
  | some g =>
    let late := lateUnits units g s
    let s2 := event 0x0307 1 2 0xFF (leBytes 8 g.epoch ++ leBytes 4 late) (setChange g (some { g with units := late }) s)
    .next (finish g.mb Config.modePartial (Body.nums [late]) s2)
  | none => .next s

/-- A unit that holds staged settings without epoch signal or REVERT discards them (R474). -/
def execStagedDiscard (unit : Nat) (s : State) : Host.Outcome State Fault Refusal :=
  match s.fw.changes.find? (fun g => !stillRunning g.mb s && bitOf unit g.units) with
  | some g =>
    let left := g.units - 2 ^ unit
    .next (setChange g (if left = 0 then none else some { g with units := left }) s)
  | none => .next s

/-! ## Flushes (R480 to R482) -/

/-- The newest records that fit, newest first. -/
def newest : Nat → List EvRec → List EvRec
  | _, [] => []
  | room, r :: rs => if r.bytes.length ≤ room then r :: newest (room - r.bytes.length) rs else []

/-- Writes the slot header of a flush, which makes it a flush; the next slot is the one behind it. -/
def writeSlot (cause bytes : Nat) (s : State) : State :=
  let f : FlashSlot :=
    { slot := s.ev.nextSlot, seq := s.ev.seq, cause := cause, time := s.chip.lcount, wpos := s.ev.wpos,
      recs := newest bytes s.ev.recs.reverse }
  bump bkRecorder 2 1 { s with ev := { s.ev with
    slots := s.ev.slots.filter (fun x => x.slot != f.slot) ++ [f], seq := s.ev.seq + 1, nextSlot := (s.ev.nextSlot + 1) % 16, flush := .none } }

/-- The FLUSH record of a flush. -/
def flushRecord (cause slot : Nat) (s : State) : State :=
  event 2 0 0xFF 0xFF ([BitVec.ofNat 8 cause, 0, 0, 0] ++ leBytes 4 slot) s

/-- A reset that waited for the flush is asserted now (R493). -/
def releaseReset (s : State) : State :=
  match s.chip.flushWait with
  | some (l, b) => assertReset l b { s with chip := { s.chip with flushWait := none } }
  | none => s

def execFaultFlushEnd (s : State) : Host.Outcome State Fault Refusal :=
  match s.ev.flush with
  | .fault cause =>
    let slot := s.ev.nextSlot
    let s1 := { s with pm := { s.pm with wearFlash := s.pm.wear } }
    .next (releaseReset (flushRecord cause slot (writeSlot cause (2 ^ 18) s1)))
  | _ => .next s

/-- PWRFAIL_N is low for 200 ns or more: the recorder is held, a fault flush is abandoned, a power-fail flush begins. -/
def execPwrfailAssert (ns : Nat) (s : State) : Host.Outcome State Fault Refusal :=
  if ns < 200 then .next s
  else
    let s1 := if faultFlush s then bump bkRecorder 3 1 s else s
    let s2 := { s1 with
      chip := { s1.chip with pwrFail := true }, ev := { s1.ev with held := true, flush := .power }, pm := { s1.pm with emerg := true } }
    .next (releaseReset s2)

/-- Resumes the recorder with the FLUSH record of the power-fail flush (R482). -/
def resumeRecorder (s : State) : State :=
  flushRecord 2 ((s.ev.nextSlot + 15) % 16) { s with ev := { s.ev with held := false, owed := false } }

def execPwrfailDeassert (s : State) : Host.Outcome State Fault Refusal :=
  let s1 := { s with chip := { s.chip with pwrFail := false } }
  .next (if s.ev.flush = .power then s1 else if s.ev.owed then resumeRecorder s1 else { s1 with ev := { s1.ev with held := false } })

def execPowerFailFlushEnd (s : State) : Host.Outcome State Fault Refusal :=
  match s.ev.flush with
  | .power =>
    let s1 := writeSlot 2 3072 s
    .next (if s1.chip.pwrFail then { s1 with ev := { s1.ev with owed := true } } else resumeRecorder s1)
  | _ => .next s

end Sys2Proof.Machine
end

