-- ==== Sys2Proof/Machine/TileCmds.lean ====
section
/-! DEFINITION. The tile and bench opcodes (03, Table 3-7). -/

namespace Sys2Proof.Machine

open Sys2Proof

/-- Slots of a partition's group; a partition without bench slots has none. -/
def slotIn (part slot : Nat) (s : State) : Bool := (slotSt? part slot s).isSome

/-- The benches on which slots stand, for the work that a command relays (R548). -/
def workBenches (part : Nat) (slots : List Nat) (s : State) : List Nat :=
  match group? part s with
  | some g => if g.phase = .waiting then [] else slots.map (benchOf g)
  | none => []

/-- A command whose work needs a bench whose core is down is refused whole; one that needs a core that switches waits
(R548, R459). -/
def relay (part : Nat) (slots : List Nat) (s : State) (k : Ans) : Ans :=
  let bs := workBenches part slots s
  if bs.any (fun b => benchDown b s) then .reject Config.fwRestarting
  else if bs.any (fun b => (proc? (benchProc b) s).pstate == .switching) then .wait
  else k

/-! ## Loading (R91 to R96) -/

/-- End of the space that a region's elements lie in. -/
def regionTop (k : RegionKind) : Nat := if k = .program then tileImem else tileSram

def sameSpace (a b : Region) : Bool := a.tile == b.tile && (a.kind == .program) == (b.kind == .program)

/-- Both arrays of an MX operand are aligned to 32 bytes (R53). -/
def mxAligned (fmt elem scale : Nat) : Bool := !fmtMx fmt || (elem % 32 == 0 && scale % 32 == 0)

/-- A region of the wrong form (R91, R47, R53). A last block of an MX source may be partial (R56). -/
def regionBad (r : Region) : Bool :=
  decide (r.tile ≥ 8) || decide (r.length = 0) || r.length % 64 != 0 || !fmtTile r.srcFmt || !fmtTile (cvtFmt r.cvt) ||
  (cvtRm r.cvt).isNone || !mxAligned r.srcFmt r.src r.srcScale || !mxAligned (cvtFmt r.cvt) r.dest r.dstScale ||
  (regionRanges r).any (fun p => decide (p.1 + p.2 > regionTop r.kind)) ||
  regionElems r * fmtBits (cvtFmt r.cvt) != r.length * 8

def regionsClash : List Region → Bool
  | [] => false
  | r :: rs => rs.any (fun q => sameSpace r q && (regionRanges r).any (fun a => (regionRanges q).any (fun b => overlap a.1 a.2 b.1 b.2))) ||
      regionsClash rs

def regionsBad (rs : List Region) : Bool := decide (rs.length > 32) || rs.any regionBad || regionsClash rs

def execLoadImage (c : Call) (slot : Nat) (regions : List Region) (s : State) : Host.Outcome State Fault Refusal :=
  done (serve c 0x5010 (fun r t =>
    match slotSt? r.part slot t with
    | none => .reject Config.badValue
    | some st =>
      if regionsBad regions then .reject Config.badValue
      else if st.wstate = .loading ∨ st.wstate = .reloadPending then .reject Config.busy
      else if st.wstate ≠ .empty then .reject Config.wrongState
      else relay r.part [slot] t (.later (startLoads r.part slot (modSlot r.part slot (fun st => { st with
        wstate := .loading, reload := false, regions := [], staged := [], loads := regions.map newItem, loadMb := some (callRef c t) }) t)) true)) s)

def execUnloadImage (c : Call) (slot : Nat) (s : State) : Host.Outcome State Fault Refusal :=
  .next (serve c 0x5011 (fun r t =>
    match slotSt? r.part slot t with
    | none => .reject Config.badValue
    | some st =>
      if st.wstate = .loading ∨ st.wstate = .reloadPending ∨ !st.staged.isEmpty then .reject Config.busy
      else if slotBusy r.part slot t then .reject Config.wrongState
      else relay r.part [slot] t (.ok (modSlot r.part slot (fun st => { st with wstate := .empty, regions := [], staged := [] }) t) Body.empty)) s)

/-- RELOAD_REGION is answered when its reload ends, as LOAD_IMAGE is when its load ends (DESIGN CHOICE, log 127). -/
def execReloadRegion (c : Call) (slot : Nat) (regions : List Region) (s : State) : Host.Outcome State Fault Refusal :=
  done (serve c 0x5012 (fun r t =>
    match slotSt? r.part slot t with
    | none => .reject Config.badValue
    | some st =>
      if regionsBad regions || regions.isEmpty || regions.any (fun g => g.kind != .weights) then .reject Config.badValue
      else if st.wstate = .empty then .reject Config.wrongState
      else if st.wstate = .loading ∨ st.wstate = .reloadPending ∨ !st.staged.isEmpty then .reject Config.busy
      else relay r.part [slot] t (
        let u := modSlot r.part slot (fun st => { st with
          staged := regions, loadMb := some (callRef c t),
          wstate := if st.wstate = .resident then .reloadPending else st.wstate }) t
        .later (if slotBusy r.part slot u then u else applyReload r.part slot u) true)) s)

/-! ## Streams (R85, R90) -/

/-- Fields of a binding descriptor (Table 3-2). -/
def bindingOf (part : Nat) (p : List Byte) : Binding :=
  { part := part, slot := u p 3 1, tile := u p 2 1, fifo := u p 1 1, kind := u p 0 1, srcFmt := u p 4 1, cvt := p.getD 5 0,
    quota := u p 6 2, target := u p 8 8, length := u p 16 8, recLen := u p 24 4, seed := BitVec.ofNat 32 (u p 28 4), gen := 0, seq := 0,
    drops := 0, moved := 0, xfer := none, queue := [], recs := [], ended := false, unbindMb := none }

/-- The peer of a bench-link stream stands next to the tile on the ring, on either side, in the group: a link carries data both
ways (R81, R82). -/
def peerOk (b : Binding) (s : State) : Bool :=
  let n := ((group? b.part s).map (fun g => g.slots.length)).getD 0
  let me := b.slot * 8 + b.tile
  let peer := b.target / 256 * 8 + b.target % 256
  decide (b.target < 65536) && decide (b.target % 256 < 8) && slotIn b.part (b.target / 256) s &&
  (let wrap := if n = 16 then 128 else 1024
   peer == (me + 1) % wrap || me == (peer + 1) % wrap)

/-- A binding descriptor of the wrong form (R85). Any format of a tile load or store may be named; a conversion on its way to a
transmit queue has a wire format as its target (Table 2-1, log 31). -/
def bindingBad (b : Binding) (s : State) : Bool :=
  let dir := if b.kind = 1 ∨ b.kind = 3 ∨ b.kind = 5 then decide (b.fifo ≤ 3) else decide (b.fifo = 4 ∨ b.fifo = 5)
  let side := if b.kind = 3 ∨ b.kind = 5 then cvtFmt b.cvt else b.srcFmt
  let plain := b.srcFmt == cvtFmt b.cvt
  let dma := b.kind == 3 || b.kind == 4
  decide (b.kind = 0 ∨ b.kind > 6) || !dir || decide (b.tile ≥ 8) || !slotIn b.part b.slot s || !fmtTile b.srcFmt ||
  !fmtTile (cvtFmt b.cvt) || (b.kind == 2 && !plain && !fmtWire (cvtFmt b.cvt)) || (cvtRm b.cvt).isNone ||
  (if b.kind = 1 then decide (b.quota = 0 ∨ b.quota > 4096) else b.quota != 0) ||
  (if dma then b.target % 64 != 0 else decide (b.target ≥ 65536)) ||
  (b.kind == 2 && !txqGranted b.part b.target s) ||
  ((b.kind == 5 || b.kind == 6) && !peerOk b s) ||
  (if dma then b.length == 0 || b.length % 64 != 0 || (!plain && (elemsIn side b.length).isNone) else b.length != 0) ||
  (if b.kind = 1 then b.recLen != 0 else b.recLen % 64 != 0 || decide (b.recLen < 64 ∨ b.recLen > 8192) ||
    (!plain && (elemsIn side b.recLen).isNone)) ||
  (b.seed != 0 && (plain || cvtRm b.cvt != some .sr))

def execBindStream (c : Call) (s : State) : Host.Outcome State Fault Refusal :=
  done (serve c 0x5020 (fun r t =>
    let b := bindingOf r.part r.payload
    let k := bindKey r.part b.slot b.tile b.fifo
    if bindingBad b t then .reject Config.badValue
    else if (bind? k t).isSome then .reject Config.busy
    else if b.kind = 1 ∧ b.quota * 1024 > sharedBytes t then .reject Config.noResource
    else relay r.part [b.slot] t (
      let g := seedGen b.seed.toNat t
      .ok (pumpBind k { g.2 with ti := { g.2.ti with binds := tset g.2.ti.binds k { b with gen := BitVec.ofNat 32 g.1 } } }) Body.empty)) s)

def execUnbindStream (c : Call) (slot tile fifo : Nat) (s : State) : Host.Outcome State Fault Refusal :=
  done (serve c 0x5021 (fun r t =>
    let k := bindKey r.part slot tile fifo
    if !slotIn r.part slot t || decide (tile ≥ 8) || decide (fifo ≥ 6) then .reject Config.badValue
    else match bind? k t with
      | none => .reject Config.wrongState
      | some b =>
        if b.unbindMb.isSome then .reject Config.busy
        else relay r.part [slot] t (.later (modBind k (fun b => { b with unbindMb := some (callRef c t) }) t) true)) s)

/-! ## Jobs (R97, R98) -/

/-- A request of the wrong form. -/
def jobBad (part : Nat) (q : JobReq) (s : State) : Bool :=
  let ss := q.slots.map JobSlot.slot
  q.slots.isEmpty || ss.any (fun i => !slotIn part i s) || ss.eraseDups.length != ss.length ||
  q.slots.any (fun e => e.mask == 0 || decide (e.entries.length > 8) || e.entries.any (fun a => decide (a ≥ 65536))) ||
  (q.tally == 0xFFFF && q.cq.isNone) || (q.tally != 0xFFFF && !tallyOk part q.tally s) ||
  q.cq.any (fun n => !((cq? n s).any (fun x => x.part == part))) || q.arm.any (fun a => !tallyOk part a.1 s) || decide (q.limitUs ≥ 2 ^ 32)

/-- A tile of a request is named by another job of the partition, running, held or armed. -/
def tilesTaken (part : Nat) (q : JobReq) (s : State) : Bool :=
  s.ti.jobs.any (fun e => e.2.part == part && (jobTiles e.2.req).any (fun p => (jobTiles q).contains p))

/-- A job on a slot whose reload is pending or runs is held whatever else runs (R95). Otherwise one that names a tile of another
job returns BUSY: the spec gives no status for it (DESIGN CHOICE, log 127). -/
def execStartJob (c : Call) (req : JobReq) (s : State) : Host.Outcome State Fault Refusal :=
  done (serve c 0x5030 (fun r t =>
    let st := req.slots.filterMap (fun e => slotSt? r.part e.slot t)
    if jobBad r.part req t then .reject Config.badValue
    else if st.any (fun x => x.wstate == .empty || (x.wstate == .loading && !x.reload)) then .reject Config.wrongState
    else if !st.any (fun x => x.wstate == .reloadPending || x.wstate == .loading) && tilesTaken r.part req t then .reject Config.busy
    else relay r.part (req.slots.map JobSlot.slot) t (
      let j := freshKey t.ti.jobs
      let x : Job := { part := r.part, func := c.func, req := req, jstate := if req.arm.isSome then .armed else .held, ran := false }
      .ok (launch j (setJob j x t)) (Body.nums [j]))) s)

def execCancelJob (c : Call) (job : Nat) (s : State) : Host.Outcome State Fault Refusal :=
  .next (serve c 0x5031 (fun r t =>
    match job? job t with
    | none => .reject Config.badValue
    | some x =>
      if x.part ≠ r.part then .reject Config.badValue
      else match x.jstate with
        | .ending _ _ => .reject Config.wrongState
        | _ => relay r.part (x.req.slots.map JobSlot.slot) t (.ok (endJob job Config.ccFlushed 1 t) Body.empty)) s)

/-! ## Readbacks -/

/-- Table 3-4's codes. -/
def WState.code : WState → Nat
  | .empty => 0
  | .loading => 1
  | .resident => 2
  | .reloadPending => 3
  | .saved => 4

/-- The cluster control core of a bench has crashed: it restarts or has FAILED. -/
def controlDown (b : Nat) (s : State) : Bool :=
  (proc? (benchProc b) s).pstate == .restarting || (proc? (benchProc b) s).pstate == .failed

/-- BSTATE of a bench (BN_STATUS). -/
def benchState (b : Nat) (s : State) : Nat :=
  if controlDown b s then 6
  else match benchOwner b s with
    | none => 0
    | some (p, i) =>
      match group? p s with
      | none => 0
      | some g =>
        if g.phase = .restoring then 1
        else if g.phase = .saving then 5
        else if s.ti.jobs.any (fun e => e.2.part == p && e.2.req.slots.any (fun r => r.slot == i) && e.2.jstate == .running) then 3
        else if slotBusy p i s then 4
        else 2

def kindNum : RegionKind → Nat
  | .weights => 0
  | .program => 1
  | .data => 2

/-- A region of a slot's image: 0 loaded, 1 staged (R42, R43). -/
def regionNums (staged part slot : Nat) (g : Region) : List Nat :=
  [0x10000 + staged, part, slot, g.tile, kindNum g.kind, g.dest, g.length, g.src, g.srcFmt, g.cvt.toNat, g.srcScale, g.dstScale,
   g.digest.isSome.toNat] ++ (g.digest.map (fun d => (List.range 4).map (fun i => d.toNat / 2 ^ (64 * i) % 2 ^ 64))).getD []

/-- Occupant and state of each bench, weight state of each slot, and the slot's regions, loaded and staged. -/
def execReadBenches (c : Call) (cursor : Nat) (s : State) : Host.Outcome State Fault Refusal :=
  .next (serveRead c 0x5040 cursor (fun _ t =>
    (List.range 16).filterMap (fun b => match benchOwner b t with
      | some (p, i) => if sees c p t then some [b, benchState b t, 1, p, i] else none
      | none => some [b, benchState b t, 0]) ++
    (t.ti.groups.filter (fun e => sees c e.1 t)).flatMap (fun e => e.2.slots.flatMap (fun x =>
      [e.1, x.1, x.2.wstate.code] :: (x.2.regions.map (fun l => regionNums 0 e.1 x.1 l.region) ++
        x.2.staged.map (regionNums 1 e.1 x.1))))) s)

def execReadBindings (c : Call) (cursor : Nat) (s : State) : Host.Outcome State Fault Refusal :=
  .next (serveRead c 0x5041 cursor (fun r t =>
    (t.ti.binds.filter (fun e => e.2.part == r.part)).map (fun e =>
      let b := e.2
      [b.kind, b.fifo, b.tile, b.slot, b.srcFmt, b.cvt.toNat, b.quota, b.target, b.length, b.recLen, b.seed.toNat,
       (tgetD (tileAt b.part b.slot b.tile t).fifos b.fifo []).length, b.drops])) s)

def execReadJobs (c : Call) (cursor : Nat) (s : State) : Host.Outcome State Fault Refusal :=
  .next (serveRead c 0x5042 cursor (fun r t =>
    (t.ti.jobs.filter (fun e => e.2.part == r.part)).map (fun e =>
      [e.1, (match e.2.jstate with
        | .armed => 0
        | .held => 1
        | .running => 2
        | .ending _ _ => 3), e.2.req.limitUs, e.2.req.tally, e.2.req.cq.getD 0xFFFFFFFF, (e.2.req.arm.map Prod.fst).getD 0xFFFF,
        (e.2.req.arm.map Prod.snd).getD 0] ++ e.2.req.slots.flatMap (fun q => [q.slot, q.mask.toNat]))) s)

def execReadGroups (c : Call) (cursor : Nat) (s : State) : Host.Outcome State Fault Refusal :=
  .next (serveRead c 0x5043 cursor (fun _ t =>
    [t.ti.quantum, ((t.tiers.reserves.filter (fun r => isSaveArea r.use)).map Reserve.size).foldl (· + ·) 0] ::
    (t.ti.groups.filter (fun e => sees c e.1 t)).map (fun e =>
      [e.1, e.2.slots.length, e.2.first, (if e.2.phase = .waiting then 0 else 1), e.2.pinned.toNat, e.2.portWait])) s)

/-! ## Settings and pins (R76, R101, R102) -/

def execSetQuantum (c : Call) (us : Nat) (s : State) : Host.Outcome State Fault Refusal :=
  .next (serve c 0x5850 (fun _ t =>
    if us < 100 ∨ us > 100000 then .reject Config.badValue
    else .ok { t with ti := { t.ti with quantum := us } } Body.empty) s)

/-- Benches of the pinned groups, and the largest unpinned group, with one group counted as pinned. -/
def pinFits (part : Nat) (s : State) : Bool :=
  let size := fun (e : Nat × Group) => e.2.slots.length
  let pinned := (s.ti.groups.filter (fun e => e.2.pinned || e.1 == part)).foldl (fun a e => a + size e) 0
  let largest := (s.ti.groups.filter (fun e => !(e.2.pinned || e.1 == part))).foldl (fun a e => max a (size e)) 0
  decide (pinned + largest ≤ 16)

def execPinGroup (c : Call) (s : State) : Host.Outcome State Fault Refusal :=
  .next (serve c 0x5851 (fun r t =>
    match group? r.part t with
    | none => .reject Config.badValue
    | some g =>
      if g.pinned then .ok t Body.empty
      else if g.phase = .saving then .reject Config.busy
      else if !pinFits r.part t then .reject Config.noResource
      else if g.phase = .waiting then
        match freeRun g.slots.length t with
        | none => .reject 0x5002
        | some b => .ok (setGroup r.part { g with pinned := true, first := b, phase := .restoring } t) Body.empty
      else .ok (releaseAreas (setGroup r.part { g with pinned := true } t)) Body.empty) s)

def execUnpinGroup (c : Call) (s : State) : Host.Outcome State Fault Refusal :=
  .next (serve c 0x5851 (fun r t =>
    match group? r.part t with
    | none => .reject Config.badValue
    | some g =>
      if !g.pinned then .ok t Body.empty
      else
        let u := setGroup r.part { g with pinned := false, quantumAt := t.chip.lcount } t
        if slotsGranted t ≤ 16 then .ok u Body.empty
        else match takeAreas r.part (tkeys g.slots) u with
          | none => .reject Config.noResource
          | some v => .ok v Body.empty) s)

def execSetPortWait (c : Call) (n : Nat) (s : State) : Host.Outcome State Fault Refusal :=
  .next (serve c 0x5852 (fun r t =>
    match group? r.part t with
    | none => .reject Config.badValue
    | some g =>
      if n < 8 ∨ n > 256 then .reject Config.badValue
      else relay r.part (tkeys g.slots) t (.ok (setGroup r.part { g with portWait := n } t) Body.empty)) s)

end Sys2Proof.Machine
end

