-- ==== Sys2Proof/Machine/Regs.lean ====
section
/-! DEFINITION. The register map: blocks, registers with their access codes and present values, reads (19 and the register
sections of the other chapters). -/

namespace Sys2Proof.Machine

open Sys2Proof

/-! ## Blocks (Tables 19-1 and 19-2) -/

/-- Block at an index of the physical function's BAR0. -/
def pfBlock (i : Nat) : Option Nat :=
  if i = 0 then some (bkDevice 0)
  else if i = 1 then some (bkMailbox (mbIx 0 false))
  else if i = 2 then some (bkMailbox (mbIx 0 true))
  else if (3 ≤ i ∧ i ≤ 8) ∨ (0x10 ≤ i ∧ i ≤ 0x15) ∨ (0x20 ≤ i ∧ i < 0x140) ∨ (0x200 ≤ i ∧ i < 0x400) then some i
  else none

/-- Block at an index of a virtual function's BAR0: the partition blocks are those of its partition now (R530). -/
def vfBlock (f i : Nat) (s : State) : Option Nat :=
  let p := funcPart f s
  if i = 0 then some (bkDevice f) else if i = 1 then some (bkMailbox (mbIx f false)) else if i = 2 then some (bkMailbox (mbIx f true))
  else if i = 3 then some (bkHost f) else if i = 4 then some (bkStorage f) else if i = 5 then some (bkTrans p)
  else if i = 6 then some (bkQueue p) else if i = 7 then some (bkCipher p) else none

def blockAt (func off : Nat) (s : State) : Option Nat :=
  if func = 0 then pfBlock (off / 65536) else vfBlock func (off / 65536) s

/-- Is a block one of a range of `n` from `b`? -/
def isBk (blk b n : Nat) : Bool := decide (b ≤ blk) && decide (blk < b + n)

/-- Counters of a block. -/
def counterCount (blk : Nat) : Nat :=
  if isBk blk 0x20 16 then 64
  else if isBk blk 0x30 16 then 6
  else if isBk blk 0x1000 0x1000 || blk == bkReset || blk == bkRecorder then 4
  else if decide (0x2000 ≤ blk) || blk == bkFirmware || blk == bkRollCall then 0
  else 8

/-- The counter at an offset, and whether its snapshot copy. -/
def counterAt (blk off : Nat) : Option (Nat × Bool) :=
  let n := counterCount blk
  let base := if isBk blk 0x1000 0x1000 then 0x2100 else 0x100
  let snap := if isBk blk 0x20 16 then 0x300 else base + 0x100
  if off % 8 ≠ 0 then none
  else if base ≤ off ∧ off < base + 8 * n then some ((off - base) / 8, false)
  else if snap ≤ off ∧ off < snap + 8 * n then some ((off - snap) / 8, true)
  else none

/-! ## Registers -/

/-- A register: 8 bytes or 4, its bits by access code (R7), and what it reads as. -/
structure Reg where
  wide : Bool
  rw : Nat
  wc : Nat
  ws : Nat
  wo : Nat
  rsv : Nat
  val : Nat
  deriving DecidableEq, Repr

/-- A mask of bits `[hi:lo]`. -/
def mask (hi lo : Nat) : Nat := (2 ^ (hi + 1 - lo) - 1) * 2 ^ lo

def Reg.ro (wide : Bool) (rsv val : Nat) : Reg := { wide := wide, rw := 0, wc := 0, ws := 0, wo := 0, rsv := rsv, val := val }

/-- Transfers of a partition stalled on faults. -/
def ringPending (p : Nat) (s : State) : Nat := ((cring? p s).map (fun r => diff32 r.db r.di)).getD 0

/-- Lowest duty of a tile (PM_STATUS DUTY). -/
def lowestDuty (s : State) : Nat := min s.pm.dutyFree s.pm.dutyPinned

def devFeatures (s : State) : Nat :=
  if s.chip.loaded then bitsOf 5 0 (optByte 2 s) + 256 * (bitOf 0 (optByte 0 s)).toNat + 512 * (bitOf 1 (optByte 0 s)).toNat else 0

/-- Registers of the device block of a function. -/
def devReg (f off : Nat) (s : State) : Option Reg :=
  if off = 0 then some (.ro false (mask 15 8) 0x570400B1)
  else if off = 8 then some (.ro true 0 s.chip.serial.toNat)
  else if off = 0x10 then some (.ro false (mask 31 14) (funcPart f s * 256 + f))
  else if off = 0x18 then some (.ro false (mask 31 10 + mask 7 6) (devFeatures s))
  else if off = 0x20 then
    let v := match tget s.regs.badAddr f with
      | some b => b.valid.toNat * 2 ^ 63 + b.write.toNat * 2 ^ 62 + b.bar2.toNat * 2 ^ 61 + b.offset % 2 ^ 32
      | none => 0
    some { Reg.ro true (mask 60 32) v with wc := 2 ^ 63 }
  else if off = 0x28 then some { Reg.ro true 0 ((tgetD s.regs.scratch f 0).toNat) with rw := mask 63 0 }
  else none

/-- Registers of a mailbox block. -/
def mboxReg (m off : Nat) (s : State) : Option Reg :=
  let x := mbox? m s
  if off = 0x2000 then
    some { Reg.ro false (mask 30 27 + mask 15 1) (x.irq.toNat * 2 ^ 31 + x.vec * 2 ^ 16 + (x.state == 1).toNat) with
      rw := 2 ^ 31 + mask 26 16, ws := 1 }
  else if off = 0x2008 then
    some (.ro false (mask 28 16) (x.state * 2 ^ 30 + ((proc? x.proc s).pstate == .restarting).toNat * 2 ^ 29 + x.tag))
  else none

def fwPstat (p : Nat) (s : State) : Nat :=
  let x := proc? p s
  x.pstate.code * 2 ^ 28 + x.act.code * 2 ^ 26 + x.dump.isSome.toNat * 2 ^ 25 + x.dumpLost.toNat * 2 ^ 24 + x.restarts * 2 ^ 16 + x.active.build % 65536

def evStat (s : State) : Nat :=
  (match s.ev.flush with
   | .none => 0
   | .fault _ => 1
   | .power => 2) * 2 ^ 30 + s.chip.pwrFail.toNat * 2 ^ 29 + s.ev.nextSlot

def clkStat (s : State) : Nat :=
  s.chip.rootLock.toNat * 2 ^ 31 + s.chip.refOk.toNat * 2 ^ 30 + s.chip.backup.toNat * 2 ^ 29 + s.chip.faultN.toNat * 2 ^ 28

def pmStatus (s : State) : Nat :=
  s.pm.pstate * 2 ^ 29 + s.pm.emerg.toNat * 2 ^ 28 + (procDown 1 s && s.chip.bootDone).toNat * 2 ^ 27 + s.pm.acting * 2 ^ 24 +
  lowestDuty s * 2 ^ 19 + min 1023 (s.pm.powerMw / 1000)

def pmTherm (s : State) : Nat := s.pm.hottest.1 % 256 * 2 ^ 24 + s.pm.hottest.2 % 256 * 2 ^ 16 + s.pm.tThrottle * 256

def bnStatus (b : Nat) (s : State) : Nat :=
  match benchOwner b s with
  | some (p, i) =>
    let g := group? p s
    2 ^ 31 + (g.any (fun g => g.pinned)).toNat * 2 ^ 30 + p * 2 ^ 24 + i * 2 ^ 20 +
    ((g.bind (fun g => tget g.slots i)).map (fun x => x.wstate.code)).getD 0 * 256 + benchState b s
  | none => benchState b s


def gcStatus (c : Nat) (s : State) : Nat :=
  let x := chan? c s
  x.cstate.code * 2 ^ 28 + min 4095 x.remaps.length * 2 ^ 16 + x.temp % 256 * 256

def jlStatus (n : Nat) (s : State) : Nat :=
  let l := link? n s
  let g := l.gang.bind (fun g => gang? g s)
  let pos := if l.lstate = .active then ((g.bind (fun g => g.members.findIdx? (· == n))).getD 15) else 15
  l.lstate.code * 2 ^ 28 + l.gang.getD 0 * 2 ^ 22 + (g.any (fun g => g.kind == .peer)).toNat * 2 ^ 21 + l.gang.isSome.toNat * 2 ^ 20 +
  pos * 2 ^ 16 + l.plink % 256 * 256

def rcInfo (s : State) : Nat :=
  let r := s.jl.rc
  r.rcstate * 2 ^ 28 + r.ring.toNat * 2 ^ 27 + (sparesShort s).toNat * 2 ^ 26 + levelNow s % 4 * 2 ^ 24 + spareCount s * 2 ^ 16 +
  (bitOf 1 (optByte 0 s)).toNat

def trFqstat (p : Nat) (s : State) : Nat :=
  let t := trans? p s
  t.ovf.toNat * 2 ^ 31 + (backPressure p s).toNat * 2 ^ 30 + min 4095 (waitingCount p s) * 2 ^ 16 + t.tphase.toNat * 2 ^ 12 + t.tail

def cuStatus (d : Nat) (s : State) : Nat :=
  let waiting := s.cu.colls.countP (fun e => !e.2.admitted && (cgroup? e.2.group s).any (fun g => g.unit == d))
  inflightOn d s * 2 ^ 24 + (reservedOn d none s + 1023) / 1024 * 256 + min 255 waiting

def ppStatus (s : State) : Nat :=
  s.pp.cur.version * 2 ^ 24 + ((s.pp.staged.map RuleSet.version).getD 0) * 2 ^ 16 + s.pp.staged.isSome.toNat * 2 ^ 15 +
  min 3 s.pp.retiring.length * 2 ^ 13

/-- HI_FSTAT; BMEOFF is shown once boot is done, since the register's reset value is 0x4000_0000 (log 147). -/
def hiFstat (f : Nat) (s : State) : Nat :=
  let x := func? f s
  let st := match x.fstate with
    | .disabled => 0
    | .enabled => 1
    | .quiescing => 2
  st * 2 ^ 30 + x.part * 2 ^ 24 + x.qcause * 2 ^ 22 + x.d3.toNat * 2 ^ 21 + (s.chip.bootDone && !x.bme).toNat * 2 ^ 20 + tagsUnder f s

def hiLink (s : State) : Nat :=
  s.ep.speed * 2 ^ 28 + s.ep.width * 2 ^ 22 + s.ep.flit.toNat * 2 ^ 21 + s.ep.mps * 2 ^ 11 + s.ep.mrrs * 2 ^ 8

def sbFstat (f : Nat) (s : State) : Nat :=
  let x := sbFunc f s
  x.frozen.toNat * 2 ^ 31 + s.sb.serialMode.toNat * 2 ^ 30 + x.sps * 2 ^ 28 + liveTasks f s * 2 ^ 16 + x.errSeq % 65536

def ckStatus (s : State) : Nat := s.ck.setups.length * 2 ^ 27 + s.ck.jobs.length * 2 ^ 16

/-- Registers of a partition's translation block. -/
def transReg (p off : Nat) (s : State) : Option Reg :=
  if off = 0 then some { Reg.ro false (mask 31 12) (trans? p s).head with rw := mask 11 0 }
  else if off = 8 then some { Reg.ro false (mask 29 28 + mask 15 13) (trFqstat p s) with wc := 2 ^ 31 }
  else if off = 0x10 then some { Reg.ro false (mask 31 18) 0 with wo := mask 17 0 }
  else if off = 0x18 then some (.ro false (mask 31 16) (min 65535 (stalledCount p s)))
  else none

/-- Registers of a partition's queue block. -/
def queueReg (p off : Nat) (s : State) : Option Reg :=
  if off = 0 then some { Reg.ro false (mask 31 16) (tgetD s.qe.tcsel p 0) with rw := mask 15 0 }
  else if off = 8 then some { Reg.ro true 0 (tallyGet p (tgetD s.qe.tcsel p 0) s).toNat with rw := mask 63 0 }
  else if off = 0x10 then some { Reg.ro true 0 0 with wo := mask 63 0 }
  else none

/-- Registers of a partition's cipher block. -/
def cipherReg (p off : Nat) (s : State) : Option Reg :=
  if off = 0 then some { Reg.ro false 0 0 with wo := mask 31 0 }
  else if off = 8 then some (.ro false (mask 15 13) (((cring? p s).map (fun r => r.status)).getD 0 * 65536 + ringPending p s))
  else none

/-- The reset block. -/
def rstReg (off : Nat) (s : State) : Option Reg :=
  if off = 0 then some { Reg.ro false (mask 31 16 + mask 13 9) (rstCause s) with wc := mask 8 0 }
  else if off = 8 then some (.ro false (mask 27 0) (clkStat s)) else none

/-- The power block. -/
def pmReg (off : Nat) (s : State) : Option Reg :=
  if off = 0 then some (.ro false (mask 18 10) (pmStatus s)) else if off = 8 then some (.ro false (mask 7 0) (pmTherm s))
  else if off = 0x10 then some (.ro true 0 (s.pm.wear % 2 ^ 64))
  else if off = 0x18 ∨ off = 0x20 ∨ off = 0x28 ∨ off = 0x30 then
    some (.ro false (mask 15 0) (tgetD s.pm.refuse ((off - 0x18) / 8 + 1) 0 * 65536))
  else none

/-- The event recorder block. -/
def evReg (off : Nat) (s : State) : Option Reg :=
  if off = 0 then some (.ro true 0 s.chip.lcount) else if off = 8 then some (.ro true 0 s.ev.wpos)
  else if off = 0x10 then some (.ro false (mask 28 4) (evStat s)) else none

/-- A pipeline block; PP_INJECT is in that of IOD0 only. -/
def ppReg (d off : Nat) (s : State) : Option Reg :=
  if off = 0 then some (.ro false (mask 12 0) (ppStatus s))
  else if off = 0x10 then some (.ro true 0 (gtimeNs s % 2 ^ 64))
  else if off = 0x18 ∧ d = 0 then some { Reg.ro false 0 0 with wo := mask 31 0 }
  else none

/-- The registers of each block that are its own. -/
def ownReg (blk off : Nat) (s : State) : Option Reg :=
  if 0x2000 ≤ blk then devReg (blk - 0x2000) off s
  else if 0x1000 ≤ blk then mboxReg (blk - 0x1000) off s
  else if blk = bkReset then rstReg off s
  else if blk = bkPower then pmReg off s
  else if blk = bkFirmware then (if off % 8 = 0 ∧ off / 8 < 19 then some (.ro false 0 (fwPstat (off / 8) s)) else none)
  else if blk = bkRecorder then evReg off s
  else if blk = bkCkpt then (if off = 0 then some (.ro false (mask 15 0) (ckStatus s)) else none)
  else if blk = bkRollCall then
    (if off = 0 then some (.ro false 0 (s.jl.rc.size * 65536 + s.jl.rc.addr))
     else if off = 8 then some (.ro false (mask 15 1) (rcInfo s)) else none)
  else if isBk blk 0x10 2 then none
  else if isBk blk 0x12 2 then (if off = 0 then some (.ro false (2 ^ 23) (cuStatus (blk - 0x12) s)) else none)
  else if isBk blk 0x14 2 then ppReg (blk - 0x14) off s
  else if isBk blk 0x20 16 then
    (if off = 0 then some (.ro false (mask 19 12 + mask 7 4) (bnStatus (blk - 0x20) s))
     else if 0x10 ≤ off ∧ off < 0x30 ∧ off % 4 = 0 then
      let x := tile? ((blk - 0x20) * 8 + (off - 0x10) / 4) s
      some (.ro false (mask 15 4) (x.exc * 65536 + (shownState x).code))
     else none)
  else if isBk blk 0x30 16 then (if off = 0 then some (.ro false (mask 7 0) (gcStatus (blk - 0x30) s)) else none)
  else if isBk blk 0x40 64 then (if off = 0 then some (.ro false (mask 7 0) (jlStatus (blk - 0x40) s)) else none)
  else if isBk blk 0x80 64 then transReg (blk - 0x80) off s
  else if isBk blk 0xC0 64 then queueReg (blk - 0xC0) off s
  else if isBk blk 0x100 64 then cipherReg (blk - 0x100) off s
  else if isBk blk 0x200 256 then
    (if off = 0 then some (.ro false (mask 19 10) (hiFstat (blk - 0x200) s))
     else if off = 8 then some (.ro false (mask 20 14 + mask 7 0) (hiLink s)) else none)
  else if isBk blk 0x300 256 then (if off = 0 then some (.ro false (mask 27 25) (sbFstat (blk - 0x300) s)) else none)
  else none

/-- Does the ERRSTAT of a block tell where a drop was (QE_ERRSTAT DB, SB_ERRSTAT SLOT)? -/
def hasDoor (blk : Nat) : Bool := isBk blk 0xC0 64 || isBk blk 0x300 256

def errStatVal (blk : Nat) (s : State) : Nat :=
  let e := errStat? blk s
  e.valid.toNat * 2 ^ 31 + e.ovf.toNat * 2 ^ 30 + e.cause * 2 ^ 28 + e.door.toNat * 2 ^ 27 + e.offset

/-- The register at an offset of the normal view. -/
def regAt (blk off : Nat) (s : State) : Option Reg :=
  if off = 0x3F08 then
    some { Reg.ro false (if hasDoor blk then mask 26 16 else mask 27 16) (errStatVal blk s) with wc := mask 31 30 }
  else if off = 0x3F00 then (if blk = bkRollCall then none else some { Reg.ro false (mask 31 1) 0 with ws := 1 })
  else match counterAt blk off with
    | some (c, snap) =>
      some (.ro true 0 (if snap then (tgetD s.regs.snaps (blk * 64 + c) 0).toNat else (counter blk c s).toNat))
    | none => ownReg blk off s

/-- The 4 bytes at an offset: a register, or a half of one; the upper half is marked. -/
def wordAt (blk off : Nat) (s : State) : Option (Reg × Bool) :=
  match regAt blk off s with
  | some r => some (r, false)
  | none => if off < 4 then none else match regAt blk (off - 4) s with
    | some r => if r.wide then some (r, true) else none
    | none => none

/-! ## Reads (R522, R523, R431) -/

def sizeOk (off size : Nat) : Bool := (size == 4 || size == 8) && off % size == 0

/-- Lies an offset of a mailbox block in its request or response area? -/
def inMboxArea (blk off : Nat) : Bool := isBk blk 0x1000 0x1000 && decide (off < 0x2000)

/-- A 4-byte read in the normal view. -/
def read4 (blk off : Nat) (s : State) : Option Nat :=
  if inMboxArea blk off then some (leNat (rdMem (spMbox (blk - 0x1000)) off 4 s))
  else (wordAt blk off s).map (fun e => if e.2 then e.1.val / 2 ^ 32 else e.1.val % 2 ^ 32)

/-- May a location be reached through an alias: it has an RW field (R521)? -/
def aliased (blk off : Nat) (s : State) : Bool :=
  !inMboxArea blk off && (wordAt blk off s).any (fun e => e.1.rw != 0)

/-- A read of a block at an offset in any view. -/
def blockRead (blk off size : Nat) (s : State) : Option Nat :=
  let o := off % 0x4000
  if off ≥ 0x4000 ∧ !aliased blk o s then none
  else match read4 blk o s with
    | none => none
    | some lo => if size = 4 then some lo else (read4 blk (o + 4) s).map (fun hi => lo + 2 ^ 32 * hi)

/-- Bytes of a task slot as read (Table 12-1). -/
def slotBytesOf (k : Nat) (s : State) : List Byte :=
  let r := slotRegs k s
  r.raw ++ [BitVec.ofNat 8 r.state, BitVec.ofNat 8 r.code] ++ leBytes 2 r.nvstat ++ leBytes 4 r.bytes ++ leBytes 4 r.errSeq ++
    leBytes 4 (decide (r.state = 1 ∨ r.state = 2)).toNat

/-- Size of a function's BAR0. -/
def bar0Size (f : Nat) (s : State) : Nat := if f = 0 then s.ep.bar0Mib * 2 ^ 20 else 2 ^ 20

/-- A doorbell's place in BAR2. -/
def isDoor (off : Nat) : Bool := decide (off < 0x10000) && (off % 0x1000 == 0 || off % 0x1000 == 8 || off % 0x1000 == 16)
def isSlot (off : Nat) : Bool := decide (0x10000 ≤ off) && decide (off < 0x14000)

/-- A host read of a BAR: its value, or none where it completes with Completer Abort. -/
def hostRead (func bar off size : Nat) (s : State) : Option Nat :=
  if !sizeOk off size then none
  else if bar = 0 then
    (if off < bar0Size func s then (blockAt func off s).bind (fun b => blockRead b (off % 65536) size s) else none)
  else if isSlot off then some (leNat (((slotBytesOf (taskKey func ((off - 0x10000) / 64)) s).drop (off % 64)).take size))
  else if size = 8 ∧ isDoor off then some 0
  else if size = 4 ∧ (isDoor off || isDoor (off - 4)) then some 0
  else none

/-- Lies a host access, by its first byte, on a reserved or unimplemented location (R523)? -/
def unlocated (func bar off : Nat) (s : State) : Bool :=
  if bar = 0 then
    if off < bar0Size func s then (match blockAt func off s with
      | none => true
      | some b => (blockRead b (off % 65536 / 4 * 4) 4 s).isNone)
    else true
  else !(isSlot off || isDoor (off / 8 * 8))

/-- Does a processor own a block (R531)? -/
def procOwns (p blk : Nat) (s : State) : Bool :=
  let dev := blk == bkDevice 0
  if p = 2 then blk != bkPower && blk != bkReset
  else if p = 0 then
    dev || blk == bkReset || blk == bkFirmware || blk == bkRecorder || isBk blk 0x100 64 ||
    (s.chip.recovery && blk == bkMailbox (mbIx 0 false))
  else if p = 1 then blk == bkPower || dev || blk == bkRecorder
  else dev || blk == bkBench (p - 3)

/-- A processor's read of its register window; none is a bus error. -/
def procRead (p off size : Nat) (s : State) : Option Nat :=
  if !sizeOk off size || decide (off ≥ bar0Size 0 s) then none
  else match pfBlock (off / 65536) with
    | some b => if procOwns p b s then blockRead b (off % 65536) size s else none
    | none => none

end Sys2Proof.Machine
end

