-- ==== Sys2Proof/Machine/RegWrites.lean ====
section
/-! DEFINITION. Writes: to registers in the four views, to mailbox areas, doorbells and task slots; dropped writes (19, 08, 12, 16). -/

namespace Sys2Proof.Machine

open Sys2Proof

/-! ## Doorbells (R242 to R245, R249) -/

/-- How a write ended: carried out, or dropped with a CAUSE (R524). -/
inductive WRes where
  | ok (s : State)
  | drop (cause : Nat)

/-- INDEX of a hint is ahead of the earlier ones (R244). -/
def aheadOf (n db : Nat) : Bool := n % 2 ^ 32 != db % 2 ^ 32 && !before32 n db

def sqBell (qpn n : Nat) (q : Qp) (s : State) : State :=
  let s1 := bump (bkQueue q.part) 0 1 s
  if q.qstate = .reset then s1
  else if !aheadOf n q.sqDb then bump (bkQueue q.part) 1 1 s1
  else sqKick qpn (modQp qpn (fun q => { q with sqDb := n % 2 ^ 32, sqStat := 0 }) s1)

def rqBell (qpn n : Nat) (q : Qp) (s : State) : State :=
  let s1 := bump (bkQueue q.part) 0 1 s
  if q.qstate = .reset then s1
  else if !aheadOf n q.rqDb then bump (bkQueue q.part) 1 1 s1
  else rqKick qpn (modQp qpn (fun q => { q with rqDb := n % 2 ^ 32, rqStat := 0 }) s1)

/-- CQ_DB releases entries up to INDEX, and arms the CQ if ARM is set (R248, R249). -/
def cqBell (cqn n : Nat) (arm : Bool) (c : Cq) (s : State) : State :=
  let s1 := bump (bkQueue c.part) 0 1 s
  let ahead := aheadOf n c.released
  let s2 := modCq cqn (fun c => { c with
    released := if ahead then n % 2 ^ 32 else c.released, arm := if arm then some (n % 2 ^ 32) else c.arm,
    timing := if arm then false else c.timing }) (if ahead || arm then s1 else bump (bkQueue c.part) 1 1 s1)
  let s3 := if arm && (cq? cqn s2).any (fun c => decide (cqBeyond c > 0)) then cqFire cqn s2 else s2
  let s4 := drainCq cqn (c.held.length + 1) s3
  if c.held.isEmpty then s4 else kickPart c.part (kickJobs s4)

/-- The checks of R243 and what a doorbell of kind 0 (SQ), 1 (RQ) or 2 (CQ) does. -/
def doorbell (func kind v : Nat) (s : State) : WRes :=
  let idx := v / 2 ^ 32
  let n := v % 2 ^ 20
  if bitsOf 30 20 v ≠ 0 ∨ (bitOf 31 v = true ∧ kind ≠ 2) then .drop 0
  else if kind = 2 then
    match cq? n s with
    | none => .drop 1
    | some c => if c.part ≠ funcPart func s || (idx != c.tail && !before32 idx c.tail) then .drop 1 else .ok (cqBell n idx (bitOf 31 v) c s)
  else match qp? n s with
    | none => .drop 1
    | some q =>
      if q.part ≠ funcPart func s then .drop 1
      else if kind = 0 then
        if diff32 idx q.sqComp > 2 ^ q.sqLog then .drop 1 else .ok (sqBell n idx q s)
      else if diff32 idx q.rqCi > 2 ^ q.rqLog then .drop 1 else .ok (rqBell n idx q s)

/-- Drops a write of a function that is not ENABLED: counted, not logged (Table 15-4). -/
def dropQuiet (func : Nat) (s : State) : State := bump (bkHost func) 7 1 s

def mayAct (func : Nat) (s : State) : Bool := (func? func s).fstate == .enabled

/-- A host's write to a doorbell. -/
def bellWrite (func off size v : Nat) (s : State) : State :=
  let blk := bkQueue (funcPart func s)
  if !mayAct func s then dropQuiet func s
  else if size ≠ 8 ∨ off % 8 ≠ 0 then dropWrite func blk 1 off true s
  else match doorbell func (off % 0x1000 / 8) v s with
    | .ok t => t
    | .drop c => dropWrite func blk c off true s

/-! ## Task slots (R355, R356) -/

/-- Writes bytes into the fields of a slot. -/
def slotPut (k o : Nat) (bs : List Byte) (s : State) : State :=
  modSlotRegs k (fun r => { r with raw := (r.raw.take o ++ bs ++ r.raw.drop (o + bs.length)).take 48 }) s

/-- GO moves a slot to QUEUED (R356); a function in a deeper power state wakes (R368). -/
def slotGo (func slot : Nat) (s : State) : State :=
  let k := taskKey func slot
  let s1 := modSlotRegs k (fun r => { r with state := 1, code := 0, nvstat := 0, bytes := 0, errSeq := 0 }) s
  let cmd := TaskCmd.parse (slotRegs k s).raw
  let s2 := modSb (fun b => { b with tasks := tset b.tasks k (Task.fresh cmd b.order), order := b.order + 1 }) s1
  if (sbFunc func s).sps = 0 then s2 else modSbFunc func (fun x => { x with waking := true }) s2

/-- The bytes of a slot that must be zero: CTLF [7:4], bytes 36 to 47, CTL [31:1]. -/
def slotZero (o : Nat) (bs : List Byte) : Bool :=
  bs.zipIdx.any (fun e =>
    let a := o + e.2
    (a == 1 && bitsOf 7 4 e.1.toNat != 0) || (decide (36 ≤ a ∧ a < 48) && e.1 != 0) || (a == 60 && decide (e.1.toNat > 1)) ||
    (decide (a > 60) && e.1 != 0))

/-- A write to a slot: its outcome. -/
def slotWrite (func off size v : Nat) (s : State) : WRes :=
  let slot := (off - 0x10000) / 64
  let o := off % 64
  let bs := leBytes size v
  let r := slotRegs (taskKey func slot) s
  let touches := decide (o < 48 ∨ o + size > 60)
  let go := decide (o ≤ 60 ∧ 60 < o + size) && bitOf 0 ((bs.getD (60 - o) 0).toNat)
  if slotZero o bs then .drop 0
  else if (r.state = 1 ∨ r.state = 2) ∧ touches then .drop 1
  else if go && (s.sb.serialMode || disabled 2 s) then .drop 1
  else
    let s1 := if o < 48 then slotPut (taskKey func slot) o bs s else s
    .ok (if go then slotGo func slot s1 else s1)

/-- Does a slot write set GO? -/
def writesGo (off size v : Nat) : Bool :=
  decide (off % 64 ≤ 60 ∧ 60 < off % 64 + size) && bitOf 0 (v / 256 ^ (60 - off % 64))

def slotBusWrite (func off size v : Nat) (s : State) : State :=
  let blk := bkStorage func
  if !sizeOk off size then dropWrite func blk 1 (off - 0x10000) true s
  else if writesGo off size v && !mayAct func s then dropQuiet func s
  else match slotWrite func off size v s with
    | .ok t => t
    | .drop c => dropWrite func blk c (off - 0x10000) true s

/-! ## Effects of register writes -/

/-- Copies every counter of a block to its snapshot copy (R527). -/
def snapBlock (blk : Nat) (s : State) : State :=
  { s with regs := { s.regs with
      snaps := (List.range (counterCount blk)).foldl (fun t c => tset t (blk * 64 + c) (counter blk c s)) s.regs.snaps } }

/-- W1C of an ERRSTAT: VALID clears everything, OVF itself (R525). -/
def errStatWrite (blk v : Nat) (s : State) : State :=
  let e := errStat? blk s
  let g : ErrStat :=
    if bitOf 31 v then { valid := false, ovf := false, cause := 0, offset := 0, door := false }
    else if bitOf 30 v then { e with ovf := false } else e
  { s with regs := { s.regs with err := tset s.regs.err blk g } }

/-- Parses a request header and its payload (Table 16-1). -/
def Req.parse (bs : List Byte) : Req :=
  { opcode := u bs 0 2, flags := u bs 2 1, part := u bs 3 1, tag := u bs 4 2, length := u bs 8 4,
    rsvd := !(zeros ((bs.drop 6).take 2) && zeros ((bs.drop 12).take 20)),
    payload := (bs.drop 32).take (min 4064 (u bs 8 4)) }

/-- GO: the request is copied, the mailbox is BUSY, and the command waits for service (R456). -/
def mboxGo (m : Nat) (s : State) : State :=
  let r := Req.parse (rdMem (spMbox m) 0 4096 s)
  let now := s.chip.lcount
  bump (bkMailbox m) 0 1 (modMbox m (fun x => { x with
    state := 1, tag := r.tag, phase := .waiting, req := some r, resp := none, goAt := now }) s)

/-- MB_CTL: none where VEC or GO is out of range. -/
def mbCtlWrite (m v : Nat) (s : State) : Option State :=
  let x := mbox? m s
  let go := bitOf 0 v
  if bitsOf 26 16 v ≥ vectors (m / 2) ∨ (go = true ∧ x.state = 1) then none
  else
    let s1 := modMbox m (fun x => { x with irq := bitOf 31 v, vec := bitsOf 26 16 v }) s
    some (if go then mboxGo m s1 else s1)

/-- TR_FQHEAD releases consumed records, and records that waited are written (R188, R191). -/
def fqHeadWrite (p v : Nat) (s : State) : Option State :=
  let t := trans? p s
  let k := (v + 4096 - t.head) % 4096
  if !(part? p s).isSome then some s
  else if k > t.unreleased then none
  else some (drainFaults p (waitingCount p s) (modTrans p (fun t => { t with head := v, unreleased := t.unreleased - k }) s))

/-- Answers a fault by its tag (R189). -/
def respond (p tag : Nat) (retry : Bool) (s : State) : State :=
  match s.xl.faults.find? (fun f => f.part == p && f.tag == tag && f.written) with
  | none => if (part? p s).isSome then bump (bkTrans p) 6 1 s else s
  | some f =>
    let s1 := dropFault p tag s
    if retry then runUnit f.xfer [] (modXfer f.xfer (fun x => { x with st := .ready, got := [] }) s1)
    else failUnit f.xfer Config.ccProtection s1

/-- TR_RESPOND: none for an ACTION out of range. -/
def respondWrite (p v : Nat) (s : State) : Option State :=
  let a := bitsOf 17 16 v
  if a = 1 then some (respond p (v % 65536) true s) else if a = 2 then some (respond p (v % 65536) false s) else none

/-- CE_RINGDB: a hint like an SQ doorbell (R411). -/
def ringBell (p v : Nat) (s : State) : Option State :=
  match cring? p s with
  | none => if (part? p s).isSome then none else some s
  | some r =>
    if diff32 v r.di > 2 ^ r.log then none
    else if !aheadOf v r.db then some s
    else some (cipherKick p (modRing p (fun r => { r with db := v, status := 0 }) s))

/-- PP_INJECT: a hint like an SQ doorbell (R346). Nothing is announced while no inject ring is named. -/
def injectBell (v : Nat) (s : State) : State :=
  if s.pp.punt.isNone || !aheadOf v s.pp.injDb then s
  else
    let gaveUp := match s.pp.injLoop with
      | .sleeping t => decide (t > 8)
      | _ => false
    injectKick (modPipe (fun p => { p with injDb := v, injLoop := if gaveUp then .idle else p.injLoop }) s)

/-- A partition's queue block. -/
def queueWrite (p off v : Nat) (s : State) : Option State :=
  let sel := tgetD s.qe.tcsel p 0
  let there := tallyOk p sel s
  if off = 0 then
    if (part? p s).isNone then some s
    else if v < ((part? p s).map Part.tallies).getD 0 then some { s with qe := { s.qe with tcsel := tset s.qe.tcsel p v } }
    else none
  else if off = 8 then some (if there then tallyPut p sel (BitVec.ofNat 64 v) s else s)
  else some (if there then tallyAdd p sel (BitVec.ofNat 64 v) s else s)

/-- A function's device block. -/
def devWrite (f off v : Nat) (s : State) : State :=
  if off = 0x20 then (if bitOf 63 v then { s with regs := { s.regs with badAddr := tdel s.regs.badAddr f } } else s)
  else if off = 0x28 then { s with regs := { s.regs with scratch := tset s.regs.scratch f (BitVec.ofNat 64 v) } }
  else s

/-- What a whole write to a register does, none where a field is out of range. -/
def regEffect (blk off v : Nat) (s : State) : Option State :=
  if off = 0x3F08 then some (errStatWrite blk v s)
  else if off = 0x3F00 then some (if bitOf 0 v then snapBlock blk s else s)
  else if 0x2000 ≤ blk then some (devWrite (blk - 0x2000) off v s)
  else if 0x1000 ≤ blk then (if off = 0x2000 then mbCtlWrite (blk - 0x1000) v s else some s)
  else if blk = bkReset ∧ off = 0 then
    some { s with chip := { s.chip with cause := s.chip.cause - (s.chip.cause &&& (v % 512)) } }
  else if isBk blk 0x80 64 then
    (if off = 0 then fqHeadWrite (blk - 0x80) v s
     else if off = 8 then some (if bitOf 31 v then modTrans (blk - 0x80) (fun t => { t with ovf := false }) s else s)
     else if off = 0x10 then respondWrite (blk - 0x80) v s else some s)
  else if isBk blk 0xC0 64 ∧ off ≤ 0x10 then queueWrite (blk - 0xC0) off v s
  else if isBk blk 0x100 64 ∧ off = 0 then ringBell (blk - 0x100) v s
  else if blk = bkPipe 0 ∧ off = 0x18 then some (injectBell v s)
  else some s

/-! ## Writes in the views (R519 to R525) -/

/-- A write through the normal view to the 4 or 8 bytes that a register, or a half of one, has. -/
def normalWrite (blk off : Nat) (wide : Bool) (v : Nat) (s : State) : WRes :=
  match (if wide then (regAt blk off s).map (fun r => (r, false)) else wordAt blk off s) with
  | none => .drop 2
  | some (r, upper) =>
    let full := wide == r.wide && !upper
    let bits := if upper then v * 2 ^ 32 else v
    if bits &&& r.rsv ≠ 0 then .drop 0
    else if !full then (if r.rw ≠ 0 ∨ r.wo ≠ 0 ∨ r.wc ≠ 0 then .drop 1 else .ok s)
    else match regEffect blk off v s with
      | some t => .ok t
      | none => .drop 1

/-- New value of the RW bits by view 1 set, 2 clear, 3 toggle (R520). -/
def aliasValue (view v : Nat) (r : Reg) : Nat :=
  let old := r.val &&& r.rw
  let w := v &&& r.rw
  if view = 1 then old ||| w else if view = 2 then old - (old &&& w) else old ^^^ w

/-- A write through an alias. -/
def aliasWrite (view blk off : Nat) (wide : Bool) (v : Nat) (s : State) : WRes :=
  match wordAt blk off s with
  | none => .drop 2
  | some (r, upper) =>
    if r.rw = 0 then .drop 2
    else
      let bits := if upper then v * 2 ^ 32 else v
      if bits &&& r.rsv ≠ 0 then .drop 0
      else if wide != r.wide || upper then .drop 1
      else match regEffect blk off (aliasValue view v r) s with
        | some t => .ok t
        | none => .drop 1

/-- One register's width of a write in any view. -/
def viewWrite (blk off : Nat) (wide : Bool) (v : Nat) (s : State) : WRes :=
  let o := off % 0x4000
  if off < 0x4000 then normalWrite blk o wide v s else aliasWrite (off / 0x4000) blk o wide v s

/-- A write to a mailbox's areas: the request area while it is not BUSY; the response area ignores it (R453, R456). -/
def areaWrite (blk off size v : Nat) (s : State) : WRes :=
  let m := blk - 0x1000
  if off ≥ 0x1000 then .ok s
  else if (mbox? m s).state = 1 then .drop 1
  else .ok (wrMem (spMbox m) off (leBytes size v) s)

/-- Is the register at an offset in any view 8 bytes wide? -/
def isWide (blk off : Nat) (s : State) : Bool := (regAt blk (off % 0x4000) s).any (fun r => r.wide)

/-- An aligned write of 4 or 8 bytes to a block; over two registers both halves are checked, and the write is dropped whole
if one is (R522). -/
def blockWrite (blk off size v : Nat) (s : State) : WRes :=
  if inMboxArea blk off then areaWrite blk off size v s
  else if size = 4 then viewWrite blk off false (v % 2 ^ 32) s
  else if isWide blk off s then viewWrite blk off true v s
  else match viewWrite blk off false (v % 2 ^ 32) s with
    | .drop c => .drop c
    | .ok t => viewWrite blk (off + 4) false (v / 2 ^ 32) t

/-- Records the first host access of a function to a location that holds no register (R532). -/
def recBadAddr (func off : Nat) (write bar2 : Bool) (s : State) : State :=
  if (tget s.regs.badAddr func).isSome then s
  else { s with regs := { s.regs with
      badAddr := tset s.regs.badAddr func { valid := true, write := write, bar2 := bar2, offset := off % 2 ^ 32 } } }

/-- A host write of a BAR0 location. -/
def bar0Write (func off size v : Nat) (s : State) : State :=
  if off ≥ bar0Size func s then emit (.aer func .advisory) (recBadAddr func off true false s)
  else match blockAt func off s with
    | none => emit (.aer func .advisory) (recBadAddr func off true false s)
    | some blk =>
      let o := off % 65536
      let quiet := (isBk blk 0x100 64 && o == 0) || (blk == bkPipe 0 && o == 0x18)
      if unlocated func 0 off s then dropWrite func blk 2 o false (recBadAddr func off true false s)
      else if !sizeOk off size then dropWrite func blk 1 o false s
      else if quiet && !mayAct func s then dropQuiet func s
      else match blockWrite blk o size v s with
        | .ok t => t
        | .drop c => dropWrite func blk c o false (if c = 2 then recBadAddr func off true false s else s)

/-- A host write of a BAR2 location. -/
def bar2Write (func off size v : Nat) (s : State) : State :=
  if isSlot off then slotBusWrite func off size v s
  else if isDoor (off / 8 * 8) then bellWrite func off size v s
  else emit (.aer func .advisory) (recBadAddr func off true true s)

/-- Does a function's BAR decode: the physical function's, and a virtual one's while SR-IOV enables it? -/
def decodes (func : Nat) (s : State) : Bool := func == 0 || (decide (func < 256) && s.ep.vfEnable)

/-- A processor's write to its register window; a bus error is an exception with cause PROT_ADDR (R523, R531). -/
def procWrite (p off size v : Nat) (s : State) : Option State :=
  if !sizeOk off size || decide (off ≥ bar0Size 0 s) then none
  else match pfBlock (off / 65536) with
    | none => none
    | some blk =>
      if !procOwns p blk s then none
      else match blockWrite blk (off % 65536) size v s with
        | .ok t => some t
        | .drop 2 => none
        | .drop c => some (logDrop blk c (off % 65536) false s)

/-- A host write to the MSI-X table that masks a vector: bit 0 of the vector control word at offset 12 of its entry (R432). -/
def maskWrite (func off v : Nat) (s : State) : State :=
  if off % 16 = 12 ∧ off / 16 < vectors func ∧ bitOf 0 v then
    modFunc func (fun g => { g with unmasked := g.unmasked.filter (· != off / 16) }) s
  else s

/-- A write access (R7, R41, R431, R519 to R526). During a reset host writes are dropped (R488). -/
def regWrite (w : RegWrite) (s : State) : State :=
  match w.agent with
  | .host f =>
    let s1 := hostStores w.stores s
    if s.chip.asserted.isSome ∨ !decodes f s then s1
    else if w.bar = 0 then bar0Write f w.offset w.size w.value.toNat s1
    else if w.bar = 2 then bar2Write f w.offset w.size w.value.toNat s1
    else if w.bar = 4 then maskWrite f w.offset w.value.toNat s1
    else s1
  | .proc p =>
    match procWrite p w.offset w.size w.value.toNat s with
    | some t => t
    | none => procCrash p 1 excProtAddr s

/-- The block and the offset in it that a write reaches in BAR0. -/
def writeTarget (w : RegWrite) (s : State) : Option (Nat × Nat) :=
  match w.agent with
  | .host f => if w.bar = 0 then (blockAt f w.offset s).map (fun b => (b, w.offset % 65536)) else none
  | .proc _ => (pfBlock (w.offset / 65536)).map (fun b => (b, w.offset % 65536))

/-- Does a write reach a register, at an offset of a block that a predicate names, in the normal view or an alias? -/
def reaches (f : Nat → Nat → Bool) (w : RegWrite) (s : State) : Bool :=
  (writeTarget w s).any (fun e => f e.1 (e.2 % 0x4000))

end Sys2Proof.Machine
end

