-- ==== Sys2Proof/Machine/FwExec.lean ====
section
/-! DEFINITION. Derusk-S on the firmware processors (R138, R139, R460) and the bundle commands. -/

namespace Sys2Proof.Machine

open Sys2Proof

/-! ## Data space (Table 16-4) -/

/-- The local RAM or firmware data place of a range of a processor's data space. -/
def fwPlace (p ea n : Nat) : Option Place :=
  if ea + n ≤ fwRamBytes p then some ⟨spFwRam p, ea⟩
  else if 0x10000000 ≤ ea ∧ ea + n ≤ 0x10000000 + (if p ≥ 3 then 2 ^ 23 else 2 ^ 25) then
    let q := fwDataAt (ea - 0x10000000 + (if p ≥ 3 then (p - 3) / 4 * 2 ^ 23 else 0))
    some ⟨q.1, q.2⟩
  else none

/-- An address of the register window. -/
def fwReg (ea n : Nat) : Bool := decide (0x20000000 ≤ ea ∧ ea + n ≤ 0x30000000)

/-- Cause of an access of `n` bytes: PROT_ADDR outside the data space and for a register access that ends in a bus error
(R460, R523, R531). -/
def fwCause (p ea n : Nat) (store : Option Nat) (s : State) : Nat :=
  if (fwPlace p ea n).isSome then (if ea % n ≠ 0 then excMisalign else 0)
  else if fwReg ea n then
    if ea % n ≠ 0 then excMisalign
    else match store with
      | some v => if (procWrite p (ea - 0x20000000) n v s).isNone then excProtAddr else 0
      | none => if (procRead p (ea - 0x20000000) n s).isNone then excProtAddr else 0
  else excProtAddr

/-- Bytes of the data space, as the bundle finds them. -/
def fwBytes (p ea n : Nat) (s : State) : List Byte :=
  match fwPlace p ea n with
  | some q => rdMem q.space q.addr n s
  | none => leBytes n ((procRead p (ea - 0x20000000) n s).getD 0)

/-! ## Slots -/

/-- The A slot. -/
def fwA (p : Nat) (x : CoreRegs) (w : Nat) (s : State) (a : Plan) : Plan :=
  let d := if bitOf 23 w then 1 else 0
  if sylOp w = 11 ∨ sylOp w = 12 then
    let ea := aAddr w x.ix.toNat x.iy.toNat
    let v := if d = 1 then x.iy.toNat else x.ix.toNat
    let c := fwCause p ea 4 (if sylOp w = 12 then some v else none) s
    if c ≠ 0 then a.fault 1 c
    else if sylOp w = 11 then { a with reads := a.reads ++ [(ea, 4)], upd := a.upd ++ [(d, leNat (fwBytes p ea 4 s))] }
    else { a with stores := a.stores ++ [(ea, leBytes 4 v)] }
  else { a with upd := a.upd ++ [(d, aluOf w x.ix.toNat x.iy.toNat)] }

/-- The L slot, with the line it reads. A register block gives no line: the access ends in a bus error. -/
def fwL (p : Nat) (x : CoreRegs) (w : Nat) (s : State) (a : Plan) : List Byte × Plan :=
  let ea := specAddr w x.ix.toNat x.iy.toNat
  let c := fwCause p ea 64 none s
  if c ≠ 0 then ([], a.fault 2 c)
  else (fwBytes p ea 64 s, { a with reads := a.reads ++ [(ea, 64)], upd := a.upd ++ specUpdate w x.ix.toNat x.iy.toNat })

/-- Directions and widths of a processor's ports (Table 16-5). -/
def fwPortHas (out line : Bool) (port : Nat) : Bool :=
  match out, line with
  | false, true => port == 0x31
  | false, false => [0x10, 0x11, 0x40, 0x50].contains port
  | true, true => port == 0x00 || port == 0x30
  | true, false => port == 0x20

/-- A request waits that the processor serves (MBX_NEXT). -/
def mbxWaits (p : Nat) (s : State) : Bool :=
  s.mb.any (fun e => e.2.phase == .waiting && (e.2.req.any (fun r => serveProc r.opcode s == p)))

/-- Value of an IN port. Where a request's firmware-data address is asked for, the spec leaves it open (log 8). -/
def fwIn (p port : Nat) (s : State) : Nat :=
  match port with
  | 0x10 => s.chip.lcount % 2 ^ 32
  | 0x11 => (proc? p s).lcnth.toNat
  | 0x40 => if mbxWaits p s then (draw s).1.toNat % 2 ^ 32 else 0
  | _ => p

/-- The X slot, with the line an IN reads. -/
def fwX (p : Nat) (w : Nat) (line : List Byte) (s : State) (a : Plan) : List Byte × Plan :=
  let port := xPort w
  if !fwPortHas (xOut w) (xKind w == 0) port then ([], a.fault 6 excIoPort)
  else if xOut w then ([], { a with pushes := a.pushes ++ [(port, line)] })
  else if port = 0x31 then
    match (proc? p s).inbox with
    | [] => ([], a.wait .input)
    | l :: _ => (l, { a with pops := a.pops ++ [port] })
  else ([], { a with pops := a.pops ++ [port], upd := a.upd ++ [(if xKind w = 1 then 0 else 1, fwIn p port s)] })

/-- The S slot: STL and STX (R138). -/
def fwS (p : Nat) (x : CoreRegs) (w : Nat) (lline xline : List Byte) (s : State) (a : Plan) : Plan :=
  let ea := specAddr w x.ix.toNat x.iy.toNat
  let c := fwCause p ea 64 (some 0) s
  if c ≠ 0 then a.fault 5 c
  else { a with
    upd := a.upd ++ specUpdate w x.ix.toNat x.iy.toNat, stores := a.stores ++ [(ea, if sylOp w = 1 then lline else xline)] }

/-- All slots of a bundle on the state before it (R116). -/
def fwEval (p : Nat) (x : CoreRegs) (b : List Nat) (s : State) : Plan :=
  let p1 := match slotOf b 1 with
    | some w => fwA p x w s Plan.empty
    | none => Plan.empty
  let l := match slotOf b 2 with
    | some w => fwL p x w s p1
    | none => ([], p1)
  let xr := match slotOf b 6 with
    | some w => fwX p w l.1 s l.2
    | none => ([], l.2)
  match slotOf b 5 with
  | some w => fwS p x w l.1 xr.1 s xr.2
  | none => xr.2

/-! ## Effects -/

/-- EVT_PUT: the record at the front of the line, of 8 to 64 bytes by its own length field (log 52). -/
def evtPut (line : List Byte) (s : State) : State :=
  let n := 8 * leNat ((line.drop 2).take 1)
  if n = 0 ∨ n > 64 then s else eventRaw (leNat (line.take 2)) (leNat ((line.drop 3).take 1) % 4) (line.take n) s

/-- What an OUT does. -/
def fwOut (port : Nat) (line : List Byte) (s : State) : State :=
  match port with
  | 0x00 => evtPut line s
  | 0x30 =>
    let q := leNat (line.take 1)
    if q ≤ 18 then modProc q (fun x => { x with inbox := x.inbox ++ [line] }) s else s
  | _ => s

/-- What an IN does besides giving its value. -/
def fwTake (p port : Nat) (s : State) : State :=
  match port with
  | 0x10 => modProc p (fun x => { x with lcnth := BitVec.ofNat 32 (s.chip.lcount / 2 ^ 32) }) s
  | 0x31 => modProc p (fun x => { x with inbox := x.inbox.tail }) s
  | 0x40 => if mbxWaits p s then (draw s).2 else s
  | _ => s

/-- Touches what the bundle reads, with the findings of the error code (R155). -/
def fwTouch (p : Nat) (ecc : List EccHit) : List (Nat × Nat) → State → Option Block × State
  | [], s => (none, s)
  | (a, n) :: r, s =>
    match fwPlace p a n with
    | none => fwTouch p ecc r s
    | some q =>
      match readSpan 0xFF ecc (lineFuel n) q n s with
      | .stop b u => (some b, u)
      | .ok _ u => fwTouch p ecc r u

/-- One store of a bundle. -/
def fwPut (p ea : Nat) (bs : List Byte) (s : State) : State :=
  match fwPlace p ea bs.length with
  | some q => wrMem q.space q.addr bs s
  | none => (procWrite p (ea - 0x20000000) bs.length (leNat bs) s).getD s

/-- One register update. -/
def fwUpd (x : CoreRegs) (u : Nat × Nat) : CoreRegs :=
  if u.1 = 0 then { x with ix := BitVec.ofNat 32 u.2 } else { x with iy := BitVec.ofNat 32 u.2 }

/-- The registers after a bundle. -/
def fwRegs (a : Plan) (f : Flow) (halt : Bool) (x : CoreRegs) : CoreRegs :=
  let y := a.upd.foldl fwUpd x
  { y with pc := f.pc, rstack := f.rstack, waiting := false, halted := halt }

/-- All effects of a bundle at once. A read that finds an uncorrectable codeword stops the processor (log 53). -/
def fwCommit (p : Nat) (ecc : List EccHit) (a : Plan) (f : Flow) (halt : Bool) (s : State) : State :=
  match fwTouch p ecc a.reads s with
  | (some (.fail _), u) => procCrash p 3 0 u
  | (some (.hold _), _) => modProc p (fun x => { x with core := { x.core with waiting := true } }) s
  | (none, s1) =>
    let s2 := modProc p (fun x => { x with core := fwRegs a f halt x.core }) s1
    let s3 := a.pops.foldl (fun u k => fwTake p k u) s2
    let s4 := a.stores.foldl (fun u e => fwPut p e.1 e.2 u) s3
    a.pushes.foldl (fun u e => fwOut e.1 e.2 u) s4

/-- Decodes and issues the bundle at a processor's PC, or finds why it waits whole. An exception stops the processor (R139). -/
def fwRun (p : Nat) (ecc : List EccHit) (s : State) : State :=
  let x := (proc? p s).core
  let b := fetchBundle (fun i => leNat (rdMem (spFwImem p) (4 * i) 4 s)) 262143 8 x.pc
  let c := bundleCause true b
  if c ≠ 0 then procCrash p 1 c s
  else
    let f := flowOf 16 262143 x.pc b.length x.ix.toNat x.iy.toNat x.rstack (slotOf b 0)
    let a := fwEval p x b s
    let exc := (if f.exc ≠ 0 then [(0, f.exc)] else []) ++ a.exc
    if !exc.isEmpty then procCrash p 1 (firstCause exc) s
    else if a.stall.isSome then modProc p (fun x => { x with core := { x.core with waiting := true } }) s
    else fwCommit p ecc a f ((slotOf b 0).any (fun w => sylOp w == 10)) s

/-- A processor issues bundles while it runs; in recovery the security core alone runs (R418). -/
def fwIssues (p : Nat) (s : State) : Bool :=
  decide (p ≤ 18) && procUp p s && !(proc? p s).core.halted && (p == 0 || !s.chip.recovery)

/-- One bundle of a processor: a new one, or one that waited (`again`). -/
def fwBundle (again : Bool) (p : Nat) (ecc : List EccHit) (s : State) : State :=
  if fwIssues p s && (proc? p s).core.waiting == again then fwRun p ecc s else s

/-- One bundle of a core. -/
def coreBundle (again : Bool) (core : Core) (ecc : List EccHit) (s : State) : State :=
  match core with
  | .tile t => tileBundle again t ecc s
  | .proc p => fwBundle again p ecc s

def execBundleIssue (core : Core) (ecc : List EccHit) (s : State) : Host.Outcome State Fault Refusal :=
  done (coreBundle false core ecc s)

def execBundleResume (core : Core) (ecc : List EccHit) (s : State) : Host.Outcome State Fault Refusal :=
  done (coreBundle true core ecc s)

end Sys2Proof.Machine
end

