-- ==== Sys2Proof/Machine/HostCmds.lean ====
section
/-! DEFINITION. Functions (15): their readback, service states and quiesces, local resets, MSI-X and configuration space. -/

namespace Sys2Proof.Machine

open Sys2Proof

/-! ## MSI-X (R432) -/

/-- The messages that pended of unmasked vectors are sent once the function is able to send. -/
def sendPending (f : Nat) (s : State) : State :=
  let g := func? f s
  if canSend f s then
    let now := g.pendingBits.filter (fun v => g.unmasked.contains v)
    let s1 := modFunc f (fun g => { g with pendingBits := g.pendingBits.filter (fun v => !g.unmasked.contains v) }) s
    now.foldl (fun t v => emit (.msix f v) (bump (bkHost f) 6 1 t)) s1
  else s

def execMsixUnmask (func vec : Nat) (s : State) : Host.Outcome State Fault Refusal :=
  .next (if vec < vectors func then
      sendPending func (modFunc func (fun g => { g with unmasked := if g.unmasked.contains vec then g.unmasked else g.unmasked ++ [vec] }) s)
    else s)

/-! ## Quiesce (R441) -/

/-- A QUEUED command completes with 0x07 without a log entry and without freezing the queue. -/
def dropTask (k : Nat) (s : State) : State :=
  match task? k s with
  | none => s
  | some t =>
    let f := taskFunc k
    let s1 := sbCount k 0 1 (sbCount k 1 1 (modSb (fun b => { b with tasks := tdel b.tasks k }) s))
    let s2 := modSlotRegs k (fun g => { g with state := 3, code := Config.ccFlushed, nvstat := 0, bytes := 0, errSeq := 0 }) s1
    let s3 := tallyAdd (funcPart f s2) t.cmd.tally 1 s2
    if bitOf 3 t.cmd.ctlf.toNat then msix f t.cmd.vec s3 else s3

/-- Steps 1 and 2 of a quiesce with its cause, and the state that follows it. -/
def beginQuiesce (f cause : Nat) (after : FState) (flr reset : Bool) (waiter : Option MbRef) (s : State) : State :=
  let s1 := modFunc f (fun g => { g with
    fstate := .quiescing, qcause := cause, after := after, flr := flr, resetAtEnd := reset, overdue := false, waiters := waiter.toList }) s
  (queuedOf f s1).foldl (fun t k => dropTask k t) s1

/-- Every virtual function quiesces toward DISABLED, and its local state is reset at the end (R444, R445). -/
def quiesceVfs (s : State) : State :=
  ((List.range 256).drop 1).foldl (fun t f =>
    match (func? f t).fstate with
    | .enabled => beginQuiesce f 3 .disabled false true none t
    | .quiescing => modFunc f (fun g => { g with after := .disabled, resetAtEnd := true }) t
    | .disabled => t) { s with ep := { s.ep with vfEnable := false } }

/-- Registers of the blocks that a predicate does not name. -/
def dropCounters (p : Nat → Bool) (r : Regs) : Regs := { r with counters := r.counters.filter (fun e => !p (e.1 / 64)) }
def dropBlocks (p : Nat → Bool) (r : Regs) : Regs :=
  { dropCounters p r with snaps := r.snaps.filter (fun e => !p (e.1 / 64)), err := r.err.filter (fun e => !p e.1) }

/-- A mailbox block at its reset values, its areas zero. -/
def freshMbox (m : Nat) (s : State) : State :=
  { s with
    mb := tset s.mb m (Mailbox.fresh ((mbox? m s).gen + 1)),
    mem := s.mem.filter (fun c => c.1 / spaceSize != spMbox m),
    regs := dropBlocks (fun b => b == bkMailbox m) s.regs }

/-- Resets the function-local state of Table 15-5 (R444): for FUNC_ASSIGN all but configuration space. -/
def resetLocal (f : Nat) (config : Bool) (s : State) : State :=
  let s1 := freshMbox (mbIx f true) (freshMbox (mbIx f false) s)
  let s2 := modFunc f (fun g => { g with unmasked := [], pendingBits := [] }) s1
  let s3 := modSb (fun b => { b with slots := b.slots.filter (fun e => taskFunc e.1 != f) })
    (modSbFunc f (fun x => { x with frozen := false, log := [], lost := 0, sps := 0, waking := false }) s2)
  let s4 := { s3 with regs := dropCounters (fun b => b == bkHost f) s3.regs }
  if config then
    let s5 := modFunc f (fun g => { g with d3 := false, bme := false, tenBit := false, cto := 0 })
      { s4 with regs := { s4.regs with scratch := tdel s4.regs.scratch f } }
    if f = 0 then
      let s6 := { s5 with ep := { s5.ep with mrrs := 2 } }
      if s6.ep.vfEnable then quiesceVfs s6 else s6
    else s5
  else s4

/-- A request of the function to the host is outstanding. -/
def outstandingAt (f : Nat) (s : State) : Bool := s.xl.hreqs.any (fun e => e.2.func == f) || s.xl.walks.any (fun e => e.2.func == f)

/-- Steps 3 and 4 are over: commands have ended, and nothing is outstanding at the host. -/
def quiesced (f : Nat) (s : State) : Bool :=
  let mbIdle := fun (m : Nat) => (mbox? m s).phase == .idle
  !outstandingAt f s && ((func? f s).overdue ||
    (mbIdle (mbIx f false) && mbIdle (mbIx f true) && !s.sb.tasks.any (fun e => decide (e.1 < serialKey) && taskFunc e.1 == f)))

/-- A command whose response has not been written writes none (R441). -/
def abandonUnwritten (m : Nat) (s : State) : State := if (mbox? m s).phase = .idle then s else abandonMbox m s

/-- The end of a quiesce: pending bits clear, what it resets is reset, and who waits for it is answered. -/
def endQuiesce (f : Nat) (s : State) : State :=
  let g := func? f s
  let s1 := abandonUnwritten (mbIx f true) (abandonUnwritten (mbIx f false) s)
  let s2 := modFunc f (fun g => { g with
    fstate := g.after, flr := false, resetAtEnd := false, overdue := false, waiters := [], pendingBits := [] }) s1
  let s3 := if g.flr || g.resetAtEnd then resetLocal f true s2 else s2
  let s4 := if f = 0 ∧ s3.ep.hotReset then { s3 with ep := { s3.ep with hotReset := false, rrs := false, mps := 0 } } else s3
  let s5 := g.waiters.foldl (fun t m => finish m Config.ok Body.empty t) s4
  if g.flr then emit (.flrDone f) s5 else s5

def execQuiesceEnd (func : Nat) (s : State) : Host.Outcome State Fault Refusal :=
  if (func? func s).fstate = .quiescing ∧ quiesced func s = true then done (endQuiesce func s) else .next s

/-- A transfer has a host request under a function, or waits for one. -/
def underFunc (f : Nat) (s : State) (x : Xfer) : Bool :=
  x.hpieces.any (fun p => (tget s.xl.hreqs p.1).any (fun r => r.func == f)) || x.zneed.contains f ||
  x.zwait.any (fun t => (tget s.xl.hreqs t).any (fun r => r.func == f)) || x.todo.any (fun c => c.host && c.unit == f) ||
  x.st == .held (.func f)

/-- Every operation still running under a function ends with 0x07; its reads are abandoned (R441). -/
def endUnder (f : Nat) (s : State) : State :=
  let xs := tkeys (s.xl.xfers.filter (fun e => underFunc f s e.2))
  let ws := s.xl.walks.filter (fun e => e.2.func == f)
  let s1 := modFunc f (fun g => { g with overdue := true }) s
  let s2 := xs.foldl (fun t x => endXfer x Config.ccFlushed t) { s1 with xl := { s1.xl with hreqs := s1.xl.hreqs.filter (fun e => e.2.func != f) } }
  let s3 := ws.foldl (fun (t : State) (e : Nat × Walk) => endWalk e.1 e.2 (fun x _ u => endXfer x Config.ccFlushed u) t) s2
  let ks := tkeys (s3.sb.tasks.filter (fun e => decide (e.1 < serialKey) && taskFunc e.1 == f))
  pumpWaiting (ks.foldl (fun t k => closeTask k Config.ccFlushed 0 t) s3)

def execQuiesceTimeout (func : Nat) (s : State) : Host.Outcome State Fault Refusal :=
  if (func? func s).fstate = .quiescing ∧ (func? func s).overdue = false then done (endUnder func s) else .next s

/-! ## Resets seen from the host (R443 to R445) -/

def execFlr (func : Nat) (s : State) : Host.Outcome State Fault Refusal :=
  match (func? func s).fstate with
  | .disabled => done (emit (.flrDone func) (resetLocal func true s))
  | .quiescing => .next (modFunc func (fun g => { g with flr := true }) s)
  | .enabled => done (beginQuiesce func 2 .enabled true false none s)

def execVfEnableClear (s : State) : Host.Outcome State Fault Refusal := done (if s.ep.vfEnable then quiesceVfs s else s)

/-- `down`: the link went down. -/
def execHotReset (down : Bool) (s : State) : Host.Outcome State Fault Refusal :=
  if s.chip.asserted.isSome then .next s
  else
    let s1 := quiesceVfs s
    let s2 := if (func? 0 s1).fstate = .enabled then beginQuiesce 0 3 .enabled false true none s1
      else modFunc 0 (fun g => { g with resetAtEnd := true }) s1
    done { s2 with ep := { s2.ep with
      hotReset := true, rrs := true, speed := if down then 0 else s2.ep.speed, width := if down then 0 else s2.ep.width,
      flit := !down && s2.ep.flit } }

/-! ## Configuration space (R429, R430, R435, R439) -/

/-- Sizes of a resizable BAR: 0 and 2 of the physical function, 9 the virtual functions' BAR2 (Table 15-2). -/
def barSized (bar mib : Nat) (e : Endpoint) : Endpoint :=
  let pow := (List.range 9).any (fun k => 2 ^ k == mib)
  if bar = 0 then (if mib = 64 ∨ mib = 128 ∨ mib = 256 then { e with bar0Mib := mib } else e)
  else if bar = 2 then (if pow then { e with bar2Mib := mib } else e)
  else if bar = 9 then (if pow then { e with vfBar2Mib := mib } else e)
  else e

/-- What waited for a function to be able to send goes on. -/
def nowSends (f : Nat) (s : State) : State := sendPending f (functionSends f s)

/-- The values in force are the physical function's; a virtual function's own have no effect (R435). -/
def execConfigurationWrite (func : Nat) (ch : CfgChange) (s : State) : Host.Outcome State Fault Refusal :=
  match ch with
  | .busMaster on => done (nowSends func (modFunc func (fun g => { g with bme := on }) s))
  | .dState d3 => done (nowSends func (modFunc func (fun g => { g with d3 := d3 }) s))
  | .vfEnable => .next (if func = 0 then { s with ep := { s.ep with vfEnable := true } } else s)
  | .maxPayload code => .next (if func = 0 ∧ code ≤ 2 then { s with ep := { s.ep with mps := code } } else s)
  | .maxReadReq code => .next (if func = 0 ∧ code ≤ 5 then { s with ep := { s.ep with mrrs := code } } else s)
  | .tenBitTags on => done (pumpWaiting (modFunc func (fun g => { g with tenBit := on }) s))
  | .barSize bar mib => .next (if func = 0 then { s with ep := barSized bar mib s.ep } else s)
  | .completionTimeout code => .next (modFunc func (fun g => { g with cto := code }) s)

/-! ## Function opcodes (R442, R450, R451) -/

def FState.code : FState → Nat
  | .disabled => 0
  | .enabled => 1
  | .quiescing => 2

/-- Service state, partition, quiesce cause, D-state, Bus Master Enable, BAR sizes in MiB, and the unmasked vectors. -/
def funcRow (f : Nat) (s : State) : List Nat :=
  let g := func? f s
  let b0 := if f = 0 then s.ep.bar0Mib else 1
  let b2 := if f = 0 then s.ep.bar2Mib else s.ep.vfBar2Mib
  [f, g.fstate.code, g.part, g.qcause, g.d3.toNat, g.bme.toNat, b0, b2] ++ g.unmasked

def execReadFunctions (c : Call) (cursor : Nat) (s : State) : Host.Outcome State Fault Refusal :=
  .next (serveRead c 0x2011 cursor (fun _ t =>
    ((List.range 256).filter (fun f => c.func == 0 || f == c.func)).map (fun f => funcRow f t)) s)

/-- A virtual function of a number. -/
def vfOk (f : Nat) : Bool := decide (1 ≤ f ∧ f < 256)

/-- Namespaces attached to a function are detached (R444). -/
def detachAll (f : Nat) (s : State) : State :=
  modSb (fun b => { b with nss := b.nss.map (fun (e : Nat × Ns) => (e.1, { e.2 with attached := e.2.attached.filter (· != f) })) }) s

def execFuncAssign (c : Call) (func : Nat) (s : State) : Host.Outcome State Fault Refusal :=
  .next (serve c 0x2020 (fun r t =>
    if !vfOk func then .reject Config.badValue
    else match (func? func t).fstate with
      | .quiescing => .reject Config.quiescing
      | .enabled => .reject Config.wrongState
      | .disabled => .ok (modFunc func (fun g => { g with part := r.part }) (detachAll func (resetLocal func false t))) Body.empty) s)

def execFuncEnable (c : Call) (func : Nat) (s : State) : Host.Outcome State Fault Refusal :=
  done (serve c 0x2021 (fun _ t =>
    if !vfOk func then .reject Config.badValue
    else match (func? func t).fstate with
      | .quiescing => .reject Config.quiescing
      | .enabled => .reject Config.wrongState
      | .disabled =>
        if partLive (funcPart func t) t then .ok (nowSends func (modFunc func (fun g => { g with fstate := .enabled }) t)) Body.empty
        else .reject Config.wrongState) s)

def execFuncDisable (c : Call) (func : Nat) (s : State) : Host.Outcome State Fault Refusal :=
  done (serve c 0x2022 (fun _ t =>
    let g := func? func t
    if !vfOk func then .reject Config.badValue
    else match g.fstate with
      | .disabled => .reject Config.wrongState
      | .enabled => .later (beginQuiesce func 1 .disabled false false (some (callRef c t)) t) true
      | .quiescing =>
        if g.after = .enabled then
          .later (modFunc func (fun g => { g with after := .disabled, waiters := g.waiters ++ [callRef c t] }) t) true
        else .reject Config.quiescing) s)

end Sys2Proof.Machine
end

