-- ==== Sys2Proof/Machine/LinkEvents.lean ====
section
/-! DEFINITION. Events of the Jodaul links and gangs: training, frames, retry, re-forms, responses (07). -/

namespace Sys2Proof.Machine

open Sys2Proof

/-! ## Gangs that form, re-form and go down (R210 to R213) -/

/-- Gang of a link. -/
def gangOf (n : Nat) (s : State) : Option (Nat × Gang) := ((link? n s).gang).bind (fun i => (gang? i s).map (fun g => (i, g)))

/-- Is a link an ACTIVE member? -/
def linkUp (n : Nat) (s : State) : Bool := (link? n s).lstate == .active

/-- The lowest-numbered free spare of a gang. -/
def freeSpare (g : Gang) (s : State) : Option Nat :=
  (g.spares.filter (fun n => (link? n s).lstate == .spare)).foldl (fun (a : Option Nat) n => some (match a with
    | some m => min m n
    | none => n)) none

/-- A transfer has data under way, or still to be sent, over a gang. -/
def onGang (gi : Nat) (f : Xfer) : Bool :=
  f.jpieces.any (fun p => p.1 / 65536 == gi) || f.todo.any (fun c => !c.host && c.unit == gi)

/-- The gang is DOWN: every operation waiting on it ends with 0x09, and the manager is told (R213). -/
def gangDown (gi : Nat) (s : State) : State :=
  let s1 := modGang gi (fun g => { g with
    gstate := .down, sendq := [], rxq := [], rxPart := [], kept := [], resend := [], reforms := 0 }) s
  let s2 := (tkeys (s1.xl.xfers.filter (fun e => onGang gi e.2))).foldl (failGangParts gi Config.ccFenced) s1
  event 0xC1 2 2 0xFF [BitVec.ofNat 8 gi, 0, 0, 0] s2

/-- Oldest gang frame not acknowledged on any member: the restart GPOS. -/
def restartOf (g : Gang) : Nat := ((g.kept.head?).map Unacked.gpos).getD g.gposTx

/-- Sends REFORM on the first member. -/
def sendReform (g : Gang) (s : State) : State :=
  match g.members.head? with
  | some n => sendCtl n (reformBytes g.order g.restart) s
  | none => s

/-- A re-form starts: REFORM announces the new order (R211). -/
def beginReform (gi : Nat) (g : Gang) (order : List Nat) (s : State) : State :=
  let g1 : Gang := { g with order := order, gstate := .reforming, restart := restartOf g, reforms := 1 }
  sendReform g1 (setGang gi g1 s)

/-- What is left on a link that leaves its gang's traffic: its frames are kept by the gang; the credit it owes goes back on
another member. -/
def clearMember (n : Nat) (heir : Option Nat) (s : State) : State :=
  let owed := (link? n s).owed
  let s1 := modLink n (fun l => { l with replay := [], nak := false, owed := [] }) s
  match heir with
  | some m => owed.foldl (fun (t : State) (e : Nat × Nat) => modLink m (fun l => { l with owed := tset l.owed e.1 (tgetD l.owed e.1 0 + e.2) }) t) s1
  | none => s1

/-- A member leaves its position: the lowest-numbered free spare takes it, or the members close up; REFORM announces the new
order. No member left means DOWN (R211). -/
def leaveMember (gi n : Nat) (s : State) : State :=
  match gang? gi s with
  | none => s
  | some g =>
    match g.members.idxOf? n with
    | none => s
    | some pos =>
      let idx := List.range g.members.length
      let sp := freeSpare g s
      let members := match sp with
        | some m => g.members.map (fun k => if k = n then m else k)
        | none => g.members.filter (· != n)
      let order := match sp with
        | some _ => idx
        | none => idx.filter (· != pos)
      let again := (g.gstate == .up || g.gstate == .reforming) && !members.isEmpty
      let count := fun (k : Nat) (t : State) => if again then bump (bkLink k) 3 1 t else t
      let s1 := count n (clearMember n members.head? s)
      let s2 := match sp with
        | some m => count m (modLink m (fun l => { l with lstate := .active }) s1)
        | none => s1
      let spares := match sp with
        | some m => g.spares.filter (· != m)
        | none => g.spares
      let g1 : Gang := { g with members := members, spares := spares, order := order }
      if again then beginReform gi g1 order s2
      else if g.gstate = .down then setGang gi g1 s2
      else if members.isEmpty then gangDown gi (setGang gi g1 s2)
      else setGang gi { g1 with gstate := if members.all (fun k => linkUp k s2) then .up else .forming } s2

/-- A link leaves the lists of its gang. -/
def unlist (gi n : Nat) (s : State) : State :=
  modGang gi (fun g => { g with spares := g.spares.filter (· != n) }) (leaveMember gi n s)

/-- Recalibrates a link that carries no traffic. -/
def recalIdle (n : Nat) (s : State) : State :=
  spareCheck s (modLink n (fun l => { l with lstate := .recal, recalDue := false, recalWait := false }) s)

/-- Links of a gang. -/
def linksOf (gi : Nat) (s : State) : List Nat := tkeys (s.jl.links.filter (fun e => e.2.gang == some gi))

/-- Recalibrates the links whose traffic has left them, unless the gang still re-forms (R201, R212). -/
def startDue (gi : Nat) (s : State) : State :=
  if (gang? gi s).any (fun g => g.gstate == .reforming) then s
  else ((linksOf gi s).filter (fun n => (link? n s).recalDue)).foldl (fun (t : State) (n : Nat) => recalIdle n t) s

/-- A recalibration that a command waits for has ended. -/
def endRecal (n : Nat) (s : State) : State := match (link? n s).recalMb with
  | some r => finish r Config.ok Body.empty (modLink n (fun l => { l with recalMb := none }) s)
  | none => s

/-- A link goes out of service (R211): a member's gang re-forms without it. It is retried as soon as its traffic has left it
where the failure is not that of a training or a recalibration (R201, log 135). -/
def failLink (n : Nat) (s : State) : State :=
  let retry := (link? n s).lstate == .active || (link? n s).lstate == .spare
  let s1 := endRecal n (modLink n (fun l => { l with lstate := .failed, recalWait := false, recalDue := retry, backTo := none }) s)
  match gangOf n s1 with
  | some (gi, _) => spareCheck s (startDue gi (unlist gi n s1))
  | none => s1

/-- Recalibrates a member once its traffic has moved to a spare; without one it waits, or the gang runs one member short until
it comes back (R212). -/
def recalMember (n : Nat) (force : Bool) (s : State) : State :=
  match gangOf n s with
  | none => s
  | some (gi, g) =>
    let spare := (freeSpare g s).isSome
    if spare || force then
      let back := if spare then none else g.members.idxOf? n
      spareCheck s (startDue gi (leaveMember gi n (modLink n (fun l => { l with recalDue := true, recalWait := false, backTo := back }) s)))
    else if (link? n s).recalWait then s
    else bump (bkLink n) 4 1 (modLink n (fun l => { l with recalWait := true }) s)

/-- A member recalibrated with FORCE takes its position again: the gang re-forms with it. In the order it has the number
after those of the others (log 57). -/
def rejoin (gi n pos : Nat) (g : Gang) (s : State) : State :=
  let idx := List.range g.members.length
  let g1 : Gang := { g with members := g.members.take pos ++ [n] ++ g.members.drop pos }
  beginReform gi g1 (idx.take pos ++ [g.members.length] ++ idx.drop pos)
    (bump (bkLink n) 3 1 (modLink n (fun l => { l with lstate := .active, backTo := none }) s))

/-- Takes up a recalibration that waits for a spare of the gang. -/
def recalWaiting (gi : Nat) (s : State) : State :=
  match gang? gi s with
  | none => s
  | some g =>
    match g.members.find? (fun n => (link? n s).recalWait) with
    | some n => recalMember n false s
    | none => s

/-! ## Training (R200, R210) -/

def sendHello (n : Nat) (s : State) : State :=
  match gangOf n s with
  | some (_, g) => sendCtl n (helloBytes s.chip.serial n g.kind) s
  | none => s

def execSignalDetect (link : Nat) (s : State) : Host.Outcome State Fault Refusal :=
  if (link? link s).lstate = .down ∧ (link? link s).gang.isSome ∧ s.pm.tripped = false then
    .next (sendHello link (modLink link (fun l => { l with lstate := .training }) s))
  else .next s

def execHelloResend (link : Nat) (s : State) : Host.Outcome State Fault Refusal :=
  if (link? link s).lstate = .training then .next (sendHello link s) else .next s

/-- Has a link trained, so that its partner is known? -/
def trained (l : Link) : Bool := l.lstate == .active || l.lstate == .spare || l.lstate == .recal

/-- A link whose partner is not that of the first member leaves the gang. -/
def miswire (gi n : Nat) (s : State) : State :=
  modLink n (fun l => { l with gang := none }) (unlist gi n (modLink n (fun l => { l with lstate := .miswired }) s))

/-- A link trains: a member becomes ACTIVE, a spare SPARE. Its SEQ space starts anew. -/
def trainLink (gi : Nat) (g : Gang) (n : Nat) (s : State) : State :=
  let role : LState := if g.members.contains n then .active else .spare
  let s1 := modLink n (fun l => { l with
    lstate := role, trainedAt := s.chip.lcount, seqTx := 0, seqRx := 0, replay := [], nak := false, owed := [] }) s
  let up := g.gstate == .forming && g.members.all (fun k => linkUp k s1)
  recalWaiting gi (pumpGang gi (if up then modGang gi (fun g => { g with gstate := .up }) s1 else s1))

/-- Frames still unacknowledged after an ACK. -/
def ackReplay (ack : Nat) (l : List Unacked) : List Unacked :=
  match l.findIdx? (fun u => u.fr.seq == ack) with
  | some i => l.drop (i + 1)
  | none => l

/-- Frames of a gang from the oldest unacknowledged one on. A re-form under way keeps all from its restart GPOS on (R211). -/
def trimKept (gi : Nat) (s : State) : State :=
  match gang? gi s with
  | none => s
  | some g =>
    let open' := g.members.flatMap (fun n => (link? n s).replay.map Unacked.gpos)
    if g.gstate = .reforming then s
    else match open'.min? with
      | some m => setGang gi { g with kept := g.kept.filter (fun u => decide (m ≤ u.gpos)) } s
      | none => setGang gi { g with kept := [] } s

/-- ACK and CRED of a frame that checks (R203, R205). -/
def takeAck (n ack vc cred : Nat) (s : State) : State :=
  let s1 := modLink n (fun l => { l with replay := ackReplay ack l.replay }) s
  match (link? n s1).gang with
  | some gi => trimKept gi (modGang gi (fun g => { g with spent := tset g.spent vc (tgetD g.spent vc 0 - cred) }) s1)
  | none => s1

/-- ACK and CRED of a LINKCTL frame on an ACTIVE link; what they let go is sent. -/
def takeHead (h : CtlHead) (s : State) : State :=
  if linkUp h.link s then
    let s1 := takeAck h.link h.ack h.credVc h.cred s
    match (link? h.link s1).gang with
    | some gi => pumpGang gi s1
    | none => s1
  else s

/-- HELLO arrives in TRAINING: the partner's identity is taken, and compared with that of the first member (R210). -/
def execHello (h : CtlHead) (m : HelloMsg) (s : State) : Host.Outcome State Fault Refusal :=
  let link := h.link
  match gangOf link s with
  | none => .next s
  | some (gi, g) =>
    if (link? link s).lstate ≠ .training then done (takeHead h s)
    else
      let s1 := modLink link (fun l => { l with pserial := m.serial, plink := m.link % 256 }) s
      let first := g.members.headD link
      if first ≠ link ∧ trained (link? first s1) ∧ (link? first s1).pserial ≠ m.serial then .next (spareCheck s (miswire gi link s1))
      else
        let s2 := trainLink gi g link s1
        let odd := if first = link then
            (g.members ++ g.spares).filter (fun k => k != link && trained (link? k s2) && (link? k s2).pserial != m.serial)
          else []
        .next (spareCheck s (odd.foldl (fun (t : State) (k : Nat) => miswire gi k t) s2))

def execTrainingTimeout (link : Nat) (s : State) : Host.Outcome State Fault Refusal :=
  if (link? link s).lstate = .training then done (failLink link s) else .next s

/-! ## Acknowledgement, credit and retry (R203, R205, R206) -/

/-- Sends again every frame from a SEQ on, in order; a frame already sent eight times fails the link. -/
def replayFrom (n : Nat) (us : List Unacked) (s : State) : State :=
  if us.isEmpty then s
  else if us.any (fun u => decide (u.sends ≥ 8)) then failLink n s
  else
    let s1 := bump (bkLink n) 2 1 (bump (bkLink n) 0 us.length s)
    let s2 := us.foldl (fun (t : State) (u : Unacked) => sendFrame n u.fr t) s1
    let from' := us.headD { fr := idleFrame, gpos := 0, sends := 0, at' := 0 }
    modLink n (fun l => { l with
      replay := l.replay.takeWhile (fun u => u.fr.seq != from'.fr.seq) ++
        us.map (fun u => { u with sends := u.sends + 1, at' := s.chip.lcount }) }) s2

def execJlNak (h : CtlHead) (seq : Nat) (s : State) : Host.Outcome State Fault Refusal :=
  if !linkUp h.link s then .next s
  else
    let t := takeHead h s
    done (replayFrom h.link ((link? h.link t).replay.dropWhile (fun u => u.fr.seq != seq)) t)

def execReplayTimer (link : Nat) (s : State) : Host.Outcome State Fault Refusal :=
  if !linkUp link s then .next s else done (replayFrom link (link? link s).replay s)

/-- One NAK names the expected SEQ; it is sent again until that frame arrives. -/
def sendNak (n : Nat) (s : State) : State :=
  if (link? n s).nak then s
  else sendCtl n (nakBytes (link? n s).seqRx) (modLink n (fun l => { l with nak := true }) s)

def execNakResend (link : Nat) (s : State) : Host.Outcome State Fault Refusal :=
  if (link? link s).nak then .next (sendCtl link (nakBytes (link? link s).seqRx) s) else .next s

/-- Ticks of a second. -/
def secondTicks : Nat := 100000000

/-- A link with too many CRC failures is moved out for recalibration; a spare carries nothing (R206, R212). -/
def moveLinkOut (n : Nat) (s : State) : State :=
  let s1 := modLink n (fun l => { l with crcTimes := [] }) s
  if (link? n s).lstate = .spare then recalIdle n s1 else recalMember n false s1

/-- A frame whose CRC fails. -/
def crcFail (n : Nat) (s : State) : State :=
  let times := (link? n s).crcTimes.filter (fun t => decide (s.chip.lcount < t + secondTicks)) ++ [s.chip.lcount]
  let s1 := bump (bkLink n) 1 1 (modLink n (fun l => { l with crcTimes := times }) s)
  if times.length > s.jl.crcThresh then moveLinkOut n s1 else s1

/-! ## Reception (R207, R211) -/

/-- Does the part take a message of this operation from a gang of a kind? Others are discarded. -/
def takesMsg (k : GangKind) (m : JMsg) : Bool :=
  match k with
  | .accelerator => m.op == 3 || m.op == 4
  | .peer => m.op == 5 || (m.op == 6 && decide (1 ≤ leNat (m.data.take 1) ∧ leNat (m.data.take 1) ≤ 5))

/-- A whole message has arrived. -/
def takeMsg (gi n : Nat) (g : Gang) (bs : List Byte) (s : State) : State :=
  match JMsg.parse bs with
  | some m => if takesMsg g.kind m then modGang gi (fun g => { g with inbox := g.inbox ++ [m] }) s else bump (bkLink n) 5 1 s
  | none => bump (bkLink n) 5 1 s

/-- Delivers gang frames in order, and returns their credit. -/
def deliverFrames (gi n : Nat) : Nat → State → State
  | 0, s => s
  | fuel + 1, s =>
    match gang? gi s with
    | none => s
    | some g =>
      match tget g.rxq g.gposRx with
      | none => s
      | some f =>
        let part := (if f.sop then [] else tgetD g.rxPart f.vc []) ++ f.payload.take (f.len + 1)
        let s1 := setGang gi { g with
          rxq := tdel g.rxq g.gposRx, gposRx := g.gposRx + 1, rxPart := tset g.rxPart f.vc (if f.eop then [] else part) } s
        let s2 := modLink n (fun l => { l with owed := tset l.owed f.vc (tgetD l.owed f.vc 0 + 1) }) s1
        deliverFrames gi n fuel (if f.eop then takeMsg gi n g part s2 else s2)

/-- A DATA frame in link order goes to its place in the gang stream; one already delivered is discarded (R211), and its credit
went back when it was delivered. -/
def gangFrame (gi n : Nat) (f : JlFrame) (s : State) : State :=
  match gang? gi s with
  | none => s
  | some g =>
    let ahead := (f.gpos + 65536 - g.gposRx % 65536) % 65536
    if ahead ≥ 32768 then s
    else deliverFrames gi n 4096 (setGang gi { g with rxq := tset g.rxq (g.gposRx + ahead) f } s)

/-- A DATA frame that checks: the expected SEQ is taken; a gap is answered with NAK, and an old frame discarded (R205). -/
def dataFrame (n : Nat) (f : JlFrame) (s : State) : State :=
  let l := link? n s
  if f.seq = l.seqRx then
    let s1 := modLink n (fun l => { l with seqRx := (l.seqRx + 1) % 4096, nak := false }) s
    match l.gang with
    | some gi => gangFrame gi n f s1
    | none => s1
  else if (f.seq + 4096 - l.seqRx) % 4096 < 2048 then sendNak n s
  else s

/-- A frame arrives on a trained link: its CRC, its ACK and credit, then its own content. A reserved TYPE has none; a spare
carries no traffic. -/
def rxFrame (type n : Nat) (f : JlFrame) (s : State) : State :=
  if !linkUp n s && (link? n s).lstate != .spare then s
  else if !frameOk f then crcFail n (sendNak n s)
  else if !linkUp n s then s
  else
    let s1 := takeAck n f.ack f.credVc f.cred s
    let s2 := if f.type = type ∧ type = 1 then dataFrame n f s1 else s1
    match (link? n s2).gang with
    | some gi => pumpGang gi s2
    | none => s2

def execJlDataFrame (link : Nat) (fr : JlFrame) (s : State) : Host.Outcome State Fault Refusal := done (rxFrame 1 link fr s)

/-- An IDLE frame carries ACK and credit. -/
def execIdleFrame (link : Nat) (fr : JlFrame) (s : State) : Host.Outcome State Fault Refusal := done (rxFrame 0 link fr s)

/-! ## Failures and re-forms (R201, R211, R212) -/

def execLossOfSignal (link : Nat) (s : State) : Host.Outcome State Fault Refusal :=
  match (link? link s).lstate with
  | .active => done (failLink link s)
  | .spare => done (failLink link s)
  | _ => .next s

/-- The sender's answer: every frame from the restart point onward is sent again under the new order, and the link that has
left recalibrates. -/
def execReformAck (h : CtlHead) (restart : Nat) (s : State) : Host.Outcome State Fault Refusal :=
  let t := takeHead h s
  match gangOf h.link t with
  | some (gang, g) =>
    if g.gstate = .reforming ∧ restart % 65536 = g.restart % 65536 then
      done (recalWaiting gang (startDue gang (pumpGang gang (setGang gang { g with
        gstate := .up, reforms := 0, resend := g.kept ++ g.resend, kept := [], gposTx := g.restart } t))))
    else done t
  | none => done t

def execReformResend (gang : Nat) (s : State) : Host.Outcome State Fault Refusal :=
  match gang? gang s with
  | some g =>
    if g.gstate ≠ .reforming then .next s
    else if g.reforms ≥ 100 then done (startDue gang (gangDown gang s))
    else .next (sendReform g (setGang gang { g with reforms := g.reforms + 1 } s))
  | none => .next s

/-- Members of the order that a partner's REFORM names: a position whose link is lost here, and one beyond the old members, goes
to the lowest free spare. -/
def reformOrder (g : Gang) (s : State) : List Nat → List Nat → List Nat
  | [], _ => []
  | p :: ps, used =>
    let n := g.members.getD p 64
    if linkUp n s then n :: reformOrder g s ps used
    else match freeSpare { g with spares := g.spares.filter (fun k => !used.contains k) } s with
      | some m => m :: reformOrder g s ps (m :: used)
      | none => reformOrder g s ps used

/-- The partner re-forms: the new order is taken and echoed, and what this side has unacknowledged is sent again under it. -/
def execReform (h : CtlHead) (m : ReformMsg) (s : State) : Host.Outcome State Fault Refusal :=
  let t := takeHead h s
  match gangOf h.link t with
  | none => done t
  | some (gang, g) =>
    if g.gstate = .down ∨ m.order.isEmpty then done t
    else
      let members := reformOrder g t m.order []
      let gone := g.members.filter (fun n => !members.contains n && linkUp n t)
      let came := members.filter (fun n => !g.members.contains n)
      let s1 := gone.foldl (fun (v : State) (n : Nat) =>
        bump (bkLink n) 3 1 (modLink n (fun l => { l with lstate := .failed, recalDue := true }) (clearMember n members.head? v))) t
      let s2 := came.foldl (fun (v : State) (n : Nat) => bump (bkLink n) 3 1 (modLink n (fun l => { l with lstate := .active }) v)) s1
      if members.isEmpty then done (startDue gang (gangDown gang s2))
      else
        let g1 : Gang := { g with members := members, spares := g.spares.filter (fun n => !came.contains n) }
        let again := g.gstate == .up && (members != g.members)
        let n := restartOf g
        let g2 : Gang := if again then { g1 with resend := g.kept ++ g.resend, kept := [], gposTx := n } else g1
        let s3 := sendCtl (members.headD 0) (reformAckBytes m.restart) (setGang gang g2 s2)
        done (spareCheck t (startDue gang (pumpGang gang s3)))

/-- A link whose recalibration succeeds is a spare of its gang; one moved out with FORCE takes its position again (R212). -/
def execRecalDone (link : Nat) (ok : Bool) (s : State) : Host.Outcome State Fault Refusal :=
  if (link? link s).lstate ≠ .recal then .next s
  else if !ok then done (failLink link s)
  else
    let back := (link? link s).backTo
    let s1 := endRecal link (modLink link (fun l => { l with lstate := .spare, trainedAt := s.chip.lcount, seqTx := 0, seqRx := 0,
                                                             replay := [], nak := false, owed := [], backTo := none }) s)
    match gangOf link s1, back with
    | some (gi, g), some pos =>
      if g.gstate = .up ∧ g.members.length < 8 then done (recalWaiting gi (rejoin gi link pos g s1))
      else done (recalWaiting gi (addSpare gi link s1))
    | some (gi, _), none => done (recalWaiting gi (addSpare gi link s1))
    | none, _ => .next s1
where
  addSpare (gi n : Nat) (s : State) : State :=
    modGang gi (fun g => { g with spares := if g.spares.contains n then g.spares else g.spares ++ [n] }) s

def execFailedLinkRetry (link : Nat) (s : State) : Host.Outcome State Fault Refusal :=
  if (link? link s).lstate = .failed ∧ (link? link s).gang.isSome ∧ !(link? link s).recalDue then .next (recalIdle link s) else .next s

def execPeriodicRecal (link : Nat) (s : State) : Host.Outcome State Fault Refusal :=
  if (gangOf link s).any (fun g => g.2.members.contains link) && linkUp link s then done (recalMember link false s) else .next s

/-! ## Responses of accelerators (R208, R209) -/

/-- Takes the first message of an operation out of a gang's inbox. -/
def takeInbox (gi op : Nat) (s : State) : Option (JMsg × State) :=
  match gang? gi s with
  | none => none
  | some g =>
    match g.inbox.find? (fun m => m.op == op) with
    | none => none
    | some m => some (m, setGang gi { g with inbox := g.inbox.erase m } s)

/-- Frees a tag. -/
def freeJTag (gi tag : Nat) (s : State) : State := modGang gi (fun g => { g with tags := tdel g.tags tag }) s

/-- A response for which no operation waits. -/
def lateResp (gi : Nat) (s : State) : State :=
  bump (bkLink (((gang? gi s).bind (fun g => g.members.head?)).getD 0)) 7 1 s

/-- A piece over a gang has arrived. -/
def pieceDone (gi tag x : Nat) (s : State) : State :=
  pumpWaiting (advance x (modXfer x (fun f => { f with jpieces := tdel f.jpieces (tagKey gi tag) }) (freeJTag gi tag s)))

/-- The tag of a response, if its operation has not ended. -/
def liveTag (gi tag : Nat) (write : Bool) (s : State) : Option JTag :=
  ((gang? gi s).bind (fun g => tget g.tags tag)).bind (fun t => if t.write = write ∧ !t.ended then some t else none)

/-- A late response frees its tag (R209). -/
def lateTag (gi tag : Nat) (s : State) : State := pumpWaiting (lateResp gi (freeJTag gi tag s))

def execVisAck (gang : Nat) (s : State) : Host.Outcome State Fault Refusal :=
  match takeInbox gang 4 s with
  | none => .next s
  | some (m, t) =>
    match liveTag gang m.tag true t with
    | none => done (lateTag gang m.tag t)
    | some k =>
      if bitOf 1 m.flags then done (pumpWaiting (failJlPart k.xfer (tagKey gang m.tag) Config.ccRemoteOp (freeJTag gang m.tag t)))
      else done (pieceDone gang m.tag k.xfer t)

/-- The data of a READ_DATA message lands at its place in the piece. -/
def landRead (gi tag : Nat) (k : JTag) (m : JMsg) (s : State) : State :=
  modXfer k.xfer (fun f => match tget f.jpieces (tagKey gi tag) with
    | some p => if m.addr - k.addr + m.data.length ≤ p.len then { f with data := spliceAt f.data (p.off + (m.addr - k.addr)) m.data } else f
    | none => f) s

def execReadData (gang : Nat) (s : State) : Host.Outcome State Fault Refusal :=
  match takeInbox gang 3 s with
  | none => .next s
  | some (m, t) =>
    match liveTag gang m.tag false t with
    | none => done (lateTag gang m.tag t)
    | some k =>
      let n := m.data.length
      if bitOf 1 m.flags then done (pumpWaiting (failJlPart k.xfer (tagKey gang m.tag) Config.ccRemoteOp (freeJTag gang m.tag t)))
      else if m.addr < k.addr ∨ n > k.left then done (lateResp gang t)
      else
        let t1 := landRead gang m.tag k m t
        if n = k.left then done (pieceDone gang m.tag k.xfer t1)
        else .next (modGang gang (fun g => { g with tags := tset g.tags m.tag { k with left := k.left - n } }) t1)

/-- The gang's timeout passes for a tag: its operation ends, or the tag of an ended one is free again. -/
def execVisTimeout (gang tag : Nat) (s : State) : Host.Outcome State Fault Refusal :=
  match (gang? gang s).bind (fun g => tget g.tags tag) with
  | none => .next s
  | some k =>
    if k.ended then done (pumpWaiting (freeJTag gang tag s))
    else
      let s1 := modGang gang (fun g => { g with tags := tset g.tags tag { k with ended := true } }) s
      done (pumpWaiting (failJlPart k.xfer (tagKey gang tag) (if k.write then Config.ccVisTimeout else Config.ccRemoteOp) s1))

end Sys2Proof.Machine
end

