-- ==== Sys2Proof/Machine/RollCmds.lean ====
section
/-! DEFINITION. The roll call (R218 to R224) and peer forwarding (R215). -/

namespace Sys2Proof.Machine

open Sys2Proof

def modRc (f : RollCall → RollCall) (s : State) : State := { s with jl := { s.jl with rc := f s.jl.rc } }

/-- The device is configured as head (Table 17-3). -/
def isHead (s : State) : Bool := bitOf 1 (optByte 0 s)

/-! ## Payloads (Table 7-5) -/

/-- A roll-call payload. -/
structure RcMsg where
  kind : Nat
  ring : Bool
  conflict : Bool
  short : Bool
  next : Nat
  depth : Nat
  maxHops : Nat
  round : Nat
  head : DWord
  level : Nat
  deriving DecidableEq, Repr

def RcMsg.bytes (m : RcMsg) : List Byte :=
  [BitVec.ofNat 8 m.kind, BitVec.ofNat 8 (m.ring.toNat + 2 * m.conflict.toNat + 4 * m.short.toNat)] ++ leBytes 2 m.next ++
  leBytes 2 m.depth ++ leBytes 2 m.maxHops ++ leBytes 4 m.round ++ leBytes 4 0 ++ leBytes 8 m.head.toNat ++
  [BitVec.ofNat 8 m.level] ++ List.replicate 7 0

def RcMsg.parse (bs : List Byte) : RcMsg :=
  { kind := u bs 0 1, ring := bitOf 0 (u bs 1 1), conflict := bitOf 1 (u bs 1 1), short := bitOf 2 (u bs 1 1), next := u bs 2 2,
    depth := u bs 4 2, maxHops := u bs 6 2, round := u bs 8 4, head := BitVec.ofNat 64 (u bs 16 8), level := u bs 24 1 }

/-- A message of a kind with what every roll-call message carries. -/
def rcMsg (kind : Nat) (s : State) : RcMsg :=
  let r := s.jl.rc
  { kind := kind, ring := false, conflict := false, short := false, next := r.next, depth := r.depth, maxHops := r.maxHops,
    round := r.round, head := r.head, level := 0 }

/-- Sends a roll-call message on a gang (R219). -/
def sendRc (g dst : Nat) (m : RcMsg) (s : State) : State :=
  sendMsg g { op := 6, flags := 0, tag := 0, len := 32, dst := dst, addr := 0, data := m.bytes } s

/-! ## Numbering (R220) -/

/-- Peer gangs in ascending number. -/
def peerGangs (s : State) : List Nat := tkeys (s.jl.gangs.filter (fun e => e.2.kind == .peer))

def setRole (g : Nat) (r : Role) (s : State) : State := modRc (fun c => { c with roles := tset c.roles g r }) s

/-- The next peer gang that is neither parent nor marked. -/
def nextGang (s : State) : Option Nat :=
  (peerGangs s).find? (fun g => s.jl.rc.parent != some g && (tget s.jl.rc.roles g).isNone)

/-- FWD messages held during a run start, with the source address and the hop limit that stand now; one without a route is
discarded and counted (R215, R221). -/
def sendHeld (s : State) : State :=
  s.jl.rc.held.foldl (fun (t : State) (h : Nat × JMsg) =>
    if outOfSystem h.1 h.2.dst t && t.jl.rc.fwdOn then t
    else startFwd h.1 (fwdMsg h.2.dst (h.2.addr / 2 ^ 24) h.2.data t) t) (modRc (fun c => { c with held := [] }) s)

/-- Redundancy level of a system size (Table 7-6). -/
def levelOf (size : Nat) : Nat := if size ≤ 8 then 0 else if size ≤ 64 then 1 else if size ≤ 1024 then 2 else 3

/-- The effect of RESULT here: tables, registers, redundancy and forwarding; with CONFLICT the address is given up (R221, R222).
Entries of SET_ROUTE stood until this run (R223). -/
def applyResult (m : RcMsg) (s : State) : State :=
  let r := s.jl.rc
  let s0 := { s with jl := { s.jl with routes := [] } }
  if m.conflict then
    sendHeld (modRc (fun c => { c with
      rcstate := 3, addr := 0, taken := 0, fwdOn := false, table := none, ring := false, short := false, waiting := none }) s0)
  else
    let b : RouteBase := { addr := r.taken, size := m.next, ring := m.ring, parent := r.parent, roles := r.roles }
    sendHeld (spareCheck s (modRc (fun c => { c with
      rcstate := 2, addr := r.taken, size := m.next, ring := m.ring, short := m.short, table := some b, level := levelOf m.next,
      raised := 0, fwdOn := true, waiting := none }) s0))

/-- RESULT goes down the tree gangs. -/
def relayResult (m : RcMsg) (s : State) : State :=
  (subtreeGangs s.jl.rc.roles).foldl (fun (t : State) (g : Nat) => sendRc g 0xFFFF m t) s

/-- The head's own gangs are done: it broadcasts RESULT and answers ROLLCALL_RUN (R221, R222). -/
def finishRun (s : State) : State :=
  let r := s.jl.rc
  let size := r.next - 1
  let ring := r.roles.any (fun e => e.2 == .ringClose)
  let m : RcMsg := { rcMsg 4 s with ring := ring, conflict := r.conflict, short := r.beyond, next := size, level := levelOf size }
  let s1 := applyResult m (relayResult m s)
  match r.mb with
  | some b => finish b (if r.conflict then Config.rollcallConflict else Config.ok) Body.empty (modRc (fun c => { c with mb := none }) s1)
  | none => s1

/-- Goes on numbering the gangs: a TOKEN on the next one, or RETURN to the parent. -/
def numberGangs : Nat → State → State
  | 0, s => s
  | fuel + 1, s =>
    let r := s.jl.rc
    match nextGang s with
    | some g =>
      if r.depth + 1 > r.maxHops ∨ r.next = 0xFFFF then
        numberGangs fuel (modRc (fun c => { c with beyond := true }) (setRole g .beyond s))
      else modRc (fun c => { c with waiting := some g, waitHold := false }) (sendRc g 0 (rcMsg 1 s) s)
    | none =>
      match r.parent with
      | some p => sendRc p 0 { rcMsg 2 s with conflict := r.conflict, short := r.beyond } (modRc (fun c => { c with waiting := none }) s)
      | none => finishRun s

def goOn (s : State) : State := numberGangs 64 (modRc (fun c => { c with waiting := none }) s)

/-- Start of a run at the head. -/
def startRun (mb : Option MbRef) (s : State) : State :=
  numberGangs 64 (modRc (fun c => { c with
    rcstate := 1, taken := 1, round := (c.round + 1) % 2 ^ 32, head := s.chip.serial, depth := 0, parent := none, next := 2,
    maxHops := if c.budgetNs = 0 then 65535 else min 65535 (c.budgetNs / 300), beyond := false, conflict := false,
    roles := [], waiting := none, mb := mb }) s)

/-- The roll call of boot, once the links have trained (R218, R499). No gang is defined then, so no link has still to train
(log 136). -/
def bootRun (s : State) : State := if isHead s then startRun none s else s

def execRollcallRun (c : Call) (s : State) : Host.Outcome State Fault Refusal :=
  .next (serve c 0x3020 (fun _ t =>
    if !isHead t then .reject Config.wrongState
    else if t.jl.rc.rcstate = 1 then .reject Config.busy
    else .later (startRun (some (callRef c t)) t) true) s)

def execSetRollcall (c : Call) (ns : Nat) (s : State) : Host.Outcome State Fault Refusal :=
  .next (serve c 0x3021 (fun _ t => .ok (modRc (fun r => { r with budgetNs := ns }) t) Body.empty) s)

def execSetRedundancy (c : Call) (level : Nat) (s : State) : Host.Outcome State Fault Refusal :=
  .next (serve c 0x3022 (fun _ t =>
    if level > 3 ∨ level < t.jl.rc.level then .reject Config.badValue
    else .ok (spareCheck t (modRc (fun r => { r with raised := level }) t)) Body.empty) s)

/-! ## Messages -/

/-- Takes the first roll-call message of a kind out of a gang's inbox. -/
def takeRc (gi kind : Nat) (s : State) : Option (RcMsg × State) :=
  match gang? gi s with
  | none => none
  | some g =>
    match g.inbox.find? (fun m => m.op == 6 && u m.data 0 1 == kind) with
    | none => none
    | some m => some (RcMsg.parse m.data, setGang gi { g with inbox := g.inbox.erase m } s)

/-- A device takes an address from a TOKEN and numbers its gangs. -/
def takeToken (g : Nat) (m : RcMsg) (s : State) : State :=
  let s1 := modRc (fun c => { c with
    rcstate := 1, round := m.round, head := m.head, taken := m.next, parent := some g, depth := m.depth + 1, next := m.next + 1,
    maxHops := m.maxHops, beyond := false, conflict := false, roles := [], waiting := none }) s
  numberGangs 64 (sendRc g 0 (rcMsg 5 s1) s1)

/-- A TOKEN (R220). -/
def onToken (g : Nat) (m : RcMsg) (s : State) : State :=
  let r := s.jl.rc
  let mine := if isHead s then s.chip.serial else r.head
  if isHead s && m.head == s.chip.serial then
    let ring := decide (m.next ≥ r.next)
    setRole g (if ring then .ringClose else .cross) (sendRc g 0 { rcMsg 3 s with ring := ring } s)
  else if (isHead s || (r.rcstate == 1 && r.taken != 0)) && m.head != mine then sendRc g 0 { rcMsg 3 s with conflict := true } s
  else if m.round = r.round then sendRc g 0 (rcMsg 3 s) s
  else takeToken g m s

def execTokenMsg (gang : Nat) (s : State) : Host.Outcome State Fault Refusal :=
  match takeRc gang 1 s with
  | some (m, t) => done (onToken gang m t)
  | none => .next s

/-- HOLD: the answer is still awaited, and can only be HOLD or RETURN from now on. -/
def execHoldMsg (gang : Nat) (s : State) : Host.Outcome State Fault Refusal :=
  match takeRc gang 5 s with
  | some (_, t) => if t.jl.rc.waiting = some gang then .next (modRc (fun c => { c with waitHold := true }) t) else .next t
  | none => .next s

/-- HOLD is sent again while the subtree is being numbered. -/
def execHoldResend (s : State) : Host.Outcome State Fault Refusal :=
  match s.jl.rc.parent with
  | some p => if s.jl.rc.rcstate = 1 ∧ s.jl.rc.waiting.isSome then .next (sendRc p 0 (rcMsg 5 s) s) else .next s
  | none => .next s

def execReturnMsg (gang : Nat) (s : State) : Host.Outcome State Fault Refusal :=
  match takeRc gang 2 s with
  | none => .next s
  | some (m, t) =>
    if t.jl.rc.waiting ≠ some gang then .next t
    else
      let t1 := setRole gang (.subtree t.jl.rc.next (m.next - 1)) t
      done (goOn (modRc (fun c => { c with
        next := m.next, conflict := c.conflict || m.conflict, beyond := c.beyond || m.short }) t1))

def execLoopMsg (gang : Nat) (s : State) : Host.Outcome State Fault Refusal :=
  match takeRc gang 3 s with
  | none => .next s
  | some (m, t) =>
    if t.jl.rc.waiting ≠ some gang ∨ t.jl.rc.waitHold then .next t
    else done (goOn (modRc (fun c => { c with conflict := c.conflict || m.conflict })
      (setRole gang (if m.ring then .ringClose else .cross) t)))

def execRollcallAnswerTimeout (gang : Nat) (s : State) : Host.Outcome State Fault Refusal :=
  if s.jl.rc.waiting = some gang then done (goOn (setRole gang .unconnected s)) else .next s

def execResultMsg (gang : Nat) (s : State) : Host.Outcome State Fault Refusal :=
  match takeRc gang 4 s with
  | none => .next s
  | some (m, t) => if t.jl.rc.rcstate = 1 ∧ t.jl.rc.parent = some gang then done (applyResult m (relayResult m t)) else .next t

/-! ## Forwarding (R215, R217) -/

/-- I/O die of a gang. -/
def gangDie (g : Gang) : Nat := (g.members.headD 0) / 32

def fwdDrop (g : Gang) (s : State) : State := bump (bkLink (g.members.headD 0)) 6 1 s


/-- A FWD message is consumed, sent on, or discarded and counted. -/
def forwardMsg (gi : Nat) (g : Gang) (m : JMsg) (s : State) : State :=
  let r := s.jl.rc
  let hops := m.addr / 65536 % 256
  let on := { m with addr := m.addr - 65536 }
  if m.dst = 0 ∨ !r.fwdOn then fwdDrop g s
  else if m.dst = r.addr then consumeFwd (gangDie g) m s
  else if m.dst = 0xFFFF then
    let outs := (treeGangs s).filter (· != gi)
    let s1 := consumeFwd (gangDie g) m s
    if hops ≤ 1 then (if outs.isEmpty then s1 else fwdDrop g s1) else outs.foldl (fun (t : State) (o : Nat) => sendMsg o on t) s1
  else if hops ≤ 1 then fwdDrop g s
  else match routeGang (gangDie g) m.dst s with
    | some o => sendMsg o on s
    | none => fwdDrop g s

def execFwd (gang : Nat) (s : State) : Host.Outcome State Fault Refusal :=
  match takeInbox gang 5 s, gang? gang s with
  | some (m, t), some g => done (forwardMsg gang g m t)
  | _, _ => .next s

end Sys2Proof.Machine
end

