-- ==== Sys2Proof/Machine/LinkCmds.lean ====
section
/-! DEFINITION. The link opcodes (07, Table 7-8). -/

namespace Sys2Proof.Machine

open Sys2Proof

/-! ## Readbacks -/

def execReadLinks (c : Call) (cursor : Nat) (s : State) : Host.Outcome State Fault Refusal :=
  .next (serveRead c 0x3000 cursor (fun _ t =>
    (List.range 64).map (fun n =>
      let l := link? n t
      [n, l.lstate.code, l.gang.getD 255, (((gangOf n t).bind (fun g => g.2.members.idxOf? n)).getD 15), l.pserial.toNat, l.plink])) s)

/-- A virtual function sees the gangs granted to its partition (R225). -/
def execReadGangs (c : Call) (cursor : Nat) (s : State) : Host.Outcome State Fault Refusal :=
  .next (serveRead c 0x3001 cursor (fun _ t =>
    (t.jl.gangs.filter (fun e => c.func == 0 || e.2.grant == some (funcPart c.func t))).map (fun e =>
      [e.1, (if e.2.kind = .peer then 1 else 0), e.2.members.length] ++ e.2.members ++ [e.2.spares.length] ++ e.2.spares ++
      [e.2.grant.getD 255, e.2.timeoutUs, e.2.tags.length])) s)

def Role.row (g : Nat) : Role → List Nat
  | .parent => [g, 0]
  | .subtree lo hi => [g, 1, lo, hi]
  | .cross => [g, 2]
  | .ringClose => [g, 3]
  | .beyond => [g, 4]
  | .unconnected => [g, 5]

def execReadRollcall (c : Call) (cursor : Nat) (s : State) : Host.Outcome State Fault Refusal :=
  .next (serveRead c 0x3002 cursor (fun _ t =>
    let r := t.jl.rc
    [r.addr, r.size, r.round, r.head.toNat, r.ring.toNat, r.conflict.toNat, (sparesShort t).toNat, levelNow t, r.rcstate] ::
    ((r.parent.toList).map (fun p => Role.row p .parent) ++ r.roles.map (fun e => e.2.row e.1))) s)

/-- Routing table entries of both dies; entries that are 0 need no row. -/
def execReadRoutes (c : Call) (cursor : Nat) (s : State) : Host.Outcome State Fault Refusal :=
  .next (serveRead c 0x3003 cursor (fun _ t =>
    (List.range 131072).filterMap (fun i =>
      let e := routeEntry (i / 65536) (i % 65536) t
      if e = 0 then none else some [i / 65536, i % 65536, e])) s)

/-! ## Gangs (R210, R214) -/

/-- The lists of SET_GANG are sound: sizes, one die, no link twice or in another gang. -/
def gangListsOk (gi : Nat) (members spares : List Nat) (s : State) : Bool :=
  let all := members ++ spares
  decide (gi < 64) && decide (1 ≤ members.length ∧ members.length ≤ 8) && decide (spares.length ≤ 8) && all.all (fun n => decide (n < 64)) &&
  all.all (fun n => n / 32 == (members.headD 0) / 32) && decide all.Nodup &&
  all.all (fun n => match (link? n s).gang with
    | some k => k == gi
    | none => true)

/-- The gang carries traffic: operations, messages or unacknowledged frames. Messages that wait for it to train are not yet
carried. -/
def carriesTraffic (gi : Nat) (g : Gang) (s : State) : Bool :=
  !g.tags.isEmpty || (g.gstate != .forming && g.sendq.any (fun e => !e.2.isEmpty)) || !g.kept.isEmpty || !g.resend.isEmpty ||
  s.xl.xfers.any (fun e => onGang gi e.2)

/-- A link that leaves a gang goes DOWN (R210). -/
def dropLink (s : State) (n : Nat) : State :=
  modLink n (fun l => { Link.fresh with crcTimes := l.crcTimes }) (endRecal n s)

/-- A link that a gang names. One that is miswired trains again; one that has failed waits for its retry (Table 7-1). -/
def joinLink (gi : Nat) (members : List Nat) (s : State) (n : Nat) : State :=
  modLink n (fun l => { l with
    gang := some gi, recalWait := false, backTo := none,
    lstate := match l.lstate with
      | .miswired => .training
      | .active => if members.contains n then .active else .spare
      | .spare => if members.contains n then .active else .spare
      | st => st }) s

/-- A gang as SET_GANG defines it: its stream starts anew, with 64 frames of credit for each member and VC (R203). -/
def newGang (kind : GangKind) (members spares : List Nat) (old : Option Gang) : Gang :=
  { kind := kind, members := members, spares := spares, gstate := .forming, grant := none, withdraw := none,
    timeoutUs := (old.map Gang.timeoutUs).getD 100, gposTx := 0, gposRx := 0,
    spent := [], sendq := (old.map Gang.sendq).getD [], rxq := [], rxPart := [], inbox := [], tags := [],
    kept := [], resend := [], restart := 0, order := [], reforms := 0 }

/-- Members out of service cannot take a position: spares take it, or the members close up (R211). -/
def closeUp (gi : Nat) (members : List Nat) (s : State) : State :=
  (members.filter (fun n => (link? n s).lstate == .failed || (link? n s).lstate == .recal)).foldl (fun (t : State) (n : Nat) => leaveMember gi n t) s

def execSetGang (c : Call) (gang : Nat) (kind : GangKind) (members spares : List Nat) (s : State) : Host.Outcome State Fault Refusal :=
  .next (serve c 0x3010 (fun _ t =>
    let old := gang? gang t
    let spareOnly := old.any (fun g => g.kind == kind && g.members == members)
    if !gangListsOk gang members spares t then .reject Config.badValue
    else if old.any (fun g => g.gstate == .reforming) then .reject Config.busy
    else if !spareOnly && old.any (fun g => g.grant.isSome || carriesTraffic gang g t) then .reject Config.wrongState
    else
      let gone := (linksOf gang t).filter (fun n => !(members ++ spares).contains n)
      let t1 := (members ++ spares).foldl (joinLink gang members) (gone.foldl dropLink t)
      let live := spareOnly && old.any (fun g => g.gstate == .up || g.gstate == .forming)
      let g1 : Gang := match old with
        | some g => if live then { g with spares := spares } else newGang kind members spares old
        | none => newGang kind members spares old
      let g2 : Gang := if g1.gstate = .forming ∧ members.all (fun n => linkUp n t1) then { g1 with gstate := .up } else g1
      let g3 : Gang := { g2 with grant := if spareOnly then (old.bind Gang.grant) else none }
      .ok (spareCheck t (recalWaiting gang (closeUp gang members (setGang gang g3 t1)))) Body.empty) s)

def execGrantGang (c : Call) (gang : Nat) (s : State) : Host.Outcome State Fault Refusal :=
  .next (serve c 0x3011 (fun r t =>
    match gang? gang t with
    | none => .reject Config.badValue
    | some g =>
      if g.kind = .peer then .reject Config.badValue
      else if g.grant.isSome ∨ g.withdraw.isSome then .reject Config.wrongState
      else .ok (setGang gang { g with grant := some r.part } t) Body.empty) s)

/-- A withdrawal takes effect at once for accesses to come, and is answered once the partition's operations have ended. -/
def execGangWithdraw (c : Call) (gang : Nat) (s : State) : Host.Outcome State Fault Refusal :=
  done (serve c 0x3011 (fun r t =>
    match gang? gang t with
    | none => .reject Config.badValue
    | some g =>
      if g.grant ≠ some r.part then .reject Config.wrongState
      else .later (setGang gang { g with grant := none, withdraw := some (callRef c t) } t) true) s)

def execSetVisTimeout (c : Call) (gang us : Nat) (s : State) : Host.Outcome State Fault Refusal :=
  .next (serve c 0x3012 (fun _ t =>
    if us < 10 ∨ us > 100000 ∨ (gang? gang t).isNone then .reject Config.badValue
    else .ok (modGang gang (fun g => { g with timeoutUs := us }) t) Body.empty) s)

/-! ## Expert opcodes (R206, R212, R223) -/

/-- A link recalibrates on request; the command is answered when the recalibration ends. -/
def execRecalLink (c : Call) (link : Nat) (force : Bool) (s : State) : Host.Outcome State Fault Refusal :=
  done (serve c 0x3850 (fun _ t =>
    let l := link? link t
    let own := fun (v : State) => modLink link (fun l => { l with recalMb := some (callRef c t) }) v
    if link > 63 then .reject Config.badValue
    else match gangOf link t with
      | none => .reject Config.wrongState
      | some (_, g) =>
        match l.lstate with
        | .recal => .reject Config.busy
        | .active =>
          if l.recalDue then .reject Config.busy
          else if (freeSpare g t).isNone ∧ !force then .reject Config.noSpare else .later (recalMember link force (own t)) true
        | .spare => .later (recalIdle link (own t)) true
        | .failed => .later (if l.recalDue then own t else recalIdle link (own t)) true
        | _ => .reject Config.wrongState) s)

/-- An entry with no bit outside its fields (R217). -/
def routeOk (e : RouteEntry) : Bool :=
  let w := e.entry.toNat
  decide (e.dst < 65536) && bitsOf 29 14 w == 0 && bitsOf 7 6 w == 0

def execSetRoute (c : Call) (die : Nat) (entries : List RouteEntry) (s : State) : Host.Outcome State Fault Refusal :=
  .next (serve c 0x3851 (fun _ t =>
    if die > 1 ∨ !entries.all routeOk then .reject Config.badValue
    else .ok { t with jl := { t.jl with
        routes := entries.foldl (fun (m : Tab Nat) (e : RouteEntry) => tset m (die * 65536 + e.dst) e.entry.toNat) t.jl.routes } } Body.empty) s)

/-- Links whose failures within a second exceed the threshold are moved out (R206). -/
def checkThresh (s : State) : State :=
  (List.range 64).foldl (fun (t : State) (n : Nat) =>
    let recent := (link? n t).crcTimes.filter (fun a => decide (t.chip.lcount < a + secondTicks))
    if (linkUp n t || (link? n t).lstate == .spare) && decide (recent.length > t.jl.crcThresh) then moveLinkOut n t else t) s

def execSetLinkThresh (c : Call) (crc hours : Nat) (s : State) : Host.Outcome State Fault Refusal :=
  done (serve c 0x3852 (fun _ t =>
    if crc < 1 ∨ crc > 65535 ∨ hours < 1 ∨ hours > 720 then .reject Config.badValue
    else .ok (checkThresh { t with jl := { t.jl with crcThresh := crc, recalHours := hours } }) Body.empty) s)

end Sys2Proof.Machine
end

