-- ==== Sys2Proof/Machine/MemCmds.lean ====
section
/-! DEFINITION. Commands and events of the memory tiers (05). -/

namespace Sys2Proof.Machine

open Sys2Proof

/-! ## Codes -/

def CxlState.code : CxlState → Nat
  | .absent => 0
  | .present => 1
  | .bringUp => 2
  | .inService => 3
  | .removing => 4
  | .lost => 5

def MigState.code : MigState → Nat
  | .copying => 0
  | .redirecting => 1
  | .aborted => 2

def tierCode : Tier → Nat
  | .gddr => 0
  | .cxl => 1

def ReserveUse.code : ReserveUse → List Nat
  | .qpContexts => [0, 0]
  | .passes => [1, 0]
  | .saveArea p q => [2, p * 16 + q]
  | .residual g => [3, g]
  | .parity p q => [4, p * 256 + q]
  | .stagedImage => [5, 0]
  | .previousImage p => [6, p]

/-! ## Readbacks -/

/-- Tiers, population, channels, devices, allotments, reserved ranges and the lowest reserved address, scrub periods (Table 5-5). -/
def execReadMemory (c : Call) (cursor : Nat) (s : State) : Host.Outcome State Fault Refusal :=
  .next (serveRead c 0x1100 cursor (fun _ t =>
    [t.tiers.density, gddrSize t.tiers.density, t.tiers.scrubSram, t.tiers.scrubGddr, (disabled 1 t).toNat,
      (t.tiers.reserves.map Reserve.base).foldl min (gddrSize t.tiers.density)] ::
    (List.range 16).map (fun k => [k, (chan? k t).cstate.code, (chan? k t).temp, (chan? k t).remaps.length]) ++
    (List.range 8).map (fun d => [d, (cxl? d t).cstate.code, (cxl? d t).capacity, (cxl? d t).truncated.toNat]) ++
    (t.parts.filter (fun e => sees c e.1 t)).flatMap (fun e => e.2.allot.map (fun r => [e.1, tierCode r.tier, r.base, r.size])) ++
    t.tiers.reserves.map (fun r => r.use.code ++ [r.base, r.size])) s)

/-- Error records, quarantine and region lists, remap use; a virtual function's readback holds its partition's records (R168). -/
def execReadMemErrors (c : Call) (cursor : Nat) (s : State) : Host.Outcome State Fault Refusal :=
  .next (serveRead c 0x1101 cursor (fun _ t =>
    [t.tiers.lost, t.tiers.qlines.length, t.tiers.qregions.length] ::
    (t.tiers.log.filter (fun r => sees c r.part t)).map (fun r =>
      [r.tier, r.kind, r.unit, r.part, r.count, r.loc, r.time, r.symbol]) ++
    (if c.func = 0 then [t.tiers.qlines, t.tiers.qregions, t.tiers.qcleared, t.tiers.fatal] ++ (List.range 16).map (fun k => (chan? k t).remaps) else [])) s)

/-- State, bytes copied and uncorrectable lines of each migration (R151). -/
def execReadMigrations (c : Call) (cursor : Nat) (s : State) : Host.Outcome State Fault Refusal :=
  .next (serveRead c 0x1113 cursor (fun _ t =>
    (t.tiers.migs.filter (fun e => sees c e.2.part t)).map (fun e =>
      [e.1, e.2.part, e.2.mstate.code, tierCode e.2.src.tier, e.2.src.base, e.2.src.size, tierCode e.2.dst.tier, e.2.dst.base, e.2.rate,
       e.2.copied, e.2.bad])) s)

/-! ## Allotments (R149) -/

/-- Do devices in service hold a CXL range, each the part in its window (R147)? -/
def cxlCovers (base n : Nat) (s : State) : Bool :=
  decide (base + n ≤ 8 * 2 ^ 37) && (List.range 8).all (fun d =>
    !overlap base n (d * 2 ^ 37) (2 ^ 37) ||
    ((cxl? d s).cstate == .inService && decide (min (base + n) ((d + 1) * 2 ^ 37) ≤ d * 2 ^ 37 + (cxl? d s).capacity)))

/-- A range that a partition may be given: whole 64 KiB units, present, outside device structures and other allotments. -/
def allotOk (part : Nat) (s : State) (r : TierRange) : Bool :=
  r.base % 65536 == 0 && r.size % 65536 == 0 && r.size != 0 &&
  (match r.tier with
   | .gddr => decide (r.base + r.size ≤ gddrSize s.tiers.density) && !s.tiers.reserves.any (fun x => overlap r.base r.size x.base x.size)
   | .cxl => cxlCovers r.base r.size s) &&
  !s.parts.any (fun e => e.1 != part && e.2.allot.any (fun x => x.tier == r.tier && overlap r.base r.size x.base x.size))

def execSetAllotment (c : Call) (ranges : List TierRange) (s : State) : Host.Outcome State Fault Refusal :=
  .next (serve c 0x1120 (fun r t =>
    if ranges.length > 64 ∨ !ranges.all (allotOk r.part t) then .reject Config.badValue
    else .ok (modPart r.part (fun p => { p with allot := ranges }) t) Body.empty) s)

/-! ## Page migration (R150 to R153) -/

/-- Does a migration in flight touch a range? -/
def migTouches (t : Tier) (base n : Nat) (m : Mig) : Bool :=
  m.mstate != .aborted &&
  ((m.src.tier == t && overlap base n m.src.base m.src.size) || (m.dst.tier == t && overlap base n m.dst.base m.dst.size))

/-- A range lies in the allotments of the caller's partition, or in the allotments of all partitions for the physical function. -/
def migMay (c : Call) (part : Nat) (r : TierRange) (s : State) : Bool :=
  allotted part r.tier r.base r.size s ||
  (c.func == 0 && (let all := (s.parts.flatMap (fun e => e.2.allot)).filter (fun x => x.tier == r.tier)
                   rangesCover all (all.length + 1) r.base r.size))

/-- Target of a tier (Table 6-3). -/
def tierTgt (t : Tier) : Nat := if t = .cxl then 4 else 3

/-- The copy reads and writes its tiers, which wakes them (R507). -/
def execMigrateStart (c : Call) (src dst : TierRange) (rate : Nat) (s : State) : Host.Outcome State Fault Refusal :=
  .next (serve c 0x1110 (fun r t =>
    if decide (src.size ≠ dst.size ∨ src.size = 0 ∨ src.size % 65536 ≠ 0 ∨ src.size > 2 ^ 38) || !migMay c r.part src t ||
        !migMay c r.part dst t || (src.tier == dst.tier && overlap src.base src.size dst.base dst.size) then .reject Config.badValue
    else if t.tiers.migs.any (fun e => migTouches src.tier src.base src.size e.2 || migTouches dst.tier dst.base dst.size e.2) then
      .reject Config.busy
    else if t.tiers.migs.countP (fun e => e.2.mstate != .aborted) ≥ 64 then .reject Config.noResource
    else
      let id := freshKey t.tiers.migs
      let m : Mig := { part := r.part, src := src, dst := dst, rate := rate, mstate := .copying, copied := 0, bad := 0 }
      .ok (wakeFor (tierTgt src.tier) (wakeFor (tierTgt dst.tier) { t with tiers := { t.tiers with migs := tset t.tiers.migs id m } }))
        (Body.nums [id])) s)

/-- The migration of an identifier, if the caller may name it. -/
def migOf (c : Call) (part id : Nat) (s : State) : Option Mig :=
  match tget s.tiers.migs id with
  | some m => if c.func = 0 ∨ m.part = part then some m else none
  | none => none

def execMigrateRelease (c : Call) (id : Nat) (s : State) : Host.Outcome State Fault Refusal :=
  .next (serve c 0x1111 (fun r t =>
    match migOf c r.part id t with
    | none => .reject Config.badValue
    | some m =>
      if m.mstate = .copying then .reject Config.wrongState
      else .ok { t with tiers := { t.tiers with migs := tdel t.tiers.migs id } } Body.empty) s)

def execMigrateAbort (c : Call) (id : Nat) (s : State) : Host.Outcome State Fault Refusal :=
  .next (serve c 0x1112 (fun r t =>
    match migOf c r.part id t with
    | none => .reject Config.badValue
    | some m =>
      if m.mstate ≠ .copying then .reject Config.wrongState
      else .ok { t with tiers := { t.tiers with migs := tset t.tiers.migs id { m with mstate := .aborted } } } Body.empty) s)

/-- Is a range held or gone: a channel that does not serve, a device out of service? -/
def rangeStops (r : TierRange) (s : State) : Bool :=
  match r.tier with
  | .gddr => (List.range 16).any (fun c => (chan? c s).cstate != .active)
  | .cxl => !cxlCovers r.base r.size s

/-- Keys of the lines in a range that are quarantined, by line or by region, or whose reads are held. -/
def badKeys (lo n : Nat) (s : State) : List Nat :=
  let mine := fun (k : Nat) => decide (lo ≤ k ∧ k < lo + n)
  (s.tiers.qlines ++ s.tiers.fatal).filter mine ++
  (s.tiers.qregions.filter (fun r => overlap r (2 ^ 21) lo n)).flatMap (fun r =>
    ((List.range 32768).map (fun i => r + 64 * i)).filter (fun k => mine k && quarantined k s))

/-- Line offsets of a source that cannot be read, each once: what the copy found, and the lines refused at every read. -/
def migBad (m : Mig) (bad : List Nat) (s : State) : List Nat :=
  let lo := mkey (tierSpace m.src.tier) m.src.base
  ((bad.filter (fun o => decide (o < m.src.size))).map (fun o => o / 64 * 64) ++
    (badKeys lo m.src.size s).map (fun k => k - lo)).eraseDups

/-- One bad source line: recorded where it is new, and the matching destination line is quarantined (R153). -/
def migBadLine (m : Mig) (s : State) (o : Nat) : State :=
  let p : Place := ⟨tierSpace m.src.tier, m.src.base + o⟩
  let s1 := if quarantined (lineKey p) s || s.tiers.fatal.contains (lineKey p) then s else uncorrectable p 0xFF s
  quarantine (mkey (tierSpace m.dst.tier) (m.dst.base + o)) s1

/-- Copies the next `n` bytes of a migration. -/
def copyPart (id n : Nat) (s : State) : State :=
  match tget s.tiers.migs id with
  | none => s
  | some m =>
    let k := min n (m.src.size - m.copied)
    let src : Place := ⟨tierSpace m.src.tier, m.src.base + m.copied⟩
    let dst : Place := ⟨tierSpace m.dst.tier, m.dst.base + m.copied⟩
    let s1 := checkSpan true ((k + 511) / 512) dst (checkSpan false ((k + 511) / 512) src s)
    { s1 with
      mem := copyRange s1.mem (mkey src.space src.addr) (mkey dst.space dst.addr) k,
      tiers := { s1.tiers with migs := tset s1.tiers.migs id { m with copied := m.copied + k } } }

/-- Bytes that a migration copies in one AONCLK cycle: a free number within its rate cap, which is 10 bytes in 10 ns for each GB/s
(R150, log 133). -/
def copyStep (m : Mig) (s : State) : Nat :=
  let most := if m.rate = 0 then m.src.size - m.copied else min (10 * m.rate) (m.src.size - m.copied)
  (draw s).1.toNat % (most + 1)

/-- Every migration in COPYING whose channels and devices serve copies on. -/
def copyAll (s : State) : State :=
  s.tiers.migs.foldl (fun (t : State) (e : Nat × Mig) =>
    if e.2.mstate ≠ .copying ∨ rangeStops e.2.src t ∨ rangeStops e.2.dst t then t
    else copyPart e.1 (copyStep e.2 t) (draw t).2) s

/-- The copy is complete, with the bad lines it met: accesses go to the destination from now on (Table 5-2). It pauses on a
held channel, and never ends on a device that is gone. -/
def execMigrationCopyDone (id : Nat) (bad : List Nat) (s : State) : Host.Outcome State Fault Refusal :=
  match tget s.tiers.migs id with
  | some m =>
    if m.mstate ≠ .copying ∨ rangeStops m.src s ∨ rangeStops m.dst s then .next s
    else
      let lines := migBad m bad s
      let s1 := (badKeys (mkey (tierSpace m.dst.tier) m.dst.base) m.dst.size s).foldl (fun t k => unquarantine k t)
        (copyPart id (m.src.size - m.copied) s)
      let s2 := { s1 with tiers := { s1.tiers with
        migs := tset s1.tiers.migs id { m with mstate := .redirecting, copied := m.src.size, bad := lines.length } } }
      done (lines.foldl (migBadLine m) s2)
  | none => .next s

/-! ## Quarantine and the scrubber (R157 to R160) -/

def execQuarantineClear (c : Call) (lines : List LineLoc) (s : State) : Host.Outcome State Fault Refusal :=
  done (serve c 0x1123 (fun _ t =>
    .ok (lines.foldl (fun (u : State) (l : LineLoc) => unquarantine (lineKey (locPlace l)) u) t) Body.empty) s)

def execSetScrub (c : Call) (sramS gddrS : Nat) (s : State) : Host.Outcome State Fault Refusal :=
  .next (serve c 0x1851 (fun _ t =>
    if sramS < 60 ∨ sramS > 86400 ∨ gddrS < 60 ∨ gddrS > 86400 then .reject Config.badValue
    else .ok { t with tiers := { t.tiers with scrubSram := sramS, scrubGddr := gddrS } } Body.empty) s)

/-- The scrubber reads a line. The correction it writes back changes no data, and is discarded if another write reached the
line. It pauses on a held channel and, for GDDR7, in P4 (R160); a quarantined line is not read. -/
def execScrubRead (loc : LineLoc) (found : Option EccKind) (_overwritten : Bool) (s : State) : Host.Outcome State Fault Refusal :=
  let p := locPlace loc
  if p.space = spCxl ∨ (p.space = spGddr ∧ domainOff 3 s = true) ∨ (unitBlock p s).isSome ∨ quarantined (lineKey p) s ∨
      s.tiers.fatal.contains (lineKey p) then .next s
  else
    let s1 := checkPlace false p s
    match found with
    | some (.corrected sym) => .next (corrected p 0xFF sym s1)
    | some .uncorrectable => done (uncorrectable p 0xFF s1)
    | none => .next s1

/-! ## Channels (R162 to R164) -/

/-- A channel begins to retrain. -/
def beginRetrain (ch : Nat) (replay : Bool) (s : State) : State :=
  modChan ch (fun x => { x with cstate := .retraining, replay := replay }) s

def execRetrainChannel (c : Call) (ch : Nat) (s : State) : Host.Outcome State Fault Refusal :=
  .next (serve c 0x1850 (fun _ t =>
    if ch > 15 then .reject Config.badValue
    else match (chan? ch t).cstate with
      | .retraining => .reject Config.busy
      | .active => .later (modChan ch (fun x => { x with mb := some (callRef c t) }) (beginRetrain ch false t)) true
      | _ => .reject Config.wrongState) s)

/-- A burst of the line at `addr` failed EDC `fails` times in a row: up to four reissues, then the channel retrains. -/
def execEdcFail (ch addr fails who : Nat) (s : State) : Host.Outcome State Fault Refusal :=
  if (chan? ch s).cstate ≠ .active ∨ addr / 4096 % 16 ≠ ch ∨ addr ≥ gddrSize s.tiers.density then .next s
  else
    let s1 := bump (bkChan ch) 2 (min fails 4) s
    if fails < 5 then .next s1 else .next (beginRetrain ch true (memError ⟨spGddr, addr⟩ 3 who 0xFF s1))

/-- Ticks between drift-triggered retrainings of a channel: 100 ms. -/
def driftGap : Nat := 10000000

def execTempDriftRetrain (ch temp : Nat) (s : State) : Host.Outcome State Fault Refusal :=
  let x := chan? ch s
  if x.cstate ≠ .active ∨ (temp < x.temp + 10 ∧ x.temp < temp + 10) ∨ x.driftAt.any (fun a => decide (s.chip.lcount < a + driftGap)) then
    .next s
  else .next (modChan ch (fun x => { x with driftAt := some s.chip.lcount }) (beginRetrain ch false s))

/-- A channel whose replay fails again goes OFFLINE (R162). -/
def goOffline (ch : Nat) (s : State) : State :=
  memError ⟨spGddr, ch * 4096⟩ 4 0xFF 0xFF (modChan ch (fun x => { x with cstate := .offline, replay := false }) s)

/-- The retraining ends, after a hold of `holdNs` (at most 20 µs), with the outcome of the replay where one waits. -/
def execRetrainDone (ch : Nat) (ok replayOk : Bool) (temp holdNs : Nat) (s : State) : Host.Outcome State Fault Refusal :=
  let x := chan? ch s
  if x.cstate ≠ .retraining then .next s
  else
    let s1 := bump (bkChan ch) 3 1 (bump (bkChan ch) 4 (min holdNs 20000) s)
    let s2 := if ok then modChan ch (fun x => { x with cstate := .active, temp := temp % 256, replay := false }) s1 else s1
    let s3 := if !ok || (x.replay && !replayOk) then goOffline ch s2 else s2
    let s4 := match x.mb with
      | some r => finish r Config.ok Body.empty (modChan ch (fun x => { x with mb := none }) s3)
      | none => s3
    done (resumeHeld (fun w => w == .channel ch) s4)

/-! ## CXL devices (R146 to R148, R165 to R167) -/

/-- A device index exists: half 1 of a port only where the option bytes split it (R146, Table 17-3). -/
def cxlIndexOk (dev : Nat) (s : State) : Bool := decide (dev < 8) && (dev % 2 == 0 || bitOf (2 + dev / 2) (optByte 1 s))

def execCxlAdd (c : Call) (dev : Nat) (s : State) : Host.Outcome State Fault Refusal :=
  .next (serve c 0x1121 (fun _ t =>
    if !cxlIndexOk dev t then .reject Config.badValue
    else if t.chip.blockRsts.any (fun b => b.kind == 5 && b.index == dev / 2) then .reject Config.busy
    else match (cxl? dev t).cstate with
      | .inService => .reject Config.wrongState
      | .bringUp | .removing => .reject Config.busy
      | st =>
        if st = .lost ∧ t.parts.any (fun e => e.2.allot.any (fun a => a.tier == .cxl && a.base / 2 ^ 37 == dev)) then
          .reject Config.wrongState
        else if !Config.cxlPresent dev t.chip.lcount then .reject Config.badValue
        else .later (modCxl dev (fun x => { x with cstate := .bringUp, mb := some (callRef c t) }) t) true) s)

/-- A device reports media ready: its bring-up at boot, which may end after the endpoint is ready (R500), or under CXL_ADD is
complete, with its first 128 GiB (R147, R148). A device that has been in service before comes up under CXL_ADD only. -/
def execCxlMediaReady (dev capacity : Nat) (s : State) : Host.Outcome State Fault Refusal :=
  let x := cxl? dev s
  let boot := s.chip.bootImage.isSome && x.cstate == .absent && cxlIndexOk dev s && !disabled 1 s
  if x.cstate ≠ .bringUp ∧ !boot then .next s
  else
    let s1 := modCxl dev (fun x => { x with
      cstate := .inService, capacity := min capacity (2 ^ 37), truncated := decide (capacity > 2 ^ 37), mb := none }) s
    match x.mb with
    | some r => .next (finish r Config.ok Body.empty s1)
    | none => .next s1

def execCxlRemove (c : Call) (dev : Nat) (s : State) : Host.Outcome State Fault Refusal :=
  .next (serve c 0x1122 (fun _ t =>
    if !cxlIndexOk dev t then .reject Config.badValue
    else if (cxl? dev t).cstate ≠ .inService ∨ t.parts.any (fun e => e.2.allot.any (fun a => a.tier == .cxl && a.base / 2 ^ 37 == dev)) then
      .reject Config.wrongState
    else if t.tiers.migs.any (fun e => migTouches .cxl (dev * 2 ^ 37) (2 ^ 37) e.2) then .reject Config.busy
    else .later (modCxl dev (fun x => { x with cstate := .removing, mb := some (callRef c t) }) t) true) s)

/-- Outstanding requests have drained, or 1 ms has passed: the link is disabled. A device lost meanwhile is removed too. -/
def execCxlRemoveDrainEnd (dev : Nat) (s : State) : Host.Outcome State Fault Refusal :=
  let x := cxl? dev s
  if x.cstate ≠ .removing ∧ !(x.cstate = .lost ∧ x.mb.isSome) then .next s
  else
    let s1 := modCxl dev (fun x => { x with cstate := .present, mb := none }) s
    match x.mb with
    | some r => .next (finish r Config.ok Body.empty s1)
    | none => .next s1

/-- A device is lost: accesses end with 0x08, and copies onto it are aborted (R166). A CXL_ADD whose device is lost while it is
brought up returns TIMEOUT; a CXL_REMOVE goes on (log 132). -/
def execCxlDeviceLost (dev : Nat) (s : State) : Host.Outcome State Fault Refusal :=
  let x := cxl? dev s
  if x.cstate ≠ .inService ∧ x.cstate ≠ .bringUp ∧ x.cstate ≠ .removing then .next s
  else
    let s0 := match x.cstate, x.mb with
      | .bringUp, some r => finish r Config.timeout Body.empty (modCxl dev (fun x => { x with mb := none }) s)
      | _, _ => s
    let s1 := modCxl dev (fun x => { x with cstate := .lost }) s0
    let migs := s1.tiers.migs.map (fun (e : Nat × Mig) =>
      if e.2.mstate = .copying ∧ e.2.dst.tier = .cxl ∧ overlap e.2.dst.base e.2.dst.size (dev * 2 ^ 37) (2 ^ 37) then
        (e.1, { e.2 with mstate := .aborted })
      else e)
    .next (memError ⟨spCxl, dev * 2 ^ 37⟩ 6 0xFF 0xFF { s1 with tiers := { s1.tiers with migs := migs } })

/-- Firmware reads a device's event records; each one becomes a memory error record (R148). -/
def execCxlEventPoll (dev : Nat) (events : List CxlEvent) (s : State) : Host.Outcome State Fault Refusal :=
  if (cxl? dev s).cstate ≠ .inService then .next s
  else .next (events.foldl (fun (t : State) (e : CxlEvent) =>
    memError ⟨spCxl, dev * 2 ^ 37 + e.addr % 2 ^ 37⟩ (if e.kind = 0 ∨ e.kind = 5 then e.kind else 1) 0xFF 0xFF t) s)

end Sys2Proof.Machine
end

