-- ==== Sys2Proof/Machine/SecCmds.lean ====
section
/-! DEFINITION. Commands of the cipher engine, the key stores and secure boot (14). -/

namespace Sys2Proof.Machine

open Sys2Proof

/-! ## Readbacks (Table 14-11) -/

/-- Numbers of a digest. -/
def digestRow (d : BitVec 256) : List Nat := words8 (leBytes 32 d.toNat)

/-- A flash image's SVN, BUILD and root-key slot. -/
def flashRow (d : Nat) (s : State) : List Nat :=
  let i := Image.parse (rdMem (spFlash d) 0 64 s)
  [1, d, i.svn, i.build, i.root]

/-- Boot image used, image SVNs and BUILDs, FUSED_SVN and revocation bits, measurements, cores in service. -/
def execReadSecurity (c : Call) (cursor : Nat) (s : State) : Host.Outcome State Fault Refusal :=
  .next (serveRead c 0x9000 cursor (fun _ t =>
    [[0, t.chip.bootImage.getD 255, t.chip.fusedSvn, t.chip.revoked], flashRow 0 t, flashRow 1 t] ++
    t.sec.measured.map (fun (e : Nat × BitVec 256) => [2, e.1] ++ digestRow e.2) ++
    (List.range 22).map (fun k => [3, k, (!t.sec.coresOut.contains k).toNat])) s)

/-- The certificate chain, which is served only where the device certificate's key is the derived one (R413). -/
def certChain : Option (List Byte) :=
  if Config.certKey () = Config.mlDsaPublic identitySeed then some (Config.certChain ()) else none

/-- Serial, identity public key, certificate chain with its length. -/
def execReadIdentity (c : Call) (cursor : Nat) (s : State) : Host.Outcome State Fault Refusal :=
  .next (serveRead c 0x9001 cursor (fun _ t =>
    let chain := certChain.getD []
    [[0, t.chip.serial.toNat, certChain.isSome.toNat, chain.length], 1 :: words8 (Config.mlDsaPublic identitySeed),
     2 :: words8 (chain ++ List.replicate 7 0)]) s)

/-! ## Key slots (R401 to R406) -/

/-- Length of a KEY_LOAD payload of valid USAGE, FORM and KEYLEN (Table 14-3). -/
def keyPayload (usage form len : Nat) : Nat := 16 + (if usage = 1 then 2 * len else len) + (if form = 1 then 8 else 0)

/-- Fields of a KEY_LOAD payload that need no slot are valid. -/
def keyFieldsOk (bs : List Byte) : Bool :=
  keyLenOk (u bs 0 1) (u bs 2 1) && decide (u bs 1 1 ≤ 1) && u bs 3 1 == 0 && u bs 8 8 == 0 && (u bs 1 1 == 1 || u bs 4 4 == 0xFFFFFFFF)

/-- An XTS key with two equal halves. -/
def xtsHalves (usage len : Nat) (key : List Byte) : Bool := usage == 3 && key.take (len / 2) == key.drop (len / 2)

/-- Stores a key, or the two keys of a pair, at a free slot (R400, R401). -/
def storeKey (part usage len slot : Nat) (key : List Byte) (s : State) : State :=
  let put := fun (n : Nat) (rx : Bool) (k : List Byte) (t : State) =>
    modSec (fun x => { x with keys := tset x.keys n { usage := usage, part := part, key := k, rx := rx, count := 0 } }) t
  if usage = 1 then put (slot + 1) true (key.drop len) (put slot false (key.take len) s) else put slot false key s

/-- Loads key material that is in the clear. -/
def placeKey (part usage len : Nat) (key : List Byte) (s : State) : Ans :=
  let pair := usage == 1
  if xtsHalves usage len key then .reject Config.badValue
  else if keysOf part s + pair.toNat + 1 > ((part? part s).map Part.keyLimit).getD 0 then .reject Config.noResource
  else match freeKey pair s with
    | none => .reject Config.noResource
    | some n => .ok (storeKey part usage len n key s) (Body.nums [n])

/-- KEY_LOAD of a payload: the causes of R402 in its order. -/
def keyLoad (part : Nat) (bs : List Byte) (s : State) : Ans :=
  let usage := u bs 0 1
  let len := u bs 2 1
  let material := bs.drop 16
  if bs.length < 16 then .reject Config.badLength
  else if !keyFieldsOk bs then .reject Config.badValue
  else if bs.length ≠ keyPayload usage (u bs 1 1) len then .reject Config.badLength
  else if u bs 1 1 = 0 then
    if xtsHalves usage len material then .reject Config.badValue
    else if ((part? part s).map Part.keyClear).getD false then placeKey part usage len material s
    else .reject Config.notPermitted
  else match keySlot? (u bs 4 4) s with
    | some w =>
      if w.usage ≠ 4 ∨ w.part ≠ part then .reject Config.notPermitted
      else
        (match Config.aesUnwrap w.key material with
         | none => .reject Config.keyUnwrapFail
         | some key => placeKey part usage len (fitBytes (material.length - 8) key) s)
    | none => .reject Config.notPermitted

def execKeyLoad (c : Call) (s : State) : Host.Outcome State Fault Refusal :=
  .next (serve c 0x9010 (fun r t => keyLoad r.part r.payload t) s)

/-- The slots that go with a slot: both of a pair, or itself. -/
def slotsWith (n : Nat) (k : KeySlot) : List Nat := if k.usage = 1 then [n / 2 * 2, n / 2 * 2 + 1] else [n]

def execKeyErase (c : Call) (slot : Nat) (s : State) : Host.Outcome State Fault Refusal :=
  .next (serve c 0x9011 (fun r t =>
    match keySlot? slot t with
    | none => .reject Config.badValue
    | some k =>
      if k.part ≠ r.part then .reject Config.notPermitted
      else if keyNamed slot k t then .reject Config.wrongState
      else .ok (modSec (fun x => { x with keys := (slotsWith slot k).foldl tdel x.keys }) t) Body.empty) s)

/-- The queue pair bound to a slot: 0xFFFFFFFF for none. -/
def boundTo (n : Nat) (k : KeySlot) (s : State) : Nat :=
  ((s.qe.qps.find? (fun e => e.2.qstate != .reset && k.usage == 1 && e.2.keySlot != 0xFFFFFFFF && e.2.keySlot / 2 == n / 2)).map Prod.fst).getD
    0xFFFFFFFF

/-- Slot, USAGE, KEYLEN, owner, bound queue pair, invocation counter of a transmit key, check value. -/
def execReadKeys (c : Call) (cursor : Nat) (s : State) : Host.Outcome State Fault Refusal :=
  .next (serveRead c 0x9012 cursor (fun r t =>
    (t.sec.keys.filter (fun e => e.2.part == r.part)).map (fun (e : Nat × KeySlot) =>
      [e.1, e.2.usage, e.2.key.length, e.2.part, boundTo e.1 e.2 t, if e.2.rx then 0 else e.2.count, keyCheck e.2])) s)

def execSetKeyPolicy (c : Call) (limit : Nat) (clear : Bool) (s : State) : Host.Outcome State Fault Refusal :=
  .next (serve c 0x9030 (fun r t =>
    if limit > 65536 then .reject Config.badValue
    else if limit < keysOf r.part t then .reject Config.wrongState
    else .ok (modPart r.part (fun p => { p with keyLimit := limit, keyClear := clear }) t) Body.empty) s)

/-! ## Descriptor rings (R407, R410) -/

def execSetCipherRing (c : Call) (base log vec : Nat) (s : State) : Host.Outcome State Fault Refusal :=
  .next (serve c 0x9020 (fun r t =>
    if base % 4096 ≠ 0 ∨ base ≥ 2 ^ 57 ∨ log < 4 ∨ log > 12 ∨ vec ≥ vectors c.func then .reject Config.badValue
    else if (cring? r.part t).any (fun k => k.db != k.di) then .reject Config.wrongState
    else
      let k : CipherRing := { base := base, log := log, func := c.func, vec := vec, db := 0, ci := 0, di := 0, status := 0, loop := .idle,
                              descs := [] }
      .ok (modSec (fun x => { x with rings := tset x.rings r.part k }) t) Body.empty) s)

/-- Base, size, function, vector, announced and done indices, CE_RSTAT. -/
def execReadCipherRing (c : Call) (cursor : Nat) (s : State) : Host.Outcome State Fault Refusal :=
  .next (serveRead c 0x9021 cursor (fun r t =>
    ((cring? r.part t).map (fun k => [k.base, k.log, k.func, k.vec, k.db, k.di, k.status * 65536 + diff32 k.db k.di])).toList) s)

/-- Is a core of the kind that a descriptor's operation uses, and in service (Table 14-1)? -/
def coreServes (op core : Nat) (s : State) : Bool :=
  !s.sec.coresOut.contains core && decide (if op = 5 then 16 ≤ core ∧ core < 20 else if op = 6 then 20 ≤ core ∧ core < 22 else core < 16)

/-- The descriptor has been computed, so that its computation was checked (R397). -/
def descChecked (code detail : Nat) : Bool := code == 0 || detail == 1 || detail == 2 || detail == 6

/-- The `k`-th computed descriptor of a ring leaves the engine. `miss`: its check failed on a core, with so many pieces of
output already written (R398, R410). -/
def execDescriptorDone (part k : Nat) (miss : Option (Nat × Nat)) (s : State) : Host.Outcome State Fault Refusal :=
  let computed := fun (d : StartedDesc) => match d.st with
    | .computed _ _ _ _ => true
    | _ => false
  done (match ((cring? part s).map (fun r => r.descs.filter computed)).bind (fun l => l[k]?) with
    | none => s
    | some e =>
      match e.st, miss with
      | .computed out tag code detail, some (core, pieces) =>
        if descChecked code detail && coreServes e.desc.op core s then
          releaseDesc part e (List.replicate (min (4096 * pieces) out.length) 0) [] Config.ccProtection 3 (ceCount part 4 1 (coreMiss core s))
        else releaseDesc part e out tag code detail s
      | .computed out tag code detail, none => releaseDesc part e out tag code detail s
      | _, _ => s)

/-! ## Fuses and cores (R399, R420, R421) -/

/-- A flash image verifies with at least this SVN. -/
def flashAtLeast (v d : Nat) (s : State) : Bool := (flashFails d s).isEmpty && decide (v ≤ (Image.parse (rdMem (spFlash d) 0 64 s)).svn)

def execSvnCommit (c : Call) (v : Nat) (s : State) : Host.Outcome State Fault Refusal :=
  .next (serve c 0x9031 (fun _ t =>
    if v > 64 ∨ v < t.chip.fusedSvn then .reject Config.badValue
    else if !(flashAtLeast v 0 t && flashAtLeast v 1 t) then .reject Config.wrongState
    else .ok { t with chip := { t.chip with fusedSvn := v } } Body.empty) s)

/-- The flash image names a root-key slot. -/
def flashNames (slot d : Nat) (s : State) : Bool :=
  let h := rdMem (spFlash d) 0 64 s
  h.take 8 == imgMagic && (Image.parse h).root == slot

def execKeyRevoke (c : Call) (slot : Nat) (s : State) : Host.Outcome State Fault Refusal :=
  .next (serve c 0x9850 (fun _ t =>
    if slot > 3 then .reject Config.badValue
    else if flashNames slot 0 t || flashNames slot 1 t || (List.range 4).all (fun k => k == slot || bitOf k t.chip.revoked) then
      .reject Config.wrongState
    else .ok { t with chip := { t.chip with revoked := t.chip.revoked ||| 2 ^ slot } } Body.empty) s)

def execCipherCoreEnable (c : Call) (core : Nat) (s : State) : Host.Outcome State Fault Refusal :=
  .next (serve c 0x9851 (fun _ t =>
    if core ≥ 22 then .reject Config.badValue
    else if !t.sec.coresOut.contains core then .reject Config.wrongState
    else .ok (modSec (fun k => { k with coresOut := k.coresOut.filter (· != core), misses := tdel k.misses core }) t) Body.empty) s)

end Sys2Proof.Machine
end

