-- ==== Sys2Proof/Machine/PartCmds.lean ====
section
/-! DEFINITION. Partitions (15): creation with grants, bench slots, destruction, readback. -/

namespace Sys2Proof.Machine

open Sys2Proof

/-! ## Bench slots (R32, R104, R448) -/


/-- A group before its first placement (R76). -/
def Group.fresh : Group := { slots := [], first := 0, phase := .waiting, pinned := false, portWait := 32, quantumAt := 0, saved := [] }

/-- A transfer that works for one slot of a group. -/
def slotXfer (part slot : Nat) (f : Xfer) : Bool :=
  (f.owner.kind == .image && f.owner.a == part * 16 + slot) || (f.owner.kind == .tileDma && f.owner.a / 8 == part * 16 + slot) ||
  (f.owner.kind == .stream && f.owner.a / 64 == part * 16 + slot)

/-- A tile of a bench as after reset: registers, SRAM and IMEM. -/
def wipeTile (s : State) (t : Nat) : State :=
  modTile t (fun _ => Tile.fresh) { s with mem := clearRange (clearRange s.mem (mkey (spTile t) 0) tileSram) (mkey (spImem t) 0) tileImem }

/-- Takes a slot's stream out; an UNBIND_STREAM that waits for it is answered. -/
def endBind (s : State) (k : Nat) : State :=
  match bind? k s with
  | none => s
  | some b => match b.unbindMb with
    | some m => finish m Config.ok (Body.nums [b.drops]) (dropBind k s)
    | none => dropBind k s

/-- A load or a reload of a slot is staged or under way (R38). -/
def slotLoading (st : SlotSt) : Bool := st.wstate == .loading || st.wstate == .reloadPending || !st.staged.isEmpty

/-- A slot that is given up: its transfers, streams, image and save area go. -/
def dropSlot (part : Nat) (s : State) (slot : Nat) : State :=
  match group? part s with
  | none => s
  | some g =>
    let s2 := (tkeys (s.xl.xfers.filter (fun e => slotXfer part slot e.2))).foldl (fun t x => cancelXfer x t) s
    let s3 := (tkeys (s2.ti.binds.filter (fun e => e.2.part == part && e.2.slot == slot))).foldl endBind s2
    let s4 := if onBenches g then (List.range 8).foldl (fun t i => wipeTile t (benchOf g slot * 8 + i)) s3 else s3
    let h := (group? part s4).getD g
    unreserve (fun u => u == .saveArea part slot)
      (setGroup part { h with slots := tdel h.slots slot, saved := h.saved.filter (fun e => e.1 / 8 != slot) } s4)

/-- Takes out a group without slots. -/
def dropEmptyGroup (part : Nat) (s : State) : State :=
  match group? part s with
  | some g => if g.slots.isEmpty then { s with ti := { s.ti with groups := tdel s.ti.groups part } } else s
  | none => s

/-- A group with EMPTY slots added, from `m` up to `n`. -/
def withSlots (m n : Nat) (g : Group) : Group :=
  { g with slots := ((List.range n).drop m).foldl (fun l i => tset l i SlotSt.fresh) g.slots }

/-- Records a grant; the save areas of R104 are taken where the total exceeds 16. -/
def grantSlots (part n : Nat) (g : Group) (s : State) : Option State :=
  let s1 := setGroup part g (modPart part (fun p => { p with slots := n }) s)
  if slotsGranted s1 ≤ 16 then some s1 else takeAllAreas s1.ti.groups s1

/-- The added slots of a resident group fit behind its benches. -/
def roomBehind (m n : Nat) (g : Group) (s : State) : Bool := ((List.range n).drop m).all (fun i => benchFree (benchOf g i) s)

/-- A resident group whose next benches are taken cannot grow where it stands. Where the grant leaves more slots than benches, it
leaves its benches with its old slots, into the save areas that the grant takes (R104), and waits to be placed again; else there
are no save areas, and the change finds no consecutive free run (Table 3-8, log 54). -/
def growMoved (part m n : Nat) (g : Group) (s : State) : Ans :=
  match grantSlots part n (withSlots m n g) s with
  | none => .reject Config.noResource
  | some t =>
    if slotsGranted t ≤ 16 then .reject 0x5002
    else if !groupDrained part (drainGroup part s) then .wait
    else match grantSlots part n (withSlots m n ((group? part (drainGroup part s)).getD g)) (drainGroup part s) with
      | none => .reject Config.noResource
      | some u => .ok (placeWaiting part (saveGroup part g u)) Body.empty

/-- A grant of more slots. -/
def growSlots (part m n : Nat) (g : Group) (s : State) : Ans :=
  if g.phase = .saving ∨ g.phase = .restoring then .wait
  else if g.phase = .resident ∧ roomBehind m n g s = false then growMoved part m n g s
  else match grantSlots part n (withSlots m n g) s with
    | none => .reject Config.noResource
    | some u =>
      if g.phase = .resident then
        .ok (((List.range n).drop m).foldl (fun t i => (List.range 8).foldl (fun v k => wipeTile v (benchOf g i * 8 + k)) t) u) Body.empty
      else .ok (placeWaiting part u) Body.empty

/-- A grant of fewer slots. -/
def shrinkSlots (part m n : Nat) (g : Group) (s : State) : Ans :=
  if g.phase = .saving ∨ g.phase = .restoring then .wait
  else
    let s1 := ((List.range m).drop n).foldl (dropSlot part) (modPart part (fun p => { p with slots := n }) s)
    .ok (releaseAreas (placeWaiting part (dropEmptyGroup part s1))) Body.empty

def setSlots (part n : Nat) (s : State) : Ans :=
  let m := ((part? part s).map Part.slots).getD 0
  let g := (group? part s).getD Group.fresh
  if n > 16 ∨ (disabled 0 s = true ∧ n ≠ 0) then .reject Config.badValue
  else if s.ti.jobs.any (fun e => e.2.part == part) || g.pinned then .reject Config.wrongState
  else if g.slots.any (fun e => decide (n ≤ e.1) && slotLoading e.2) then .reject Config.busy
  else if n = m then .ok s Body.empty
  else if m < n then growSlots part m n g s
  else shrinkSlots part m n g s

def execPartSetSlots (c : Call) (slots : Nat) (s : State) : Host.Outcome State Fault Refusal :=
  done (serve c 0x2003 (fun r t => setSlots r.part slots t) s)

/-! ## Creation (R31, R447) -/

/-- PART_CREATE's payload (Table 15-6). -/
structure PartSet where
  part : Nat
  flags : Nat
  slots : Nat
  qps : Nat
  cqs : Nat
  passes : Nat
  tallies : Nat
  namespaces : Nat
  zeroSet : Bool

def PartSet.parse (bs : List Byte) : PartSet :=
  { part := u bs 0 1, flags := u bs 1 1, slots := u bs 2 1, qps := u bs 4 4, cqs := u bs 8 4, passes := u bs 12 4, tallies := u bs 16 2,
    namespaces := u bs 18 2, zeroSet := u bs 3 1 != 0 || u bs 20 12 != 0 }

/-- The fields are in range; a non-zero slot count needs the tiles (R550). -/
def partSetOk (p : PartSet) (s : State) : Bool :=
  decide ((1 ≤ p.part ∧ p.part ≤ 63) ∨ p.part = 0xFF) && decide (p.flags ≤ 1) && decide (p.slots ≤ 16) && !p.zeroSet &&
  decide (p.qps ≤ Config.poolQps) && decide (p.cqs ≤ Config.poolCqs) && decide (p.passes ≤ Config.poolPasses) &&
  decide (p.tallies ≤ Config.poolTallies) && decide (p.namespaces ≤ Config.poolNamespaces) && (p.slots == 0 || !disabled 0 s)

/-- What partition 0 does not use of its holdings meets the grants (R447). -/
def grantsMet (p : PartSet) (z : Part) (s : State) : Bool :=
  decide (p.qps ≤ z.qps - qpsOf 0 s) && decide (p.cqs ≤ z.cqs - cqsOf 0 s) && decide (p.passes ≤ z.passes - passesOf 0 s) &&
  decide (p.tallies ≤ z.tallies - talliesUsed 0 s) && decide (p.namespaces ≤ z.namespaces - nssOf 0 s)

/-- The new partition: its grants, and every other setting at its default. -/
def Part.made (p : PartSet) : Part :=
  { Part.zero with
    expert := p.flags == 1, slots := 0, qps := p.qps, cqs := p.cqs, passes := p.passes, tallies := p.tallies, namespaces := p.namespaces }

/-- Makes partition `n`. -/
def makePart (n : Nat) (p : PartSet) (s : State) : Ans :=
  let s1 := modPart 0 (fun z => { z with
    qps := z.qps - p.qps, cqs := z.cqs - p.cqs, passes := z.passes - p.passes, tallies := z.tallies - p.tallies,
    namespaces := z.namespaces - p.namespaces }) s
  let s2 := trimPasses 0 { s1 with parts := tset s1.parts n (Part.made p) }
  if p.slots = 0 then .ok s2 (Body.nums [n])
  else match grantSlots n p.slots (withSlots 0 p.slots Group.fresh) s2 with
    | none => .reject Config.noResource
    | some t => .ok (placeWaiting n t) (Body.nums [n])

def partCreate (header : Nat) (p : PartSet) (s : State) : Ans :=
  if header ≠ 0 ∨ partSetOk p s = false then .reject Config.badValue
  else if p.part ≠ 0xFF ∧ (part? p.part s).isSome then .reject Config.wrongState
  else match (if p.part = 0xFF then lowestFree (tkeys s.parts) 1 63 else some p.part), part? 0 s with
    | some n, some z => if grantsMet p z s then makePart n p s else .reject Config.noResource
    | _, _ => .reject Config.noResource

def execPartCreate (c : Call) (s : State) : Host.Outcome State Fault Refusal :=
  .next (serve c 0x2000 (fun r t => partCreate r.part (PartSet.parse r.payload) t) s)

def execPartSetExpert (c : Call) (grant : Bool) (s : State) : Host.Outcome State Fault Refusal :=
  .next (serve c 0x2002 (fun r t =>
    if r.part = 0 then .reject Config.badValue else .ok (modPart r.part (fun p => { p with expert := grant }) t) Body.empty) s)

/-- State, expert level, each grant with its use, and functions of each partition. -/
def execReadPartitions (c : Call) (cursor : Nat) (s : State) : Host.Outcome State Fault Refusal :=
  .next (serveRead c 0x2010 cursor (fun _ t =>
    (t.parts.filter (fun (e : Nat × Part) => sees c e.1 t)).map (fun (e : Nat × Part) =>
      let p := e.2
      [e.1, p.destroying.toNat, p.expert.toNat, p.slots, p.qps, qpsOf e.1 t, p.cqs, cqsOf e.1 t, p.passes, passesOf e.1 t, p.tallies,
       talliesUsed e.1 t, p.namespaces, nssOf e.1 t] ++
      (List.range 256).filter (fun f => funcPart f t == e.1 && (c.func == 0 || f == c.func)))) s)

/-! ## Destruction (R449) -/

/-- Functions of a partition. -/
def funcsOf (part : Nat) (s : State) : List Nat := (List.range 256).filter (fun f => funcPart f s == part)

/-- Step 2: its functions quiesce toward DISABLED. -/
def quiesceFuncs (part : Nat) (s : State) : State :=
  (funcsOf part s).foldl (fun t f => match (func? f t).fstate with
    | .enabled => beginQuiesce f 1 .disabled false false none t
    | .quiescing => modFunc f (fun g => { g with after := .disabled }) t
    | .disabled => t) s

/-- Step 3: its hall passes are revoked. -/
def revokeAll (part : Nat) (s : State) : State :=
  (tkeys (s.qe.passes.filter (fun e => e.2.part == part && e.2.pstate == .valid))).foldl (fun t i => beginRevoke i none t) s

/-- Step 4: its translation faults are answered as FAIL. -/
def failFaults (part : Nat) (s : State) : State :=
  (s.xl.faults.filter (fun f => f.part == part)).foldl (fun t f => endXfer f.xfer Config.ccProtection (dropFault part f.tag t)) s

/-- Ends one collective of a broken or destroyed group with a code. -/
def stopColl (code : Nat) (s : State) (id : Nat) : State :=
  match coll? id s with
  | none => s
  | some c => match cgroup? c.group s with
    | some g => endColl id g c code 0xFFFF s
    | none => s

def collsOf (part : Nat) (s : State) : List Nat :=
  tkeys (s.cu.colls.filter (fun e => (cgroup? e.2.group s).any (fun g => g.part == part)))

/-- Step 5: jobs, collectives, storage commands and checkpoint jobs end with 0x07, and the QPs are flushed. -/
def endWork (part : Nat) (s : State) : State :=
  let s1 := (tkeys (s.ti.jobs.filter (fun e => e.2.part == part))).foldl (fun t j => endJob j Config.ccFlushed 0 t) s
  let s2 := (collsOf part s1).foldl (stopColl Config.ccFlushed) s1
  let s3 := (s2.sb.tasks.filter (fun e => decide (e.1 < serialKey) && taskPart e.1 s2 == part)).foldl (fun t e =>
    if e.2.phase = .queued then dropTask e.1 t else closeTask e.1 Config.ccFlushed 0 t) s2
  let s4 := (tkeys (s3.ck.jobs.filter (fun e => e.2.part == part))).foldl (fun (t : State) (j : Nat) => match ckJob? j t with
    | some x => ckFail j Config.ccFlushed 11 (phaseNo x.phase) t
    | none => t) s3
  (tkeys (s4.qe.qps.filter (fun e => e.2.part == part))).foldl (fun t n => failQp n 0 0 0 false t) s4

/-- Unloads a slot that PART_DESTROY finds. A load or reload under way runs to its end (R36); a reload kept for a SAVED slot has
replaced the sources that it names and is answered. -/
def unloadSlot (part : Nat) (s : State) (i : Nat) : State :=
  match slotSt? part i s with
  | none => s
  | some st =>
    if st.wstate = .loading ∨ st.wstate = .reloadPending then s
    else
      let s1 := modSlot part i (fun x => { x with wstate := .empty, regions := [], staged := [], loadMb := none }) s
      match st.loadMb with
      | some m => finish m Config.ok Body.empty s1
      | none => s1

/-- Step 6: its key slots are erased, its ring announces no more, its group is unloaded. -/
def unloadAll (part : Nat) (s : State) : State :=
  let s1 := modSec (fun k => { k with keys := k.keys.filter (fun e => e.2.part != part) }) (modRing part (fun r => { r with db := r.ci }) s)
  match group? part s1 with
  | some g => (tkeys g.slots).foldl (unloadSlot part) s1
  | none => s1

def execPartDestroy (c : Call) (s : State) : Host.Outcome State Fault Refusal :=
  done (serve c 0x2001 (fun r t =>
    if r.part = 0 then .reject Config.badValue
    else
      let p := r.part
      let u := modPart p (fun x => { x with destroying := true, destroyer := some (callRef c t) }) t
      .later (unloadAll p (endWork p (failFaults p (revokeAll p (quiesceFuncs p u))))) true) s)

/-- No slot of the group has a load or reload under way, and its bench DMA has drained; what a slice-out abandoned moves nothing. -/
def groupQuiet (part : Nat) (s : State) : Bool :=
  ((group? part s).map (fun g => g.slots.all (fun e => !slotLoading e.2))).getD true &&
  !s.xl.xfers.any (fun e => e.2.part == part && (e.2.owner.kind == .stream || e.2.owner.kind == .image) && e.2.st != .held .sliced)

/-- Every engine has drained and every quiesce has ended. -/
def partDrained (part : Nat) (s : State) : Bool :=
  !s.xl.xfers.any (fun e => e.2.part == part && e.2.owner.kind != .stream && e.2.owner.kind != .image) && groupQuiet part s &&
  !s.xl.walks.any (fun e => e.2.part == part) && !s.xl.invals.any (fun i => i.part == part) &&
  !s.qe.passes.any (fun e => e.2.part == part && e.2.pstate != .free) &&
  s.qe.qps.all (fun e => e.2.part != part || e.2.qstate == .reset || (e.2.qstate == .error && flushed e.2)) &&
  !s.ti.jobs.any (fun e => e.2.part == part) &&
  (collsOf part s).isEmpty && !s.sb.tasks.any (fun e => decide (e.1 ≠ serialKey) && taskPart e.1 s == part) &&
  !s.ck.jobs.any (fun e => e.2.part == part) && (cring? part s).all (fun r => r.descs.isEmpty) &&
  (funcsOf part s).all (fun f => (func? f s).fstate == .disabled)

/-- Objects of the queues return: queue pairs, completion queues, pass indices, counters. -/
def freeQueues (part : Nat) (s : State) : State :=
  let s1 := (tkeys (s.qe.qps.filter (fun e => e.2.part == part))).foldl (fun t n => dropQp n (quietQp n t)) s
  let s2 := trimPasses part (modPart part (fun p => { p with passes := 0 }) s1)
  modQe (fun q => { q with
    cqs := q.cqs.filter (fun e => e.2.part != part), tallies := q.tallies.filter (fun e => e.1 / 65536 != part),
    tcsel := tdel q.tcsel part }) s2

/-- Groups of collectives, target connections with their namespaces, and checkpoint set-ups go. -/
def freeUnits (part : Nat) (s : State) : State :=
  let hs := tkeys (s.cu.groups.filter (fun e => e.2.part == part))
  let is := tkeys (s.ck.setups.filter (fun e => e.2.part == part))
  let cs := tkeys (s.sb.conns.filter (fun e => e.2.part == part))
  let s1 := modCu (fun u => { u with groups := u.groups.filter (fun e => e.2.part != part) }) s
  let s2 := modCk (fun k => { k with setups := k.setups.filter (fun e => e.2.part != part) }) s1
  let s3 := modSb (fun b => { b with
    nss := b.nss.filter (fun e => !cs.contains e.2.conn), conns := b.conns.filter (fun e => e.2.part != part) }) s2
  unreserve (fun u => match u with
    | .residual h => hs.contains h
    | .parity _ i => is.contains i
    | _ => false) s3

/-- Its group, ring, translation and gang grants go. -/
def freeRest (part : Nat) (s : State) : State :=
  let s1 := dropEmptyGroup part (((group? part s).map (fun g => tkeys g.slots)).getD [] |>.foldl (dropSlot part) s)
  let s2 := modSec (fun k => { k with rings := tdel k.rings part }) (dropScope part .whole s1)
  let gangs := s2.jl.gangs.map (fun (e : Nat × Gang) => if e.2.grant = some part then (e.1, { e.2 with grant := none }) else e)
  let s3 := { s2 with xl := { s2.xl with trans := tdel s2.xl.trans part }, jl := { s2.jl with gangs := gangs } }
  releaseAreas (placeWaiting part s3)

/-- Step 7: functions and resources return to partition 0, and the command is answered. -/
def removePart (n : Nat) (p : Part) (s : State) : State :=
  let s1 := (funcsOf n s).foldl (fun t f => modFunc f (fun g => { g with part := 0 }) t) s
  let s2 := freeRest n (freeUnits n (freeQueues n s1))
  let s3 := modPart 0 (fun z => { z with
    qps := z.qps + p.qps, cqs := z.cqs + p.cqs, passes := z.passes + p.passes, tallies := z.tallies + p.tallies,
    namespaces := z.namespaces + p.namespaces }) { s2 with parts := tdel s2.parts n }
  match p.destroyer with
  | some m => finish m Config.ok Body.empty s3
  | none => s3

def execPartDestroyDone (part : Nat) (s : State) : Host.Outcome State Fault Refusal :=
  match part? part s with
  | some p => if p.destroying = true ∧ partDrained part s = true then done (removePart part p s) else .next s
  | none => .next s

end Sys2Proof.Machine
end

