-- ==== Sys2Proof/Machine/TransportCmds.lean ====
section
/-! DEFINITION. Commands and events of the Pratos transport and of RoCEv2 connections (09). -/

namespace Sys2Proof.Machine

open Sys2Proof

/-! ## Packets received -/

def fenced (a : BitVec 128) (s : State) : Bool := s.qe.fences.any (fun f => f.addr == a)

/-- Takes a packet out of those handed over, with the buffer space it holds (R324). -/
def takeArrived (i : Nat) (s : State) : Option (Arrived × State) :=
  match s.qe.arrived[i]? with
  | none => none
  | some a =>
    some (a, freeRoom { pool := a.pool, bytes := a.room } (modQe (fun q => { q with arrived := q.arrived.eraseIdx i }) s))

/-- What an answer to a PT packet goes by (R271, R283). -/
def viaOf (a : Arrived) : Via := { port := a.port, sport := a.udpSrc, ts := beAt a.bytes 32 4, psn := beAt a.bytes 8 4 }

/-- A PT packet at its QP (R273 to R276). -/
def ptHandle (op : Nat) (a : Arrived) (q : Qp) (s : State) : State :=
  if op = 8 then onAck a.qpn a.die a.bytes s
  else
    let s1 := if ptGen a.bytes = q.gen then modX a.qpn (fun x => { x with via := viaOf a }) s else s
    let s2 := rxPacket a.qpn a.die (ptGen a.bytes) (ptParse a.bytes (a.bytes.drop 36) a.ce (viaOf a)) s1
    if op = 4 then sqKick a.qpn (finishRemoteReads a.qpn s2) else s2

/-- A PT packet with an OP is taken up. A packet from a fenced peer is dropped; one whose QP is of another TYPE has no
connection to reach. -/
def ptArrive (op i : Nat) (s : State) : State :=
  match takeArrived i s with
  | none => s
  | some (a, s1) =>
    if a.roce || beAt a.bytes 1 1 != op then s
    else if !a.loc && fenced a.src s then bump (bkTransport a.die) 7 1 s1
    else match qp? a.qpn s1 with
      | none => bump (bkTransport a.die) 4 1 s1
      | some q => if q.typ ≠ (if a.loc then 2 else 0) then bump (bkTransport a.die) 6 1 s1 else ptHandle op a q s1

def execPtSend (i : Nat) (s : State) : Host.Outcome State Fault Refusal := done (ptArrive 1 i s)

def execPtWrite (i : Nat) (s : State) : Host.Outcome State Fault Refusal := done (ptArrive 2 i s)

def execPtReadReq (i : Nat) (s : State) : Host.Outcome State Fault Refusal := done (ptArrive 3 i s)

def execPtReadResp (i : Nat) (s : State) : Host.Outcome State Fault Refusal := done (ptArrive 4 i s)

def execPtFadd (i : Nat) (s : State) : Host.Outcome State Fault Refusal := done (ptArrive 5 i s)

def execPtCas (i : Nat) (s : State) : Host.Outcome State Fault Refusal := done (ptArrive 6 i s)

def execPtAtomicResp (i : Nat) (s : State) : Host.Outcome State Fault Refusal := done (ptArrive 7 i s)

def execPtAck (i : Nat) (s : State) : Host.Outcome State Fault Refusal := done (ptArrive 8 i s)

/-- A RoCEv2 packet is taken up (R288, R289). -/
def execRocePacket (i : Nat) (s : State) : Host.Outcome State Fault Refusal :=
  done (match takeArrived i s with
    | none => s
    | some (a, s1) =>
      if !a.roce then s
      else if fenced a.src s then bump (bkTransport a.die) 7 1 s1
      else rxRoce a.qpn a.die a.ce a.bytes s1)

/-- A message is visible, or has failed: VMSN passes it and what is done behind it (R258, R276). -/
def execPlacementDone (qpn msn : Nat) (s : State) : Host.Outcome State Fault Refusal :=
  done (match qp? qpn s with
    | none => s
    | some q =>
      if q.x.vmsnRx = msn ∧ (inMsg? q msn).any msgDone = true then releaseMsgs qpn (q.inMsgs.length + 1) false s else s)

/-- An ACK falls due while admitted packets are not acknowledged (R276). -/
def execAckTimer (qpn : Nat) (s : State) : Host.Outcome State Fault Refusal :=
  done (match qp? qpn s with
    | some q => if q.x.ackDue ∧ streaming q = true then sendAck qpn 0 0 0 s else s
    | none => s)

/-! ## Timers of the sender -/

/-- The window and the timer after a retransmission timeout (R278, R284). -/
def timedOut (cc : CcParams) (mtu now : Nat) (x : Xport) : Xport :=
  { x with cwnd := cc.minW * mtu, lastCut := now, rto := min (2 * x.rto) 100000000 }

/-- The timer of an unacknowledged packet expires (R278, R279, R284; R289 for TYPE 1). A local pair loses no packet. -/
def execRtoExpiry (qpn psn : Nat) (s : State) : Host.Outcome State Fault Refusal :=
  done (match qp? qpn s with
    | none => s
    | some q =>
      match q.x.unacked.find? (fun p => p.psn == psn && !p.acked) with
      | none => s
      | some p =>
        if q.typ = 2 then s
        else
          let s1 := modX qpn (timedOut s.qe.cc (mtuBytes q.mtu) s.chip.lcount) s
          sqKick qpn (if q.typ = 1 then goBack qpn psn s1 else losePkt qpn p s1))

/-- Puts an element before the first that does not precede it. -/
def insertBy (before : TxPkt → TxPkt → Bool) (p : TxPkt) : List TxPkt → List TxPkt
  | [] => [p]
  | q :: r => if before q p then q :: insertBy before p r else p :: q :: r

/-- Unacknowledged packets from a PSN on that have been sent, those declared lost among them, in PSN order. -/
def fromPsn (typ psn : Nat) (x : Xport) : List TxPkt :=
  let dist := fun (p : TxPkt) => if typ = 1 then diff24 p.psn psn else diff32 p.psn psn
  let half := if typ = 1 then 2 ^ 23 else 2 ^ 31
  ((x.queue ++ x.unacked).filter (fun p => p.sends != 0 && !p.acked && decide (dist p < half))).foldr
    (insertBy (fun a b => decide (dist a < dist b))) []

/-- Sends again from NAKPSN on, in PSN order, before everything else of the stream (R280). -/
def resendFrom (typ psn : Nat) (x : Xport) : Xport :=
  let ps := fromPsn typ psn x
  requeue ps { x with queue := x.queue.filter (fun p => !ps.any (fun k => k.psn == p.psn)), rnrWait := false }

/-- RNRDLY has passed: the sender goes on from NAKPSN (R280). -/
def execRnrWaitExpiry (qpn : Nat) (s : State) : Host.Outcome State Fault Refusal :=
  done (match qp? qpn s with
    | some q =>
      if q.x.rnrWait then
        sqKick qpn (modX qpn (fun x => resendFrom q.typ x.rnrTxPsn x) s)
      else s
    | none => s)

/-- A path's penalty of 4 × SRTT has passed (R283). -/
def execPathPenaltyEnd (qpn path : Nat) (s : State) : Host.Outcome State Fault Refusal :=
  .next (match qp? qpn s with
    | some q => if bitOf path q.x.penalty then modX qpn (fun x => { x with penalty := x.penalty - 2 ^ path }) s else s
    | none => s)

/-! ## Fencing (R287) -/

/-- QPs whose peer an address is. -/
def peersAt (a : BitVec 128) (s : State) : List Nat :=
  tkeys (s.qe.qps.filter (fun e => e.2.typ != 2 && e.2.peerAddr == a && e.2.qstate != .reset && e.2.qstate != .error))

/-- Admitted accesses of the QPs that are stalled are abandoned (R255). -/
def abandonPeers (qps : List Nat) (s : State) : State :=
  s.xl.xfers.foldl (fun (t : State) (e : Nat × Xfer) =>
    if qps.contains e.2.owner.a ∧ (e.2.owner.kind = .inbound ∨ e.2.owner.kind = .readResp ∨ e.2.owner.kind = .atomic) then
      match e.2.st with
      | .stalled tag => failUnit e.1 Config.ccRemoteAccess (dropFault e.2.part tag t)
      | .held .sliced => failUnit e.1 Config.ccRemoteAccess t
      | _ => t
    else t) s

/-- Fences a peer: its QPs enter ERROR as for a lost peer. -/
def fencePeer (a : BitVec 128) (mb : MbRef) (s : State) : State :=
  let qps := peersAt a s
  let s1 := modQe (fun q => { q with fences := q.fences ++ [{ addr := a, qps := qps, mb := some mb }] }) s
  abandonPeers qps (qps.foldl (fun t n => failQp n Config.ccFenced 0 0 true t) s1)

def execFencePeer (c : Call) (addr : BitVec 128) (s : State) : Host.Outcome State Fault Refusal :=
  done (serve c 0x4100 (fun _ t =>
    match t.qe.fences.find? (fun f => f.addr == addr) with
    | some f => if f.mb.isSome then .wait else .ok t Body.empty
    | none =>
      if t.qe.fences.length ≥ 256 then .reject Config.noResource
      else .later (fencePeer addr (callRef c t) t) true) s)

def execUnfencePeer (c : Call) (addr : BitVec 128) (s : State) : Host.Outcome State Fault Refusal :=
  .next (serve c 0x4101 (fun _ t =>
    match t.qe.fences.find? (fun f => f.addr == addr) with
    | none => .reject Config.wrongState
    | some f =>
      if f.mb.isSome then .wait
      else .ok (modQe (fun q => { q with fences := q.fences.filter (fun f => f.addr != addr) }) t) Body.empty) s)

/-- Each fenced address, in two halves, with the QPs its fence moved to ERROR. -/
def execReadFences (c : Call) (cursor : Nat) (s : State) : Host.Outcome State Fault Refusal :=
  .next (serveRead c 0x4102 cursor (fun _ t =>
    (t.qe.fences.filter (fun f => c.func == 0 || f.qps.any (fun n => (qp? n t).any (fun q => q.part == funcPart c.func t)))).map (fun f =>
      [f.addr.toNat % 2 ^ 64, f.addr.toNat / 2 ^ 64, f.qps.length] ++ f.qps)) s)

/-- UDP source port of a path. -/
def sportOf (q : Qp) (k : Nat) : Nat := if q.typ = 1 then 49152 + q.x.sportBase else pathSport q.x k

/-- Per QP and path: port, source port, penalty, packets sent and declared lost. -/
def execReadPaths (c : Call) (cursor : Nat) (s : State) : Host.Outcome State Fault Refusal :=
  .next (serveRead c 0x4103 cursor (fun r t =>
    (t.qe.qps.filter (fun e => e.2.part == r.part && e.2.typ != 2)).flatMap (fun (e : Nat × Qp) =>
      (List.range e.2.x.nPaths).map (fun k =>
        [e.1, k, pathPort e.2.x k, sportOf e.2 k, (bitOf k e.2.x.penalty).toNat, tgetD e.2.x.pathSent k 0, tgetD e.2.x.pathLost k 0]))) s)

/-! ## Parameters (R285, R268) -/

/-- Table 9-4 in force and the PT UDP port; fractions in ten-thousandths. -/
def execReadCc (c : Call) (cursor : Nat) (s : State) : Host.Outcome State Fault Refusal :=
  .next (serveRead c 0x4104 cursor (fun _ t =>
    let p := t.qe.cc
    [[p.targetNs, p.betaM, p.betaMaxM, p.betaEcnM, p.ai, p.minW, p.maxW, p.initW, p.baseAgeS, p.rtoMinNs, p.rnrDlyUs, t.qe.ptPort]]) s)

/-- The parameters with what SET_CC names changed. -/
def applyCc (p : CcSet) (q : CcParams) : CcParams :=
  let frac := fun (o : Option Nat) (d : Nat) => (o.map (fun n => n * 625)).getD d
  { targetNs := p.targetNs.getD q.targetNs, betaM := frac p.beta16 q.betaM, betaMaxM := frac p.betaMax16 q.betaMaxM,
    betaEcnM := frac p.betaEcn16 q.betaEcnM, ai := p.ai.getD q.ai, minW := p.minW.getD q.minW, maxW := p.maxW.getD q.maxW,
    initW := p.initW.getD q.initW, baseAgeS := p.baseAgeS.getD q.baseAgeS, rtoMinNs := p.rtoMinNs.getD q.rtoMinNs,
    rnrDlyUs := p.rnrDlyUs.getD q.rnrDlyUs }

/-- Ranges of Table 9-4 and of RNRDLY. -/
def ccOk' (q : CcParams) : Bool :=
  decide (1000 ≤ q.targetNs ∧ q.targetNs ≤ 100000) && decide (1000 ≤ q.betaM ∧ q.betaM ≤ 10000) &&
  decide (1250 ≤ q.betaMaxM ∧ q.betaMaxM ≤ 8750) && decide (625 ≤ q.betaEcnM ∧ q.betaEcnM ≤ 5000) &&
  decide (1 ≤ q.ai ∧ q.ai ≤ 8) && decide (1 ≤ q.minW ∧ q.minW ≤ 16) && decide (q.minW ≤ q.maxW ∧ q.maxW ≤ 256) &&
  decide (q.minW ≤ q.initW ∧ q.initW ≤ q.maxW) && decide (1 ≤ q.baseAgeS ∧ q.baseAgeS ≤ 60) &&
  decide (4000 ≤ q.rtoMinNs ∧ q.rtoMinNs ≤ 10000000) && decide (1 ≤ q.rnrDlyUs ∧ q.rnrDlyUs ≤ 255)

def execSetCc (c : Call) (p : CcSet) (s : State) : Host.Outcome State Fault Refusal :=
  .next (serve c 0x4851 (fun _ t =>
    let q := applyCc p t.qe.cc
    if ccOk' q then .ok (modQe (fun e => { e with cc := q }) t) Body.empty else .reject Config.badValue) s)

/-- Packets sent from now on go to the new port; both ports are accepted until the grace ends. -/
def execSetPtPort (c : Call) (port : Nat) (s : State) : Host.Outcome State Fault Refusal :=
  .next (serve c 0x4852 (fun _ t =>
    if port = 0 ∨ port > 65535 then .reject Config.badValue
    else if port = t.qe.ptPort then .ok t Body.empty
    else .ok (modQe (fun e => { e with oldPort := some e.ptPort, ptPort := port }) t) Body.empty) s)

def execPtPortGraceEnd (s : State) : Host.Outcome State Fault Refusal := .next (modQe (fun e => { e with oldPort := none }) s)

end Sys2Proof.Machine
end

