-- ==== Sys2Proof/Machine/PipeCmds.lean ====
section
/-! DEFINITION. Commands of the packet pipeline (11). -/

namespace Sys2Proof.Machine

open Sys2Proof

/-! ## Ports (R321 to R323) -/

/-- Per port: settings, link state of its nodes, and their counters. -/
def execReadPorts (c : Call) (cursor : Nat) (s : State) : Host.Outcome State Fault Refusal :=
  .next (serveRead c 0x8000 cursor (fun _ t =>
    (List.range 8).map (fun n =>
      let p := port? n t
      let up := (List.range 4).foldl (fun a k => a + if t.pp.up.contains (4 * n + k) then 2 ^ k else 0) 0
      [n, p.mode, p.maxFrame, p.reserveKiB, p.enable.toNat, up] ++ (List.range 32).map (fun k => tgetD t.pp.portCtr (n * 32 + k) 0))) s)

/-- Settings within the ranges of R321 to R323. -/
def portSetOk (port : Nat) (p : PortSet) : Bool :=
  decide (port < 8) && decide (p.mode ≤ 2) && decide (1518 ≤ p.maxFrame ∧ p.maxFrame ≤ 9216) && decide (p.reserveKiB ≤ 8192)

/-- A port takes its settings; a port that is disabled has no link. -/
def setPort (port : Nat) (p : PortSet) (s : State) : State :=
  modPipe (fun q => { q with
    ports := tset q.ports port { mode := p.mode, maxFrame := p.maxFrame, reserveKiB := p.reserveKiB, enable := p.enable }
    up := if p.enable then q.up else q.up.filter (fun k => nodePort k != port) }) s

def execSetPort (c : Call) (port : Nat) (p : PortSet) (s : State) : Host.Outcome State Fault Refusal :=
  .next (serve c 0x8001 (fun _ t =>
    let o := port? port t
    if !portSetOk port p then .reject Config.badValue
    else if p.mode ≠ o.mode ∧ o.enable = true then .reject Config.wrongState
    else if p.reserveKiB * 1024 > o.reserveKiB * 1024 + sharedBytes t then .reject Config.noResource
    else .ok (setPort port p t) Body.empty) s)

/-- A port node's link has come up after its training, or gone down. -/
def execPortLinkState (node : Nat) (up : Bool) (s : State) : Host.Outcome State Fault Refusal :=
  .next (if !nodeExists node s || !(port? (nodePort node) s).enable || s.pm.tripped then s
    else modPipe (fun p => { p with up := (p.up.filter (· != node)) ++ (if up then [node] else []) }) s)

/-! ## Rules (R328 to R331) -/

/-- A change of the rule set waits for its epoch. -/
def rulesStaged (s : State) : Bool :=
  s.fw.changes.any (fun c => match c.kind with
    | .rules => true
    | .groupMode _ _ _ => false
    | .refill _ => false)

/-- The staged set, opened where there is none: under the next version number, as a copy of the current set or empty. -/
def openStaged (empty : Bool) (s : State) : RuleSet :=
  match s.pp.staged with
  | some r => r
  | none =>
    let b := if empty then RuleSet.empty else s.pp.cur
    { b with version := (s.pp.cur.version + 1) % 256, hits := [] }

def editRules (es : List RuleEdit) (t : Tab Rule) : Tab Rule :=
  es.foldl (fun t e => match e.rule with
    | some r => tset t e.index r
    | none => tdel t e.index) t

/-- Rule entries in use besides those of the staged set. -/
def residentRules (s : State) : Nat := s.pp.cur.rules.length + s.pp.retiring.foldl (fun a r => a + r.rules.length) 0

/-- A request that WRITE_RULES refuses whole (R328, R329). -/
def editsBad (edits : List RuleEdit) (udf0 udf1 : Option Nat) : Bool :=
  edits.any (fun e => decide (e.index ≥ 16384) || e.rule.any ruleBad) || (udf0.getD 0 > 60) || (udf1.getD 0 > 60)

def execWriteRules (c : Call) (edits : List RuleEdit) (conn : Option Bool) (udf0 udf1 : Option Nat) (empty : Bool) (s : State) :
    Host.Outcome State Fault Refusal :=
  .next (serve c 0x8010 (fun _ t =>
    if editsBad edits udf0 udf1 then .reject Config.badValue
    else if rulesStaged t then .reject Config.busy
    else
      let o := openStaged empty t
      let r := { o with
        rules := editRules edits o.rules
        conn := conn.getD o.conn
        udf0 := udf0.getD o.udf0
        udf1 := udf1.getD o.udf1 }
      if residentRules t + r.rules.length > 65536 then .reject Config.noResource
      else .ok (modPipe (fun p => { p with staged := some r }) t) (Body.nums [r.version])) s)

def execCommitRules (c : Call) (s : State) : Host.Outcome State Fault Refusal :=
  .next (serve c 0x8011 (fun _ t =>
    if t.pp.staged.isNone then .reject Config.wrongState
    else if rulesStaged t || decide (t.pp.retiring.length ≥ 2) then .reject Config.busy
    else .later (stageChange .rules (callRef c t) t) false) s)

def execDiscardStaged (c : Call) (s : State) : Host.Outcome State Fault Refusal :=
  .next (serve c 0x8012 (fun _ t =>
    if t.pp.staged.isNone then .reject Config.wrongState
    else if rulesStaged t then .reject Config.busy
    else .ok (modPipe (fun p => { p with staged := none }) t) Body.empty) s)

/-- A 512-bit number as eight 64-bit ones, most significant first. -/
def words512 (b : BitVec 512) : List Nat := (List.range 8).map (fun i => b.toNat / 2 ^ (64 * (7 - i)) % 2 ^ 64)

/-- A set: its head, and its rules with their counts. -/
def ruleRows (which : Nat) (r : RuleSet) : List (List Nat) :=
  [which, r.version, r.conn.toNat, r.udf0, r.udf1, r.rules.length] ::
  r.rules.map (fun (e : Nat × Rule) =>
    let h := tgetD r.hits e.1 (0, 0)
    [e.1] ++ words512 e.2.key ++ words512 e.2.mask ++
      [e.2.prio, e.2.action, e.2.aflags.toNat, e.2.meter, e.2.newDscp, e.2.spread, e.2.param.toNat, h.1, h.2])

/-- The current, staged and last retired sets. -/
def execReadRules (c : Call) (cursor : Nat) (s : State) : Host.Outcome State Fault Refusal :=
  .next (serveRead c 0x8013 cursor (fun _ t =>
    ruleRows 0 t.pp.cur ++ ((t.pp.staged.map (ruleRows 1)).getD []) ++ ((t.pp.lastRetired.map (ruleRows 2)).getD [])) s)

/-! ## The scheduler (R337 to R342) -/

def shaperOk (h : Shaper) : Bool :=
  decide (h.rateMbps ≤ 800000) && decide (1024 ≤ h.burst ∧ h.burst ≤ 2 ^ 24) && decide (h.lenMode ≤ 1) && decide (h.overhead ≤ 63) &&
  (h.lenMode == 1 || h.overhead == 0)

/-- Settings within the ranges of R338. -/
def schedOk (p : SchedSet) : Bool :=
  decide (p.prio ≤ 7) && decide (1 ≤ p.weight ∧ p.weight ≤ 255) && shaperOk p.shaper && decide (p.tc ≤ 7) && decide (p.dscp ≤ 63) &&
  decide (p.pcp ≤ 7) && decide (p.qlimit ≤ 2 ^ 26)

/-- Objects of each level, and those of their parents' level. -/
def levelCount (level : Nat) : Nat := if level = 0 then 32 else if level = 1 then 256 else if level = 2 then 4096 else 65536

/-- A parent stands on the level above; a port node has none. -/
def parentOk (level : Nat) (p : SchedSet) : Bool :=
  match p.parent with
  | none => true
  | some n => level != 0 && decide (n < levelCount (level - 1))

/-- The class nodes of a partition's grant, and its group node. -/
def grantsClass (part n : Nat) (s : State) : Bool :=
  match (part? part s).bind Part.txGrant with
  | some (_, (lo, k), _) => decide (lo ≤ n ∧ n < lo + k)
  | none => false

def grantsGroup (part n : Nat) (s : State) : Bool :=
  match (part? part s).bind Part.txGrant with
  | some (g, _, _) => g == n
  | none => false

/-- May a function set an object (R342)? -/
def maySet (c : Call) (part level n : Nat) (s : State) : Bool :=
  c.func == 0 || (level == 3 && txqGranted part n s) || (level == 2 && grantsClass part n s)

/-- A parent that lies in the function's grant. -/
def mayHang (c : Call) (part level : Nat) (p : SchedSet) (s : State) : Bool :=
  c.func == 0 || p.parent.all (fun n => if level = 3 then grantsClass part n s else grantsGroup part n s)

/-- Stages the settings of an object for the next refill (R341). -/
def setSched (c : Call) (part level n : Nat) (p : SchedSet) (s : State) : Ans :=
  if n ≥ levelCount level ∨ !schedOk p || !parentOk level p then .reject Config.badValue
  else if !maySet c part level n s then .reject Config.notPermitted
  else if !mayHang c part level p s then .reject Config.badValue
  else if (sched? (schedKey level n) s).next.isSome then .reject Config.busy
  else .ok (modSched (schedKey level n) (fun o => { o with next := some p }) s) Body.empty

def execSetTxq (c : Call) (q : Nat) (p : SchedSet) (s : State) : Host.Outcome State Fault Refusal :=
  .next (serve c 0x8020 (fun r t => setSched c r.part 3 q p t) s)

def execSetNode (c : Call) (kind n : Nat) (p : SchedSet) (s : State) : Host.Outcome State Fault Refusal :=
  .next (serve c 0x8021 (fun r t =>
    if kind > 2 then .reject Config.badValue
    else if kind < 2 ∧ c.func ≠ 0 then .reject Config.notPermitted
    else setSched c r.part kind n p t) s)

def execSetTxGrant (c : Call) (group classLo classN qLo qN : Nat) (s : State) : Host.Outcome State Fault Refusal :=
  .next (serve c 0x8022 (fun r t =>
    if group ≥ 256 ∨ classLo + classN > 4096 ∨ qLo + qN > 65536 then .reject Config.badValue
    else .ok (modPart r.part (fun p => { p with txGrant := some (group, (classLo, classN), (qLo, qN)) }) t) Body.empty) s)

def schedNums (p : SchedSet) : List Nat :=
  [p.parent.isSome.toNat, p.parent.getD 0, p.prio, p.weight, p.shaper.rateMbps, p.shaper.burst, p.shaper.lenMode, p.shaper.overhead, p.tc,
   p.dscp, p.pcp, p.qlimit]

/-- A signed number as a 64-bit one. -/
def int64 (i : Int) : Nat := (i % 2 ^ 64).toNat

/-- A new refill interval is staged, or waits for its refill boundary. -/
def refillStaged (s : State) : Option Nat :=
  match s.pp.refillNext with
  | some q => some q
  | none => s.fw.changes.findSome? (fun c => match c.kind with
    | .refill q => some q
    | _ => none)

/-- The refill interval, committed and staged; the transmit grants of the partitions that a caller sees; for the physical function
the punt and inject rings (R42, R43, log 10). -/
def schedFixed (c : Call) (s : State) : List (List Nat) :=
  [0x20000, s.pp.refillQ, (refillStaged s).isSome.toNat, (refillStaged s).getD 0] ::
  (s.parts.filter (fun (e : Nat × Part) => sees c e.1 s)).filterMap (fun (e : Nat × Part) => e.2.txGrant.map (fun g =>
    [0x20001, e.1, g.1, g.2.1.1, g.2.1.2, g.2.2.1, g.2.2.2])) ++
  (match s.pp.punt with
   | some p => if c.func = 0 then [[0x20002, p.punt, p.puntLog, p.inject, p.injectLog]] else []
   | none => [])

/-- Objects with their committed and staged settings and their tokens in units of 2^-16 byte, and the settings beside them. -/
def execReadSched (c : Call) (cursor : Nat) (s : State) : Host.Outcome State Fault Refusal :=
  .next (serveRead c 0x8023 cursor (fun r t =>
    (t.pp.sched.filter (fun (e : Nat × Sched) => c.func == 0 ||
      (decide (e.1 ≥ 0x10000) && txqGranted r.part (e.1 - 0x10000) t) ||
      (decide (0x1000 ≤ e.1 ∧ e.1 < 0x10000) && grantsClass r.part (e.1 - 0x1000) t) ||
      (decide (0x100 ≤ e.1 ∧ e.1 < 0x1000) && grantsGroup r.part (e.1 - 0x100) t))).map (fun (e : Nat × Sched) =>
      [e.1] ++ schedNums e.2.set ++ [e.2.next.isSome.toNat] ++ ((e.2.next.map schedNums).getD []) ++
        [int64 e.2.tokens, queuedBytes e.2]) ++ schedFixed c t) s)

/-! ## Meters (R335) -/

/-- The largest MAXFRAME of a die's ports. -/
def dieMaxFrame (die : Nat) (s : State) : Nat := ((List.range 4).map (fun k => (port? (4 * die + k) s).maxFrame)).foldl max 0

/-- Settings within the ranges of R335. -/
def meterOk (die n : Nat) (p : MeterSet) (s : State) : Bool :=
  let rate := fun (r : Nat) => decide (1 ≤ r ∧ r ≤ 800000)
  let size := fun (b : Nat) => decide (dieMaxFrame die s ≤ b ∧ b ≤ 2 ^ 24)
  decide (die < 2) && decide (n < 4096) && decide (p.mode ≤ 1) && rate p.cir && (p.mode == 0 || rate p.pir) && size p.cbs && size p.ebs &&
  decide (p.lenMode ≤ 1) && decide (p.overhead ≤ 63) && (p.lenMode == 1 || p.overhead == 0) && p.actions.length == 3 &&
  p.actions.all (fun a => decide (a ≤ 2)) && p.dscps.length == 3 && p.dscps.all (fun d => decide (d ≤ 63))

def execSetMeter (c : Call) (die n : Nat) (p : MeterSet) (s : State) : Host.Outcome State Fault Refusal :=
  .next (serve c 0x8030 (fun _ t =>
    let k := meterKey die n
    if !meterOk die n p t then .reject Config.badValue
    else match tget t.pp.meters k with
      | some m =>
        if m.next.isSome then .reject Config.busy
        else .ok (modPipe (fun q => { q with meters := tset q.meters k { m with next := some p } }) t) Body.empty
      | none =>
        if (tget t.pp.newMeters k).isSome then .reject Config.busy
        else .ok (modPipe (fun q => { q with newMeters := tset q.newMeters k p }) t) Body.empty) s)

def meterNums (p : MeterSet) : List Nat :=
  [p.mode, p.aware.toNat, p.cir, p.pir, p.cbs, p.ebs, p.lenMode, p.overhead] ++ p.actions ++ p.dscps

/-- Meters with their committed and staged settings, buckets in units of 2^-16 byte and counts. -/
def execReadMeters (c : Call) (cursor : Nat) (s : State) : Host.Outcome State Fault Refusal :=
  .next (serveRead c 0x8031 cursor (fun _ t =>
    t.pp.meters.map (fun (e : Nat × Meter) =>
      [e.1 / 65536, e.1 % 65536, 1] ++ meterNums e.2.set ++ [e.2.next.isSome.toNat] ++ ((e.2.next.map meterNums).getD []) ++
        [e.2.tc, e.2.te, e.2.green, e.2.yellow, e.2.red]) ++
    t.pp.newMeters.map (fun (e : Nat × MeterSet) => [e.1 / 65536, e.1 % 65536, 0] ++ meterNums e.2)) s)

/-! ## Time (R343 to R345) -/

def timetableOk (t : Timetable) : Bool :=
  decide (t.base < 2 ^ 64) && decide (1000 ≤ t.cycleNs ∧ t.cycleNs ≤ 1000000000) && decide (1 ≤ t.entries.length ∧ t.entries.length ≤ 1024) &&
  t.entries.all (fun e => decide (1 ≤ e.2 ∧ e.2 < 2 ^ 32))

def gate? (port : Nat) (s : State) : Gate := tgetD s.pp.gates port Gate.fresh

def execSetTimetable (c : Call) (port : Nat) (tt : Timetable) (s : State) : Host.Outcome State Fault Refusal :=
  .next (serve c 0x8040 (fun _ t =>
    if port ≥ 8 ∨ !timetableOk tt then .reject Config.badValue
    else if (gate? port t).staged.isSome then .reject Config.busy
    else
      let g := { gate? port t with staged := some (tt, firstStart tt (gtimeNs t)) }
      .ok (gateNow port (modPipe (fun p => { p with gates := tset p.gates port g }) t)) Body.empty) s)

/-- Index of the entry into which an offset of the cycle falls. -/
def entryAt (off : Nat) : List (Byte × Nat) → Nat
  | [] => 0
  | [_] => 0
  | e :: r => if off < e.2 then 0 else entryAt (off - e.2) r + 1

def timetableNums (t : Timetable) : List Nat := [t.base, t.cycleNs, t.entries.length] ++ t.entries.flatMap (fun e => [e.1.toNat, e.2])

/-- The current and staged timetables of each port, and the current entry. -/
def execReadTimetable (c : Call) (cursor : Nat) (s : State) : Host.Outcome State Fault Refusal :=
  .next (serveRead c 0x8041 cursor (fun _ t =>
    (List.range 8).map (fun n =>
      let g := gate? n t
      let tab := fun (o : Option Timetable) => o.isSome.toNat :: ((o.map timetableNums).getD [])
      let entry := (g.cur.map (fun x => entryAt (cycleOff x (gtimeNs t)) x.entries)).getD 0
      [n, g.gates, entry] ++ tab g.cur ++ tab (g.staged.map Prod.fst))) s)

/-- Puts the gates of every port in force. -/
def gatesNow (s : State) : State := (List.range 8).foldl (fun t n => gateNow n t) s

/-- INCR in units of 2^-32 ns per AONCLK cycle, STEP in ns. -/
def execSetGateClock (c : Call) (incr : Nat) (step : Int) (s : State) : Host.Outcome State Fault Refusal :=
  .next (serve c 0x8042 (fun _ t =>
    let mid := 10 * 2 ^ 32
    if incr * 1000 < mid * 999 ∨ incr * 1000 > mid * 1001 ∨ step.natAbs > 2 ^ 40 then .reject Config.badValue
    else
      let g := (((t.pp.gtime : Int) + step * 2 ^ 32) % 2 ^ 96).toNat
      .ok (gatesNow (modPipe (fun p => { p with incr := incr, gtime := g }) t)) Body.empty) s)

def execReadGateClock (c : Call) (cursor : Nat) (s : State) : Host.Outcome State Fault Refusal :=
  .next (serveRead c 0x8043 cursor (fun _ t => [[gtimeNs t, t.pp.gtime % 2 ^ 32, t.pp.incr, t.chip.lcount]]) s)

/-! ## Sampling and report cards (R347, R348) -/

/-- Enables sampling of queues, or ends it. A queue that is sampled already goes on with a new k. -/
def sampleQueues (part lo n k : Nat) (on : Bool) (t : Tab Hist) : Tab Hist :=
  let t1 := t.filter (fun e => !decide (lo ≤ e.1 ∧ e.1 < lo + n))
  if !on then t1
  else (List.range n).foldl (fun a i =>
    let old : Hist := tgetD t (lo + i) { part := part, k := k, seen := 0, depth := [], delay := [] }
    tset a (lo + i) { old with part := part, k := k }) t1

def execSetHistogram (c : Call) (lo n k : Nat) (on : Bool) (s : State) : Host.Outcome State Fault Refusal :=
  .next (serve c 0x8050 (fun r t =>
    if n = 0 ∨ lo + n > 65536 ∨ k > 10 then .reject Config.badValue
    else if c.func ≠ 0 ∧ (List.range n).any (fun i => !txqGranted r.part (lo + i) t) then .reject Config.notPermitted
    else
      let h := sampleQueues r.part lo n k on t.pp.hists
      if h.length > 4096 then .reject Config.noResource else .ok (modPipe (fun p => { p with hists := h }) t) Body.empty) s)

/-- Bins of the requester's sampled queues. -/
def execReadHistogram (c : Call) (cursor : Nat) (s : State) : Host.Outcome State Fault Refusal :=
  .next (serveRead c 0x8051 cursor (fun _ t =>
    (cardHists c.func t).map (fun (e : Nat × Hist) =>
      [e.1, e.2.k] ++ (List.range 16).map (fun b => tgetD e.2.depth b 0) ++ (List.range 16).map (fun b => tgetD e.2.delay b 0))) s)

/-- Settings within the ranges of R348; a virtual function's queues lie in its grant. -/
def cardOk (c : Call) (part : Nat) (p : CardSet) (s : State) : Bool :=
  decide (p.ring < 2 ^ 57) && decide (2 ≤ p.log ∧ p.log ≤ 10) && decide (p.periodMs ≤ 10000) && decide (p.sections < 32) &&
  decide (p.qLo + p.qN ≤ 65536) && (c.func == 0 || (List.range p.qN).all (fun i => txqGranted part (p.qLo + i) s))

def execSetReportCard (c : Call) (p : CardSet) (s : State) : Host.Outcome State Fault Refusal :=
  .next (serve c 0x8052 (fun r t =>
    if !cardOk c r.part p t then .reject Config.badValue
    else if (tget t.pp.cards c.func).any (fun k => k.stalled.isSome) then .wait
    else
      let q := if c.func = 0 then p else { p with sections := p.sections &&& 0x14 }
      .ok (modPipe (fun x => { x with cards := tset x.cards c.func { set := q, seq := 0, missed := 0, stalled := none } }) t)
        Body.empty) s)

def execTakeReportCard (c : Call) (s : State) : Host.Outcome State Fault Refusal :=
  done (serve c 0x8053 (fun _ t =>
    if (tget t.pp.cards c.func).isNone then .reject Config.wrongState else .ok (takeCard c.func t) Body.empty) s)

def execReadReportCard (c : Call) (cursor : Nat) (s : State) : Host.Outcome State Fault Refusal :=
  .next (serveRead c 0x8054 cursor (fun _ t =>
    (t.pp.cards.filter (fun e => c.func == 0 || e.1 == c.func)).map (fun (e : Nat × Card) =>
      [e.1, e.2.set.ring, e.2.set.log, e.2.set.periodMs, e.2.set.sections, e.2.set.qLo, e.2.set.qN, e.2.seq, e.2.missed])) s)

/-! ## Rings and refills (R346, R334) -/

def puntOk (p : PuntSet) : Bool :=
  p.punt % 4096 == 0 && p.inject % 4096 == 0 && decide (4 ≤ p.puntLog ∧ p.puntLog ≤ 12) && decide (4 ≤ p.injectLog ∧ p.injectLog ≤ 12)

/-- Inject slots announced and not done, or punted frames on their way to the ring. -/
def ringsBusy (s : State) : Bool :=
  s.pp.injCi != s.pp.injDb || !s.pp.injBusy.isEmpty || !s.pp.puntWait.isEmpty || s.pp.puntXfer.isSome

/-- Whether host software has left punt slots unconsumed is its own knowledge: the command brings it (log 43). -/
def execSetPunt (c : Call) (p : PuntSet) (unread : Bool) (s : State) : Host.Outcome State Fault Refusal :=
  .next (serve c 0x8060 (fun _ t =>
    if !puntOk p then .reject Config.badValue
    else if ringsBusy t || (unread && t.pp.puntTail != 0) then .reject Config.wrongState
    else .ok (modPipe (fun q => { q with
        punt := some p, puntTail := 0, puntWait := [], puntXfer := none, injDb := 0, injCi := 0, injLoop := .idle, injBusy := [] }) t)
        Body.empty) s)

/-- The refill interval in quarters of a microsecond: staged to both dies and switched at one epoch, it takes effect at the next
refill boundary (R39, R334). -/
def execSetRefill (c : Call) (quarters : Nat) (s : State) : Host.Outcome State Fault Refusal :=
  .next (serve c 0x8850 (fun _ t =>
    if quarters < 1 ∨ quarters > 64 then .reject Config.badValue
    else if (refillStaged t).isSome then .reject Config.busy
    else .later (stageChange (.refill quarters) (callRef c t) t) false) s)

end Sys2Proof.Machine
end

