-- ==== Sys2Proof/Machine/PipeEvents.lean ====
section
/-! DEFINITION. Events of the packet pipeline (11): frames that arrive, frames that leave, refills, gates, fragments, card periods. -/

namespace Sys2Proof.Machine

open Sys2Proof

/-! ## Packets for the queue engine -/

/-- ICRC of a RoCEv2 packet: CRC-32 over the IP and UDP headers with their variable fields as ones, and what follows. -/
def icrcOf (p : Parsed) (f : List Byte) (bs : List Byte) : Nat :=
  let ip := (f.drop p.l3).take (p.l4 - p.l3)
  let ones := fun (bs : List Byte) (os : List Nat) => os.foldl (fun (b : List Byte) o => b.set o 0xFF) bs
  let head := if p.ipv4 then ones ip [1, 8, 10, 11]
    else
      let a := (ones ip [1, 2, 3, 7])
      a.set 0 (BitVec.ofNat 8 ((a.getD 0 0).toNat / 16 * 16 + 15))
  let udp := ones ((f.drop p.l4).take 8) [6, 7]
  crc32 (List.replicate 8 0xFF ++ head ++ udp ++ ones bs [4])

/-- A packet handed to the queue engine. -/
def arrive (p : Parsed) (roce : Bool) (qpn : Nat) (room : Room) (bs : List Byte) (s : State) : State :=
  let a : Arrived := { die := nodeDie p.node, port := nodePort p.node, src := BitVec.ofNat 128 p.sip, ce := p.tos % 4 == 3,
                       udpSrc := p.sport, qpn := qpn, loc := false, roce := roce, pool := room.pool, room := room.bytes, bytes := bs }
  { s with qe := { s.qe with arrived := s.qe.arrived ++ [a] } }

/-- A packet that the queue engine drops: its buffer space is freed, and counter `c` of Table 9-10 counts it. -/
def dropPacket (die c : Nat) (room : Room) (s : State) : State := freeRoom room (bump (bkTransport die) c 1 s)

/-- A core whose check mismatched while it worked on a packet of a partition (R398, R399). -/
def packetMiss (part core : Nat) (s : State) : State := coreMiss core (ceCount part 4 1 s)

/-- Opens a PT packet of a connection with keys (R272): IV, ciphertext, tag; none where the tag fails. -/
def openPt (q : Qp) (hlen : Nat) (bs : List Byte) (s : State) : Option (List Byte) :=
  let header := bs.take hlen
  let iv := (bs.drop hlen).take 8
  let body := bs.drop (hlen + 8)
  let ct := body.take (body.length - 16)
  let tag := body.drop (body.length - 16)
  if body.length < 16 then none
  else
    let key := ((keySlot? (q.keySlot + 1) s).map KeySlot.key).getD []
    let r := Config.aes 4 false key (List.replicate 4 0 ++ iv) (header ++ iv) ct
    if fitBytes 16 r.2 = tag then some (header ++ fitBytes ct.length r.1) else none

/-- Header checks of a PT packet (R269, R270). -/
def ptHeaderBad (p : Parsed) (bs : List Byte) : Bool :=
  let op := beAt bs 1 1
  decide (bs.length < if op = 8 then 64 else 36) || beAt bs 0 1 != 1 || decide (op = 0 ∨ op > 8) ||
  (p.ipv6 && p.flow != beAt bs 4 4)

/-- A PT packet at the queue engine: connection, header, encryption (R268 to R272, R398). -/
def ptIn (p : Parsed) (bs : List Byte) (room : Room) (miss : Option Nat) (s : State) : State :=
  let die := nodeDie p.node
  if p.frag || ptHeaderBad p bs then dropPacket die 6 room s
  else
    let qpn := beAt bs 4 4
    let hlen := if beAt bs 1 1 = 8 then 64 else 36
    match qp? qpn s with
    | none => arrive p false qpn room bs s
    | some q =>
      if q.typ ≠ 0 then arrive p false qpn room bs s
      else if bitOf 4 (beAt bs 2 1) != hasKey q then dropPacket die 5 room s
      else if !hasKey q then arrive p false qpn room bs s
      else match miss.filter (· < 16) with
        | some c => freeRoom room (packetMiss q.part c s)
        | none =>
          match openPt q hlen bs s with
          | none => dropPacket die 5 room s
          | some pt => arrive p false qpn room pt (ceCount q.part 6 1 s)

/-- A RoCEv2 packet at the queue engine (R288): where the option byte turns RoCEv2 off it has no connection to reach. -/
def roceIn (p : Parsed) (f bs : List Byte) (room : Room) (s : State) : State :=
  let die := nodeDie p.node
  if p.frag || disabled 5 s || decide (bs.length < 16) then dropPacket die 6 room s
  else
    let body := bs.take (bs.length - 4)
    if leNat (bs.drop (bs.length - 4)) ≠ icrcOf p f body then dropPacket die 5 room s
    else arrive p true (beAt bs 5 3) room body s

/-- The action CONN (Table 11-3): stage 2 of Table 1-6. -/
def connect (p : Parsed) (f : List Byte) (room : Room) (miss : Option Nat) (s : State) : State :=
  let die := nodeDie p.node
  if !p.pt && !p.roce then freeRoom room (pcount die 2 1 s)
  else if fenced (BitVec.ofNat 128 p.sip) s then dropPacket die 7 room s
  else if p.pt then ptIn p (p.payload f) room miss s else roceIn p f (p.payload f) room s

/-! ## Classification (R328, R332, R336) -/

/-- Classifies a frame on its own key, and meters it. -/
def classify (p : Parsed) (n : Nat) (s : State) : Decision × State :=
  let die := nodeDie p.node
  let v := s.pp.cur.version
  match bestRule (BitVec.ofNat 512 (beNat p.key)) s.pp.cur.rules with
  | none =>
    ({ version := v, rule := none, action := if s.pp.cur.conn then 1 else 0, param := 0, spread := 1, colour := 0, dscp := none, drop := false }, s)
  | some (i, r) =>
    let f := r.aflags.toNat
    let own := if bitOf 1 f then some r.newDscp else none
    let d : Decision := { version := v, rule := some i, action := r.action, param := r.param.toNat, spread := r.spread, colour := bitsOf 3 2 f,
                          dscp := own, drop := false }
    if r.meter = 0xFFFF then (d, s)
    else
      let m := meterFrame die r.meter (bitsOf 3 2 f) n s
      ({ d with
          colour := m.1.colour
          dscp := if m.1.action = 2 then some m.1.dscp else own
          drop := m.1.action == 1 }, m.2)

/-- The fragment entries of a die, and the entry of a frame's datagram. -/
def frags? (die : Nat) (s : State) : List FragEnt := tgetD s.pp.frags die []
def ofDatagram (p : Parsed) (e : FragEnt) : Bool :=
  e.sip.toNat == p.sip && e.dip.toNat == p.dip && e.proto == p.proto && e.id == p.ipid

/-- Records the decision of a first fragment: the oldest entry gives way where the table is full. -/
def recordFrag (p : Parsed) (d : Decision) (s : State) : State :=
  let die := nodeDie p.node
  let old := (frags? die s).filter (fun e => !ofDatagram p e)
  let room := if old.length ≥ 8192 then old.drop (old.length - 8191) else old
  let e : FragEnt := { sip := BitVec.ofNat 128 p.sip, dip := BitVec.ofNat 128 p.dip, proto := p.proto, id := p.ipid, dec := d }
  modPipe (fun q => { q with frags := tset q.frags die (room ++ [e]) }) s

/-- The decision of a frame: a later fragment takes that of its datagram's first. -/
def decideFrame (p : Parsed) (n : Nat) (s : State) : Decision × State :=
  let die := nodeDie p.node
  if !p.frag then classify p n s
  else if !p.later then
    let r := classify p n s
    (r.1, recordFrag p r.1 r.2)
  else match (frags? die s).find? (ofDatagram p) with
    | some e => (e.dec, s)
    | none => classify p n (pcount die 4 1 s)

/-! ## Actions (Table 11-3) -/

/-- A record for the stream of a flow tag. -/
def toStream (p : Parsed) (d : Decision) (f : List Byte) (room : Room) (s : State) : State :=
  match streamOf (bitsOf 16 6 d.param) (d.param % 65536 + p.udf0 % max 1 d.spread) s with
  | none => freeRoom room (pcount (nodeDie p.node) 2 1 s)
  | some k =>
    netArrive k { tag := d.param % 65536 + p.udf0 % max 1 d.spread, port := p.node, ver := d.version, payload := p.payload f }
      (freeRoom room s)

/-- Runs the action of a decision on a frame. -/
def runAction (p : Parsed) (d : Decision) (f : List Byte) (room : Room) (miss : Option Nat) (s : State) : State :=
  let die := nodeDie p.node
  match d.action with
  | 0 => freeRoom room (pcount die 2 1 s)
  | 1 => connect p f room miss s
  | 2 => toStream p d f room s
  | 3 =>
    match forward (d.param % 65536) f room s with
    | some t => t
    | none => freeRoom room (pcount die 5 1 (modSched (0x10000 + d.param % 65536) (fun o => { o with drops := o.drops + 1 }) s))
  | _ => puntFrame p.node d.version (d.rule.getD 0xFFFF) f room s

/-- A stored frame goes through the parser, the classifier, its meter and its action. -/
def handleFrame (node : Nat) (f : List Byte) (room : Room) (miss : Option Nat) (s : State) : State :=
  let p := parse node s.pp.cur.udf0 s.pp.cur.udf1 f s
  let die := nodeDie node
  let s1 := if p.trunc then pcount die 7 1 (nodeCount node 7 1 s) else s
  let r := decideFrame p f.length s1
  let s2 := countHit r.1.version r.1.rule f.length r.2
  if r.1.drop then freeRoom room (pcount die 3 1 s2)
  else
    let g := match r.1.dscp with
      | some d => setDscp p d f
      | none => f
    runAction p r.1 g room miss s2

/-- IEEE 802.3 PAUSE or 802.1Qbb priority flow control. -/
def isPause (f : List Byte) : Bool := beAt f 12 2 == 0x8808 && (beAt f 14 2 == 1 || beAt f 14 2 == 0x0101)

/-- Does R322 drop a frame? -/
def rxBad (node : Nat) (f : List Byte) (s : State) : Bool :=
  decide (f.length > (port? (nodePort node) s).maxFrame) || decide (f.length < 64) || !fcsOk f || isPause f

/-- A half in reset takes no frame in (R487, R496). -/
def pipeInReset (die : Nat) (s : State) : Bool := s.chip.asserted.isSome || s.chip.blockRsts.any (fun r => r.kind == 3 && r.index == die)

/-- Findings of the error code in the packet buffer while a frame is read from it: recorded; whether one is uncorrectable, which ends
the packet and quarantines nothing (R154, R156). -/
def bufferFindings (ecc : List EccHit) (s : State) : Bool × State :=
  ecc.foldl (fun r h => match h.loc with
    | .shared k o =>
      if k ≥ 4 ∨ o ≥ slabPackets then r
      else match h.kind with
        | .corrected sym => (r.1, corrected (locPlace h.loc) 0xFF sym r.2)
        | .uncorrectable => (true, uncorrectable (locPlace h.loc) 0xFF r.2)
    | _ => r) (false, s)

/-- A stored frame is handled, unless a line of the packet buffer ends it: RX_ERR counts that one (R156, log 144). -/
def storedFrame (node : Nat) (f : List Byte) (room : Room) (miss : Option Nat) (ecc : List EccHit) (s : State) : State :=
  let r := bufferFindings ecc s
  if r.1 then freeRoom room (pcount (nodeDie node) 0 1 (nodeCount node 4 1 r.2)) else handleFrame node f room miss r.2

/-- A frame has been received at a port node whose link is up. -/
def execEthFrameRx (node : Nat) (bytes : List Byte) (found : FrameChecks) (s : State) : Host.Outcome State Fault Refusal :=
  let die := nodeDie node
  if !s.pp.up.contains node then .next s
  else
    let s1 := nodeCount node 1 bytes.length (nodeCount node 0 1 s)
    if rxBad node bytes s then
      let s2 := if isPause bytes then nodeCount node 6 1 s1 else s1
      .next (pcount die 0 1 (nodeCount node 4 1 s2))
    else match (if pipeInReset die s then none else findRoom (nodePort node) bytes.length s1) with
      | none => .next (pcount die 1 1 (nodeCount node 5 1 s1))
      | some room => done (storedFrame node bytes room found.miss found.ecc (takeRoom room s1))

/-- A fragment table entry has lived its 2 ms. -/
def execFragEntryExpiry (die i : Nat) (s : State) : Host.Outcome State Fault Refusal :=
  .next (modPipe (fun p => { p with frags := tset p.frags die ((frags? die s).eraseIdx i) }) s)

/-! ## Frames that leave (R338 to R340) -/

/-- The head frame of a queue is sent at a port node. -/
def sendTxFrame (node q : Nat) (f : TxFrame) (rest : List TxFrame) (s : State) : State :=
  let n := f.bytes.length
  let s1 := modSched (0x10000 + q) (fun o => { o with frames := rest, sentFrames := o.sentFrames + 1, sentBytes := o.sentBytes + n }) s
  let s2 := sampleDelay q ((s.chip.lcount - f.at') * 10) s1
  let s3 := match f.room with
    | some r => freeRoom r s2
    | none => s2
  let s4 := emit (.eth node f.bytes) (nodeCount node 3 n (nodeCount node 2 1 s3))
  match f.inject with
  | some k => injectDone (k / 256) (k % 256) (gtimeNs s) (bitOf 0 (k % 256)) s4
  | none => s4

/-- Frame bytes of a packet that the queue engine originates: Ethernet with its tag and FCS, IP, UDP. -/
def packetBytes (q : Qp) (pcp n : Nat) : Nat := 14 + (if pcp = 0 then 0 else 4) + (if mapped q.peerAddr then 20 else 40) + 8 + n + 4

/-- Sends the packet at the front of a QP's stream (R277, R282, R289): the port node it leaves by, its bytes, and the state. -/
def sendPacket (n : Nat) (q : Qp) (p : TxPkt) (miss : Option Nat) (s : State) : Nat × Nat × State :=
  let pcp := (txqMarks q.txq s).2
  let flags := sendFlags q p
  if q.typ = 1 then
    let bs := rocePacket q p flags
    let node := portNode (pathPort q.x 0) (49152 + q.x.sportBase) s
    (node, packetBytes q pcp (bs.length + 4), sendRoce q bs (modX n (bookSent p 0 s.chip.lcount) s))
  else
    let path := txPath p q.x
    let sport := pathSport q.x path
    let r := sealPt q (ptHeader q p flags (s.chip.lcount % 2 ^ 32)) p.payload s
    let s1 := modX n (bookSent p path s.chip.lcount) r.2
    let s2 := match (if hasKey q then miss.filter (· < 16) else none) with
      | some c => packetMiss q.part c s1
      | none => sendPt q (pathPort q.x path) sport r.1 s1
    (portNode (pathPort q.x path) sport s, packetBytes q pcp r.1.length, s2)

/-- A queue without frames pulls a packet from its ready QPs, in round robin; how many bytes it sent. -/
def pullPacket (q : Nat) (miss : Option Nat) (s : State) : Nat × State :=
  match (rotate (readyQps q s) (some (sched? (0x10000 + q) s).lastQp)).head? with
  | none => (0, s)
  | some n =>
    match qp? n s with
    | none => (0, s)
    | some c =>
      match c.x.queue with
      | [] => (0, s)
      | p :: _ =>
        let r := sendPacket n c p miss s
        let die := nodeDie r.1
        let s1 := bump (bkTransport die) 0 1 (if p.sends > 0 then bump (bkTransport die) 1 1 r.2.2 else r.2.2)
        let s2 := modSched (0x10000 + q) (fun o => { o with
          lastQp := n, sentFrames := o.sentFrames + 1, sentBytes := o.sentBytes + r.2.1 }) s1
        let s3 := sampleDelay q ((s.chip.lcount - tgetD s.pp.readyAt n s.chip.lcount) * 10) s2
        (r.2.1, modPipe (fun x => { x with readyAt := tdel x.readyAt n }) (nodeCount r.1 3 r.2.1 (nodeCount r.1 2 1 s3)))

/-- The head frame of a queue is dropped on an uncorrectable line of the packet buffer: TX_QDROP counts it (R156, log 144). -/
def dropTxFrame (die q : Nat) (f : TxFrame) (rest : List TxFrame) (s : State) : State :=
  let s1 := modSched (0x10000 + q) (fun o => { o with frames := rest, drops := o.drops + 1 }) s
  let s2 := match f.room with
    | some r => freeRoom r s1
    | none => s1
  pcount die 5 1 s2

/-- A port node can take a frame: the scheduler picks one and sends it. Frames of a queue go before packets of its QPs. A forwarded
frame is read from the packet buffer. -/
def execTxFrameSelect (node : Nat) (found : FrameChecks) (s : State) : Host.Outcome State Fault Refusal :=
  if !s.pp.up.contains node then .next s
  else match pickPath node 4 node s with
    | none => .next s
    | some (ks, t) =>
      let q := (ks.getLast?.getD 0x10000) - 0x10000
      match (sched? (0x10000 + q) t).frames with
      | f :: rest =>
        let r := if f.room.isSome then bufferFindings found.ecc t else (false, t)
        if r.1 then done (kickStreams (dropTxFrame (nodeDie node) q f rest r.2))
        else done (kickStreams (chargePath ks f.bytes.length (sendTxFrame node q f rest r.2)))
      | [] =>
        let r := pullPacket q found.miss t
        done (kickStreams (chargePath ks r.1 r.2))

/-! ## Refills, gates, cards -/

/-- A meter that nothing had set before: its buckets are full (R335). -/
def newMeter (p : MeterSet) : Meter :=
  { set := p, next := none, tc := p.cbs * 65536, te := p.ebs * 65536, green := 0, yellow := 0, red := 0 }

/-- Staged changes apply and tokens are gained; every 64th refill takes depth samples; a new interval runs from here on. -/
def execRefill (s : State) : Host.Outcome State Fault Refusal :=
  let q := s.pp.refillQ
  let s1 := modPipe (fun p => { p with
    meters := p.newMeters.foldl (fun t e => tset t e.1 (newMeter e.2)) (p.meters.map (fun e => (e.1, refillMeter q e.2)))
    newMeters := []
    sched := p.sched.map (fun e => (e.1, refillSched q e.2))
    refills := p.refills + 1
    refillQ := p.refillNext.getD q
    refillNext := none }) s
  done (kickStreams (if s1.pp.refills % 64 = 0 then sampleDepths s1 else s1))

/-- A timetable entry or cycle boundary is reached. -/
def execGateChange (port : Nat) (s : State) : Host.Outcome State Fault Refusal := .next (gateNow port s)

/-- The period of a report card has passed. -/
def execReportCardPeriod (func : Nat) (s : State) : Host.Outcome State Fault Refusal :=
  match tget s.pp.cards func with
  | some c => if c.set.periodMs = 0 then .next s else done (takeCard func s)
  | none => .next s

end Sys2Proof.Machine
end

