-- ==== Sys2Proof/Machine/ResetCmds.lean ====
section
/-! DEFINITION. The reset opcodes, block resets, reset sources, and boot (17). -/

namespace Sys2Proof.Machine

open Sys2Proof

/-! ## Opcodes (Table 17-8) -/

def execDeviceReset (c : Call) (s : State) : Host.Outcome State Fault Refusal :=
  .next (serve c 0x1020 (fun r t =>
    let l := (r.payload.getD 0 0).toNat
    if l ≠ 1 ∧ l ≠ 2 then .reject Config.badValue
    else if !armed 5 t then .reject Config.notPermitted
    else .ok { t with chip := { t.chip with soft := some (if l = 1 then .system else .core) } } Body.empty) s)

/-- The response of a DEVICE_RESET is not yet written. -/
def resetUnanswered (s : State) : Bool :=
  s.mb.any (fun e => e.2.phase == .answered && e.2.resp.any (fun r => r.opcode == 0x1020))

def execSoftResetFire (s : State) : Host.Outcome State Fault Refusal :=
  match s.chip.soft with
  | some l =>
    if resetUnanswered s then .next s
    else .next (assertReset l 5 { s with chip := { s.chip with soft := none } })
  | none => .next s

def execReadReset (c : Call) (cursor : Nat) (s : State) : Host.Outcome State Fault Refusal :=
  .next (serveRead c 0x1021 cursor (fun _ t =>
    [rstCause t] :: (List.range 32).map (fun i => optByte i t) :: [t.chip.bootImage.getD 255] ::
    (t.chip.rejects.map (fun e => [e.1, e.2]) ++ t.chip.blockRsts.map (fun b => [b.kind, b.index]))) s)

/-- Blocks of a kind (Table 17-8). -/
def blockCount (kind : Nat) : Nat :=
  if kind = 1 then 16 else if kind = 2 then 2 else if kind = 3 then 2 else if kind = 4 then 8 else if kind = 5 then 4 else 0

/-- May a block be reset alone (Table 17-5)? -/
def blockAllowed (kind index : Nat) (s : State) : Bool :=
  if kind = 1 then benchDown index s || (benchOwner index s).isNone
  else if kind = 5 then (cxl? (2 * index) s).cstate != .inService && (cxl? (2 * index + 1) s).cstate != .inService
  else true

/-- A change that involves a block is staged (R497). -/
def blockStaged (kind : Nat) (s : State) : Bool :=
  s.fw.changes.any (fun g => g.kind.block == kind)

def execBlockReset (c : Call) (s : State) : Host.Outcome State Fault Refusal :=
  .next (serve c 0x1870 (fun r t =>
    let kind := u r.payload 0 1
    let index := u r.payload 1 1
    let tmo := u r.payload 4 4
    if decide (index ≥ blockCount kind) || u r.payload 2 2 != 0 || (tmo != 0 && decide (tmo < 10 ∨ tmo > 10000)) then .reject Config.badValue
    else if t.chip.blockRsts.any (fun b => b.kind == kind && b.index == index) || blockStaged kind t then .reject Config.busy
    else if !blockAllowed kind index t then .reject Config.wrongState
    else .later { t with chip := { t.chip with
        blockRsts := t.chip.blockRsts ++ [{ kind := kind, index := index, mb := callRef c t }] } } true) s)

/-! ## What resetting a block alone does (R496, Table 17-5) -/

def rstCount (c n : Nat) (s : State) : State := bump bkReset c n s

/-- Deletes transfers into a block, each counted as completed by the isolation wrapper. -/
def isolate (f : Xfer → Bool) (s : State) : State :=
  let n := s.xl.xfers.countP (fun e => f e.2)
  let s1 := rstCount 2 n s
  { s1 with xl := { s1.xl with xfers := s1.xl.xfers.filter (fun e => !f e.2) } }

def ofBench (b : Nat) (f : Xfer) : Bool :=
  f.unit == b && (f.owner.kind == .tileDma || f.owner.kind == .stream || f.owner.kind == .image)

/-- A bench: its jobs end with 0x07, work relayed to its core is answered as at a crash (log 50), its tiles and FIFOs are as after
reset, its slot is EMPTY, its core runs. -/
def resetBench (b : Nat) (s : State) : State :=
  let s1 := isolate (ofBench b) (refuseRelayed b s)
  let s2 := match benchOwner b s1 with
    | none => s1
    | some (p, i) =>
      let js := (s1.ti.jobs.filter (fun e => e.2.part == p && e.2.req.slots.any (fun r => r.slot == i))).map Prod.fst
      let t1 := js.foldl (fun t j => endJob j Config.ccFlushed 0 t) s1
      let t2 := modSlot p i (fun st => { st with wstate := .empty, regions := [], staged := [], loads := [], loadMb := none }) t1
      let keys := (t2.ti.binds.filter (fun e => e.2.part == p && e.2.slot == i)).map Prod.fst
      keys.foldl (fun t k => modBind k (fun x => { x with recs := [], xfer := none }) t) t2
  let s3 := (List.range 8).foldl (fun t i => modTile (8 * b + i) (fun _ => Tile.fresh) t) s2
  let p := benchProc b
  modProc p (fun x => { x with pstate := .running, crashTimes := [], core := atEntry x.active.entry }) s3

/-- A collective unit: its collectives end with 0x04 and break their groups. -/
def resetColl (unit : Nat) (s : State) : State :=
  let ids := (s.cu.colls.filter (fun e => (cgroup? e.2.group s).any (fun g => g.unit == unit))).map Prod.fst
  let s1 := isolate (fun f => f.owner.kind == .coll && ids.contains f.owner.a) s
  ids.foldl (fun t id => match coll? id t with
    | some c => (match cgroup? c.group t with
      | some g => endColl id g c Config.ccRemoteOp 0xFFFF t
      | none => t)
    | none => t) s1

/-- The port node above a scheduler object. -/
def rootNode : Nat → Nat → State → Option Nat
  | 0, _, _ => none
  | fuel + 1, k, s => if k < 0x100 then some k else (parentKey k (sched? k s)).bind (fun p => rootNode fuel p s)

/-- Drops the frames of the queues under the nodes that a predicate names; how many they are. -/
def dropQueued (f : Nat → Bool) (s : State) : Nat × State :=
  let ks := (s.pp.sched.filter (fun e => decide (e.1 ≥ 0x10000) && (rootNode 5 e.1 s).any f)).map Prod.fst
  let fs := ks.flatMap (fun k => (sched? k s).frames)
  let s1 := fs.foldl (fun t x => match x.room with
    | some r => freeRoom r t
    | none => t) s
  (fs.length, ks.foldl (fun t k => modSched k (fun o => { o with frames := [] }) t) s1)

/-- A pipeline half: its frames are dropped and counted in RX_NOBUF; the punt ring is die 0's. -/
def resetPipe (d : Nat) (s : State) : State :=
  let q := dropQueued (fun n => nodeDie n == d) s
  let ps := if d = 0 then q.2.pp.puntWait else []
  let s1 := ps.foldl (fun t f => freeRoom f.room t) q.2
  pcount d 1 (q.1 + ps.length) (modPipe (fun p => { p with
    puntWait := if d = 0 then [] else p.puntWait, puntXfer := if d = 0 then none else p.puntXfer, frags := tdel p.frags d }) s1)

/-- An Ethernet port: its frames are dropped, and its links train again. -/
def resetPort (n : Nat) (s : State) : State :=
  let q := dropQueued (fun k => nodePort k == n) s
  modPipe (fun p => { p with up := p.up.filter (fun k => nodePort k != n) }) q.2

def resetBlock (kind index : Nat) (s : State) : State :=
  if kind = 1 then resetBench index s else if kind = 2 then resetColl index s else if kind = 3 then resetPipe index s
  else if kind = 4 then resetPort index s else s

def execBlockIdle (kind index : Nat) (_timedOut : Bool) (s : State) : Host.Outcome State Fault Refusal :=
  match s.chip.blockRsts.find? (fun b => b.kind == kind && b.index == index) with
  | none => .next s
  | some b =>
    let s1 := resetBlock kind index s
    let s2 := { s1 with chip := { s1.chip with blockRsts := s1.chip.blockRsts.filter (fun x => !(x.kind == kind && x.index == index)) } }
    done (kickJobs (finish b.mb Config.ok Body.empty (rstCount 1 1 s2)))

/-! ## Sources (Table 17-2) -/

def execPowerOnReset (s : State) : Host.Outcome State Fault Refusal := .next (powerOnState s)

def execBrownOut (rail : Rail) (s : State) : Host.Outcome State Fault Refusal :=
  if rail = .vddAon then .next (powerOnState s)
  else .next (faultSource 1 { s with chip := { s.chip with lowRails := if s.chip.lowRails.contains rail then s.chip.lowRails else s.chip.lowRails ++ [rail] } })

def execPerstN (s : State) : Host.Outcome State Fault Refusal :=
  .next (assertReset .system 2 { s with chip := { s.chip with perst := true } })

def execSysRstN (s : State) : Host.Outcome State Fault Refusal :=
  .next (assertReset .system 3 { s with chip := { s.chip with sysRst := true } })

def execSystemWatchdog (s : State) : Host.Outcome State Fault Refusal := .next (faultSource 4 s)

/-- The debug source; unarmed it only sets its bit (R490). -/
def execDebugReset (level : ResetLevel) (s : State) : Host.Outcome State Fault Refusal :=
  .next (if armed 6 s then assertReset (if level = .core then .core else .system) 6 s else setCause 6 s)

/-- The clock monitor declares a failure (R502). -/
def execClockFailure (why : ClockLoss) (s : State) : Host.Outcome State Fault Refusal :=
  let s1 := rstCount 0 1 { s with chip := { s.chip with
    backup := true, refOk := decide (why = .unlock), rootLock := s.chip.rootLock && decide (why ≠ .unlock) && !armed 7 s } }
  .next (faultSource 7 s1)

/-! ## Release and boot (R495, R498 to R500) -/

def execOptionLoadDone (crcOk : Bool) (s : State) : Host.Outcome State Fault Refusal :=
  if s.chip.loaded then .next s
  else if crcOk then
    .next { s with
      chip := { s.chip with opt := s.chip.optFuses, loaded := true },
      sb := { s.sb with serialMode := bitOf 4 (s.chip.optFuses.toNat % 256) } }
  else .next (assertFault s)

def execRootPllLock (s : State) : Host.Outcome State Fault Refusal :=
  .next { s with chip := { s.chip with rootLock := true, refOk := true, backup := false } }

/-- The controller releases a reset once its load has ended and the root PLL is locked; the pins are high and the rails are
good then. A low PWRFAIL_N holds the recorder from a power-on reset's release on (R547). -/
def execResetRelease (s : State) : Host.Outcome State Fault Refusal :=
  if s.chip.asserted.isNone ∨ !s.chip.loaded ∨ !s.chip.rootLock then .next s
  else .next { s with
    chip := { s.chip with asserted := none, perst := false, sysRst := false, lowRails := [] }
    ev := { s.ev with held := s.ev.held || (s.chip.asserted == some .powerOn && s.chip.pwrFail) } }

/-- The ROM reads and checks the next flash image (R417, R418). -/
def execBootImageRead (s : State) : Host.Outcome State Fault Refusal :=
  let left := (bootOrder s).filter (fun d => !s.chip.bootTried.contains d)
  match left with
  | [] => .next s
  | d :: rest =>
    if s.chip.asserted.isSome ∨ s.chip.bootImage.isSome ∨ s.chip.recovery then .next s
    else
      let s1 := { s with chip := { s.chip with bootTried := s.chip.bootTried ++ [d] } }
      match (flashFails d s).head? with
      | none => .next (loadImage (Image.parse (flashImage d s)) (mkey (spFlash d) 0) { s1 with chip := { s1.chip with bootImage := some d } })
      | some k =>
        let s2 := rstCount 3 1 { s1 with chip := { s1.chip with rejects := s1.chip.rejects ++ [(d, k)], recovery := rest.isEmpty } }
        .next (if rest.isEmpty then { s2 with ep := { s2.ep with rrs := false } } else s2)

/-- Boot training of a channel ends (R141). TEMP is measured at the end of a successful one. -/
def execGddr7TrainingDone (ch : Nat) (ok : Bool) (temp : Nat) (s : State) : Host.Outcome State Fault Refusal :=
  if ch < 16 ∧ (chan? ch s).cstate = .untrained ∧ s.chip.bootImage.isSome then
    .next (modChan ch (fun x => { x with cstate := if ok then .active else .offline, temp := if ok then temp % 256 else x.temp }) s)
  else .next s

/-- The link as it has trained: speed code, lanes, Flit Mode, which 64 GT/s needs (R428). -/
def linkOk (speed width : Nat) (flit : Bool) : Bool :=
  decide (1 ≤ speed ∧ speed ≤ 6) && [1, 2, 4, 8, 16].contains width && (speed != 6 || flit)

/-- The scheduler core has built partition 0 and serves the mailboxes (R499, step 5). The link to the host runs as it has
trained; after a link down the same tells how it runs again. The roll call of boot follows. -/
def execEndpointReady (speed width : Nat) (flit : Bool) (s : State) : Host.Outcome State Fault Refusal :=
  let s1 := if linkOk speed width flit && !s.pm.tripped then { s with ep := { s.ep with speed := speed, width := width, flit := flit } } else s
  if s.chip.bootImage.isSome ∧ !s.chip.bootDone ∧ s.tiers.chans.all (fun e => e.2.cstate != .untrained) then
    .next (bootRun { s1 with chip := { s1.chip with bootDone := true }, ep := { s1.ep with rrs := false } })
  else .next s1

end Sys2Proof.Machine
end

