-- ==== Sys2Proof/Machine/PowerOps.lean ====
section
/-! DEFINITION. Power and thermal management (18): throttles, limits with their accounts, power states and who refuses them. -/

namespace Sys2Proof.Machine

open Sys2Proof

def modPm (f : Pm → Pm) (s : State) : State := { s with pm := f s.pm }

/-- The fallback governor is in charge (R516). -/
def governor (s : State) : Bool := procDown 1 s

/-- SRC of a power event: the power-management core, or hardware. -/
def pmSrc (s : State) : Nat := if governor s then 0xFF else 1

/-! ## Throttles (R511) -/

/-- Benches on which groups stand, of pinned or of unpinned groups. -/
def benchCount (pinned : Bool) (s : State) : Nat :=
  s.ti.groups.foldl (fun a e => if e.2.pinned = pinned then a + (benchesOf e.2).length else a) 0

/-- The duty that takes `need` mW from benches that draw `now` mW at a duty, at least 2/16. -/
def dutyFor (duty now need : Nat) : Nat := if now = 0 then 2 else max 2 (min duty (duty * (now - need) / now))

/-- What a duty change saves, in mW. -/
def dutySaves (duty goal now : Nat) : Nat := if duty = 0 then 0 else now - now * goal / duty

/-- Throttles by R511 until a total of `total` mW, of which the tiles draw `tile`, comes down to `limit` mW: unpinned benches first,
then pinned ones, then the halving. Each bench draws the same share at the same duty (Table 18-5). -/
def throttleTo (limit total tile : Nat) (s : State) : State :=
  let p := s.pm
  let need := total - limit
  let w := benchCount false s * p.dutyFree + benchCount true s * p.dutyPinned
  let u := if w = 0 then 0 else tile * (benchCount false s * p.dutyFree) / w
  let v := if w = 0 then 0 else tile - u
  if need = 0 then s
  else
    let d1 := dutyFor p.dutyFree u need
    let left1 := need - dutySaves p.dutyFree d1 u
    let d2 := if left1 = 0 then p.dutyPinned else dutyFor p.dutyPinned v left1
    let left2 := left1 - (if left1 = 0 then 0 else dutySaves p.dutyPinned d2 v)
    modPm (fun p => { p with dutyFree := d1, dutyPinned := d2, halved := p.halved || left2 != 0 }) s

/-- One step of R511's order. -/
def throttleStep (p : Pm) : Pm :=
  if p.dutyFree > 2 then { p with dutyFree := p.dutyFree - 1 }
  else if p.dutyPinned > 2 then { p with dutyPinned := p.dutyPinned - 1 }
  else { p with halved := true }

def throttleSteps : Nat → Pm → Pm
  | 0, p => p
  | n + 1, p => throttleSteps n (throttleStep p)

/-- One step back: one halving or one sixteenth of duty (R512). -/
def releaseStep (p : Pm) : Pm :=
  if p.halved then { p with halved := false }
  else if p.dutyPinned < 16 then { p with dutyPinned := p.dutyPinned + 1 }
  else if p.dutyFree < 16 then { p with dutyFree := p.dutyFree + 1 }
  else p

def fullRate (p : Pm) : Bool := !p.halved && p.dutyPinned == 16 && p.dutyFree == 16

/-- A fixed duty of the governor. -/
def atMost (d : Nat) (p : Pm) : Pm := { p with dutyFree := min d p.dutyFree, dutyPinned := min d p.dutyPinned }

/-- A limit begins to act, if it does not already: counted, recorded, an emergency (R515). -/
def beginLimit (k : Nat) (s : State) : State :=
  if s.pm.limits.contains k then s
  else
    let s1 := modPm (fun p => { p with limits := p.limits ++ [k], emerg := true }) (bump bkPower 6 1 s)
    event 0x0281 1 (pmSrc s) 0xFF ([BitVec.ofNat 8 k, BitVec.ofNat 8 (min s1.pm.dutyFree s1.pm.dutyPinned)] ++ leBytes 2 (s1.pm.powerMw / 1000)) s1

/-! ## Limits (R512, R513) -/

/-- Level of a power limit in mW (Table 18-3). -/
def limitLevel (k : Nat) (p : Pm) : Nat := if k = 1 then 820000 else if k = 2 then 740000 else p.limitW * 1000

/-- An account after a sample, in µs: ten fill it above its level, one drains below. -/
def account (level mw a : Nat) : Nat := if mw > level then a + 10 else if mw < level then a - 1 else a

def sampled (mw : Nat) (p : Pm) : Pm :=
  { p with
    powerMw := mw, accAbs := account 820000 mw p.accAbs, accPeak := account 740000 mw p.accPeak,
    accSust := account (p.limitW * 1000) mw p.accSust }

/-- The account of a power limit. -/
def accountOf (k : Nat) (p : Pm) : Nat := if k = 1 then p.accAbs else if k = 2 then p.accPeak else p.accSust

/-- Its action is due: any sample, 2 ms, 25 s. -/
def limitReached (k : Nat) (p : Pm) : Bool :=
  if k = 1 then decide (p.accAbs > 0) else if k = 2 then decide (p.accPeak ≥ 2000) else decide (p.accSust ≥ 25000000)

/-- A limit no longer holds its throttle: its account has drained, or Tj is below its threshold. -/
def limitOver (p : Pm) (k : Nat) : Bool :=
  if k = 4 then decide (p.hottest.1 < p.tThrottle) else if k = 5 then decide (p.hottest.1 < 103) else accountOf k p == 0

/-- Power, or temperature, is below the level of a limit. -/
def belowLevel (p : Pm) (k : Nat) : Bool := if k ≥ 4 then limitOver p k else decide (p.powerMw < limitLevel k p)

/-- Each reached limit acts: the clamp or throttle to POWER_LIMIT, or the governor's fixed duty for the first two (R516). -/
def actPower (tile : Nat) (s : State) (k : Nat) : State :=
  if !limitReached k s.pm && !(s.pm.limits.contains k && accountOf k s.pm != 0) then s
  else if governor s then (if k = 3 then s else beginLimit k (modPm (atMost 8) s))
  else beginLimit k (throttleTo (s.pm.limitW * 1000) s.pm.powerMw tile s)

/-! ## Power states (R505 to R509) -/

/-- Entry delay in counts of the local counter, and exit latency in µs (Table 18-1). -/
def entryDelay (p : Nat) : Nat := if p = 1 then 2000 else if p = 4 then 1000000 else 100000
def exitUs (p : Nat) : Nat := if p = 0 then 0 else if p = 1 then 2 else if p = 2 then 40 else if p = 3 then 120 else 2000

/-- A partition tolerates an exit latency. -/
def tolerates (us : Nat) (p : Part) : Bool := p.latTol == 0xFFFFFFFF || decide (us ≤ p.latTol)

/-- The deepest allowed state (R506). -/
def allowedState (s : State) : Nat :=
  (List.range 5).foldl (fun a p => if p ≤ s.pm.deepest ∧ s.parts.all (fun e => tolerates (exitUs p) e.2) then p else a) 0

/-- A bench is busy for a target state: a job, bench DMA, or slicing for the deepest. -/
def benchHolds (deep : Bool) (b : Nat) (s : State) : Bool :=
  s.ti.jobs.any (fun e => e.2.jstate == .running && (jobBenches e.2 s).contains b) ||
  s.xl.xfers.any (fun e => ofBench b e.2 && e.2.st != .held .sliced) ||
  (deep && s.ti.groups.any (fun e => (e.2.phase == .saving || e.2.phase == .restoring) && (benchesOf e.2).contains b))

/-- Name codes of the agents that refuse entry to a state, by rising code (Table 18-2). -/
def refusers (p : Nat) (s : State) : List Nat :=
  ((List.range 16).filter (fun b => benchHolds (p == 4) b s)).map (0x1000 + ·) ++
  (if p < 3 then [] else
    (s.jl.gangs.filter (fun e => e.2.kind == .accelerator && e.2.tags.any (fun t => !t.2.ended))).map (fun e => 0x2000 + e.1) ++
    (s.tiers.cxl.filter (fun e => e.2.cstate == .removing)).map (fun e => 0x3000 + e.1)) ++
  (if p < 4 then [] else
    ((List.range 16).filter (fun c => s.xl.xfers.any (fun e => e.2.st == .held (.channel c)))).map (0x4000 + ·) ++
    ((List.range 2).filter (fun u => s.cu.colls.any (fun e => e.2.admitted && (cgroup? e.2.group s).any (fun g => g.unit == u)))).map (0x5000 + ·) ++
    (if s.ck.jobs.isEmpty then [] else [0x6000])) ++
  (if p < 3 then [] else ((tkeys s.tiers.migs).zipIdx.filter (fun e => (tget s.tiers.migs e.1).any (fun m => m.mstate == .copying))).map
    (fun e => 0x7000 + e.2))

/-- Benches whose SRAM and IMEM are off in P4: those without a slot or with an EMPTY one. -/
def darkBenches (s : State) : List Nat :=
  (List.range 16).filter (fun b => match benchOwner b s with
    | none => true
    | some o => (slotSt? o.1 o.2 s).all (fun x => x.wstate == .empty))

/-- Memory of a tile without power. -/
def powerOffTile (s : State) (t : Nat) : State :=
  { s with mem := clearRange (clearRange s.mem (mkey (spTile t) 0) tileSram) (mkey (spImem t) 0) tileImem }

/-- Entry to a state: P4 powers memory off. -/
def enterState (p : Nat) (s : State) : State :=
  let s1 := modPm (fun x => { x with pstate := p, since := s.chip.lcount }) s
  if p = 4 then (darkBenches s).foldl (fun t b => (List.range 8).foldl (fun v i => powerOffTile v (8 * b + i)) t) s1 else s1

/-- An entry attempt is due, and no access waits for a wake (R507). -/
def entryDue (s : State) : Bool :=
  !s.pm.waking && decide (s.pm.pstate + 1 ≤ allowedState s) && decide (s.chip.lcount ≥ s.pm.since + entryDelay (s.pm.pstate + 1))

/-- An attempt: entered, or refused by the agent of the lowest code (R509). -/
def attemptEntry (s : State) : State :=
  let p := s.pm.pstate + 1
  match refusers p s with
  | [] => enterState p s
  | a :: _ =>
    modPm (fun x => { x with refuse := tset x.refuse p a, refusals := tset x.refusals p (tgetD x.refusals p 0 + 1), since := s.chip.lcount })
      (bump bkPower 4 1 s)


end Sys2Proof.Machine
end

