-- ==== Sys2Proof/Machine/PowerCmds.lean ====
section
/-! DEFINITION. Commands and events of power and thermal management (18), and the I3C port (20). -/

namespace Sys2Proof.Machine

open Sys2Proof

/-! ## Opcodes (Table 18-6) -/

/-- State, allowed state, limits, power, accounts, throttles, emergency; tolerances; temperatures; wear; refusals. -/
def execReadPower (c : Call) (cursor : Nat) (s : State) : Host.Outcome State Fault Refusal :=
  .next (serveRead c 0xA000 cursor (fun _ t =>
    let p := t.pm
    [[0, p.pstate, allowedState t, p.deepest, p.limitW, p.tThrottle, p.powerMw, p.accAbs, p.accPeak, p.accSust, p.dutyFree, p.dutyPinned,
      p.halved.toNat, p.acting, p.emerg.toNat, p.wear]] ++
    (t.parts.filter (fun (e : Nat × Part) => sees c e.1 t)).map (fun (e : Nat × Part) => [1, e.1, e.2.latTol]) ++
    [2 :: p.temps] ++ [1, 2, 3, 4].map (fun k => [3, k, tgetD p.refusals k 0, tgetD p.refuse k 0])) s)

def execSetLatencyTol (c : Call) (us : Nat) (s : State) : Host.Outcome State Fault Refusal :=
  .next (serve c 0xA001 (fun r t =>
    if (1 ≤ us ∧ us ≤ 1000000) ∨ us = 0xFFFFFFFF then .ok (modPart r.part (fun p => { p with latTol := us }) t) Body.empty
    else .reject Config.badValue) s)

def execSetPowerLimit (c : Call) (watts : Nat) (s : State) : Host.Outcome State Fault Refusal :=
  .next (serve c 0xA010 (fun _ t =>
    if watts < 300 ∨ watts > 650 then .reject Config.badValue else .ok (modPm (fun p => { p with limitW := watts }) t) Body.empty) s)

def execSetThermal (c : Call) (t : Nat) (s : State) : Host.Outcome State Fault Refusal :=
  .next (serve c 0xA850 (fun _ u =>
    if t < 85 ∨ t > 100 then .reject Config.badValue else .ok (modPm (fun p => { p with tThrottle := t }) u) Body.empty) s)

def execSetPstateLimit (c : Call) (p : Nat) (s : State) : Host.Outcome State Fault Refusal :=
  .next (serve c 0xA851 (fun _ t =>
    if p > 4 then .reject Config.badValue else .ok (modPm (fun x => { x with deepest := p }) t) Body.empty) s)

/-! ## The control period (R507, R512) -/

/-- Releases one step of the throttles where every limit that acted is over; at full rate the limits end. -/
def releaseThrottle (s : State) : State :=
  let p := s.pm
  if p.limits.isEmpty || !p.limits.all (limitOver p) || !p.limits.all (belowLevel p) then s
  else
    let s1 := modPm releaseStep s
    if fullRate s1.pm then
      p.limits.foldl (fun t k => event 0x0282 0 1 0xFF [BitVec.ofNat 8 k, 0, 0, 0] t) (modPm (fun p => { p with limits := [] }) s1)
    else s1

/-- A boundary of the power-management core (Table 16-3); then power states and releases. -/
def execControlPeriod (s : State) : Host.Outcome State Fault Refusal :=
  if governor s then .next s
  else
    let s1 := beginSwitch 1 s
    let s2 := if s1.pm.pstate > allowedState s1 then wakeUp s1 else if entryDue s1 then attemptEntry s1 else s1
    done (releaseThrottle s2)

/-- The device wakes, and what stalled on a domain that was off goes on (R507). `entering`: the wake meets an entry in progress,
which it aborts (R509). -/
def execWake (entering : Bool) (s : State) : Host.Outcome State Fault Refusal :=
  let abort := entering && entryDue s && !governor s
  let s1 := if abort then bump bkPower 5 1 s else s
  done (if s1.pm.pstate ≠ 0 ∨ s1.pm.waking = true ∨ abort = true then kickStreams (wakeUp s1) else s1)

/-! ## Samples -/

/-- A sample of the input power, with the part of it that the tiles draw (R510, R512). -/
def execPowerSample (mW tileMw : Nat) (s : State) : Host.Outcome State Fault Refusal :=
  .next ([1, 2, 3].foldl (actPower tileMw) (modPm (sampled mW) s))

def tripLink (l : Link) : Link := { l with lstate := .down }

/-- The hardware trip at 108 °C: tiles, collective units and every SerDes stop, and the device proceeds as R490 states (R513). -/
def thermTrip (s : State) : State :=
  if s.pm.tripped then s
  else
    let h := s.pm.hottest
    let s1 := (List.range 128).foldl (fun t k => modTile k stopTile t) (modPm (fun p => { p with tripped := true }) s)
    let links := s1.jl.links.map (fun (e : Nat × Link) => (e.1, tripLink e.2))
    let s2 := { s1 with
      jl := { s1.jl with links := links }, pp := { s1.pp with up := [] }, ep := { s1.ep with speed := 0, width := 0, flit := false } }
    stopDevice (event 0x0283 3 0xFF 0xFF [BitVec.ofNat 8 h.1, BitVec.ofNat 8 h.2, 0, 0] s2)

/-- The temperature limits: the step at 103 °C, and T_THROTTLE, at which the core takes as many throttle steps as it chooses and
the governor a fixed duty (R513, R516). -/
def actThermal (steps : Nat) (s : State) : State :=
  let tj := s.pm.hottest.1
  let s1 := if tj ≥ s.pm.tThrottle then
      beginLimit 4 (modPm (if governor s then atMost 4 else throttleSteps (min steps 29)) s)
    else s
  if tj ≥ 103 then beginLimit 5 (modPm (fun p => { atMost 2 p with halved := true }) s1) else s1

def execThermalSample (temps : List Nat) (steps : Nat) (s : State) : Host.Outcome State Fault Refusal :=
  let s1 := actThermal steps (modPm (fun p => { p with temps := temps }) s)
  .next (if s1.pm.hottest.1 ≥ 108 then thermTrip s1 else s1)

/-! ## Emergencies and wear (R514, R515) -/

def undefer (x : Proc) : Proc := if x.act = .deferred then { x with act := .armed } else x

/-- 100 ms after the last of its causes the emergency clears; deferred activations may switch at their boundaries. -/
def execEmergencyClear (s : State) : Host.Outcome State Fault Refusal :=
  if s.pm.emerg = true ∧ s.pm.limits = [] ∧ governor s = false ∧ s.chip.pwrFail = false then
    let s1 := modPm (fun p => { p with emerg := false }) s
    let s2 := { s1 with fw := { s1.fw with procs := s1.fw.procs.map (fun (e : Nat × Proc) => (e.1, undefer e.2)) } }
    .next (event 0x0284 0 1 0xFF [] s2)
  else .next s

def wearBudget : Nat := 72000000

/-- Units charged for a second at a temperature. -/
def wearUnits (tj : Nat) : Nat := if tj ≤ 95 then 0 else if tj ≤ 100 then 1 else if tj ≤ 103 then 2 else 4

def execWearCharge (s : State) : Host.Outcome State Fault Refusal :=
  let old := s.pm.wear
  let new := (old + wearUnits s.pm.hottest.1) % 2 ^ 64
  let s1 := modPm (fun p => { p with wear := new }) s
  let passes := fun (k : Nat) => decide (old < k) && decide (k ≤ new)
  let s2 := if passes (wearBudget * 8 / 10) then event 0x0285 1 0xFF 0xFF (leBytes 8 new) s1 else s1
  .next (if passes wearBudget then event 0x0286 2 0xFF 0xFF (leBytes 8 new) s2 else s2)

/-- Once an hour the count is written to the wear record of each flash device. -/
def execWearRecordWrite (s : State) : Host.Outcome State Fault Refusal := .next (modPm (fun p => { p with wearFlash := p.wear }) s)

/-! ## The I3C port (R544) -/

/-- Block and offset of a register of the port's map (Table 20-5). -/
def i3cMap (a : Nat) : Option (Nat × Nat) :=
  if a = 0 then some (bkDevice 0, 0) else if a = 8 then some (bkDevice 0, 8) else if a = 0x10 then some (bkReset, 0)
  else if a = 0x18 then some (bkReset, 8) else if a = 0x20 then some (bkPower, 0) else if a = 0x28 then some (bkPower, 8)
  else if a = 0x30 then some (bkPower, 0x10) else if a = 0x38 then some (bkRecorder, 0x10) else none

/-- The port answers in every reset but power-on: the register's bytes, or a NACK. -/
def execI3cRead (addr : Nat) (s : State) : Host.Outcome State Fault Refusal :=
  .next (if s.chip.asserted = some .powerOn then s
    else emit (.i3c (match i3cMap addr with
      | some (b, o) => (regAt b o s).map (fun r => leBytes (if r.wide then 8 else 4) r.val)
      | none => none)) s)

end Sys2Proof.Machine
end

