-- ==== Sys2Proof/Machine/RegCmds.lean ====
section
/-! DEFINITION. Register accesses, doorbells and the mailbox handshake as commands (07, 08, 16, 19). -/

namespace Sys2Proof.Machine

open Sys2Proof

/-! ## Registers -/

def execRegisterWrite (w : RegWrite) (s : State) : Host.Outcome State Fault Refusal := done (regWrite w s)

/-- A host read of a location that holds no register (R523). -/
def execUnimplementedRead (func bar offset size : Nat) (s : State) : Host.Outcome State Fault Refusal :=
  if s.chip.asserted.isNone ∧ decodes func s = true ∧ (bar = 0 ∨ bar = 2) ∧ unlocated func bar offset s = true ∧
      hostRead func bar offset size s = none then
    .next (emit (.completerAbort func) (recBadAddr func offset false (bar == 2) s))
  else .next s

/-- A host read of a wrong size, or misaligned (R431). -/
def execBadSizeRead (func bar offset size : Nat) (s : State) : Host.Outcome State Fault Refusal :=
  if s.chip.asserted.isNone ∧ decodes func s = true ∧ (bar = 0 ∨ bar = 2) ∧ sizeOk offset size = false then
    .next (emit (.completerAbort func)
      (if unlocated func bar offset s then recBadAddr func offset false (bar == 2) s else s))
  else .next s

/-- A write that reaches SNAPCTL (R527). -/
def execSnap (w : RegWrite) (s : State) : Host.Outcome State Fault Refusal :=
  .next (if reaches (fun _ o => o == 0x3F00) w s then regWrite w s else s)

/-- A write that reaches an ERRSTAT (R525). -/
def execErrstatClear (w : RegWrite) (s : State) : Host.Outcome State Fault Refusal :=
  .next (if reaches (fun _ o => o == 0x3F08) w s then regWrite w s else s)

/-- A write that reaches TR_FQHEAD (R188). -/
def execTrFqhead (w : RegWrite) (s : State) : Host.Outcome State Fault Refusal :=
  .next (if reaches (fun b o => isBk b 0x80 64 && o == 0) w s then regWrite w s else s)

/-- A write of TR_RESPOND with an ACTION. -/
def responds (a : Nat) (w : RegWrite) (s : State) : Bool :=
  reaches (fun b o => isBk b 0x80 64 && o == 0x10) w s && bitsOf 17 16 w.value.toNat == a

def execRetry (w : RegWrite) (s : State) : Host.Outcome State Fault Refusal := done (if responds 1 w s then regWrite w s else s)

def execFail (w : RegWrite) (s : State) : Host.Outcome State Fault Refusal := done (if responds 2 w s then regWrite w s else s)

def execQeTcvalue (w : RegWrite) (s : State) : Host.Outcome State Fault Refusal :=
  .next (if reaches (fun b o => isBk b 0xC0 64 && (o == 8 || o == 12)) w s then regWrite w s else s)

def execQeTcadd (w : RegWrite) (s : State) : Host.Outcome State Fault Refusal :=
  .next (if reaches (fun b o => isBk b 0xC0 64 && (o == 0x10 || o == 0x14)) w s then regWrite w s else s)

def execPpInject (w : RegWrite) (s : State) : Host.Outcome State Fault Refusal :=
  done (if reaches (fun b o => b == bkPipe 0 && o == 0x18) w s then regWrite w s else s)

def execCeRingdb (w : RegWrite) (s : State) : Host.Outcome State Fault Refusal :=
  done (if reaches (fun b o => isBk b 0x100 64 && o == 0) w s then regWrite w s else s)

/-- A host's write of GO to a task slot (R356). -/
def execTaskGo (w : RegWrite) (s : State) : Host.Outcome State Fault Refusal :=
  .next (if w.bar = 2 ∧ isSlot w.offset = true ∧ writesGo w.offset w.size w.value.toNat = true then regWrite w s else s)

/-! ## Doorbells (R242, R243) -/

/-- The write to a lane's doorbell. -/
def bellAccess (w : DoorbellWrite) (off : Nat) : RegWrite :=
  { agent := .host w.func, bar := 2, offset := w.lane * 0x1000 + off, size := w.size, value := w.value, stores := w.stores }

def execSqDb (w : DoorbellWrite) (s : State) : Host.Outcome State Fault Refusal :=
  done (if w.lane < 16 then regWrite (bellAccess w 0) s else s)

def execRqDb (w : DoorbellWrite) (s : State) : Host.Outcome State Fault Refusal :=
  done (if w.lane < 16 then regWrite (bellAccess w 8) s else s)

/-- CQ_DB without ARM. -/
def execCqDb (w : DoorbellWrite) (s : State) : Host.Outcome State Fault Refusal :=
  done (if w.lane < 16 ∧ bitOf 31 w.value.toNat = false then regWrite (bellAccess w 16) s else s)

/-- CQ_DB with ARM (R249). -/
def execCqArm (w : DoorbellWrite) (s : State) : Host.Outcome State Fault Refusal :=
  done (if w.lane < 16 ∧ bitOf 31 w.value.toNat = true then regWrite (bellAccess w 16) s else s)

/-- Tries of a loop that sleeps. -/
def sleeps : LoopSt → Option Nat
  | .sleeping t => some t
  | _ => none

/-- The SQ's loop reads its entry again (R244). -/
def retrySq (n : Nat) (s : State) : State :=
  match (qp? n s).bind (fun q => sleeps q.sqLoop) with
  | none => s
  | some k => sqTry n k (modQp n (fun q => { q with sqLoop := .idle }) s)

def retryRq (n : Nat) (s : State) : State :=
  match (qp? n s).bind (fun q => sleeps q.rqLoop) with
  | none => s
  | some k => rqTry n k (modQp n (fun q => { q with rqLoop := .idle }) s)

def retryRing (p : Nat) (s : State) : State :=
  match (cring? p s).bind (fun r => sleeps r.loop) with
  | none => s
  | some k => cipherTry p k (modRing p (fun r => { r with loop := .idle }) s)

/-- The inject ring has no status: after the eighth retry it waits for the next PP_INJECT. -/
def retryInject (s : State) : State :=
  match sleeps s.pp.injLoop with
  | none => s
  | some k => if k > 8 then s else injectTry k (modPipe (fun p => { p with injLoop := .idle }) s)

/-- A sleeping read loop reads its entry again: kind 0 SQ, 1 RQ of a QP, 2 a partition's cipher ring, 3 the inject ring. -/
def execDoorbellRetry (kind n : Nat) (s : State) : Host.Outcome State Fault Refusal :=
  done (if kind = 0 then retrySq n s else if kind = 1 then retryRq n s else if kind = 2 then retryRing n s
    else if kind = 3 then retryInject s else s)

/-! ## Mailboxes (R456) -/

/-- A write of MB_CTL. -/
def execMailboxGo (w : RegWrite) (s : State) : Host.Outcome State Fault Refusal :=
  .next (if reaches (fun b o => isBk b 0x1000 0x1000 && o == 0x2000) w s then regWrite w s else s)

/-- Payload of a response: NEXT of a readback, then its numbers; MODE_PARTIAL's UNITS take 4 bytes (log 10). -/
def mboxPayload (r : Resp) : List Byte :=
  let nums := r.body.rows.flatten
  if r.status = Config.modePartial then nums.flatMap (leBytes 4)
  else ((match r.body.next with
    | some n => leBytes 8 n
    | none => []) ++ nums.flatMap (leBytes 8)).take 4080

/-- A response with its header (Table 16-2). -/
def Resp.bytes (r : Resp) : List Byte :=
  let p := mboxPayload r
  leBytes 2 r.status ++ [0, 0] ++ leBytes 2 r.tag ++ leBytes 2 r.opcode ++ leBytes 4 p.length ++ [0, 0, 0, 0] ++ p

/-- The response area holds the whole response: MB_STAT moves to DONE, and the vector is sent if IRQ is set. -/
def execMailboxDone (mb : MbId) (s : State) : Host.Outcome State Fault Refusal :=
  let m := mbIx mb.func mb.urgent
  let x := mbox? m s
  match x.phase, x.resp with
  | .answered, some r =>
    let s1 := wrMem (spMbox m) 0x1000 r.bytes s
    let s2 := modMbox m (fun x => { x with state := 2, phase := .idle }) s1
    let s3 := if r.status = Config.ok ∨ r.status = Config.deferred then s2 else bump (bkMailbox m) 1 1 s2
    let s4 := if r.status = Config.fwRestarting then bump (bkMailbox m) 2 1 s3 else s3
    .next (if x.irq then msix mb.func x.vec s4 else s4)
  | _, _ => .next s

end Sys2Proof.Machine
end

