-- ==== Sys2Proof/Machine/SpdmCmds.lean ====
section
/-! DEFINITION. Attestation: the DOE mailbox and the SPDM 1.3 responder (14, R422 to R424). Message layouts are DMTF DSP0274's. -/

namespace Sys2Proof.Machine

open Sys2Proof

/-! ## Messages -/

/-- Sends a DOE data object of vendor 0x0001: header, payload padded to 4 bytes. -/
def sendDoe (type : Nat) (bs : List Byte) (s : State) : State :=
  let pad := (4 - bs.length % 4) % 4
  emit (.doe (leBytes 2 1 ++ [BitVec.ofNat 8 type, 0] ++ leBytes 4 ((8 + bs.length + pad) / 4) ++ bs ++ List.replicate pad 0)) s

/-- An SPDM message: version, code, two parameters, body. -/
def spdmMsg (version code p1 p2 : Nat) (body : List Byte) : List Byte :=
  [BitVec.ofNat 8 version, BitVec.ofNat 8 code, BitVec.ofNat 8 p1, BitVec.ofNat 8 p2] ++ body

def spdmError (code : Nat) (s : State) : State := sendDoe 1 (spdmMsg 0x13 0x7F code 0 []) s

def errInvalid : Nat := 0x01
def errUnexpected : Nat := 0x04
def errUnspecified : Nat := 0x05
def errUnsupported : Nat := 0x07

def modSpdm (f : Spdm → Spdm) (s : State) : State := modSec (fun k => { k with spdm := f k.spdm }) s

/-- The security core answers: it runs, or serves alone in recovery (R418). -/
def responderUp (s : State) : Bool := s.chip.recovery || procUp 0 s

/-- An SPDM request of a code, in version 1.3 and with the connection in a phase, or the ERROR of Table 14-9. -/
def spdmServe (code phase : Nat) (bs : List Byte) (k : State → State) (s : State) : State :=
  if !responderUp s then s
  else if bs.length < 4 then spdmError errInvalid s
  else if u bs 1 1 ≠ code ∨ u bs 0 1 ≠ 0x13 then spdmError errUnsupported s
  else if s.sec.spdm.phase < phase then spdmError errUnexpected s
  else k s

/-! ## Connection -/

/-- GET_VERSION: 1.3 only; the connection starts anew. -/
def execGetVersion (bytes : List Byte) (s : State) : Host.Outcome State Fault Refusal :=
  .next (
    if !responderUp s then s
    else if bytes.length < 4 then spdmError errInvalid s
    else if u bytes 1 1 ≠ 0x84 ∨ u bytes 0 1 ≠ 0x10 then spdmError errUnsupported s
    else
      let m := spdmMsg 0x10 0x04 0 0 [0, 1, 0x00, 0x13]
      modSpdm (fun _ => { phase := 1, transcript := bytes ++ m, certMsgs := [], measMsgs := [] }) (sendDoe 1 m s))

/-- CERT_CAP, CHAL_CAP, MEAS_CAP with signature, MEAS_FRESH_CAP; CTExponent 14 (Table 14-9). -/
def spdmCaps : List Byte := [0, 14, 0, 0] ++ leBytes 4 0x36 ++ leBytes 4 4096 ++ leBytes 4 65536

def execGetCapabilities (bytes : List Byte) (s : State) : Host.Outcome State Fault Refusal :=
  .next (spdmServe 0xE1 1 bytes (fun t =>
    let m := spdmMsg 0x13 0x61 0 0 spdmCaps
    if t.sec.spdm.phase ≠ 1 then spdmError errUnexpected t
    else modSpdm (fun x => { x with phase := 2, transcript := x.transcript ++ bytes ++ m }) (sendDoe 1 m t)) s)

/-- Selected: DMTF measurements, TPM_ALG_SHA3_256 for both hashes, one ExtAsym entry (Table 14-9). -/
def spdmAlgs : List Byte :=
  leBytes 2 44 ++ [1, 0] ++ leBytes 4 0x10 ++ leBytes 4 0 ++ leBytes 4 0x08 ++ List.replicate 12 0 ++ [1, 0, 0, 0] ++
    [3, 0] ++ leBytes 2 0x1F4A ++ leBytes 4 0x0001

/-- The requester offers SHA3-256 and an extended signature algorithm. -/
def algsOffered (bs : List Byte) : Bool := bitOf 3 (u bs 12 4) && decide (u bs 28 1 ≥ 1)

def execNegotiateAlgorithms (bytes : List Byte) (s : State) : Host.Outcome State Fault Refusal :=
  .next (spdmServe 0xE3 2 bytes (fun t =>
    let m := spdmMsg 0x13 0x63 0 0 spdmAlgs
    if t.sec.spdm.phase ≠ 2 then spdmError errUnexpected t
    else if !algsOffered bytes then spdmError errUnsupported t
    else modSpdm (fun x => { x with phase := 3, transcript := x.transcript ++ bytes ++ m }) (sendDoe 1 m t)) s)

/-! ## Certificates (R413) -/

/-- The first certificate of a chain: a DER sequence with a length of two bytes. -/
def rootCert (chain : List Byte) : List Byte := chain.take (4 + 256 * u chain 2 1 + u chain 3 1)

/-- The chain as SPDM carries it: length, hash of the root, certificates. -/
def spdmChain (chain : List Byte) : List Byte := leBytes 2 (chain.length + 36) ++ [0, 0] ++ shaBytes (rootCert chain) ++ chain

/-- Sends a response and keeps both messages for a later CHALLENGE. -/
def sendCert (req m : List Byte) (s : State) : State :=
  modSpdm (fun x => { x with certMsgs := x.certMsgs ++ req ++ m }) (sendDoe 1 m s)

def execGetDigests (bytes : List Byte) (s : State) : Host.Outcome State Fault Refusal :=
  .next (spdmServe 0x81 3 bytes (fun t => match certChain with
    | some c => sendCert bytes (spdmMsg 0x13 0x01 1 1 (shaBytes (spdmChain c))) t
    | none => sendCert bytes (spdmMsg 0x13 0x01 1 0 []) t) s)

def execGetCertificate (bytes : List Byte) (s : State) : Host.Outcome State Fault Refusal :=
  .next (spdmServe 0x82 3 bytes (fun t =>
    let off := u bytes 4 2
    if u bytes 2 1 ≠ 0 then spdmError errUnsupported t
    else match certChain with
      | none => spdmError errUnspecified t
      | some c =>
        let chain := spdmChain c
        if bytes.length < 8 ∨ off ≥ chain.length then spdmError errInvalid t
        else
          let n := min (u bytes 6 2) (min (chain.length - off) 4080)
          sendCert bytes (spdmMsg 0x13 0x02 0 0 (leBytes 2 n ++ leBytes 2 (chain.length - off - n) ++ (chain.drop off).take n)) t) s)

/-! ## Signed responses -/

/-- Measurement block with its value type and digest (Table 14-10). -/
def measBlock (i : Nat) (s : State) : List Byte :=
  let v : Nat × BitVec 256 :=
    if i = 1 then (0, Config.romDigest ())
    else if i = 2 then (2, Config.sha3 (leBytes 8 s.chip.fusedSvn ++ [BitVec.ofNat 8 s.chip.revoked] ++ leBytes 32 s.chip.opt.toNat))
    else if i = 3 then (3, tgetD s.sec.measured 0 0)
    else if i = 8 then (3, tgetD s.sec.measured 5 0)
    else (1, tgetD s.sec.measured (i - 3) 0)
  [BitVec.ofNat 8 i, 1] ++ leBytes 2 35 ++ [BitVec.ofNat 8 v.1] ++ leBytes 2 32 ++ leBytes 32 v.2.toNat

/-- A nonce of 32 bytes (log 8). -/
def drawNonce (s : State) : List Byte × State :=
  (List.range 4).foldl (fun (a : List Byte × State) _ => let d := draw a.2; (a.1 ++ leBytes 8 d.1.toNat, d.2)) ([], s)

/-- "dmtf-spdm-v1.3.*" four times, and a context string right-aligned in 36 bytes. -/
def spdmPrefix (ctx : List Byte) : List Byte :=
  (List.replicate 4 [0x64, 0x6D, 0x74, 0x66, 0x2D, 0x73, 0x70, 0x64, 0x6D, 0x2D, 0x76, 0x31, 0x2E, 0x33, 0x2E, 0x2A]).flatten ++
    List.replicate (36 - ctx.length) 0 ++ ctx

/-- "responder-challenge_auth signing" -/
def chalContext : List Byte :=
  [0x72, 0x65, 0x73, 0x70, 0x6F, 0x6E, 0x64, 0x65, 0x72, 0x2D, 0x63, 0x68, 0x61, 0x6C, 0x6C, 0x65, 0x6E, 0x67, 0x65, 0x5F, 0x61, 0x75, 0x74,
   0x68, 0x20, 0x73, 0x69, 0x67, 0x6E, 0x69, 0x6E, 0x67]
/-- "responder-measurements signing" -/
def measContext : List Byte :=
  [0x72, 0x65, 0x73, 0x70, 0x6F, 0x6E, 0x64, 0x65, 0x72, 0x2D, 0x6D, 0x65, 0x61, 0x73, 0x75, 0x72, 0x65, 0x6D, 0x65, 0x6E, 0x74, 0x73, 0x20,
   0x73, 0x69, 0x67, 0x6E, 0x69, 0x6E, 0x67]

/-- Signature over a transcript with a context (R414). -/
def spdmSign (ctx transcript : List Byte) : List Byte :=
  fitBytes 2420 (Config.mlDsaSign identitySeed ctx (spdmPrefix ctx ++ shaBytes transcript))

/-- The check mismatches of a signature job, which is run again once: does it fail, and the cores' records (R398, R399). -/
def signFails (miss : List Nat) (s : State) : Bool × State :=
  let bad := (miss.filter (fun c => c == 20 || c == 21)).take 2
  (bad.length == 2, bad.foldl (fun t c => coreMiss c t) s)

def execChallenge (bytes : List Byte) (miss : List Nat) (s : State) : Host.Outcome State Fault Refusal :=
  .next (spdmServe 0x83 3 bytes (fun t =>
    if u bytes 2 1 ≠ 0 then spdmError errUnsupported t
    else if bytes.length < 44 then spdmError errInvalid t
    else match certChain with
      | none => spdmError errUnspecified t
      | some c =>
        let (failed, t1) := signFails miss t
        if failed then spdmError errUnspecified t1
        else
          let (nonce, t2) := drawNonce t1
          let sum := if u bytes 3 1 = 0 then [] else shaBytes ((List.range 8).flatMap (fun i => measBlock (i + 1) t2))
          let m := spdmMsg 0x13 0x03 0 1 (shaBytes (spdmChain c) ++ nonce ++ sum ++ [0, 0] ++ (bytes.drop 36).take 8)
          let x := t2.sec.spdm
          let sig := spdmSign chalContext (x.transcript ++ x.certMsgs ++ bytes ++ m)
          modSpdm (fun x => { x with certMsgs := [] }) (sendDoe 1 (m ++ sig) t2)) s)

/-- The blocks an operation asks for: 0 the count alone, 0xFF all, else one. -/
def measAsked (op : Nat) : Option (List Nat) :=
  if op = 0 then some [] else if op = 0xFF then some [1, 2, 3, 4, 5, 6, 7, 8] else if op ≤ 8 then some [op] else none

/-- MEASUREMENTS up to its signature: count or slot, blocks, nonce, no opaque data, the requester's context. -/
def measMsg (op : Nat) (blocks : List Nat) (nonce ctx : List Byte) (s : State) : List Byte :=
  let rec' := blocks.flatMap (fun i => measBlock i s)
  spdmMsg 0x13 0x60 (if op = 0 then 8 else 0) 0 ([BitVec.ofNat 8 blocks.length] ++ leBytes 3 rec'.length ++ rec' ++ nonce ++ [0, 0] ++ ctx)

def execGetMeasurements (bytes : List Byte) (miss : List Nat) (s : State) : Host.Outcome State Fault Refusal :=
  .next (spdmServe 0xE0 3 bytes (fun t =>
    let signed := bitOf 0 (u bytes 2 1)
    if signed ∧ u bytes 36 1 % 16 ≠ 0 then spdmError errUnsupported t
    else if bytes.length < (if signed then 45 else 12) then spdmError errInvalid t
    else match measAsked (u bytes 3 1) with
      | none => spdmError errInvalid t
      | some blocks =>
        let (failed, t1) := if signed then signFails miss t else (false, t)
        if failed then spdmError errUnspecified t1
        else
          let (nonce, t2) := drawNonce t1
          let m := measMsg (u bytes 3 1) blocks nonce ((bytes.drop (if signed then 37 else 4)).take 8) t2
          let x := t2.sec.spdm
          let covered := x.measMsgs ++ bytes ++ m
          if signed then
            modSpdm (fun x => { x with measMsgs := [] }) (sendDoe 1 (m ++ spdmSign measContext (x.transcript ++ covered)) t2)
          else modSpdm (fun x => { x with measMsgs := covered }) (sendDoe 1 m t2)) s)

/-! ## DOE -/

/-- An abort resets the transcript (R424). -/
def execDoeAbort (s : State) : Host.Outcome State Fault Refusal := .next (modSpdm (fun _ => Spdm.fresh) s)

/-- DOE Discovery: the object types by index, each with the next index (R422). -/
def execDoeDiscovery (index : Nat) (s : State) : Host.Outcome State Fault Refusal :=
  .next (sendDoe 0 (if index = 0 then [0x01, 0x00, 0x00, 0x01] else if index = 1 then [0x01, 0x00, 0x01, 0x00] else [0xFF, 0xFF, 0x00, 0x00]) s)

end Sys2Proof.Machine
end

