-- ==== Sys2Proof/Machine/TileEvents.lean ====
section
/-! DEFINITION. Events of jobs, slices, streams and tiles (03, 04). -/

namespace Sys2Proof.Machine

open Sys2Proof

/-- The outcome of a load: the first region that failed, or 0. -/
def loadCode (st : SlotSt) : Nat := ((st.loads.filterMap LoadItem.ended).find? (fun c => c != 0)).getD 0

/-- Jobs that stand on a slot without a usable image end with 0x07 (R92, log 32). -/
def endSlotJobs (part slot : Nat) (s : State) : State :=
  (tkeys (s.ti.jobs.filter (fun e => e.2.part == part && e.2.ran && e.2.req.slots.any (fun r => r.slot == slot)))).foldl
    (fun u j => endJob j Config.ccFlushed 0 u) s

/-- The last region of a load is written and checked (R92): the slot is RESIDENT, or EMPTY on failure. -/
def execLoadDone (part slot : Nat) (s : State) : Host.Outcome State Fault Refusal :=
  match slotSt? part slot s with
  | none => .next s
  | some st =>
    if st.wstate ≠ .loading ∨ !st.loads.all (fun l => l.ended.isSome) ∨
        s.xl.xfers.any (fun e => e.2.owner.kind == .image && e.2.owner.a == part * 16 + slot) then .next s
    else
      let code := loadCode st
      let regions := if code = 0 then loadedRegions st else []
      let s1 := modSlot part slot (fun st => { st with
        wstate := if code = 0 then .resident else .empty, regions := regions, loads := [], reload := false, loadMb := none }) s
      let s2 := match st.loadMb with
        | some m => finish m code Body.empty s1
        | none => s1
      let s3 := if code = 0 then s2 else endSlotJobs part slot s2
      done ((tkeys s3.ti.jobs).foldl (fun u j => resumeJbnd j u) (kickJobs s3))

/-- An armed job starts once its counter has reached its threshold (R97). -/
def execArmedJobStart (job : Nat) (s : State) : Host.Outcome State Fault Refusal :=
  match job? job s with
  | some x =>
    match x.jstate, x.req.arm with
    | .armed, some (h, v) => if tallyPassed x.part h v s then done (launch job (setJob job { x with jstate := .held } s)) else .next s
    | _, _ => .next s
  | none => .next s

/-- An ending job whose tiles have drained writes its completion (R98). -/
def execJobEnd (job : Nat) (s : State) : Host.Outcome State Fault Refusal :=
  match job? job s with
  | some x =>
    match x.jstate with
    | .ending code opspec => if jobDrained x s then done (finishJob job x code opspec s) else .next s
    | _ => .next s
  | none => .next s

/-- The time limit of a job that runs on a resident group expires (R98, R103). -/
def execJobTimeLimit (job : Nat) (s : State) : Host.Outcome State Fault Refusal :=
  match job? job s with
  | some x =>
    if x.jstate = .running ∧ x.req.limitUs ≠ 0 ∧ (group? x.part s).any (fun g => g.phase == .resident) then
      .next (endJob job Config.ccFlushed 2 s)
    else .next s
  | none => .next s

def execQuantumExpiry (part : Nat) (s : State) : Host.Outcome State Fault Refusal := done (quantumEnd part s)

/-- A group's restore finishes (R103). A channel that retrains holds the reads of its save areas (R163). -/
def execGroupRestoreDone (part : Nat) (s : State) : Host.Outcome State Fault Refusal :=
  match group? part s with
  | some g =>
    if g.phase = .restoring ∧ !(areasHeld s && (tkeys g.slots).any (fun i => (saveArea part i s).isSome)) then
      done (releaseAreas (restoreGroup part g s))
    else .next s
  | none => .next s

/-- LENGTH bytes of a DMA stream have moved (R90). -/
def execDmaStreamEnd (tile fifo : Nat) (s : State) : Host.Outcome State Fault Refusal :=
  match bindKeyAt tile fifo s with
  | some k =>
    (match bind? k s with
     | some b =>
       if (b.kind = 3 ∨ b.kind = 4) ∧ b.moved ≥ b.length ∧ b.xfer.isNone then .next (modBind k (fun b => { b with ended := true }) s)
       else .next s
     | none => .next s)
  | none => .next s

/-- An M sequence completes its last steps (R130). -/
def execMSequenceEnd (tile : Nat) (ecc : List EccHit) (s : State) : Host.Outcome State Fault Refusal :=
  match (tile? tile s).mseq, tilePlace tile s with
  | some q, some _ =>
    let s1 := mRun tile ecc (q.steps + 1) s
    done (match (tile? tile s1).mseq with
      | some p => if p.steps = 0 then modTile tile (fun x => { x with mseq := none, mview := [] }) s1 else s1
      | none => s1)
  | _, _ => .next s

/-- A tile DMA descriptor completes: its slot is free and its counter increments on success (R136). -/
def execTileDmaComplete (tile slot : Nat) (s : State) : Host.Outcome State Fault Refusal :=
  match tget (tile? tile s).dma slot with
  | some d =>
    (match d.landed, tilePlace tile s with
     | some code, some p =>
       let s1 := modTile tile (fun x => { x with dma := tdel x.dma slot }) s
       let s2 := if code = 0 ∧ d.tally ≠ 0xFFFF then tallyAdd p.1 d.tally 1 s1 else s1
       done (startDma tile 8 s2)
     | _, _ => .next s)
  | none => .next s

end Sys2Proof.Machine
end

