-- ==== Sys2Proof/Machine/Dispatch.lean ====
section
/-! DEFINITION. Which meaning each command has: one arm for each constructor. -/

namespace Sys2Proof.Machine

open Sys2Proof

/-- The effect of a command on everything but the queue. -/
def exec (i : Instr) (s : State) : Host.Outcome State Fault Refusal :=
  match i with
  | .registerWrite w => Sys2Proof.Machine.execRegisterWrite w s
  | .unimplementedRead func bar offset size => Sys2Proof.Machine.execUnimplementedRead func bar offset size s
  | .badSizeRead func bar offset size => Sys2Proof.Machine.execBadSizeRead func bar offset size s
  | .snap w => Sys2Proof.Machine.execSnap w s
  | .errstatClear w => Sys2Proof.Machine.execErrstatClear w s
  | .mailboxGo w => Sys2Proof.Machine.execMailboxGo w s
  | .mailboxDone mb => Sys2Proof.Machine.execMailboxDone mb s
  | .loadImage c slot regions => Sys2Proof.Machine.execLoadImage c slot regions s
  | .unloadImage c slot => Sys2Proof.Machine.execUnloadImage c slot s
  | .reloadRegion c slot regions => Sys2Proof.Machine.execReloadRegion c slot regions s
  | .bindStream c => Sys2Proof.Machine.execBindStream c s
  | .unbindStream c slot tile fifo => Sys2Proof.Machine.execUnbindStream c slot tile fifo s
  | .startJob c req => Sys2Proof.Machine.execStartJob c req s
  | .cancelJob c job => Sys2Proof.Machine.execCancelJob c job s
  | .readBenches c cursor => Sys2Proof.Machine.execReadBenches c cursor s
  | .readBindings c cursor => Sys2Proof.Machine.execReadBindings c cursor s
  | .readJobs c cursor => Sys2Proof.Machine.execReadJobs c cursor s
  | .readGroups c cursor => Sys2Proof.Machine.execReadGroups c cursor s
  | .setQuantum c us => Sys2Proof.Machine.execSetQuantum c us s
  | .pinGroup c => Sys2Proof.Machine.execPinGroup c s
  | .unpinGroup c => Sys2Proof.Machine.execUnpinGroup c s
  | .setPortWait c n => Sys2Proof.Machine.execSetPortWait c n s
  | .loadDone part slot => Sys2Proof.Machine.execLoadDone part slot s
  | .armedJobStart job => Sys2Proof.Machine.execArmedJobStart job s
  | .jobEnd job => Sys2Proof.Machine.execJobEnd job s
  | .jobTimeLimit job => Sys2Proof.Machine.execJobTimeLimit job s
  | .quantumExpiry part => Sys2Proof.Machine.execQuantumExpiry part s
  | .groupRestoreDone part => Sys2Proof.Machine.execGroupRestoreDone part s
  | .dmaStreamEnd tile fifo => Sys2Proof.Machine.execDmaStreamEnd tile fifo s
  | .bundleIssue core ecc => Sys2Proof.Machine.execBundleIssue core ecc s
  | .bundleResume core ecc => Sys2Proof.Machine.execBundleResume core ecc s
  | .mSequenceEnd tile ecc => Sys2Proof.Machine.execMSequenceEnd tile ecc s
  | .tileDmaComplete tile slot => Sys2Proof.Machine.execTileDmaComplete tile slot s
  | .readMemory c cursor => Sys2Proof.Machine.execReadMemory c cursor s
  | .readMemErrors c cursor => Sys2Proof.Machine.execReadMemErrors c cursor s
  | .migrateStart c src dst rate => Sys2Proof.Machine.execMigrateStart c src dst rate s
  | .migrateRelease c id => Sys2Proof.Machine.execMigrateRelease c id s
  | .migrateAbort c id => Sys2Proof.Machine.execMigrateAbort c id s
  | .readMigrations c cursor => Sys2Proof.Machine.execReadMigrations c cursor s
  | .setAllotment c ranges => Sys2Proof.Machine.execSetAllotment c ranges s
  | .cxlAdd c dev => Sys2Proof.Machine.execCxlAdd c dev s
  | .cxlRemove c dev => Sys2Proof.Machine.execCxlRemove c dev s
  | .quarantineClear c lines => Sys2Proof.Machine.execQuarantineClear c lines s
  | .retrainChannel c ch => Sys2Proof.Machine.execRetrainChannel c ch s
  | .setScrub c sramS gddrS => Sys2Proof.Machine.execSetScrub c sramS gddrS s
  | .migrationCopyDone id bad => Sys2Proof.Machine.execMigrationCopyDone id bad s
  | .scrubRead loc found overwritten => Sys2Proof.Machine.execScrubRead loc found overwritten s
  | .edcFail ch addr fails who => Sys2Proof.Machine.execEdcFail ch addr fails who s
  | .tempDriftRetrain ch temp => Sys2Proof.Machine.execTempDriftRetrain ch temp s
  | .retrainDone ch ok replayOk temp holdNs => Sys2Proof.Machine.execRetrainDone ch ok replayOk temp holdNs s
  | .cxlEventPoll dev events => Sys2Proof.Machine.execCxlEventPoll dev events s
  | .cxlDeviceLost dev => Sys2Proof.Machine.execCxlDeviceLost dev s
  | .cxlRemoveDrainEnd dev => Sys2Proof.Machine.execCxlRemoveDrainEnd dev s
  | .setTranslation c p => Sys2Proof.Machine.execSetTranslation c p s
  | .readTranslation c cursor => Sys2Proof.Machine.execReadTranslation c cursor s
  | .invalidate c scope => Sys2Proof.Machine.execInvalidate c scope s
  | .readFaults c cursor => Sys2Proof.Machine.execReadFaults c cursor s
  | .dmaTransferUnit x ecc => Sys2Proof.Machine.execDmaTransferUnit x ecc s
  | .walkComplete w how stores => Sys2Proof.Machine.execWalkComplete w how stores s
  | .trFqhead w => Sys2Proof.Machine.execTrFqhead w s
  | .retry w => Sys2Proof.Machine.execRetry w s
  | .fail w => Sys2Proof.Machine.execFail w s
  | .faultTimeout x => Sys2Proof.Machine.execFaultTimeout x s
  | .readLinks c cursor => Sys2Proof.Machine.execReadLinks c cursor s
  | .readGangs c cursor => Sys2Proof.Machine.execReadGangs c cursor s
  | .readRollcall c cursor => Sys2Proof.Machine.execReadRollcall c cursor s
  | .readRoutes c cursor => Sys2Proof.Machine.execReadRoutes c cursor s
  | .setGang c gang kind members spares => Sys2Proof.Machine.execSetGang c gang kind members spares s
  | .grantGang c gang => Sys2Proof.Machine.execGrantGang c gang s
  | .gangWithdraw c gang => Sys2Proof.Machine.execGangWithdraw c gang s
  | .setVisTimeout c gang us => Sys2Proof.Machine.execSetVisTimeout c gang us s
  | .rollcallRun c => Sys2Proof.Machine.execRollcallRun c s
  | .setRollcall c ns => Sys2Proof.Machine.execSetRollcall c ns s
  | .setRedundancy c level => Sys2Proof.Machine.execSetRedundancy c level s
  | .recalLink c link force => Sys2Proof.Machine.execRecalLink c link force s
  | .setRoute c die entries => Sys2Proof.Machine.execSetRoute c die entries s
  | .setLinkThresh c crc hours => Sys2Proof.Machine.execSetLinkThresh c crc hours s
  | .signalDetect link => Sys2Proof.Machine.execSignalDetect link s
  | .hello h m => Sys2Proof.Machine.execHello h m s
  | .helloResend link => Sys2Proof.Machine.execHelloResend link s
  | .trainingTimeout link => Sys2Proof.Machine.execTrainingTimeout link s
  | .jlDataFrame link fr => Sys2Proof.Machine.execJlDataFrame link fr s
  | .jlNak h seq => Sys2Proof.Machine.execJlNak h seq s
  | .nakResend link => Sys2Proof.Machine.execNakResend link s
  | .replayTimer link => Sys2Proof.Machine.execReplayTimer link s
  | .lossOfSignal link => Sys2Proof.Machine.execLossOfSignal link s
  | .reform h m => Sys2Proof.Machine.execReform h m s
  | .reformAck h restart => Sys2Proof.Machine.execReformAck h restart s
  | .reformResend gang => Sys2Proof.Machine.execReformResend gang s
  | .recalDone link ok => Sys2Proof.Machine.execRecalDone link ok s
  | .failedLinkRetry link => Sys2Proof.Machine.execFailedLinkRetry link s
  | .periodicRecal link => Sys2Proof.Machine.execPeriodicRecal link s
  | .visAck gang => Sys2Proof.Machine.execVisAck gang s
  | .readData gang => Sys2Proof.Machine.execReadData gang s
  | .visTimeout gang tag => Sys2Proof.Machine.execVisTimeout gang tag s
  | .fwd gang => Sys2Proof.Machine.execFwd gang s
  | .tokenMsg gang => Sys2Proof.Machine.execTokenMsg gang s
  | .holdMsg gang => Sys2Proof.Machine.execHoldMsg gang s
  | .holdResend => Sys2Proof.Machine.execHoldResend s
  | .returnMsg gang => Sys2Proof.Machine.execReturnMsg gang s
  | .loopMsg gang => Sys2Proof.Machine.execLoopMsg gang s
  | .rollcallAnswerTimeout gang => Sys2Proof.Machine.execRollcallAnswerTimeout gang s
  | .resultMsg gang => Sys2Proof.Machine.execResultMsg gang s
  | .createQp c => Sys2Proof.Machine.execCreateQp c s
  | .modifyQp c qpn goal ctx => Sys2Proof.Machine.execModifyQp c qpn goal ctx s
  | .destroyQp c qpn => Sys2Proof.Machine.execDestroyQp c qpn s
  | .readQp c which => Sys2Proof.Machine.execReadQp c which s
  | .createCq c base log vec count time => Sys2Proof.Machine.execCreateCq c base log vec count time s
  | .destroyCq c cqn => Sys2Proof.Machine.execDestroyCq c cqn s
  | .readCq c cursor => Sys2Proof.Machine.execReadCq c cursor s
  | .issuePass c p => Sys2Proof.Machine.execIssuePass c p s
  | .revokePass c key => Sys2Proof.Machine.execRevokePass c key s
  | .passDrained idx => Sys2Proof.Machine.execPassDrained idx s
  | .readPasses c cursor => Sys2Proof.Machine.execReadPasses c cursor s
  | .tallySet c handle value => Sys2Proof.Machine.execTallySet c handle value s
  | .tallyRead c handle count cursor => Sys2Proof.Machine.execTallyRead c handle count cursor s
  | .setQueueGrant c qps cqs passes tallies => Sys2Proof.Machine.execSetQueueGrant c qps cqs passes tallies s
  | .sqDb w => Sys2Proof.Machine.execSqDb w s
  | .rqDb w => Sys2Proof.Machine.execRqDb w s
  | .cqDb w => Sys2Proof.Machine.execCqDb w s
  | .cqArm w => Sys2Proof.Machine.execCqArm w s
  | .doorbellRetry kind n => Sys2Proof.Machine.execDoorbellRetry kind n s
  | .cqModerationTimer cqn => Sys2Proof.Machine.execCqModerationTimer cqn s
  | .waitRelease qpn => Sys2Proof.Machine.execWaitRelease qpn s
  | .qeTcvalue w => Sys2Proof.Machine.execQeTcvalue w s
  | .qeTcadd w => Sys2Proof.Machine.execQeTcadd w s
  | .ptSend k => Sys2Proof.Machine.execPtSend k s
  | .ptWrite k => Sys2Proof.Machine.execPtWrite k s
  | .ptReadReq k => Sys2Proof.Machine.execPtReadReq k s
  | .ptReadResp k => Sys2Proof.Machine.execPtReadResp k s
  | .ptFadd k => Sys2Proof.Machine.execPtFadd k s
  | .ptCas k => Sys2Proof.Machine.execPtCas k s
  | .ptAtomicResp k => Sys2Proof.Machine.execPtAtomicResp k s
  | .ptAck k => Sys2Proof.Machine.execPtAck k s
  | .placementDone qpn msn => Sys2Proof.Machine.execPlacementDone qpn msn s
  | .ackTimer qpn => Sys2Proof.Machine.execAckTimer qpn s
  | .rtoExpiry qpn psn => Sys2Proof.Machine.execRtoExpiry qpn psn s
  | .rnrWaitExpiry qpn => Sys2Proof.Machine.execRnrWaitExpiry qpn s
  | .pathPenaltyEnd qpn path => Sys2Proof.Machine.execPathPenaltyEnd qpn path s
  | .rocePacket k => Sys2Proof.Machine.execRocePacket k s
  | .fencePeer c addr => Sys2Proof.Machine.execFencePeer c addr s
  | .unfencePeer c addr => Sys2Proof.Machine.execUnfencePeer c addr s
  | .readFences c cursor => Sys2Proof.Machine.execReadFences c cursor s
  | .readPaths c cursor => Sys2Proof.Machine.execReadPaths c cursor s
  | .readCc c cursor => Sys2Proof.Machine.execReadCc c cursor s
  | .setCc c p => Sys2Proof.Machine.execSetCc c p s
  | .setPtPort c port => Sys2Proof.Machine.execSetPtPort c port s
  | .ptPortGraceEnd => Sys2Proof.Machine.execPtPortGraceEnd s
  | .createGroup c => Sys2Proof.Machine.execCreateGroup c s
  | .destroyGroup c handle => Sys2Proof.Machine.execDestroyGroup c handle s
  | .setGroupMode c handle fmt effSeq => Sys2Proof.Machine.execSetGroupMode c handle fmt effSeq s
  | .readCollGroups c cursor => Sys2Proof.Machine.execReadCollGroups c cursor s
  | .readCollectives c cursor => Sys2Proof.Machine.execReadCollectives c cursor s
  | .setAccumShare c mib => Sys2Proof.Machine.execSetAccumShare c mib s
  | .collAdmit id => Sys2Proof.Machine.execCollAdmit id s
  | .collData k => Sys2Proof.Machine.execCollData k s
  | .collCredit k => Sys2Proof.Machine.execCollCredit k s
  | .collAbort k => Sys2Proof.Machine.execCollAbort k s
  | .collPeerTimeout id => Sys2Proof.Machine.execCollPeerTimeout id s
  | .chunkFinished id chunk => Sys2Proof.Machine.execChunkFinished id chunk s
  | .collComplete id => Sys2Proof.Machine.execCollComplete id s
  | .collEnd id => Sys2Proof.Machine.execCollEnd id s
  | .readPorts c cursor => Sys2Proof.Machine.execReadPorts c cursor s
  | .setPort c port p => Sys2Proof.Machine.execSetPort c port p s
  | .writeRules c edits conn udf0 udf1 empty => Sys2Proof.Machine.execWriteRules c edits conn udf0 udf1 empty s
  | .commitRules c => Sys2Proof.Machine.execCommitRules c s
  | .discardStaged c => Sys2Proof.Machine.execDiscardStaged c s
  | .readRules c cursor => Sys2Proof.Machine.execReadRules c cursor s
  | .setTxq c q p => Sys2Proof.Machine.execSetTxq c q p s
  | .setNode c kind n p => Sys2Proof.Machine.execSetNode c kind n p s
  | .setTxGrant c group classLo classN qLo qN => Sys2Proof.Machine.execSetTxGrant c group classLo classN qLo qN s
  | .readSched c cursor => Sys2Proof.Machine.execReadSched c cursor s
  | .setMeter c die n p => Sys2Proof.Machine.execSetMeter c die n p s
  | .readMeters c cursor => Sys2Proof.Machine.execReadMeters c cursor s
  | .setTimetable c port t => Sys2Proof.Machine.execSetTimetable c port t s
  | .readTimetable c cursor => Sys2Proof.Machine.execReadTimetable c cursor s
  | .setGateClock c incr step => Sys2Proof.Machine.execSetGateClock c incr step s
  | .readGateClock c cursor => Sys2Proof.Machine.execReadGateClock c cursor s
  | .setHistogram c lo n k on => Sys2Proof.Machine.execSetHistogram c lo n k on s
  | .readHistogram c cursor => Sys2Proof.Machine.execReadHistogram c cursor s
  | .setReportCard c p => Sys2Proof.Machine.execSetReportCard c p s
  | .takeReportCard c => Sys2Proof.Machine.execTakeReportCard c s
  | .readReportCard c cursor => Sys2Proof.Machine.execReadReportCard c cursor s
  | .setPunt c p unread => Sys2Proof.Machine.execSetPunt c p unread s
  | .setRefill c quarters => Sys2Proof.Machine.execSetRefill c quarters s
  | .ppInject w => Sys2Proof.Machine.execPpInject w s
  | .ethFrameRx node bytes found => Sys2Proof.Machine.execEthFrameRx node bytes found s
  | .fragEntryExpiry die k => Sys2Proof.Machine.execFragEntryExpiry die k s
  | .refill => Sys2Proof.Machine.execRefill s
  | .txFrameSelect node found => Sys2Proof.Machine.execTxFrameSelect node found s
  | .gateChange port => Sys2Proof.Machine.execGateChange port s
  | .reportCardPeriod func => Sys2Proof.Machine.execReportCardPeriod func s
  | .readStorage c cursor => Sys2Proof.Machine.execReadStorage c cursor s
  | .readStorageErrlog c cursor => Sys2Proof.Machine.execReadStorageErrlog c cursor s
  | .storageConnect c p mqes => Sys2Proof.Machine.execStorageConnect c p mqes s
  | .storageDisconnect c conn => Sys2Proof.Machine.execStorageDisconnect c conn s
  | .nsCreate c conn nsid nonatomic target => Sys2Proof.Machine.execNsCreate c conn nsid nonatomic target s
  | .nsDestroy c handle => Sys2Proof.Machine.execNsDestroy c handle s
  | .nsAttach c handle func => Sys2Proof.Machine.execNsAttach c handle func s
  | .nsDetach c handle func => Sys2Proof.Machine.execNsDetach c handle func s
  | .nsSetCache c handle base size => Sys2Proof.Machine.execNsSetCache c handle base size s
  | .storageRestart c func errSeq flush => Sys2Proof.Machine.execStorageRestart c func errSeq flush s
  | .setStoragePower c func idleUs deepest => Sys2Proof.Machine.execSetStoragePower c func idleUs deepest s
  | .setClassLimit c cls => Sys2Proof.Machine.execSetClassLimit c cls s
  | .setStorageArb c wh wm wl => Sys2Proof.Machine.execSetStorageArb c wh wm wl s
  | .setStorageMode c serial => Sys2Proof.Machine.execSetStorageMode c serial s
  | .taskGo w => Sys2Proof.Machine.execTaskGo w s
  | .storagePick conn => Sys2Proof.Machine.execStoragePick conn s
  | .targetResponse k data => Sys2Proof.Machine.execTargetResponse k data s
  | .keepAlive conn ok => Sys2Proof.Machine.execKeepAlive conn ok s
  | .reconnectAttempt conn ok peers => Sys2Proof.Machine.execReconnectAttempt conn ok peers s
  | .spsIdle func => Sys2Proof.Machine.execSpsIdle func s
  | .spsExitDone func late => Sys2Proof.Machine.execSpsExitDone func late s
  | .sbspCmd bytes => Sys2Proof.Machine.execSbspCmd bytes s
  | .xferRdy bytes => Sys2Proof.Machine.execXferRdy bytes s
  | .sbspData bytes => Sys2Proof.Machine.execSbspData bytes s
  | .sbspNak bytes => Sys2Proof.Machine.execSbspNak bytes s
  | .sbspWaitTimeout => Sys2Proof.Machine.execSbspWaitTimeout s
  | .ckptSetup c runId half0 half1 halfSize => Sys2Proof.Machine.execCkptSetup c runId half0 half1 halfSize s
  | .ckptTeardown c runId => Sys2Proof.Machine.execCkptTeardown c runId s
  | .ckptSave c addr => Sys2Proof.Machine.execCkptSave c addr s
  | .ckptRestore c addr => Sys2Proof.Machine.execCkptRestore c addr s
  | .ckptRebuild c p => Sys2Proof.Machine.execCkptRebuild c p s
  | .ckptCancel c job => Sys2Proof.Machine.execCkptCancel c job s
  | .ckptRead c cursor => Sys2Proof.Machine.execCkptRead c cursor s
  | .setStaging c base size => Sys2Proof.Machine.execSetStaging c base size s
  | .ckptSetTrust c digests => Sys2Proof.Machine.execCkptSetTrust c digests s
  | .ckptSetRate c gb => Sys2Proof.Machine.execCkptSetRate c gb s
  | .ckptArmedStart job => Sys2Proof.Machine.execCkptArmedStart job s
  | .captureDone job => Sys2Proof.Machine.execCaptureDone job s
  | .sealDone job => Sys2Proof.Machine.execSealDone job s
  | .drainDone job => Sys2Proof.Machine.execDrainDone job s
  | .parityMsg k => Sys2Proof.Machine.execParityMsg k s
  | .mirrorMsg k => Sys2Proof.Machine.execMirrorMsg k s
  | .parityAck k => Sys2Proof.Machine.execParityAck k s
  | .shardRecord k miss => Sys2Proof.Machine.execShardRecord k miss s
  | .manifestCommit job => Sys2Proof.Machine.execManifestCommit job s
  | .rebuildReq k => Sys2Proof.Machine.execRebuildReq k s
  | .rebuildData k => Sys2Proof.Machine.execRebuildData k s
  | .refuseMsg k => Sys2Proof.Machine.execRefuseMsg k s
  | .ckptJobTimeout job => Sys2Proof.Machine.execCkptJobTimeout job s
  | .ckptRestoreDone job => Sys2Proof.Machine.execCkptRestoreDone job s
  | .readSecurity c cursor => Sys2Proof.Machine.execReadSecurity c cursor s
  | .readIdentity c cursor => Sys2Proof.Machine.execReadIdentity c cursor s
  | .keyLoad c => Sys2Proof.Machine.execKeyLoad c s
  | .keyErase c slot => Sys2Proof.Machine.execKeyErase c slot s
  | .readKeys c cursor => Sys2Proof.Machine.execReadKeys c cursor s
  | .setCipherRing c base log vec => Sys2Proof.Machine.execSetCipherRing c base log vec s
  | .readCipherRing c cursor => Sys2Proof.Machine.execReadCipherRing c cursor s
  | .setKeyPolicy c limit clear => Sys2Proof.Machine.execSetKeyPolicy c limit clear s
  | .svnCommit c v => Sys2Proof.Machine.execSvnCommit c v s
  | .keyRevoke c slot => Sys2Proof.Machine.execKeyRevoke c slot s
  | .cipherCoreEnable c core => Sys2Proof.Machine.execCipherCoreEnable c core s
  | .ceRingdb w => Sys2Proof.Machine.execCeRingdb w s
  | .descriptorDone part k miss => Sys2Proof.Machine.execDescriptorDone part k miss s
  | .getVersion bytes => Sys2Proof.Machine.execGetVersion bytes s
  | .getCapabilities bytes => Sys2Proof.Machine.execGetCapabilities bytes s
  | .negotiateAlgorithms bytes => Sys2Proof.Machine.execNegotiateAlgorithms bytes s
  | .getDigests bytes => Sys2Proof.Machine.execGetDigests bytes s
  | .getCertificate bytes => Sys2Proof.Machine.execGetCertificate bytes s
  | .challenge bytes miss => Sys2Proof.Machine.execChallenge bytes miss s
  | .getMeasurements bytes miss => Sys2Proof.Machine.execGetMeasurements bytes miss s
  | .doeAbort => Sys2Proof.Machine.execDoeAbort s
  | .partCreate c => Sys2Proof.Machine.execPartCreate c s
  | .partDestroy c => Sys2Proof.Machine.execPartDestroy c s
  | .partDestroyDone part => Sys2Proof.Machine.execPartDestroyDone part s
  | .partSetExpert c grant => Sys2Proof.Machine.execPartSetExpert c grant s
  | .partSetSlots c slots => Sys2Proof.Machine.execPartSetSlots c slots s
  | .readPartitions c cursor => Sys2Proof.Machine.execReadPartitions c cursor s
  | .readFunctions c cursor => Sys2Proof.Machine.execReadFunctions c cursor s
  | .funcAssign c func => Sys2Proof.Machine.execFuncAssign c func s
  | .funcEnable c func => Sys2Proof.Machine.execFuncEnable c func s
  | .funcDisable c func => Sys2Proof.Machine.execFuncDisable c func s
  | .flr func => Sys2Proof.Machine.execFlr func s
  | .vfEnableClear => Sys2Proof.Machine.execVfEnableClear s
  | .hotReset down => Sys2Proof.Machine.execHotReset down s
  | .quiesceEnd func => Sys2Proof.Machine.execQuiesceEnd func s
  | .quiesceTimeout func => Sys2Proof.Machine.execQuiesceTimeout func s
  | .hostReadCompletion tag how bytes => Sys2Proof.Machine.execHostReadCompletion tag how bytes s
  | .completionTimeout tag => Sys2Proof.Machine.execCompletionTimeout tag s
  | .zeroLengthRead func => Sys2Proof.Machine.execZeroLengthRead func s
  | .heldAccessResume func => Sys2Proof.Machine.execHeldAccessResume func s
  | .msixUnmask func vec => Sys2Proof.Machine.execMsixUnmask func vec s
  | .readDevice c cursor => Sys2Proof.Machine.execReadDevice c cursor s
  | .readModes c cursor => Sys2Proof.Machine.execReadModes c cursor s
  | .readEvents c frm sev lo hi => Sys2Proof.Machine.execReadEvents c frm sev lo hi s
  | .readEventLimits c cursor => Sys2Proof.Machine.execReadEventLimits c cursor s
  | .readFlashLog c seq => Sys2Proof.Machine.execReadFlashLog c seq s
  | .evtFlush c => Sys2Proof.Machine.execEvtFlush c s
  | .evtSetLimit c code rate burst => Sys2Proof.Machine.execEvtSetLimit c code rate burst s
  | .readFirmware c cursor => Sys2Proof.Machine.execReadFirmware c cursor s
  | .readCrashdump c p cursor => Sys2Proof.Machine.execReadCrashdump c p cursor s
  | .fwStage c addr len => Sys2Proof.Machine.execFwStage c addr len s
  | .fwFlash c img => Sys2Proof.Machine.execFwFlash c img s
  | .fwActivate c targets => Sys2Proof.Machine.execFwActivate c targets s
  | .fwCancel c => Sys2Proof.Machine.execFwCancel c s
  | .fwDumpClear c p => Sys2Proof.Machine.execFwDumpClear c p s
  | .fwRecoveryLoad c addr len => Sys2Proof.Machine.execFwRecoveryLoad c addr len s
  | .fwSwitch p => Sys2Proof.Machine.execFwSwitch p s
  | .fwSwitchDone p => Sys2Proof.Machine.execFwSwitchDone p s
  | .rollbackWindowEnd p => Sys2Proof.Machine.execRollbackWindowEnd p s
  | .processorWatchdog p => Sys2Proof.Machine.execProcessorWatchdog p s
  | .processorRestarted p => Sys2Proof.Machine.execProcessorRestarted p s
  | .epochSwitch => Sys2Proof.Machine.execEpochSwitch s
  | .modeAckTimeout units => Sys2Proof.Machine.execModeAckTimeout units s
  | .stagedDiscard unit => Sys2Proof.Machine.execStagedDiscard unit s
  | .faultFlushEnd => Sys2Proof.Machine.execFaultFlushEnd s
  | .pwrfailAssert ns => Sys2Proof.Machine.execPwrfailAssert ns s
  | .pwrfailDeassert => Sys2Proof.Machine.execPwrfailDeassert s
  | .powerFailFlushEnd => Sys2Proof.Machine.execPowerFailFlushEnd s
  | .deviceReset c => Sys2Proof.Machine.execDeviceReset c s
  | .softResetFire => Sys2Proof.Machine.execSoftResetFire s
  | .readReset c cursor => Sys2Proof.Machine.execReadReset c cursor s
  | .blockReset c => Sys2Proof.Machine.execBlockReset c s
  | .blockIdle kind index timedOut => Sys2Proof.Machine.execBlockIdle kind index timedOut s
  | .powerOnReset => Sys2Proof.Machine.execPowerOnReset s
  | .brownOut rail => Sys2Proof.Machine.execBrownOut rail s
  | .perstN => Sys2Proof.Machine.execPerstN s
  | .sysRstN => Sys2Proof.Machine.execSysRstN s
  | .systemWatchdog => Sys2Proof.Machine.execSystemWatchdog s
  | .debugReset level => Sys2Proof.Machine.execDebugReset level s
  | .clockFailure why => Sys2Proof.Machine.execClockFailure why s
  | .optionLoadDone crcOk => Sys2Proof.Machine.execOptionLoadDone crcOk s
  | .rootPllLock => Sys2Proof.Machine.execRootPllLock s
  | .resetRelease => Sys2Proof.Machine.execResetRelease s
  | .bootImageRead => Sys2Proof.Machine.execBootImageRead s
  | .gddr7TrainingDone ch ok temp => Sys2Proof.Machine.execGddr7TrainingDone ch ok temp s
  | .endpointReady speed width flit => Sys2Proof.Machine.execEndpointReady speed width flit s
  | .readPower c cursor => Sys2Proof.Machine.execReadPower c cursor s
  | .setLatencyTol c us => Sys2Proof.Machine.execSetLatencyTol c us s
  | .setPowerLimit c watts => Sys2Proof.Machine.execSetPowerLimit c watts s
  | .setThermal c t => Sys2Proof.Machine.execSetThermal c t s
  | .setPstateLimit c p => Sys2Proof.Machine.execSetPstateLimit c p s
  | .controlPeriod => Sys2Proof.Machine.execControlPeriod s
  | .wake entering => Sys2Proof.Machine.execWake entering s
  | .powerSample mW tileMw => Sys2Proof.Machine.execPowerSample mW tileMw s
  | .thermalSample temps steps => Sys2Proof.Machine.execThermalSample temps steps s
  | .emergencyClear => Sys2Proof.Machine.execEmergencyClear s
  | .wearCharge => Sys2Proof.Machine.execWearCharge s
  | .wearRecordWrite => Sys2Proof.Machine.execWearRecordWrite s
  | .i3cRead addr => Sys2Proof.Machine.execI3cRead addr s
  | .idleFrame link fr => Sys2Proof.Machine.execIdleFrame link fr s
  | .configurationWrite func ch => Sys2Proof.Machine.execConfigurationWrite func ch s
  | .doeDiscovery index => Sys2Proof.Machine.execDoeDiscovery index s
  | .cxlMediaReady dev capacity => Sys2Proof.Machine.execCxlMediaReady dev capacity s
  | .portLinkState node up => Sys2Proof.Machine.execPortLinkState node up s

end Sys2Proof.Machine
end

