-- ==== Sys2Proof/Machine/Tick.lean ====
section
/-! DEFINITION. What one AONCLK cycle changes on its own. -/

namespace Sys2Proof.Machine

/-- At each microsecond the time in the power state and the time with a duty below 16 are counted (R518). -/
def countPower (s : State) : State :=
  if s.chip.lcount % 100 = 0 then
    let s1 := if s.pm.pstate = 0 then s else bump bkPower (s.pm.pstate - 1) 1 s
    if min s.pm.dutyFree s.pm.dutyPinned < 16 then bump bkPower 7 1 s1 else s1
  else s

/-- One AONCLK cycle: the local counter advances (R475), the gate clock by INCR (R343), and migrations copy on (R151). -/
def tick (s : State) : State :=
  countPower (copyAll { s with
    chip := { s.chip with lcount := (s.chip.lcount + 1) % 2 ^ 64 }
    pp := { s.pp with gtime := (s.pp.gtime + s.pp.incr) % 2 ^ 96 } })

end Sys2Proof.Machine
end

