-- ==== Sys2Proof/Safety.lean ====
section
/-! DEFINITION. Safe runs, and the words that claims use: which request a mailbox row serves, when its service reaches its own work, and how it is answered. -/

namespace Sys2Proof.Machine

open Sys2Proof

/-- A step is safe where it answers a next state: it neither faults nor is refused. -/
def SafeStep (s : State) : Prop := ∃ t, step s = .next t

/-- Every state reached in `n` steps makes a safe step. -/
def SafeRun : Nat → State → Prop
  | 0, _ => True
  | n + 1, s => ∃ t, step s = .next t ∧ SafeRun n t

/-! ## Mailbox rows -/

/-- Mailbox that a call names. -/
def boxOf (c : Call) (s : State) : Mailbox := mbox? (mbIx c.func c.urgent) s

/-- A request with opcode `op` waits in the mailbox that a call names, its turn has come, and the mailbox hardware does not
answer it (R455, R457, R462). -/
def Waits (c : Call) (op : Nat) (r : Req) (s : State) : Prop :=
  (boxOf c s).phase = .waiting ∧ (boxOf c s).req = some r ∧ r.opcode = op ∧
  (c.urgent = true ∨ urgentWaiting s = false) ∧ runningCount s < 64 ∧ hardwareAnswers c s = false

/-- The opcode's own work is reached: firmware's checks pass and the processors that it needs run (R455, R459, R462). -/
def Serves (c : Call) (op : Nat) (r : Req) (s : State) : Prop :=
  Waits c op r s ∧ precheck c.func r s = none ∧ c.rsvdSet = false ∧ c.wrongLen = false ∧
  s.chip.recovery = false ∧ procUp 2 s = true ∧ procUp (opProc op) s = true

/-- The state in which the work of an opcode starts: its processor is noted and the wait counted. -/
def begun (c : Call) (op : Nat) (s : State) : State := startService (mbIx c.func c.urgent) (serveProc op s) s

/-- The response of a call's command is determined. -/
def replied (c : Call) (status : Nat) (b : Body) (s : State) : State := answer (mbIx c.func c.urgent) status b s

/-- The command is answered OK without a payload. -/
def okay (c : Call) (s : State) : State := replied c Config.ok Body.empty s

/-- The command goes on in service. -/
def runsOn (c : Call) (committed : Bool) (s : State) : State :=
  modMbox (mbIx c.func c.urgent) (fun x => { x with phase := .running committed }) s

/-- One piece of a readback of `rows` (R458). -/
def paged (c : Call) (op cursor : Nat) (rows : List (List Nat)) (s : State) : State :=
  let n := Config.pieceRows s.draws + 1
  replied c Config.ok
    { rows := (rows.drop cursor).take n, next := some (if cursor + n < rows.length then cursor + n else 0) }
    { begun c op s with draws := s.draws + 1 }

/-- A readback's cursor is 0 or one that firmware returned to this mailbox, and the payload holds it (R458). -/
def CursorOk (c : Call) (op cursor : Nat) (r : Req) (s : State) : Prop :=
  (cursor = 0 ∨ (boxOf c s).cursors.contains (op, cursor) = true) ∧ (8 ≤ r.length ∨ (r.length = 0 ∧ cursor = 0))

/-- The cores of the benches on which slots stand run (R548). -/
def benchesUp (part : Nat) (slots : List Nat) (s : State) : Prop :=
  ∀ b ∈ workBenches part slots s, benchDown b s = false ∧ (proc? (benchProc b) s).pstate ≠ .switching

/-! ## Registers -/

/-- A function's write to BAR0 offset `off` reaches offset `o` of block `blk` in the normal view: no reset is asserted and the
BAR decodes (R41, R488, R528). -/
def HostReg (f off blk o : Nat) (s : State) : Prop :=
  s.chip.asserted = none ∧ decodes f s = true ∧ off < bar0Size f s ∧ blockAt f off s = some blk ∧ off % 65536 = o

/-- A host's write to BAR0. -/
def hostPut (f off size : Nat) (v : DWord) : RegWrite :=
  { agent := .host f, bar := 0, offset := off, size := size, value := v, stores := [] }

/-- A host's doorbell write: TAIL, INDEX or COUNT in the upper half, the queue number in the lower one (R242). -/
def bell (f lane idx n : Nat) : DoorbellWrite :=
  { func := f, lane := lane, size := 8, value := BitVec.ofNat 64 (idx * 2 ^ 32 + n), stores := [] }

/-- A function that may ring doorbells: no reset is asserted, its BAR decodes, it is ENABLED. -/
def MayRing (f : Nat) (s : State) : Prop := s.chip.asserted = none ∧ decodes f s = true ∧ mayAct f s = true

/-- The call and the opcode of a mailbox row; `none` for every other command. -/
def opcodeOf : Instr → Option (Call × Nat)
  | .loadImage c _ _ => some (c, 0x5010)
  | .unloadImage c _ => some (c, 0x5011)
  | .reloadRegion c _ _ => some (c, 0x5012)
  | .bindStream c => some (c, 0x5020)
  | .unbindStream c _ _ _ => some (c, 0x5021)
  | .startJob c _ => some (c, 0x5030)
  | .cancelJob c _ => some (c, 0x5031)
  | .readBenches c _ => some (c, 0x5040)
  | .readBindings c _ => some (c, 0x5041)
  | .readJobs c _ => some (c, 0x5042)
  | .readGroups c _ => some (c, 0x5043)
  | .setQuantum c _ => some (c, 0x5850)
  | .pinGroup c => some (c, 0x5851)
  | .unpinGroup c => some (c, 0x5851)
  | .setPortWait c _ => some (c, 0x5852)
  | .readMemory c _ => some (c, 0x1100)
  | .readMemErrors c _ => some (c, 0x1101)
  | .migrateStart c _ _ _ => some (c, 0x1110)
  | .migrateRelease c _ => some (c, 0x1111)
  | .migrateAbort c _ => some (c, 0x1112)
  | .readMigrations c _ => some (c, 0x1113)
  | .setAllotment c _ => some (c, 0x1120)
  | .cxlAdd c _ => some (c, 0x1121)
  | .cxlRemove c _ => some (c, 0x1122)
  | .quarantineClear c _ => some (c, 0x1123)
  | .retrainChannel c _ => some (c, 0x1850)
  | .setScrub c _ _ => some (c, 0x1851)
  | .setTranslation c _ => some (c, 0x1200)
  | .readTranslation c _ => some (c, 0x1201)
  | .invalidate c _ => some (c, 0x1210)
  | .readFaults c _ => some (c, 0x1211)
  | .readLinks c _ => some (c, 0x3000)
  | .readGangs c _ => some (c, 0x3001)
  | .readRollcall c _ => some (c, 0x3002)
  | .readRoutes c _ => some (c, 0x3003)
  | .setGang c _ _ _ _ => some (c, 0x3010)
  | .grantGang c _ => some (c, 0x3011)
  | .gangWithdraw c _ => some (c, 0x3011)
  | .setVisTimeout c _ _ => some (c, 0x3012)
  | .rollcallRun c => some (c, 0x3020)
  | .setRollcall c _ => some (c, 0x3021)
  | .setRedundancy c _ => some (c, 0x3022)
  | .recalLink c _ _ => some (c, 0x3850)
  | .setRoute c _ _ => some (c, 0x3851)
  | .setLinkThresh c _ _ => some (c, 0x3852)
  | .createQp c => some (c, 0x4000)
  | .modifyQp c _ _ _ => some (c, 0x4001)
  | .destroyQp c _ => some (c, 0x4002)
  | .readQp c _ => some (c, 0x4003)
  | .createCq c _ _ _ _ _ => some (c, 0x4010)
  | .destroyCq c _ => some (c, 0x4011)
  | .readCq c _ => some (c, 0x4012)
  | .issuePass c _ => some (c, 0x4020)
  | .revokePass c _ => some (c, 0x4021)
  | .readPasses c _ => some (c, 0x4022)
  | .tallySet c _ _ => some (c, 0x4030)
  | .tallyRead c _ _ _ => some (c, 0x4031)
  | .setQueueGrant c _ _ _ _ => some (c, 0x4850)
  | .fencePeer c _ => some (c, 0x4100)
  | .unfencePeer c _ => some (c, 0x4101)
  | .readFences c _ => some (c, 0x4102)
  | .readPaths c _ => some (c, 0x4103)
  | .readCc c _ => some (c, 0x4104)
  | .setCc c _ => some (c, 0x4851)
  | .setPtPort c _ => some (c, 0x4852)
  | .createGroup c => some (c, 0x4200)
  | .destroyGroup c _ => some (c, 0x4201)
  | .setGroupMode c _ _ _ => some (c, 0x4202)
  | .readCollGroups c _ => some (c, 0x4203)
  | .readCollectives c _ => some (c, 0x4204)
  | .setAccumShare c _ => some (c, 0x4860)
  | .readPorts c _ => some (c, 0x8000)
  | .setPort c _ _ => some (c, 0x8001)
  | .writeRules c _ _ _ _ _ => some (c, 0x8010)
  | .commitRules c => some (c, 0x8011)
  | .discardStaged c => some (c, 0x8012)
  | .readRules c _ => some (c, 0x8013)
  | .setTxq c _ _ => some (c, 0x8020)
  | .setNode c _ _ _ => some (c, 0x8021)
  | .setTxGrant c _ _ _ _ _ => some (c, 0x8022)
  | .readSched c _ => some (c, 0x8023)
  | .setMeter c _ _ _ => some (c, 0x8030)
  | .readMeters c _ => some (c, 0x8031)
  | .setTimetable c _ _ => some (c, 0x8040)
  | .readTimetable c _ => some (c, 0x8041)
  | .setGateClock c _ _ => some (c, 0x8042)
  | .readGateClock c _ => some (c, 0x8043)
  | .setHistogram c _ _ _ _ => some (c, 0x8050)
  | .readHistogram c _ => some (c, 0x8051)
  | .setReportCard c _ => some (c, 0x8052)
  | .takeReportCard c => some (c, 0x8053)
  | .readReportCard c _ => some (c, 0x8054)
  | .setPunt c _ _ => some (c, 0x8060)
  | .setRefill c _ => some (c, 0x8850)
  | .readStorage c _ => some (c, 0x6000)
  | .readStorageErrlog c _ => some (c, 0x6001)
  | .storageConnect c _ _ => some (c, 0x6010)
  | .storageDisconnect c _ => some (c, 0x6011)
  | .nsCreate c _ _ _ _ => some (c, 0x6020)
  | .nsDestroy c _ => some (c, 0x6021)
  | .nsAttach c _ _ => some (c, 0x6022)
  | .nsDetach c _ _ => some (c, 0x6022)
  | .nsSetCache c _ _ _ => some (c, 0x6023)
  | .storageRestart c _ _ _ => some (c, 0x6030)
  | .setStoragePower c _ _ _ => some (c, 0x6031)
  | .setClassLimit c _ => some (c, 0x6032)
  | .setStorageArb c _ _ _ => some (c, 0x6850)
  | .setStorageMode c _ => some (c, 0x6851)
  | .ckptSetup c _ _ _ _ => some (c, 0x7000)
  | .ckptTeardown c _ => some (c, 0x7001)
  | .ckptSave c _ => some (c, 0x7010)
  | .ckptRestore c _ => some (c, 0x7011)
  | .ckptRebuild c _ => some (c, 0x7012)
  | .ckptCancel c _ => some (c, 0x7013)
  | .ckptRead c _ => some (c, 0x7020)
  | .setStaging c _ _ => some (c, 0x7021)
  | .ckptSetTrust c _ => some (c, 0x7022)
  | .ckptSetRate c _ => some (c, 0x7850)
  | .readSecurity c _ => some (c, 0x9000)
  | .readIdentity c _ => some (c, 0x9001)
  | .keyLoad c => some (c, 0x9010)
  | .keyErase c _ => some (c, 0x9011)
  | .readKeys c _ => some (c, 0x9012)
  | .setCipherRing c _ _ _ => some (c, 0x9020)
  | .readCipherRing c _ => some (c, 0x9021)
  | .setKeyPolicy c _ _ => some (c, 0x9030)
  | .svnCommit c _ => some (c, 0x9031)
  | .keyRevoke c _ => some (c, 0x9850)
  | .cipherCoreEnable c _ => some (c, 0x9851)
  | .partCreate c => some (c, 0x2000)
  | .partDestroy c => some (c, 0x2001)
  | .partSetExpert c _ => some (c, 0x2002)
  | .partSetSlots c _ => some (c, 0x2003)
  | .readPartitions c _ => some (c, 0x2010)
  | .readFunctions c _ => some (c, 0x2011)
  | .funcAssign c _ => some (c, 0x2020)
  | .funcEnable c _ => some (c, 0x2021)
  | .funcDisable c _ => some (c, 0x2022)
  | .readDevice c _ => some (c, 0x1000)
  | .readModes c _ => some (c, 0x1001)
  | .readEvents c _ _ _ _ => some (c, 0xB000)
  | .readEventLimits c _ => some (c, 0xB001)
  | .readFlashLog c _ => some (c, 0xB002)
  | .evtFlush c => some (c, 0xB010)
  | .evtSetLimit c _ _ _ => some (c, 0xB850)
  | .readFirmware c _ => some (c, 0xC000)
  | .readCrashdump c _ _ => some (c, 0xC001)
  | .fwStage c _ _ => some (c, 0xC010)
  | .fwFlash c _ => some (c, 0xC011)
  | .fwActivate c _ => some (c, 0xC012)
  | .fwCancel c => some (c, 0xC013)
  | .fwDumpClear c _ => some (c, 0xC014)
  | .fwRecoveryLoad c _ _ => some (c, 0xC015)
  | .deviceReset c => some (c, 0x1020)
  | .readReset c _ => some (c, 0x1021)
  | .blockReset c => some (c, 0x1870)
  | .readPower c _ => some (c, 0xA000)
  | .setLatencyTol c _ => some (c, 0xA001)
  | .setPowerLimit c _ => some (c, 0xA010)
  | .setThermal c _ => some (c, 0xA850)
  | .setPstateLimit c _ => some (c, 0xA851)
  | _ => none

/-- A command answers the state `t`, or `t` with what follows at once from it. -/
def Comes (i : Instr) (s t : State) : Prop := exec i s = .next t ∨ exec i s = .next (settle t)

end Sys2Proof.Machine
end

