-- ==== Sys2Proof/Certificates/Slice0/Obligations.lean ====
section
/-! DEFINITION. The statements for the provers. -/

open Sys2Proof Sys2Proof.Machine

/-- Writes that reach the shared registers of a block (R7, R523, R525, R527): DEV_SCRATCH takes the value written; SNAPCTL copies the counters;
ERRSTAT is cleared by its VALID bit; a read of a location that holds no register, or of a wrong size, ends in Completer Abort. -/
def Obligations.RegisterAccessesComplete : Prop :=
  (∀ (f off : Nat) (v : DWord) (s : State), HostReg f off (bkDevice f) 0x28 s → f < 256 →
    exec (.registerWrite (hostPut f off 8 v)) s =
      .next (settle { s with regs := { s.regs with scratch := tset s.regs.scratch f v } })) ∧
  (∀ (f off blk : Nat) (s : State), HostReg f off blk 0x3F00 s → blk ≠ bkRollCall →
    exec (.snap (hostPut f off 4 1)) s = .next (snapBlock blk s)) ∧
  (∀ (blk c : Nat) (s : State), c < counterCount blk →
    tgetD (snapBlock blk s).regs.snaps (blk * 64 + c) 0 = counter blk c s) ∧
  (∀ (f off blk : Nat) (s : State), HostReg f off blk 0x3F08 s →
    exec (.errstatClear (hostPut f off 4 0x80000000)) s =
      .next { s with regs := { s.regs with
        err := tset s.regs.err blk { valid := false, ovf := false, cause := 0, offset := 0, door := false } } }) ∧
  (∀ (f off size : Nat) (s : State), s.chip.asserted = none → decodes f s = true → unlocated f 0 off s = true →
    hostRead f 0 off size s = none →
    exec (.unimplementedRead f 0 off size) s = .next (emit (.completerAbort f) (recBadAddr f off false false s))) ∧
  (∀ (f off size : Nat) (s : State), s.chip.asserted = none → decodes f s = true → unlocated f 0 off s = false →
    sizeOk off size = false →
    exec (.badSizeRead f 0 off size) s = .next (emit (.completerAbort f) s))

/-- Writes of the partition blocks' registers (R188, R189, R263): TR_FQHEAD releases records and those that waited are written, TR_RESPOND retries or
fails the fault of its tag, QE_TCVALUE replaces and QE_TCADD adds to the selected tally counter. -/
def Obligations.PartitionRegistersComplete : Prop :=
  (∀ (f off p v : Nat) (s : State), HostReg f off (bkTrans p) 0 s → p < 64 → (part? p s).isSome = true → v < 4096 →
    (v + 4096 - (trans? p s).head) % 4096 ≤ (trans? p s).unreleased →
    exec (.trFqhead (hostPut f off 4 (BitVec.ofNat 64 v))) s =
      .next (drainFaults p (waitingCount p s) (modTrans p (fun t => { t with
        head := v, unreleased := t.unreleased - (v + 4096 - (trans? p s).head) % 4096 }) s))) ∧
  (∀ (f off p tag : Nat) (k : FaultRec) (s : State), HostReg f off (bkTrans p) 0x10 s → p < 64 → tag < 65536 →
    s.xl.faults.find? (fun f => f.part == p && f.tag == tag && f.written) = some k → backPressure p s = false →
    exec (.retry (hostPut f off 4 (BitVec.ofNat 64 (tag + 65536)))) s =
      .next (settle (runUnit k.xfer [] (modXfer k.xfer (fun x => { x with st := .ready, got := [] }) (dropFault p tag s))))) ∧
  (∀ (f off p tag : Nat) (k : FaultRec) (s : State), HostReg f off (bkTrans p) 0x10 s → p < 64 → tag < 65536 →
    s.xl.faults.find? (fun f => f.part == p && f.tag == tag && f.written) = some k → backPressure p s = false →
    exec (.fail (hostPut f off 4 (BitVec.ofNat 64 (tag + 131072)))) s =
      .next (settle (failUnit k.xfer Config.ccProtection (dropFault p tag s)))) ∧
  (∀ (f off p : Nat) (v : DWord) (s : State), HostReg f off (bkQueue p) 8 s → p < 64 → tallyOk p (tgetD s.qe.tcsel p 0) s = true →
    exec (.qeTcvalue (hostPut f off 8 v)) s = .next (tallyPut p (tgetD s.qe.tcsel p 0) v s)) ∧
  (∀ (f off p : Nat) (v : DWord) (s : State), HostReg f off (bkQueue p) 0x10 s → p < 64 → tallyOk p (tgetD s.qe.tcsel p 0) s = true →
    exec (.qeTcadd (hostPut f off 8 v)) s =
      .next (tallyPut p (tgetD s.qe.tcsel p 0) (tallyGet p (tgetD s.qe.tcsel p 0) s + v) s)) ∧
  (∀ (f off p v : Nat) (c : CipherRing) (s : State), HostReg f off (bkCipher p) 0 s → p < 64 → mayAct f s = true → v < 2 ^ 32 →
    cring? p s = some c → diff32 v c.di ≤ 2 ^ c.log → aheadOf v c.db = true →
    exec (.ceRingdb (hostPut f off 4 (BitVec.ofNat 64 v))) s =
      .next (settle (cipherKick p (modRing p (fun r => { r with db := v, status := 0 }) s)))) ∧
  (∀ (off v : Nat) (s : State), HostReg 0 off (bkPipe 0) 0x18 s → mayAct 0 s = true → v < 2 ^ 32 → s.pp.punt.isSome = true →
    aheadOf v s.pp.injDb = true → s.pp.injLoop = .idle →
    exec (.ppInject (hostPut 0 off 4 (BitVec.ofNat 64 v))) s =
      .next (settle (injectKick (modPipe (fun p => { p with injDb := v, injLoop := .idle }) s)))) ∧
  (∀ (f k : Nat) (s : State), s.chip.asserted = none → decodes f s = true → mayAct f s = true → k < 256 →
    (slotRegs (taskKey f k) s).state ≠ 1 → (slotRegs (taskKey f k) s).state ≠ 2 → s.sb.serialMode = false → disabled 2 s = false →
    exec (.taskGo { agent := .host f, bar := 2, offset := 0x10000 + 64 * k + 60, size := 4, value := 1, stores := [] }) s =
      .next (slotGo f k s))

/-- Doorbells (R242 to R245, R249) and the sleeping read loops (R244): a hint ahead of the earlier ones is noted and the entries up to it
are read; CQ_DB releases entries, with ARM it also arms the CQ. -/
def Obligations.DoorbellsComplete : Prop :=
  (∀ (f lane idx n : Nat) (q : Qp) (s : State), MayRing f s → lane < 16 → n < 2 ^ 20 → idx < 2 ^ 32 → qp? n s = some q →
    q.part = funcPart f s → q.qstate ≠ .reset → diff32 idx q.sqComp ≤ 2 ^ q.sqLog → aheadOf idx q.sqDb = true →
    exec (.sqDb (bell f lane idx n)) s =
      .next (settle (sqKick n (modQp n (fun q => { q with sqDb := idx, sqStat := 0 }) (bump (bkQueue q.part) 0 1 s))))) ∧
  (∀ (f lane idx n : Nat) (q : Qp) (s : State), MayRing f s → lane < 16 → n < 2 ^ 20 → idx < 2 ^ 32 → qp? n s = some q →
    q.part = funcPart f s → q.qstate ≠ .reset → diff32 idx q.rqCi ≤ 2 ^ q.rqLog → aheadOf idx q.rqDb = true →
    exec (.rqDb (bell f lane idx n)) s =
      .next (settle (rqKick n (modQp n (fun q => { q with rqDb := idx, rqStat := 0 }) (bump (bkQueue q.part) 0 1 s))))) ∧
  (∀ (f lane idx n : Nat) (q : Cq) (s : State), MayRing f s → lane < 16 → n < 2 ^ 20 → idx < 2 ^ 32 → cq? n s = some q →
    q.part = funcPart f s → (idx = q.tail ∨ before32 idx q.tail = true) → aheadOf idx q.released = true → q.held = [] →
    exec (.cqDb (bell f lane idx n)) s =
      .next (settle (drainCq n 1 (modCq n (fun c => { c with released := idx }) (bump (bkQueue q.part) 0 1 s))))) ∧
  (∀ (f lane idx n : Nat) (q : Cq) (s : State), MayRing f s → lane < 16 → n < 2 ^ 20 → idx < 2 ^ 32 → cq? n s = some q →
    q.part = funcPart f s → (idx = q.tail ∨ before32 idx q.tail = true) → aheadOf idx q.released = true → q.held = [] →
    let u := modCq n (fun c => { c with released := idx, arm := some idx, timing := false }) (bump (bkQueue q.part) 0 1 s)
    exec (.cqArm (bell f lane idx (n + 2 ^ 31))) s =
      .next (settle (drainCq n 1 (if (cq? n u).any (fun c => decide (cqBeyond c > 0)) then cqFire n u else u)))) ∧
  (∀ (n k : Nat) (q : Qp) (s : State), qp? n s = some q → q.sqLoop = .sleeping k →
    exec (.doorbellRetry 0 n) s = .next (settle (sqTry n k (modQp n (fun q => { q with sqLoop := .idle }) s)))) ∧
  (∀ (n k : Nat) (q : Qp) (s : State), qp? n s = some q → q.rqLoop = .sleeping k →
    exec (.doorbellRetry 1 n) s = .next (settle (rqTry n k (modQp n (fun q => { q with rqLoop := .idle }) s)))) ∧
  (∀ (n k : Nat) (q : Qp) (bs : List Byte) (s : State), qp? n s = some q → phaseOk (bs.getD 63 0) q.sqCi q.sqLog = false →
    (k < 8 → sqGot n k q bs s = modQp n (fun q => { q with sqLoop := .sleeping (k + 1) }) s) ∧
    (8 ≤ k → sqGot n k q bs s = bump (bkQueue q.part) 2 1
      (modQp n (fun q => { q with sqStat := Config.doorbellAhead }) (modQp n (fun q => { q with sqLoop := .idle }) s))))

/-- The mailbox handshake (R456): GO copies the request and makes the mailbox BUSY; once the response area holds the whole response, STATE is DONE,
and only then the vector is sent. -/
def Obligations.MailboxHandshake : Prop :=
  (∀ (f off m : Nat) (s : State), HostReg f off (bkMailbox m) 0x2000 s → m < 512 → (mbox? m s).state ≠ 1 →
    ∃ t, exec (.mailboxGo (hostPut f off 4 1)) s = .next t ∧
      (mbox? m t).state = 1 ∧ (mbox? m t).phase = .waiting ∧ (mbox? m t).req = some (Req.parse (rdMem (spMbox m) 0 4096 s)) ∧
      (mbox? m t).tag = (Req.parse (rdMem (spMbox m) 0 4096 s)).tag ∧ (mbox? m t).goAt = s.chip.lcount ∧
      counter (bkMailbox m) 0 t = counter (bkMailbox m) 0 s + 1 ∧ t.mem = s.mem ∧ t.out = s.out) ∧
  (∀ (mb : MbId) (r : Resp) (s : State), (mbox? (mbIx mb.func mb.urgent) s).phase = .answered →
    (mbox? (mbIx mb.func mb.urgent) s).resp = some r → r.status = Config.ok →
    ∃ t, exec (.mailboxDone mb) s = .next t ∧
      (mbox? (mbIx mb.func mb.urgent) t).state = 2 ∧ (mbox? (mbIx mb.func mb.urgent) t).phase = .idle ∧
      t.mem = mwrN s.mem (mkey (spMbox (mbIx mb.func mb.urgent)) 0x1000) r.bytes ∧
      ((mbox? (mbIx mb.func mb.urgent) s).irq = false → t.out = s.out))

/-- Bench slots and jobs (R91 to R98): a loaded image makes its slot LOADING and its regions are fetched; UNLOAD_IMAGE empties the slot;
a reload is staged for the job boundary of a slot that is in use; START_JOB answers the job's identifier and the job starts once it can;
CANCEL_JOB ends it with 0x07. -/
def Obligations.ImagesAndJobsComplete : Prop :=
  (∀ (c : Call) (slot : Nat) (regions : List Region) (r : Req) (st : SlotSt) (s : State), Serves c 0x5010 r s →
    slotSt? r.part slot s = some st → regionsBad regions = false → st.wstate = .empty → benchesUp r.part [slot] s →
    exec (.loadImage c slot regions) s = .next (settle (runsOn c true (startLoads r.part slot (modSlot r.part slot (fun st => { st with
      wstate := .loading, reload := false, regions := [], staged := [], loads := regions.map newItem,
      loadMb := some (callRef c s) }) (begun c 0x5010 s))))) ) ∧
  (∀ (c : Call) (slot : Nat) (r : Req) (st : SlotSt) (s : State), Serves c 0x5011 r s →
    slotSt? r.part slot s = some st → st.wstate = .empty ∨ st.wstate = .resident ∨ st.wstate = .saved → st.staged = [] →
    slotBusy r.part slot s = false →
    benchesUp r.part [slot] s →
    exec (.unloadImage c slot) s = .next (okay c (modSlot r.part slot (fun st => { st with
      wstate := .empty, regions := [], staged := [] }) (begun c 0x5011 s)))) ∧
  (∀ (c : Call) (slot : Nat) (regions : List Region) (r : Req) (st : SlotSt) (s : State), Serves c 0x5012 r s →
    slotSt? r.part slot s = some st → regionsBad regions = false → regions ≠ [] → (∀ g ∈ regions, g.kind = .weights) →
    st.wstate = .resident → st.staged = [] → slotBusy r.part slot s = true → benchesUp r.part [slot] s →
    exec (.reloadRegion c slot regions) s = .next (settle (runsOn c true (modSlot r.part slot (fun st => { st with
      staged := regions, loadMb := some (callRef c s),
      wstate := if st.wstate = .resident then .reloadPending else st.wstate }) (begun c 0x5012 s))))) ∧
  (∀ (c : Call) (q : JobReq) (r : Req) (s : State), Serves c 0x5030 r s → jobBad r.part q s = false →
    (q.slots.filterMap (fun e => slotSt? r.part e.slot s)).any (fun x => x.wstate == .empty || (x.wstate == .loading && !x.reload)) = false →
    (q.slots.filterMap (fun e => slotSt? r.part e.slot s)).any (fun x => x.wstate == .reloadPending || x.wstate == .loading) = true ∨
      tilesTaken r.part q s = false →
    benchesUp r.part (q.slots.map JobSlot.slot) s →
    exec (.startJob c q) s =
      .next (settle (replied c Config.ok (Body.nums [freshKey s.ti.jobs]) (launch (freshKey s.ti.jobs) (setJob (freshKey s.ti.jobs)
        { part := r.part, func := c.func, req := q, jstate := if q.arm.isSome then .armed else .held, ran := false }
        (begun c 0x5030 s)))))) ∧
  (∀ (c : Call) (job : Nat) (x : Job) (r : Req) (s : State), Serves c 0x5031 r s → job? job s = some x → x.part = r.part →
    x.jstate = .armed ∨ x.jstate = .held ∨ x.jstate = .running → benchesUp r.part (x.req.slots.map JobSlot.slot) s →
    exec (.cancelJob c job) s = .next (okay c (modJobTiles x stopTile
      (setJob job { x with jstate := .ending Config.ccFlushed 1 } (begun c 0x5031 s))))) ∧
  (∀ (part slot : Nat) (st : SlotSt) (m : MbRef) (s : State), slotSt? part slot s = some st → st.wstate = .loading →
    (∀ l ∈ st.loads, l.ended = some 0) → st.loadMb = some m →
    s.xl.xfers.any (fun e => e.2.owner.kind == .image && e.2.owner.a == part * 16 + slot) = false →
    exec (.loadDone part slot) s =
      let u := finish m Config.ok Body.empty (modSlot part slot (fun x => { x with
        wstate := .resident, regions := loadedRegions st, loads := [], reload := false, loadMb := none }) s)
      .next (settle ((tkeys u.ti.jobs).foldl (fun u j => resumeJbnd j u) (kickJobs u)))) ∧
  (∀ (job h v : Nat) (x : Job) (s : State), job? job s = some x → x.jstate = .armed → x.req.arm = some (h, v) →
    tallyPassed x.part h v s = true →
    exec (.armedJobStart job) s = .next (settle (launch job (setJob job { x with jstate := .held } s)))) ∧
  (∀ (job code opspec : Nat) (x : Job) (s : State), job? job s = some x → x.jstate = .ending code opspec → jobDrained x s = true →
    exec (.jobEnd job) s = .next (settle (finishJob job x code opspec s))) ∧
  (∀ (job : Nat) (x : Job) (g : Group) (s : State), job? job s = some x → x.jstate = .running → x.req.limitUs ≠ 0 →
    group? x.part s = some g → g.phase = .resident →
    exec (.jobTimeLimit job) s =
      .next (modJobTiles x stopTile (setJob job { x with jstate := .ending Config.ccFlushed 2 } s)))

/-- Streams and tile DMA (R85, R90, R130, R136): BIND_STREAM enters a binding whose stream runs at once, UNBIND_STREAM waits for its data to
drain, a DMA stream ends after LENGTH bytes, a descriptor that has landed frees its slot and counts. -/
def Obligations.StreamsComplete : Prop :=
  (∀ (c : Call) (r : Req) (s : State), Serves c 0x5020 r s → bindingBad (bindingOf r.part r.payload) s = false →
    bind? (bindKey r.part (bindingOf r.part r.payload).slot (bindingOf r.part r.payload).tile (bindingOf r.part r.payload).fifo) s = none →
    (bindingOf r.part r.payload).kind ≠ 1 → (bindingOf r.part r.payload).seed ≠ 0 →
    benchesUp r.part [(bindingOf r.part r.payload).slot] s →
    exec (.bindStream c) s =
      let b := bindingOf r.part r.payload
      let k := bindKey r.part b.slot b.tile b.fifo
      let u := begun c 0x5020 s
      .next (settle (okay c (pumpBind k { u with ti := { u.ti with binds := tset u.ti.binds k { b with gen := b.seed } } })))) ∧
  (∀ (c : Call) (slot tile fifo : Nat) (b : Binding) (r : Req) (s : State), Serves c 0x5021 r s → (slotSt? r.part slot s).isSome = true →
    tile < 8 → fifo < 6 → bind? (bindKey r.part slot tile fifo) s = some b → b.unbindMb = none → benchesUp r.part [slot] s →
    exec (.unbindStream c slot tile fifo) s = .next (settle (runsOn c true (modBind (bindKey r.part slot tile fifo)
      (fun b => { b with unbindMb := some (callRef c s) }) (begun c 0x5021 s))))) ∧
  (∀ (tile fifo k : Nat) (b : Binding) (s : State), bindKeyAt tile fifo s = some k → bind? k s = some b → b.kind = 3 ∨ b.kind = 4 →
    b.length ≤ b.moved → b.xfer = none →
    exec (.dmaStreamEnd tile fifo) s = .next (modBind k (fun b => { b with ended := true }) s)) ∧
  (∀ (tile part slot rel n : Nat) (d : TileDma) (s : State), tget (tile? tile s).dma n = some d → d.landed = some 0 → d.tally ≠ 0xFFFF →
    tilePlace tile s = some (part, slot, rel) →
    exec (.tileDmaComplete tile n) s =
      .next (settle (startDma tile 8 (tallyAdd part d.tally 1 (modTile tile (fun x => { x with dma := tdel x.dma n }) s))))) ∧
  (∀ (tile : Nat) (ecc : List EccHit) (q e : MSeq) (p : Nat × Nat × Nat) (s : State), (tile? tile s).mseq = some q → tilePlace tile s = some p →
    (tile? tile (mRun tile ecc (q.steps + 1) s)).mseq = some e → e.steps = 0 →
    exec (.mSequenceEnd tile ecc) s =
      .next (settle (modTile tile (fun x => { x with mseq := none, mview := [] }) (mRun tile ecc (q.steps + 1) s)))) ∧
  (∀ (tile : Nat) (ecc : List EccHit) (q : MSeq) (p : Nat × Nat × Nat) (s : State), (tile? tile s).mseq = some q → tilePlace tile s = some p →
    (tile? tile (mRun tile ecc (q.steps + 1) s)).mseq = none →
    exec (.mSequenceEnd tile ecc) s = .next (settle (mRun tile ecc (q.steps + 1) s)))

/-- Groups and their settings (R76, R100 to R103): the quantum, pins, a bench's port wait; a slice that ends saves the group while another
waits, and a restored group runs again. -/
def Obligations.GroupsComplete : Prop :=
  (∀ (c : Call) (us : Nat) (r : Req) (s : State), Serves c 0x5850 r s → 100 ≤ us → us ≤ 100000 →
    exec (.setQuantum c us) s =
      .next (okay c { begun c 0x5850 s with ti := { s.ti with quantum := us } })) ∧
  (∀ (c : Call) (g : Group) (r : Req) (s : State), Serves c 0x5851 r s → group? r.part s = some g → g.pinned = false → g.phase = .resident →
    pinFits r.part s = true →
    exec (.pinGroup c) s = .next (okay c (releaseAreas (setGroup r.part { g with pinned := true } (begun c 0x5851 s))))) ∧
  (∀ (c : Call) (g : Group) (r : Req) (s : State), Serves c 0x5851 r s → group? r.part s = some g → g.pinned = true → slotsGranted s ≤ 16 →
    exec (.unpinGroup c) s =
      .next (okay c (setGroup r.part { g with pinned := false, quantumAt := s.chip.lcount } (begun c 0x5851 s)))) ∧
  (∀ (c : Call) (n : Nat) (g : Group) (r : Req) (s : State), Serves c 0x5852 r s → group? r.part s = some g → 8 ≤ n → n ≤ 256 →
    benchesUp r.part (tkeys g.slots) s →
    exec (.setPortWait c n) s = .next (okay c (setGroup r.part { g with portWait := n } (begun c 0x5852 s)))) ∧
  (∀ (part : Nat) (g : Group) (s : State), group? part s = some g → g.phase = .resident → g.pinned = false →
    s.ti.groups.any (fun e => e.2.phase == .waiting && !e.2.slots.isEmpty) = true → (∀ b ∈ benchesOf g, benchDown b s = false) →
    exec (.quantumExpiry part) s = .next (settle (trySave part (setGroup part { g with phase := .saving } s)))) ∧
  (∀ (part : Nat) (g : Group) (s : State), group? part s = some g → g.phase = .restoring → areasHeld s = false →
    exec (.groupRestoreDone part) s = .next (settle (releaseAreas (restoreGroup part g s))))

/-- Readbacks of benches, bindings, jobs and groups (R43, R458): pieces of rows for what the caller sees. -/
def Obligations.BenchReadbacksComplete : Prop :=
  (∀ (c : Call) (cursor : Nat) (r : Req) (s : State), Serves c 0x5040 r s → CursorOk c 0x5040 cursor r s →
    ∃ rows, exec (.readBenches c cursor) s = .next (paged c 0x5040 cursor rows s) ∧
      (c.func = 0 → rows.length = 16 + ((s.ti.groups.map (fun e => e.2.slots.length)).sum))) ∧
  (∀ (c : Call) (cursor : Nat) (r : Req) (s : State), Serves c 0x5041 r s → CursorOk c 0x5041 cursor r s →
    ∃ rows, exec (.readBindings c cursor) s = .next (paged c 0x5041 cursor rows s) ∧
      rows.length = s.ti.binds.countP (fun e => e.2.part == r.part)) ∧
  (∀ (c : Call) (cursor : Nat) (r : Req) (s : State), Serves c 0x5042 r s → CursorOk c 0x5042 cursor r s →
    ∃ rows, exec (.readJobs c cursor) s = .next (paged c 0x5042 cursor rows s) ∧
      rows.length = s.ti.jobs.countP (fun e => e.2.part == r.part)) ∧
  (∀ (c : Call) (cursor : Nat) (r : Req) (s : State), Serves c 0x5043 r s → CursorOk c 0x5043 cursor r s →
    ∃ rows, exec (.readGroups c cursor) s = .next (paged c 0x5043 cursor rows s) ∧
      rows.length = 1 + s.ti.groups.countP (fun e => sees c e.1 s))

/-- Allotments and migrations (R149 to R153): a partition's ranges are replaced whole; MIGRATE_START answers an identifier and copies, a finished
copy redirects accesses, a copying one may be aborted and any other released. -/
def Obligations.TiersComplete : Prop :=
  (∀ (c : Call) (ranges : List TierRange) (r : Req) (s : State), Serves c 0x1120 r s → ranges.length ≤ 64 →
    (∀ a ∈ ranges, allotOk r.part s a = true) →
    exec (.setAllotment c ranges) s = .next (okay c (modPart r.part (fun p => { p with allot := ranges }) (begun c 0x1120 s)))) ∧
  (∀ (c : Call) (src dst : TierRange) (rate : Nat) (r : Req) (s : State), Serves c 0x1110 r s → src.size = dst.size → src.size ≠ 0 →
    src.size % 65536 = 0 → src.size ≤ 2 ^ 38 → migMay c r.part src s = true → migMay c r.part dst s = true →
    (src.tier == dst.tier && overlap src.base src.size dst.base dst.size) = false →
    s.tiers.migs.any (fun e => migTouches src.tier src.base src.size e.2 || migTouches dst.tier dst.base dst.size e.2) = false →
    s.tiers.migs.countP (fun e => e.2.mstate != .aborted) < 64 →
    exec (.migrateStart c src dst rate) s =
      .next (replied c Config.ok (Body.nums [freshKey s.tiers.migs]) (wakeFor (tierTgt src.tier) (wakeFor (tierTgt dst.tier)
        { begun c 0x1110 s with tiers := { s.tiers with
          migs := tset s.tiers.migs (freshKey s.tiers.migs)
            { part := r.part, src := src, dst := dst, rate := rate, mstate := .copying, copied := 0, bad := 0 } } })))) ∧
  (∀ (c : Call) (id : Nat) (m : Mig) (r : Req) (s : State), Serves c 0x1111 r s → tget s.tiers.migs id = some m →
    c.func = 0 ∨ m.part = r.part → m.mstate ≠ .copying →
    exec (.migrateRelease c id) s =
      .next (okay c { begun c 0x1111 s with tiers := { s.tiers with migs := tdel s.tiers.migs id } })) ∧
  (∀ (c : Call) (id : Nat) (m : Mig) (r : Req) (s : State), Serves c 0x1112 r s → tget s.tiers.migs id = some m →
    c.func = 0 ∨ m.part = r.part → m.mstate = .copying →
    exec (.migrateAbort c id) s =
      .next (okay c { begun c 0x1112 s with tiers := { s.tiers with migs := tset s.tiers.migs id { m with mstate := .aborted } } })) ∧
  (∀ (id n : Nat) (m : Mig) (s : State), tget s.tiers.migs id = some m →
    (copyPart id n s).mem = copyRange s.mem (mkey (tierSpace m.src.tier) (m.src.base + m.copied))
      (mkey (tierSpace m.dst.tier) (m.dst.base + m.copied)) (min n (m.src.size - m.copied)) ∧
    tget (copyPart id n s).tiers.migs id = some { m with copied := m.copied + min n (m.src.size - m.copied) }) ∧
  (∀ (id : Nat) (bad : List Nat) (m : Mig) (s : State), tget s.tiers.migs id = some m → m.mstate = .copying →
    rangeStops m.src s = false → rangeStops m.dst s = false →
    exec (.migrationCopyDone id bad) s =
      let u := (badKeys (mkey (tierSpace m.dst.tier) m.dst.base) m.dst.size s).foldl (fun t k => unquarantine k t)
        (copyPart id (m.src.size - m.copied) s)
      .next (settle ((migBad m bad s).foldl (migBadLine m) { u with tiers := { u.tiers with
        migs := tset u.tiers.migs id { m with mstate := .redirecting, copied := m.src.size, bad := (migBad m bad s).length } } }))) ∧
  (∀ (c : Call) (cursor : Nat) (r : Req) (s : State), Serves c 0x1100 r s → CursorOk c 0x1100 cursor r s →
    ∃ rows, exec (.readMemory c cursor) s = .next (paged c 0x1100 cursor rows s) ∧
      rows.head? = some [s.tiers.density, gddrSize s.tiers.density, s.tiers.scrubSram, s.tiers.scrubGddr, (disabled 1 s).toNat,
        (s.tiers.reserves.map Reserve.base).foldl min (gddrSize s.tiers.density)]) ∧
  (∀ (c : Call) (cursor : Nat) (r : Req) (s : State), Serves c 0x1101 r s → CursorOk c 0x1101 cursor r s →
    ∃ rows, exec (.readMemErrors c cursor) s = .next (paged c 0x1101 cursor rows s) ∧
      rows.head? = some [s.tiers.lost, s.tiers.qlines.length, s.tiers.qregions.length]) ∧
  (∀ (c : Call) (cursor : Nat) (r : Req) (s : State), Serves c 0x1113 r s → CursorOk c 0x1113 cursor r s →
    ∃ rows, exec (.readMigrations c cursor) s = .next (paged c 0x1113 cursor rows s) ∧
      rows.length = s.tiers.migs.countP (fun e => sees c e.2.part s))

/-- Channels, the scrubber and lines in error (R156 to R164): a burst that fails five times retrains its channel with a replay, drift
retrains one that serves, a line found bad is corrected or quarantined. -/
def Obligations.ChannelsComplete : Prop :=
  (∀ (c : Call) (lines : List LineLoc) (r : Req) (s : State), Serves c 0x1123 r s →
    exec (.quarantineClear c lines) s = .next (settle (okay c
      (lines.foldl (fun (u : State) (l : LineLoc) => unquarantine (lineKey (locPlace l)) u) (begun c 0x1123 s))))) ∧
  (∀ (c : Call) (a b : Nat) (r : Req) (s : State), Serves c 0x1851 r s → 60 ≤ a → a ≤ 86400 → 60 ≤ b → b ≤ 86400 →
    exec (.setScrub c a b) s =
      .next (okay c { begun c 0x1851 s with tiers := { s.tiers with scrubSram := a, scrubGddr := b } })) ∧
  (∀ (c : Call) (ch : Nat) (r : Req) (s : State), Serves c 0x1850 r s → ch ≤ 15 → (chan? ch s).cstate = .active →
    exec (.retrainChannel c ch) s = .next (runsOn c true (modChan ch (fun x => { x with mb := some (callRef c s) })
      (beginRetrain ch false (begun c 0x1850 s))))) ∧
  (∀ (loc : LineLoc) (w : Bool) (s : State), (locPlace loc).space ≠ spCxl → unitBlock (locPlace loc) s = none →
    quarantined (lineKey (locPlace loc)) s = false → lineKey (locPlace loc) ∉ s.tiers.fatal →
    ((locPlace loc).space = spGddr → domainOff 3 s = false) →
    let u := checkPlace false (locPlace loc) s
    exec (.scrubRead loc none w) s = .next u ∧
    (∀ sym, exec (.scrubRead loc (some (.corrected sym)) w) s = .next (corrected (locPlace loc) 0xFF sym u)) ∧
    exec (.scrubRead loc (some .uncorrectable) w) s = .next (settle (uncorrectable (locPlace loc) 0xFF u))) ∧
  (∀ (ch addr fails who : Nat) (s : State), (chan? ch s).cstate = .active → addr / 4096 % 16 = ch → addr < gddrSize s.tiers.density →
    (fails ≤ 4 → exec (.edcFail ch addr fails who) s = .next (bump (bkChan ch) 2 fails s)) ∧
    (5 ≤ fails → exec (.edcFail ch addr fails who) s =
      .next (beginRetrain ch true (memError ⟨spGddr, addr⟩ 3 who 0xFF (bump (bkChan ch) 2 4 s))))) ∧
  (∀ (ch temp : Nat) (s : State), (chan? ch s).cstate = .active → (chan? ch s).temp + 10 ≤ temp → (chan? ch s).driftAt = none →
    exec (.tempDriftRetrain ch temp) s = .next (modChan ch (fun x => { x with driftAt := some s.chip.lcount })
      (beginRetrain ch false s))) ∧
  (∀ (ch temp holdNs : Nat) (s : State), (chan? ch s).cstate = .retraining → (chan? ch s).mb = none → temp < 256 → holdNs ≤ 20000 →
    exec (.retrainDone ch true true temp holdNs) s =
      .next (settle (resumeHeld (fun w => w == .channel ch) (modChan ch (fun x => { x with cstate := .active, temp := temp, replay := false })
        (bump (bkChan ch) 3 1 (bump (bkChan ch) 4 holdNs s))))))

/-- CXL devices (R146 to R148, R165 to R167): added, in service with their first 128 GiB, polled for their event records, removed, lost. -/
def Obligations.CxlDevicesComplete : Prop :=
  (∀ (c : Call) (dev : Nat) (r : Req) (s : State), Serves c 0x1121 r s → cxlIndexOk dev s = true →
    s.chip.blockRsts.any (fun b => b.kind == 5 && b.index == dev / 2) = false → (cxl? dev s).cstate = .absent ∨ (cxl? dev s).cstate = .present →
    Config.cxlPresent dev s.chip.lcount = true →
    exec (.cxlAdd c dev) s =
      .next (runsOn c true (modCxl dev (fun x => { x with cstate := .bringUp, mb := some (callRef c s) }) (begun c 0x1121 s)))) ∧
  (∀ (dev capacity : Nat) (m : MbRef) (s : State), (cxl? dev s).cstate = .bringUp → (cxl? dev s).mb = some m →
    exec (.cxlMediaReady dev capacity) s = .next (finish m Config.ok Body.empty
      (modCxl dev (fun x => { x with
        cstate := .inService, capacity := min capacity (2 ^ 37), truncated := decide (capacity > 2 ^ 37), mb := none }) s))) ∧
  (∀ (c : Call) (dev : Nat) (r : Req) (s : State), Serves c 0x1122 r s → cxlIndexOk dev s = true → (cxl? dev s).cstate = .inService →
    s.parts.any (fun e => e.2.allot.any (fun a => a.tier == .cxl && a.base / 2 ^ 37 == dev)) = false →
    s.tiers.migs.any (fun e => migTouches .cxl (dev * 2 ^ 37) (2 ^ 37) e.2) = false →
    exec (.cxlRemove c dev) s =
      .next (runsOn c true (modCxl dev (fun x => { x with cstate := .removing, mb := some (callRef c s) }) (begun c 0x1122 s)))) ∧
  (∀ (dev : Nat) (m : MbRef) (s : State), (cxl? dev s).cstate = .removing → (cxl? dev s).mb = some m →
    exec (.cxlRemoveDrainEnd dev) s =
      .next (finish m Config.ok Body.empty (modCxl dev (fun x => { x with cstate := .present, mb := none }) s))) ∧
  (∀ (dev : Nat) (s : State), (cxl? dev s).cstate = .inService → s.tiers.migs = [] →
    exec (.cxlDeviceLost dev) s =
      .next (memError ⟨spCxl, dev * 2 ^ 37⟩ 6 0xFF 0xFF (modCxl dev (fun x => { x with cstate := .lost }) s))) ∧
  (∀ (dev : Nat) (e : CxlEvent) (s : State), (cxl? dev s).cstate = .inService →
    exec (.cxlEventPoll dev [e]) s = .next (memError ⟨spCxl, dev * 2 ^ 37 + e.addr % 2 ^ 37⟩
      (if e.kind = 0 ∨ e.kind = 5 then e.kind else 1) 0xFF 0xFF s))

/-- Translation commands and the answers to faults (R172, R173, R179 to R195): SET_TRANSLATION and INVALIDATE discard what was cached and
wait for the accesses under way; READ_TRANSLATION and READ_FAULTS list the settings and the outstanding faults. -/
def Obligations.TranslationComplete : Prop :=
  (∀ (c : Call) (p : TransSet) (r : Req) (s : State), Serves c 0x1200 r s → transOk r.part p s = true →
    (trans? r.part s).unreleased = 0 → stalledCount r.part s = 0 →
    exec (.setTranslation c p) s =
      .next (settle (runsOn c true (invalidate (callRef c s) r.part .whole (modTrans r.part (setTrans p) (begun c 0x1200 s)))))) ∧
  (∀ (c : Call) (sc : InvScope) (r : Req) (s : State), Serves c 0x1210 r s → scopeOk sc = true →
    exec (.invalidate c sc) s = .next (settle (runsOn c true (invalidate (callRef c s) r.part sc (begun c 0x1210 s))))) ∧
  (∀ (part : Nat) (s : State), (dropScope part .whole s).xl.wcache.all (fun e => e.part != part) = true ∧
    ∀ e ∈ (dropScope part .whole s).xl.tlb, e.2.all (fun t => t.part != part) = true) ∧
  (∀ (c : Call) (cursor : Nat) (r : Req) (s : State), Serves c 0x1201 r s → CursorOk c 0x1201 cursor r s →
    exec (.readTranslation c cursor) s = .next (paged c 0x1201 cursor
      [let x := trans? r.part s
       [x.set.toNat, x.root, x.rootBits, x.func, x.fqBase, x.vec, x.timeoutMs, x.head, x.tail, x.tphase.toNat, x.ovf.toNat,
        (backPressure r.part s).toNat, waitingCount r.part s, stalledCount r.part s]] s)) ∧
  (∀ (c : Call) (cursor : Nat) (r : Req) (s : State), Serves c 0x1211 r s → CursorOk c 0x1211 cursor r s →
    ∃ rows, exec (.readFaults c cursor) s = .next (paged c 0x1211 cursor rows s) ∧
      rows.length = s.xl.faults.countP (fun f => f.part == r.part)) ∧
  (∀ (x tag : Nat) (f : Xfer) (s : State), xfer? x s = some f → f.st = .stalled tag →
    exec (.faultTimeout x) s =
      .next (settle (failUnit x Config.ccTransTimeout (bump (bkTrans f.part) 5 1 (expireFault f.part tag s)))))

/-- Transfers and the requests to the host (R182 to R185, R434 to R439): a unit that is ready runs; a page table read that the host answers takes
its walk on, one that fails ends the accesses that waited; completions, time-outs and zero-length reads. -/
def Obligations.HostRequestsComplete : Prop :=
  (∀ (x : Nat) (ecc : List EccHit) (s : State), exec (.dmaTransferUnit x ecc) s = .next (settle (runReady x ecc s))) ∧
  (∀ (w : Nat) (k : Walk) (s : State), tget s.xl.walks w = some k →
    exec (.walkComplete w .ok []) s = .next (settle (walkRead w k (bump (bkHost k.func) 1 16 s)))) ∧
  (∀ (w : Nat) (k : Walk) (how : HostEnd) (s : State), tget s.xl.walks w = some k → how ≠ .ok →
    exec (.walkComplete w how []) s =
      .next (settle (endWalk w k (fun x _ t => failUnit x (hostCode how) t) (countHostEnd k.func how s)))) ∧
  (∀ (tag : Nat) (how : HostEnd) (bytes : List Byte) (q : HostReq) (s : State), tget s.xl.hreqs tag = some q →
    exec (.hostReadCompletion tag how bytes) s = .next (settle (hostAnswer tag q how bytes s))) ∧
  (∀ (tag : Nat) (q : HostReq) (s : State), tget s.xl.hreqs tag = some q → q.kind = .read →
    exec (.completionTimeout tag) s = .next (settle (pumpWaiting (failHostPart q.owner tag Config.ccProtection
      (emit (.aer q.func .completionTimeout) (bump (bkHost q.func) 4 1 { s with xl := { s.xl with hreqs := tdel s.xl.hreqs tag } })))))) ∧
  (∀ (f addr tag x : Nat) (s : State), tget s.xl.lastPosted f = some addr → hostTag f s = some tag → zlrDue f s = [x] →
    mayRequest f s = true →
    exec (.zeroLengthRead f) s = .next (emit (.zeroLengthRead f addr tag) (bump (bkHost f) 3 1
      (modXfer x (fun e => { e with zneed := e.zneed.filter (· != f), zwait := e.zwait ++ [tag] })
        { s with xl := { s.xl with hreqs := tset s.xl.hreqs tag { kind := .zlr, func := f, addr := addr, len := 0, owner := 0 } } })))) ∧
  (∀ (f : Nat) (s : State), mayRequest f s = true →
    exec (.heldAccessResume f) s =
      let u := resumeHeld (fun w => w == .func f) s
      .next (settle (if (trans? (funcPart f s) u).func = f then drainFaults (funcPart f s) (waitingCount (funcPart f s) u) u else u)))

/-- Training and re-calibration of links (R200, R206, R210, R212): a lit link sends HELLO and trains, HELLO makes it ACTIVE or SPARE, a lost or failing
link FAILED, and a failed one is tried again. -/
def Obligations.LinkTrainingComplete : Prop :=
  (∀ (link : Nat) (s : State), (link? link s).lstate = .down → (link? link s).gang.isSome = true → s.pm.tripped = false →
    exec (.signalDetect link) s = .next (sendHello link (modLink link (fun l => { l with lstate := .training }) s))) ∧
  (∀ (link : Nat) (s : State), (link? link s).lstate = .training → exec (.helloResend link) s = .next (sendHello link s)) ∧
  (∀ (h : CtlHead) (gi : Nat) (g : Gang) (m : HelloMsg) (s : State), gangOf h.link s = some (gi, g) →
    (link? h.link s).lstate = .training → g.members.head? = some h.link → g.spares = [] → g.members.tail = [] →
    exec (.hello h m) s = .next (spareCheck s (trainLink gi g h.link
      (modLink h.link (fun l => { l with pserial := m.serial, plink := m.link % 256 }) s)))) ∧
  (∀ (link : Nat) (s : State), (link? link s).lstate = .training →
    exec (.trainingTimeout link) s = .next (settle (failLink link s))) ∧
  (∀ (link : Nat) (s : State), (link? link s).lstate = .active ∨ (link? link s).lstate = .spare →
    exec (.lossOfSignal link) s = .next (settle (failLink link s))) ∧
  (∀ (link : Nat) (s : State), (link? link s).lstate = .failed → (link? link s).gang.isSome = true → (link? link s).recalDue = false →
    exec (.failedLinkRetry link) s = .next (spareCheck s (modLink link (fun l => { l with
      lstate := .recal, recalDue := false, recalWait := false }) s))) ∧
  (∀ (link gi : Nat) (g : Gang) (s : State), gangOf link s = some (gi, g) → link ∈ g.members → (link? link s).lstate = .active →
    exec (.periodicRecal link) s = .next (settle (recalMember link false s))) ∧
  (∀ (link gi : Nat) (g : Gang) (s : State), (link? link s).lstate = .recal → (link? link s).recalMb = none →
    gangOf link s = some (gi, g) → (link? link s).backTo = none →
    exec (.recalDone link true) s = .next (settle (recalWaiting gi (modGang gi (fun g => { g with
      spares := if g.spares.contains link then g.spares else g.spares ++ [link] })
      (modLink link (fun l => { l with lstate := .spare, trainedAt := s.chip.lcount, seqTx := 0, seqRx := 0,
                                       replay := [], nak := false, owed := [], backTo := none }) s))))) ∧
  (∀ (link gi pos : Nat) (g : Gang) (s : State), (link? link s).lstate = .recal → (link? link s).recalMb = none →
    gangOf link s = some (gi, g) → (link? link s).backTo = some pos → g.gstate = .up → g.members.length < 8 →
    exec (.recalDone link true) s = .next (settle (recalWaiting gi (rejoin gi link pos g
      (modLink link (fun l => { l with lstate := .spare, trainedAt := s.chip.lcount, seqTx := 0, seqRx := 0,
                                       replay := [], nak := false, owed := [], backTo := none }) s)))))

/-- Frames, acknowledgement and retry (R202 to R207): a frame whose CRC fails is answered with NAK, one that checks gives its ACK and credit and,
where it is the one expected, enters its gang's stream; NAK and the replay timer send frames again. -/
def Obligations.LinkFramesComplete : Prop :=
  (∀ (link : Nat) (f : JlFrame) (s : State), (link? link s).lstate = .active → frameOk f = false →
    exec (.jlDataFrame link f) s = .next (settle (crcFail link (sendNak link s))) ∧
    exec (.idleFrame link f) s = .next (settle (crcFail link (sendNak link s)))) ∧
  (∀ (link gi : Nat) (f : JlFrame) (s : State), (link? link s).lstate = .active → frameOk f = true → f.type = 1 →
    (link? link (dataFrame link f (takeAck link f.ack f.credVc f.cred s))).gang = some gi →
    exec (.jlDataFrame link f) s = .next (settle (pumpGang gi (dataFrame link f (takeAck link f.ack f.credVc f.cred s))))) ∧
  (∀ (link gi : Nat) (f : JlFrame) (s : State), (link? link s).lstate = .active → frameOk f = true → f.type = 0 →
    (link? link (takeAck link f.ack f.credVc f.cred s)).gang = some gi →
    exec (.idleFrame link f) s = .next (settle (pumpGang gi (takeAck link f.ack f.credVc f.cred s)))) ∧
  (∀ (link gi : Nat) (f : JlFrame) (s : State), f.seq = (link? link s).seqRx → (link? link s).gang = some gi →
    dataFrame link f s = gangFrame gi link f (modLink link (fun l => { l with seqRx := (l.seqRx + 1) % 4096, nak := false }) s)) ∧
  (∀ (h : CtlHead) (seq : Nat) (s : State), (link? h.link s).lstate = .active →
    exec (.jlNak h seq) s = .next (settle
      (replayFrom h.link ((link? h.link (takeHead h s)).replay.dropWhile (fun u => u.fr.seq != seq)) (takeHead h s)))) ∧
  (∀ (link : Nat) (s : State), (link? link s).lstate = .active →
    exec (.replayTimer link) s = .next (settle (replayFrom link (link? link s).replay s))) ∧
  (∀ (link : Nat) (s : State), (link? link s).nak = true →
    exec (.nakResend link) s = .next (sendCtl link (nakBytes (link? link s).seqRx) s))

/-- Re-forms of gangs and the responses of accelerators (R208, R209, R211, R213): the order that REFORM names is taken and echoed, REFORM_ACK sends
again from the restart point; a response ends the operation of its tag, and a tag whose time passes ends it with 0x0A or 0x0B. -/
def Obligations.GangTrafficComplete : Prop :=
  (∀ (h : CtlHead) (gang restart : Nat) (g : Gang) (s : State), gangOf h.link (takeHead h s) = some (gang, g) →
    g.gstate = .reforming → restart % 65536 = g.restart % 65536 →
    exec (.reformAck h restart) s = .next (settle (recalWaiting gang (startDue gang (pumpGang gang (setGang gang { g with
      gstate := .up, reforms := 0, resend := g.kept ++ g.resend, kept := [], gposTx := g.restart } (takeHead h s))))))) ∧
  (∀ (gang : Nat) (g : Gang) (s : State), gang? gang s = some g → g.gstate = .reforming →
    (g.reforms < 100 → exec (.reformResend gang) s = .next (sendReform g (setGang gang { g with reforms := g.reforms + 1 } s))) ∧
    (100 ≤ g.reforms → exec (.reformResend gang) s = .next (settle (startDue gang (gangDown gang s))))) ∧
  (∀ (h : CtlHead) (gang : Nat) (m : ReformMsg) (g : Gang) (s : State), gangOf h.link (takeHead h s) = some (gang, g) →
    g.gstate = .up → m.order ≠ [] → reformOrder g (takeHead h s) m.order [] = g.members → g.members ≠ [] →
    exec (.reform h m) s = .next (settle (spareCheck (takeHead h s) (startDue gang (pumpGang gang
      (sendCtl (g.members.headD 0) (reformAckBytes m.restart) (setGang gang g (takeHead h s)))))))) ∧
  (∀ (gang : Nat) (g : Gang) (m : JMsg) (k : JTag) (s : State), gang? gang s = some g → g.inbox.find? (fun m => m.op == 4) = some m →
    tget g.tags m.tag = some k → k.write = true → k.ended = false → bitOf 1 m.flags = false →
    exec (.visAck gang) s = .next (settle (pieceDone gang m.tag k.xfer (setGang gang { g with inbox := g.inbox.erase m } s)))) ∧
  (∀ (gang : Nat) (g : Gang) (m : JMsg) (k : JTag) (s : State), gang? gang s = some g → g.inbox.find? (fun m => m.op == 3) = some m →
    tget g.tags m.tag = some k → k.write = false → k.ended = false → bitOf 1 m.flags = false → k.addr ≤ m.addr → m.data.length = k.left →
    exec (.readData gang) s =
      .next (settle (pieceDone gang m.tag k.xfer (landRead gang m.tag k m (setGang gang { g with inbox := g.inbox.erase m } s))))) ∧
  (∀ (gang tag : Nat) (g : Gang) (k : JTag) (s : State), gang? gang s = some g → tget g.tags tag = some k → k.ended = false →
    exec (.visTimeout gang tag) s =
      .next (settle (pumpWaiting (failJlPart k.xfer (tagKey gang tag) (if k.write then Config.ccVisTimeout else Config.ccRemoteOp)
        (modGang gang (fun g => { g with tags := tset g.tags tag { k with ended := true } }) s)))))

/-- Gang and link opcodes (R206, R210, R212 to R217, R223, R225): SET_GANG defines a gang whose stream starts anew, GRANT_GANG and
GANG_WITHDRAW its grant, the others its time limit, routes and thresholds; the readbacks list links, gangs and routes. -/
def Obligations.GangCommandsComplete : Prop :=
  (∀ (c : Call) (gi : Nat) (kind : GangKind) (members spares : List Nat) (r : Req) (s : State), Serves c 0x3010 r s →
    gangListsOk gi members spares s = true → gang? gi s = none → linksOf gi s = [] →
    (∃ n ∈ members, (link? n ((members ++ spares).foldl (joinLink gi members) s)).lstate ≠ .active) →
    exec (.setGang c gi kind members spares) s = .next (okay c (spareCheck (begun c 0x3010 s) (recalWaiting gi (closeUp gi members
      (setGang gi (newGang kind members spares none) ((members ++ spares).foldl (joinLink gi members) (begun c 0x3010 s)))))))) ∧
  (∀ (c : Call) (gi : Nat) (g : Gang) (r : Req) (s : State), Serves c 0x3011 r s → gang? gi s = some g → g.kind = .accelerator →
    g.grant = none → g.withdraw = none →
    exec (.grantGang c gi) s = .next (okay c (setGang gi { g with grant := some r.part } (begun c 0x3011 s)))) ∧
  (∀ (c : Call) (gi : Nat) (g : Gang) (r : Req) (s : State), Serves c 0x3011 r s → gang? gi s = some g → g.grant = some r.part →
    exec (.gangWithdraw c gi) s = .next (settle (runsOn c true (setGang gi { g with grant := none, withdraw := some (callRef c s) }
      (begun c 0x3011 s))))) ∧
  (∀ (c : Call) (gi us : Nat) (g : Gang) (r : Req) (s : State), Serves c 0x3012 r s → gang? gi s = some g → 10 ≤ us → us ≤ 100000 →
    exec (.setVisTimeout c gi us) s = .next (okay c (modGang gi (fun g => { g with timeoutUs := us }) (begun c 0x3012 s)))) ∧
  (∀ (c : Call) (link gi : Nat) (g : Gang) (r : Req) (s : State), Serves c 0x3850 r s → link ≤ 63 → gangOf link s = some (gi, g) →
    (link? link s).lstate = .active → (link? link s).recalDue = false →
    exec (.recalLink c link true) s = .next (settle (runsOn c true (recalMember link true
      (modLink link (fun l => { l with recalMb := some (callRef c s) }) (begun c 0x3850 s)))))) ∧
  (∀ (c : Call) (die : Nat) (es : List RouteEntry) (r : Req) (s : State), Serves c 0x3851 r s → die ≤ 1 → (∀ e ∈ es, routeOk e = true) →
    exec (.setRoute c die es) s = .next (okay c { begun c 0x3851 s with
      jl.routes := es.foldl (fun (m : Tab Nat) (e : RouteEntry) => tset m (die * 65536 + e.dst) e.entry.toNat) s.jl.routes })) ∧
  (∀ (c : Call) (crc hours : Nat) (r : Req) (s : State), Serves c 0x3852 r s → 1 ≤ crc → crc ≤ 65535 → 1 ≤ hours → hours ≤ 720 →
    exec (.setLinkThresh c crc hours) s =
      .next (settle (okay c (checkThresh { begun c 0x3852 s with jl := { s.jl with crcThresh := crc, recalHours := hours } })))) ∧
  (∀ (c : Call) (cursor : Nat) (r : Req) (s : State), Serves c 0x3000 r s → CursorOk c 0x3000 cursor r s →
    ∃ rows, exec (.readLinks c cursor) s = .next (paged c 0x3000 cursor rows s) ∧ rows.length = 64) ∧
  (∀ (c : Call) (cursor : Nat) (r : Req) (s : State), Serves c 0x3001 r s → CursorOk c 0x3001 cursor r s →
    ∃ rows, exec (.readGangs c cursor) s = .next (paged c 0x3001 cursor rows s) ∧
      rows.length = s.jl.gangs.countP (fun e => c.func == 0 || e.2.grant == some (funcPart c.func s))) ∧
  (∀ (c : Call) (cursor : Nat) (r : Req) (s : State), Serves c 0x3003 r s → CursorOk c 0x3003 cursor r s →
    ∃ rows, exec (.readRoutes c cursor) s = .next (paged c 0x3003 cursor rows s) ∧
      rows.all (fun e => e.length == 3) = true)

/-- The roll call (R218 to R224): the head numbers its gangs and answers once its RESULT is out; a TOKEN that comes back to the head closes a loop, any
other starts the numbering of this device; HOLD, RETURN, LOOP and RESULT take their turn. -/
def Obligations.RollCallComplete : Prop :=
  (∀ (c : Call) (r : Req) (s : State), Serves c 0x3020 r s → isHead s = true → s.jl.rc.rcstate ≠ 1 →
    exec (.rollcallRun c) s = .next (runsOn c true (startRun (some (callRef c s)) (begun c 0x3020 s)))) ∧
  (∀ (c : Call) (ns : Nat) (r : Req) (s : State), Serves c 0x3021 r s →
    exec (.setRollcall c ns) s = .next (okay c (modRc (fun x => { x with budgetNs := ns }) (begun c 0x3021 s)))) ∧
  (∀ (c : Call) (level : Nat) (r : Req) (s : State), Serves c 0x3022 r s → level ≤ 3 → s.jl.rc.level ≤ level →
    exec (.setRedundancy c level) s =
      .next (okay c (spareCheck (begun c 0x3022 s) (modRc (fun x => { x with raised := level }) (begun c 0x3022 s))))) ∧
  (∀ (c : Call) (cursor : Nat) (r : Req) (s : State), Serves c 0x3002 r s → CursorOk c 0x3002 cursor r s →
    ∃ rows, exec (.readRollcall c cursor) s = .next (paged c 0x3002 cursor rows s) ∧
      rows.head? = some [s.jl.rc.addr, s.jl.rc.size, s.jl.rc.round, s.jl.rc.head.toNat, s.jl.rc.ring.toNat, s.jl.rc.conflict.toNat,
        (sparesShort s).toNat, levelNow s, s.jl.rc.rcstate]) ∧
  (∀ (g : Nat) (m : RcMsg) (s t : State), takeRc g 1 s = some (m, t) → isHead t = true → m.head = t.chip.serial → t.jl.rc.next ≤ m.next →
    exec (.tokenMsg g) s = .next (settle (setRole g .ringClose (sendRc g 0 { rcMsg 3 t with ring := true } t)))) ∧
  (∀ (g : Nat) (m : RcMsg) (s t : State), takeRc g 1 s = some (m, t) → isHead t = false → t.jl.rc.rcstate ≠ 1 → m.round ≠ t.jl.rc.round →
    exec (.tokenMsg g) s = .next (settle (takeToken g m t))) ∧
  (∀ (g : Nat) (m : RcMsg) (s t : State), takeRc g 5 s = some (m, t) → t.jl.rc.waiting = some g →
    exec (.holdMsg g) s = .next (modRc (fun c => { c with waitHold := true }) t)) ∧
  (∀ (p : Nat) (s : State), s.jl.rc.parent = some p → s.jl.rc.rcstate = 1 → s.jl.rc.waiting.isSome = true →
    exec .holdResend s = .next (sendRc p 0 (rcMsg 5 s) s)) ∧
  (∀ (g : Nat) (m : RcMsg) (s t : State), takeRc g 2 s = some (m, t) → t.jl.rc.waiting = some g →
    exec (.returnMsg g) s = .next (settle (goOn (modRc (fun c => { c with
      next := m.next, conflict := c.conflict || m.conflict, beyond := c.beyond || m.short })
      (setRole g (.subtree t.jl.rc.next (m.next - 1)) t))))) ∧
  (∀ (g : Nat) (m : RcMsg) (s t : State), takeRc g 3 s = some (m, t) → t.jl.rc.waiting = some g → t.jl.rc.waitHold = false →
    exec (.loopMsg g) s = .next (settle (goOn (modRc (fun c => { c with conflict := c.conflict || m.conflict })
      (setRole g (if m.ring then .ringClose else .cross) t))))) ∧
  (∀ (g : Nat) (s : State), s.jl.rc.waiting = some g →
    exec (.rollcallAnswerTimeout g) s = .next (settle (goOn (setRole g .unconnected s)))) ∧
  (∀ (g : Nat) (m : RcMsg) (s t : State), takeRc g 4 s = some (m, t) → t.jl.rc.rcstate = 1 → t.jl.rc.parent = some g →
    exec (.resultMsg g) s = .next (settle (applyResult m (relayResult m t)))) ∧
  (∀ (gi : Nat) (g : Gang) (m : JMsg) (s : State), gang? gi s = some g → g.inbox.find? (fun m => m.op == 5) = some m →
    m.dst = s.jl.rc.addr → m.dst ≠ 0 → s.jl.rc.fwdOn = true →
    exec (.fwd gi) s = .next (settle (consumeFwd (gangDie g) m (setGang gi { g with inbox := g.inbox.erase m } s))))

/-- Queue pairs (R229 to R235): CREATE_QP answers a QPN and its incarnation, MODIFY_QP takes the transitions of Table 8-3, DESTROY_QP frees a
QP in RESET, READ_QP lists contexts; a WAIT goes on once its counter satisfies it. -/
def Obligations.QueuePairsComplete : Prop :=
  (∀ (c : Call) (n : Nat) (q : Qp) (u : State) (r : Req) (s : State), Serves c 0x4000 r s → newQp r.part (begun c 0x4000 s) = some (n, u) →
    qp? n u = some q →
    exec (.createQp c) s = .next (replied c Config.ok (Body.nums [n, q.gen]) u)) ∧
  (∀ (c : Call) (n : Nat) (q : Qp) (st : Byte) (ctx : List Byte) (r : Req) (s : State), Serves c 0x4001 r s → qp? n s = some q →
    c.func = 0 ∨ q.part = r.part → q.qstate = .reset → ctxAt (st :: ctx) 0 1 = 1 → setsOnly initSpans (st :: ctx) = true →
    initBad c n (setInit (st :: ctx) q) s = none →
    exec (.modifyQp c n st ctx) s = .next (settle (okay c
      (modQp n (fun _ => enterInit (setInit (st :: ctx) q)) (quietQp n (begun c 0x4001 s)))))) ∧
  (∀ (c : Call) (n : Nat) (q : Qp) (st : Byte) (ctx : List Byte) (r : Req) (s : State), Serves c 0x4001 r s → qp? n s = some q →
    c.func = 0 ∨ q.part = r.part → q.qstate = .init → ctxAt (st :: ctx) 0 1 = 2 → setsOnly (rtrSpans q.typ) (st :: ctx) = true →
    rtrOk (setRtr (st :: ctx) q) = true →
    exec (.modifyQp c n st ctx) s = .next (settle (okay c
      (modQp n (fun _ => enterRtr s.qe.cc (setRtr (st :: ctx) q)) (begun c 0x4001 s))))) ∧
  (∀ (c : Call) (n : Nat) (q : Qp) (st : Byte) (ctx : List Byte) (goal : QpState) (r : Req) (s : State), Serves c 0x4001 r s → qp? n s = some q →
    c.func = 0 ∨ q.part = r.part → QpState.ofCode (ctxAt (st :: ctx) 0 1) = some goal → setsOnly [(0, 1)] (st :: ctx) = true →
    (q.qstate = .rtr ∧ goal = .rts) ∨ (q.qstate = .rts ∧ goal = .draining) ∨ (q.qstate = .drained ∧ goal = .rts) →
    exec (.modifyQp c n st ctx) s = .next (settle (okay c (qpKick n (modQp n (fun q => { q with qstate := goal }) (begun c 0x4001 s)))))) ∧
  (∀ (c : Call) (n : Nat) (q : Qp) (st : Byte) (ctx : List Byte) (r : Req) (s : State), Serves c 0x4001 r s → qp? n s = some q →
    c.func = 0 ∨ q.part = r.part → q.qstate ≠ .reset → ctxAt (st :: ctx) 0 1 = 6 → setsOnly [(0, 1)] (st :: ctx) = true →
    exec (.modifyQp c n st ctx) s = .next (settle (okay c (failQp n 0 0 0 false (begun c 0x4001 s))))) ∧
  (∀ (c : Call) (n : Nat) (q : Qp) (r : Req) (s : State), Serves c 0x4002 r s → qp? n s = some q → c.func = 0 ∨ q.part = r.part →
    q.qstate = .reset →
    exec (.destroyQp c n) s = .next (settle (okay c (dropQp n (quietQp n (begun c 0x4002 s)))))) ∧
  (∀ (c : Call) (cursor : Nat) (r : Req) (s : State), Serves c 0x4003 r s → CursorOk c 0x4003 cursor r s →
    ∃ rows, exec (.readQp c ⟨none, cursor⟩) s = .next (paged c 0x4003 cursor rows s) ∧
      rows.map (fun e => e.headD 0) = tkeys (s.qe.qps.filter (fun e => e.2.part == r.part))) ∧
  (∀ (c : Call) (n cursor : Nat) (q : Qp) (r : Req) (s : State), Serves c 0x4003 r s → CursorOk c 0x4003 cursor r s → qp? n s = some q →
    c.func = 0 ∨ q.part = r.part →
    exec (.readQp c ⟨some n, cursor⟩) s = .next (paged c 0x4003 cursor [n :: words8 (ctxBytes q)] s)) ∧
  (∀ (n : Nat) (q : Qp) (o : SqOp) (s : State), qp? n s = some q → q.ops.find? (fun o => o.remote.isNone && o.st == .waiting) = some o →
    tallyPassed q.part (o.ent.opa.toNat % 65536) (o.ent.opa.toNat / 2 ^ 32) s = true →
    exec (.waitRelease n) s = .next (settle (sqKick n (setOp n o.idx (.done 0) (bump (bkQueue q.part) 7 1 s))))) ∧
  (∀ (c : Call) (qps cqs passes tallies : Nat) (g z : Part) (r : Req) (s : State), Serves c 0x4850 r s → r.part ≠ 0 →
    part? r.part s = some g → part? 0 s = some z → qpsOf r.part s ≤ qps → qps ≤ g.qps → cqsOf r.part s ≤ cqs → cqs ≤ g.cqs →
    passesOf r.part s ≤ passes → passes ≤ g.passes → talliesUsed r.part s ≤ tallies → tallies ≤ g.tallies →
    exec (.setQueueGrant c qps cqs passes tallies) s = .next (okay c (trimPasses 0 (trimPasses r.part
      (modPart r.part (fun g => { g with qps := qps, cqs := cqs, passes := passes, tallies := tallies })
        (modPart 0 (fun z => { z with
          qps := z.qps + g.qps - qps, cqs := z.cqs + g.cqs - cqs, passes := z.passes + g.passes - passes,
          tallies := z.tallies + g.tallies - tallies }) (begun c 0x4850 s)))))))

/-- Completion queues, hall passes and tally counters (R246 to R256, R263): objects are issued and given up, a revoked pass waits for its
accesses, the moderation time of an armed CQ sends its vector. -/
def Obligations.QueueObjectsComplete : Prop :=
  (∀ (c : Call) (base log vec count time : Nat) (r : Req) (g : Part) (s : State), Serves c 0x4010 r s → base % 4096 = 0 → base < 2 ^ 57 →
    6 ≤ log → log ≤ 20 → vec < vectors c.func → 1 ≤ count → count ≤ 256 → time ≤ 1000 → part? r.part s = some g → cqsOf r.part s < g.cqs →
    freshKey s.qe.cqs < Config.poolCqs →
    exec (.createCq c base log vec count time) s = .next (replied c Config.ok (Body.nums [freshKey s.qe.cqs])
      (modQe (fun e => { e with
        cqs := tset e.cqs (freshKey s.qe.cqs) {
          part := r.part, func := c.func, base := base, log := log, vec := vec, modCount := count, modTime := time, tail := 0, released := 0,
          arm := none, timing := false, ovf := false, held := [], stalled := none } }) (begun c 0x4010 s)))) ∧
  (∀ (c : Call) (n : Nat) (q : Cq) (r : Req) (s : State), Serves c 0x4011 r s → cq? n s = some q → c.func = 0 ∨ q.part = r.part →
    cqUsed n q s = false →
    exec (.destroyCq c n) s = .next (okay c (modQe (fun e => { e with cqs := tdel e.cqs n }) (begun c 0x4011 s)))) ∧
  (∀ (c : Call) (cursor : Nat) (r : Req) (s : State), Serves c 0x4012 r s → CursorOk c 0x4012 cursor r s →
    ∃ rows, exec (.readCq c cursor) s = .next (paged c 0x4012 cursor rows s) ∧
      rows.map (fun e => e.headD 0) = tkeys (s.qe.cqs.filter (fun e => e.2.part == r.part))) ∧
  (∀ (n : Nat) (q : Cq) (s : State), cq? n s = some q → q.timing = true → 0 < cqBeyond q →
    exec (.cqModerationTimer n) s = .next (cqFire n s)) ∧
  (∀ (c : Call) (p : PassSet) (k : Nat) (u : State) (r : Req) (s : State), Serves c 0x4020 r s → passOk r.part p s = true →
    issuePass r.part p.rights p.bind p.base p.length p.tally (begun c 0x4020 s) = some (k, u) →
    exec (.issuePass c p) s = .next (replied c Config.ok (Body.nums [k]) u)) ∧
  (∀ (c : Call) (key : Nat) (p : Pass) (r : Req) (s : State), Serves c 0x4021 r s → pass? (key / 256) s = some p → p.pstate = .valid →
    p.gen = key % 256 → c.func = 0 ∨ p.part = r.part →
    exec (.revokePass c key) s = .next (settle (runsOn c true (beginRevoke (key / 256) (some (callRef c s)) (begun c 0x4021 s))))) ∧
  (∀ (idx : Nat) (s : State), exec (.passDrained idx) s = .next (settle (tryDrain idx s))) ∧
  (∀ (c : Call) (cursor : Nat) (r : Req) (s : State), Serves c 0x4022 r s → CursorOk c 0x4022 cursor r s →
    ∃ rows, exec (.readPasses c cursor) s = .next (paged c 0x4022 cursor rows s) ∧
      rows.map (fun e => e.headD 0) = tkeys (s.qe.passes.filter (fun e => e.2.part == r.part))) ∧
  (∀ (c : Call) (h : Nat) (v : DWord) (r : Req) (s : State), Serves c 0x4030 r s → tallyOk r.part h s = true →
    exec (.tallySet c h v) s = .next (okay c (tallyPut r.part h v (begun c 0x4030 s)))) ∧
  (∀ (c : Call) (h count cursor : Nat) (r : Req) (s : State), Serves c 0x4031 r s → CursorOk c 0x4031 cursor r s → count ≠ 0 →
    tallyOk r.part (h + count - 1) s = true →
    exec (.tallyRead c h count cursor) s = .next (paged c 0x4031 cursor
      ((List.range count).map (fun i => [(tallyGet r.part (h + i) s).toNat])) s))

/-- Packets of the transport (R268 to R289): one handed over with the OP of its row reaches its QP, unless its peer is fenced; a RoCEv2 packet
is taken up on its own. -/
def Obligations.PacketsComplete : Prop :=
  (∀ (i : Nat) (a : Arrived) (q : Qp) (s t : State), takeArrived i s = some (a, t) → a.roce = false → (a.loc = true ∨ fenced a.src s = false) →
    qp? a.qpn t = some q → q.typ = (if a.loc then 2 else 0) →
    (beAt a.bytes 1 1 = 1 → exec (.ptSend i) s = .next (settle (ptHandle 1 a q t))) ∧
    (beAt a.bytes 1 1 = 2 → exec (.ptWrite i) s = .next (settle (ptHandle 2 a q t))) ∧
    (beAt a.bytes 1 1 = 3 → exec (.ptReadReq i) s = .next (settle (ptHandle 3 a q t))) ∧
    (beAt a.bytes 1 1 = 4 → exec (.ptReadResp i) s = .next (settle (ptHandle 4 a q t))) ∧
    (beAt a.bytes 1 1 = 5 → exec (.ptFadd i) s = .next (settle (ptHandle 5 a q t))) ∧
    (beAt a.bytes 1 1 = 6 → exec (.ptCas i) s = .next (settle (ptHandle 6 a q t))) ∧
    (beAt a.bytes 1 1 = 7 → exec (.ptAtomicResp i) s = .next (settle (ptHandle 7 a q t))) ∧
    (beAt a.bytes 1 1 = 8 → exec (.ptAck i) s = .next (settle (onAck a.qpn a.die a.bytes t)))) ∧
  (∀ (i op : Nat) (a : Arrived) (s t : State), takeArrived i s = some (a, t) → a.roce = false → beAt a.bytes 1 1 = op → a.loc = false →
    fenced a.src s = true → ptArrive op i s = bump (bkTransport a.die) 7 1 t) ∧
  (∀ (i : Nat) (a : Arrived) (s t : State), takeArrived i s = some (a, t) → a.roce = true → fenced a.src s = false →
    exec (.rocePacket i) s = .next (settle (rxRoce a.qpn a.die a.ce a.bytes t)))

/-- Timers and events of the transport (R258, R276 to R284): a message that is visible lets VMSN pass it, a due ACK is sent, a packet whose timer
expires is lost and the window cut to its least, the RNR wait and a path's penalty end. -/
def Obligations.TransportTimersComplete : Prop :=
  (∀ (n msn : Nat) (q : Qp) (s : State), qp? n s = some q → q.x.vmsnRx = msn → (inMsg? q msn).any msgDone = true →
    exec (.placementDone n msn) s = .next (settle (releaseMsgs n (q.inMsgs.length + 1) false s))) ∧
  (∀ (n : Nat) (q : Qp) (s : State), qp? n s = some q → q.x.ackDue = true → streaming q = true →
    exec (.ackTimer n) s = .next (settle (sendAck n 0 0 0 s))) ∧
  (∀ (n psn : Nat) (q : Qp) (p : TxPkt) (s : State), qp? n s = some q → q.x.unacked.find? (fun p => p.psn == psn && !p.acked) = some p →
    q.typ = 0 →
    exec (.rtoExpiry n psn) s = .next (settle (sqKick n (losePkt n p (modX n (fun x => { x with
      cwnd := s.qe.cc.minW * mtuBytes q.mtu, lastCut := s.chip.lcount, rto := min (2 * x.rto) 100000000 }) s))))) ∧
  (∀ (n : Nat) (q : Qp) (s : State), qp? n s = some q → q.x.rnrWait = true →
    exec (.rnrWaitExpiry n) s = .next (settle (sqKick n (modX n (fun x => resendFrom q.typ x.rnrTxPsn x) s)))) ∧
  (∀ (n path : Nat) (q : Qp) (s : State), qp? n s = some q → bitOf path q.x.penalty = true →
    exec (.pathPenaltyEnd n path) s = .next (modX n (fun x => { x with penalty := x.penalty - 2 ^ path }) s))

/-- Fences and the transport's parameters (R268, R283, R285, R287): FENCE_PEER fails the peer's QPs and waits for what was admitted, SET_CC changes
the named parameters, SET_PT_PORT keeps the old port until its grace ends. -/
def Obligations.TransportCommandsComplete : Prop :=
  (∀ (c : Call) (a : BitVec 128) (r : Req) (s : State), Serves c 0x4100 r s → s.qe.fences.find? (fun f => f.addr == a) = none →
    s.qe.fences.length < 256 →
    exec (.fencePeer c a) s = .next (settle (runsOn c true (fencePeer a (callRef c s) (begun c 0x4100 s))))) ∧
  (∀ (c : Call) (a : BitVec 128) (f : Fence) (r : Req) (s : State), Serves c 0x4101 r s → s.qe.fences.find? (fun f => f.addr == a) = some f →
    f.mb = none →
    exec (.unfencePeer c a) s =
      .next (okay c (modQe (fun q => { q with fences := q.fences.filter (fun f => f.addr != a) }) (begun c 0x4101 s)))) ∧
  (∀ (c : Call) (cursor : Nat) (r : Req) (s : State), Serves c 0x4102 r s → CursorOk c 0x4102 cursor r s →
    ∃ rows, exec (.readFences c cursor) s = .next (paged c 0x4102 cursor rows s) ∧ (c.func = 0 → rows.length = s.qe.fences.length)) ∧
  (∀ (c : Call) (cursor : Nat) (r : Req) (s : State), Serves c 0x4103 r s → CursorOk c 0x4103 cursor r s →
    ∃ rows, exec (.readPaths c cursor) s = .next (paged c 0x4103 cursor rows s) ∧
      rows.length = ((s.qe.qps.filter (fun e => e.2.part == r.part && e.2.typ != 2)).map (fun e => e.2.x.nPaths)).sum) ∧
  (∀ (c : Call) (cursor : Nat) (r : Req) (s : State), Serves c 0x4104 r s → CursorOk c 0x4104 cursor r s →
    exec (.readCc c cursor) s = .next (paged c 0x4104 cursor
      [[s.qe.cc.targetNs, s.qe.cc.betaM, s.qe.cc.betaMaxM, s.qe.cc.betaEcnM, s.qe.cc.ai, s.qe.cc.minW, s.qe.cc.maxW, s.qe.cc.initW,
        s.qe.cc.baseAgeS, s.qe.cc.rtoMinNs, s.qe.cc.rnrDlyUs, s.qe.ptPort]] s)) ∧
  (∀ (c : Call) (p : CcSet) (r : Req) (s : State), Serves c 0x4851 r s → ccOk' (applyCc p s.qe.cc) = true →
    exec (.setCc c p) s = .next (okay c (modQe (fun e => { e with cc := applyCc p s.qe.cc }) (begun c 0x4851 s)))) ∧
  (∀ (c : Call) (port : Nat) (r : Req) (s : State), Serves c 0x4852 r s → 1 ≤ port → port ≤ 65535 → port ≠ s.qe.ptPort →
    exec (.setPtPort c port) s =
      .next (okay c (modQe (fun e => { e with oldPort := some e.ptPort, ptPort := port }) (begun c 0x4852 s)))) ∧
  (∀ (s : State), exec .ptPortGraceEnd s = .next (modQe (fun e => { e with oldPort := none }) s))

/-- Collective groups (R295 to R300): CREATE_GROUP answers a handle and reads the ranks it must reach, DESTROY_GROUP frees them, SET_GROUP_MODE
stages a mode under the next epoch, SET_ACCUM_SHARE changes a partition's share. -/
def Obligations.CollectiveGroupsComplete : Prop :=
  (∀ (c : Call) (es : List CEdge) (u : State) (r : Req) (s : State), Serves c 0x4200 r s →
    groupFieldsOk (CGroup.parse r.part r.payload) r.payload = true →
    s.cu.groups.any (fun e => e.2.tag == (CGroup.parse r.part r.payload).tag) = false →
    readRanks r.part (leNat ((r.payload.drop 24).take 8)) (reachRanks (CGroup.parse r.part r.payload)) (begun c 0x4200 s) = (some es, u) →
    (∀ e ∈ es, edgeOk r.part e u = true ∧ edgeNotReady e u = false) → freshKey s.cu.groups < 65536 →
    (CGroup.parse r.part r.payload).nres = 0 →
    exec (.createGroup c) s = .next (replied c Config.ok
      (Body.nums [freshKey s.cu.groups, (modeAt (CGroup.parse r.part r.payload) 0).toNat])
      (bindEdges es (freshKey s.cu.groups + 1) (modCu (fun k => { k with
        groups := tset k.groups (freshKey s.cu.groups) { CGroup.parse r.part r.payload with edges := es } }) u)))) ∧
  (∀ (c : Call) (h : Nat) (g : CGroup) (r : Req) (s : State), Serves c 0x4201 r s → cgroup? h s = some g → g.part = r.part →
    s.cu.colls.any (fun e => e.2.group == h) = false → modeStaged h s = false →
    exec (.destroyGroup c h) s = .next (okay c (unreserve (fun x => x == .residual h)
      (bindEdges g.edges 0 (modCu (fun k => { k with groups := tdel k.groups h }) (begun c 0x4201 s)))))) ∧
  (∀ (c : Call) (h fmt q : Nat) (g : CGroup) (r : Req) (s : State), Serves c 0x4202 r s → cgroup? h s = some g → g.part = r.part →
    fmt < 256 → q < 2 ^ 32 → wireCvtOk (BitVec.ofNat 8 fmt) = true → g.nextSeq ≤ q → modeStaged h s = false →
    exec (.setGroupMode c h fmt q) s =
      .next (runsOn c false (stageChange (.groupMode h fmt q) (callRef c s) (begun c 0x4202 s)))) ∧
  (∀ (c : Call) (cursor : Nat) (r : Req) (s : State), Serves c 0x4203 r s → CursorOk c 0x4203 cursor r s →
    ∃ rows, exec (.readCollGroups c cursor) s = .next (paged c 0x4203 cursor rows s) ∧
      rows.map (fun e => e.headD 0) = tkeys (s.cu.groups.filter (fun e => sees c e.2.part s))) ∧
  (∀ (c : Call) (cursor : Nat) (r : Req) (s : State), Serves c 0x4204 r s → CursorOk c 0x4204 cursor r s →
    ∃ rows, exec (.readCollectives c cursor) s = .next (paged c 0x4204 cursor rows s) ∧
      rows.map (fun e => e.headD 0) =
        tkeys (s.cu.colls.filter (fun e => (cgroup? e.2.group s).any (fun g => sees c g.part s)))) ∧
  (∀ (c : Call) (mib : Nat) (r : Req) (s : State), Serves c 0x4860 r s → 1 ≤ mib → mib ≤ 16 →
    exec (.setAccumShare c mib) s = .next (settle (okay c (dropOverShare r.part
      (modPart r.part (fun p => { p with accumShare := mib * 1024 }) (begun c 0x4860 s))))))

/-- Collectives (R295, R301 to R317): a waiting one is admitted, messages are handled by their KIND, a finished chunk counts PROGRESS, and the collective
completes, or ends with its code once no write is outstanding. -/
def Obligations.CollectivesComplete : Prop :=
  (∀ (id : Nat) (s : State), admissible id s = true → s.pm.tripped = false →
    exec (.collAdmit id) s = .next (settle (admitColl id (wakeFor 3 s)))) ∧
  (∀ (i die : Nat) (bs : List Byte) (s t : State), collWaiting i s = some (die, bs, t) → s.pm.tripped = false →
    ((CHead.parse bs).kind = 1 → exec (.collData i) s = .next (settle (collMessage die bs t))) ∧
    ((CHead.parse bs).kind = 2 → exec (.collCredit i) s = .next (settle (collMessage die bs t))) ∧
    ((CHead.parse bs).kind = 3 → exec (.collAbort i) s = .next (settle (collMessage die bs t)))) ∧
  (∀ (id k : Nat) (c : Coll) (g : CGroup) (s : State), coll? id s = some c → s.pm.tripped = false → cgroup? c.group s = some g →
    awaited g c = some k → c.admitted = true → c.ended = none →
    exec (.collPeerTimeout id) s = .next (settle (collFail id Config.ccRemoteOp k 4 s))) ∧
  (∀ (id chunk : Nat) (c : Coll) (g : CGroup) (s : State), coll? id s = some c → s.pm.tripped = false → chunk ∈ c.landed →
    cgroup? c.group s = some g →
    exec (.chunkFinished id chunk) s = .next (settle (tallyAdd g.part c.desc.progress 1
      (modColl id (fun c => { c with landed := c.landed.erase chunk, finished := c.finished ++ [chunk] }) s)))) ∧
  (∀ (id : Nat) (c : Coll) (g : CGroup) (s : State), coll? id s = some c → s.pm.tripped = false → cgroup? c.group s = some g →
    collReady g c = true →
    exec (.collComplete id) s = .next (settle (completeColl id g c s))) ∧
  (∀ (id code opspec : Nat) (c : Coll) (g : CGroup) (s : State), coll? id s = some c → s.pm.tripped = false → cgroup? c.group s = some g →
    c.ended = some (code, opspec) → s.xl.xfers.any (fun x => ofColl id x.2) = false →
    exec (.collEnd id) s = .next (settle (endColl id g c code opspec s)))

/-- Ports and rules of the pipeline (R321 to R331): SET_PORT changes a port, rules are edited in a staged set that COMMIT_RULES puts under
the next epoch and DISCARD_STAGED drops; the readbacks list them. -/
def Obligations.PortsAndRulesComplete : Prop :=
  (∀ (c : Call) (cursor : Nat) (r : Req) (s : State), Serves c 0x8000 r s → CursorOk c 0x8000 cursor r s →
    ∃ rows, exec (.readPorts c cursor) s = .next (paged c 0x8000 cursor rows s) ∧ rows.length = 8) ∧
  (∀ (c : Call) (port : Nat) (p : PortSet) (r : Req) (s : State), Serves c 0x8001 r s → portSetOk port p = true →
    p.mode = (port? port s).mode → p.reserveKiB ≤ (port? port s).reserveKiB →
    exec (.setPort c port p) s = .next (okay c (setPort port p (begun c 0x8001 s)))) ∧
  (∀ (node : Nat) (up : Bool) (s : State), nodeExists node s = true → (port? (nodePort node) s).enable = true → s.pm.tripped = false →
    exec (.portLinkState node up) s =
      .next (modPipe (fun p => { p with up := (p.up.filter (· != node)) ++ (if up then [node] else []) }) s)) ∧
  (∀ (c : Call) (edits : List RuleEdit) (conn : Option Bool) (u0 u1 : Option Nat) (empty : Bool) (r : Req) (s : State), Serves c 0x8010 r s →
    editsBad edits u0 u1 = false → rulesStaged s = false →
    residentRules s + (editRules edits (openStaged empty s).rules).length ≤ 65536 →
    exec (.writeRules c edits conn u0 u1 empty) s = .next (replied c Config.ok (Body.nums [(openStaged empty s).version])
      (modPipe (fun p => { p with staged := some { openStaged empty s with
        rules := editRules edits (openStaged empty s).rules
        conn := conn.getD (openStaged empty s).conn
        udf0 := u0.getD (openStaged empty s).udf0
        udf1 := u1.getD (openStaged empty s).udf1 } }) (begun c 0x8010 s)))) ∧
  (∀ (c : Call) (r : Req) (s : State), Serves c 0x8011 r s → s.pp.staged.isSome = true → rulesStaged s = false → s.pp.retiring.length < 2 →
    exec (.commitRules c) s = .next (runsOn c false (stageChange .rules (callRef c s) (begun c 0x8011 s)))) ∧
  (∀ (c : Call) (r : Req) (s : State), Serves c 0x8012 r s → s.pp.staged.isSome = true → rulesStaged s = false →
    exec (.discardStaged c) s = .next (okay c (modPipe (fun p => { p with staged := none }) (begun c 0x8012 s)))) ∧
  (∀ (c : Call) (cursor : Nat) (r : Req) (s : State), Serves c 0x8013 r s → CursorOk c 0x8013 cursor r s →
    exec (.readRules c cursor) s = .next (paged c 0x8013 cursor
      (ruleRows 0 s.pp.cur ++ ((s.pp.staged.map (ruleRows 1)).getD []) ++ ((s.pp.lastRetired.map (ruleRows 2)).getD [])) s))

/-- The scheduler, the meters and the gates (R335 to R345): settings are staged for the next refill, a timetable for its start; the gate clock is
stepped and disciplined; the readbacks list objects with their staged settings. -/
def Obligations.SchedulerCommandsComplete : Prop :=
  (∀ (c : Call) (q : Nat) (p : SchedSet) (r : Req) (s : State), Serves c 0x8020 r s → q < 65536 → schedOk p = true → parentOk 3 p = true →
    maySet c r.part 3 q s = true → mayHang c r.part 3 p s = true → (sched? (schedKey 3 q) s).next = none →
    exec (.setTxq c q p) s = .next (okay c (modSched (schedKey 3 q) (fun o => { o with next := some p }) (begun c 0x8020 s)))) ∧
  (∀ (c : Call) (k n : Nat) (p : SchedSet) (r : Req) (s : State), Serves c 0x8021 r s → k ≤ 2 → c.func = 0 → n < levelCount k →
    schedOk p = true → parentOk k p = true → (sched? (schedKey k n) s).next = none →
    exec (.setNode c k n p) s = .next (okay c (modSched (schedKey k n) (fun o => { o with next := some p }) (begun c 0x8021 s)))) ∧
  (∀ (c : Call) (g cl cn ql qn : Nat) (r : Req) (s : State), Serves c 0x8022 r s → g < 256 → cl + cn ≤ 4096 → ql + qn ≤ 65536 →
    exec (.setTxGrant c g cl cn ql qn) s =
      .next (okay c (modPart r.part (fun p => { p with txGrant := some (g, (cl, cn), (ql, qn)) }) (begun c 0x8022 s)))) ∧
  (∀ (c : Call) (cursor : Nat) (r : Req) (s : State), Serves c 0x8023 r s → CursorOk c 0x8023 cursor r s →
    ∃ rows, exec (.readSched c cursor) s = .next (paged c 0x8023 cursor (rows ++ schedFixed c s) s) ∧
      (c.func = 0 → rows.map (fun e => e.headD 0) = tkeys s.pp.sched)) ∧
  (∀ (c : Call) (die n : Nat) (p : MeterSet) (r : Req) (s : State), Serves c 0x8030 r s → meterOk die n p s = true →
    (∀ m, tget s.pp.meters (meterKey die n) = some m → m.next = none →
      exec (.setMeter c die n p) s = .next (okay c (modPipe (fun q => { q with
        meters := tset q.meters (meterKey die n) { m with next := some p } }) (begun c 0x8030 s)))) ∧
    (tget s.pp.meters (meterKey die n) = none → tget s.pp.newMeters (meterKey die n) = none →
      exec (.setMeter c die n p) s = .next (okay c (modPipe (fun q => { q with
        newMeters := tset q.newMeters (meterKey die n) p }) (begun c 0x8030 s))))) ∧
  (∀ (c : Call) (cursor : Nat) (r : Req) (s : State), Serves c 0x8031 r s → CursorOk c 0x8031 cursor r s →
    ∃ rows, exec (.readMeters c cursor) s = .next (paged c 0x8031 cursor rows s) ∧
      rows.length = s.pp.meters.length + s.pp.newMeters.length) ∧
  (∀ (c : Call) (port : Nat) (tt : Timetable) (r : Req) (s : State), Serves c 0x8040 r s → port < 8 → timetableOk tt = true →
    (gate? port s).staged = none →
    exec (.setTimetable c port tt) s = .next (okay c (gateNow port (modPipe (fun p => { p with
      gates := tset p.gates port { gate? port s with staged := some (tt, firstStart tt (gtimeNs s)) } }) (begun c 0x8040 s))))) ∧
  (∀ (c : Call) (cursor : Nat) (r : Req) (s : State), Serves c 0x8041 r s → CursorOk c 0x8041 cursor r s →
    ∃ rows, exec (.readTimetable c cursor) s = .next (paged c 0x8041 cursor rows s) ∧ rows.length = 8) ∧
  (∀ (c : Call) (incr : Nat) (step : Int) (r : Req) (s : State), Serves c 0x8042 r s → 10 * 2 ^ 32 * 999 ≤ incr * 1000 →
    incr * 1000 ≤ 10 * 2 ^ 32 * 1001 → step.natAbs ≤ 2 ^ 40 →
    exec (.setGateClock c incr step) s = .next (okay c (gatesNow (modPipe (fun p => { p with
      incr := incr, gtime := (((s.pp.gtime : Int) + step * 2 ^ 32) % 2 ^ 96).toNat }) (begun c 0x8042 s))))) ∧
  (∀ (c : Call) (cursor : Nat) (r : Req) (s : State), Serves c 0x8043 r s → CursorOk c 0x8043 cursor r s →
    exec (.readGateClock c cursor) s =
      .next (paged c 0x8043 cursor [[gtimeNs s, s.pp.gtime % 2 ^ 32, s.pp.incr, s.chip.lcount]] s))

/-- Histograms, report cards, rings and the refill interval (R334, R346 to R348). -/
def Obligations.PipelineReportsComplete : Prop :=
  (∀ (c : Call) (lo n k : Nat) (on : Bool) (r : Req) (s : State), Serves c 0x8050 r s → 1 ≤ n → lo + n ≤ 65536 → k ≤ 10 → c.func = 0 →
    (sampleQueues r.part lo n k on s.pp.hists).length ≤ 4096 →
    exec (.setHistogram c lo n k on) s =
      .next (okay c (modPipe (fun p => { p with hists := sampleQueues r.part lo n k on s.pp.hists }) (begun c 0x8050 s)))) ∧
  (∀ (c : Call) (cursor : Nat) (r : Req) (s : State), Serves c 0x8051 r s → CursorOk c 0x8051 cursor r s →
    ∃ rows, exec (.readHistogram c cursor) s = .next (paged c 0x8051 cursor rows s) ∧
      rows.map (fun e => e.headD 0) = tkeys (cardHists c.func s)) ∧
  (∀ (c : Call) (p : CardSet) (r : Req) (s : State), Serves c 0x8052 r s → cardOk c r.part p s = true →
    (tget s.pp.cards c.func).any (fun k => k.stalled.isSome) = false →
    exec (.setReportCard c p) s = .next (okay c (modPipe (fun x => { x with
      cards := tset x.cards c.func {
        set := if c.func = 0 then p else { p with sections := p.sections &&& 0x14 }, seq := 0, missed := 0, stalled := none } })
      (begun c 0x8052 s)))) ∧
  (∀ (c : Call) (k : Card) (r : Req) (s : State), Serves c 0x8053 r s → tget s.pp.cards c.func = some k →
    exec (.takeReportCard c) s = .next (settle (okay c (takeCard c.func (begun c 0x8053 s))))) ∧
  (∀ (c : Call) (cursor : Nat) (r : Req) (s : State), Serves c 0x8054 r s → CursorOk c 0x8054 cursor r s →
    ∃ rows, exec (.readReportCard c cursor) s = .next (paged c 0x8054 cursor rows s) ∧
      rows.map (fun e => e.headD 0) = tkeys (s.pp.cards.filter (fun e => c.func == 0 || e.1 == c.func))) ∧
  (∀ (c : Call) (p : PuntSet) (r : Req) (s : State), Serves c 0x8060 r s → puntOk p = true → ringsBusy s = false →
    exec (.setPunt c p false) s = .next (okay c (modPipe (fun q => { q with
      punt := some p, puntTail := 0, puntWait := [], puntXfer := none, injDb := 0, injCi := 0, injLoop := .idle, injBusy := [] })
      (begun c 0x8060 s)))) ∧
  (∀ (c : Call) (n : Nat) (r : Req) (s : State), Serves c 0x8850 r s → 1 ≤ n → n ≤ 64 → refillStaged s = none →
    exec (.setRefill c n) s = .next (runsOn c false (stageChange (.refill n) (callRef c s) (begun c 0x8850 s)))) ∧
  (∀ (f : Nat) (k : Card) (s : State), tget s.pp.cards f = some k → k.set.periodMs ≠ 0 →
    exec (.reportCardPeriod f) s = .next (settle (takeCard f s)))

/-- Frames (R322 to R340) and the pipeline's events: a frame that R322 keeps is stored and handled, one it drops is counted; the head of the selected
queue leaves at its port; a refill applies staged settings; fragment entries expire; a gate change is put in force. -/
def Obligations.FramesComplete : Prop :=
  (∀ (node : Nat) (bytes : List Byte) (miss : Option Nat) (ecc : List EccHit) (room : Room) (bad : Bool) (s t : State), node ∈ s.pp.up →
    rxBad node bytes s = false → pipeInReset (nodeDie node) s = false →
    findRoom (nodePort node) bytes.length (nodeCount node 1 bytes.length (nodeCount node 0 1 s)) = some room →
    bufferFindings ecc (takeRoom room (nodeCount node 1 bytes.length (nodeCount node 0 1 s))) = (bad, t) →
    (bad = false → exec (.ethFrameRx node bytes ⟨miss, ecc⟩) s = .next (settle (handleFrame node bytes room miss t))) ∧
    (bad = true → exec (.ethFrameRx node bytes ⟨miss, ecc⟩) s =
      .next (settle (freeRoom room (pcount (nodeDie node) 0 1 (nodeCount node 4 1 t)))))) ∧
  (∀ (node : Nat) (bytes : List Byte) (miss : Option Nat) (ecc : List EccHit) (s : State), node ∈ s.pp.up → rxBad node bytes s = true →
    isPause bytes = false →
    exec (.ethFrameRx node bytes ⟨miss, ecc⟩) s = .next (pcount (nodeDie node) 0 1 (nodeCount node 4 1
      (nodeCount node 1 bytes.length (nodeCount node 0 1 s))))) ∧
  (∀ (node : Nat) (miss : Option Nat) (ecc : List EccHit) (ks : List Nat) (f : TxFrame) (rest : List TxFrame) (bad : Bool) (s t v : State),
    node ∈ s.pp.up → pickPath node 4 node s = some (ks, t) →
    (sched? (0x10000 + (ks.getLast?.getD 0x10000 - 0x10000)) t).frames = f :: rest →
    (if f.room.isSome then bufferFindings ecc t else (false, t)) = (bad, v) →
    (bad = false → exec (.txFrameSelect node ⟨miss, ecc⟩) s = .next (settle (kickStreams (chargePath ks f.bytes.length
      (sendTxFrame node (ks.getLast?.getD 0x10000 - 0x10000) f rest v))))) ∧
    (bad = true → exec (.txFrameSelect node ⟨miss, ecc⟩) s = .next (settle (kickStreams
      (dropTxFrame (nodeDie node) (ks.getLast?.getD 0x10000 - 0x10000) f rest v))))) ∧
  (∀ (die i : Nat) (s : State), exec (.fragEntryExpiry die i) s =
    .next (modPipe (fun p => { p with frags := tset p.frags die ((frags? die s).eraseIdx i) }) s)) ∧
  (∀ (s : State), (s.pp.refills + 1) % 64 ≠ 0 →
    exec .refill s = .next (settle (kickStreams (modPipe (fun p => { p with
      meters := p.newMeters.foldl (fun t e => tset t e.1 (newMeter e.2)) (p.meters.map (fun e => (e.1, refillMeter s.pp.refillQ e.2)))
      newMeters := []
      sched := p.sched.map (fun e => (e.1, refillSched s.pp.refillQ e.2))
      refills := p.refills + 1
      refillQ := p.refillNext.getD s.pp.refillQ
      refillNext := none }) s)))) ∧
  (∀ (port : Nat) (s : State), exec (.gateChange port) s = .next (gateNow port s))

/-- Connections and namespaces (R351 to R354, R361): STORAGE_CONNECT raises five queue pairs and sets the connection up at the lowest free number,
STORAGE_DISCONNECT drops them; a namespace is defined, attached, detached and destroyed under its handle; NS_SET_CACHE gives or takes its read cache. -/
def Obligations.NamespacesComplete : Prop :=
  (∀ (c : Call) (p : ConnSet) (m n : Nat) (qs : List Nat) (r : Req) (s u : State), Serves c 0x6010 r s → connSetOk r.part p s = true →
    lowestFree (tkeys s.sb.conns) 0 256 = some n → createQps r.part (connBound n) p p.peers (begun c 0x6010 s) = some (qs, u) →
    exec (.storageConnect c p (some m)) s = .next (settle (replied c Config.ok (Body.nums [n]) (modSb (fun b => { b with conns := tset b.conns n {
      part := r.part, addr := p.addr, typ := p.type, subnqn := p.subnqn, hostnqn := p.hostnqn, admin := qs.headD 0,
      io := qs.drop 1, depth := min 128 (m + 1), online := true, released := false, credits := s.sb.weights,
      reached := 0, last := [], nextCid := 0, out := [] } }) u)))) ∧
  (∀ (c : Call) (n : Nat) (k : Conn) (r : Req) (s : State), Serves c 0x6011 r s → conn? n s = some k → (∀ e ∈ s.sb.nss, e.2.conn ≠ n) →
    exec (.storageDisconnect c n) s = .next (settle (okay c ((connQps k).foldl (fun x q => dropQp q (quietQp q x))
      (modSb (fun b => { b with conns := tdel b.conns n }) (begun c 0x6011 s)))))) ∧
  (∀ (c : Call) (conn nsid h : Nat) (nonatomic : Bool) (x : TargetNs) (k : Conn) (r : Req) (s : State), Serves c 0x6020 r s →
    conn? conn s = some k → k.online = true → x.blockSize = 512 ∨ x.blockSize = 4096 → atomicOk x = true ∨ nonatomic = true →
    nssOf k.part s < ((part? k.part s).map Part.namespaces).getD 0 → lowestFree (tkeys s.sb.nss) 1 4095 = some h →
    exec (.nsCreate c conn nsid nonatomic (some x)) s = .next (replied c Config.ok (Body.nums [h]) (modSb (fun b => { b with nss := tset b.nss h {
      conn := conn, nsid := nsid, bs := x.blockSize, blocks := x.blocks, nonatomic := !atomicOk x, attached := [], cache := none, lines := [] } })
      (begun c 0x6020 s)))) ∧
  (∀ (c : Call) (h : Nat) (n : Ns) (r : Req) (s : State), Serves c 0x6021 r s → ns? h s = some n → n.attached = [] →
    exec (.nsDestroy c h) s = .next (okay c (modSb (fun b => { b with nss := tdel b.nss h }) (begun c 0x6021 s)))) ∧
  (∀ (c : Call) (h f : Nat) (n : Ns) (r : Req) (s : State), Serves c 0x6022 r s → ns? h s = some n → f < 256 →
    nsPart n s = some (funcPart f s) → f ∉ n.attached → s.sb.nss.countP (fun e => e.2.attached.contains f) < 256 →
    exec (.nsAttach c h f) s = .next (okay c (modNs h (fun n => { n with attached := n.attached ++ [f] }) (begun c 0x6022 s)))) ∧
  (∀ (c : Call) (h f : Nat) (n : Ns) (r : Req) (s : State), Serves c 0x6022 r s → ns? h s = some n → f ∈ n.attached →
    s.sb.tasks.any (fun e => decide (e.1 ≤ serialKey) && taskFunc e.1 == f && e.2.cmd.ns == h) = false →
    exec (.nsDetach c h f) s =
      .next (okay c (modNs h (fun n => { n with attached := n.attached.filter (· != f) }) (begun c 0x6022 s)))) ∧
  (∀ (c : Call) (h base size : Nat) (n : Ns) (r : Req) (s : State), Serves c 0x6023 r s → ns? h s = some n →
    size = 0 ∨ cacheOk ((nsPart n s).getD 64) base size s = true →
    s.sb.tasks.any (fun e => e.2.cmd.ns == h && e.2.phase != .queued) = false →
    exec (.nsSetCache c h base size) s = .next (okay c (modNs h (fun n => { n with
      cache := if size = 0 then none else some (base, size), lines := [] }) (begun c 0x6023 s))))

/-- Settings and readbacks of the storage function (R360, R363 to R365, R368, R369): each command changes the one setting it names. -/
def Obligations.StorageSettingsComplete : Prop :=
  (∀ (c : Call) (f q : Nat) (r : Req) (s : State), Serves c 0x6030 r s → f < 256 → c.func = 0 ∨ f = c.func → (sbFunc f s).frozen = true →
    (sbFunc f s).errSeq = q →
    exec (.storageRestart c f q false) s = .next (okay c (modSbFunc f (fun x => { x with frozen := false })
      (modSbFunc f (fun x => { x with readSeq := q }) (begun c 0x6030 s))))) ∧
  (∀ (c : Call) (f d : Nat) (us : List Nat) (r : Req) (s : State), Serves c 0x6031 r s → f < 256 → c.func = 0 ∨ f = c.func → d ≤ 3 →
    idleOk us = true →
    exec (.setStoragePower c f us d) s =
      .next (okay c (modSbFunc f (fun x => { x with idleUs := us, deepest := d }) (begun c 0x6031 s)))) ∧
  (∀ (c : Call) (cls : Nat) (r : Req) (s : State), Serves c 0x6032 r s → cls ≤ 3 →
    exec (.setClassLimit c cls) s = .next (okay c (modPart r.part (fun p => { p with classLimit := cls }) (begun c 0x6032 s)))) ∧
  (∀ (c : Call) (h m l : Nat) (r : Req) (s : State), Serves c 0x6850 r s → (∀ w ∈ [h, m, l], 1 ≤ w ∧ w ≤ 255) →
    exec (.setStorageArb c h m l) s = .next (okay c (modSb (fun b => { b with weights := [h, m, l] }) (begun c 0x6850 s)))) ∧
  (∀ (c : Call) (serial : Bool) (r : Req) (s : State), Serves c 0x6851 r s → s.sb.serial = none →
    s.sb.tasks.any (fun e => decide (e.1 ≤ serialKey)) = false →
    exec (.setStorageMode c serial) s = .next (okay c (modSb (fun b => { b with serialMode := serial }) (begun c 0x6851 s)))) ∧
  (∀ (c : Call) (cursor : Nat) (r : Req) (s : State), Serves c 0x6000 r s → CursorOk c 0x6000 cursor r s →
    ∃ rows, exec (.readStorage c cursor) s = .next (paged c 0x6000 cursor rows s) ∧
      [2, s.sb.serialMode.toNat, s.sb.serial.isSome.toNat] ++ s.sb.weights ∈ rows) ∧
  (∀ (c : Call) (cursor : Nat) (r : Req) (s : State), Serves c 0x6001 r s → CursorOk c 0x6001 cursor r s →
    ∃ rows, exec (.readStorageErrlog c cursor) s = .next (paged c 0x6001 cursor rows s) ∧
      rows.length = (sbFunc c.func s).log.length + 1)

/-- A connection at work (R353, R357, R358, R360, R368): a pick starts the command that R360 chooses, a response ends its target command, a lost
target takes the connection down and a reconnection raises its queue pairs; a function sinks through its power states and wakes. -/
def Obligations.StorageEventsComplete : Prop :=
  (∀ (n k : Nat) (c d : Conn) (s : State), n < 256 → conn? n s = some c → pick n c s = some (k, d) →
    exec (.storagePick n) s =
      .next (settle (startTask k (modConn n (fun _ => { d with released := d.released && decide (k < serialKey) }) s)))) ∧
  (∀ (i n f k : Nat) (bs data : List Byte) (c : Conn) (e : CidEnt) (s t : State), takeResponse i s = some (n, bs, t) → conn? n t = some c →
    tget c.out (u bs 12 2) = some e → e.owner = .task f k →
    exec (.targetResponse i data) s = .next (settle (kickConn n (taskResponse (taskKey f k) (nvStatus bs) e.blocks
      ((((task? (taskKey f k) (modConn n (fun c => { c with out := tdel c.out (u bs 12 2) }) t)).bind
        (fun x => ns? x.cmd.ns (modConn n (fun c => { c with out := tdel c.out (u bs 12 2) }) t))).map Ns.bs).getD 0) data
      (modConn n (fun c => { c with out := tdel c.out (u bs 12 2) }) t))))) ∧
  (∀ (n : Nat) (c : Conn) (s : State), conn? n s = some c → c.online = true →
    exec (.keepAlive n false) s = .next (settle (loseConn n s))) ∧
  (∀ (n : Nat) (c : Conn) (peers : List (Nat × Nat)) (s : State), conn? n s = some c → c.online = false → peers.length = 5 →
    exec (.reconnectAttempt n true peers) s = .next (settle (modConn n (fun c => { c with online := true, released := false, out := [] })
      (((connQps c).zip peers).foldl (fun (t : State) (e : Nat × (Nat × Nat)) => modQp e.1 (fun q => raiseQp t.qe.cc {
        addr := c.addr, type := c.typ, subnqn := c.subnqn, hostnqn := c.hostnqn, peers := peers, txq := q.txq, portMask := q.x.portMask }
        e.2 (connBound n) q) (quietQp e.1 t)) s)))) ∧
  (∀ (f : Nat) (s : State), liveTasks f s = 0 → (sbFunc f s).waking = false → (sbFunc f s).sps < (sbFunc f s).deepest →
    exec (.spsIdle f) s = .next (releaseConns (modSbFunc f (fun x => { x with sps := x.sps + 1 }) s))) ∧
  (∀ (f : Nat) (s : State), (sbFunc f s).waking = true →
    exec (.spsExitDone f false) s = .next (modSb (fun b => { b with conns := b.conns.map (fun (e : Nat × Conn) =>
      (e.1, { e.2 with
        released := e.2.released && !(connFuncs e.1 s).contains f })) })
      (bump (bkStorage f) 6 1 (modSbFunc f (fun x => { x with sps := 0, waking := false }) s))))

/-- Serial mode (R365 to R367): the port runs one command; XFER_RDY grants a range of a READ, write data fills the granted range, NAK sends the last
packet again, and 100 ms without the host end the command with 0x09; a packet that does not check is answered with NAK. -/
def Obligations.SerialModeComplete : Prop :=
  (∀ (bs : List Byte) (s : State), s.sb.serialMode = true → sbspOk bs = true → sbspType bs = 1 → s.sb.serial = none →
    serialBad (sbspBody bs) s = 0 → (TaskCmd.parse (sbspBody bs)).opc ≠ 2 →
    exec (.sbspCmd bs) s = .next (settle (queueSerial (TaskCmd.parse (sbspBody bs)) [] (modSb (fun b => { b with serial := some {
      tag := sbspTag bs, cmd := TaskCmd.parse (sbspBody bs), data := [], grant := none, ready := false, sent := 0, atTarget := false, cid := 0 } })
      s)))) ∧
  (∀ (bs : List Byte) (s : State), s.sb.serialMode = true → sbspOk bs = false →
    exec (.sbspCmd bs) s = .next (settle (sbspNakFor bs s)) ∧ exec (.xferRdy bs) s = .next (settle (sbspNakFor bs s)) ∧
    exec (.sbspData bs) s = .next (settle (sbspNakFor bs s)) ∧ exec (.sbspNak bs) s = .next (sbspNakFor bs s)) ∧
  (∀ (bs : List Byte) (r : Serial) (s : State), s.sb.serialMode = true → sbspOk bs = true → sbspType bs = 2 → s.sb.serial = some r →
    r.tag = sbspTag bs → r.cmd.opc = 1 → (sbspBody bs).length = 12 → 1 ≤ leNat (((sbspBody bs).drop 8).take 4) →
    leNat (((sbspBody bs).drop 8).take 4) ≤ 65536 →
    leNat ((sbspBody bs).take 8) + leNat (((sbspBody bs).drop 8).take 4) ≤ serialBytes r.cmd s →
    exec (.xferRdy bs) s = .next (settle (answerXferRdy (modSb (fun b => { b with serial := some { r with
      grant := some (leNat ((sbspBody bs).take 8), leNat (((sbspBody bs).drop 8).take 4)) } }) s)))) ∧
  (∀ (bs : List Byte) (r : Serial) (o n : Nat) (s : State), s.sb.serialMode = true → sbspOk bs = true → sbspType bs = 3 →
    s.sb.serial = some r → r.tag = sbspTag bs → r.cmd.opc = 2 → r.grant = some (o, n) →
    (r.data ++ sbspBody bs).length < o + n →
    exec (.sbspData bs) s = .next (settle (modSb (fun b => { b with serial := some { r with data := r.data ++ sbspBody bs } }) s))) ∧
  (∀ (bs : List Byte) (s : State), s.sb.serialMode = true → sbspOk bs = true → sbspType bs = 5 → s.sb.lastSent ≠ [] →
    sbspTag s.sb.lastSent = sbspTag bs → exec (.sbspNak bs) s = .next (emit (.sbsp s.sb.lastSent) s)) ∧
  (∀ (r : Serial) (s : State), s.sb.serial = some r → r.grant.isSome = true → r.cmd.opc = 2 →
    exec .sbspWaitTimeout s = .next (settle (failSerial Config.ccFlushed s)))

/-- Checkpoint opcodes (R372 to R374, R378, R388, R392, R393): a set-up is made and torn down, staging, trust and rate are set; a save, restore or
rebuild whose descriptor passes becomes a job, and CKPT_CANCEL ends one with FLUSHED. -/
def Obligations.CheckpointCommandsComplete : Prop :=
  (∀ (c : Call) (runId h0 h1 size i : Nat) (ds : List Duty) (r : Req) (s t1 t2 u : State), Serves c 0x7000 r s → 0 < runId → runId < 2 ^ 64 →
    (∀ e ∈ s.ck.setups, e.2.runId ≠ runId) → size % 65536 = 0 → 0 < size → size ≤ 2 ^ 36 →
    rangeInGddr r.part (size / 65536 + 2) h0 size (begun c 0x7000 s) = (true, t1) →
    rangeInGddr r.part (size / 65536 + 2) h1 size t1 = (true, t2) → lowestFree (tkeys t2.ck.setups) 0 16 = some i →
    reserveDuties i size (dutiesOf {
      part := r.part, runId := runId, addrs := [h0, h1], halfSize := size, g := groupSize (levelNow t2), n := t2.jl.rc.size,
      level := levelNow t2, halves := [Half.fresh, Half.fresh], duties := [], lastStep := 0 } (ownAddr t2)) t2 = some (ds, u) →
    exec (.ckptSetup c runId h0 h1 size) s =
      .next (replied c Config.ok (Body.nums [i, groupSize (levelNow t2), t2.jl.rc.size, levelNow t2])
        (modCk (fun k => { k with setups := tset k.setups i {
          part := r.part, runId := runId, addrs := [h0, h1], halfSize := size, g := groupSize (levelNow t2), n := t2.jl.rc.size,
          level := levelNow t2, halves := [Half.fresh, Half.fresh], duties := ds, lastStep := 0 } }) u))) ∧
  (∀ (c : Call) (runId i : Nat) (st : Setup) (r : Req) (s : State), Serves c 0x7001 r s → setupOf runId s = some (i, st) → st.part = r.part →
    (∀ e ∈ s.ck.jobs, e.2.setup ≠ i) →
    exec (.ckptTeardown c runId) s = .next (okay c (unreserve (fun x => match x with
      | .parity _ k => k == i
      | _ => false) (modCk (fun k => { k with setups := tdel k.setups i }) (begun c 0x7001 s))))) ∧
  (∀ (c : Call) (addr j : Nat) (bs : List Byte) (r : Req) (s t u : State), Serves c 0x7010 r s →
    vaRead r.part addr 128 (begun c 0x7010 s) = (some bs, t) → acceptSave r.part bs t = .ok u (Body.nums [j]) →
    exec (.ckptSave c addr) s = .next (settle (replied c Config.ok (Body.nums [j]) u))) ∧
  (∀ (c : Call) (addr j : Nat) (bs : List Byte) (r : Req) (s t u : State), Serves c 0x7011 r s →
    vaRead r.part addr 64 (begun c 0x7011 s) = (some bs, t) → acceptRestore r.part bs t = .ok u (Body.nums [j]) →
    exec (.ckptRestore c addr) s = .next (settle (replied c Config.ok (Body.nums [j]) u))) ∧
  (∀ (c : Call) (p : RebuildSet) (i h j : Nat) (st : Setup) (r : Req) (s u : State), Serves c 0x7012 r s →
    setupOf p.runId s = some (i, st) → st.part = r.part → (∀ q ∈ rebuildStreams p, q.addr ≠ 0 ∧ q.addr ≤ 65534) →
    ((rebuildStreams p).map Stream.addr).eraseDups.length = ((rebuildStreams p).map Stream.addr).length → tallyField r.part p.tally s = true →
    cqField r.part p.cq s = true → p.step < 2 ^ 64 → freeHalf i st (begun c 0x7012 s) = some h →
    addJob { newJob r.part i .rebuild .armed h p.wrid p.cq p.tally with usedStep := p.step, streams := rebuildStreams p } (begun c 0x7012 s) =
      some (j, u) →
    exec (.ckptRebuild c p) s = .next (settle (replied c Config.ok (Body.nums [j]) (beginCk j u)))) ∧
  (∀ (c : Call) (j : Nat) (x : CkJob) (r : Req) (s : State), Serves c 0x7013 r s → ckJob? j s = some x → x.part = r.part →
    exec (.ckptCancel c j) s = .next (settle (okay c (ckFail j Config.ccFlushed 11 (phaseNo x.phase) (begun c 0x7013 s))))) ∧
  (∀ (c : Call) (base size : Nat) (r : Req) (s : State), Serves c 0x7021 r s →
    (size = 0 → exec (.setStaging c base size) s = .next (okay c (modPart r.part (fun p => { p with staging := [] }) (begun c 0x7021 s)))) ∧
    (size ≠ 0 → base % 65536 = 0 → size % 65536 = 0 → stagingLo ≤ base → base + size ≤ stagingHi →
      s.parts.any (fun e => e.1 != r.part && e.2.staging.any (fun g => overlap base size g.2.1 g.2.2)) = false →
      exec (.setStaging c base size) s = .next (okay c (modPart r.part (fun p => { p with
        staging := [(0, base, size), (1, base, size), (2, base, size), (3, base, size)] }) (begun c 0x7021 s))))) ∧
  (∀ (c : Call) (ds : List (BitVec 256)) (r : Req) (s : State), Serves c 0x7022 r s → ds.length ≤ 64 →
    exec (.ckptSetTrust c ds) s = .next (okay c (modPart r.part (fun p => { p with trust := ds }) (begun c 0x7022 s)))) ∧
  (∀ (c : Call) (gb : Nat) (r : Req) (s : State), Serves c 0x7850 r s → gb ≤ 800 →
    exec (.ckptSetRate c gb) s = .next (okay c (modCk (fun k => { k with rateGb := gb }) (begun c 0x7850 s)))) ∧
  (∀ (c : Call) (cursor : Nat) (r : Req) (s : State), Serves c 0x7020 r s → CursorOk c 0x7020 cursor r s →
    ∃ rows, exec (.ckptRead c cursor) s = .next (paged c 0x7020 cursor rows s) ∧ [4, s.ck.rateGb] ∈ rows)

/-- Checkpoint jobs and the messages between devices (R378, R381 to R387, R391, R392): each event moves a job from the phase in which it stands, and
each message of Table 13-4 leaves the queue and has its effect. -/
def Obligations.CheckpointEventsComplete : Prop :=
  (∀ (j : Nat) (x : CkJob) (s : State), ckJob? j s = some x →
    (x.phase = .armed → armPassed x s = true →
      (x.kind = .save → exec (.ckptArmedStart j) s = .next (settle (startCapture j (wakeFor 3 s)))) ∧
      (x.kind = .restore → exec (.ckptArmedStart j) s =
        .next (settle (startRestore j (modJob j (fun x => { x with phase := .readManifest }) (wakeFor 3 s))))) ∧
      (x.kind = .rebuild → exec (.ckptArmedStart j) s =
        .next (settle (startRebuild x (modJob j (fun x => { x with phase := .rebuild }) (wakeFor 3 s)))))) ∧
    (x.phase = .seal → exec (.sealDone j) s = .next (settle (commitManifest j (sealHalf j s)))) ∧
    (x.phase = .drain → x.todo = [] → x.busy = false → exec (.drainDone j) s = .next (settle (commitManifest j (drained j s)))) ∧
    (x.phase = .commit → x.todo = [] → x.busy = false → exec (.manifestCommit j) s = .next (settle (ckComplete j x 0 0 (x.writer.toNat +
      2 * (((setup? x.setup s).map (fun st => (half? st x.half).prot)).getD false).toNat + 4 + 8 * x.skipped.toNat) s))) ∧
    (x.kind ≠ .rebuild → x.phase ≠ .manifest →
      exec (.ckptJobTimeout j) s = .next (settle (ckFail j Config.ccFlushed 10 (min 4 (phaseNo x.phase)) s))) ∧
    (x.kind = .save → x.phase = .manifest →
      exec (.ckptJobTimeout j) s =
        .next (settle (ckFail j Config.ccRemoteOp 3 ((x.save.map SaveDesc.nshards).getD 0 - x.records.length) s))) ∧
    (x.phase = .place → x.reads = [] → exec (.ckptRestoreDone j) s = .next (settle (ckComplete j x 0 0 0 (writeResult' x s))))) ∧
  (∀ (j : Nat) (x y : CkJob) (s : State), ckJob? j s = some x → x.phase = .capture → x.reads = [] → ckJob? j (captureTiles j s) = some y →
    y.tiles = [] →
    exec (.captureDone j) s = .next (settle (tallyAdd y.part ((y.save.map SaveDesc.capTally).getD 0xFFFF) 1
      (modHalf y.setup y.half (fun h => { h with hstate := .captured }) (modJob j (fun x => { x with phase := .seal }) (captureTiles j s)))))) ∧
  (∀ (i : Nat) (m : FwdIn) (s t : State), s.jl.arrived[i]? = some m → m.cls = 2 →
    t = { s with jl := { s.jl with arrived := s.jl.arrived.eraseIdx i } } →
    ((CkHead.parse m.data).kind = 1 → exec (.parityMsg i) s =
      .next (settle (takeParity false (CkHead.parse m.data) ((m.data.drop 32).take (CkHead.parse m.data).len) t))) ∧
    ((CkHead.parse m.data).kind = 6 → exec (.mirrorMsg i) s =
      .next (settle (takeParity true (CkHead.parse m.data) ((m.data.drop 32).take (CkHead.parse m.data).len) t))) ∧
    ((CkHead.parse m.data).kind = 2 → exec (.parityAck i) s = .next (settle (takeParityAck (CkHead.parse m.data) t))) ∧
    ((CkHead.parse m.data).kind = 3 → manifestJob (CkHead.parse m.data)
        (takeRecord (CkHead.parse m.data) ((m.data.drop 32).take (CkHead.parse m.data).len) t) = none →
      exec (.shardRecord i []) s =
        .next (settle (takeRecord (CkHead.parse m.data) ((m.data.drop 32).take (CkHead.parse m.data).len) t))) ∧
    ((CkHead.parse m.data).kind = 4 → exec (.rebuildReq i) s = .next (settle (takeRebuildReq (CkHead.parse m.data) t))) ∧
    ((CkHead.parse m.data).kind = 5 → exec (.rebuildData i) s =
      .next (settle (takeRebuildData (CkHead.parse m.data) ((m.data.drop 32).take (CkHead.parse m.data).len) t))) ∧
    (∀ (j : Nat) (x : CkJob), (CkHead.parse m.data).kind = 7 → rebuildJob (CkHead.parse m.data) t = some (j, x) →
      exec (.refuseMsg i) s = .next (settle (ckFail j Config.ccFenced 9 (CkHead.parse m.data).src t))))

/-- Keys, cipher rings and fuses (R401 to R413, R420, R421): KEY_LOAD stores key material at a free slot, KEY_ERASE takes it out, the policy, the ring and
the cipher cores change as commanded, and SVN_COMMIT and KEY_REVOKE burn fuses; a computed descriptor leaves the engine with its outcome. -/
def Obligations.SecurityCommandsComplete : Prop :=
  (∀ (c : Call) (n : Nat) (r : Req) (s : State), Serves c 0x9010 r s → keyFieldsOk r.payload = true → u r.payload 1 1 = 0 →
    16 ≤ r.payload.length → r.payload.length = keyPayload (u r.payload 0 1) 0 (u r.payload 2 1) →
    xtsHalves (u r.payload 0 1) (u r.payload 2 1) (r.payload.drop 16) = false → ((part? r.part s).map Part.keyClear).getD false = true →
    keysOf r.part s + (u r.payload 0 1 == 1).toNat + 1 ≤ ((part? r.part s).map Part.keyLimit).getD 0 →
    freeKey (u r.payload 0 1 == 1) s = some n →
    exec (.keyLoad c) s = .next (replied c Config.ok (Body.nums [n])
      (storeKey r.part (u r.payload 0 1) (u r.payload 2 1) n (r.payload.drop 16) (begun c 0x9010 s)))) ∧
  (∀ (c : Call) (n : Nat) (k : KeySlot) (r : Req) (s : State), Serves c 0x9011 r s → keySlot? n s = some k → k.part = r.part →
    keyNamed n k s = false →
    exec (.keyErase c n) s = .next (okay c (modSec (fun x => { x with keys := (slotsWith n k).foldl tdel x.keys }) (begun c 0x9011 s)))) ∧
  (∀ (c : Call) (limit : Nat) (clear : Bool) (r : Req) (s : State), Serves c 0x9030 r s → limit ≤ 65536 → keysOf r.part s ≤ limit →
    exec (.setKeyPolicy c limit clear) s =
      .next (okay c (modPart r.part (fun p => { p with keyLimit := limit, keyClear := clear }) (begun c 0x9030 s)))) ∧
  (∀ (c : Call) (base log vec : Nat) (r : Req) (s : State), Serves c 0x9020 r s → base % 4096 = 0 → base < 2 ^ 57 → 4 ≤ log → log ≤ 12 →
    vec < vectors c.func → (∀ k, cring? r.part s = some k → k.db = k.di) →
    exec (.setCipherRing c base log vec) s = .next (okay c (modSec (fun x => { x with rings := tset x.rings r.part {
      base := base, log := log, func := c.func, vec := vec, db := 0, ci := 0, di := 0, status := 0, loop := .idle, descs := [] } })
      (begun c 0x9020 s)))) ∧
  (∀ (c : Call) (v : Nat) (r : Req) (s : State), Serves c 0x9031 r s → v ≤ 64 → s.chip.fusedSvn ≤ v → flashAtLeast v 0 s = true →
    flashAtLeast v 1 s = true →
    exec (.svnCommit c v) s = .next (okay c { begun c 0x9031 s with chip := { s.chip with fusedSvn := v } })) ∧
  (∀ (c : Call) (k : Nat) (r : Req) (s : State), Serves c 0x9850 r s → k ≤ 3 → flashNames k 0 s = false → flashNames k 1 s = false →
    (∃ j, j < 4 ∧ j ≠ k ∧ bitOf j s.chip.revoked = false) →
    exec (.keyRevoke c k) s = .next (okay c { begun c 0x9850 s with chip := { s.chip with revoked := s.chip.revoked ||| 2 ^ k } })) ∧
  (∀ (c : Call) (k : Nat) (r : Req) (s : State), Serves c 0x9851 r s → k < 22 → k ∈ s.sec.coresOut →
    exec (.cipherCoreEnable c k) s = .next (okay c (modSec (fun x => { x with
      coresOut := x.coresOut.filter (· != k), misses := tdel x.misses k }) (begun c 0x9851 s)))) ∧
  (∀ (c : Call) (cursor : Nat) (r : Req) (s : State), Serves c 0x9000 r s → CursorOk c 0x9000 cursor r s →
    ∃ rows, exec (.readSecurity c cursor) s = .next (paged c 0x9000 cursor rows s) ∧
      rows.head? = some [0, s.chip.bootImage.getD 255, s.chip.fusedSvn, s.chip.revoked]) ∧
  (∀ (c : Call) (cursor : Nat) (r : Req) (s : State), Serves c 0x9001 r s → CursorOk c 0x9001 cursor r s →
    ∃ rows, exec (.readIdentity c cursor) s = .next (paged c 0x9001 cursor rows s) ∧
      rows[1]? = some (1 :: words8 (Config.mlDsaPublic identitySeed))) ∧
  (∀ (c : Call) (cursor : Nat) (r : Req) (s : State), Serves c 0x9012 r s → CursorOk c 0x9012 cursor r s →
    ∃ rows, exec (.readKeys c cursor) s = .next (paged c 0x9012 cursor rows s) ∧
      rows.map (fun e => e.headD 0) = tkeys (s.sec.keys.filter (fun e => e.2.part == r.part))) ∧
  (∀ (c : Call) (cursor : Nat) (r : Req) (s : State), Serves c 0x9021 r s → CursorOk c 0x9021 cursor r s →
    ∃ rows, exec (.readCipherRing c cursor) s = .next (paged c 0x9021 cursor rows s) ∧
      rows.map (fun e => e.take 4) = ((cring? r.part s).map (fun k => [k.base, k.log, k.func, k.vec])).toList) ∧
  (∀ (part k : Nat) (ring : CipherRing) (p : StartedDesc → Bool) (e : StartedDesc) (out tag : List Byte) (code detail : Nat) (s : State),
    cring? part s = some ring → (∀ d, p d = true ↔ ∃ o t n m, d.st = .computed o t n m) → (ring.descs.filter p)[k]? = some e →
    e.st = .computed out tag code detail →
    exec (.descriptorDone part k none) s = .next (settle (releaseDesc part e out tag code detail s)))

/-- Attestation (R422 to R424, R413, R414): each SPDM request of version 1.3 that comes in its phase is answered in a DOE object and joins its transcript,
DOE Discovery lists the object types, and an abort resets the transcript. -/
def Obligations.AttestationCompletes : Prop :=
  (∀ (bs : List Byte) (s : State), responderUp s = true → 4 ≤ bs.length → u bs 1 1 = 0x84 → u bs 0 1 = 0x10 →
    exec (.getVersion bs) s = .next (modSpdm (fun _ => {
      phase := 1, transcript := bs ++ spdmMsg 0x10 0x04 0 0 [0, 1, 0x00, 0x13], certMsgs := [], measMsgs := [] })
      (sendDoe 1 (spdmMsg 0x10 0x04 0 0 [0, 1, 0x00, 0x13]) s))) ∧
  (∀ (bs : List Byte) (s : State), responderUp s = true → 4 ≤ bs.length → u bs 0 1 = 0x13 → u bs 1 1 = 0xE1 → s.sec.spdm.phase = 1 →
    exec (.getCapabilities bs) s = .next (modSpdm (fun x => { x with
      phase := 2, transcript := x.transcript ++ bs ++ spdmMsg 0x13 0x61 0 0 spdmCaps }) (sendDoe 1 (spdmMsg 0x13 0x61 0 0 spdmCaps) s))) ∧
  (∀ (bs : List Byte) (s : State), responderUp s = true → 4 ≤ bs.length → u bs 0 1 = 0x13 → u bs 1 1 = 0xE3 → s.sec.spdm.phase = 2 →
    algsOffered bs = true →
    exec (.negotiateAlgorithms bs) s = .next (modSpdm (fun x => { x with
      phase := 3, transcript := x.transcript ++ bs ++ spdmMsg 0x13 0x63 0 0 spdmAlgs }) (sendDoe 1 (spdmMsg 0x13 0x63 0 0 spdmAlgs) s))) ∧
  (∀ (bs chain : List Byte) (s : State), responderUp s = true → 4 ≤ bs.length → u bs 0 1 = 0x13 → 3 ≤ s.sec.spdm.phase → certChain = some chain →
    (u bs 1 1 = 0x81 →
      exec (.getDigests bs) s = .next (sendCert bs (spdmMsg 0x13 0x01 1 1 (shaBytes (spdmChain chain))) s)) ∧
    (u bs 1 1 = 0x82 → u bs 2 1 = 0 → 8 ≤ bs.length → u bs 4 2 < (spdmChain chain).length →
      ∃ n, n = min (u bs 6 2) (min ((spdmChain chain).length - u bs 4 2) 4080) ∧
        exec (.getCertificate bs) s = .next (sendCert bs (spdmMsg 0x13 0x02 0 0 (leBytes 2 n ++
          leBytes 2 ((spdmChain chain).length - u bs 4 2 - n) ++ ((spdmChain chain).drop (u bs 4 2)).take n)) s)) ∧
    (u bs 1 1 = 0x83 → u bs 2 1 = 0 → 44 ≤ bs.length → u bs 3 1 = 0 →
      ∃ m, m = spdmMsg 0x13 0x03 0 1 (shaBytes (spdmChain chain) ++ (drawNonce s).1 ++ [0, 0] ++ (bs.drop 36).take 8) ∧
        exec (.challenge bs []) s = .next (modSpdm (fun x => { x with certMsgs := [] }) (sendDoe 1
          (m ++ spdmSign chalContext (s.sec.spdm.transcript ++ s.sec.spdm.certMsgs ++ bs ++ m)) (drawNonce s).2)))) ∧
  (∀ (bs : List Byte) (blocks : List Nat) (s : State), responderUp s = true → 12 ≤ bs.length → u bs 0 1 = 0x13 → u bs 1 1 = 0xE0 →
    3 ≤ s.sec.spdm.phase → bitOf 0 (u bs 2 1) = false → measAsked (u bs 3 1) = some blocks →
    ∃ m, m = measMsg (u bs 3 1) blocks (drawNonce s).1 ((bs.drop 4).take 8) (drawNonce s).2 ∧
      exec (.getMeasurements bs []) s = .next (modSpdm (fun x => { x with measMsgs := s.sec.spdm.measMsgs ++ bs ++ m })
        (sendDoe 1 m (drawNonce s).2))) ∧
  (∀ s : State, exec .doeAbort s = .next (modSpdm (fun _ => Spdm.fresh) s)) ∧
  (∀ (i : Nat) (s : State), exec (.doeDiscovery i) s = .next (sendDoe 0
    (if i = 0 then [0x01, 0x00, 0x00, 0x01] else if i = 1 then [0x01, 0x00, 0x01, 0x00] else [0xFF, 0xFF, 0x00, 0x00]) s))

/-- Partitions (R31, R32, R447 to R449): PART_CREATE moves the grants of its payload from partition 0 to the new partition, PART_SET_SLOTS and
PART_SET_EXPERT change a grant, PART_DESTROY starts the steps of R449 and ends once everything has drained. -/
def Obligations.PartitionsComplete : Prop :=
  (∀ (c : Call) (n : Nat) (p : PartSet) (z : Part) (r : Req) (s : State), Serves c 0x2000 r s → r.part = 0 → p = PartSet.parse r.payload →
    partSetOk p s = true → p.slots = 0 → part? 0 s = some z → grantsMet p z s = true →
    (p.part = n ∧ n ≠ 0xFF ∧ part? n s = none) ∨ (p.part = 0xFF ∧ lowestFree (tkeys s.parts) 1 63 = some n) →
    exec (.partCreate c) s = .next (replied c Config.ok (Body.nums [n]) (trimPasses 0 {
      modPart 0 (fun z => { z with
        qps := z.qps - p.qps, cqs := z.cqs - p.cqs, passes := z.passes - p.passes, tallies := z.tallies - p.tallies,
        namespaces := z.namespaces - p.namespaces }) (begun c 0x2000 s) with
      parts := tset (modPart 0 (fun z => { z with
        qps := z.qps - p.qps, cqs := z.cqs - p.cqs, passes := z.passes - p.passes, tallies := z.tallies - p.tallies,
        namespaces := z.namespaces - p.namespaces }) s).parts n (Part.made p) }))) ∧
  (∀ (c : Call) (r : Req) (s t : State), Serves c 0x2001 r s → r.part ≠ 0 →
    t = modPart r.part (fun x => { x with destroying := true, destroyer := some (callRef c s) }) (begun c 0x2001 s) →
    exec (.partDestroy c) s = .next (settle (runsOn c true (unloadAll r.part (endWork r.part (failFaults r.part (revokeAll r.part
      (quiesceFuncs r.part t)))))))) ∧
  (∀ (part : Nat) (p : Part) (s : State), part? part s = some p → p.destroying = true → partDrained part s = true →
    exec (.partDestroyDone part) s = .next (settle (removePart part p s))) ∧
  (∀ (c : Call) (grant : Bool) (r : Req) (s : State), Serves c 0x2002 r s → r.part ≠ 0 →
    exec (.partSetExpert c grant) s = .next (okay c (modPart r.part (fun p => { p with expert := grant }) (begun c 0x2002 s)))) ∧
  (∀ (c : Call) (m n : Nat) (g : Group) (r : Req) (s : State), Serves c 0x2003 r s → n ≤ 16 → disabled 0 s = false →
    s.ti.jobs.any (fun e => e.2.part == r.part) = false → (group? r.part s).getD Group.fresh = g → g.pinned = false →
    g.slots.any (fun e => decide (n ≤ e.1) && slotLoading e.2) = false → ((part? r.part s).map Part.slots).getD 0 = m →
    (n = m → exec (.partSetSlots c n) s = .next (settle (okay c (begun c 0x2003 s)))) ∧
    (∀ t, m < n → g.phase = .waiting → grantSlots r.part n (withSlots m n g) (begun c 0x2003 s) = some t →
      exec (.partSetSlots c n) s = .next (settle (okay c (placeWaiting r.part t)))) ∧
    (n < m → g.phase ≠ .saving → g.phase ≠ .restoring →
      exec (.partSetSlots c n) s = .next (settle (okay c (releaseAreas (placeWaiting r.part (dropEmptyGroup r.part
        (((List.range m).drop n).foldl (dropSlot r.part) (modPart r.part (fun p => { p with slots := n }) (begun c 0x2003 s)))))))))) ∧
  (∀ (c : Call) (cursor : Nat) (r : Req) (s : State), Serves c 0x2010 r s → CursorOk c 0x2010 cursor r s →
    ∃ rows, exec (.readPartitions c cursor) s = .next (paged c 0x2010 cursor rows s) ∧
      rows.map (fun e => e.headD 0) = tkeys (s.parts.filter (fun e => sees c e.1 s)))

/-- Functions (R429, R430, R432, R435, R439, R441 to R445, R450, R451): assignment and service states, quiesces and their ends, resets seen from the
host, configuration space and MSI-X. -/
def Obligations.FunctionsComplete : Prop :=
  (∀ (c : Call) (f : Nat) (r : Req) (s : State), Serves c 0x2020 r s → 1 ≤ f → f < 256 → (func? f s).fstate = .disabled →
    exec (.funcAssign c f) s =
      .next (okay c (modFunc f (fun g => { g with part := r.part }) (detachAll f (resetLocal f false (begun c 0x2020 s)))))) ∧
  (∀ (c : Call) (f : Nat) (r : Req) (s : State), Serves c 0x2021 r s → 1 ≤ f → f < 256 → (func? f s).fstate = .disabled →
    partLive (funcPart f s) s = true →
    exec (.funcEnable c f) s = .next (settle (okay c (nowSends f (modFunc f (fun g => { g with fstate := .enabled }) (begun c 0x2021 s)))))) ∧
  (∀ (c : Call) (f : Nat) (r : Req) (s : State), Serves c 0x2022 r s → 1 ≤ f → f < 256 → (func? f s).fstate = .enabled →
    exec (.funcDisable c f) s =
      .next (settle (runsOn c true (beginQuiesce f 1 .disabled false false (some (callRef c s)) (begun c 0x2022 s))))) ∧
  (∀ (c : Call) (cursor : Nat) (r : Req) (s : State), Serves c 0x2011 r s → CursorOk c 0x2011 cursor r s →
    ∃ rows, exec (.readFunctions c cursor) s = .next (paged c 0x2011 cursor rows s) ∧
      rows.map (fun e => e.headD 0) = (List.range 256).filter (fun f => c.func == 0 || f == c.func)) ∧
  (∀ (f : Nat) (s : State),
    ((func? f s).fstate = .enabled → exec (.flr f) s = .next (settle (beginQuiesce f 2 .enabled true false none s))) ∧
    ((func? f s).fstate = .disabled → exec (.flr f) s = .next (settle (emit (.flrDone f) (resetLocal f true s)))) ∧
    ((func? f s).fstate = .quiescing → quiesced f s = true → exec (.quiesceEnd f) s = .next (settle (endQuiesce f s))) ∧
    ((func? f s).fstate = .quiescing → (func? f s).overdue = false → exec (.quiesceTimeout f) s = .next (settle (endUnder f s)))) ∧
  (∀ s : State, s.ep.vfEnable = true → exec .vfEnableClear s = .next (settle (quiesceVfs s))) ∧
  (∀ s : State, s.chip.asserted = none → (func? 0 (quiesceVfs s)).fstate = .enabled →
    exec (.hotReset false) s = .next (settle { beginQuiesce 0 3 .enabled false true none (quiesceVfs s) with
      ep := { (beginQuiesce 0 3 .enabled false true none (quiesceVfs s)).ep with hotReset := true, rrs := true } })) ∧
  (∀ (f v : Nat) (s : State), v < vectors f → (func? f s).unmasked.contains v = false →
    exec (.msixUnmask f v) s = .next (sendPending f (modFunc f (fun g => { g with unmasked := g.unmasked ++ [v] }) s))) ∧
  (∀ (f : Nat) (on : Bool) (s : State),
    exec (.configurationWrite f (.busMaster on)) s = .next (settle (nowSends f (modFunc f (fun g => { g with bme := on }) s))) ∧
    exec (.configurationWrite f (.dState on)) s = .next (settle (nowSends f (modFunc f (fun g => { g with d3 := on }) s))) ∧
    exec (.configurationWrite f (.tenBitTags on)) s = .next (settle (pumpWaiting (modFunc f (fun g => { g with tenBit := on }) s)))) ∧
  (∀ (code mib : Nat) (s : State),
    exec (.configurationWrite 0 .vfEnable) s = .next { s with ep := { s.ep with vfEnable := true } } ∧
    (code ≤ 2 → exec (.configurationWrite 0 (.maxPayload code)) s = .next { s with ep := { s.ep with mps := code } }) ∧
    (code ≤ 5 → exec (.configurationWrite 0 (.maxReadReq code)) s = .next { s with ep := { s.ep with mrrs := code } }) ∧
    (mib = 64 ∨ mib = 128 ∨ mib = 256 → exec (.configurationWrite 0 (.barSize 0 mib)) s = .next { s with ep := { s.ep with bar0Mib := mib } }))

/-- Bundles of the processor cores (R116, R138, R139, R460): a tile or firmware processor that issues runs the bundle at its PC, one
that waits tries it again; a bundle without exception commits all its slots' effects at once, and one with an exception stops its core. -/
def Obligations.BundlesComplete : Prop :=
  (∀ (t part slot : Nat) (ecc : List EccHit) (s : State), issues t s = some (part, slot) →
    ((tile? t s).waiting = false → exec (.bundleIssue (.tile t) ecc) s = .next (settle (runBundle t part slot ecc s))) ∧
    ((tile? t s).waiting = true → exec (.bundleResume (.tile t) ecc) s = .next (settle (runBundle t part slot ecc s)))) ∧
  (∀ (t part slot : Nat) (ecc : List EccHit) (b : List Nat) (bytes : List Byte) (x : Tile) (f : Flow) (a : Plan) (s u : State), x = tile? t s →
    b = fetchBundle (fun i => leNat (rdMem (spImem t) (4 * i) 4 s)) 65535 8 x.pc →
    readSpan part ecc (lineFuel (4 * b.length)) ⟨spImem t, 4 * x.pc⟩ (4 * b.length) s = .ok bytes u →
    f = flowOf 4 65535 x.pc b.length x.ix.toNat x.iy.toNat x.rstack (slotOf b 0) → a = evalBundle t part slot x b u →
    (bundleCause false b ≠ 0 → runBundle t part slot ecc s = tileFault t (bundleCause false b) u) ∧
    (bundleCause false b = 0 → interlocked x b = true → runBundle t part slot ecc s = modTile t (fun x => { x with waiting := true }) u) ∧
    (bundleCause false b = 0 → interlocked x b = false → f.exc ≠ 0 →
      runBundle t part slot ecc s = tileFault t (firstCause ((0, f.exc) :: a.exc)) u) ∧
    (bundleCause false b = 0 → interlocked x b = false → f.exc = 0 → a.exc = [] → a.stall = none →
      runBundle t part slot ecc s = commitBundle t part ecc b a f u)) ∧
  (∀ (p : Nat) (ecc : List EccHit) (s : State), fwIssues p s = true →
    ((proc? p s).core.waiting = false → exec (.bundleIssue (.proc p) ecc) s = .next (settle (fwRun p ecc s))) ∧
    ((proc? p s).core.waiting = true → exec (.bundleResume (.proc p) ecc) s = .next (settle (fwRun p ecc s)))) ∧
  (∀ (p : Nat) (ecc : List EccHit) (b : List Nat) (x : CoreRegs) (f : Flow) (a : Plan) (s : State), x = (proc? p s).core →
    b = fetchBundle (fun i => leNat (rdMem (spFwImem p) (4 * i) 4 s)) 262143 8 x.pc →
    f = flowOf 16 262143 x.pc b.length x.ix.toNat x.iy.toNat x.rstack (slotOf b 0) → a = fwEval p x b s →
    (bundleCause true b ≠ 0 → fwRun p ecc s = procCrash p 1 (bundleCause true b) s) ∧
    (bundleCause true b = 0 → f.exc ≠ 0 → fwRun p ecc s = procCrash p 1 (firstCause ((0, f.exc) :: a.exc)) s) ∧
    (bundleCause true b = 0 → f.exc = 0 → a.exc = [] → a.stall = none →
      fwRun p ecc s = fwCommit p ecc a f ((slotOf b 0).any (fun w => sylOp w == 10)) s))

/-- Firmware opcodes (R418, R466 to R472, R484): an update image is staged, flashed, activated, deferred or cancelled, a crash dump is read and
cleared, and in recovery the host's image is started; the readbacks list the device, its modes and its firmware. -/
def Obligations.FirmwareCommandsComplete : Prop :=
  (∀ (c : Call) (addr len n b : Nat) (hd bs : List Byte) (r : Req) (s t1 t2 t3 : State), Serves c 0xC010 r s → activating s = false →
    vaRead 0 addr (min len 64) (begun c 0xC010 s) = (some hd, t1) → n = u hd 24 4 → n ≤ len → vaRead 0 addr n t1 = (some bs, t2) →
    imageFails (min len flashBytes) false bs t2 = [] → reserve .stagedImage n (unreserve (fun x => x == .stagedImage) t2) = some (b, t3) →
    exec (.fwStage c addr len) s = .next (okay c (wrMem spGddr b bs { t3 with fw := { t3.fw with staged := some {
      build := (Image.parse bs).build, svn := (Image.parse bs).svn, comps := (Image.parse bs).comps, addr := b, len := n } } }))) ∧
  (∀ (c : Call) (img : Nat) (x : StagedImage) (r : Req) (s : State), Serves c 0xC011 r s → s.fw.staged = some x → img ≤ 1 →
    (∀ k < 6, ∃ y ∈ x.comps, y.target = k) → flashFails (1 - img) s = [] →
    exec (.fwFlash c img) s = .next (okay c { begun c 0xC011 s with
      mem := copyRange (clearRange s.mem (mkey (spFlash img) 0) flashBytes) (mkey spGddr x.addr) (mkey (spFlash img) 0) x.len })) ∧
  (∀ (c : Call) (ks : List Nat) (x : StagedImage) (r : Req) (s : State), Serves c 0xC012 r s → s.fw.staged = some x → ks ≠ [] →
    (∀ k ∈ ks, 1 ≤ k ∧ k ≤ 4 ∧ ∃ y ∈ x.comps, y.target = k) →
    (∀ p ∈ ks.flatMap procsOf, (proc? p s).act = .none ∧ (proc? p s).pstate ≠ .switching) →
    (emergency s = false → exec (.fwActivate c ks) s = .next (okay c (armProcs x .armed ks (begun c 0xC012 s)))) ∧
    (emergency s = true → exec (.fwActivate c ks) s = .next (replied c Config.deferred Body.empty
      ((ks.flatMap procsOf).foldl (fun v p => fwEvent 0x0304 1 p [0, 0, 0] v) (armProcs x .deferred ks (begun c 0xC012 s)))))) ∧
  (∀ (c : Call) (r : Req) (s : State), Serves c 0xC013 r s → activating s = true →
    exec (.fwCancel c) s = .next (okay c { begun c 0xC013 s with
      fw := { s.fw with procs := s.fw.procs.map (fun e => (e.1, disarm e.2)) } })) ∧
  (∀ (c : Call) (p : Nat) (r : Req) (s : State), Serves c 0xC014 r s → p ≤ 18 →
    exec (.fwDumpClear c p) s = .next (okay c (modProc p (fun x => { x with dump := none, dumpLost := false })
      { begun c 0xC014 s with mem := clearRange s.mem (dumpKey p) (dumpSlot p) }))) ∧
  (∀ (c : Call) (p cursor : Nat) (r : Req) (s : State), Serves c 0xC001 r s → CursorOk c 0xC001 cursor r s → p ≤ 18 →
    cursor + (Config.pieceRows s.draws + 1) < (dumpRows p s).length →
    exec (.readCrashdump c p cursor) s = .next (paged c 0xC001 cursor (dumpRows p s) s)) ∧
  (∀ (c : Call) (addr len n : Nat) (bs : List Byte) (r : Req) (s : State), Waits c 0xC015 r s → precheck c.func r s = none → c.rsvdSet = false →
    c.wrongLen = false → s.chip.recovery = true → (proc? 0 s).pstate ≠ .switching → canSend 0 s = true → n = leNat (rdMem spHost (addr + 24) 4 s) → n ≤ len →
    bs = rdMem spHost addr n s → imageFails (min len flashBytes) true bs (begun c 0xC015 s) = [] →
    exec (.fwRecoveryLoad c addr len) s = .next (okay c (loadImage (Image.parse bs) (mkey spHost addr)
      (countReads 0 n { begun c 0xC015 s with chip := { s.chip with recovery := false, bootImage := some 2 } })))) ∧
  (∀ (c : Call) (cursor : Nat) (r : Req) (s : State), Serves c 0x1000 r s → CursorOk c 0x1000 cursor r s →
    ∃ rows, exec (.readDevice c cursor) s = .next (paged c 0x1000 cursor rows s) ∧
      rows.head? = some [s.ep.vendorId, s.ep.deviceId, s.ep.revisionId, s.chip.serial.toNat, s.chip.lcount]) ∧
  (∀ (c : Call) (cursor : Nat) (r : Req) (s : State), Serves c 0x1001 r s → CursorOk c 0x1001 cursor r s →
    ∃ rows, exec (.readModes c cursor) s = .next (paged c 0x1001 cursor rows s) ∧
      rows.head? = some [s.fw.epoch, s.pp.cur.version, (s.pp.staged.map RuleSet.version).getD 0, s.pp.refillQ]) ∧
  (∀ (c : Call) (cursor : Nat) (r : Req) (s : State), Serves c 0xC000 r s → CursorOk c 0xC000 cursor r s →
    ∃ rows, exec (.readFirmware c cursor) s = .next (paged c 0xC000 cursor rows s) ∧ rows.length = 19)

/-- The event recorder (R477, R479 to R482): readbacks return records, limits and flushes; a limit is set; a flush starts on command and writes
its slot when it ends; PWRFAIL_N holds the recorder until it is high again. -/
def Obligations.RecorderComplete : Prop :=
  (∀ (c : Call) (frm sev lo hi : Nat) (r : Req) (s : State), Serves c 0xB000 r s → frm ≤ s.ev.wpos → sev ≤ 3 → lo ≤ hi →
    ∃ rows, exec (.readEvents c frm sev lo hi) s = .next (replied c Config.ok { rows := rows, next := none }
      { begun c 0xB000 s with draws := s.draws + 1 }) ∧ 1 ≤ rows.length) ∧
  (∀ (c : Call) (cursor : Nat) (r : Req) (s : State), Serves c 0xB001 r s → CursorOk c 0xB001 cursor r s →
    exec (.readEventLimits c cursor) s = .next (paged c 0xB001 cursor
      ((List.range 1024).map (fun k => [(evCode k s).rate, (evCode k s).burst, (evCode k s).suppressed])) s)) ∧
  (∀ (c : Call) (seq : Nat) (r : Req) (s : State), Serves c 0xB002 r s →
    exec (.readFlashLog c seq) s = .next (replied c Config.ok {
      rows := (s.ev.slots.filter (fun f => f.seq == seq)).flatMap (fun f =>
        [f.slot, f.seq, f.cause, f.time, f.wpos] :: f.recs.map (fun r => recWords r)), next := none } (begun c 0xB002 s))) ∧
  (∀ (c : Call) (r : Req) (s : State), Serves c 0xB010 r s → exec (.evtFlush c) s = .next (okay c (startFlush 3 (begun c 0xB010 s)))) ∧
  (∀ (c : Call) (k rate burst : Nat) (r : Req) (s : State), Serves c 0xB850 r s → k ≤ 1023 → rate ≤ 65535 → 1 ≤ burst → burst ≤ 1024 →
    exec (.evtSetLimit c k rate burst) s = .next (okay c { begun c 0xB850 s with ev := { s.ev with
      codes := tset s.ev.codes k { evCode k s with
        rate := rate, burst := burst, tokens := min (evCode k s).tokens (burst * tokenUnit) } } })) ∧
  (∀ (cause : Nat) (s : State), s.ev.flush = .fault cause →
    exec .faultFlushEnd s = .next (releaseReset (flushRecord cause s.ev.nextSlot (writeSlot cause (2 ^ 18)
      { s with pm := { s.pm with wearFlash := s.pm.wear } })))) ∧
  (∀ (ns : Nat) (s : State), (200 ≤ ns → faultFlush s = false →
      exec (.pwrfailAssert ns) s = .next (releaseReset { s with
        chip := { s.chip with pwrFail := true }, ev := { s.ev with held := true, flush := .power }, pm := { s.pm with emerg := true } })) ∧
    (ns < 200 → exec (.pwrfailAssert ns) s = .next s)) ∧
  (∀ s t : State, s.ev.flush = .power → t = writeSlot 2 3072 s →
    (t.chip.pwrFail = true → exec .powerFailFlushEnd s = .next { t with ev := { t.ev with owed := true } }) ∧
    (t.chip.pwrFail = false → exec .powerFailFlushEnd s = .next (resumeRecorder t))) ∧
  (∀ s t : State, t = { s with chip := { s.chip with pwrFail := false } } →
    (s.ev.flush = .power → exec .pwrfailDeassert s = .next t) ∧
    (s.ev.flush ≠ .power → s.ev.owed = true → exec .pwrfailDeassert s = .next (resumeRecorder t)) ∧
    (s.ev.flush ≠ .power → s.ev.owed = false → exec .pwrfailDeassert s = .next { t with ev := { s.ev with held := false } }))

/-- Processors and staged changes (R460 to R464, R469 to R474): a processor switches at its boundary, a switched one runs its new image, a crashed one
restarts; a change of two units commits once both have acknowledged, and ends partial where one is late. -/
def Obligations.ProcessorEventsComplete : Prop :=
  (∀ (p : Nat) (s : State), atBoundary p s = true → exec (.fwSwitch p) s = .next (beginSwitch p s)) ∧
  (∀ (p : Nat) (t : FwImage) (s u : State), (proc? p s).target = some t → (proc? p s).pstate = .switching →
    u = fwEvent 0x0303 0 p ([0, 0, 0] ++ leBytes 8 t.build) (modSec (fun k => { k with measured := tset k.measured (procTarget p) t.digest })
      (modProc p (fun x => { x with pstate := .running, previous := some x.active, active := t, core := atEntry t.entry }) s)) →
    exec (.fwSwitchDone p) s = .next (settle ((tkeys u.ti.jobs).foldl (fun v j => resumeJbnd j v) (kickJobs u)))) ∧
  (∀ (p : Nat) (s : State), (proc? p s).target.isSome = true → (proc? p s).pstate = .running →
    exec (.rollbackWindowEnd p) s = .next (modProc p (fun x => { x with target := none, previous := none })
      (unreserve (fun x => x == .previousImage p) s))) ∧
  (∀ (p : Nat) (s : State), exec (.processorWatchdog p) s = .next (procCrash p 2 0 s)) ∧
  (∀ (p : Nat) (s : State), (proc? p s).pstate = .restarting →
    exec (.processorRestarted p) s = .next (settle (kickJobs (fwEvent 0x0302 0 p [0, 0, 0] (modProc p (fun x => { x with
      pstate := .running, restarts := min 255 (x.restarts + 1), inbox := [], core := atEntry x.active.entry }) s))))) ∧
  (∀ (g : StagedChange) (s : State), s.fw.changes.head? = some g → stillRunning g.mb s = true →
    (g.units = 3 → unitsInReset g.kind s = 0 →
      exec .epochSwitch s = .next (settle (finish g.mb Config.ok Body.empty (commitChange g.kind (setChange g none s))))) ∧
    (∀ units late : Nat, lateUnits units g s = late → late ≠ 0 →
      exec (.modeAckTimeout units) s = .next (finish g.mb Config.modePartial (Body.nums [late])
        (event 0x0307 1 2 0xFF (leBytes 8 g.epoch ++ leBytes 4 late) (setChange g (some { g with units := late }) s))))) ∧
  (∀ (g : StagedChange) (unit : Nat) (s : State), s.fw.changes.head? = some g → stillRunning g.mb s = false → bitOf unit g.units = true →
    g.units ≠ 2 ^ unit → exec (.stagedDiscard unit) s = .next (setChange g (some { g with units := g.units - 2 ^ unit }) s))

/-- Resets (R486, R489, R490, R492, R493, R496, R497, R500, R502, R503): each source of Table 17-2 sets its bit and asserts its level, an unarmed one stops the
device; a block is reset alone once it is idle; DEVICE_RESET acts after its response is out. -/
def Obligations.ResetsComplete : Prop :=
  (∀ s : State, exec .powerOnReset s = .next (powerOnState s) ∧ exec (.brownOut .vddAon) s = .next (powerOnState s) ∧
    exec .perstN s = .next (assertReset .system 2 { s with chip := { s.chip with perst := true } }) ∧
    exec .sysRstN s = .next (assertReset .system 3 { s with chip := { s.chip with sysRst := true } })) ∧
  (∀ s : State, (armed 4 s = true → exec .systemWatchdog s = .next (assertReset .system 4 s)) ∧
    (armed 4 s = false → exec .systemWatchdog s = .next (stopDevice (setCause 4 s)))) ∧
  (∀ (rail : Rail) (s : State), rail ≠ .vddAon → rail ∉ s.chip.lowRails →
    exec (.brownOut rail) s = .next (faultSource 1 { s with chip := { s.chip with lowRails := s.chip.lowRails ++ [rail] } })) ∧
  (∀ (lvl : ResetLevel) (s : State),
    (armed 6 s = true → exec (.debugReset lvl) s = .next (assertReset (if lvl = .core then .core else .system) 6 s)) ∧
    (armed 6 s = false → exec (.debugReset lvl) s = .next (setCause 6 s))) ∧
  (∀ s : State, exec (.clockFailure .unlock) s = .next (faultSource 7 (rstCount 0 1 { s with chip := { s.chip with
    backup := true, refOk := true, rootLock := false } }))) ∧
  (∀ (lvl : ResetLevel) (bit : Nat) (s : State), faultFlush s = false ∨ bit ∉ [4, 5, 6, 8] ∨ s.chip.asserted ≠ none →
    assertReset lvl bit s = { doReset lvl (setCause bit s) with
      chip := { (doReset lvl (setCause bit s)).chip with cause := s.chip.cause ||| 2 ^ bit } }) ∧
  (∀ (c : Call) (l : Nat) (r : Req) (s : State), Serves c 0x1020 r s → (r.payload.getD 0 0).toNat = l → l = 1 ∨ l = 2 → armed 5 s = true →
    exec (.deviceReset c) s = .next (okay c { begun c 0x1020 s with
      chip := { s.chip with soft := some (if l = 1 then .system else .core) } })) ∧
  (∀ (l : ResetLevel) (s : State), s.chip.soft = some l → resetUnanswered s = false →
    exec .softResetFire s = .next (assertReset l 5 { s with chip := { s.chip with soft := none } })) ∧
  (∀ (c : Call) (cursor : Nat) (r : Req) (s : State), Serves c 0x1021 r s → CursorOk c 0x1021 cursor r s →
    ∃ rows, exec (.readReset c cursor) s = .next (paged c 0x1021 cursor rows s) ∧ rows.head? = some [rstCause s]) ∧
  (∀ (c : Call) (kind i t : Nat) (r : Req) (s : State), Serves c 0x1870 r s → kind = u r.payload 0 1 → i = u r.payload 1 1 →
    t = u r.payload 4 4 → i < blockCount kind → u r.payload 2 2 = 0 → t = 0 ∨ (10 ≤ t ∧ t ≤ 10000) →
    s.chip.blockRsts.any (fun b => b.kind == kind && b.index == i) = false → blockStaged kind s = false → blockAllowed kind i s = true →
    exec (.blockReset c) s = .next (runsOn c true { begun c 0x1870 s with chip := { s.chip with
      blockRsts := s.chip.blockRsts ++ [{ kind := kind, index := i, mb := callRef c s }] } })) ∧
  (∀ (kind i : Nat) (late : Bool) (b : BlockRst) (s t : State), s.chip.blockRsts.find? (fun b => b.kind == kind && b.index == i) = some b →
    resetBlock kind i s = t →
    exec (.blockIdle kind i late) s = .next (settle (kickJobs (finish b.mb Config.ok Body.empty (rstCount 1 1 { t with
      chip := { t.chip with blockRsts := t.chip.blockRsts.filter (fun x => !(x.kind == kind && x.index == i)) } })))))

/-- Release and boot (R141, R417, R418, R428, R495, R498 to R500): options are loaded once, the controller releases a reset, the ROM boots the first
flash image that verifies and rejects others, channels train, and the endpoint comes up. -/
def Obligations.BootCompletes : Prop :=
  (∀ s : State, s.chip.loaded = false →
    exec (.optionLoadDone true) s = .next { s with
      chip := { s.chip with opt := s.chip.optFuses, loaded := true },
      sb := { s.sb with serialMode := bitOf 4 (s.chip.optFuses.toNat % 256) } } ∧
    exec (.optionLoadDone false) s = .next (assertFault s)) ∧
  (∀ s : State, exec .rootPllLock s = .next { s with chip := { s.chip with rootLock := true, refOk := true, backup := false } }) ∧
  (∀ s : State, s.chip.asserted.isSome = true → s.chip.loaded = true → s.chip.rootLock = true →
    exec .resetRelease s = .next { s with
      chip := { s.chip with asserted := none, perst := false, sysRst := false, lowRails := [] }
      ev := { s.ev with held := s.ev.held || (s.chip.asserted == some .powerOn && s.chip.pwrFail) } }) ∧
  (∀ (d : Nat) (rest : List Nat) (s : State), (bootOrder s).filter (fun d => !s.chip.bootTried.contains d) = d :: rest →
    s.chip.asserted = none → s.chip.bootImage = none → s.chip.recovery = false →
    (flashFails d s = [] → exec .bootImageRead s = .next (loadImage (Image.parse (flashImage d s)) (mkey (spFlash d) 0) { s with
      chip := { s.chip with bootTried := s.chip.bootTried ++ [d], bootImage := some d } })) ∧
    (∀ (k : Nat) (ks : List Nat), flashFails d s = k :: ks → rest ≠ [] →
      exec .bootImageRead s = .next (rstCount 3 1 { s with chip := { s.chip with
        bootTried := s.chip.bootTried ++ [d], rejects := s.chip.rejects ++ [(d, k)], recovery := false } }))) ∧
  (∀ (ch temp : Nat) (ok : Bool) (s : State), ch < 16 → (chan? ch s).cstate = .untrained → s.chip.bootImage.isSome = true →
    exec (.gddr7TrainingDone ch ok temp) s =
      .next (modChan ch (fun x => { x with
        cstate := if ok then .active else .offline, temp := if ok then temp % 256 else x.temp }) s)) ∧
  (∀ (speed width : Nat) (flit : Bool) (s : State), linkOk speed width flit = true → s.pm.tripped = false → s.chip.bootImage.isSome = true →
    s.chip.bootDone = false → (∀ e ∈ s.tiers.chans, e.2.cstate ≠ .untrained) →
    exec (.endpointReady speed width flit) s = .next (bootRun { s with
      chip := { s.chip with bootDone := true }, ep := { s.ep with speed := speed, width := width, flit := flit, rrs := false } }))

/-- Power and temperature (R507 to R516, R544): the opcodes set one value each; samples move the accounts and limits, the control period releases a
step, 108 °C trips the device, an emergency clears, wear is charged, and the I3C port answers by its map. -/
def Obligations.PowerComplete : Prop :=
  (∀ (c : Call) (us : Nat) (r : Req) (s : State), Serves c 0xA001 r s → (1 ≤ us ∧ us ≤ 1000000) ∨ us = 0xFFFFFFFF →
    exec (.setLatencyTol c us) s = .next (okay c (modPart r.part (fun p => { p with latTol := us }) (begun c 0xA001 s)))) ∧
  (∀ (c : Call) (w : Nat) (r : Req) (s : State), Serves c 0xA010 r s → 300 ≤ w → w ≤ 650 →
    exec (.setPowerLimit c w) s = .next (okay c { begun c 0xA010 s with pm := { s.pm with limitW := w } })) ∧
  (∀ (c : Call) (t : Nat) (r : Req) (s : State), Serves c 0xA850 r s → 85 ≤ t → t ≤ 100 →
    exec (.setThermal c t) s = .next (okay c { begun c 0xA850 s with pm := { s.pm with tThrottle := t } })) ∧
  (∀ (c : Call) (p : Nat) (r : Req) (s : State), Serves c 0xA851 r s → p ≤ 4 →
    exec (.setPstateLimit c p) s = .next (okay c { begun c 0xA851 s with pm := { s.pm with deepest := p } })) ∧
  (∀ (c : Call) (cursor : Nat) (r : Req) (s : State), Serves c 0xA000 r s → CursorOk c 0xA000 cursor r s →
    ∃ rows, exec (.readPower c cursor) s = .next (paged c 0xA000 cursor rows s) ∧ 2 :: s.pm.temps ∈ rows) ∧
  (∀ s t : State, governor s = false → t = beginSwitch 1 s →
    (allowedState t < t.pm.pstate → exec .controlPeriod s = .next (settle (releaseThrottle (wakeUp t)))) ∧
    (t.pm.pstate ≤ allowedState t → entryDue t = true → exec .controlPeriod s = .next (settle (releaseThrottle (attemptEntry t)))) ∧
    (t.pm.pstate ≤ allowedState t → entryDue t = false → exec .controlPeriod s = .next (settle (releaseThrottle t)))) ∧
  (∀ s : State, s.pm.pstate ≠ 0 ∨ s.pm.waking = true → exec (.wake false) s = .next (settle (kickStreams { s with
    pm := { s.pm with pstate := 0, since := s.chip.lcount, waking := false } }))) ∧
  (∀ (mW tileMw : Nat) (s : State), exec (.powerSample mW tileMw) s =
    .next (actPower tileMw (actPower tileMw (actPower tileMw { s with pm := sampled mW s.pm } 1) 2) 3)) ∧
  (∀ (temps : List Nat) (steps : Nat) (s t : State), t = actThermal steps { s with pm := { s.pm with temps := temps } } →
    (t.pm.hottest.1 < 108 → exec (.thermalSample temps steps) s = .next t) ∧
    (108 ≤ t.pm.hottest.1 → exec (.thermalSample temps steps) s = .next (thermTrip t))) ∧
  (∀ s : State, s.pm.emerg = true → s.pm.limits = [] → governor s = false → s.chip.pwrFail = false →
    exec .emergencyClear s = .next (event 0x0284 0 1 0xFF [] { s with
      pm := { s.pm with emerg := false }, fw := { s.fw with procs := s.fw.procs.map (fun (e : Nat × Proc) => (e.1, undefer e.2)) } })) ∧
  (∀ (n : Nat) (s : State), n = s.pm.wear + wearUnits s.pm.hottest.1 → n < 57600000 →
    exec .wearCharge s = .next { s with pm := { s.pm with wear := n } }) ∧
  (∀ s : State, exec .wearRecordWrite s = .next { s with pm := { s.pm with wearFlash := s.pm.wear } }) ∧
  (∀ (a b o : Nat) (r : Reg) (s : State), s.chip.asserted ≠ some .powerOn → i3cMap a = some (b, o) → regAt b o s = some r →
    exec (.i3cRead a) s = .next (emit (.i3c (some (leBytes (if r.wide then 8 else 4) r.val))) s)) ∧
  (∀ (a : Nat) (s : State), s.chip.asserted ≠ some .powerOn → i3cMap a = none → exec (.i3cRead a) s = .next (emit (.i3c none) s))

/-- The queue: with command `c` at the front a step is `exec c` with the queue's rest; on an empty queue one AONCLK cycle passes, in which the local
counter and the gate clock advance (R475, R343; the tick is the model's choice, log 5). -/
def Obligations.StepTakesFront : Prop :=
  (∀ (c : Instr) (rest : List Instr) (s : State), s.pending = c :: rest → step s = exec c { s with pending := rest }) ∧
  (∀ (c : Instr) (s : State), step { s with pending := c :: s.pending } = exec c s) ∧
  (∀ s : State, s.pending = [] → step s = .next (tick s)) ∧
  (∀ s : State, (tick s).chip = { s.chip with lcount := (s.chip.lcount + 1) % 2 ^ 64 } ∧
    (tick s).pp = { s.pp with gtime := (s.pp.gtime + s.pp.incr) % 2 ^ 96 })

/-- Reset (R29, R440, R486, R491): the power-on reset is asserted, the physical function alone is ENABLED, partition 0 alone exists and holds the pools,
no mailbox has a request, no command waits, and no byte of memory is listed. The fuses and what the spec gives no reset value are the model's (log 2, 3). -/
def Obligations.ResetState : Prop :=
  State.reset.chip.asserted = some .powerOn ∧ State.reset.chip.cause = 1 ∧ State.reset.chip.lcount = 0 ∧ State.reset.chip.bootDone = false ∧
  tkeys State.reset.parts = [0] ∧ ((part? 0 State.reset).map Part.qps) = some Config.poolQps ∧
  (func? 0 State.reset).fstate = .enabled ∧ (∀ f < 256, f ≠ 0 → (func? f State.reset).fstate = .disabled ∧ funcPart f State.reset = 0) ∧
  State.reset.ep.vendorId = 0x1F4A ∧ State.reset.ep.deviceId = 0x5704 ∧ State.reset.ep.revisionId = 0xB1 ∧
  State.reset.mb = [] ∧ State.reset.pending = [] ∧ State.reset.mem = [] ∧ Memory.wf State.reset.mem = true

/-- Firmware's checks of a request run in the order of R455, and whatever a mailbox row's operands are, a request that fails one is answered with
that check's status and has no other effect than its answer and its counted wait. -/
def Obligations.RequestChecksInOrder : Prop :=
  (∀ (f : Nat) (r : Req) (s : State), s.chip.recovery = false →
    (opKnown r.opcode s = false → precheck f r s = some Config.badOpcode) ∧
    (opKnown r.opcode s = true →
      (r.flags ≠ (opExpert r.opcode).toNat ∨ r.rsvd = true ∨ 63 < r.part ∨ 4064 < r.length → precheck f r s = some Config.badValue) ∧
      (r.flags = (opExpert r.opcode).toNat → r.rsvd = false → r.part ≤ 63 → r.length ≤ 4064 →
        ((f ≠ 0 ∧ r.part ≠ funcPart f s) ∨ (f ≠ 0 ∧ opsPf.contains r.opcode = true) ∨
          (opExpert r.opcode = true ∧ ((part? (funcPart f s) s).map Part.expert).getD false = false) →
          precheck f r s = some Config.notPermitted) ∧
        ((f = 0 ∨ (r.part = funcPart f s ∧ opsPf.contains r.opcode = false)) →
          (opExpert r.opcode = false ∨ ((part? (funcPart f s) s).map Part.expert).getD false = true) →
          ((func? f s).fstate = .disabled → precheck f r s = some Config.wrongState) ∧
          ((func? f s).fstate = .quiescing → precheck f r s = some Config.quiescing) ∧
          ((func? f s).fstate = .enabled →
            (r.opcode ≠ 0x2000 → partLive r.part s = false → precheck f r s = some Config.wrongState) ∧
            (r.opcode = 0x2000 ∨ partLive r.part s = true →
              (∀ n, opLength r.opcode = some n → r.length ≠ n → precheck f r s = some Config.badLength) ∧
              ((∀ n, opLength r.opcode = some n → r.length = n) → precheck f r s = none))))))) ∧
  (∀ (i : Instr) (c : Call) (op st : Nat) (r : Req) (s : State), opcodeOf i = some (c, op) → Waits c op r s →
    s.chip.recovery = true ∨ (proc? 2 s).pstate ≠ .switching → precheck c.func r s = some st →
    Comes i s (replied c st Body.empty (begun c op s))) ∧
  (∀ (c : Call) (op st : Nat) (s : State), ∃ (mb : Tab Mailbox) (regs : Regs),
    replied c st Body.empty (begun c op s) = { s with mb := mb, regs := regs })

/-- Requests that do not reach their opcode's work (R457, R459, R462, R38): nothing happens while no request of the opcode waits, while an urgent one goes
first, while 64 run, or while the serving processor switches images; one whose processor is down is answered FW_RESTARTING, and one that passes the common checks
but whose payload has a wrong length or a reserved bit set is answered BAD_LENGTH or BAD_VALUE. -/
def Obligations.RequestsThatWait : Prop :=
  (∀ (i : Instr) (c : Call) (op : Nat) (s : State), opcodeOf i = some (c, op) →
    (boxOf c s).phase ≠ .waiting ∨ (∀ r, (boxOf c s).req = some r → r.opcode ≠ op) ∨ (c.urgent = false ∧ urgentWaiting s = true) ∨
      64 ≤ runningCount s → Comes i s s) ∧
  (∀ (i : Instr) (c : Call) (op : Nat) (r : Req) (s : State), opcodeOf i = some (c, op) → Waits c op r s → precheck c.func r s = none →
    s.chip.recovery = false →
    ((proc? 2 s).pstate = .switching ∨ ((proc? 2 s).pstate = .running ∧ s.chip.bootDone = true ∧ (proc? (opProc op) s).pstate = .switching) →
      Comes i s s) ∧
    ((proc? 2 s).pstate ≠ .switching → procDown (opProc op) s = true → Comes i s (replied c Config.fwRestarting Body.empty (begun c op s))) ∧
    ((proc? 2 s).pstate ≠ .switching → procUp (opProc op) s = true → c.wrongLen = true →
      Comes i s (replied c Config.badLength Body.empty (begun c op s))) ∧
    ((proc? 2 s).pstate ≠ .switching → procUp (opProc op) s = true → c.wrongLen = false → c.rsvdSet = true →
      Comes i s (replied c Config.badValue Body.empty (begun c op s)))) ∧
  (∀ (i : Instr) (c : Call) (op : Nat) (r : Req) (s : State), opcodeOf i = some (c, op) → (boxOf c s).phase = .waiting →
    (boxOf c s).req = some r → r.opcode = op → c.urgent = true ∨ urgentWaiting s = false → runningCount s < 64 → hardwareAnswers c s = true →
    Comes i s (replied c Config.fwRestarting Body.empty s))

/-- Every command in every state answers a next state, so that every run is safe; it leaves the queue as it is and only appends to what the block
has sent. -/
def Obligations.EveryCommandAnswers : Prop :=
  (∀ (c : Instr) (s : State), ∃ t, exec c s = .next t ∧ t.pending = s.pending ∧ s.out <+: t.out) ∧
  (∀ (n : Nat) (s : State), SafeRun n s)

/-- Every step keeps the canonical form of memory: addresses rising strictly, no entry equal to what an unlisted byte reads as (log 2). -/
def Obligations.MemoryStaysCanonical : Prop :=
  ∀ s t : State, Memory.wf s.mem = true → step s = .next t → Memory.wf t.mem = true

/-- FUSED_SVN (R420): SVN_COMMIT raises it to a value that is not above 64 or below it, where both flash images verify with at least that SVN; no step
lowers it and no other command changes it. Revocation bits and the other fuses are not unburnt either. -/
def Obligations.FusedSvnRises : Prop :=
  (∀ (c : Call) (v : Nat) (r : Req) (s : State), Serves c 0x9031 r s →
    (64 < v ∨ v < s.chip.fusedSvn → exec (.svnCommit c v) s = .next (replied c Config.badValue Body.empty (begun c 0x9031 s))) ∧
    (v ≤ 64 → s.chip.fusedSvn ≤ v → (∃ d, (d = 0 ∨ d = 1) ∧
        (flashFails d s ≠ [] ∨ (Image.parse (rdMem (spFlash d) 0 64 s)).svn < v)) →
      exec (.svnCommit c v) s = .next (replied c Config.wrongState Body.empty (begun c 0x9031 s))) ∧
    (v ≤ 64 → s.chip.fusedSvn ≤ v → (∀ d, d = 0 ∨ d = 1 → flashFails d s = [] ∧ v ≤ (Image.parse (rdMem (spFlash d) 0 64 s)).svn) →
      exec (.svnCommit c v) s = .next (okay c { begun c 0x9031 s with chip := { s.chip with fusedSvn := v } }))) ∧
  (∀ s t : State, step s = .next t → s.chip.fusedSvn ≤ t.chip.fusedSvn ∧ t.chip.revoked ||| s.chip.revoked = t.chip.revoked ∧
    t.chip.optFuses = s.chip.optFuses ∧ t.chip.rootKeys = s.chip.rootKeys ∧ t.chip.serial = s.chip.serial) ∧
  (∀ (i : Instr) (s t : State), (∀ c v, i ≠ .svnCommit c v) → exec i s = .next t → t.chip.fusedSvn = s.chip.fusedSvn)

/-- After a system or core reset (R487): partition 0 alone, virtual functions DISABLED in it, the objects of Table 8-1 gone; a core reset leaves GDDR7, the
CXL tier and the trained links, ends what was outstanding on gangs without a response, and frames that arrive meanwhile are counted and dropped. -/
def Obligations.ResetLeavesPartitionZero : Prop :=
  (∀ s t : State, t = systemState s ∨ t = coreState s →
    tkeys t.parts = [0] ∧ (∀ f, 1 ≤ f → f < 256 → (func? f t).fstate = .disabled ∧ funcPart f t = 0) ∧
    t.qe.qps = [] ∧ t.qe.cqs = [] ∧ t.qe.passes = [] ∧ t.qe.tallies = [] ∧ t.xl.xfers = []) ∧
  (∀ (s : State) (a n : Nat), a + n ≤ spaceSize →
    rdMem spGddr a n (coreState s) = rdMem spGddr a n s ∧ rdMem spCxl a n (coreState s) = rdMem spCxl a n s) ∧
  (∀ (s : State) (n : Nat), (link? n (coreState s)).lstate = (link? n s).lstate ∧ (link? n (coreState s)).gang = (link? n s).gang) ∧
  (∀ (s : State) (g tag : Nat) (w : Bool), liveTag g tag w (coreState s) = none) ∧
  (∀ (node : Nat) (bs : List Byte) (miss : Option Nat) (ecc : List EccHit) (s : State), s.chip.asserted = some .core →
    node ∈ s.pp.up → rxBad node bs s = false →
    exec (.ethFrameRx node bs ⟨miss, ecc⟩) s =
      .next (pcount (nodeDie node) 1 1 (nodeCount node 5 1 (nodeCount node 1 bs.length (nodeCount node 0 1 s)))))

/-- Resets that meet (R492): the deepest level named applies, a reset in progress starts again, and a reset at any level gives up block resets in progress
and the requests that wait for them without a response. -/
def Obligations.DeepestResetApplies : Prop :=
  (∀ a b : ResetLevel, levelCode (deepest a (some b)) = min (levelCode a) (levelCode b) ∧ deepest a none = a) ∧
  (∀ (lvl : ResetLevel) (s : State),
    (doReset lvl s).chip.asserted = some (deepest (deepest lvl s.chip.asserted) (s.chip.flushWait.map Prod.fst)) ∧
    (doReset lvl s).chip.blockRsts = [] ∧ (doReset lvl s).chip.soft = none ∧ (doReset lvl s).chip.flushWait = none ∧
    (doReset lvl s).chip.bootDone = false ∧ ∀ m, (mbox? m (doReset lvl s)).phase = .idle) ∧
  (∀ (lvl : ResetLevel) (bit : Nat) (s : State), s.chip.asserted.isSome = true →
    (assertReset lvl bit s).chip.asserted = some (deepest (deepest lvl s.chip.asserted) (s.chip.flushWait.map Prod.fst)))

/-- Armed and unarmed sources (R489, R490): the option block's MODE bit selects standalone or fabric mode, in which pins and power-on, or all sources, are
armed; an unarmed source sets its bit and resets nothing; a watchdog, lock-up, clock failure or brown-out also stops every firmware processor, runs the
fault flush and asserts FAULT_N; DEVICE_RESET is answered NOT_PERMITTED, a debug request has no effect beyond its bit. -/
def Obligations.ArmedSources : Prop :=
  (∀ s : State, (bitOf 0 (optByte 0 s) = false → ∀ bit, bit ≤ 8 → (armed bit s = true ↔ bit = 0 ∨ bit = 2 ∨ bit = 3)) ∧
    (bitOf 0 (optByte 0 s) = true → ∀ bit, bit ≤ 8 → armed bit s = true)) ∧
  (∀ (bit : Nat) (s t : State), bit = 1 ∨ bit = 4 ∨ bit = 7 ∨ bit = 8 → armed bit s = false → t = faultSource bit s →
    t.chip = { s.chip with cause := s.chip.cause ||| 2 ^ bit, faultN := true } ∧ (∀ e ∈ t.fw.procs, e.2.pstate = .stopped) ∧
    (s.ev.flush = .none → s.ev.held = false → t.ev = { s.ev with flush := .fault 1 }) ∧
    t.parts = s.parts ∧ t.funcs = s.funcs ∧ t.mem = s.mem ∧ t.qe = s.qe ∧ t.ti = s.ti ∧ t.jl = s.jl ∧ t.regs = s.regs ∧
    t.out = s.out ++ [.faultN true, .i3cInterrupt]) ∧
  (∀ (c : Call) (r : Req) (s : State), Serves c 0x1020 r s → (r.payload.getD 0 0).toNat = 1 ∨ (r.payload.getD 0 0).toNat = 2 →
    armed 5 s = false → exec (.deviceReset c) s = .next (replied c Config.notPermitted Body.empty (begun c 0x1020 s))) ∧
  (∀ (l : ResetLevel) (s : State), armed 6 s = false →
    exec (.debugReset l) s = .next { s with chip := { s.chip with cause := s.chip.cause ||| 2 ^ 6 } })

/-- Element values (R50 to R52): INT8 and MXINT8 codes, what an MXINT8 encode can give, an element under its block's scale; every code beyond a format's
infinity reads as NaN without payload or sign, and a conversion that gives a NaN gives the format's canonical one. -/
def Obligations.ElementValues : Prop :=
  (∀ (mx : Bool) (c : Nat), c < 128 → (Elem.int mx).decode c = .fin false c (if mx then -6 else 0)) ∧
  (∀ (mx : Bool) (c : Nat), 128 ≤ c → c < 256 → (Elem.int mx).decode c = .fin true (256 - c) (if mx then -6 else 0)) ∧
  (∀ (rm : RMode) (d : Nat) (x : FVal), (intConvert true rm d x).code < 256 ∧ (intConvert true rm d x).code ≠ 128) ∧
  (∀ x : FVal, scaled 0xFF x = .nan) ∧
  (∀ (sc m : Nat) (neg : Bool) (e : Int), sc < 0xFF → scaled sc (.fin neg m e) = .fin neg m (e + sc - 127)) ∧
  (∀ (m : Nat) (neg : Bool) (e : Int), scaled 0 (.fin neg m e) = .fin neg m (e - 127)) ∧
  (fp32.nanCode = some 0x7FC00000 ∧ bf16.nanCode = some 0x7FC0 ∧ fp16.nanCode = some 0x7E00 ∧ e4m3.nanCode = some 0x7F ∧
    e5m2.nanCode = some 0x7E) ∧
  (∀ f ∈ [fp32, bf16, fp16, e4m3, e5m2], ∀ c : Nat, f.maxCode < c % 2 ^ (f.eb + f.mb) → f.infCode ≠ some (c % 2 ^ (f.eb + f.mb)) →
    f.decode c = .nan) ∧
  (∀ f ∈ [fp32, bf16, fp16, e4m3, e5m2], ∀ (sat : Bool) (rm : RMode) (d : Nat), f.nanCode = some (f.convert sat rm d .nan).code) ∧
  (∀ f ∈ [fp32, bf16, fp16, e4m3, e5m2], ∀ (sat : Bool) (rm : RMode) (d : Nat) (x : FVal), f.decode (f.convert sat rm d x).code = .nan →
    f.nanCode = some (f.convert sat rm d x).code)

/-- A-slot arithmetic (R112): results and post-increments are 32-bit numbers, sums, differences, products and shifts modulo 2^32, and an A operation that
touches no memory adds no exception to its bundle. -/
def Obligations.ArithmeticWraps : Prop :=
  (∀ w ix iy : Nat, ix < 2 ^ 32 → iy < 2 ^ 32 → aluOf w ix iy < 2 ^ 32 ∧ ∀ u ∈ specUpdate w ix iy, u.2 < 2 ^ 32) ∧
  (∀ w ix iy : Nat, bitOf 22 w = true → bitOf 23 w = false →
    (sylOp w = 0 → aluOf w ix iy = (ix + iy) % 2 ^ 32) ∧ (sylOp w = 1 → iy ≤ 2 ^ 32 → (aluOf w ix iy + iy) % 2 ^ 32 = ix % 2 ^ 32) ∧
    (sylOp w = 10 → aluOf w ix iy = ix * iy % 2 ^ 32) ∧ (sylOp w = 7 → aluOf w ix iy = ix * 2 ^ (iy % 32) % 2 ^ 32)) ∧
  (∀ (w ix iy : Nat) (u : Nat × Nat), u ∈ specUpdate w ix iy →
    (u = (0, wrap32 (ix + sextN 21 (specVal w))) ∨ u = (1, wrap32 (iy + sextN 21 (specVal w)))) ∧ (specMode w = 4 ∨ specMode w = 5)) ∧
  (∀ (t w : Nat) (x : Tile) (s : State) (p : Plan), sylOp w ≠ 11 → sylOp w ≠ 12 → (evalA t x w s p).exc = p.exc) ∧
  (∀ (p w : Nat) (x : CoreRegs) (s : State) (a : Plan), sylOp w ≠ 11 → sylOp w ≠ 12 → (fwA p x w s a).exc = a.exc)

/-- Hall-pass keys (R250): a key holds INDEX above GEN; GEN starts at 1, advances by one and skips 0; a key with GEN 0 never matches; a pool that holds its
grant of indices issues the one that has been free longest, and a freed index goes to the end of its pool. -/
def Obligations.HallPassKeys : Prop :=
  (∀ (part rights bind base len tally key : Nat) (s t : State), issuePass part rights bind base len tally s = some (key, t) →
    ∃ i u, nextIndex part s = some (i, u) ∧ key / 256 = i ∧ key % 256 = passGen i u ∧ 1 ≤ passGen i u ∧ passGen i u ≤ 255) ∧
  (∀ (i : Nat) (p : Pass) (s : State), pass? i s = some p → (p.gen < 255 → passGen i s = p.gen + 1) ∧ (p.gen = 255 → passGen i s = 1)) ∧
  (∀ (qpn part key op addr len : Nat) (s : State), key % 256 = 0 → passCheck qpn part key op addr len s = none) ∧
  (∀ (part i : Nat) (rest : List Nat) (s : State), passesOf part s < ((part? part s).map Part.passes).getD 0 →
    s.qe.passes.countP (fun e => e.2.part == part) = ((part? part s).map Part.passes).getD 0 → tgetD s.qe.freed part [] = i :: rest →
    nextIndex part s = some (i, modQe (fun q => { q with freed := tset q.freed part rest }) s)) ∧
  (∀ (i : Nat) (p : Pass) (s : State), pass? i s = some p → tgetD (freePass i s).qe.freed p.part [] = tgetD s.qe.freed p.part [] ++ [i])
end

