-- ==== Sys2Proof/Laws/Tables.lean ====
section
/-! SUPPORT. Laws of the sparse tables: what a lookup reads after a change. -/

namespace Sys2Proof.Machine

variable {α : Type}

@[simp] theorem tget_nil (k : Nat) : tget ([] : Tab α) k = none := rfl

@[simp] theorem tget_tset_same (t : Tab α) (k : Nat) (v : α) : tget (tset t k v) k = some v := by
  induction t with
  | nil => simp [tset, tget]
  | cons e r ih =>
    obtain ⟨j, w⟩ := e
    simp only [tset]
    split
    · simp [tget]
    · split
      · simp [tget]
      · next h => simp [tget, h, ih]

theorem tget_tset_other (t : Tab α) {k j : Nat} (v : α) (hkj : j ≠ k) : tget (tset t k v) j = tget t j := by
  have hkj' : k ≠ j := fun e => hkj e.symm
  induction t with
  | nil => simp [tset, tget, hkj']
  | cons e r ih =>
    obtain ⟨i, w⟩ := e
    simp only [tset]
    split
    · simp [tget, hkj']
    · split
      · next h =>
        have : i = k := by simpa using h
        subst this
        simp [tget, hkj']
      · simp [tget, ih]

theorem tget_tset (t : Tab α) (k j : Nat) (v : α) : tget (tset t k v) j = if j = k then some v else tget t j := by
  split
  · next h => subst h; exact tget_tset_same t j v
  · next h => exact tget_tset_other t v h

@[simp] theorem tgetD_tset_same (t : Tab α) (k : Nat) (v d : α) : tgetD (tset t k v) k d = v := by
  simp [tgetD]

theorem tgetD_tset_other (t : Tab α) {k j : Nat} (v d : α) (h : j ≠ k) : tgetD (tset t k v) j d = tgetD t j d := by
  simp [tgetD, tget_tset_other t v h]

@[simp] theorem tget_tdel_same (t : Tab α) (k : Nat) : tget (tdel t k) k = none := by
  induction t with
  | nil => rfl
  | cons e r ih =>
    obtain ⟨j, w⟩ := e
    by_cases h : j = k
    · subst h; simpa [tdel] using ih
    · have : tdel ((j, w) :: r) k = (j, w) :: tdel r k := by simp [tdel, h]
      simp [this, tget, h, ih]

theorem tget_tdel_other (t : Tab α) {k j : Nat} (h : j ≠ k) : tget (tdel t k) j = tget t j := by
  induction t with
  | nil => rfl
  | cons e r ih =>
    obtain ⟨i, w⟩ := e
    by_cases hi : i = k
    · subst hi
      have e1 : tdel ((i, w) :: r) i = tdel r i := by simp [tdel]
      have e2 : tget ((i, w) :: r) j = tget r j := by simp [tget, Ne.symm h]
      rw [e1, e2, ih]
    · have e1 : tdel ((i, w) :: r) k = (i, w) :: tdel r k := by simp [tdel, hi]
      simp only [e1, tget, ih]

theorem tmod_cons (i : Nat) (w : α) (r : Tab α) (k : Nat) (f : α → α) :
    tmod ((i, w) :: r) k f = (if i == k then (k, f w) else (i, w)) :: tmod r k f := rfl

theorem tget_tmod (t : Tab α) (k j : Nat) (f : α → α) :
    tget (tmod t k f) j = if j = k then (tget t j).map f else tget t j := by
  induction t with
  | nil => simp [tmod]
  | cons e r ih =>
    obtain ⟨i, w⟩ := e
    rw [tmod_cons]
    by_cases hi : i = k
    · subst hi
      by_cases hj : j = i
      · subst hj; simp [tget]
      · have hj' : i ≠ j := fun e => hj e.symm
        simp [tget, hj, hj', ih]
    · by_cases hij : i = j
      · subst hij; simp [tget, hi]
      · simp [tget, hi, hij, ih]

@[simp] theorem tget_tmod_same (t : Tab α) (k : Nat) (f : α → α) : tget (tmod t k f) k = (tget t k).map f := by
  simp [tget_tmod]

end Sys2Proof.Machine
end

