-- ==== Sys2Proof/Laws/Memory.lean ====
section
/-! SUPPORT. Laws of the flat memory: its canonical form is kept by every operation, and what a read gives after a write. -/

namespace Sys2Proof.Machine

theorem risingFrom_le {lo hi : Nat} (h : lo ≤ hi) : ∀ {m : List Host.Cell}, risingFrom hi m = true → risingFrom lo m = true
  | [], _ => rfl
  | (k, b) :: r, e => by
    simp only [risingFrom, Bool.and_eq_true, decide_eq_true_eq] at e ⊢
    exact ⟨Nat.le_trans h e.1, e.2⟩

theorem risingFrom_filter (p : Host.Cell → Bool) : ∀ {m : List Host.Cell} {lo : Nat},
    risingFrom lo m = true → risingFrom lo (m.filter p) = true
  | [], _, _ => rfl
  | (k, b) :: r, lo, e => by
    simp only [risingFrom, Bool.and_eq_true, decide_eq_true_eq] at e
    have hr := risingFrom_filter p e.2
    by_cases hp : p (k, b) = true
    · rw [List.filter_cons_of_pos hp]
      simp only [risingFrom, Bool.and_eq_true, decide_eq_true_eq]
      exact ⟨e.1, hr⟩
    · rw [List.filter_cons_of_neg hp]
      exact risingFrom_le (by omega) hr

theorem risingFrom_tset (k : Nat) (b : Byte) : ∀ {m : List Host.Cell} {lo : Nat}, lo ≤ k →
    risingFrom lo m = true → risingFrom lo (tset m k b) = true
  | [], lo, h, _ => by simp [tset, risingFrom, h]
  | (j, w) :: r, lo, h, e => by
    simp only [risingFrom, Bool.and_eq_true, decide_eq_true_eq] at e
    simp only [tset]
    split
    · next hk =>
      simp only [risingFrom, Bool.and_eq_true, decide_eq_true_eq]
      exact ⟨h, by omega, e.2⟩
    · split
      · next hj =>
        have : j = k := by simpa using hj
        subst this
        simp only [risingFrom, Bool.and_eq_true, decide_eq_true_eq]
        exact e
      · next hk hj =>
        have hne : j ≠ k := by simpa using hj
        simp only [risingFrom, Bool.and_eq_true, decide_eq_true_eq]
        exact ⟨e.1, risingFrom_tset k b (by omega) e.2⟩

theorem all_tset {p : Host.Cell → Bool} (k : Nat) (b : Byte) (hb : p (k, b) = true) : ∀ {m : List Host.Cell},
    m.all p = true → (tset m k b).all p = true
  | [], _ => by simp [tset, hb]
  | (j, w) :: r, e => by
    simp only [List.all_cons, Bool.and_eq_true] at e
    simp only [tset]
    split
    · simp only [List.all_cons, Bool.and_eq_true]; exact ⟨hb, e⟩
    · split
      · simp only [List.all_cons, Bool.and_eq_true]; exact ⟨hb, e.2⟩
      · simp only [List.all_cons, Bool.and_eq_true]; exact ⟨e.1, all_tset k b hb e.2⟩

theorem Memory.wf_iff {m : List Host.Cell} :
    Memory.wf m = true ↔ risingFrom 0 m = true ∧ m.all (fun c => c.2 != 0) = true := by
  simp only [Memory.wf, Bool.and_eq_true]

theorem Memory.wf_filter (p : Host.Cell → Bool) {m : List Host.Cell} (h : Memory.wf m = true) :
    Memory.wf (m.filter p) = true := by
  rw [Memory.wf_iff] at h ⊢
  refine ⟨risingFrom_filter p h.1, ?_⟩
  rw [List.all_eq_true] at h ⊢
  intro x hx
  exact h.2 x (List.mem_filter.mp hx).1

theorem Memory.wf_tset {m : List Host.Cell} (k : Nat) {b : Byte} (hb : b ≠ 0) (h : Memory.wf m = true) :
    Memory.wf (tset m k b) = true := by
  rw [Memory.wf_iff] at h ⊢
  exact ⟨risingFrom_tset k b (Nat.zero_le k) h.1, all_tset k b (by simpa using hb) h.2⟩

theorem Memory.wf_mwr {m : List Host.Cell} (k : Nat) (b : Byte) (h : Memory.wf m = true) :
    Memory.wf (mwr m k b) = true := by
  unfold mwr
  split
  · exact Memory.wf_filter _ h
  · next hb => exact Memory.wf_tset k hb h

theorem Memory.wf_mwrN : ∀ (bs : List Byte) {m : List Host.Cell} (k : Nat), Memory.wf m = true →
    Memory.wf (mwrN m k bs) = true
  | [], _, _, h => h
  | b :: bs, _, k, h => Memory.wf_mwrN bs (k + 1) (Memory.wf_mwr k b h)

theorem Memory.wf_clearRange {m : List Host.Cell} (k n : Nat) (h : Memory.wf m = true) :
    Memory.wf (clearRange m k n) = true := Memory.wf_filter _ h

theorem Memory.wf_foldl_tset (g : Nat → Nat) : ∀ (l : List Host.Cell) {m : List Host.Cell},
    l.all (fun c => c.2 != 0) = true → Memory.wf m = true →
    Memory.wf (l.foldl (fun a c => tset a (g c.1) c.2) m) = true
  | [], _, _, h => h
  | c :: l, m, hl, h => by
    simp only [List.all_cons, Bool.and_eq_true] at hl
    exact Memory.wf_foldl_tset g l hl.2 (Memory.wf_tset _ (by simpa using hl.1) h)

theorem Memory.wf_copyRange {m : List Host.Cell} (src dst n : Nat) (h : Memory.wf m = true) :
    Memory.wf (copyRange m src dst n) = true := by
  unfold copyRange
  refine Memory.wf_foldl_tset (fun k => k - src + dst) _ ?_ (Memory.wf_clearRange dst n h)
  have := Memory.wf_filter (fun c => decide (src ≤ c.1 ∧ c.1 < src + n)) h
  exact (Memory.wf_iff.mp this).2

/-! ## Read after write -/

theorem mrd_mwr (m : List Host.Cell) (k j : Nat) (b : Byte) : mrd (mwr m k b) j = if j = k then b else mrd m j := by
  unfold mrd mwr
  by_cases hj : j = k
  · subst hj
    by_cases hb : b = 0
    · rw [if_pos hb]; simp [hb]
    · rw [if_neg hb]; simp
  · rw [if_neg hj]
    by_cases hb : b = 0
    · rw [if_pos hb, tget_tdel_other _ hj]
    · rw [if_neg hb, tget_tset_other _ _ hj]

@[simp] theorem mrd_mwr_same (m : List Host.Cell) (k : Nat) (b : Byte) : mrd (mwr m k b) k = b := by simp [mrd_mwr]

/-- Writing bytes changes the bytes of the range alone. -/
theorem mrd_mwrN : ∀ (bs : List Byte) (m : List Host.Cell) (k j : Nat),
    mrd (mwrN m k bs) j = if k ≤ j ∧ j < k + bs.length then bs.getD (j - k) 0 else mrd m j
  | [], m, k, j => by
    have h0 : ¬(k ≤ j ∧ j < k + ([] : List Byte).length) := by
      rw [List.length_nil]; omega
    rw [if_neg h0, mwrN]
  | b :: bs, m, k, j => by
    rw [mwrN, mrd_mwrN bs, mrd_mwr]
    by_cases h : j = k
    · subst h
      have h1 : ¬(j + 1 ≤ j ∧ j < j + 1 + bs.length) := by omega
      have h2 : j ≤ j ∧ j < j + (b :: bs).length := by simp
      rw [if_neg h1, if_pos h2]
      simp
    · by_cases h1 : k + 1 ≤ j ∧ j < k + 1 + bs.length
      · have h2 : k ≤ j ∧ j < k + (b :: bs).length := by simp; omega
        have h3 : j - k = (j - (k + 1)) + 1 := by omega
        rw [if_pos h1, if_pos h2, h3, List.getD_cons_succ]
      · have h2 : ¬(k ≤ j ∧ j < k + (b :: bs).length) := by simp; omega
        rw [if_neg h1, if_neg h2, if_neg h]

/-- What is written is what is read. -/
theorem mrdN_mwrN : ∀ (bs : List Byte) (m : List Host.Cell) (k : Nat), mrdN (mwrN m k bs) k bs.length = bs
  | [], _, _ => rfl
  | b :: bs, m, k => by
    have ih := mrdN_mwrN bs (mwr m k b) (k + 1)
    have hd : mrd (mwrN (mwr m k b) (k + 1) bs) k = b := by
      have h0 : ¬(k + 1 ≤ k ∧ k < k + 1 + bs.length) := by omega
      rw [mrd_mwrN, if_neg h0, mrd_mwr_same]
    simp only [mwrN, List.length_cons, mrdN, hd, ih]

/-- Clearing a range makes it read 0 and leaves every other byte. -/
theorem mrd_clearRange (m : List Host.Cell) (k n j : Nat) :
    mrd (clearRange m k n) j = if k ≤ j ∧ j < k + n then 0 else mrd m j := by
  unfold mrd clearRange
  induction m with
  | nil => simp
  | cons e r ih =>
    obtain ⟨i, w⟩ := e
    by_cases hi : k ≤ i ∧ i < k + n
    · have h0 : (!decide (k ≤ (i, w).1 ∧ (i, w).1 < k + n)) = false := by simp [hi]
      rw [List.filter_cons_of_neg (by simp [hi]), ih]
      split
      · rfl
      · next hj =>
        have hij : i ≠ j := fun e => hj (e ▸ hi)
        simp [tget, hij]
    · rw [List.filter_cons_of_pos (by rw [Bool.not_eq_true', decide_eq_false_iff_not]; exact hi)]
      by_cases hij : i = j
      · subst hij; simp [tget, hi]
      · simp only [tget, beq_iff_eq, hij, if_false, ih]

end Sys2Proof.Machine
end

