-- ==== Sys2Proof/Laws/Keeps.lean ====
section
/-! SUPPORT. What every operation keeps: the queue, the canonical memory, the outputs already sent, the fuses. -/

namespace Sys2Proof.Machine

open Sys2Proof

/-- `d` has the fuses of `c`. -/
structure Fuses (c d : Chip) : Prop where
  opt : d.optFuses = c.optFuses
  serial : d.serial = c.serial
  keys : d.rootKeys = c.rootKeys
  svn : d.fusedSvn = c.fusedSvn
  revoked : d.revoked = c.revoked

theorem Fuses.refl (c : Chip) : Fuses c c := ⟨rfl, rfl, rfl, rfl, rfl⟩

theorem Fuses.trans {c d e : Chip} (h : Fuses c d) (k : Fuses d e) : Fuses c e :=
  ⟨k.opt.trans h.opt, k.serial.trans h.serial, k.keys.trans h.keys, k.svn.trans h.svn, k.revoked.trans h.revoked⟩

/-- `t` is a state that operations of the model, but those that burn fuses, can make of `s`. -/
structure Keeps (s t : State) : Prop where
  pending : t.pending = s.pending
  mem : Memory.wf s.mem = true → Memory.wf t.mem = true
  out : s.out <+: t.out
  draws : s.draws ≤ t.draws
  chip : Fuses s.chip t.chip

theorem Keeps.refl (s : State) : Keeps s s := ⟨rfl, id, List.prefix_refl _, Nat.le_refl _, Fuses.refl _⟩

theorem Keeps.trans {s t u : State} (h : Keeps s t) (k : Keeps t u) : Keeps s u :=
  ⟨k.pending.trans h.pending, fun w => k.mem (h.mem w), h.out.trans k.out, Nat.le_trans h.draws k.draws, h.chip.trans k.chip⟩

variable {r s t u : State} {α β : Type}

/-- A record update that leaves the five fields. -/
theorem keeps_mk (h : Keeps r u) {ep regs mb fw ev parts funcs ti tiers xl jl qe pp sec pm cu sb ck} :
    Keeps r (State.mk u.chip ep regs mb fw ev parts funcs ti u.mem tiers xl jl qe pp sec pm cu sb ck u.out u.draws u.pending) :=
  ⟨h.pending, h.mem, h.out, h.draws, h.chip⟩

theorem keeps_mk_iff {u ep regs mb fw ev parts funcs ti tiers xl jl qe pp sec pm cu sb ck} :
    Keeps r (State.mk u.chip ep regs mb fw ev parts funcs ti u.mem tiers xl jl qe pp sec pm cu sb ck u.out u.draws u.pending) ↔
      Keeps r u :=
  ⟨fun h => ⟨h.pending, h.mem, h.out, h.draws, h.chip⟩, fun h => keeps_mk h⟩

/-- A record update that changes memory as well. -/
theorem keeps_mem {m} (h : Keeps r u) (hm : Memory.wf u.mem = true → Memory.wf m = true)
    {ep regs mb fw ev parts funcs ti tiers xl jl qe pp sec pm cu sb ck} :
    Keeps r (State.mk u.chip ep regs mb fw ev parts funcs ti m tiers xl jl qe pp sec pm cu sb ck u.out u.draws u.pending) :=
  ⟨h.pending, fun w => hm (h.mem w), h.out, h.draws, h.chip⟩

/-- A record update that changes the chip as well. -/
theorem keeps_chip {c} (h : Keeps r u) (hc : Fuses u.chip c)
    {ep regs mb fw ev parts funcs ti tiers xl jl qe pp sec pm cu sb ck} :
    Keeps r (State.mk c ep regs mb fw ev parts funcs ti u.mem tiers xl jl qe pp sec pm cu sb ck u.out u.draws u.pending) :=
  ⟨h.pending, h.mem, h.out, h.draws, h.chip.trans hc⟩

/-- A draw of a free value. -/
theorem keeps_draws {d} (h : Keeps r u) (hd : u.draws ≤ d) {ep regs mb fw ev parts funcs ti tiers xl jl qe pp sec pm cu sb ck} :
    Keeps r (State.mk u.chip ep regs mb fw ev parts funcs ti u.mem tiers xl jl qe pp sec pm cu sb ck u.out d u.pending) :=
  ⟨h.pending, h.mem, h.out, Nat.le_trans h.draws hd, h.chip⟩

/-- An intermediate state. -/
theorem keeps_cut {P : Prop} (hu : Keeps r u) (h : Keeps r u → P) : P := h hu

theorem keeps_ite {c : Prop} [Decidable c] {a b : State} (ha : c → Keeps r a) (hb : ¬c → Keeps r b) :
    Keeps r (if c then a else b) := by
  split
  · next h => exact ha h
  · next h => exact hb h

theorem keeps_foldl {f : State → α → State} (hf : ∀ t a, Keeps r t → Keeps r (f t a)) :
    ∀ (l : List α) {s : State}, Keeps r s → Keeps r (l.foldl f s)
  | [], _, h => h
  | a :: l, _, h => keeps_foldl hf l (hf _ a h)

/-- The state of a pair that a fold carries. -/
theorem keeps_foldl_snd {f : β × State → α → β × State} (hf : ∀ t a, Keeps r t.2 → Keeps r (f t a).2) :
    ∀ (l : List α) {s : β × State}, Keeps r s.2 → Keeps r (l.foldl f s).2
  | [], _, h => h
  | a :: l, _, h => keeps_foldl_snd hf l (hf _ a h)

theorem keeps_ite_snd {c : Prop} [Decidable c] {a b : β × State} (ha : c → Keeps r a.2) (hb : ¬c → Keeps r b.2) :
    Keeps r (if c then a else b).2 := by
  split
  · next h => exact ha h
  · next h => exact hb h

/-- A local function is put in its place. -/
theorem keeps_fn {P : Prop} (_f : α → β) (h : P) : P := h

theorem keepsSnd_use {p : α × State} {a} (e : p = (a, t)) (h : Keeps r p.2) : Keeps r t := by
  rw [e] at h
  exact h

theorem keepsSnd3_use {p : α × β × State} {a b} (e : p = (a, b, t)) (h : Keeps r p.2.2) : Keeps r t := by
  rw [e] at h
  exact h

/-- The same of what may be no state. -/
def KeepsOpt (r : State) (o : Option State) : Prop := ∀ t, o = some t → Keeps r t

theorem keepsOpt_cut {o : Option State} {P : Prop} (hu : KeepsOpt r o) (h : KeepsOpt r o → P) : P := h hu
theorem keepsOpt_use {o : Option State} (e : o = some t) (h : KeepsOpt r o) : Keeps r t := h _ e
theorem keepsOpt_none : KeepsOpt r none := fun _ h => nomatch h
theorem keepsOpt_some (h : Keeps r t) : KeepsOpt r (some t) := fun _ e => by cases e; exact h
theorem keepsOpt_ite {c : Prop} [Decidable c] {a b : Option State} (ha : c → KeepsOpt r a) (hb : ¬c → KeepsOpt r b) :
    KeepsOpt r (if c then a else b) := by
  split
  · next h => exact ha h
  · next h => exact hb h

/-- The same of what may be no value with a state. -/
def KeepsOpt2 (r : State) (o : Option (α × State)) : Prop := ∀ a t, o = some (a, t) → Keeps r t

theorem keepsOpt2_cut {o : Option (α × State)} {P : Prop} (hu : KeepsOpt2 r o) (h : KeepsOpt2 r o → P) : P := h hu
theorem keepsOpt2_use {o : Option (α × State)} {a} (e : o = some (a, t)) (h : KeepsOpt2 r o) : Keeps r t := h _ _ e
theorem keepsOpt2_none : KeepsOpt2 r (none : Option (α × State)) := fun _ _ h => nomatch h
theorem keepsOpt2_some {p : α × State} (h : Keeps r p.2) : KeepsOpt2 r (some p) := fun _ _ e => by cases e; exact h
theorem keepsOpt2_ite {c : Prop} [Decidable c] {a b : Option (α × State)} (ha : c → KeepsOpt2 r a) (hb : ¬c → KeepsOpt2 r b) :
    KeepsOpt2 r (if c then a else b) := by
  split
  · next h => exact ha h
  · next h => exact hb h

/-- The same of what may be no pair of values with a state. -/
def KeepsOpt3 (r : State) (o : Option (α × β × State)) : Prop := ∀ a b t, o = some (a, b, t) → Keeps r t

theorem keepsOpt3_use {o : Option (α × β × State)} {a b} (e : o = some (a, b, t)) (h : KeepsOpt3 r o) : Keeps r t := h _ _ _ e
theorem keepsOpt3_none : KeepsOpt3 r (none : Option (α × β × State)) := fun _ _ _ h => nomatch h
theorem keepsOpt3_some {p : α × β × State} (h : Keeps r p.2.2) : KeepsOpt3 r (some p) := fun _ _ _ e => by cases e; exact h
theorem keepsOpt3_ite {c : Prop} [Decidable c] {a b : Option (α × β × State)} (ha : c → KeepsOpt3 r a) (hb : ¬c → KeepsOpt3 r b) :
    KeepsOpt3 r (if c then a else b) := by
  split
  · next h => exact ha h
  · next h => exact hb h

theorem keepsOpt2_some_use {a : α} (h : KeepsOpt2 r (some (a, t))) : Keeps r t := h _ _ rfl

theorem keepsOpt_map {o : Option State} {f : State → State} (ho : KeepsOpt r o) (hf : ∀ t, Keeps r t → Keeps r (f t)) :
    KeepsOpt r (o.map f) := by
  intro t e
  match o, ho, e with
  | some u, k, e => cases e; exact hf _ (k _ rfl)

theorem keepsOpt2_getD {o : Option (α × State)} (ho : KeepsOpt2 r o) (hu : Keeps r u) : Keeps r ((o.map Prod.snd).getD u) := by
  match o, ho with
  | none, _ => exact hu
  | some (_, _), k => exact k _ _ rfl

theorem keepsOpt_getD {o : Option State} (ho : KeepsOpt r o) (hu : Keeps r u) : Keeps r (o.getD u) := by
  match o, ho with
  | none, _ => exact hu
  | some _, k => exact k _ rfl

/-- The same of the outcome of a command. -/
def KeepsOut (r : State) : Host.Outcome State Fault Refusal → Prop
  | .next t => Keeps r t
  | _ => True

theorem keepsOut_next (h : Keeps r t) : KeepsOut r (.next t) := h
theorem keepsOut_ite {c : Prop} [Decidable c] {a b : Host.Outcome State Fault Refusal} (ha : c → KeepsOut r a)
    (hb : ¬c → KeepsOut r b) : KeepsOut r (if c then a else b) := by
  split
  · next h => exact ha h
  · next h => exact hb h

theorem KeepsOut.next_iff : KeepsOut r (.next t) ↔ Keeps r t := Iff.rfl

/-! ## Burning fuses -/

/-- `t` comes of `s` with fuses burnt: the security version may have risen, revocation bits may have been added. -/
structure Burns (s t : State) : Prop where
  pending : t.pending = s.pending
  mem : Memory.wf s.mem = true → Memory.wf t.mem = true
  out : s.out <+: t.out
  draws : s.draws ≤ t.draws
  opt : t.chip.optFuses = s.chip.optFuses
  serial : t.chip.serial = s.chip.serial
  keys : t.chip.rootKeys = s.chip.rootKeys
  svn : s.chip.fusedSvn ≤ t.chip.fusedSvn
  revoked : t.chip.revoked ||| s.chip.revoked = t.chip.revoked

theorem Keeps.burns (h : Keeps s t) : Burns s t :=
  ⟨h.pending, h.mem, h.out, h.draws, h.chip.opt, h.chip.serial, h.chip.keys, Nat.le_of_eq h.chip.svn.symm,
    by rw [h.chip.revoked, Nat.or_self]⟩

theorem Burns.trans_keeps (h : Burns s t) (k : Keeps t u) : Burns s u :=
  ⟨k.pending.trans h.pending, fun w => k.mem (h.mem w), h.out.trans k.out, Nat.le_trans h.draws k.draws, k.chip.opt.trans h.opt,
    k.chip.serial.trans h.serial, k.chip.keys.trans h.keys, by rw [k.chip.svn]; exact h.svn, by rw [k.chip.revoked]; exact h.revoked⟩

theorem burns_ite {c : Prop} [Decidable c] {a b : State} (ha : c → Burns r a) (hb : ¬c → Burns r b) : Burns r (if c then a else b) := by
  split
  · next h => exact ha h
  · next h => exact hb h

/-- The same of the outcome of a command. -/
def BurnsOut (r : State) : Host.Outcome State Fault Refusal → Prop
  | .next t => Burns r t
  | _ => True

theorem KeepsOut.burns {o : Host.Outcome State Fault Refusal} (h : KeepsOut r o) : BurnsOut r o := by
  cases o with
  | next t => exact Keeps.burns h
  | _ => trivial

/-! ## Fuses under changes of the chip -/

theorem fuses_keep (c : Chip) {opt lcount cause level asserted loaded rootLock refOk backup faultN perst sysRst pwrFail lowRails
    flushWait soft bootDone bootTried bootImage rejects recovery blockRsts} :
    Fuses c (Chip.mk c.optFuses opt c.serial c.rootKeys c.revoked c.fusedSvn lcount cause level asserted loaded rootLock refOk
      backup faultN perst sysRst pwrFail lowRails flushWait soft bootDone bootTried bootImage rejects recovery blockRsts) :=
  ⟨rfl, rfl, rfl, rfl, rfl⟩

end Sys2Proof.Machine
end

