-- ==== Sys2Proof/Laws/Keeps/Ops.lean ====
section
/-! SUPPORT. The operations of Machine/Ops.lean keep what every operation keeps. -/

namespace Sys2Proof.Machine

open Sys2Proof

set_option linter.tactic.unusedName false

variable {orig res : State}

theorem emit_keeps (o : Out) (s : State) (h : Keeps orig s) : Keeps orig (emit o s) :=
  ⟨h.pending, h.mem, h.out.trans (List.prefix_append _ _), h.draws, h.chip⟩

theorem draw_keeps (s : State) (h : Keeps orig s) : Keeps orig (draw s).2 := keeps_draws h (Nat.le_succ _)

theorem needWake_keeps (s : State) (kept : Keeps orig s) : Keeps orig (needWake s) := keeps_mk kept

theorem wakeUp_keeps (s : State) (kept : Keeps orig s) : Keeps orig (wakeUp s) := keeps_mk kept

theorem wakeFor_keeps (tgt : Nat) (s : State) (kept : Keeps orig s) :
    Keeps orig (wakeFor tgt s) := by
  unfold wakeFor
  repeat' (first
    | with_reducible intro _ | with_reducible assumption | with_reducible apply keeps_ite
    | with_reducible apply wakeUp_keeps)

theorem bump_keeps (blk c n : Nat) (s : State) (kept : Keeps orig s) : Keeps orig (bump blk c n s) := keeps_mk kept

theorem modFunc_keeps (f : Nat) (g : Func → Func) (s : State) (kept : Keeps orig s) : Keeps orig (modFunc f g s) := keeps_mk kept

theorem modPart_keeps (p : Nat) (g : Part → Part) (s : State) (kept : Keeps orig s) : Keeps orig (modPart p g s) := keeps_mk kept

theorem modProc_keeps (p : Nat) (g : Proc → Proc) (s : State) (kept : Keeps orig s) : Keeps orig (modProc p g s) := keeps_mk kept

theorem modTile_keeps (t : Nat) (g : Tile → Tile) (s : State) (kept : Keeps orig s) : Keeps orig (modTile t g s) := keeps_mk kept

theorem setGroup_keeps (p : Nat) (g : Group) (s : State) (kept : Keeps orig s) : Keeps orig (setGroup p g s) := keeps_mk kept

theorem modChan_keeps (c : Nat) (g : Chan → Chan) (s : State) (kept : Keeps orig s) : Keeps orig (modChan c g s) := keeps_mk kept

theorem modCxl_keeps (d : Nat) (g : CxlDev → CxlDev) (s : State) (kept : Keeps orig s) : Keeps orig (modCxl d g s) := keeps_mk kept

theorem modTrans_keeps (p : Nat) (g : Trans → Trans) (s : State) (kept : Keeps orig s) : Keeps orig (modTrans p g s) := keeps_mk kept

theorem setXfer_keeps (x : Nat) (f : Xfer) (s : State) (kept : Keeps orig s) : Keeps orig (setXfer x f s) := keeps_mk kept

theorem delXfer_keeps (x : Nat) (s : State) (kept : Keeps orig s) : Keeps orig (delXfer x s) := keeps_mk kept

theorem modMbox_keeps (m : Nat) (g : Mailbox → Mailbox) (s : State) (kept : Keeps orig s) : Keeps orig (modMbox m g s) := keeps_mk kept

theorem wrMem_keeps (space addr : Nat) (bs : List Byte) (s : State) (h : Keeps orig s) : Keeps orig (wrMem space addr bs s) :=
  keeps_mem h (Memory.wf_mwrN bs _)

theorem hostStores_keeps (w : List HostStore) (s : State) (h : Keeps orig s) : Keeps orig (hostStores w s) := by
  refine keeps_mem h (fun k => ?_)
  have : ∀ (l : List HostStore) (m : List Host.Cell), Memory.wf m = true →
      Memory.wf (l.foldl (fun m p => mwr m (mkey spHost p.1) p.2) m) = true := by
    intro l
    induction l with
    | nil => exact fun _ e => e
    | cons p l ih => exact fun m e => ih _ (Memory.wf_mwr _ _ e)
  exact this w _ k

theorem hostWrite_keeps (f addr : Nat) (bs : List Byte) (s : State) (kept : Keeps orig s) :
    Keeps orig (hostWrite f addr bs s) := by
  unfold hostWrite
  repeat' (first
    | (simp -zeta only [keeps_mk_iff]) | with_reducible assumption | with_reducible apply wrMem_keeps
    | with_reducible apply bump_keeps | with_reducible apply emit_keeps)

theorem msix_keeps (f v : Nat) (s : State) (kept : Keeps orig s) :
    Keeps orig (msix f v s) := by
  unfold msix
  repeat' (first
    | with_reducible intro _ | with_reducible assumption | with_reducible apply keeps_ite
    | with_reducible apply modFunc_keeps | with_reducible apply bump_keeps | with_reducible apply emit_keeps)

theorem evAppend_keeps (bs : List Byte) (s : State) (kept : Keeps orig s) :
    Keeps orig (evAppend bs s) := by
  unfold evAppend
  repeat' (first | (simp -zeta only [keeps_mk_iff]) | with_reducible assumption | with_reducible apply bump_keeps)

theorem evTimebase_keeps (s : State) (kept : Keeps orig s) :
    Keeps orig (evTimebase s) := by
  unfold evTimebase
  repeat' (first
    | (simp -zeta only [keeps_mk_iff]) | with_reducible intro _ | with_reducible assumption
    | with_reducible apply keeps_ite
    | (extract_lets +onlyGivenNames x; refine keeps_cut (r := orig) (u := x) ?_ (fun _ => ?_); rotate_left; clear_value x; revert x; intro _ _; rotate_left; (simp -zeta only [x]); clear x)
    | with_reducible apply evAppend_keeps)

theorem evKeep_keeps (code sev : Nat) (bs : List Byte) (s : State) (kept : Keeps orig s) :
    Keeps orig (evKeep code sev bs s) := by
  unfold evKeep
  repeat' (first
    | (simp -zeta only [keeps_mk_iff]) | with_reducible intro _ | with_reducible assumption
    | with_reducible apply keeps_ite | with_reducible apply evTimebase_keeps | with_reducible apply evAppend_keeps)

theorem evSuppress_keeps (code : Nat) (s : State) (kept : Keeps orig s) :
    Keeps orig (evSuppress code s) := by
  unfold evSuppress
  repeat' (first | (simp -zeta only [keeps_mk_iff]) | with_reducible assumption | with_reducible apply bump_keeps)

theorem startFlush_keeps (cause : Nat) (s : State) (kept : Keeps orig s) :
    Keeps orig (startFlush cause s) := by
  unfold startFlush
  repeat' (first | (simp -zeta only [keeps_mk_iff]) | with_reducible assumption | split)

theorem eventRaw_keeps (code sev : Nat) (bs : List Byte) (s : State) (kept : Keeps orig s) :
    Keeps orig (eventRaw code sev bs s) := by
  unfold eventRaw
  repeat' (first
    | with_reducible intro _ | with_reducible assumption | with_reducible apply keeps_ite
    | with_reducible apply startFlush_keeps | with_reducible apply evSuppress_keeps
    | with_reducible apply evKeep_keeps | with_reducible apply msix_keeps)

theorem event_keeps (code sev src part : Nat) (payload : List Byte) (s : State) (kept : Keeps orig s) :
    Keeps orig (event code sev src part payload s) := by
  unfold event
  repeat' (first | with_reducible assumption | with_reducible apply eventRaw_keeps)

theorem logDrop_keeps (blk cause offset : Nat) (door : Bool) (s : State) (kept : Keeps orig s) :
    Keeps orig (logDrop blk cause offset door s) := by
  unfold logDrop
  repeat' (first
    | (simp -zeta only [keeps_mk_iff]) | with_reducible assumption
    | (extract_lets +onlyGivenNames x; clear_value x; revert x; intro _))

theorem dropWrite_keeps (func blk cause offset : Nat) (door : Bool) (s : State) (kept : Keeps orig s) :
    Keeps orig (dropWrite func blk cause offset door s) := by
  unfold dropWrite
  repeat' (first | with_reducible assumption | with_reducible apply logDrop_keeps | with_reducible apply emit_keeps)

theorem answer_keeps (m status : Nat) (b : Body) (s : State) (kept : Keeps orig s) :
    Keeps orig (answer m status b s) := by
  unfold answer
  repeat' (first | with_reducible assumption | with_reducible apply modMbox_keeps)

theorem finish_keeps (r : MbRef) (status : Nat) (b : Body) (s : State) (kept : Keeps orig s) :
    Keeps orig (finish r status b s) := by
  unfold finish
  repeat' (first
    | with_reducible assumption | (extract_lets +onlyGivenNames x; clear_value x; revert x; intro _)
    | with_reducible apply answer_keeps | split)

theorem startService_keeps (m proc : Nat) (s : State) (kept : Keeps orig s) :
    Keeps orig (startService m proc s) := by
  unfold startService
  repeat' (first | with_reducible assumption | with_reducible apply modMbox_keeps | with_reducible apply bump_keeps)

/-- What the work of an opcode keeps. -/
inductive KeepsAns (orig : State) : Ans → Prop where
  | reject {st} : KeepsAns orig (.reject st)
  | ok {t b} (h : Keeps orig t) : KeepsAns orig (.ok t b)
  | deferred {t} (h : Keeps orig t) : KeepsAns orig (.deferred t)
  | later {t c} (h : Keeps orig t) : KeepsAns orig (.later t c)
  | wait : KeepsAns orig .wait

theorem keepsAns_reject {st : Nat} : KeepsAns orig (.reject st) := .reject
theorem keepsAns_wait : KeepsAns orig .wait := .wait
theorem keepsAns_ok {b : Body} (h : Keeps orig res) : KeepsAns orig (.ok res b) := .ok h
theorem keepsAns_deferred (h : Keeps orig res) : KeepsAns orig (.deferred res) := .deferred h
theorem keepsAns_later {c : Bool} (h : Keeps orig res) : KeepsAns orig (.later res c) := .later h
theorem keepsAns_use_ok {a : Ans} {b : Body} (e : a = .ok res b) (h : KeepsAns orig a) : Keeps orig res := by
  rw [e] at h
  cases h
  assumption
theorem keepsAns_use_deferred {a : Ans} (e : a = .deferred res) (h : KeepsAns orig a) : Keeps orig res := by
  rw [e] at h
  cases h
  assumption
theorem keepsAns_use_later {a : Ans} {c : Bool} (e : a = .later res c) (h : KeepsAns orig a) : Keeps orig res := by
  rw [e] at h
  cases h
  assumption
theorem keepsAns_ite {c : Prop} [Decidable c] {a b : Ans} (ha : c → KeepsAns orig a) (hb : ¬c → KeepsAns orig b) :
    KeepsAns orig (if c then a else b) := by
  split
  · next h => exact ha h
  · next h => exact hb h

theorem serve_keeps (c : Call) (op : Nat) (k : Req → State → Ans) (s : State)
    (hk : ∀ q t, Keeps orig t → KeepsAns orig (k q t)) (h : Keeps orig s) : Keeps orig (serve c op k s) := by
  unfold serve
  dsimp only
  split
  · next q _ _ =>
    have h1 := startService_keeps (mbIx c.func c.urgent) (serveProc op s) s h
    have h2 := hk q _ h1
    refine keeps_ite (fun _ => h) (fun _ => keeps_ite (fun _ => h) (fun _ => keeps_ite (fun _ => answer_keeps _ _ _ _ h)
      (fun _ => keeps_ite (fun _ => h) (fun _ => ?_))))
    split
    · exact answer_keeps _ _ _ _ h1
    · refine keeps_ite (fun _ => answer_keeps _ _ _ _ h1) (fun _ => keeps_ite (fun _ => h) (fun _ => keeps_ite
        (fun _ => answer_keeps _ _ _ _ h1) (fun _ => keeps_ite (fun _ => answer_keeps _ _ _ _ h1) (fun _ => ?_))))
      split
      · exact answer_keeps _ _ _ _ h1
      · next e => exact answer_keeps _ _ _ _ (by rw [e] at h2; cases h2; assumption)
      · next e => exact answer_keeps _ _ _ _ (by rw [e] at h2; cases h2; assumption)
      · next e => exact modMbox_keeps _ _ _ (by rw [e] at h2; cases h2; assumption)
      · exact h
  · exact h

theorem page_keeps (c : Call) (op cursor : Nat) (rows : List (List Nat)) (s : State) (h : Keeps orig s) :
    KeepsAns orig (page c op cursor rows s) := by
  unfold page
  dsimp only
  exact keepsAns_ite (fun _ => keepsAns_reject) (fun _ => keepsAns_ok (keeps_draws h (Nat.le_succ _)))

theorem pageRead_keeps (c : Call) (r : Req) (op cursor : Nat) (rows : List (List Nat)) (s : State) (kept : Keeps orig s) :
    KeepsAns orig (pageRead c r op cursor rows s) := by
  unfold pageRead
  repeat' (first
    | with_reducible intro _ | with_reducible assumption | with_reducible apply keepsAns_ite
    | with_reducible apply keepsAns_reject | with_reducible apply page_keeps)

theorem serveRead_keeps (c : Call) (op cursor : Nat) (rows : Req → State → List (List Nat)) (s : State) (h : Keeps orig s) :
    Keeps orig (serveRead c op cursor rows s) := serve_keeps _ _ _ _ (fun _ _ k => pageRead_keeps _ _ _ _ _ _ k) h

theorem abandonMbox_keeps (m : Nat) (s : State) (kept : Keeps orig s) :
    Keeps orig (abandonMbox m s) := by
  unfold abandonMbox
  repeat' (first | with_reducible assumption | with_reducible apply modMbox_keeps)

end Sys2Proof.Machine
end

