-- ==== Sys2Proof/Laws/Keeps/Access.lean ====
section
/-! SUPPORT. The operations of Machine/Access.lean keep what every operation keeps. -/

namespace Sys2Proof.Machine

open Sys2Proof

set_option linter.tactic.unusedName false

variable {orig res : State}

/-- What every operation keeps, of the state in a result. -/
inductive KeepsAcc (orig : State) : Acc → Prop where
  | ok {b} {s} (h : Keeps orig s) : KeepsAcc orig (.ok b s)
  | stop {b} {s} (h : Keeps orig s) : KeepsAcc orig (.stop b s)

theorem keepsAcc_ok {b} (h : Keeps orig res) : KeepsAcc orig (.ok b res) := .ok h

theorem keepsAcc_use_ok {o : Acc} {b} (e : o = .ok b res) (h : KeepsAcc orig o) : Keeps orig res := by
  rw [e] at h
  cases h
  assumption

theorem keepsAcc_stop {b} (h : Keeps orig res) : KeepsAcc orig (.stop b res) := .stop h

theorem keepsAcc_use_stop {o : Acc} {b} (e : o = .stop b res) (h : KeepsAcc orig o) : Keeps orig res := by
  rw [e] at h
  cases h
  assumption

theorem keepsAcc_ite {c : Prop} [Decidable c] {a b : Acc} (ha : c → KeepsAcc orig a) (hb : ¬c → KeepsAcc orig b) :
    KeepsAcc orig (if c then a else b) := by
  split
  · next h => exact ha h
  · next h => exact hb h

theorem reserve_keeps (use : ReserveUse) (n : Nat) (s : State) (kept : Keeps orig s) :
    KeepsOpt2 orig (reserve use n s) := by
  unfold reserve
  repeat' (first
    | (simp -zeta only [keeps_mk_iff]) | with_reducible assumption
    | (extract_lets +onlyGivenNames x; clear_value x; revert x; intro _) | with_reducible exact keepsOpt2_none
    | with_reducible apply keepsOpt2_some | split)

theorem unreserve_keeps (p : ReserveUse → Bool) (s : State) (kept : Keeps orig s) : Keeps orig (unreserve p s) := keeps_mk kept

theorem memError_keeps (p : Place) (kind part symbol : Nat) (s : State) (kept : Keeps orig s) :
    Keeps orig (memError p kind part symbol s) := by
  unfold memError
  repeat' (first | (simp -zeta only [keeps_mk_iff]) | with_reducible assumption | with_reducible apply event_keeps)

theorem quarantine_keeps (key : Nat) (s : State) (kept : Keeps orig s) :
    Keeps orig (quarantine key s) := by
  unfold quarantine
  repeat' (first
    | (simp -zeta only [keeps_mk_iff]) | with_reducible intro _ | with_reducible assumption
    | with_reducible apply keeps_ite | with_reducible apply event_keeps)

theorem placeFatal_keeps (s : State) (kept : Keeps orig s) :
    Keeps orig (placeFatal s) := by
  unfold placeFatal
  repeat' (first
    | (simp -zeta only [keeps_mk_iff]) | with_reducible intro _ | with_reducible assumption
    | with_reducible apply keeps_ite | with_reducible apply keeps_foldl | with_reducible apply quarantine_keeps)

theorem unquarantine_keeps (key : Nat) (s : State) (kept : Keeps orig s) :
    Keeps orig (unquarantine key s) := by
  unfold unquarantine
  repeat' (first
    | (simp -zeta only [keeps_mk_iff]) | with_reducible assumption | with_reducible apply placeFatal_keeps)

theorem retire_keeps (p : Place) (part : Nat) (s : State) (kept : Keeps orig s) :
    Keeps orig (retire p part s) := by
  unfold retire
  repeat' (first
    | with_reducible assumption | with_reducible apply memError_keeps | with_reducible apply modChan_keeps)

theorem corrected_keeps (p : Place) (part symbol : Nat) (s : State) (kept : Keeps orig s) :
    Keeps orig (corrected p part symbol s) := by
  unfold corrected
  repeat' (first
    | (simp -zeta only [keeps_mk_iff]) | with_reducible intro _ | with_reducible assumption
    | with_reducible apply keeps_ite | with_reducible apply retire_keeps | with_reducible apply quarantine_keeps
    | with_reducible apply memError_keeps | with_reducible apply bump_keeps)

theorem uncorrectable_keeps (p : Place) (part : Nat) (s : State) (kept : Keeps orig s) :
    Keeps orig (uncorrectable p part s) := by
  unfold uncorrectable
  repeat' (first
    | (simp -zeta only [keeps_mk_iff]) | with_reducible intro _ | with_reducible assumption
    | with_reducible apply keeps_ite | with_reducible apply quarantine_keeps | with_reducible apply memError_keeps
    | with_reducible apply bump_keeps)

theorem checkTouch_keeps (write : Bool) (addr : Nat) (s : State) (kept : Keeps orig s) :
    Keeps orig (checkTouch write addr s) := by
  unfold checkTouch
  repeat' (first
    | with_reducible assumption | (extract_lets +onlyGivenNames x; clear_value x; revert x; intro _)
    | with_reducible apply modChan_keeps | with_reducible apply bump_keeps | split)

theorem checkPlace_keeps (write : Bool) (p : Place) (s : State) (kept : Keeps orig s) :
    Keeps orig (checkPlace write p s) := by
  unfold checkPlace
  repeat' (first
    | with_reducible intro _ | with_reducible assumption | with_reducible apply keeps_ite
    | with_reducible apply checkTouch_keeps)

theorem checkSpan_keeps (write : Bool) : ∀ (x0 : Nat) (x1 : Place) (x2 : State), Keeps orig x2 →
    Keeps orig (checkSpan write x0 x1 x2)
  | 0, _, s, kept => by
    unfold checkSpan
    repeat' (first
      | with_reducible assumption | with_reducible apply checkPlace_keeps | with_reducible apply checkSpan_keeps)
  | n + 1, p, s, kept => by
    unfold checkSpan
    repeat' (first
      | with_reducible assumption | with_reducible apply checkPlace_keeps | with_reducible apply checkSpan_keeps)

theorem readLine_keeps (p : Place) (part : Nat) (ecc : List EccHit) (s : State) (kept : Keeps orig s) :
    Keeps orig (readLine p part ecc s).2 := by
  unfold readLine
  repeat' (first
    | with_reducible intro _ | with_reducible assumption | with_reducible apply keeps_ite_snd
    | with_reducible apply checkPlace_keeps | with_reducible apply uncorrectable_keeps
    | with_reducible apply corrected_keeps | split)

theorem writeLine_keeps (p : Place) (n part : Nat) (ecc : List EccHit) (s : State) (kept : Keeps orig s) :
    Keeps orig (writeLine p n part ecc s).2 := by
  unfold writeLine
  repeat' (first
    | with_reducible intro _ | with_reducible assumption | with_reducible apply keeps_ite_snd
    | with_reducible apply checkPlace_keeps | with_reducible apply uncorrectable_keeps
    | with_reducible apply corrected_keeps | with_reducible apply retire_keeps
    | with_reducible apply unquarantine_keeps | split)

theorem writeCopy_keeps (p : Place) (n part : Nat) (s : State) (kept : Keeps orig s) :
    Keeps orig (writeCopy p n part s).2.2 := by
  unfold writeCopy
  repeat' (first
    | with_reducible assumption | with_reducible apply writeLine_keeps
    | with_reducible refine keepsSnd_use (by assumption) ?_ | split)

theorem readSpan_keeps (part : Nat) (ecc : List EccHit) : ∀ (x0 : Nat) (x1 : Place) (x2 : Nat) (x3 : State), Keeps orig x3 →
    KeepsAcc orig (readSpan part ecc x0 x1 x2 x3)
  | 0, _, _, s, kept => by
    unfold readSpan
    repeat' (first
      | with_reducible assumption | (extract_lets +onlyGivenNames x; clear_value x; revert x; intro _)
      | with_reducible apply keepsAcc_ok | with_reducible apply keepsAcc_stop | with_reducible apply readLine_keeps
      | with_reducible apply readSpan_keeps | with_reducible refine keepsSnd_use (by assumption) ?_
      | with_reducible refine keepsAcc_use_ok (by assumption) ?_
      | with_reducible refine keepsAcc_use_stop (by assumption) ?_ | split)
  | fuel + 1, p, n, s, kept => by
    unfold readSpan
    repeat' (first
      | with_reducible assumption | (extract_lets +onlyGivenNames x; clear_value x; revert x; intro _)
      | with_reducible apply keepsAcc_ok | with_reducible apply keepsAcc_stop | with_reducible apply readLine_keeps
      | with_reducible apply readSpan_keeps | with_reducible refine keepsSnd_use (by assumption) ?_
      | with_reducible refine keepsAcc_use_ok (by assumption) ?_
      | with_reducible refine keepsAcc_use_stop (by assumption) ?_ | split)

theorem writeSpan_keeps (part : Nat) (ecc : List EccHit) : ∀ (x0 : Nat) (x1 : Place) (x2 : List Byte) (x3 : State), Keeps orig x3 →
    KeepsAcc orig (writeSpan part ecc x0 x1 x2 x3)
  | 0, _, _, s, kept => by
    unfold writeSpan
    repeat' (first
      | with_reducible assumption
      | (extract_lets +onlyGivenNames x; refine keeps_cut (r := orig) (u := x) ?_ (fun _ => ?_); rotate_left; clear_value x; revert x; intro _ _; rotate_left; (simp -zeta only [x]); clear x)
      | (extract_lets +onlyGivenNames x; clear_value x; revert x; intro _) | with_reducible apply keepsAcc_ok
      | with_reducible apply keepsAcc_stop | with_reducible apply writeCopy_keeps
      | with_reducible apply writeLine_keeps | with_reducible apply wrMem_keeps
      | with_reducible apply writeSpan_keeps | with_reducible refine keepsSnd_use (by assumption) ?_
      | with_reducible refine keepsSnd3_use (by assumption) ?_ | split)
  | fuel + 1, p, bs, s, kept => by
    unfold writeSpan
    repeat' (first
      | with_reducible assumption
      | (extract_lets +onlyGivenNames x; refine keeps_cut (r := orig) (u := x) ?_ (fun _ => ?_); rotate_left; clear_value x; revert x; intro _ _; rotate_left; (simp -zeta only [x]); clear x)
      | (extract_lets +onlyGivenNames x; clear_value x; revert x; intro _) | with_reducible apply keepsAcc_ok
      | with_reducible apply keepsAcc_stop | with_reducible apply writeCopy_keeps
      | with_reducible apply writeLine_keeps | with_reducible apply wrMem_keeps
      | with_reducible apply writeSpan_keeps | with_reducible refine keepsSnd_use (by assumption) ?_
      | with_reducible refine keepsSnd3_use (by assumption) ?_ | split)

end Sys2Proof.Machine
end

