-- ==== Sys2Proof/Laws/Keeps/FwOps.lean ====
section
/-! SUPPORT. The operations of Machine/FwOps.lean keep what every operation keeps. -/

namespace Sys2Proof.Machine

open Sys2Proof

set_option linter.tactic.unusedName false

variable {orig res : State}

theorem fwEvent_keeps (code sev p : Nat) (more : List Byte) (s : State) (kept : Keeps orig s) :
    Keeps orig (fwEvent code sev p more s) := by
  unfold fwEvent
  repeat' (first | with_reducible assumption | with_reducible apply event_keeps)

theorem loadFw_keeps (p src len : Nat) (s : State) (kept : Keeps orig s) :
    Keeps orig (loadFw p src len s) := by
  unfold loadFw
  repeat' (first
    | with_reducible assumption | with_reducible apply Memory.wf_copyRange
    | with_reducible apply Memory.wf_clearRange | with_reducible refine keeps_mem ?_ (fun _ => ?_))

theorem beginSwitch_keeps (p : Nat) (s : State) (kept : Keeps orig s) : Keeps orig (beginSwitch p s) := by
  unfold beginSwitch
  extract_lets x
  split
  · refine keeps_ite (fun _ => keeps_ite (fun _ => fwEvent_keeps _ _ _ _ _ (modProc_keeps _ _ _ kept)) (fun _ => ?_)) (fun _ => kept)
    have h1 := unreserve_keeps (fun u => u == .previousImage p) s kept
    have h2 := reserve_keeps (.previousImage p) fwImemBytes _ h1
    split
    · exact kept
    · rename_i b s2 found
      exact modProc_keeps _ _ _ (loadFw_keeps _ _ _ _
        (keeps_mem (keepsOpt2_use found h2) (fun w => Memory.wf_copyRange _ _ _ w)))
  · exact kept

theorem benchBoundary_keeps (b : Nat) (s : State) (kept : Keeps orig s) :
    Keeps orig (benchBoundary b s) := by
  unfold benchBoundary
  repeat' (first | with_reducible assumption | with_reducible apply beginSwitch_keeps)

end Sys2Proof.Machine
end

