-- ==== Sys2Proof/Laws/Keeps/LinkOps.lean ====
section
/-! SUPPORT. The operations of Machine/LinkOps.lean keep what every operation keeps. -/

namespace Sys2Proof.Machine

open Sys2Proof

set_option linter.tactic.unusedName false

variable {orig res : State}

theorem modLink_keeps (n : Nat) (f : Link → Link) (s : State) (kept : Keeps orig s) : Keeps orig (modLink n f s) := keeps_mk kept

theorem setGang_keeps (g : Nat) (x : Gang) (s : State) (kept : Keeps orig s) : Keeps orig (setGang g x s) := keeps_mk kept

theorem modGang_keeps (g : Nat) (f : Gang → Gang) (s : State) (kept : Keeps orig s) : Keeps orig (modGang g f s) := keeps_mk kept

theorem sendFrame_keeps (n : Nat) (f : JlFrame) (s : State) (kept : Keeps orig s) :
    Keeps orig (sendFrame n f s) := by
  unfold sendFrame
  repeat' (first | with_reducible assumption | with_reducible apply modLink_keeps | with_reducible apply emit_keeps)

theorem sendIdle_keeps (n : Nat) (s : State) (kept : Keeps orig s) :
    Keeps orig (sendIdle n s) := by
  unfold sendIdle
  repeat' (first | with_reducible assumption | with_reducible apply sendFrame_keeps)

theorem sendCtl_keeps (n : Nat) (payload : List Byte) (s : State) (kept : Keeps orig s) :
    Keeps orig (sendCtl n payload s) := by
  unfold sendCtl
  repeat' (first | with_reducible assumption | with_reducible apply sendFrame_keeps)

theorem putFrame_keeps (gi vc : Nat) (q : QFrame) (s : State) (kept : Keeps orig s) :
    Keeps orig (putFrame gi vc q s) := by
  unfold putFrame
  repeat' (first
    | with_reducible assumption | with_reducible apply sendFrame_keeps | with_reducible apply modGang_keeps
    | with_reducible apply modLink_keeps | with_reducible apply bump_keeps | split)

theorem spendCredit_keeps (gi vc : Nat) (s : State) (kept : Keeps orig s) :
    Keeps orig (spendCredit gi vc s) := by
  unfold spendCredit
  repeat' (first | with_reducible assumption | with_reducible apply modGang_keeps)

theorem pumpResend_keeps (gi : Nat) : ∀ (x0 : Nat) (x1 : State), Keeps orig x1 →
    Keeps orig (pumpResend gi x0 x1)
  | 0, s, kept => by
    unfold pumpResend
    repeat' (first
      | with_reducible assumption | with_reducible apply putFrame_keeps | with_reducible apply modGang_keeps
      | with_reducible apply pumpResend_keeps | split)
  | fuel + 1, s, kept => by
    unfold pumpResend
    repeat' (first
      | with_reducible assumption | with_reducible apply putFrame_keeps | with_reducible apply modGang_keeps
      | with_reducible apply pumpResend_keeps | split)

theorem pumpVc_keeps (gi vc : Nat) : ∀ (x0 : Nat) (x1 : State), Keeps orig x1 →
    Keeps orig (pumpVc gi vc x0 x1)
  | 0, s, kept => by
    unfold pumpVc
    repeat' (first
      | with_reducible assumption | with_reducible apply spendCredit_keeps | with_reducible apply putFrame_keeps
      | with_reducible apply modGang_keeps | with_reducible apply pumpVc_keeps | split)
  | fuel + 1, s, kept => by
    unfold pumpVc
    repeat' (first
      | with_reducible assumption | with_reducible apply spendCredit_keeps | with_reducible apply putFrame_keeps
      | with_reducible apply modGang_keeps | with_reducible apply pumpVc_keeps | split)

theorem pumpGang_keeps (gi : Nat) (s : State) (kept : Keeps orig s) :
    Keeps orig (pumpGang gi s) := by
  unfold pumpGang
  repeat' (first
    | with_reducible assumption | with_reducible apply pumpVc_keeps | with_reducible apply pumpResend_keeps)

theorem sendMsg_keeps (gi : Nat) (m : JMsg) (s0 : State) (kept : Keeps orig s0) :
    Keeps orig (sendMsg gi m s0) := by
  unfold sendMsg
  repeat' (first
    | with_reducible intro _ | with_reducible assumption | with_reducible apply keeps_ite
    | with_reducible apply pumpGang_keeps | with_reducible apply modGang_keeps | with_reducible apply wakeFor_keeps)

theorem spareCheck_keeps (before t : State) (kept : Keeps orig t) :
    Keeps orig (spareCheck before t) := by
  unfold spareCheck
  repeat' (first
    | with_reducible intro _ | with_reducible assumption | with_reducible apply keeps_ite
    | with_reducible apply event_keeps)

theorem consumeFwd_keeps (die : Nat) (m : JMsg) (s : State) (kept : Keeps orig s) : Keeps orig (consumeFwd die m s) := keeps_mk kept

theorem ownDrop_keeps (die : Nat) (s : State) (kept : Keeps orig s) :
    Keeps orig (ownDrop die s) := by
  unfold ownDrop
  repeat' (first | with_reducible assumption | with_reducible apply bump_keeps)

theorem startFwd_keeps (die : Nat) (m : JMsg) (s : State) (kept : Keeps orig s) :
    Keeps orig (startFwd die m s) := by
  unfold startFwd
  repeat' (first
    | with_reducible intro _ | with_reducible assumption | with_reducible apply keeps_foldl
    | with_reducible apply ownDrop_keeps | with_reducible apply consumeFwd_keeps | with_reducible apply sendMsg_keeps
    | split)

theorem sendFwd_keeps (die dst cls : Nat) (data : List Byte) (s : State) (kept : Keeps orig s) :
    Keeps orig (sendFwd die dst cls data s) := by
  unfold sendFwd
  repeat' (first
    | (simp -zeta only [keeps_mk_iff]) | with_reducible intro _ | with_reducible assumption
    | with_reducible apply keeps_ite | with_reducible apply startFwd_keeps)

theorem sendWrite_keeps (gi tag addr : Nat) (xfer : Nat) (data : List Byte) (s : State) (kept : Keeps orig s) :
    Keeps orig (sendWrite gi tag addr xfer data s) := by
  unfold sendWrite
  repeat' (first
    | with_reducible assumption | with_reducible apply sendMsg_keeps | with_reducible apply modGang_keeps)

theorem sendRead_keeps (gi tag addr : Nat) (xfer n : Nat) (s : State) (kept : Keeps orig s) :
    Keeps orig (sendRead gi tag addr xfer n s) := by
  unfold sendRead
  repeat' (first
    | with_reducible assumption | with_reducible apply sendMsg_keeps | with_reducible apply modGang_keeps)

theorem endTags_keeps (xfer : Nat) (s : State) (kept : Keeps orig s) : Keeps orig (endTags xfer s) := keeps_mk kept

end Sys2Proof.Machine
end

