-- ==== Sys2Proof/Laws/Keeps/QpOps.lean ====
section
/-! SUPPORT. The operations of Machine/QpOps.lean keep what every operation keeps. -/

namespace Sys2Proof.Machine

open Sys2Proof

set_option linter.tactic.unusedName false

variable {orig res : State}

theorem modQp_keeps (n : Nat) (f : Qp → Qp) (s : State) (kept : Keeps orig s) : Keeps orig (modQp n f s) := keeps_mk kept

theorem modX_keeps (n : Nat) (f : Xport → Xport) (s : State) (kept : Keeps orig s) :
    Keeps orig (modX n f s) := by
  unfold modX
  repeat' (first | with_reducible assumption | with_reducible apply modQp_keeps)

theorem tallyPut_keeps (part h : Nat) (v : DWord) (s : State) (kept : Keeps orig s) : Keeps orig (tallyPut part h v s) := keeps_mk kept

theorem tallyAdd_keeps (part h : Nat) (v : DWord) (s : State) (kept : Keeps orig s) :
    Keeps orig (tallyAdd part h v s) := by
  unfold tallyAdd
  repeat' (first
    | with_reducible intro _ | with_reducible assumption | with_reducible apply keeps_ite
    | with_reducible apply tallyPut_keeps)

theorem cutOp_keeps (n : Nat) (o : SqOp) (data : List Byte) (s : State) (kept : Keeps orig s) :
    Keeps orig (cutOp n o data s) := by
  unfold cutOp
  repeat' (first | with_reducible assumption | with_reducible apply modQp_keeps | split)

theorem cutOps_keeps (n : Nat) : ∀ (x0 : Nat) (x1 : State), Keeps orig x1 →
    Keeps orig (cutOps n x0 x1)
  | 0, s, kept => by
    unfold cutOps
    repeat' (first
      | with_reducible assumption | with_reducible apply cutOp_keeps | with_reducible apply cutOps_keeps | split)
  | fuel + 1, s, kept => by
    unfold cutOps
    repeat' (first
      | with_reducible assumption | with_reducible apply cutOp_keeps | with_reducible apply cutOps_keeps | split)

theorem sealPt_keeps (q : Qp) (header payload : List Byte) (s : State) (kept : Keeps orig s) :
    Keeps orig (sealPt q header payload s).2 := by
  unfold sealPt
  repeat' (first
    | (simp -zeta only [keeps_mk_iff]) | with_reducible intro _ | with_reducible assumption
    | with_reducible apply keeps_ite_snd | with_reducible apply bump_keeps)

theorem sendPt_keeps (q : Qp) (port sport : Nat) (payload : List Byte) (s : State) (kept : Keeps orig s) :
    Keeps orig (sendPt q port sport payload s) := by
  unfold sendPt
  repeat' (first | with_reducible assumption | with_reducible apply emit_keeps)

theorem sendLocal_keeps (n : Nat) (q : Qp) (bytes : List Byte) (s : State) (kept : Keeps orig s) :
    Keeps orig (sendLocal n q bytes s) := by
  unfold sendLocal
  repeat' (first | (simp -zeta only [keeps_mk_iff]) | with_reducible assumption | split)

theorem sendRoce_keeps (q : Qp) (payload : List Byte) (s : State) (kept : Keeps orig s) :
    Keeps orig (sendRoce q payload s) := by
  unfold sendRoce
  repeat' (first | with_reducible assumption | with_reducible apply emit_keeps)

theorem sendRoceAck_keeps (q : Qp) (syndrome dly nakPsn : Nat) (s : State) (kept : Keeps orig s) :
    Keeps orig (sendRoceAck q syndrome dly nakPsn s) := by
  unfold sendRoceAck
  repeat' (first | with_reducible assumption | with_reducible apply sendRoce_keeps)

theorem ackVia_keeps (n : Nat) (d : AckDue) (s : State) (kept : Keeps orig s) :
    Keeps orig (ackVia n d s) := by
  unfold ackVia
  repeat' (first
    | with_reducible assumption | with_reducible apply sendRoceAck_keeps | with_reducible apply modX_keeps | split)

theorem sendAck_keeps (n syndrome dly nakPsn : Nat) (s : State) (kept : Keeps orig s) :
    Keeps orig (sendAck n syndrome dly nakPsn s) := by
  unfold sendAck
  repeat' (first | with_reducible assumption | with_reducible apply ackVia_keeps)

theorem putAck_keeps (n : Nat) (s : State) (d : AckDue) (kept : Keeps orig s) :
    Keeps orig (putAck n s d) := by
  unfold putAck
  repeat' (first
    | with_reducible assumption | with_reducible apply sendLocal_keeps | with_reducible apply sendPt_keeps
    | with_reducible apply sealPt_keeps | with_reducible apply modX_keeps | split)

theorem flushDue_keeps (s : State) (n : Nat) (kept : Keeps orig s) :
    Keeps orig (flushDue s n) := by
  unfold flushDue
  repeat' (first
    | with_reducible assumption | with_reducible apply keeps_foldl | with_reducible apply putAck_keeps
    | with_reducible apply modX_keeps)

theorem flushAcks_keeps (s : State) (kept : Keeps orig s) :
    Keeps orig (flushAcks s) := by
  unfold flushAcks
  repeat' (first
    | with_reducible assumption | with_reducible apply keeps_foldl | with_reducible apply flushDue_keeps)

theorem pumpLocal_keeps (n : Nat) : ∀ (x0 : Nat) (x1 : State), Keeps orig x1 →
    Keeps orig (pumpLocal n x0 x1)
  | 0, s, kept => by
    unfold pumpLocal
    repeat' (first
      | with_reducible assumption | with_reducible apply sendLocal_keeps | with_reducible apply modX_keeps
      | with_reducible apply pumpLocal_keeps | split)
  | fuel + 1, s, kept => by
    unfold pumpLocal
    repeat' (first
      | with_reducible assumption | with_reducible apply sendLocal_keeps | with_reducible apply modX_keeps
      | with_reducible apply pumpLocal_keeps | split)

theorem pumpQp_keeps (n : Nat) (s : State) (kept : Keeps orig s) :
    Keeps orig (pumpQp n s) := by
  unfold pumpQp
  repeat' (first
    | with_reducible assumption | with_reducible apply pumpLocal_keeps | with_reducible apply cutOps_keeps)

theorem remoteOp_keeps (n xfer : Nat) (write : Bool) (raddr key : Nat) (off len : Nat) (data : List Byte) (idx : Nat) (s : State) (kept : Keeps orig s) :
    Keeps orig (remoteOp n xfer write raddr key off len data idx s) := by
  unfold remoteOp
  repeat' (first | with_reducible assumption | with_reducible apply pumpQp_keeps | with_reducible apply modQp_keeps)

end Sys2Proof.Machine
end

