-- ==== Sys2Proof/Laws/Keeps/Translate.lean ====
section
/-! SUPPORT. The operations of Machine/Translate.lean keep what every operation keeps. -/

namespace Sys2Proof.Machine

open Sys2Proof

set_option linter.tactic.unusedName false

variable {orig res : State}

/-- What every operation keeps, of the state in a result. -/
inductive KeepsXl (orig : State) : Xlate → Prop where
  | leaf {b} {s} (h : Keeps orig s) : KeepsXl orig (.leaf b s)
  | fault {a b c} {s} (h : Keeps orig s) : KeepsXl orig (.fault a b c s)

theorem keepsXl_leaf {b} (h : Keeps orig res) : KeepsXl orig (.leaf b res) := .leaf h

theorem keepsXl_use_leaf {o : Xlate} {b} (e : o = .leaf b res) (h : KeepsXl orig o) : Keeps orig res := by
  rw [e] at h
  cases h
  assumption

theorem keepsXl_fault {a b c} (h : Keeps orig res) : KeepsXl orig (.fault a b c res) := .fault h

theorem keepsXl_use_fault {o : Xlate} {a b c} (e : o = .fault a b c res) (h : KeepsXl orig o) : Keeps orig res := by
  rw [e] at h
  cases h
  assumption

theorem keepsXl_ite {c : Prop} [Decidable c] {a b : Xlate} (ha : c → KeepsXl orig a) (hb : ¬c → KeepsXl orig b) :
    KeepsXl orig (if c then a else b) := by
  split
  · next h => exact ha h
  · next h => exact hb h

theorem tlbTouch_keeps (part va : Nat) (l : Leaf) (s : State) (kept : Keeps orig s) :
    Keeps orig (tlbTouch part va l s) := by
  unfold tlbTouch
  repeat' (first
    | (simp -zeta only [keeps_mk_iff]) | with_reducible assumption
    | (extract_lets +onlyGivenNames x; clear_value x; revert x; intro _))

theorem wcPut_keeps (part level va table : Nat) (s : State) (kept : Keeps orig s) :
    Keeps orig (wcPut part level va table s) := by
  unfold wcPut
  repeat' (first
    | (simp -zeta only [keeps_mk_iff]) | with_reducible assumption
    | (extract_lets +onlyGivenNames x; clear_value x; revert x; intro _))

theorem walkRead1_keeps (func addr : Nat) (s : State) (kept : Keeps orig s) :
    Keeps orig (walkRead1 func addr s) := by
  unfold walkRead1
  repeat' (first | with_reducible assumption | with_reducible apply bump_keeps | with_reducible apply emit_keeps)

theorem walkNow_keeps (part va : Nat) : ∀ (x0 : Nat) (x1 : Nat) (x2 : Nat) (x3 : State), Keeps orig x3 →
    KeepsXl orig (walkNow part va x0 x1 x2 x3)
  | 0, level, table, s, kept => by
    unfold walkNow
    repeat' (first
      | with_reducible assumption
      | (extract_lets +onlyGivenNames x; refine keeps_cut (r := orig) (u := x) ?_ (fun _ => ?_); rotate_left; clear_value x; revert x; intro _ _; rotate_left; (simp -zeta only [x]); clear x)
      | (extract_lets +onlyGivenNames x; clear_value x; revert x; intro _) | with_reducible apply keepsXl_leaf
      | with_reducible apply keepsXl_fault | with_reducible apply walkRead1_keeps | with_reducible apply wcPut_keeps
      | with_reducible apply tlbTouch_keeps | with_reducible apply bump_keeps | with_reducible apply walkNow_keeps
      | split)
  | fuel + 1, level, table, s, kept => by
    unfold walkNow
    repeat' (first
      | with_reducible assumption
      | (extract_lets +onlyGivenNames x; refine keeps_cut (r := orig) (u := x) ?_ (fun _ => ?_); rotate_left; clear_value x; revert x; intro _ _; rotate_left; (simp -zeta only [x]); clear x)
      | (extract_lets +onlyGivenNames x; clear_value x; revert x; intro _) | with_reducible apply keepsXl_leaf
      | with_reducible apply keepsXl_fault | with_reducible apply walkRead1_keeps | with_reducible apply wcPut_keeps
      | with_reducible apply tlbTouch_keeps | with_reducible apply bump_keeps | with_reducible apply walkNow_keeps
      | split)

theorem xlateNow_keeps (part va : Nat) (s : State) (kept : Keeps orig s) :
    KeepsXl orig (xlateNow part va s) := by
  unfold xlateNow
  repeat' (first
    | with_reducible assumption | with_reducible apply keepsXl_leaf | with_reducible apply walkNow_keeps
    | with_reducible apply tlbTouch_keeps | with_reducible apply bump_keeps | split)

theorem writeFault_keeps (f : FaultRec) (s : State) (kept : Keeps orig s) :
    Keeps orig (writeFault f s) := by
  unfold writeFault
  repeat' (first
    | with_reducible intro _ | with_reducible assumption | with_reducible apply keeps_ite
    | with_reducible apply msix_keeps | with_reducible apply hostWrite_keeps | with_reducible apply modTrans_keeps
    | with_reducible apply bump_keeps)

theorem raiseFault_keeps (x : Nat) (f : FaultRec) (s : State) (kept : Keeps orig s) :
    Keeps orig (raiseFault x f s) := by
  unfold raiseFault
  repeat' (first
    | (simp -zeta only [keeps_mk_iff]) | with_reducible intro _ | with_reducible assumption
    | with_reducible apply keeps_ite | with_reducible apply writeFault_keeps | with_reducible apply modTrans_keeps
    | with_reducible apply bump_keeps)

theorem dropFault_keeps (part tag : Nat) (s : State) (kept : Keeps orig s) : Keeps orig (dropFault part tag s) := keeps_mk kept

theorem expireFault_keeps (part tag : Nat) (s : State) (kept : Keeps orig s) : Keeps orig (expireFault part tag s) := keeps_mk kept

theorem drainFaults_keeps (part : Nat) : ∀ (x0 : Nat) (x1 : State), Keeps orig x1 →
    Keeps orig (drainFaults part x0 x1)
  | 0, s, kept => by
    unfold drainFaults
    repeat' (first
      | (simp -zeta only [keeps_mk_iff]) | with_reducible assumption | with_reducible apply dropFault_keeps
      | with_reducible apply writeFault_keeps | with_reducible apply drainFaults_keeps | split)
  | fuel + 1, s, kept => by
    unfold drainFaults
    repeat' (first
      | (simp -zeta only [keeps_mk_iff]) | with_reducible assumption | with_reducible apply dropFault_keeps
      | with_reducible apply writeFault_keeps | with_reducible apply drainFaults_keeps | split)

end Sys2Proof.Machine
end

