-- ==== Sys2Proof/Laws/Keeps/Transfer.lean ====
section
/-! SUPPORT. The operations of Machine/Transfer.lean keep what every operation keeps. -/

namespace Sys2Proof.Machine

open Sys2Proof

set_option linter.tactic.unusedName false

variable {orig res : State}

/-- What every operation keeps, of the state in a result. -/
inductive KeepsRing (orig : State) : RingRes → Prop where
  | ok {b} {s} (h : Keeps orig s) : KeepsRing orig (.ok b s)
  | fail {b} {s} (h : Keeps orig s) : KeepsRing orig (.fail b s)
  | wait {s} (h : Keeps orig s) : KeepsRing orig (.wait s)

theorem keepsRing_ok {b} (h : Keeps orig res) : KeepsRing orig (.ok b res) := .ok h

theorem keepsRing_use_ok {o : RingRes} {b} (e : o = .ok b res) (h : KeepsRing orig o) : Keeps orig res := by
  rw [e] at h
  cases h
  assumption

theorem keepsRing_use2_ok {α : Type} {o : α × RingRes} {a} {b} (e : o = (a, .ok b res)) (h : KeepsRing orig o.2) : Keeps orig res := by
  rw [e] at h
  cases h
  assumption

theorem keepsRing_fail {b} (h : Keeps orig res) : KeepsRing orig (.fail b res) := .fail h

theorem keepsRing_use_fail {o : RingRes} {b} (e : o = .fail b res) (h : KeepsRing orig o) : Keeps orig res := by
  rw [e] at h
  cases h
  assumption

theorem keepsRing_use2_fail {α : Type} {o : α × RingRes} {a} {b} (e : o = (a, .fail b res)) (h : KeepsRing orig o.2) : Keeps orig res := by
  rw [e] at h
  cases h
  assumption

theorem keepsRing_wait (h : Keeps orig res) : KeepsRing orig (.wait res) := .wait h

theorem keepsRing_use_wait {o : RingRes} (e : o = .wait res) (h : KeepsRing orig o) : Keeps orig res := by
  rw [e] at h
  cases h
  assumption

theorem keepsRing_use2_wait {α : Type} {o : α × RingRes} {a} (e : o = (a, .wait res)) (h : KeepsRing orig o.2) : Keeps orig res := by
  rw [e] at h
  cases h
  assumption

theorem keepsRing_ite {c : Prop} [Decidable c] {a b : RingRes} (ha : c → KeepsRing orig a) (hb : ¬c → KeepsRing orig b) :
    KeepsRing orig (if c then a else b) := by
  split
  · next h => exact ha h
  · next h => exact hb h

theorem keepsRing_use2 {α : Type} {o : α × RingRes} {a b} (e : o = (a, b)) (h : KeepsRing orig o.2) : KeepsRing orig b := by
  rw [e] at h
  exact h

theorem keepsRing_ite2 {α : Type} {c : Prop} [Decidable c] {a b : α × RingRes} (ha : c → KeepsRing orig a.2)
    (hb : ¬c → KeepsRing orig b.2) : KeepsRing orig (if c then a else b).2 := by
  split
  · next h => exact ha h
  · next h => exact hb h

/-- What every operation keeps, of the state in a result. -/
inductive KeepsMoved (orig : State) : Moved → Prop where
  | ok {s} (h : Keeps orig s) : KeepsMoved orig (.ok s)
  | fail {a b} {s} (h : Keeps orig s) : KeepsMoved orig (.fail a b s)
  | hold {b} {s} (h : Keeps orig s) : KeepsMoved orig (.hold b s)

theorem keepsMoved_ok (h : Keeps orig res) : KeepsMoved orig (.ok res) := .ok h

theorem keepsMoved_use_ok {o : Moved} (e : o = .ok res) (h : KeepsMoved orig o) : Keeps orig res := by
  rw [e] at h
  cases h
  assumption

theorem keepsMoved_fail {a b} (h : Keeps orig res) : KeepsMoved orig (.fail a b res) := .fail h

theorem keepsMoved_use_fail {o : Moved} {a b} (e : o = .fail a b res) (h : KeepsMoved orig o) : Keeps orig res := by
  rw [e] at h
  cases h
  assumption

theorem keepsMoved_hold {b} (h : Keeps orig res) : KeepsMoved orig (.hold b res) := .hold h

theorem keepsMoved_use_hold {o : Moved} {b} (e : o = .hold b res) (h : KeepsMoved orig o) : Keeps orig res := by
  rw [e] at h
  cases h
  assumption

theorem keepsMoved_ite {c : Prop} [Decidable c] {a b : Moved} (ha : c → KeepsMoved orig a) (hb : ¬c → KeepsMoved orig b) :
    KeepsMoved orig (if c then a else b) := by
  split
  · next h => exact ha h
  · next h => exact hb h

/-- What every operation keeps, of the state in a result. -/
inductive KeepsUnit (orig : State) : UnitRes → Prop where
  | pieces {b} {s} (h : Keeps orig s) : KeepsUnit orig (.pieces b s)
  | miss {b} {s} (h : Keeps orig s) : KeepsUnit orig (.miss b s)
  | stop {a b c} {s} (h : Keeps orig s) : KeepsUnit orig (.stop a b c s)

theorem keepsUnit_pieces {b} (h : Keeps orig res) : KeepsUnit orig (.pieces b res) := .pieces h

theorem keepsUnit_use_pieces {o : UnitRes} {b} (e : o = .pieces b res) (h : KeepsUnit orig o) : Keeps orig res := by
  rw [e] at h
  cases h
  assumption

theorem keepsUnit_miss {b} (h : Keeps orig res) : KeepsUnit orig (.miss b res) := .miss h

theorem keepsUnit_use_miss {o : UnitRes} {b} (e : o = .miss b res) (h : KeepsUnit orig o) : Keeps orig res := by
  rw [e] at h
  cases h
  assumption

theorem keepsUnit_stop {a b c} (h : Keeps orig res) : KeepsUnit orig (.stop a b c res) := .stop h

theorem keepsUnit_use_stop {o : UnitRes} {a b c} (e : o = .stop a b c res) (h : KeepsUnit orig o) : Keeps orig res := by
  rw [e] at h
  cases h
  assumption

theorem keepsUnit_ite {c : Prop} [Decidable c] {a b : UnitRes} (ha : c → KeepsUnit orig a) (hb : ¬c → KeepsUnit orig b) :
    KeepsUnit orig (if c then a else b) := by
  split
  · next h => exact ha h
  · next h => exact hb h

theorem startXfer_keeps (f : Xfer) (s : State) (kept : Keeps orig s) :
    Keeps orig (startXfer f s).2 := by
  unfold startXfer
  repeat' (first | (simp -zeta only [keeps_mk_iff]) | with_reducible assumption | with_reducible apply setXfer_keeps)

theorem modXfer_keeps (x : Nat) (f : Xfer → Xfer) (s : State) (kept : Keeps orig s) : Keeps orig (modXfer x f s) := keeps_mk kept

theorem unitPage_keeps (f : Xfer) (va : Nat) (s : State) (kept : Keeps orig s) :
    Keeps orig (unitPage f va s).2 := by
  unfold unitPage
  repeat' (first
    | with_reducible assumption | with_reducible apply tlbTouch_keeps | with_reducible apply bump_keeps | split)

theorem xlateSegs_keeps (f : Xfer) : ∀ (x0 : Nat) (x1 : List (Nat × Nat)) (x2 : List UPiece) (x3 : State), Keeps orig x3 →
    KeepsUnit orig (xlateSegs f x0 x1 x2 x3)
  | 0, _, acc, s, kept => by
    unfold xlateSegs
    repeat' (first
      | with_reducible assumption | (extract_lets +onlyGivenNames x; clear_value x; revert x; intro _)
      | with_reducible apply keepsUnit_pieces | with_reducible apply keepsUnit_miss
      | with_reducible apply keepsUnit_stop | with_reducible apply unitPage_keeps
      | with_reducible apply xlateSegs_keeps | with_reducible refine keepsSnd_use (by assumption) ?_ | split)
  | _, [], acc, s, kept => by
    unfold xlateSegs
    repeat' (first
      | with_reducible assumption | (extract_lets +onlyGivenNames x; clear_value x; revert x; intro _)
      | with_reducible apply keepsUnit_pieces | with_reducible apply keepsUnit_miss
      | with_reducible apply keepsUnit_stop | with_reducible apply unitPage_keeps
      | with_reducible apply xlateSegs_keeps | with_reducible refine keepsSnd_use (by assumption) ?_ | split)
  | fuel + 1, (va, len) :: rest, acc, s, kept => by
    unfold xlateSegs
    repeat' (first
      | with_reducible assumption | (extract_lets +onlyGivenNames x; clear_value x; revert x; intro _)
      | with_reducible apply keepsUnit_pieces | with_reducible apply keepsUnit_miss
      | with_reducible apply keepsUnit_stop | with_reducible apply unitPage_keeps
      | with_reducible apply xlateSegs_keeps | with_reducible refine keepsSnd_use (by assumption) ?_ | split)

theorem endXfer_keeps (x code : Nat) (s : State) (kept : Keeps orig s) :
    Keeps orig (endXfer x code s) := by
  unfold endXfer
  repeat' (first
    | with_reducible assumption | with_reducible apply modXfer_keeps | with_reducible apply endTags_keeps)

theorem settleFails_keeps (x : Nat) (s : State) (kept : Keeps orig s) :
    Keeps orig (settleFails x s) := by
  unfold settleFails
  repeat' (first | with_reducible assumption | with_reducible apply endXfer_keeps | split)

theorem failPart_keeps (x off code : Nat) (s : State) (kept : Keeps orig s) :
    Keeps orig (failPart x off code s) := by
  unfold failPart
  repeat' (first
    | with_reducible assumption | with_reducible apply settleFails_keeps | with_reducible apply modXfer_keeps)

theorem denyXfer_keeps (x part off : Nat) (s : State) (kept : Keeps orig s) :
    Keeps orig (denyXfer x part off s) := by
  unfold denyXfer
  repeat' (first | with_reducible assumption | with_reducible apply failPart_keeps | with_reducible apply bump_keeps)

theorem failHostPart_keeps (x tag code : Nat) (s : State) (kept : Keeps orig s) :
    Keeps orig (failHostPart x tag code s) := by
  unfold failHostPart
  repeat' (first
    | with_reducible assumption | with_reducible apply failPart_keeps | with_reducible apply modXfer_keeps | split)

theorem failJlPart_keeps (x key code : Nat) (s : State) (kept : Keeps orig s) :
    Keeps orig (failJlPart x key code s) := by
  unfold failJlPart
  repeat' (first
    | with_reducible assumption | with_reducible apply failPart_keeps | with_reducible apply modXfer_keeps | split)

theorem failUnit_keeps (x code : Nat) (s : State) (kept : Keeps orig s) :
    Keeps orig (failUnit x code s) := by
  unfold failUnit
  repeat' (first | with_reducible assumption | with_reducible apply failPart_keeps | split)

theorem failGangParts_keeps (gi code : Nat) (s : State) (x : Nat) (kept : Keeps orig s) :
    Keeps orig (failGangParts gi code s x) := by
  unfold failGangParts
  repeat' (first
    | with_reducible assumption
    | (extract_lets +onlyGivenNames x; refine keeps_fn x ?_; subst x; try dsimp -zeta only)
    | with_reducible apply failPart_keeps | with_reducible apply modXfer_keeps | split)

theorem sendWalkRead_keeps (w : Nat) (k : Walk) (s : State) (kept : Keeps orig s) :
    Keeps orig (sendWalkRead w k s) := by
  unfold sendWalkRead
  repeat' (first | with_reducible assumption | with_reducible apply bump_keeps | with_reducible apply emit_keeps)

theorem beginWalk_keeps (part va : Nat) (s : State) (kept : Keeps orig s) :
    Keeps orig (beginWalk part va s) := by
  unfold beginWalk
  repeat' (first
    | (simp -zeta only [keeps_mk_iff]) | with_reducible assumption | with_reducible apply sendWalkRead_keeps)

theorem askWalk_keeps (part va : Nat) (s : State) (kept : Keeps orig s) :
    Keeps orig (askWalk part va s) := by
  unfold askWalk
  repeat' (first
    | (simp -zeta only [keeps_mk_iff]) | with_reducible intro _ | with_reducible assumption
    | with_reducible apply keeps_ite | with_reducible apply beginWalk_keeps)

theorem drainWalks_keeps  : ∀ (x0 : Nat) (x1 : State), Keeps orig x1 →
    Keeps orig (drainWalks x0 x1)
  | 0, s, kept => by
    unfold drainWalks
    repeat' (first
      | (simp -zeta only [keeps_mk_iff]) | with_reducible assumption | with_reducible apply beginWalk_keeps
      | with_reducible apply drainWalks_keeps | split)
  | fuel + 1, s, kept => by
    unfold drainWalks
    repeat' (first
      | (simp -zeta only [keeps_mk_iff]) | with_reducible assumption | with_reducible apply beginWalk_keeps
      | with_reducible apply drainWalks_keeps | split)

theorem postWrites_keeps (func : Nat) : ∀ (x0 : Nat) (x1 : Nat) (x2 : List Byte) (x3 : State), Keeps orig x3 →
    Keeps orig (postWrites func x0 x1 x2 x3)
  | 0, _, _, s, kept => by
    unfold postWrites
    repeat' (first
      | with_reducible intro _ | with_reducible assumption | with_reducible apply keeps_ite
      | with_reducible apply hostWrite_keeps | with_reducible apply postWrites_keeps)
  | fuel + 1, addr, bs, s, kept => by
    unfold postWrites
    repeat' (first
      | with_reducible intro _ | with_reducible assumption | with_reducible apply keeps_ite
      | with_reducible apply hostWrite_keeps | with_reducible apply postWrites_keeps)

theorem movePiece_keeps (x : Nat) (ecc : List EccHit) (off : Nat) (p : UPiece) (s : State) (kept : Keeps orig s) :
    KeepsMoved orig (movePiece x ecc off p s) := by
  unfold movePiece
  repeat' (first
    | with_reducible intro _ | with_reducible assumption | with_reducible apply keepsMoved_ite
    | with_reducible apply keepsMoved_ok | with_reducible apply keepsMoved_fail
    | with_reducible apply keepsMoved_hold | with_reducible apply postWrites_keeps
    | with_reducible apply modXfer_keeps | with_reducible apply remoteOp_keeps | with_reducible apply writeSpan_keeps
    | with_reducible apply readSpan_keeps | with_reducible refine keepsAcc_use_ok (by assumption) ?_
    | with_reducible refine keepsAcc_use_stop (by assumption) ?_ | split)

theorem movePieces_keeps (x : Nat) (ecc : List EccHit) : ∀ (x0 : Nat) (x1 : List UPiece) (x2 : State), Keeps orig x2 →
    KeepsMoved orig (movePieces x ecc x0 x1 x2)
  | _, [], s, kept => by
    unfold movePieces
    repeat' (first
      | with_reducible assumption | with_reducible apply keepsMoved_ok | with_reducible apply keepsMoved_fail
      | with_reducible apply keepsMoved_hold | with_reducible apply movePiece_keeps
      | with_reducible apply movePieces_keeps | with_reducible refine keepsMoved_use_ok (by assumption) ?_
      | with_reducible refine keepsMoved_use_fail (by assumption) ?_
      | with_reducible refine keepsMoved_use_hold (by assumption) ?_ | split)
  | off, p :: ps, s, kept => by
    unfold movePieces
    repeat' (first
      | with_reducible assumption | with_reducible apply keepsMoved_ok | with_reducible apply keepsMoved_fail
      | with_reducible apply keepsMoved_hold | with_reducible apply movePiece_keeps
      | with_reducible apply movePieces_keeps | with_reducible refine keepsMoved_use_ok (by assumption) ?_
      | with_reducible refine keepsMoved_use_fail (by assumption) ?_
      | with_reducible refine keepsMoved_use_hold (by assumption) ?_ | split)

theorem sendCut_keeps (x : Nat) (c : Cut) (s : State) (kept : Keeps orig s) :
    KeepsOpt orig (sendCut x c s) := by
  unfold sendCut
  repeat' (first
    | (simp -zeta only [keeps_mk_iff]) | with_reducible assumption | with_reducible exact keepsOpt_none
    | with_reducible apply keepsOpt_some | with_reducible apply modXfer_keeps | with_reducible apply sendRead_keeps
    | with_reducible apply sendWrite_keeps | with_reducible apply bump_keeps | with_reducible apply emit_keeps
    | split)

theorem pumpTodo_keeps (x : Nat) : ∀ (x0 : Nat) (x1 : State), Keeps orig x1 →
    Keeps orig (pumpTodo x x0 x1)
  | 0, s, kept => by
    unfold pumpTodo
    repeat' (first
      | with_reducible assumption | with_reducible apply sendCut_keeps | with_reducible apply modXfer_keeps
      | with_reducible apply pumpTodo_keeps | with_reducible refine keepsOpt_use (by assumption) ?_ | split)
  | fuel + 1, s, kept => by
    unfold pumpTodo
    repeat' (first
      | with_reducible assumption | with_reducible apply sendCut_keeps | with_reducible apply modXfer_keeps
      | with_reducible apply pumpTodo_keeps | with_reducible refine keepsOpt_use (by assumption) ?_ | split)

theorem advance_keeps (x : Nat) (s : State) (kept : Keeps orig s) :
    Keeps orig (advance x s) := by
  unfold advance
  repeat' (first
    | with_reducible intro _ | with_reducible assumption | with_reducible apply keeps_ite
    | with_reducible apply settleFails_keeps | with_reducible apply endXfer_keeps
    | with_reducible apply modXfer_keeps | split)

theorem pumpWaiting_keeps (s : State) (kept : Keeps orig s) :
    Keeps orig (pumpWaiting s) := by
  unfold pumpWaiting
  repeat' (first
    | with_reducible intro _ | with_reducible assumption | with_reducible apply keeps_foldl
    | with_reducible apply advance_keeps | with_reducible apply pumpTodo_keeps)

theorem stallXfer_keeps (x : Nat) (f : Xfer) (va reason pte level : Nat) (s : State) (kept : Keeps orig s) :
    Keeps orig (stallXfer x f va reason pte level s) := by
  unfold stallXfer
  repeat' (first
    | with_reducible assumption | with_reducible apply modXfer_keeps | with_reducible apply raiseFault_keeps)

theorem setHeld_keeps (x : Nat) (w : HoldWhy) (s : State) (kept : Keeps orig s) :
    Keeps orig (setHeld x w s) := by
  unfold setHeld
  repeat' (first | (simp -zeta only [keeps_mk_iff]) | with_reducible assumption | with_reducible apply modXfer_keeps)

theorem holdXfer_keeps (x : Nat) (w : HoldWhy) (s : State) (kept : Keeps orig s) :
    Keeps orig (holdXfer x w s) := by
  unfold holdXfer
  repeat' (first | with_reducible assumption | with_reducible apply setHeld_keeps)

theorem runAdmitted_keeps (x : Nat) (ecc : List EccHit) (s : State) (kept : Keeps orig s) :
    Keeps orig (runAdmitted x ecc s) := by
  unfold runAdmitted
  repeat' (first
    | with_reducible assumption
    | (extract_lets +onlyGivenNames x; refine keeps_cut (r := orig) (u := x) ?_ (fun _ => ?_); rotate_left; clear_value x; revert x; intro _ _; rotate_left; (simp -zeta only [x]); clear x)
    | (extract_lets +onlyGivenNames x; clear_value x; revert x; intro _) | with_reducible apply holdXfer_keeps
    | with_reducible apply setHeld_keeps | with_reducible apply stallXfer_keeps | with_reducible apply advance_keeps
    | with_reducible apply pumpTodo_keeps | with_reducible apply movePieces_keeps
    | with_reducible apply askWalk_keeps | with_reducible apply denyXfer_keeps | with_reducible apply failPart_keeps
    | with_reducible apply xlateSegs_keeps | with_reducible apply modXfer_keeps | with_reducible apply bump_keeps
    | with_reducible apply needWake_keeps | with_reducible refine keepsMoved_use_ok (by assumption) ?_
    | with_reducible apply keepsMoved_ok | with_reducible refine keepsMoved_use_fail (by assumption) ?_
    | with_reducible refine keepsMoved_use_hold (by assumption) ?_
    | with_reducible refine keepsUnit_use_pieces (by assumption) ?_
    | with_reducible refine keepsUnit_use_miss (by assumption) ?_
    | with_reducible refine keepsUnit_use_stop (by assumption) ?_ | split)

theorem runUnit_keeps (x : Nat) (ecc : List EccHit) (s : State) (kept : Keeps orig s) :
    Keeps orig (runUnit x ecc s) := by
  unfold runUnit
  repeat' (first
    | with_reducible assumption | with_reducible apply runAdmitted_keeps | with_reducible apply setHeld_keeps
    | with_reducible apply modXfer_keeps | with_reducible apply needWake_keeps | split)

theorem runReady_keeps (x : Nat) (ecc : List EccHit) (s : State) (kept : Keeps orig s) :
    Keeps orig (runReady x ecc s) := by
  unfold runReady
  repeat' (first | with_reducible assumption | with_reducible apply runUnit_keeps | split)

theorem resumeHeld_keeps (p : HoldWhy → Bool) (s : State) (kept : Keeps orig s) :
    Keeps orig (resumeHeld p s) := by
  unfold resumeHeld
  repeat' (first
    | with_reducible intro _ | with_reducible assumption | with_reducible apply keeps_foldl
    | with_reducible apply runUnit_keeps | with_reducible apply modXfer_keeps)

theorem ringPlace_keeps (walked : Bool) (part va n : Nat) (write : Bool) (s : State) (kept : Keeps orig s) :
    KeepsRing orig (ringPlace walked part va n write s).2 := by
  unfold ringPlace
  repeat' (first
    | with_reducible intro _ | with_reducible assumption | with_reducible apply keepsRing_ite2
    | with_reducible apply keepsRing_fail | with_reducible apply keepsRing_wait | with_reducible apply tlbTouch_keeps
    | with_reducible apply bump_keeps | split)

theorem ringXlate_keeps (part va : Nat) (s : State) (kept : Keeps orig s) :
    Keeps orig (ringXlate part va s).2 := by
  unfold ringXlate
  repeat' (first
    | with_reducible assumption | with_reducible apply xlateNow_keeps
    | with_reducible refine keepsXl_use_leaf (by assumption) ?_ | split)

theorem ringRead_keeps (part va n : Nat) (s : State) (kept : Keeps orig s) :
    KeepsRing orig (ringRead part va n s) := by
  unfold ringRead
  repeat' (first
    | with_reducible assumption
    | (extract_lets +onlyGivenNames x; refine keeps_cut (r := orig) (u := x) ?_ (fun _ => ?_); rotate_left; clear_value x; revert x; intro _ _; rotate_left; (simp -zeta only [x]); clear x)
    | (extract_lets +onlyGivenNames x; refine keeps_cut (r := orig) (u := x.2) ?_ (fun _ => ?_); rotate_left; clear_value x; revert x; intro _ _; rotate_left; (simp -zeta only [x]); clear x)
    | with_reducible apply keepsRing_ok | with_reducible apply keepsRing_fail | with_reducible apply keepsRing_wait
    | with_reducible apply ringXlate_keeps | with_reducible apply ringPlace_keeps
    | with_reducible apply readSpan_keeps | with_reducible apply bump_keeps | with_reducible apply emit_keeps
    | with_reducible refine keepsRing_use2 (by assumption) ?_
    | with_reducible refine keepsAcc_use_ok (by assumption) ?_
    | with_reducible refine keepsAcc_use_stop (by assumption) ?_
    | with_reducible refine keepsRing_use2_wait (by assumption) ?_ | split)

theorem ringWrite_keeps (part va : Nat) (bs : List Byte) (s : State) (kept : Keeps orig s) :
    KeepsRing orig (ringWrite part va bs s) := by
  unfold ringWrite
  repeat' (first
    | with_reducible assumption
    | (extract_lets +onlyGivenNames x; refine keeps_cut (r := orig) (u := x) ?_ (fun _ => ?_); rotate_left; clear_value x; revert x; intro _ _; rotate_left; (simp -zeta only [x]); clear x)
    | (extract_lets +onlyGivenNames x; refine keeps_cut (r := orig) (u := x.2) ?_ (fun _ => ?_); rotate_left; clear_value x; revert x; intro _ _; rotate_left; (simp -zeta only [x]); clear x)
    | (extract_lets +onlyGivenNames x; clear_value x; revert x; intro _) | with_reducible apply keepsRing_ok
    | with_reducible apply keepsRing_fail | with_reducible apply keepsRing_wait
    | with_reducible apply ringXlate_keeps | with_reducible apply ringPlace_keeps
    | with_reducible apply postWrites_keeps | with_reducible apply writeSpan_keeps
    | with_reducible apply hostWrite_keeps | with_reducible refine keepsRing_use2 (by assumption) ?_
    | with_reducible refine keepsAcc_use_ok (by assumption) ?_
    | with_reducible refine keepsAcc_use_stop (by assumption) ?_
    | with_reducible refine keepsRing_use2_wait (by assumption) ?_ | split)

theorem startNow_keeps (f : Xfer) (s : State) (kept : Keeps orig s) :
    Keeps orig (startNow f s).2 := by
  unfold startNow
  repeat' (first
    | with_reducible assumption | with_reducible apply runReady_keeps | with_reducible apply startXfer_keeps)

theorem fwRead_keeps (part va : Nat) : ∀ (x0 : Nat) (x1 : Nat) (x2 : State), Keeps orig x2 →
    Keeps orig (fwRead part va x0 x1 x2).2
  | 0, _, s, kept => by
    unfold fwRead
    repeat' (first
      | with_reducible assumption | (extract_lets +onlyGivenNames x; clear_value x; revert x; intro _)
      | with_reducible apply ringRead_keeps | with_reducible apply fwRead_keeps
      | with_reducible refine keepsSnd_use (by assumption) ?_
      | with_reducible refine keepsRing_use_ok (by assumption) ?_
      | with_reducible refine keepsRing_use_fail (by assumption) ?_
      | with_reducible refine keepsRing_use_wait (by assumption) ?_ | split)
  | fuel + 1, n, s, kept => by
    unfold fwRead
    repeat' (first
      | with_reducible assumption | (extract_lets +onlyGivenNames x; clear_value x; revert x; intro _)
      | with_reducible apply ringRead_keeps | with_reducible apply fwRead_keeps
      | with_reducible refine keepsSnd_use (by assumption) ?_
      | with_reducible refine keepsRing_use_ok (by assumption) ?_
      | with_reducible refine keepsRing_use_fail (by assumption) ?_
      | with_reducible refine keepsRing_use_wait (by assumption) ?_ | split)

end Sys2Proof.Machine
end

