-- ==== Sys2Proof/Laws/Keeps/QpFlow.lean ====
section
/-! SUPPORT. The operations of Machine/QpFlow.lean keep what every operation keeps. -/

namespace Sys2Proof.Machine

open Sys2Proof

set_option linter.tactic.unusedName false

variable {orig res : State}

theorem modCq_keeps (n : Nat) (f : Cq → Cq) (s : State) (kept : Keeps orig s) : Keeps orig (modCq n f s) := keeps_mk kept

theorem cqFire_keeps (n : Nat) (s : State) (kept : Keeps orig s) :
    Keeps orig (cqFire n s) := by
  unfold cqFire
  repeat' (first
    | with_reducible assumption | with_reducible apply modCq_keeps | with_reducible apply msix_keeps | split)

theorem cqWritten_keeps (n : Nat) (s : State) (kept : Keeps orig s) :
    Keeps orig (cqWritten n s) := by
  unfold cqWritten
  repeat' (first
    | with_reducible intro _ | with_reducible assumption | with_reducible apply keeps_ite
    | with_reducible apply cqFire_keeps | with_reducible apply modCq_keeps | split)

theorem cqeTally_keeps (e : Cqe) (s : State) (kept : Keeps orig s) :
    Keeps orig (cqeTally e s) := by
  unfold cqeTally
  repeat' (first | with_reducible assumption | with_reducible apply tallyAdd_keeps)

theorem cqAdvance_keeps (n : Nat) (s : State) (kept : Keeps orig s) :
    Keeps orig (cqAdvance n s) := by
  unfold cqAdvance
  repeat' (first
    | with_reducible intro _ | with_reducible assumption | with_reducible apply keeps_foldl
    | with_reducible apply cqeTally_keeps | with_reducible apply cqWritten_keeps | with_reducible apply modCq_keeps
    | with_reducible apply bump_keeps | split)

theorem cqTransfer_keeps (n part va : Nat) (bs : List Byte) (s : State) (kept : Keeps orig s) :
    Keeps orig (cqTransfer n part va bs s) := by
  unfold cqTransfer
  repeat' (first
    | with_reducible assumption | with_reducible apply modCq_keeps | with_reducible apply startNow_keeps)

theorem drainCq_keeps (n : Nat) : ∀ (x0 : Nat) (x1 : State), Keeps orig x1 →
    Keeps orig (drainCq n x0 x1)
  | 0, s, kept => by
    unfold drainCq
    repeat' (first
      | with_reducible assumption | with_reducible apply cqTransfer_keeps | with_reducible apply cqAdvance_keeps
      | with_reducible apply ringWrite_keeps | with_reducible apply drainCq_keeps
      | with_reducible refine keepsRing_use_ok (by assumption) ?_
      | with_reducible refine keepsRing_use_fail (by assumption) ?_
      | with_reducible refine keepsRing_use_wait (by assumption) ?_ | split)
  | fuel + 1, s, kept => by
    unfold drainCq
    repeat' (first
      | with_reducible assumption | with_reducible apply cqTransfer_keeps | with_reducible apply cqAdvance_keeps
      | with_reducible apply ringWrite_keeps | with_reducible apply drainCq_keeps
      | with_reducible refine keepsRing_use_ok (by assumption) ?_
      | with_reducible refine keepsRing_use_fail (by assumption) ?_
      | with_reducible refine keepsRing_use_wait (by assumption) ?_ | split)

theorem postCqe_keeps (n : Nat) (e : Cqe) (s : State) (kept : Keeps orig s) :
    Keeps orig (postCqe n e s) := by
  unfold postCqe
  repeat' (first
    | with_reducible assumption | with_reducible apply drainCq_keeps | with_reducible apply cqeTally_keeps
    | with_reducible apply modCq_keeps | with_reducible apply bump_keeps | split)

theorem completeEntry_keeps (n : Nat) (q : Qp) (o : SqOp) (code bytes opspec kind : Nat) (same : Bool) (s : State) (kept : Keeps orig s) :
    Keeps orig (completeEntry n q o code bytes opspec kind same s) := by
  unfold completeEntry
  repeat' (first
    | with_reducible intro _ | with_reducible assumption | with_reducible apply keeps_ite
    | with_reducible apply postCqe_keeps | with_reducible apply cqeTally_keeps)

theorem flushRecv_keeps (q : Qp) (n : Nat) (s : State) (e : RqEnt × Nat × Nat × Nat) (kept : Keeps orig s) :
    Keeps orig (flushRecv q n s e) := by
  unfold flushRecv
  repeat' (first | with_reducible assumption | with_reducible apply postCqe_keeps)

theorem endRemote_keeps (n : Nat) (o : SqOp) (code : Nat) (s : State) (kept : Keeps orig s) :
    Keeps orig (endRemote n o code s) := by
  unfold endRemote
  repeat' (first
    | with_reducible assumption | with_reducible apply failPart_keeps | with_reducible apply modXfer_keeps | split)

theorem flushOps_keeps (n : Nat) (q : Qp) (lost : Bool) (s : State) (kept : Keeps orig s) :
    Keeps orig (flushOps n q lost s) := by
  unfold flushOps
  repeat' (first
    | with_reducible intro _ | with_reducible assumption | with_reducible apply keeps_foldl
    | with_reducible apply endRemote_keeps | with_reducible apply completeEntry_keeps)

theorem toError_keeps (n code op idx : Nat) (lost : Bool) (s : State) (kept : Keeps orig s) :
    Keeps orig (toError n code op idx lost s) := by
  unfold toError
  repeat' (first
    | with_reducible assumption | with_reducible apply keeps_foldl | with_reducible apply flushOps_keeps
    | with_reducible apply flushRecv_keeps | with_reducible apply modQp_keeps | split)

theorem drainOps_keeps (n : Nat) : ∀ (x0 : Nat) (x1 : State), Keeps orig x1 →
    Keeps orig (drainOps n x0 x1)
  | 0, s, kept => by
    unfold drainOps
    repeat' (first
      | with_reducible assumption | with_reducible apply toError_keeps | with_reducible apply completeEntry_keeps
      | with_reducible apply modQp_keeps | with_reducible apply drainOps_keeps | split)
  | fuel + 1, s, kept => by
    unfold drainOps
    repeat' (first
      | with_reducible assumption | with_reducible apply toError_keeps | with_reducible apply completeEntry_keeps
      | with_reducible apply modQp_keeps | with_reducible apply drainOps_keeps | split)

theorem setOp_keeps (n idx : Nat) (st : OpSt) (s : State) (kept : Keeps orig s) :
    Keeps orig (setOp n idx st s) := by
  unfold setOp
  repeat' (first | with_reducible assumption | with_reducible apply modQp_keeps)

theorem failOp_keeps (n idx code : Nat) (s : State) (kept : Keeps orig s) :
    Keeps orig (failOp n idx code s) := by
  unfold failOp
  repeat' (first | with_reducible assumption | with_reducible apply modQp_keeps)

theorem beginEntry_keeps (n idx : Nat) (q : Qp) (e : SqEnt) (s : State) (kept : Keeps orig s) :
    Keeps orig (beginEntry n idx q e s) := by
  unfold beginEntry
  repeat' (first
    | with_reducible intro _ | with_reducible assumption | with_reducible apply keeps_ite
    | with_reducible apply setOp_keeps | with_reducible apply startNow_keeps | with_reducible apply startXfer_keeps
    | with_reducible apply bump_keeps | split)

theorem takeEntry_keeps (n code : Nat) (q : Qp) (bs : List Byte) (s : State) (kept : Keeps orig s) :
    Keeps orig (takeEntry n code q bs s) := by
  unfold takeEntry
  repeat' (first
    | with_reducible intro _ | with_reducible assumption | with_reducible apply keeps_ite
    | with_reducible apply beginEntry_keeps | with_reducible apply setOp_keeps
    | with_reducible apply completeEntry_keeps | with_reducible apply modQp_keeps)

theorem localLost_keeps (n : Nat) (s : State) (kept : Keeps orig s) :
    Keeps orig (localLost n s) := by
  unfold localLost
  repeat' (first
    | with_reducible assumption | with_reducible apply failOp_keeps | with_reducible apply drainOps_keeps
    | with_reducible apply endRemote_keeps | with_reducible apply modX_keeps | with_reducible apply modQp_keeps
    | split)

theorem sqAhead_keeps (n tries : Nat) (s : State) (kept : Keeps orig s) :
    Keeps orig (sqAhead n tries s) := by
  unfold sqAhead
  repeat' (first
    | with_reducible intro _ | with_reducible assumption | with_reducible apply keeps_ite
    | with_reducible apply modQp_keeps | with_reducible apply bump_keeps)

theorem sqGot_keeps (n tries : Nat) (q : Qp) (bs : List Byte) (s : State) (kept : Keeps orig s) :
    Keeps orig (sqGot n tries q bs s) := by
  unfold sqGot
  repeat' (first
    | with_reducible intro _ | with_reducible assumption | with_reducible apply keeps_ite
    | with_reducible apply sqAhead_keeps | with_reducible apply takeEntry_keeps | with_reducible apply modQp_keeps)

theorem sqRun_keeps (n : Nat) : ∀ (x0 : Nat) (x1 : Nat) (x2 : State), Keeps orig x2 →
    Keeps orig (sqRun n x0 x1 x2)
  | 0, _, s, kept => by
    unfold sqRun
    repeat' (first
      | with_reducible assumption
      | (extract_lets +onlyGivenNames x; refine keeps_cut (r := orig) (u := x) ?_ (fun _ => ?_); rotate_left; clear_value x; revert x; intro _ _; rotate_left; (simp -zeta only [x]); clear x)
      | (extract_lets +onlyGivenNames x; refine keeps_cut (r := orig) (u := x.2) ?_ (fun _ => ?_); rotate_left; clear_value x; revert x; intro _ _; rotate_left; (simp -zeta only [x]); clear x)
      | (extract_lets +onlyGivenNames x; clear_value x; revert x; intro _) | with_reducible apply sqGot_keeps
      | with_reducible apply localLost_keeps | with_reducible apply takeEntry_keeps
      | with_reducible apply drainOps_keeps | with_reducible apply startNow_keeps
      | with_reducible apply ringRead_keeps | with_reducible apply pumpQp_keeps | with_reducible apply modQp_keeps
      | with_reducible apply sqRun_keeps | with_reducible refine keepsRing_use_ok (by assumption) ?_
      | with_reducible refine keepsRing_use_fail (by assumption) ?_
      | with_reducible refine keepsRing_use_wait (by assumption) ?_ | split)
  | fuel + 1, tries, s0, kept => by
    unfold sqRun
    repeat' (first
      | with_reducible assumption
      | (extract_lets +onlyGivenNames x; refine keeps_cut (r := orig) (u := x) ?_ (fun _ => ?_); rotate_left; clear_value x; revert x; intro _ _; rotate_left; (simp -zeta only [x]); clear x)
      | (extract_lets +onlyGivenNames x; refine keeps_cut (r := orig) (u := x.2) ?_ (fun _ => ?_); rotate_left; clear_value x; revert x; intro _ _; rotate_left; (simp -zeta only [x]); clear x)
      | (extract_lets +onlyGivenNames x; clear_value x; revert x; intro _) | with_reducible apply sqGot_keeps
      | with_reducible apply localLost_keeps | with_reducible apply takeEntry_keeps
      | with_reducible apply drainOps_keeps | with_reducible apply startNow_keeps
      | with_reducible apply ringRead_keeps | with_reducible apply pumpQp_keeps | with_reducible apply modQp_keeps
      | with_reducible apply sqRun_keeps | with_reducible refine keepsRing_use_ok (by assumption) ?_
      | with_reducible refine keepsRing_use_fail (by assumption) ?_
      | with_reducible refine keepsRing_use_wait (by assumption) ?_ | split)

theorem sqTry_keeps (n tries : Nat) (s : State) (kept : Keeps orig s) :
    Keeps orig (sqTry n tries s) := by
  unfold sqTry
  repeat' (first | with_reducible assumption | with_reducible apply sqRun_keeps)

theorem sqKick_keeps (n : Nat) (s : State) (kept : Keeps orig s) :
    Keeps orig (sqKick n s) := by
  unfold sqKick
  repeat' (first | with_reducible assumption | with_reducible apply sqTry_keeps)

theorem recvBad_keeps (n : Nat) (q : Qp) (e : RqEnt) (code : Nat) (s : State) (kept : Keeps orig s) :
    Keeps orig (recvBad n q e code s) := by
  unfold recvBad
  repeat' (first
    | with_reducible assumption | with_reducible apply toError_keeps | with_reducible apply flushRecv_keeps)

theorem takeRecv_keeps (n code : Nat) (q : Qp) (bs : List Byte) (s : State) (kept : Keeps orig s) :
    Keeps orig (takeRecv n code q bs s) := by
  unfold takeRecv
  repeat' (first
    | with_reducible intro _ | with_reducible assumption | with_reducible apply keeps_ite
    | with_reducible apply recvBad_keeps | with_reducible apply flushRecv_keeps | with_reducible apply modQp_keeps)

theorem rqAhead_keeps (n tries : Nat) (s : State) (kept : Keeps orig s) :
    Keeps orig (rqAhead n tries s) := by
  unfold rqAhead
  repeat' (first
    | with_reducible intro _ | with_reducible assumption | with_reducible apply keeps_ite
    | with_reducible apply modQp_keeps | with_reducible apply bump_keeps)

theorem rqGot_keeps (n tries : Nat) (q : Qp) (bs : List Byte) (s : State) (kept : Keeps orig s) :
    Keeps orig (rqGot n tries q bs s) := by
  unfold rqGot
  repeat' (first
    | with_reducible intro _ | with_reducible assumption | with_reducible apply keeps_ite
    | with_reducible apply rqAhead_keeps | with_reducible apply takeRecv_keeps)

theorem rqRun_keeps (n : Nat) : ∀ (x0 : Nat) (x1 : Nat) (x2 : State), Keeps orig x2 →
    Keeps orig (rqRun n x0 x1 x2)
  | 0, _, s, kept => by
    unfold rqRun
    repeat' (first
      | with_reducible assumption | with_reducible apply rqGot_keeps | with_reducible apply takeRecv_keeps
      | with_reducible apply startNow_keeps | with_reducible apply ringRead_keeps | with_reducible apply modQp_keeps
      | with_reducible apply rqRun_keeps | with_reducible refine keepsRing_use_ok (by assumption) ?_
      | with_reducible refine keepsRing_use_fail (by assumption) ?_
      | with_reducible refine keepsRing_use_wait (by assumption) ?_ | split)
  | fuel + 1, tries, s, kept => by
    unfold rqRun
    repeat' (first
      | with_reducible assumption | with_reducible apply rqGot_keeps | with_reducible apply takeRecv_keeps
      | with_reducible apply startNow_keeps | with_reducible apply ringRead_keeps | with_reducible apply modQp_keeps
      | with_reducible apply rqRun_keeps | with_reducible refine keepsRing_use_ok (by assumption) ?_
      | with_reducible refine keepsRing_use_fail (by assumption) ?_
      | with_reducible refine keepsRing_use_wait (by assumption) ?_ | split)

theorem rqTry_keeps (n tries : Nat) (s : State) (kept : Keeps orig s) :
    Keeps orig (rqTry n tries s) := by
  unfold rqTry
  repeat' (first | with_reducible assumption | with_reducible apply rqRun_keeps)

theorem rqKick_keeps (n : Nat) (s : State) (kept : Keeps orig s) :
    Keeps orig (rqKick n s) := by
  unfold rqKick
  repeat' (first | with_reducible assumption | with_reducible apply rqTry_keeps)

theorem qpKick_keeps (n : Nat) (s : State) (kept : Keeps orig s) :
    Keeps orig (qpKick n s) := by
  unfold qpKick
  repeat' (first | with_reducible assumption | with_reducible apply rqKick_keeps | with_reducible apply sqKick_keeps)

theorem kickPart_keeps (part : Nat) (s : State) (kept : Keeps orig s) :
    Keeps orig (kickPart part s) := by
  unfold kickPart
  repeat' (first
    | with_reducible intro _ | with_reducible assumption | with_reducible apply keeps_foldl
    | with_reducible apply qpKick_keeps)

theorem failQp_keeps (n code op idx : Nat) (lost : Bool) (s : State) (kept : Keeps orig s) :
    Keeps orig (failQp n code op idx lost s) := by
  unfold failQp
  repeat' (first
    | with_reducible assumption | with_reducible apply qpKick_keeps | with_reducible apply toError_keeps)

end Sys2Proof.Machine
end

