-- ==== Sys2Proof/Laws/Keeps/QpWire.lean ====
section
/-! SUPPORT. The operations of Machine/QpWire.lean keep what every operation keeps. -/

namespace Sys2Proof.Machine

open Sys2Proof

set_option linter.tactic.unusedName false

variable {orig res : State}

theorem modMsg_keeps (n : Nat) (k : RxPkt) (f : InMsg → InMsg) (s : State) (kept : Keeps orig s) :
    Keeps orig (modMsg n k f s) := by
  unfold modMsg
  repeat' (first | with_reducible assumption | with_reducible apply modQp_keeps)

theorem giveEntry_keeps (n : Nat) (k : RxPkt) (s : State) (kept : Keeps orig s) :
    Keeps orig (giveEntry n k s) := by
  unfold giveEntry
  repeat' (first
    | with_reducible assumption | with_reducible apply modMsg_keeps | with_reducible apply modQp_keeps | split)

theorem takeVia_keeps (n x : Nat) (s : State) (kept : Keeps orig s) :
    Keeps orig (takeVia n x s).2 := by
  unfold takeVia
  repeat' (first | with_reducible assumption | with_reducible apply modX_keeps)

theorem failPlace_keeps (n x : Nat) (v : Via) (msn code : Nat) (s : State) (kept : Keeps orig s) :
    Keeps orig (failPlace n x v msn code s) := by
  unfold failPlace
  repeat' (first | with_reducible assumption | with_reducible apply ackVia_keeps | with_reducible apply modQp_keeps)

theorem viaXfer_keeps (n : Nat) (k : RxPkt) (f : Xfer) (s : State) (kept : Keeps orig s) :
    Keeps orig (viaXfer n k f s).2 := by
  unfold viaXfer
  repeat' (first
    | with_reducible assumption | with_reducible apply startXfer_keeps | with_reducible apply modX_keeps)

theorem msgXfer_keeps (n : Nat) (k : RxPkt) (f : Xfer) (s : State) (kept : Keeps orig s) :
    Keeps orig (msgXfer n k f s) := by
  unfold msgXfer
  repeat' (first
    | with_reducible assumption | with_reducible apply viaXfer_keeps | with_reducible apply modMsg_keeps)

theorem landResp_keeps (n : Nat) (q : Qp) (k : RxPkt) (off : Nat) (s : State) (kept : Keeps orig s) :
    Keeps orig (landResp n q k off s) := by
  unfold landResp
  repeat' (first
    | with_reducible assumption | with_reducible apply viaXfer_keeps | with_reducible apply modXfer_keeps
    | with_reducible apply modQp_keeps | split)

theorem startPkt_keeps (n : Nat) (q : Qp) (k : RxPkt) (s : State) (kept : Keeps orig s) :
    KeepsOpt orig (startPkt n q k s) := by
  unfold startPkt
  repeat' (first
    | (simp -zeta only [keeps_mk_iff]) | with_reducible intro _ | with_reducible assumption
    | with_reducible apply keepsOpt_ite | with_reducible exact keepsOpt_none | with_reducible apply keepsOpt_some
    | with_reducible apply landResp_keeps | with_reducible apply msgXfer_keeps | with_reducible apply giveEntry_keeps
    | with_reducible apply modMsg_keeps | with_reducible apply failQp_keeps | with_reducible apply ackVia_keeps
    | split)

theorem startHeld_keeps (n : Nat) : ∀ (x0 : Nat) (x1 : State), Keeps orig x1 →
    Keeps orig (startHeld n x0 x1)
  | 0, s, kept => by
    unfold startHeld
    repeat' (first
      | with_reducible assumption | with_reducible apply startPkt_keeps | with_reducible apply modX_keeps
      | with_reducible apply startHeld_keeps | with_reducible refine keepsOpt_use (by assumption) ?_ | split)
  | fuel + 1, s, kept => by
    unfold startHeld
    repeat' (first
      | with_reducible assumption | with_reducible apply startPkt_keeps | with_reducible apply modX_keeps
      | with_reducible apply startHeld_keeps | with_reducible refine keepsOpt_use (by assumption) ?_ | split)

theorem refusePkt_keeps (n d : Nat) (k : RxPkt) (ready : Bool) (code : Nat) (s : State) (kept : Keeps orig s) :
    Keeps orig (refusePkt n d k ready code s) := by
  unfold refusePkt
  repeat' (first
    | with_reducible assumption | with_reducible apply modMsg_keeps | with_reducible apply sendAck_keeps
    | with_reducible apply modX_keeps)

theorem rnrAnswer_keeps (n psn : Nat) (s : State) (kept : Keeps orig s) :
    Keeps orig (rnrAnswer n psn s) := by
  unfold rnrAnswer
  repeat' (first | with_reducible assumption | with_reducible apply sendAck_keeps | with_reducible apply modX_keeps)

theorem rxPacket_keeps (n die gen : Nat) (k0 : RxPkt) (s : State) (kept : Keeps orig s) :
    Keeps orig (rxPacket n die gen k0 s) := by
  unfold rxPacket
  repeat' (first
    | with_reducible intro _ | with_reducible assumption | with_reducible apply keeps_ite
    | with_reducible apply rnrAnswer_keeps | with_reducible apply refusePkt_keeps
    | with_reducible apply startHeld_keeps | with_reducible apply sendAck_keeps | with_reducible apply modX_keeps
    | with_reducible apply bump_keeps | split)

theorem releaseMsg_keeps (n : Nat) (q : Qp) (m : InMsg) (s : State) (kept : Keeps orig s) :
    Keeps orig (releaseMsg n q m s) := by
  unfold releaseMsg
  repeat' (first
    | with_reducible assumption | with_reducible apply postCqe_keeps | with_reducible apply tallyAdd_keeps | split)

theorem releaseMsgs_keeps (n : Nat) : ∀ (x0 : Nat) (x1 : Bool) (x2 : State), Keeps orig x2 →
    Keeps orig (releaseMsgs n x0 x1 x2)
  | 0, moved, s, kept => by
    unfold releaseMsgs
    repeat' (first
      | with_reducible assumption | with_reducible apply releaseMsg_keeps | with_reducible apply sendAck_keeps
      | with_reducible apply modQp_keeps | with_reducible apply releaseMsgs_keeps | split)
  | fuel + 1, moved, s, kept => by
    unfold releaseMsgs
    repeat' (first
      | with_reducible assumption | with_reducible apply releaseMsg_keeps | with_reducible apply sendAck_keeps
      | with_reducible apply modQp_keeps | with_reducible apply releaseMsgs_keeps | split)

theorem queueResp_keeps (n msn : Nat) (atomic : Bool) (data : List Byte) (s : State) (kept : Keeps orig s) :
    Keeps orig (queueResp n msn atomic data s) := by
  unfold queueResp
  repeat' (first
    | with_reducible assumption | with_reducible apply pumpQp_keeps | with_reducible apply modX_keeps | split)

theorem failMsn_keeps (n msn code : Nat) (s : State) (kept : Keeps orig s) :
    Keeps orig (failMsn n msn code s) := by
  unfold failMsn
  repeat' (first
    | with_reducible assumption | with_reducible apply failOp_keeps | with_reducible apply endRemote_keeps
    | with_reducible apply modX_keeps | with_reducible apply modQp_keeps | split)

theorem exhaust_keeps (n : Nat) (q : Qp) (p : TxPkt) (s : State) (kept : Keeps orig s) :
    Keeps orig (exhaust n q p s) := by
  unfold exhaust
  repeat' (first
    | with_reducible intro _ | with_reducible assumption | with_reducible apply keeps_ite
    | with_reducible apply failMsn_keeps | with_reducible apply toError_keeps)

theorem losePkt_keeps (n : Nat) (p : TxPkt) (s : State) (kept : Keeps orig s) :
    Keeps orig (losePkt n p s) := by
  unfold losePkt
  repeat' (first
    | with_reducible assumption | with_reducible apply exhaust_keeps | with_reducible apply modX_keeps | split)

theorem succeedOp_keeps (n : Nat) (o : SqOp) (s : State) (kept : Keeps orig s) :
    Keeps orig (succeedOp n o s) := by
  unfold succeedOp
  repeat' (first
    | with_reducible assumption | with_reducible apply setOp_keeps | with_reducible apply advance_keeps
    | with_reducible apply modXfer_keeps | with_reducible apply modQp_keeps | split)

theorem finishRemoteReads_keeps (n : Nat) (s : State) (kept : Keeps orig s) :
    Keeps orig (finishRemoteReads n s) := by
  unfold finishRemoteReads
  repeat' (first
    | with_reducible intro _ | with_reducible assumption | with_reducible apply keeps_foldl
    | with_reducible apply succeedOp_keeps | split)

theorem onAck_keeps (n die : Nat) (bs : List Byte) (s : State) (kept : Keeps orig s) :
    Keeps orig (onAck n die bs s) := by
  unfold onAck
  repeat' (first
    | with_reducible intro _ | with_reducible assumption | with_reducible apply keeps_ite
    | with_reducible apply keeps_foldl | with_reducible apply succeedOp_keeps | with_reducible apply losePkt_keeps
    | with_reducible apply failMsn_keeps | with_reducible apply sqKick_keeps | with_reducible apply modX_keeps
    | with_reducible apply bump_keeps | split)

end Sys2Proof.Machine
end

