-- ==== Sys2Proof/Laws/Keeps/PipeOps.lean ====
section
/-! SUPPORT. The operations of Machine/PipeOps.lean keep what every operation keeps. -/

namespace Sys2Proof.Machine

open Sys2Proof

set_option linter.tactic.unusedName false

variable {orig res : State}

theorem modPipe_keeps (f : Pipe → Pipe) (s : State) (kept : Keeps orig s) : Keeps orig (modPipe f s) := keeps_mk kept

theorem pcount_keeps (die c n : Nat) (s : State) (kept : Keeps orig s) :
    Keeps orig (pcount die c n s) := by
  unfold pcount
  repeat' (first | with_reducible assumption | with_reducible apply bump_keeps)

theorem nodeCount_keeps (node c n : Nat) (s : State) (kept : Keeps orig s) :
    Keeps orig (nodeCount node c n s) := by
  unfold nodeCount
  repeat' (first | with_reducible assumption | with_reducible apply modPipe_keeps)

theorem takeRoom_keeps (r : Room) (s : State) (kept : Keeps orig s) :
    Keeps orig (takeRoom r s) := by
  unfold takeRoom
  repeat' (first | with_reducible assumption | with_reducible apply modPipe_keeps)

theorem freeRoom_keeps (r : Room) (s : State) (kept : Keeps orig s) :
    Keeps orig (freeRoom r s) := by
  unfold freeRoom
  repeat' (first | with_reducible assumption | with_reducible apply modPipe_keeps)

theorem countHit_keeps (v : Nat) (i : Option Nat) (n : Nat) (s : State) (kept : Keeps orig s) :
    Keeps orig (countHit v i n s) := by
  unfold countHit
  repeat' (first | with_reducible assumption | with_reducible apply modPipe_keeps | split)

theorem meterFrame_keeps (die m pre n : Nat) (s : State) (kept : Keeps orig s) :
    Keeps orig (meterFrame die m pre n s).2 := by
  unfold meterFrame
  repeat' (first | with_reducible assumption | with_reducible apply modPipe_keeps | split)

theorem gateNow_keeps (port : Nat) (s : State) (kept : Keeps orig s) :
    Keeps orig (gateNow port s) := by
  unfold gateNow
  repeat' (first | with_reducible assumption | with_reducible apply modPipe_keeps | split)

theorem modSched_keeps (k : Nat) (f : Sched → Sched) (s : State) (kept : Keeps orig s) :
    Keeps orig (modSched k f s) := by
  unfold modSched
  repeat' (first | with_reducible assumption | with_reducible apply modPipe_keeps)

theorem takeTurn_keeps  : ∀ (x0 : Nat) (x1 : List Nat) (x2 : State), Keeps orig x2 →
    KeepsOpt2 orig (takeTurn x0 x1 x2)
  | 0, _, s, kept => by
    unfold takeTurn
    repeat' (first
      | with_reducible intro _ | with_reducible assumption | with_reducible apply keepsOpt2_ite
      | with_reducible exact keepsOpt2_none | with_reducible apply keepsOpt2_some
      | with_reducible apply modSched_keeps | with_reducible apply takeTurn_keeps | split)
  | _, [], s, kept => by
    unfold takeTurn
    repeat' (first
      | with_reducible intro _ | with_reducible assumption | with_reducible apply keepsOpt2_ite
      | with_reducible exact keepsOpt2_none | with_reducible apply keepsOpt2_some
      | with_reducible apply modSched_keeps | with_reducible apply takeTurn_keeps | split)
  | fuel + 1, c :: r, s, kept => by
    unfold takeTurn
    repeat' (first
      | with_reducible intro _ | with_reducible assumption | with_reducible apply keepsOpt2_ite
      | with_reducible exact keepsOpt2_none | with_reducible apply keepsOpt2_some
      | with_reducible apply modSched_keeps | with_reducible apply takeTurn_keeps | split)

theorem pickPath_keeps (node : Nat) : ∀ (x0 : Nat) (x1 : Nat) (x2 : State), Keeps orig x2 →
    KeepsOpt2 orig (pickPath node x0 x1 x2)
  | 0, _, s, kept => by
    unfold pickPath
    repeat' (first
      | with_reducible assumption
      | (extract_lets +onlyGivenNames x; refine keepsOpt2_cut (r := orig) (o := x) ?_ (fun _ => ?_); rotate_left; clear_value x; revert x; intro _ _; rotate_left; (simp -zeta only [x]); clear x)
      | (extract_lets +onlyGivenNames x; clear_value x; revert x; intro _) | with_reducible exact keepsOpt2_none
      | with_reducible apply keepsOpt2_some | with_reducible apply takeTurn_keeps
      | with_reducible apply modSched_keeps | with_reducible apply pickPath_keeps
      | with_reducible refine keepsOpt2_use (by assumption) ?_
      | with_reducible refine keepsOpt2_some_use (by assumption) | split)
  | fuel + 1, k, s, kept => by
    unfold pickPath
    repeat' (first
      | with_reducible assumption
      | (extract_lets +onlyGivenNames x; refine keepsOpt2_cut (r := orig) (o := x) ?_ (fun _ => ?_); rotate_left; clear_value x; revert x; intro _ _; rotate_left; (simp -zeta only [x]); clear x)
      | (extract_lets +onlyGivenNames x; clear_value x; revert x; intro _) | with_reducible exact keepsOpt2_none
      | with_reducible apply keepsOpt2_some | with_reducible apply takeTurn_keeps
      | with_reducible apply modSched_keeps | with_reducible apply pickPath_keeps
      | with_reducible refine keepsOpt2_use (by assumption) ?_
      | with_reducible refine keepsOpt2_some_use (by assumption) | split)

theorem chargePath_keeps (ks : List Nat) (n : Nat) (s : State) (kept : Keeps orig s) :
    Keeps orig (chargePath ks n s) := by
  unfold chargePath
  repeat' (first
    | with_reducible intro _ | with_reducible assumption | with_reducible apply keeps_foldl
    | with_reducible apply modSched_keeps)

theorem forward_keeps (q : Nat) (f : List Byte) (room : Room) (s : State) (kept : Keeps orig s) :
    KeepsOpt orig (forward q f room s) := by
  unfold forward
  repeat' (first
    | with_reducible intro _ | with_reducible assumption | with_reducible apply keepsOpt_ite
    | with_reducible exact keepsOpt_none | with_reducible apply keepsOpt_some | with_reducible apply modSched_keeps)

theorem txPush_keeps (q : Nat) (bytes : List Byte) (s : State) (kept : Keeps orig s) :
    KeepsOpt orig (txPush q bytes s) := by
  unfold txPush
  repeat' (first
    | with_reducible intro _ | with_reducible assumption | with_reducible apply keepsOpt_ite
    | with_reducible exact keepsOpt_none | with_reducible apply keepsOpt_some | with_reducible apply modSched_keeps)

theorem sampleDelay_keeps (q ns : Nat) (s : State) (kept : Keeps orig s) :
    Keeps orig (sampleDelay q ns s) := by
  unfold sampleDelay
  repeat' (first | with_reducible assumption | with_reducible apply modPipe_keeps | split)

theorem sampleDepths_keeps (s : State) (kept : Keeps orig s) :
    Keeps orig (sampleDepths s) := by
  unfold sampleDepths
  repeat' (first | with_reducible assumption | with_reducible apply modPipe_keeps)

end Sys2Proof.Machine
end

