-- ==== Sys2Proof/Laws/Keeps/TileOps.lean ====
section
/-! SUPPORT. The operations of Machine/TileOps.lean keep what every operation keeps. -/

namespace Sys2Proof.Machine

open Sys2Proof

set_option linter.tactic.unusedName false

variable {orig res : State}

theorem modTileAt_keeps (part slot rel : Nat) (f : Tile → Tile) (s : State) (kept : Keeps orig s) :
    Keeps orig (modTileAt part slot rel f s) := by
  unfold modTileAt
  repeat' (first
    | with_reducible assumption | with_reducible apply setGroup_keeps | with_reducible apply modTile_keeps | split)

theorem modSlot_keeps (part slot : Nat) (f : SlotSt → SlotSt) (s : State) (kept : Keeps orig s) :
    Keeps orig (modSlot part slot f s) := by
  unfold modSlot
  repeat' (first | with_reducible assumption | with_reducible apply setGroup_keeps | split)

theorem freeGen_keeps (s : State) (kept : Keeps orig s) :
    Keeps orig (freeGen s).2 := by
  unfold freeGen
  repeat' (first | with_reducible assumption | with_reducible refine keeps_draws ?_ (Nat.le_succ _))

theorem seedGen_keeps (seed : Nat) (s : State) (kept : Keeps orig s) :
    Keeps orig (seedGen seed s).2 := by
  unfold seedGen
  repeat' (first
    | with_reducible intro _ | with_reducible assumption | with_reducible apply keeps_ite_snd
    | with_reducible apply freeGen_keeps)

theorem tileCount_keeps (t c n : Nat) (s : State) (kept : Keeps orig s) :
    Keeps orig (tileCount t c n s) := by
  unfold tileCount
  repeat' (first
    | with_reducible intro _ | with_reducible assumption | with_reducible apply keeps_ite
    | with_reducible apply bump_keeps)

theorem countCvt_keeps (t : Nat) (c : Converted) (s : State) (kept : Keeps orig s) :
    Keeps orig (countCvt t c s) := by
  unfold countCvt
  repeat' (first | with_reducible assumption | with_reducible apply tileCount_keeps)

theorem modBind_keeps (k : Nat) (f : Binding → Binding) (s : State) (kept : Keeps orig s) : Keeps orig (modBind k f s) := keeps_mk kept

theorem pushFifo_keeps (t f : Nat) (bs : List Byte) (s : State) (kept : Keeps orig s) :
    Keeps orig (pushFifo t f bs s) := by
  unfold pushFifo
  repeat' (first | with_reducible assumption | with_reducible apply modTile_keeps)

theorem popFifo_keeps (t f n : Nat) (s : State) (kept : Keeps orig s) :
    Keeps orig (popFifo t f n s) := by
  unfold popFifo
  repeat' (first
    | with_reducible assumption | with_reducible apply modBind_keeps | with_reducible apply modTile_keeps | split)

theorem setJob_keeps (j : Nat) (x : Job) (s : State) (kept : Keeps orig s) : Keeps orig (setJob j x s) := keeps_mk kept

theorem modJobTiles_keeps (j : Job) (f : Tile → Tile) (s : State) (kept : Keeps orig s) :
    Keeps orig (modJobTiles j f s) := by
  unfold modJobTiles
  repeat' (first
    | with_reducible intro _ | with_reducible assumption | with_reducible apply keeps_foldl
    | with_reducible apply modTileAt_keeps)

theorem endJob_keeps (j code opspec : Nat) (s : State) (kept : Keeps orig s) :
    Keeps orig (endJob j code opspec s) := by
  unfold endJob
  repeat' (first
    | with_reducible assumption | with_reducible apply modJobTiles_keeps | with_reducible apply setJob_keeps | split)

theorem failTile_keeps (t code : Nat) (s : State) (kept : Keeps orig s) :
    Keeps orig (failTile t code s) := by
  unfold failTile
  repeat' (first | with_reducible assumption | with_reducible apply endJob_keeps | split)

theorem startTiles_keeps (x : Job) : ∀ (x0 : List (Nat × Nat)) (x1 : State), Keeps orig x1 →
    Keeps orig (startTiles x x0 x1)
  | [], s, kept => by
    unfold startTiles
    repeat' (first
      | with_reducible assumption | with_reducible apply freeGen_keeps | with_reducible apply modTileAt_keeps
      | with_reducible apply startTiles_keeps)
  | p :: ps, s, kept => by
    unfold startTiles
    repeat' (first
      | with_reducible assumption | with_reducible apply freeGen_keeps | with_reducible apply modTileAt_keeps
      | with_reducible apply startTiles_keeps)

theorem launch_keeps (j : Nat) (s : State) (kept : Keeps orig s) :
    Keeps orig (launch j s) := by
  unfold launch
  repeat' (first
    | with_reducible assumption | with_reducible apply startTiles_keeps | with_reducible apply endJob_keeps
    | with_reducible apply setJob_keeps | with_reducible apply needWake_keeps | split)

theorem kickJobs_keeps (s : State) (kept : Keeps orig s) :
    Keeps orig (kickJobs s) := by
  unfold kickJobs
  repeat' (first
    | with_reducible intro _ | with_reducible assumption | with_reducible apply keeps_foldl
    | with_reducible apply launch_keeps)

theorem signalJob_keeps (j : Nat) (x : Job) (code opspec : Nat) (s : State) (kept : Keeps orig s) :
    Keeps orig (signalJob j x code opspec s) := by
  unfold signalJob
  repeat' (first
    | with_reducible assumption | with_reducible apply postCqe_keeps | with_reducible apply tallyAdd_keeps | split)

end Sys2Proof.Machine
end

