-- ==== Sys2Proof/Laws/Keeps/TileMac.lean ====
section
/-! SUPPORT. The operations of Machine/TileMac.lean keep what every operation keeps. -/

namespace Sys2Proof.Machine

open Sys2Proof

set_option linter.tactic.unusedName false

variable {orig res : State}

/-- What every operation keeps, of the state in a result. -/
inductive KeepsM (orig : State) : MRes → Prop where
  | ok {s} (h : Keeps orig s) : KeepsM orig (.ok s)
  | wait {s} (h : Keeps orig s) : KeepsM orig (.wait s)
  | fail {b} {s} (h : Keeps orig s) : KeepsM orig (.fail b s)

theorem keepsM_ok (h : Keeps orig res) : KeepsM orig (.ok res) := .ok h

theorem keepsM_use_ok {o : MRes} (e : o = .ok res) (h : KeepsM orig o) : Keeps orig res := by
  rw [e] at h
  cases h
  assumption

theorem keepsM_wait (h : Keeps orig res) : KeepsM orig (.wait res) := .wait h

theorem keepsM_use_wait {o : MRes} (e : o = .wait res) (h : KeepsM orig o) : Keeps orig res := by
  rw [e] at h
  cases h
  assumption

theorem keepsM_fail {b} (h : Keeps orig res) : KeepsM orig (.fail b res) := .fail h

theorem keepsM_use_fail {o : MRes} {b} (e : o = .fail b res) (h : KeepsM orig o) : Keeps orig res := by
  rw [e] at h
  cases h
  assumption

theorem keepsM_ite {c : Prop} [Decidable c] {a b : MRes} (ha : c → KeepsM orig a) (hb : ¬c → KeepsM orig b) :
    KeepsM orig (if c then a else b) := by
  split
  · next h => exact ha h
  · next h => exact hb h

theorem fetchOps_keeps (t part : Nat) (ecc : List EccHit) (size inc : Nat) : ∀ (x0 : Nat) (x1 : Nat) (x2 : State), Keeps orig x2 →
    Keeps orig (fetchOps t part ecc size inc x0 x1 x2).2
  | 0, _, s, kept => by
    unfold fetchOps
    repeat' (first
      | with_reducible assumption | with_reducible apply readSpan_keeps | with_reducible apply fetchOps_keeps
      | with_reducible refine keepsSnd_use (by assumption) ?_
      | with_reducible refine keepsAcc_use_ok (by assumption) ?_
      | with_reducible refine keepsAcc_use_stop (by assumption) ?_ | split)
  | n + 1, a, s, kept => by
    unfold fetchOps
    repeat' (first
      | with_reducible assumption | with_reducible apply readSpan_keeps | with_reducible apply fetchOps_keeps
      | with_reducible refine keepsSnd_use (by assumption) ?_
      | with_reducible refine keepsAcc_use_ok (by assumption) ?_
      | with_reducible refine keepsAcc_use_stop (by assumption) ?_ | split)

theorem mStep_keeps (t part : Nat) (ecc : List EccHit) (q : MSeq) (s : State) (kept : Keeps orig s) :
    KeepsM orig (mStep t part ecc q s) := by
  unfold mStep
  repeat' (first
    | with_reducible assumption
    | (extract_lets +onlyGivenNames x; refine keeps_fn x ?_; subst x; try dsimp -zeta only)
    | (extract_lets +onlyGivenNames x; clear_value x; revert x; intro _) | with_reducible apply keepsM_ok
    | with_reducible apply keepsM_wait | with_reducible apply keepsM_fail | with_reducible apply fetchOps_keeps
    | with_reducible apply popFifo_keeps | with_reducible apply tileCount_keeps | with_reducible apply modTile_keeps
    | with_reducible refine keepsSnd_use (by assumption) ?_ | split)

theorem mRun_keeps (t : Nat) (ecc : List EccHit) : ∀ (x0 : Nat) (x1 : State), Keeps orig x1 →
    Keeps orig (mRun t ecc x0 x1)
  | 0, s, kept => by
    unfold mRun
    repeat' (first
      | with_reducible assumption | with_reducible apply mStep_keeps | with_reducible apply failTile_keeps
      | with_reducible apply modTile_keeps | with_reducible apply mRun_keeps
      | with_reducible refine keepsM_use_ok (by assumption) ?_
      | with_reducible refine keepsM_use_wait (by assumption) ?_
      | with_reducible refine keepsM_use_fail (by assumption) ?_ | split)
  | fuel + 1, s, kept => by
    unfold mRun
    repeat' (first
      | with_reducible assumption | with_reducible apply mStep_keeps | with_reducible apply failTile_keeps
      | with_reducible apply modTile_keeps | with_reducible apply mRun_keeps
      | with_reducible refine keepsM_use_ok (by assumption) ?_
      | with_reducible refine keepsM_use_wait (by assumption) ?_
      | with_reducible refine keepsM_use_fail (by assumption) ?_ | split)

theorem mFeed_keeps (t f : Nat) (s : State) (kept : Keeps orig s) :
    Keeps orig (mFeed t f s) := by
  unfold mFeed
  repeat' (first | with_reducible assumption | with_reducible apply mRun_keeps | split)

end Sys2Proof.Machine
end

