-- ==== Sys2Proof/Laws/Keeps/StreamOps.lean ====
section
/-! SUPPORT. The operations of Machine/StreamOps.lean keep what every operation keeps. -/

namespace Sys2Proof.Machine

open Sys2Proof

set_option linter.tactic.unusedName false

variable {orig res : State}

theorem putRecord_keeps (k t f : Nat) (bs : List Byte) (s : State) (kept : Keeps orig s) :
    Keeps orig (putRecord k t f bs s) := by
  unfold putRecord
  repeat' (first
    | with_reducible assumption | with_reducible apply mFeed_keeps | with_reducible apply pushFifo_keeps
    | with_reducible apply modBind_keeps)

theorem netNext_keeps (k : Nat) (s : State) (kept : Keeps orig s) :
    KeepsOpt orig (netNext k s) := by
  unfold netNext
  repeat' (first
    | with_reducible intro _ | with_reducible assumption | with_reducible apply keepsOpt_ite
    | with_reducible exact keepsOpt_none | with_reducible apply keepsOpt_some | with_reducible apply putRecord_keeps
    | with_reducible apply modBind_keeps | with_reducible apply wrMem_keeps | with_reducible apply modTile_keeps
    | split)

theorem pumpNet_keeps (k : Nat) : ∀ (x0 : Nat) (x1 : State), Keeps orig x1 →
    Keeps orig (pumpNet k x0 x1)
  | 0, s, kept => by
    unfold pumpNet
    repeat' (first
      | with_reducible assumption | with_reducible apply netNext_keeps | with_reducible apply needWake_keeps
      | with_reducible apply pumpNet_keeps | with_reducible refine keepsOpt_use (by assumption) ?_ | split)
  | fuel + 1, s, kept => by
    unfold pumpNet
    repeat' (first
      | with_reducible assumption | with_reducible apply netNext_keeps | with_reducible apply needWake_keeps
      | with_reducible apply pumpNet_keeps | with_reducible refine keepsOpt_use (by assumption) ?_ | split)

theorem netArrive_keeps (k : Nat) (p : NetPkt) (s : State) (kept : Keeps orig s) :
    Keeps orig (netArrive k p s) := by
  unfold netArrive
  repeat' (first
    | with_reducible assumption | with_reducible apply pumpNet_keeps | with_reducible apply modBind_keeps | split)

theorem pumpDmaIn_keeps (k : Nat) (s : State) (kept : Keeps orig s) :
    Keeps orig (pumpDmaIn k s) := by
  unfold pumpDmaIn
  repeat' (first
    | with_reducible assumption | with_reducible apply modBind_keeps | with_reducible apply runReady_keeps
    | with_reducible apply startXfer_keeps | split)

theorem pumpDmaOut_keeps (k : Nat) (s : State) (kept : Keeps orig s) :
    Keeps orig (pumpDmaOut k s) := by
  unfold pumpDmaOut
  repeat' (first
    | with_reducible assumption | with_reducible apply popFifo_keeps | with_reducible apply modBind_keeps
    | with_reducible apply countCvt_keeps | with_reducible apply runReady_keeps
    | with_reducible apply startXfer_keeps | split)

theorem pumpLink_keeps (k : Nat) : ∀ (x0 : Nat) (x1 : State), Keeps orig x1 →
    Keeps orig (pumpLink k x0 x1)
  | 0, s, kept => by
    unfold pumpLink
    repeat' (first
      | with_reducible intro _ | with_reducible assumption | with_reducible apply keeps_ite
      | with_reducible apply mFeed_keeps | with_reducible apply popFifo_keeps | with_reducible apply pushFifo_keeps
      | with_reducible apply modBind_keeps | with_reducible apply countCvt_keeps
      | with_reducible apply pumpLink_keeps | split)
  | fuel + 1, s, kept => by
    unfold pumpLink
    repeat' (first
      | with_reducible intro _ | with_reducible assumption | with_reducible apply keeps_ite
      | with_reducible apply mFeed_keeps | with_reducible apply popFifo_keeps | with_reducible apply pushFifo_keeps
      | with_reducible apply modBind_keeps | with_reducible apply countCvt_keeps
      | with_reducible apply pumpLink_keeps | split)

theorem pumpTx_keeps (k : Nat) : ∀ (x0 : Nat) (x1 : State), Keeps orig x1 →
    Keeps orig (pumpTx k x0 x1)
  | 0, s, kept => by
    unfold pumpTx
    repeat' (first
      | with_reducible assumption | (extract_lets +onlyGivenNames x; clear_value x; revert x; intro _)
      | with_reducible apply popFifo_keeps | with_reducible apply modBind_keeps | with_reducible apply countCvt_keeps
      | with_reducible apply txPush_keeps | with_reducible apply pumpTx_keeps
      | with_reducible refine keepsOpt_use (by assumption) ?_ | split)
  | fuel + 1, s, kept => by
    unfold pumpTx
    repeat' (first
      | with_reducible assumption | (extract_lets +onlyGivenNames x; clear_value x; revert x; intro _)
      | with_reducible apply popFifo_keeps | with_reducible apply modBind_keeps | with_reducible apply countCvt_keeps
      | with_reducible apply txPush_keeps | with_reducible apply pumpTx_keeps
      | with_reducible refine keepsOpt_use (by assumption) ?_ | split)

theorem pumpBind_keeps (k : Nat) (s : State) (kept : Keeps orig s) :
    Keeps orig (pumpBind k s) := by
  unfold pumpBind
  repeat' (first
    | with_reducible assumption | with_reducible apply pumpTx_keeps | with_reducible apply pumpLink_keeps
    | with_reducible apply pumpDmaOut_keeps | with_reducible apply pumpDmaIn_keeps
    | with_reducible apply pumpNet_keeps | split)

theorem kickStreams_keeps (s : State) (kept : Keeps orig s) :
    Keeps orig (kickStreams s) := by
  unfold kickStreams
  repeat' (first
    | with_reducible intro _ | with_reducible assumption | with_reducible apply keeps_foldl
    | with_reducible apply pumpBind_keeps)

theorem dropBind_keeps (k : Nat) (s : State) (kept : Keeps orig s) :
    Keeps orig (dropBind k s) := by
  unfold dropBind
  repeat' (first
    | (simp -zeta only [keeps_mk_iff]) | with_reducible assumption | with_reducible apply modTileAt_keeps | split)

theorem tryUnbind_keeps (k : Nat) (s : State) (kept : Keeps orig s) :
    Keeps orig (tryUnbind k s) := by
  unfold tryUnbind
  repeat' (first
    | with_reducible assumption | with_reducible apply dropBind_keeps | with_reducible apply finish_keeps | split)

theorem streamDone_keeps (k code : Nat) (f : Xfer) (s : State) (kept : Keeps orig s) :
    Keeps orig (streamDone k code f s) := by
  unfold streamDone
  repeat' (first
    | with_reducible assumption | with_reducible apply tryUnbind_keeps | with_reducible apply pumpDmaOut_keeps
    | with_reducible apply pumpDmaIn_keeps | with_reducible apply mFeed_keeps | with_reducible apply failTile_keeps
    | with_reducible apply pushFifo_keeps | with_reducible apply modBind_keeps | with_reducible apply countCvt_keeps
    | split)

theorem modDma_keeps (t i : Nat) (f : TileDma → TileDma) (s : State) (kept : Keeps orig s) :
    Keeps orig (modDma t i f s) := by
  unfold modDma
  repeat' (first | with_reducible assumption | with_reducible apply modTile_keeps)

theorem landDma_keeps (t i code : Nat) (s : State) (kept : Keeps orig s) :
    Keeps orig (landDma t i code s) := by
  unfold landDma
  repeat' (first
    | with_reducible intro _ | with_reducible assumption | with_reducible apply keeps_ite
    | with_reducible apply modDma_keeps | with_reducible apply failTile_keeps)

theorem startDma_keeps (t : Nat) : ∀ (x0 : Nat) (x1 : State), Keeps orig x1 →
    Keeps orig (startDma t x0 x1)
  | 0, s, kept => by
    unfold startDma
    repeat' (first
      | with_reducible assumption | with_reducible apply landDma_keeps | with_reducible apply modDma_keeps
      | with_reducible apply countCvt_keeps | with_reducible apply seedGen_keeps
      | with_reducible apply runReady_keeps | with_reducible apply startXfer_keeps
      | with_reducible apply readSpan_keeps | with_reducible apply startDma_keeps
      | with_reducible refine keepsAcc_use_ok (by assumption) ?_
      | with_reducible refine keepsAcc_use_stop (by assumption) ?_ | split)
  | fuel + 1, s, kept => by
    unfold startDma
    repeat' (first
      | with_reducible assumption | with_reducible apply landDma_keeps | with_reducible apply modDma_keeps
      | with_reducible apply countCvt_keeps | with_reducible apply seedGen_keeps
      | with_reducible apply runReady_keeps | with_reducible apply startXfer_keeps
      | with_reducible apply readSpan_keeps | with_reducible apply startDma_keeps
      | with_reducible refine keepsAcc_use_ok (by assumption) ?_
      | with_reducible refine keepsAcc_use_stop (by assumption) ?_ | split)

theorem tileDmaDone_keeps (a i code : Nat) (f : Xfer) (s : State) (kept : Keeps orig s) :
    Keeps orig (tileDmaDone a i code f s) := by
  unfold tileDmaDone
  repeat' (first
    | with_reducible assumption
    | (extract_lets +onlyGivenNames x; refine keeps_cut (r := orig) (u := x.2) ?_ (fun _ => ?_); rotate_left; clear_value x; revert x; intro _ _; rotate_left; (simp -zeta only [x]); clear x)
    | (extract_lets +onlyGivenNames x; clear_value x; revert x; intro _) | with_reducible apply startDma_keeps
    | with_reducible apply landDma_keeps | with_reducible apply countCvt_keeps | with_reducible apply seedGen_keeps
    | with_reducible apply writeSpan_keeps | with_reducible refine keepsAcc_use_ok (by assumption) ?_
    | with_reducible refine keepsAcc_use_stop (by assumption) ?_ | split)

theorem modLoad_keeps (part slot i : Nat) (f : LoadItem → LoadItem) (s : State) (kept : Keeps orig s) :
    Keeps orig (modLoad part slot i f s) := by
  unfold modLoad
  repeat' (first | with_reducible assumption | with_reducible apply modSlot_keeps)

theorem startLoads_keeps (part slot : Nat) (s : State) (kept : Keeps orig s) :
    Keeps orig (startLoads part slot s) := by
  unfold startLoads
  repeat' (first
    | with_reducible intro _ | with_reducible assumption | with_reducible apply keeps_ite
    | with_reducible apply keeps_foldl | with_reducible apply modLoad_keeps | with_reducible apply runReady_keeps
    | with_reducible apply startXfer_keeps | split)

theorem writeRegion_keeps (part t : Nat) (r : Region) (els scs : List Byte) (s : State) (kept : Keeps orig s) :
    Keeps orig (writeRegion part t r els scs s) := by
  unfold writeRegion
  repeat' (first
    | with_reducible assumption
    | (extract_lets +onlyGivenNames x; refine keeps_fn x ?_; subst x; try dsimp -zeta only)
    | with_reducible apply writeSpan_keeps | with_reducible apply wrMem_keeps
    | with_reducible refine keepsAcc_use_ok (by assumption) ?_
    | with_reducible refine keepsAcc_use_stop (by assumption) ?_ | split)

theorem loadRegion_keeps (part slot i : Nat) (s : State) (kept : Keeps orig s) :
    Keeps orig (loadRegion part slot i s) := by
  unfold loadRegion
  repeat' (first
    | with_reducible assumption | with_reducible apply writeRegion_keeps | with_reducible apply modLoad_keeps
    | with_reducible apply countCvt_keeps | with_reducible apply seedGen_keeps | split)

theorem imageDone_keeps (a b code : Nat) (f : Xfer) (s : State) (kept : Keeps orig s) :
    Keeps orig (imageDone a b code f s) := by
  unfold imageDone
  repeat' (first
    | with_reducible intro _ | with_reducible assumption | with_reducible apply keeps_ite
    | with_reducible apply loadRegion_keeps | with_reducible apply modLoad_keeps)

theorem applyReload_keeps (part slot : Nat) (s : State) (kept : Keeps orig s) :
    Keeps orig (applyReload part slot s) := by
  unfold applyReload
  repeat' (first
    | with_reducible assumption | with_reducible apply startLoads_keeps | with_reducible apply modSlot_keeps | split)

theorem resumeJbnd_keeps (j : Nat) (s : State) (kept : Keeps orig s) :
    Keeps orig (resumeJbnd j s) := by
  unfold resumeJbnd
  repeat' (first | with_reducible assumption | with_reducible apply modJobTiles_keeps | split)

theorem jobBoundary_keeps (j : Nat) (x : Job) (s : State) (kept : Keeps orig s) :
    Keeps orig (jobBoundary j x s) := by
  unfold jobBoundary
  repeat' (first
    | with_reducible intro _ | with_reducible assumption | with_reducible apply keeps_foldl
    | with_reducible apply resumeJbnd_keeps | with_reducible apply applyReload_keeps
    | with_reducible apply signalJob_keeps | with_reducible apply benchBoundary_keeps)

theorem reachJbnd_keeps (j : Nat) (x : Job) (s : State) (kept : Keeps orig s) :
    Keeps orig (reachJbnd j x s) := by
  unfold reachJbnd
  repeat' (first
    | with_reducible intro _ | with_reducible assumption | with_reducible apply keeps_ite
    | with_reducible apply jobBoundary_keeps | with_reducible apply endJob_keeps)

theorem reachHalt_keeps (j : Nat) (x : Job) (s : State) (kept : Keeps orig s) :
    Keeps orig (reachHalt j x s) := by
  unfold reachHalt
  repeat' (first
    | with_reducible intro _ | with_reducible assumption | with_reducible apply keeps_ite
    | with_reducible apply endJob_keeps)

theorem finishJob_keeps (j : Nat) (x : Job) (code opspec : Nat) (s : State) (kept : Keeps orig s) :
    Keeps orig (finishJob j x code opspec s) := by
  unfold finishJob
  repeat' (first
    | (simp -zeta only [keeps_mk_iff]) | with_reducible intro _ | with_reducible assumption
    | with_reducible apply keeps_ite | with_reducible apply keeps_foldl | with_reducible apply applyReload_keeps
    | with_reducible apply signalJob_keeps | with_reducible apply kickJobs_keeps
    | with_reducible apply benchBoundary_keeps)

end Sys2Proof.Machine
end

