-- ==== Sys2Proof/Laws/Keeps/CollOps.lean ====
section
/-! SUPPORT. The operations of Machine/CollOps.lean keep what every operation keeps. -/

namespace Sys2Proof.Machine

open Sys2Proof

set_option linter.tactic.unusedName false

variable {orig res : State}

theorem modCu_keeps (f : Cu → Cu) (s : State) (kept : Keeps orig s) : Keeps orig (modCu f s) := keeps_mk kept

theorem modCgroup_keeps (h : Nat) (f : CGroup → CGroup) (s : State) (kept : Keeps orig s) :
    Keeps orig (modCgroup h f s) := by
  unfold modCgroup
  repeat' (first | with_reducible assumption | with_reducible apply modCu_keeps)

theorem modColl_keeps (id : Nat) (f : Coll → Coll) (s : State) (kept : Keeps orig s) :
    Keeps orig (modColl id f s) := by
  unfold modColl
  repeat' (first | with_reducible assumption | with_reducible apply modCu_keeps)

theorem modWork_keeps (id wk : Nat) (f : CWork → CWork) (s : State) (kept : Keeps orig s) :
    Keeps orig (modWork id wk f s) := by
  unfold modWork
  repeat' (first | with_reducible assumption | with_reducible apply modColl_keeps)

theorem cuCount_keeps (g : CGroup) (c n : Nat) (s : State) (kept : Keeps orig s) :
    Keeps orig (cuCount g c n s) := by
  unfold cuCount
  repeat' (first | with_reducible assumption | with_reducible apply bump_keeps)

theorem qpMessage_keeps (n : Nat) (bytes : List Byte) (s : State) (kept : Keeps orig s) :
    Keeps orig (qpMessage n bytes s) := by
  unfold qpMessage
  repeat' (first
    | with_reducible assumption | with_reducible apply pumpQp_keeps | with_reducible apply modQp_keeps | split)

theorem sendEdge_keeps (g : CGroup) (rank : Nat) (bytes : List Byte) (s : State) (kept : Keeps orig s) :
    Keeps orig (sendEdge g rank bytes s) := by
  unfold sendEdge
  repeat' (first
    | with_reducible assumption | with_reducible apply qpMessage_keeps | with_reducible apply sendFwd_keeps | split)

theorem sendChunk_keeps (id : Nat) (o : OutChunk) (s : State) (kept : Keeps orig s) :
    Keeps orig (sendChunk id o s) := by
  unfold sendChunk
  repeat' (first
    | with_reducible intro _ | with_reducible assumption | with_reducible apply keeps_foldl
    | with_reducible apply sendEdge_keeps | with_reducible apply cuCount_keeps | with_reducible apply modColl_keeps
    | split)

theorem sendCredit_keeps (id phase rank : Nat) (s : State) (kept : Keeps orig s) :
    Keeps orig (sendCredit id phase rank s) := by
  unfold sendCredit
  repeat' (first | with_reducible assumption | with_reducible apply sendEdge_keeps | split)

theorem grantCredit_keeps (id phase rank k : Nat) (s : State) (kept : Keeps orig s) :
    Keeps orig (grantCredit id phase rank k s) := by
  unfold grantCredit
  repeat' (first
    | with_reducible assumption | with_reducible apply sendCredit_keeps | with_reducible apply modColl_keeps)

theorem sendAborts_keeps (h seq alg code sig : Nat) (s : State) (kept : Keeps orig s) :
    Keeps orig (sendAborts h seq alg code sig s) := by
  unfold sendAborts
  repeat' (first
    | with_reducible intro _ | with_reducible assumption | with_reducible apply keeps_foldl
    | with_reducible apply sendEdge_keeps | with_reducible apply modCgroup_keeps | split)

theorem collFail_keeps (id code rank abort : Nat) (s : State) (kept : Keeps orig s) :
    Keeps orig (collFail id code rank abort s) := by
  unfold collFail
  repeat' (first
    | with_reducible intro _ | with_reducible assumption | with_reducible apply keeps_foldl
    | with_reducible apply sendAborts_keeps | with_reducible apply modColl_keeps | with_reducible apply endXfer_keeps
    | split)

theorem encodeVals_keeps (id : Nat) (g : CGroup) (int : Bool) (cvt : Byte) (vs : List Nat) (s : State) (kept : Keeps orig s) :
    Keeps orig (encodeVals id g int cvt vs s).2 := by
  unfold encodeVals
  repeat' (first
    | with_reducible assumption | with_reducible apply cuCount_keeps | with_reducible apply modColl_keeps)

theorem readResid_keeps (h : Nat) (g : CGroup) (slot half elem n : Nat) (s : State) (kept : Keeps orig s) :
    Keeps orig (readResid h g slot half elem n s).2 := by
  unfold readResid
  repeat' (first
    | with_reducible assumption | with_reducible apply readSpan_keeps
    | with_reducible refine keepsAcc_use_ok (by assumption) ?_
    | with_reducible refine keepsAcc_use_stop (by assumption) ?_ | split)

theorem writeResid_keeps (h : Nat) (g : CGroup) (slot half elem : Nat) (vs : List Nat) (s : State) (kept : Keeps orig s) :
    Keeps orig (writeResid h g slot half elem vs s).2 := by
  unfold writeResid
  repeat' (first
    | with_reducible assumption | with_reducible apply writeSpan_keeps
    | with_reducible refine keepsAcc_use_ok (by assumption) ?_
    | with_reducible refine keepsAcc_use_stop (by assumption) ?_ | split)

theorem quantise_keeps (id : Nat) (g : CGroup) (c : Coll) (elem : Nat) (vs : List Nat) (s : State) (kept : Keeps orig s) :
    Keeps orig (quantise id g c elem vs s).2 := by
  unfold quantise
  repeat' (first
    | with_reducible assumption
    | (extract_lets +onlyGivenNames x; refine keeps_cut (r := orig) (u := x.2) ?_ (fun _ => ?_); rotate_left; clear_value x; revert x; intro _ _; rotate_left; (simp -zeta only [x]); clear x)
    | (extract_lets +onlyGivenNames x; clear_value x; revert x; intro _) | with_reducible apply writeResid_keeps
    | with_reducible apply readResid_keeps | with_reducible apply encodeVals_keeps
    | with_reducible apply cuCount_keeps | with_reducible refine keepsSnd_use (by assumption) ?_ | split)

theorem startReads_keeps (id key wk : Nat) (own : Bool) (s : State) (kept : Keeps orig s) :
    Keeps orig (startReads id key wk own s) := by
  unfold startReads
  repeat' (first
    | with_reducible intro _ | with_reducible assumption | with_reducible apply keeps_foldl
    | with_reducible apply modWork_keeps | with_reducible apply startXfer_keeps | split)

theorem writeResult_keeps (id key wk : Nat) (vs : List Nat) (s : State) (kept : Keeps orig s) :
    Keeps orig (writeResult id key wk vs s) := by
  unfold writeResult
  repeat' (first
    | with_reducible intro _ | with_reducible assumption | with_reducible apply keeps_ite
    | with_reducible apply keeps_foldl | with_reducible apply encodeVals_keeps | with_reducible apply modWork_keeps
    | with_reducible apply modColl_keeps | with_reducible apply startXfer_keeps | split)

theorem queueChunk_keeps (id phase rank key n wk : Nat) (bytes : List Byte) (s : State) (kept : Keeps orig s) :
    Keeps orig (queueChunk id phase rank key n wk bytes s) := by
  unfold queueChunk
  repeat' (first
    | with_reducible assumption | with_reducible apply modWork_keeps | with_reducible apply modColl_keeps)

theorem finalChunk_keeps (id key : Nat) (wire : List Byte) (owner : Bool) (s : State) (kept : Keeps orig s) :
    Keeps orig (finalChunk id key wire owner s) := by
  unfold finalChunk
  repeat' (first
    | with_reducible intro _ | with_reducible assumption | with_reducible apply keeps_foldl
    | with_reducible apply queueChunk_keeps | with_reducible apply writeResult_keeps
    | with_reducible apply cuCount_keeps | with_reducible apply modWork_keeps | split)

theorem closeWork_keeps (id wk : Nat) (s : State) (kept : Keeps orig s) :
    Keeps orig (closeWork id wk s) := by
  unfold closeWork
  repeat' (first
    | with_reducible assumption | with_reducible apply grantCredit_keeps | with_reducible apply modColl_keeps | split)

theorem reducedChunk_keeps (id key : Nat) (w : CWork) (vs : List Nat) (s : State) (kept : Keeps orig s) :
    Keeps orig (reducedChunk id key w vs s) := by
  unfold reducedChunk
  repeat' (first
    | with_reducible intro _ | with_reducible assumption | with_reducible apply keeps_ite
    | with_reducible apply closeWork_keeps | with_reducible apply finalChunk_keeps
    | with_reducible apply encodeVals_keeps | with_reducible apply sendChunk_keeps
    | with_reducible apply modWork_keeps | with_reducible apply modColl_keeps | split)

theorem combineWork_keeps (id key : Nat) (s : State) (kept : Keeps orig s) :
    Keeps orig (combineWork id key s) := by
  unfold combineWork
  repeat' (first
    | with_reducible intro _ | with_reducible assumption
    | (extract_lets +onlyGivenNames x; refine keeps_cut (r := orig) (u := x) ?_ (fun _ => ?_); rotate_left; clear_value x; revert x; intro _ _; rotate_left; (simp -zeta only [x]); clear x)
    | (extract_lets +onlyGivenNames x; clear_value x; revert x; intro _) | with_reducible apply keeps_foldl
    | with_reducible apply reducedChunk_keeps | with_reducible apply grantCredit_keeps
    | with_reducible apply cuCount_keeps | with_reducible apply modWork_keeps | split)

theorem contribute_keeps (id key : Nat) (s : State) (kept : Keeps orig s) :
    Keeps orig (contribute id key s) := by
  unfold contribute
  repeat' (first
    | with_reducible assumption
    | (extract_lets +onlyGivenNames x; refine keeps_cut (r := orig) (u := x) ?_ (fun _ => ?_); rotate_left; clear_value x; revert x; intro _ _; rotate_left; (simp -zeta only [x]); clear x)
    | (extract_lets +onlyGivenNames x; refine keeps_cut (r := orig) (u := x.2) ?_ (fun _ => ?_); rotate_left; clear_value x; revert x; intro _ _; rotate_left; (simp -zeta only [x]); clear x)
    | (extract_lets +onlyGivenNames x; clear_value x; revert x; intro _) | with_reducible apply combineWork_keeps
    | with_reducible apply quantise_keeps | with_reducible apply collFail_keeps | with_reducible apply cuCount_keeps
    | with_reducible apply modWork_keeps | split)

theorem useCredit_keeps (id phase rank : Nat) (s : State) (kept : Keeps orig s) :
    Keeps orig (useCredit id phase rank s) := by
  unfold useCredit
  repeat' (first | with_reducible assumption | with_reducible apply modColl_keeps)

theorem pumpColl_keeps (id : Nat) : ∀ (x0 : Nat) (x1 : State), Keeps orig x1 →
    Keeps orig (pumpColl id x0 x1)
  | 0, s, kept => by
    unfold pumpColl
    repeat' (first
      | with_reducible assumption | with_reducible apply useCredit_keeps | with_reducible apply closeWork_keeps
      | with_reducible apply startReads_keeps | with_reducible apply sendChunk_keeps
      | with_reducible apply modWork_keeps | with_reducible apply modColl_keeps | with_reducible apply pumpColl_keeps
      | split)
  | fuel + 1, s, kept => by
    unfold pumpColl
    repeat' (first
      | with_reducible assumption | with_reducible apply useCredit_keeps | with_reducible apply closeWork_keeps
      | with_reducible apply startReads_keeps | with_reducible apply sendChunk_keeps
      | with_reducible apply modWork_keeps | with_reducible apply modColl_keeps | with_reducible apply pumpColl_keeps
      | split)

theorem kickColl_keeps (id : Nat) (s : State) (kept : Keeps orig s) :
    Keeps orig (kickColl id s) := by
  unfold kickColl
  repeat' (first | with_reducible assumption | with_reducible apply pumpColl_keeps)

theorem collXferDone_keeps (id b code : Nat) (f : Xfer) (s : State) (kept : Keeps orig s) :
    Keeps orig (collXferDone id b code f s) := by
  unfold collXferDone
  repeat' (first
    | with_reducible intro _ | with_reducible assumption | with_reducible apply keeps_ite
    | with_reducible apply kickColl_keeps | with_reducible apply contribute_keeps
    | with_reducible apply closeWork_keeps | with_reducible apply collFail_keeps | with_reducible apply modWork_keeps
    | with_reducible apply modColl_keeps | split)

theorem admitColl_keeps (id : Nat) (s : State) (kept : Keeps orig s) :
    Keeps orig (admitColl id s) := by
  unfold admitColl
  repeat' (first
    | with_reducible intro _ | with_reducible assumption | with_reducible apply keeps_foldl
    | with_reducible apply kickColl_keeps | with_reducible apply grantCredit_keeps
    | with_reducible apply modColl_keeps | split)

theorem endEntry_keeps (qpn idx code bytes opspec : Nat) (s : State) (kept : Keeps orig s) :
    Keeps orig (endEntry qpn idx code bytes opspec s) := by
  unfold endEntry
  repeat' (first | with_reducible assumption | with_reducible apply sqKick_keeps | with_reducible apply setOp_keeps)

theorem startColl_keeps (qpn idx code : Nat) (bs : List Byte) (s : State) (kept : Keeps orig s) :
    Keeps orig (startColl qpn idx code bs s) := by
  unfold startColl
  repeat' (first
    | with_reducible intro _ | with_reducible assumption | with_reducible apply keeps_ite
    | with_reducible apply endEntry_keeps | with_reducible apply cuCount_keeps | with_reducible apply modCgroup_keeps
    | with_reducible apply modCu_keeps | with_reducible apply seedGen_keeps | with_reducible apply setOp_keeps
    | with_reducible apply draw_keeps | split)

theorem dropColl_keeps (id : Nat) (s : State) (kept : Keeps orig s) :
    Keeps orig (dropColl id s) := by
  unfold dropColl
  repeat' (first | with_reducible assumption | with_reducible apply modCu_keeps)

theorem completeColl_keeps (id : Nat) (g : CGroup) (c : Coll) (s : State) (kept : Keeps orig s) :
    Keeps orig (completeColl id g c s) := by
  unfold completeColl
  repeat' (first
    | with_reducible intro _ | with_reducible assumption | with_reducible apply keeps_ite
    | with_reducible apply dropColl_keeps | with_reducible apply endEntry_keeps | with_reducible apply cuCount_keeps
    | with_reducible apply modCgroup_keeps | with_reducible apply modQp_keeps)

theorem failQueued_keeps (h code rank : Nat) (s : State) (kept : Keeps orig s) :
    Keeps orig (failQueued h code rank s) := by
  unfold failQueued
  repeat' (first
    | with_reducible intro _ | with_reducible assumption | with_reducible apply keeps_foldl
    | with_reducible apply dropColl_keeps | with_reducible apply endEntry_keeps | with_reducible apply cuCount_keeps
    | split)

theorem endColl_keeps (id : Nat) (g : CGroup) (c : Coll) (code rank : Nat) (s : State) (kept : Keeps orig s) :
    Keeps orig (endColl id g c code rank s) := by
  unfold endColl
  repeat' (first
    | with_reducible assumption | with_reducible apply failQueued_keeps | with_reducible apply dropColl_keeps
    | with_reducible apply endEntry_keeps | with_reducible apply cuCount_keeps | with_reducible apply modCgroup_keeps)

theorem rxData_keeps (die hh : Nat) (g : CGroup) (h : CHead) (body : List Byte) (s : State) (kept : Keeps orig s) :
    Keeps orig (rxData die hh g h body s) := by
  unfold rxData
  repeat' (first
    | with_reducible assumption
    | (extract_lets +onlyGivenNames x; refine keeps_cut (r := orig) (u := x) ?_ (fun _ => ?_); rotate_left; clear_value x; revert x; intro _ _; rotate_left; (simp -zeta only [x]); clear x)
    | (extract_lets +onlyGivenNames x; clear_value x; revert x; intro _) | with_reducible apply kickColl_keeps
    | with_reducible apply combineWork_keeps | with_reducible apply closeWork_keeps
    | with_reducible apply finalChunk_keeps | with_reducible apply startReads_keeps
    | with_reducible apply collFail_keeps | with_reducible apply modWork_keeps | with_reducible apply modColl_keeps
    | with_reducible apply bump_keeps | split)

theorem rxCredit_keeps (hh : Nat) (g : CGroup) (h : CHead) (s : State) (kept : Keeps orig s) :
    Keeps orig (rxCredit hh g h s) := by
  unfold rxCredit
  repeat' (first
    | with_reducible assumption | with_reducible apply kickColl_keeps | with_reducible apply modColl_keeps
    | with_reducible apply modCgroup_keeps | split)

theorem breakGroup_keeps (hh : Nat) (g : CGroup) (code rank : Nat) (s : State) (kept : Keeps orig s) :
    Keeps orig (breakGroup hh g code rank s) := by
  unfold breakGroup
  repeat' (first
    | with_reducible assumption | with_reducible apply failQueued_keeps | with_reducible apply modCgroup_keeps)

theorem rxAbort_keeps (hh : Nat) (g : CGroup) (h : CHead) (s : State) (kept : Keeps orig s) :
    Keeps orig (rxAbort hh g h s) := by
  unfold rxAbort
  repeat' (first
    | with_reducible assumption | with_reducible apply breakGroup_keeps | with_reducible apply collFail_keeps
    | with_reducible apply sendAborts_keeps | with_reducible apply modCgroup_keeps | split)

theorem collMessage_keeps (die : Nat) (bs : List Byte) (s : State) (kept : Keeps orig s) :
    Keeps orig (collMessage die bs s) := by
  unfold collMessage
  repeat' (first
    | with_reducible assumption
    | (extract_lets +onlyGivenNames x; refine keeps_cut (r := orig) (u := x) ?_ (fun _ => ?_); rotate_left; clear_value x; revert x; intro _ _; rotate_left; (simp -zeta only [x]); clear x)
    | (extract_lets +onlyGivenNames x; clear_value x; revert x; intro _) | with_reducible apply rxAbort_keeps
    | with_reducible apply rxCredit_keeps | with_reducible apply rxData_keeps | with_reducible apply collFail_keeps
    | with_reducible apply cuCount_keeps | with_reducible apply bump_keeps | split)

theorem resumeResid_keeps (id : Nat) (c : Coll) (s : State) (kept : Keeps orig s) :
    Keeps orig (resumeResid id c s) := by
  unfold resumeResid
  repeat' (first
    | with_reducible intro _ | with_reducible assumption | with_reducible apply keeps_foldl
    | with_reducible apply kickColl_keeps | with_reducible apply contribute_keeps | split)

theorem watchColls_keeps (s : State) (kept : Keeps orig s) :
    Keeps orig (watchColls s) := by
  unfold watchColls
  repeat' (first
    | with_reducible intro _ | with_reducible assumption | with_reducible apply keeps_foldl
    | with_reducible apply resumeResid_keeps | with_reducible apply collFail_keeps | split)

end Sys2Proof.Machine
end

