-- ==== Sys2Proof/Laws/Keeps/PassOps.lean ====
section
/-! SUPPORT. The operations of Machine/PassOps.lean keep what every operation keeps. -/

namespace Sys2Proof.Machine

open Sys2Proof

set_option linter.tactic.unusedName false

variable {orig res : State}

theorem modQe_keeps (f : Qe → Qe) (s : State) (kept : Keeps orig s) : Keeps orig (modQe f s) := keeps_mk kept

theorem modPass_keeps (i : Nat) (f : Pass → Pass) (s : State) (kept : Keeps orig s) :
    Keeps orig (modPass i f s) := by
  unfold modPass
  repeat' (first | with_reducible assumption | with_reducible apply modQe_keeps)

theorem nextIndex_keeps (part : Nat) (s : State) (kept : Keeps orig s) :
    KeepsOpt2 orig (nextIndex part s) := by
  unfold nextIndex
  repeat' (first
    | with_reducible intro _ | with_reducible assumption | with_reducible apply keepsOpt2_ite
    | with_reducible exact keepsOpt2_none | with_reducible apply keepsOpt2_some | with_reducible apply modQe_keeps
    | split)

theorem issuePass_keeps (part rights bind base length tally : Nat) (s : State) (kept : Keeps orig s) :
    KeepsOpt2 orig (issuePass part rights bind base length tally s) := by
  unfold issuePass
  repeat' (first
    | with_reducible assumption | with_reducible exact keepsOpt2_none | with_reducible apply keepsOpt2_some
    | with_reducible apply nextIndex_keeps | with_reducible apply modQe_keeps
    | with_reducible refine keepsOpt2_use (by assumption) ?_ | split)

theorem freePass_keeps (i : Nat) (s : State) (kept : Keeps orig s) :
    Keeps orig (freePass i s) := by
  unfold freePass
  repeat' (first
    | with_reducible assumption | with_reducible apply modPass_keeps | with_reducible apply modQe_keeps
    | with_reducible apply bump_keeps | split)

theorem abandonPass_keeps (i : Nat) (s : State) (kept : Keeps orig s) :
    Keeps orig (abandonPass i s) := by
  unfold abandonPass
  repeat' (first
    | with_reducible intro _ | with_reducible assumption | with_reducible apply keeps_foldl
    | with_reducible apply failUnit_keeps | with_reducible apply dropFault_keeps | split)

theorem beginRevoke_keeps (i : Nat) (mb : Option MbRef) (s : State) (kept : Keeps orig s) :
    Keeps orig (beginRevoke i mb s) := by
  unfold beginRevoke
  repeat' (first
    | with_reducible assumption | with_reducible apply abandonPass_keeps | with_reducible apply modPass_keeps)

theorem tryDrain_keeps (i : Nat) (s : State) (kept : Keeps orig s) :
    Keeps orig (tryDrain i s) := by
  unfold tryDrain
  repeat' (first
    | with_reducible assumption | with_reducible apply freePass_keeps | with_reducible apply finish_keeps | split)

theorem newQp_keeps (part : Nat) (s : State) (kept : Keeps orig s) :
    KeepsOpt2 orig (newQp part s) := by
  unfold newQp
  repeat' (first
    | with_reducible intro _ | with_reducible assumption | with_reducible apply keepsOpt2_ite
    | with_reducible exact keepsOpt2_none | with_reducible apply keepsOpt2_some | with_reducible apply modQe_keeps)

theorem dropQp_keeps (n : Nat) (s : State) (kept : Keeps orig s) :
    Keeps orig (dropQp n s) := by
  unfold dropQp
  repeat' (first | with_reducible assumption | with_reducible apply modQe_keeps | split)

end Sys2Proof.Machine
end

