-- ==== Sys2Proof/Laws/Keeps/StorageOps.lean ====
section
/-! SUPPORT. The operations of Machine/StorageOps.lean keep what every operation keeps. -/

namespace Sys2Proof.Machine

open Sys2Proof

set_option linter.tactic.unusedName false

variable {orig res : State}

theorem modSb_keeps (f : Sb → Sb) (s : State) (kept : Keeps orig s) : Keeps orig (modSb f s) := keeps_mk kept

theorem modConn_keeps (n : Nat) (f : Conn → Conn) (s : State) (kept : Keeps orig s) :
    Keeps orig (modConn n f s) := by
  unfold modConn
  repeat' (first | with_reducible assumption | with_reducible apply modSb_keeps)

theorem modNs_keeps (h : Nat) (f : Ns → Ns) (s : State) (kept : Keeps orig s) :
    Keeps orig (modNs h f s) := by
  unfold modNs
  repeat' (first | with_reducible assumption | with_reducible apply modSb_keeps)

theorem modTask_keeps (k : Nat) (f : Task → Task) (s : State) (kept : Keeps orig s) :
    Keeps orig (modTask k f s) := by
  unfold modTask
  repeat' (first | with_reducible assumption | with_reducible apply modSb_keeps)

theorem modSlotRegs_keeps (k : Nat) (f : SlotRegs → SlotRegs) (s : State) (kept : Keeps orig s) :
    Keeps orig (modSlotRegs k f s) := by
  unfold modSlotRegs
  repeat' (first | with_reducible assumption | with_reducible apply modSb_keeps)

theorem modSbFunc_keeps (f : Nat) (g : SbFunc → SbFunc) (s : State) (kept : Keeps orig s) :
    Keeps orig (modSbFunc f g s) := by
  unfold modSbFunc
  repeat' (first | with_reducible assumption | with_reducible apply modSb_keeps)

theorem sbCount_keeps (k c n : Nat) (s : State) (kept : Keeps orig s) :
    Keeps orig (sbCount k c n s) := by
  unfold sbCount
  repeat' (first
    | with_reducible intro _ | with_reducible assumption | with_reducible apply keeps_ite
    | with_reducible apply bump_keeps)

theorem logError_keeps (func : Nat) (e : ErrEnt) (freeze : Bool) (s : State) (kept : Keeps orig s) :
    Keeps orig (logError func e freeze s) := by
  unfold logError
  repeat' (first | with_reducible assumption | with_reducible apply modSbFunc_keeps)

theorem sbspSend_keeps (bs : List Byte) (s : State) (kept : Keeps orig s) :
    Keeps orig (sbspSend bs s) := by
  unfold sbspSend
  repeat' (first | with_reducible assumption | with_reducible apply modSb_keeps | with_reducible apply emit_keeps)

theorem completeTask_keeps (k code nvstat bytes : Nat) (freeze : Bool) (s : State) (kept : Keeps orig s) :
    Keeps orig (completeTask k code nvstat bytes freeze s) := by
  unfold completeTask
  repeat' (first
    | with_reducible intro _ | with_reducible assumption | with_reducible apply keeps_ite
    | with_reducible apply sbspSend_keeps | with_reducible apply logError_keeps | with_reducible apply sbCount_keeps
    | with_reducible apply modSlotRegs_keeps | with_reducible apply modSb_keeps | with_reducible apply tallyAdd_keeps
    | with_reducible apply msix_keeps | split)

theorem closeTask_keeps (k code nvstat : Nat) (s : State) (kept : Keeps orig s) :
    Keeps orig (closeTask k code nvstat s) := by
  unfold closeTask
  repeat' (first
    | with_reducible intro _ | with_reducible assumption | with_reducible apply keeps_foldl
    | with_reducible apply modTask_keeps | with_reducible apply beginRevoke_keeps
    | with_reducible apply endXfer_keeps | split)

theorem settleTask_keeps (k : Nat) (x : Task) (s : State) (kept : Keeps orig s) :
    Keeps orig (settleTask k x s) := by
  unfold settleTask
  repeat' (first
    | with_reducible intro _ | with_reducible assumption | with_reducible apply keeps_ite
    | with_reducible apply completeTask_keeps | with_reducible apply tryDrain_keeps | split)

theorem closeTasks_keeps (s : State) (kept : Keeps orig s) :
    Keeps orig (closeTasks s) := by
  unfold closeTasks
  repeat' (first
    | with_reducible intro _ | with_reducible assumption | with_reducible apply keeps_foldl
    | with_reducible apply settleTask_keeps)

theorem sendTarget_keeps (conn cls : Nat) (owner : CidOwner) (blocks : Nat) (bytes : Nat → List Byte) (s : State) (kept : Keeps orig s) :
    Keeps orig (sendTarget conn cls owner blocks bytes s) := by
  unfold sendTarget
  repeat' (first
    | with_reducible assumption | with_reducible apply modConn_keeps | with_reducible apply qpMessage_keeps | split)

theorem pumpTask_keeps (k : Nat) : ∀ (x0 : Nat) (x1 : State), Keeps orig x1 →
    Keeps orig (pumpTask k x0 x1)
  | 0, s, kept => by
    unfold pumpTask
    repeat' (first
      | with_reducible intro _ | with_reducible assumption | with_reducible apply keeps_ite
      | with_reducible apply sendTarget_keeps | with_reducible apply closeTask_keeps
      | with_reducible apply modTask_keeps | with_reducible apply modSb_keeps | with_reducible apply pumpTask_keeps
      | split)
  | fuel + 1, s, kept => by
    unfold pumpTask
    repeat' (first
      | with_reducible intro _ | with_reducible assumption | with_reducible apply keeps_ite
      | with_reducible apply sendTarget_keeps | with_reducible apply closeTask_keeps
      | with_reducible apply modTask_keeps | with_reducible apply modSb_keeps | with_reducible apply pumpTask_keeps
      | split)

theorem dropLines_keeps (c : TaskCmd) (s : State) (kept : Keeps orig s) :
    Keeps orig (dropLines c s) := by
  unfold dropLines
  repeat' (first
    | with_reducible assumption | with_reducible apply modNs_keeps | with_reducible apply modSb_keeps | split)

theorem putLine_keeps (h line part : Nat) (data : List Byte) (s : State) (kept : Keeps orig s) :
    Keeps orig (putLine h line part data s) := by
  unfold putLine
  repeat' (first
    | with_reducible assumption | (extract_lets +onlyGivenNames x; clear_value x; revert x; intro _)
    | with_reducible apply modNs_keeps | with_reducible apply writeSpan_keeps
    | with_reducible refine keepsAcc_use_ok (by assumption) ?_
    | with_reducible refine keepsAcc_use_stop (by assumption) ?_ | split)

theorem cachedBytes_keeps (part base : Nat) (ns : Ns) (c : TaskCmd) (s : State) (kept : Keeps orig s) :
    Keeps orig (cachedBytes part base ns c s).2 := by
  unfold cachedBytes
  repeat' (first
    | with_reducible intro _ | with_reducible assumption | with_reducible apply keeps_foldl_snd
    | with_reducible apply readSpan_keeps | with_reducible refine keepsAcc_use_ok (by assumption) ?_
    | with_reducible refine keepsAcc_use_stop (by assumption) ?_ | split)

theorem serveCached_keeps (k : Nat) (t : Task) (ns : Ns) (base : Nat) (s : State) (kept : Keeps orig s) :
    Keeps orig (serveCached k t ns base s) := by
  unfold serveCached
  repeat' (first
    | with_reducible assumption
    | (extract_lets +onlyGivenNames x; refine keeps_cut (r := orig) (u := x.2) ?_ (fun _ => ?_); rotate_left; clear_value x; revert x; intro _ _; rotate_left; (simp -zeta only [x]); clear x)
    | (extract_lets +onlyGivenNames x; clear_value x; revert x; intro _) | with_reducible apply cachedBytes_keeps
    | with_reducible apply pumpTask_keeps | with_reducible apply modTask_keeps | with_reducible apply modNs_keeps
    | with_reducible apply startXfer_keeps | with_reducible refine keepsSnd_use (by assumption) ?_ | split)

theorem pumpFill_keeps (k : Nat) : ∀ (x0 : Nat) (x1 : State), Keeps orig x1 →
    Keeps orig (pumpFill k x0 x1)
  | 0, s, kept => by
    unfold pumpFill
    repeat' (first
      | with_reducible assumption | with_reducible apply sendTarget_keeps | with_reducible apply closeTask_keeps
      | with_reducible apply modTask_keeps | with_reducible apply pumpFill_keeps | split)
  | fuel + 1, s, kept => by
    unfold pumpFill
    repeat' (first
      | with_reducible assumption | with_reducible apply sendTarget_keeps | with_reducible apply closeTask_keeps
      | with_reducible apply modTask_keeps | with_reducible apply pumpFill_keeps | split)

theorem dispatchTask_keeps (k : Nat) (s : State) (kept : Keeps orig s) :
    Keeps orig (dispatchTask k s) := by
  unfold dispatchTask
  repeat' (first
    | with_reducible intro _ | with_reducible assumption | with_reducible apply keeps_ite
    | with_reducible apply pumpFill_keeps | with_reducible apply serveCached_keeps
    | with_reducible apply pumpTask_keeps | with_reducible apply closeTask_keeps | with_reducible apply sbCount_keeps
    | with_reducible apply modTask_keeps | split)

theorem startTask_keeps (k : Nat) (s : State) (kept : Keeps orig s) :
    Keeps orig (startTask k s) := by
  unfold startTask
  repeat' (first
    | with_reducible assumption
    | (extract_lets +onlyGivenNames x; refine keeps_cut (r := orig) (u := x) ?_ (fun _ => ?_); rotate_left; clear_value x; revert x; intro _ _; rotate_left; (simp -zeta only [x]); clear x)
    | (extract_lets +onlyGivenNames x; refine keeps_cut (r := orig) (u := x.2) ?_ (fun _ => ?_); rotate_left; clear_value x; revert x; intro _ _; rotate_left; (simp -zeta only [x]); clear x)
    | (extract_lets +onlyGivenNames x; clear_value x; revert x; intro _) | with_reducible apply dropLines_keeps
    | with_reducible apply pumpTask_keeps | with_reducible apply completeTask_keeps
    | with_reducible apply modSlotRegs_keeps | with_reducible apply modTask_keeps
    | with_reducible apply issuePass_keeps | with_reducible apply startXfer_keeps
    | with_reducible refine keepsOpt2_use (by assumption) ?_ | split)

theorem taskXferDone_keeps (k b code : Nat) (s : State) (kept : Keeps orig s) :
    Keeps orig (taskXferDone k b code s) := by
  unfold taskXferDone
  repeat' (first
    | with_reducible assumption | with_reducible apply dispatchTask_keeps | with_reducible apply closeTask_keeps
    | with_reducible apply modTask_keeps | split)

theorem kickConn_keeps (conn : Nat) (s : State) (kept : Keeps orig s) :
    Keeps orig (kickConn conn s) := by
  unfold kickConn
  repeat' (first
    | with_reducible intro _ | with_reducible assumption | with_reducible apply keeps_foldl
    | with_reducible apply pumpFill_keeps | with_reducible apply pumpTask_keeps | split)

theorem taskResponse_keeps (k status blocks bs : Nat) (data : List Byte) (s : State) (kept : Keeps orig s) :
    Keeps orig (taskResponse k status blocks bs data s) := by
  unfold taskResponse
  repeat' (first
    | with_reducible intro _ | with_reducible assumption | with_reducible apply keeps_ite
    | with_reducible apply pumpTask_keeps | with_reducible apply modTask_keeps)

theorem fillResponse_keeps (k line status : Nat) (data : List Byte) (s : State) (kept : Keeps orig s) :
    Keeps orig (fillResponse k line status data s) := by
  unfold fillResponse
  repeat' (first
    | with_reducible assumption
    | (extract_lets +onlyGivenNames x; refine keeps_cut (r := orig) (u := x) ?_ (fun _ => ?_); rotate_left; clear_value x; revert x; intro _ _; rotate_left; (simp -zeta only [x]); clear x)
    | with_reducible apply serveCached_keeps | with_reducible apply putLine_keeps
    | with_reducible apply closeTask_keeps | with_reducible apply sbCount_keeps | with_reducible apply modTask_keeps
    | split)

theorem loseConn_keeps (n : Nat) (s : State) (kept : Keeps orig s) :
    Keeps orig (loseConn n s) := by
  unfold loseConn
  repeat' (first
    | with_reducible intro _ | with_reducible assumption | with_reducible apply keeps_foldl
    | with_reducible apply closeTask_keeps | with_reducible apply modConn_keeps | with_reducible apply toError_keeps
    | split)

theorem watchConns_keeps (s : State) (kept : Keeps orig s) :
    Keeps orig (watchConns s) := by
  unfold watchConns
  repeat' (first
    | with_reducible intro _ | with_reducible assumption | with_reducible apply keeps_ite
    | with_reducible apply keeps_foldl | with_reducible apply loseConn_keeps)

theorem sbspNakFor_keeps (bs : List Byte) (s : State) (kept : Keeps orig s) :
    Keeps orig (sbspNakFor bs s) := by
  unfold sbspNakFor
  repeat' (first
    | with_reducible intro _ | with_reducible assumption | with_reducible apply keeps_ite
    | with_reducible apply emit_keeps)

theorem grantSerial_keeps (s : State) (kept : Keeps orig s) :
    Keeps orig (grantSerial s) := by
  unfold grantSerial
  repeat' (first
    | with_reducible assumption | with_reducible apply sbspSend_keeps | with_reducible apply modSb_keeps | split)

theorem serialData_keeps (tag : Nat) : ∀ (x0 : Nat) (x1 : List Byte) (x2 : State), Keeps orig x2 →
    Keeps orig (serialData tag x0 x1 x2)
  | 0, _, s, kept => by
    unfold serialData
    repeat' (first
      | with_reducible intro _ | with_reducible assumption | with_reducible apply keeps_ite
      | with_reducible apply sbspSend_keeps | with_reducible apply serialData_keeps)
  | fuel + 1, bs, s, kept => by
    unfold serialData
    repeat' (first
      | with_reducible intro _ | with_reducible assumption | with_reducible apply keeps_ite
      | with_reducible apply sbspSend_keeps | with_reducible apply serialData_keeps)

theorem answerXferRdy_keeps (s : State) (kept : Keeps orig s) :
    Keeps orig (answerXferRdy s) := by
  unfold answerXferRdy
  repeat' (first
    | with_reducible intro _ | with_reducible assumption | with_reducible apply keeps_ite
    | with_reducible apply serialData_keeps | with_reducible apply closeTask_keeps | with_reducible apply modSb_keeps
    | split)

theorem endSerial_keeps (code : Nat) (s : State) (kept : Keeps orig s) :
    Keeps orig (endSerial code s) := by
  unfold endSerial
  repeat' (first
    | with_reducible assumption | with_reducible apply closeTasks_keeps | with_reducible apply closeTask_keeps)

end Sys2Proof.Machine
end

