-- ==== Sys2Proof/Laws/Keeps/SliceOps.lean ====
section
/-! SUPPORT. The operations of Machine/SliceOps.lean keep what every operation keeps. -/

namespace Sys2Proof.Machine

open Sys2Proof

set_option linter.tactic.unusedName false

variable {orig res : State}

theorem abandonDma_keeps (part : Nat) (s : State) (kept : Keeps orig s) :
    Keeps orig (abandonDma part s) := by
  unfold abandonDma
  repeat' (first
    | (simp -zeta only [keeps_mk_iff]) | with_reducible intro _ | with_reducible assumption
    | with_reducible apply keeps_foldl | with_reducible apply dropFault_keeps)

theorem checkRanges_keeps (write : Bool) (a : Nat) (l : List (Nat × Nat)) (s : State) (kept : Keeps orig s) :
    Keeps orig (checkRanges write a l s) := by
  unfold checkRanges
  repeat' (first
    | with_reducible intro _ | with_reducible assumption | with_reducible apply keeps_foldl
    | with_reducible apply checkSpan_keeps)

theorem wf_copyRanges (src dst : Nat) (l : List (Nat × Nat)) {m : List Host.Cell} (h : Memory.wf m = true) :
    Memory.wf (copyRanges m src dst l) = true := by
  unfold copyRanges
  induction l generalizing m with
  | nil => exact h
  | cons r l ih => exact ih (Memory.wf_copyRange _ _ _ h)

theorem wf_fillArea (st : SlotSt) (rel t a : Nat) (x : Tile) {m : List Host.Cell} (h : Memory.wf m = true) :
    Memory.wf (fillArea st rel t a x m) = true :=
  Memory.wf_mwrN _ _ (wf_copyRanges _ _ _ (wf_copyRanges _ _ _ h))

theorem saveTile_keeps (part slot rel t : Nat) (s : State) (kept : Keeps orig s) : Keeps orig (saveTile part slot rel t s) := by
  unfold saveTile
  extract_lets x s1
  have h1 : Keeps orig s1 := by
    simp only [s1]
    split
    · exact checkSpan_keeps _ _ _ _ (checkRanges_keeps _ _ _ _ (checkRanges_keeps _ _ _ _
        (keeps_mem kept (fun w => wf_fillArea _ _ _ _ _ w))))
    · exact kept
  clear_value s1
  split
  · exact modTile_keeps _ _ _ (setGroup_keeps _ _ _ h1)
  · exact h1

theorem saveGroup_keeps (part : Nat) (g : Group) (s : State) (kept : Keeps orig s) :
    Keeps orig (saveGroup part g s) := by
  unfold saveGroup
  repeat' (first
    | with_reducible intro _ | with_reducible assumption
    | (extract_lets +onlyGivenNames x; refine keeps_cut (r := orig) (u := x) ?_ (fun _ => ?_); rotate_left; clear_value x; revert x; intro _ _; rotate_left; (simp -zeta only [x]); clear x)
    | with_reducible apply keeps_foldl | with_reducible apply saveTile_keeps | with_reducible apply setGroup_keeps
    | with_reducible apply wakeFor_keeps | split)

theorem placeWaiting_keeps (part : Nat) (s : State) (kept : Keeps orig s) :
    Keeps orig (placeWaiting part s) := by
  unfold placeWaiting
  repeat' (first
    | with_reducible intro _ | with_reducible assumption | with_reducible apply keeps_foldl
    | with_reducible apply setGroup_keeps | split)

theorem drainGroup_keeps (part : Nat) (s : State) (kept : Keeps orig s) :
    Keeps orig (drainGroup part s) := by
  unfold drainGroup
  repeat' (first
    | with_reducible assumption | with_reducible apply abandonDma_keeps | with_reducible apply kickStreams_keeps)

theorem trySave_keeps (part : Nat) (s : State) (kept : Keeps orig s) :
    Keeps orig (trySave part s) := by
  unfold trySave
  repeat' (first
    | with_reducible intro _ | with_reducible assumption | with_reducible apply keeps_ite
    | with_reducible apply drainGroup_keeps | with_reducible apply placeWaiting_keeps
    | with_reducible apply saveGroup_keeps | split)

theorem freeBytes_keeps  : ∀ (x0 : Nat) (x1 : State), Keeps orig x1 →
    Keeps orig (freeBytes x0 x1).2
  | 0, s, kept => by
    unfold freeBytes
    repeat' (first
      | with_reducible assumption | with_reducible apply draw_keeps | with_reducible apply freeBytes_keeps)
  | n + 1, s, kept => by
    unfold freeBytes
    repeat' (first
      | with_reducible assumption | with_reducible apply draw_keeps | with_reducible apply freeBytes_keeps)

theorem regionAgain_keeps (part : Nat) (r : Region) (s : State) (kept : Keeps orig s) :
    Keeps orig (regionAgain part r s).2.2 := by
  unfold regionAgain
  repeat' (first
    | (simp -zeta only [keeps_mk_iff]) | with_reducible intro _ | with_reducible assumption
    | with_reducible apply keeps_ite_snd | with_reducible apply freeBytes_keeps | with_reducible apply seedGen_keeps
    | with_reducible apply fwRead_keeps | with_reducible refine keepsSnd_use (by assumption) ?_ | split)

theorem restoreRegion_keeps (part t : Nat) (r : Region) (s : State) (kept : Keeps orig s) :
    Keeps orig (restoreRegion part t r s) := by
  unfold restoreRegion
  repeat' (first
    | with_reducible assumption | with_reducible apply regionAgain_keeps | with_reducible apply writeRegion_keeps)

theorem rewriteLine_keeps (s : State) (key : Nat) (kept : Keeps orig s) :
    Keeps orig (rewriteLine s key) := by
  unfold rewriteLine
  repeat' (first
    | (simp -zeta only [keeps_mk_iff]) | with_reducible assumption
    | (extract_lets +onlyGivenNames x; refine keeps_cut (r := orig) (u := x) ?_ (fun _ => ?_); rotate_left; clear_value x; revert x; intro _ _; rotate_left; (simp -zeta only [x]); clear x)
    | (extract_lets +onlyGivenNames x; refine keeps_cut (r := orig) (u := x.2.2) ?_ (fun _ => ?_); rotate_left; clear_value x; revert x; intro _ _; rotate_left; (simp -zeta only [x]); clear x)
    | (extract_lets +onlyGivenNames x; clear_value x; revert x; intro _) | with_reducible apply regionAgain_keeps
    | with_reducible apply wrMem_keeps | split)

theorem rewriteLines_keeps (s : State) (kept : Keeps orig s) :
    Keeps orig (rewriteLines s) := by
  unfold rewriteLines
  repeat' (first
    | with_reducible assumption | with_reducible apply keeps_foldl | with_reducible apply rewriteLine_keeps)

theorem spoilPages_keeps  : ∀ (x0 : Nat) (x1 : Nat) (x2 : State), Keeps orig x2 →
    Keeps orig (spoilPages x0 x1 x2).2
  | 0, _, s, kept => by
    unfold spoilPages
    repeat' (first
      | with_reducible intro _ | with_reducible assumption | with_reducible apply keeps_ite_snd
      | with_reducible apply freeBytes_keeps | with_reducible apply wrMem_keeps
      | with_reducible apply spoilPages_keeps)
  | n + 1, a, s, kept => by
    unfold spoilPages
    repeat' (first
      | with_reducible intro _ | with_reducible assumption | with_reducible apply keeps_ite_snd
      | with_reducible apply freeBytes_keeps | with_reducible apply wrMem_keeps
      | with_reducible apply spoilPages_keeps)

theorem wf_moveBufs (t : Nat) (x : Tile) {m : List Host.Cell} (h : Memory.wf m = true) :
    Memory.wf (moveBufs t x m).2 = true := by
  have : ∀ (l : List (Nat × NetBuf)) (m : List Host.Cell), Memory.wf m = true →
      Memory.wf (l.foldl (fun m b => if b.2.slab = t / 32 then m
        else copyRange m (mkey (spSlab b.2.slab) (b.1 - windowLo)) (mkey (spSlab (t / 32)) (b.1 - windowLo)) (round64 b.2.len)) m) = true := by
    intro l
    induction l with
    | nil => exact fun _ e => e
    | cons b l ih =>
      intro m e
      refine ih _ ?_
      dsimp only
      split
      · exact e
      · exact Memory.wf_copyRange _ _ _ e
  exact this x.bufs m h

theorem restoreTile_keeps (part slot rel t : Nat) (s : State) (kept : Keeps orig s) :
    Keeps orig (restoreTile part slot rel t s).2 := by
  have hw : ∀ {u : State}, Keeps orig u →
      Keeps orig ({ u with mem := clearRange (clearRange u.mem (mkey (spTile t) 0) tileSram) (mkey (spImem t) 0) tileImem }) :=
    fun h => keeps_mem h (fun w => Memory.wf_clearRange _ _ (Memory.wf_clearRange _ _ w))
  unfold restoreTile
  extract_lets wiped kp
  split
  · next a st _ _ =>
    extract_lets b sp s1 m1 m2 x
    have hsp : Keeps orig sp.2 := spoilPages_keeps _ _ _ (checkSpan_keeps _ _ _ _ (checkRanges_keeps _ _ _ _ (checkRanges_keeps _ _ _ _ kept)))
    have h1 : Keeps orig s1 := hw hsp
    exact keeps_foldl (fun _ _ h => restoreRegion_keeps _ _ _ _ h) _
      (modTile_keeps _ _ _ (keeps_mem h1 (fun w => wf_moveBufs _ _ (wf_copyRanges _ _ _ (wf_copyRanges _ _ _ w)))))
  · show Keeps orig (modTile t (fun _ => kp) (wiped s))
    exact modTile_keeps _ _ _ (hw kept)

theorem endLost_keeps (part slot : Nat) (s : State) (kept : Keeps orig s) :
    Keeps orig (endLost part slot s) := by
  unfold endLost
  repeat' (first
    | with_reducible intro _ | with_reducible assumption | with_reducible apply keeps_foldl
    | with_reducible apply endJob_keeps)

theorem restoreOne_keeps (part slot rel t : Nat) (s : State) (kept : Keeps orig s) :
    Keeps orig (restoreOne part slot rel t s) := by
  unfold restoreOne
  have h := restoreTile_keeps part slot rel t s kept
  exact keeps_ite (fun _ => endLost_keeps _ _ _ h) (fun _ => h)

theorem restoreSlots_keeps (part : Nat) (g : Group) (s : State) (kept : Keeps orig s) :
    Keeps orig (restoreSlots part g s) := by
  unfold restoreSlots
  repeat' (first
    | with_reducible intro _ | with_reducible assumption | with_reducible apply keeps_ite
    | with_reducible apply keeps_foldl | with_reducible apply applyReload_keeps
    | with_reducible apply startLoads_keeps | with_reducible apply modSlot_keeps)

theorem takeAreas_keeps (part : Nat) : ∀ (x0 : List Nat) (x1 : State), Keeps orig x1 →
    KeepsOpt orig (takeAreas part x0 x1)
  | [], s, kept => by
    unfold takeAreas
    repeat' (first
      | with_reducible assumption | with_reducible exact keepsOpt_none | with_reducible apply keepsOpt_some
      | with_reducible apply reserve_keeps | with_reducible apply takeAreas_keeps
      | with_reducible refine keepsOpt2_use (by assumption) ?_ | with_reducible apply Memory.wf_clearRange
      | with_reducible refine keeps_mem ?_ (fun _ => ?_) | split)
  | i :: r, s, kept => by
    unfold takeAreas
    repeat' (first
      | with_reducible assumption | with_reducible exact keepsOpt_none | with_reducible apply keepsOpt_some
      | with_reducible apply reserve_keeps | with_reducible apply takeAreas_keeps
      | with_reducible refine keepsOpt2_use (by assumption) ?_ | with_reducible apply Memory.wf_clearRange
      | with_reducible refine keeps_mem ?_ (fun _ => ?_) | split)

theorem takeAllAreas_keeps  : ∀ (x0 : List (Nat × Group)) (x1 : State), Keeps orig x1 →
    KeepsOpt orig (takeAllAreas x0 x1)
  | [], s, kept => by
    unfold takeAllAreas
    repeat' (first
      | with_reducible assumption | with_reducible exact keepsOpt_none | with_reducible apply keepsOpt_some
      | with_reducible apply takeAreas_keeps | with_reducible apply takeAllAreas_keeps
      | with_reducible refine keepsOpt_use (by assumption) ?_ | split)
  | e :: r, s, kept => by
    unfold takeAllAreas
    repeat' (first
      | with_reducible assumption | with_reducible exact keepsOpt_none | with_reducible apply keepsOpt_some
      | with_reducible apply takeAreas_keeps | with_reducible apply takeAllAreas_keeps
      | with_reducible refine keepsOpt_use (by assumption) ?_ | split)

theorem releaseAreas_keeps (s : State) (kept : Keeps orig s) :
    Keeps orig (releaseAreas s) := by
  unfold releaseAreas
  repeat' (first
    | with_reducible intro _ | with_reducible assumption | with_reducible apply keeps_ite
    | with_reducible apply unreserve_keeps)

theorem restoreGroup_keeps (part : Nat) (g : Group) (s : State) (kept : Keeps orig s) :
    Keeps orig (restoreGroup part g s) := by
  unfold restoreGroup
  repeat' (first
    | with_reducible intro _ | with_reducible assumption | with_reducible apply keeps_foldl
    | with_reducible apply restoreSlots_keeps | with_reducible apply restoreOne_keeps
    | with_reducible apply resumeJbnd_keeps | with_reducible apply kickStreams_keeps
    | with_reducible apply kickJobs_keeps | with_reducible apply resumeHeld_keeps
    | with_reducible apply setGroup_keeps | with_reducible apply wakeFor_keeps | split)

theorem quantumEnd_keeps (part : Nat) (s : State) (kept : Keeps orig s) :
    Keeps orig (quantumEnd part s) := by
  unfold quantumEnd
  repeat' (first
    | with_reducible assumption | with_reducible apply trySave_keeps | with_reducible apply setGroup_keeps | split)

end Sys2Proof.Machine
end

