-- ==== Sys2Proof/Laws/Keeps/TileExec.lean ====
section
/-! SUPPORT. The operations of Machine/TileExec.lean keep what every operation keeps. -/

namespace Sys2Proof.Machine

open Sys2Proof

set_option linter.tactic.unusedName false

variable {orig res : State}

theorem tileFault_keeps (t cause : Nat) (s : State) (kept : Keeps orig s) :
    Keeps orig (tileFault t cause s) := by
  unfold tileFault
  repeat' (first
    | with_reducible assumption | with_reducible apply endJob_keeps | with_reducible apply tileCount_keeps
    | with_reducible apply modTile_keeps | split)

theorem touchReads_keeps (t part : Nat) (ecc : List EccHit) : ∀ (x0 : List (Nat × Nat)) (x1 : State), Keeps orig x1 →
    Keeps orig (touchReads t part ecc x0 x1).2
  | [], s, kept => by
    unfold touchReads
    repeat' (first
      | with_reducible assumption | with_reducible apply readSpan_keeps | with_reducible apply touchReads_keeps
      | with_reducible refine keepsAcc_use_ok (by assumption) ?_
      | with_reducible refine keepsAcc_use_stop (by assumption) ?_ | split)
  | (a, n) :: r, s, kept => by
    unfold touchReads
    repeat' (first
      | with_reducible assumption | with_reducible apply readSpan_keeps | with_reducible apply touchReads_keeps
      | with_reducible refine keepsAcc_use_ok (by assumption) ?_
      | with_reducible refine keepsAcc_use_stop (by assumption) ?_ | split)

theorem putStores_keeps (t part : Nat) : ∀ (x0 : List (Nat × List Byte)) (x1 : State), Keeps orig x1 →
    Keeps orig (putStores t part x0 x1).2
  | [], s, kept => by
    unfold putStores
    repeat' (first
      | with_reducible assumption | with_reducible apply writeSpan_keeps | with_reducible apply putStores_keeps
      | with_reducible refine keepsAcc_use_ok (by assumption) ?_
      | with_reducible refine keepsAcc_use_stop (by assumption) ?_ | split)
  | (a, bs) :: r, s, kept => by
    unfold putStores
    repeat' (first
      | with_reducible assumption | with_reducible apply writeSpan_keeps | with_reducible apply putStores_keeps
      | with_reducible refine keepsAcc_use_ok (by assumption) ?_
      | with_reducible refine keepsAcc_use_stop (by assumption) ?_ | split)

theorem issueDma_keeps (t : Nat) (d : TileDma) (s : State) (kept : Keeps orig s) :
    Keeps orig (issueDma t d s) := by
  unfold issueDma
  repeat' (first
    | with_reducible assumption | with_reducible apply startDma_keeps | with_reducible apply modTile_keeps)

theorem afterControl_keeps (t : Nat) (c : Option Nat) (s : State) (kept : Keeps orig s) :
    Keeps orig (afterControl t c s) := by
  unfold afterControl
  repeat' (first
    | with_reducible assumption
    | (extract_lets +onlyGivenNames x; refine keeps_cut (r := orig) (u := x) ?_ (fun _ => ?_); rotate_left; clear_value x; revert x; intro _ _; rotate_left; (simp -zeta only [x]); clear x)
    | with_reducible apply reachHalt_keeps | with_reducible apply reachJbnd_keeps
    | with_reducible apply modTile_keeps | split)

theorem commitBundle_keeps (t part : Nat) (ecc : List EccHit) (b : List Nat) (p : Plan) (f : Flow) (s : State) (kept : Keeps orig s) :
    Keeps orig (commitBundle t part ecc b p f s) := by
  unfold commitBundle
  repeat' (first
    | with_reducible intro _ | with_reducible assumption | with_reducible apply keeps_foldl
    | with_reducible apply afterControl_keeps | with_reducible apply issueDma_keeps
    | with_reducible apply putStores_keeps | with_reducible apply touchReads_keeps
    | with_reducible apply kickStreams_keeps | with_reducible apply failTile_keeps
    | with_reducible apply popFifo_keeps | with_reducible apply pushFifo_keeps | with_reducible apply tileCount_keeps
    | with_reducible apply seedGen_keeps | with_reducible apply tallyAdd_keeps | with_reducible apply modTile_keeps
    | with_reducible refine keepsSnd_use (by assumption) ?_ | split)

theorem runBundle_keeps (t part slot : Nat) (ecc : List EccHit) (s : State) (kept : Keeps orig s) :
    Keeps orig (runBundle t part slot ecc s) := by
  unfold runBundle
  repeat' (first
    | with_reducible assumption | (extract_lets +onlyGivenNames x; clear_value x; revert x; intro _)
    | with_reducible apply commitBundle_keeps | with_reducible apply tileFault_keeps
    | with_reducible apply failTile_keeps | with_reducible apply readSpan_keeps | with_reducible apply modTile_keeps
    | with_reducible refine keepsAcc_use_ok (by assumption) ?_
    | with_reducible refine keepsAcc_use_stop (by assumption) ?_ | split)

theorem tileBundle_keeps (again : Bool) (t : Nat) (ecc : List EccHit) (s : State) (kept : Keeps orig s) :
    Keeps orig (tileBundle again t ecc s) := by
  unfold tileBundle
  repeat' (first | with_reducible assumption | with_reducible apply runBundle_keeps | split)

end Sys2Proof.Machine
end

