-- ==== Sys2Proof/Laws/Keeps/CkptOps.lean ====
section
/-! SUPPORT. The operations of Machine/CkptOps.lean keep what every operation keeps. -/

namespace Sys2Proof.Machine

open Sys2Proof

set_option linter.tactic.unusedName false

variable {orig res : State}

theorem modCk_keeps (f : Ck → Ck) (s : State) (kept : Keeps orig s) : Keeps orig (modCk f s) := keeps_mk kept

theorem modSetup_keeps (i : Nat) (f : Setup → Setup) (s : State) (kept : Keeps orig s) :
    Keeps orig (modSetup i f s) := by
  unfold modSetup
  repeat' (first | with_reducible assumption | with_reducible apply modCk_keeps)

theorem modJob_keeps (j : Nat) (f : CkJob → CkJob) (s : State) (kept : Keeps orig s) :
    Keeps orig (modJob j f s) := by
  unfold modJob
  repeat' (first | with_reducible assumption | with_reducible apply modCk_keeps)

theorem modHalf_keeps (i h : Nat) (f : Half → Half) (s : State) (kept : Keeps orig s) :
    Keeps orig (modHalf i h f s) := by
  unfold modHalf
  repeat' (first | with_reducible assumption | with_reducible apply modSetup_keeps)

theorem ckCount_keeps (c n : Nat) (s : State) (kept : Keeps orig s) :
    Keeps orig (ckCount c n s) := by
  unfold ckCount
  repeat' (first | with_reducible assumption | with_reducible apply bump_keeps)

theorem vaRead_keeps (part va n : Nat) (s : State) (kept : Keeps orig s) :
    Keeps orig (vaRead part va n s).2 := by
  unfold vaRead
  repeat' (first | with_reducible assumption | with_reducible apply fwRead_keeps)

theorem vaWriteN_keeps (part : Nat) : ∀ (x0 : Nat) (x1 : Nat) (x2 : List Byte) (x3 : State), Keeps orig x3 →
    Keeps orig (vaWriteN part x0 x1 x2 x3).2
  | 0, _, _, s, kept => by
    unfold vaWriteN
    repeat' (first
      | with_reducible assumption | (extract_lets +onlyGivenNames x; clear_value x; revert x; intro _)
      | with_reducible apply ringWrite_keeps | with_reducible apply vaWriteN_keeps
      | with_reducible refine keepsRing_use_ok (by assumption) ?_
      | with_reducible refine keepsRing_use_fail (by assumption) ?_
      | with_reducible refine keepsRing_use_wait (by assumption) ?_ | split)
  | fuel + 1, va, bs, s, kept => by
    unfold vaWriteN
    repeat' (first
      | with_reducible assumption | (extract_lets +onlyGivenNames x; clear_value x; revert x; intro _)
      | with_reducible apply ringWrite_keeps | with_reducible apply vaWriteN_keeps
      | with_reducible refine keepsRing_use_ok (by assumption) ?_
      | with_reducible refine keepsRing_use_fail (by assumption) ?_
      | with_reducible refine keepsRing_use_wait (by assumption) ?_ | split)

theorem vaWrite_keeps (part va : Nat) (bs : List Byte) (s : State) (kept : Keeps orig s) :
    Keeps orig (vaWrite part va bs s).2 := by
  unfold vaWrite
  repeat' (first | with_reducible assumption | with_reducible apply vaWriteN_keeps)

theorem halfRead_keeps (st : Setup) (h o n : Nat) (s : State) (kept : Keeps orig s) :
    Keeps orig (halfRead st h o n s).2 := by
  unfold halfRead
  repeat' (first
    | with_reducible assumption | with_reducible apply vaRead_keeps | with_reducible apply freeBytes_keeps
    | with_reducible refine keepsSnd_use (by assumption) ?_ | split)

theorem halfWrite_keeps (st : Setup) (h o : Nat) (bs : List Byte) (s : State) (kept : Keeps orig s) :
    Keeps orig (halfWrite st h o bs s) := by
  unfold halfWrite
  repeat' (first | with_reducible assumption | with_reducible apply vaWrite_keeps)

theorem ckSend_keeps (dst kind runId step offset : Nat) (data : List Byte) (s : State) (kept : Keeps orig s) :
    Keeps orig (ckSend dst kind runId step offset data s) := by
  unfold ckSend
  repeat' (first
    | (simp -zeta only [keeps_mk_iff]) | with_reducible intro _ | with_reducible assumption
    | with_reducible apply keeps_ite | (extract_lets +onlyGivenNames x; clear_value x; revert x; intro _)
    | with_reducible apply sendFwd_keeps)

theorem ckStream_keeps (dst kind runId step : Nat) : ∀ (x0 : Nat) (x1 : Nat) (x2 : List Byte) (x3 : State), Keeps orig x3 →
    Keeps orig (ckStream dst kind runId step x0 x1 x2 x3)
  | 0, _, _, s, kept => by
    unfold ckStream
    repeat' (first
      | with_reducible intro _ | with_reducible assumption | with_reducible apply keeps_ite
      | with_reducible apply ckSend_keeps | with_reducible apply ckStream_keeps)
  | fuel + 1, o, bs, s, kept => by
    unfold ckStream
    repeat' (first
      | with_reducible intro _ | with_reducible assumption | with_reducible apply keeps_ite
      | with_reducible apply ckSend_keeps | with_reducible apply ckStream_keeps)

theorem ckComplete_keeps (j : Nat) (x : CkJob) (code reason detail : Nat) (s : State) (kept : Keeps orig s) :
    Keeps orig (ckComplete j x code reason detail s) := by
  unfold ckComplete
  repeat' (first
    | with_reducible intro _ | with_reducible assumption | with_reducible apply keeps_foldl
    | with_reducible apply ckCount_keeps | with_reducible apply modCk_keeps | with_reducible apply modSb_keeps
    | with_reducible apply postCqe_keeps | with_reducible apply endXfer_keeps | split)

theorem writeReclaim_keeps (x : CkJob) (s : State) (kept : Keeps orig s) :
    Keeps orig (writeReclaim x s) := by
  unfold writeReclaim
  repeat' (first | with_reducible assumption | with_reducible apply vaWrite_keeps | split)

theorem writeResult'_keeps (x : CkJob) (s : State) (kept : Keeps orig s) :
    Keeps orig (writeResult' x s) := by
  unfold writeResult'
  repeat' (first | with_reducible assumption | with_reducible apply vaWrite_keeps | split)

theorem placeSlot_keeps (part slot : Nat) (piece : List Byte) (s0 : State) (kept : Keeps orig s0) :
    Keeps orig (placeSlot part slot piece s0) := by
  unfold placeSlot
  repeat' (first
    | with_reducible intro _ | with_reducible assumption | with_reducible apply keeps_foldl
    | with_reducible apply wrMem_keeps | with_reducible apply modTile_keeps | with_reducible apply wakeFor_keeps
    | split)

theorem freeTargets_keeps (x : CkJob) (s : State) (kept : Keeps orig s) :
    Keeps orig (freeTargets x s) := by
  unfold freeTargets
  repeat' (first
    | with_reducible intro _ | with_reducible assumption | with_reducible apply keeps_ite
    | with_reducible apply keeps_foldl | with_reducible apply placeSlot_keeps | with_reducible apply vaWrite_keeps
    | with_reducible apply freeBytes_keeps)

theorem ckFail_keeps (j code reason detail : Nat) (s : State) (kept : Keeps orig s) :
    Keeps orig (ckFail j code reason detail s) := by
  unfold ckFail
  repeat' (first
    | with_reducible assumption | with_reducible apply freeTargets_keeps | with_reducible apply writeResult'_keeps
    | with_reducible apply writeReclaim_keeps | with_reducible apply ckComplete_keeps
    | with_reducible apply modHalf_keeps | split)

theorem openHalf_keeps (j : Nat) (x : CkJob) (s : State) (kept : Keeps orig s) :
    Keeps orig (openHalf j x s) := by
  unfold openHalf
  repeat' (first
    | with_reducible assumption
    | (extract_lets +onlyGivenNames x; refine keeps_cut (r := orig) (u := x) ?_ (fun _ => ?_); rotate_left; clear_value x; revert x; intro _ _; rotate_left; (simp -zeta only [x]); clear x)
    | (extract_lets +onlyGivenNames x; clear_value x; revert x; intro _) | with_reducible apply halfWrite_keeps
    | with_reducible apply modHalf_keeps | with_reducible apply modJob_keeps | split)

theorem startCapture_keeps (j : Nat) (s : State) (kept : Keeps orig s) :
    Keeps orig (startCapture j s) := by
  unfold startCapture
  repeat' (first
    | with_reducible intro _ | with_reducible assumption | with_reducible apply keeps_ite
    | with_reducible apply keeps_foldl | with_reducible apply openHalf_keeps | with_reducible apply modJob_keeps
    | with_reducible apply startXfer_keeps | split)

theorem captureRead_keeps (j b code : Nat) (data : List Byte) (s : State) (kept : Keeps orig s) :
    Keeps orig (captureRead j b code data s) := by
  unfold captureRead
  repeat' (first
    | with_reducible assumption | (extract_lets +onlyGivenNames x; clear_value x; revert x; intro _)
    | with_reducible apply ckFail_keeps | with_reducible apply halfWrite_keeps | with_reducible apply ckCount_keeps
    | with_reducible apply modJob_keeps | split)

theorem captureTiles_keeps (j : Nat) (s : State) (kept : Keeps orig s) :
    Keeps orig (captureTiles j s) := by
  unfold captureTiles
  repeat' (first
    | with_reducible intro _ | with_reducible assumption | with_reducible apply keeps_ite
    | with_reducible apply keeps_foldl | with_reducible apply halfWrite_keeps | with_reducible apply ckCount_keeps
    | with_reducible apply modJob_keeps | with_reducible apply wakeFor_keeps | split)

theorem ckNextCmd_keeps (j : Nat) (s : State) (kept : Keeps orig s) :
    Keeps orig (ckNextCmd j s) := by
  unfold ckNextCmd
  repeat' (first
    | with_reducible assumption | with_reducible apply halfRead_keeps | with_reducible apply modJob_keeps
    | with_reducible apply modSb_keeps | split)

theorem ownPhasesDone_keeps (j : Nat) (s : State) (kept : Keeps orig s) :
    Keeps orig (ownPhasesDone j s) := by
  unfold ownPhasesDone
  repeat' (first
    | with_reducible assumption | with_reducible apply ckComplete_keeps | with_reducible apply modJob_keeps | split)

theorem sealHalf_keeps (j : Nat) (s : State) (kept : Keeps orig s) :
    Keeps orig (sealHalf j s) := by
  unfold sealHalf
  repeat' (first
    | with_reducible intro _ | with_reducible assumption | with_reducible apply keeps_ite
    | with_reducible apply ownPhasesDone_keeps | with_reducible apply ckNextCmd_keeps
    | with_reducible apply ckFail_keeps | with_reducible apply ckStream_keeps | with_reducible apply halfWrite_keeps
    | with_reducible apply halfRead_keeps | with_reducible apply ckCount_keeps | with_reducible apply modHalf_keeps
    | with_reducible apply modJob_keeps | with_reducible apply modSetup_keeps | split)

theorem drained_keeps (j : Nat) (s : State) (kept : Keeps orig s) :
    Keeps orig (drained j s) := by
  unfold drained
  repeat' (first
    | with_reducible intro _ | with_reducible assumption | with_reducible apply keeps_ite
    | with_reducible apply ownPhasesDone_keeps | with_reducible apply ckFail_keeps
    | with_reducible apply ckSend_keeps | with_reducible apply halfRead_keeps | with_reducible apply modHalf_keeps
    | split)

theorem commitManifest_keeps (j : Nat) (s : State) (kept : Keeps orig s) :
    Keeps orig (commitManifest j s) := by
  unfold commitManifest
  repeat' (first
    | with_reducible intro _ | with_reducible assumption | with_reducible apply keeps_ite
    | with_reducible apply ckNextCmd_keeps | with_reducible apply ckFail_keeps | with_reducible apply modJob_keeps
    | split)

theorem takeRecord_keeps (h : CkHead) (body : List Byte) (s : State) (kept : Keeps orig s) :
    Keeps orig (takeRecord h body s) := by
  unfold takeRecord
  repeat' (first
    | with_reducible assumption | with_reducible apply commitManifest_keeps | with_reducible apply modJob_keeps
    | split)

theorem modDuty_keeps (i g : Nat) (m : Bool) (f : Duty → Duty) (s : State) (kept : Keeps orig s) :
    Keeps orig (modDuty i g m f s) := by
  unfold modDuty
  repeat' (first | with_reducible assumption | with_reducible apply modSetup_keeps)

theorem openBuild_keeps (i : Nat) (st : Setup) (d : Duty) (step : Nat) (s : State) (kept : Keeps orig s) :
    Keeps orig (openBuild i st d step s) := by
  unfold openBuild
  repeat' (first
    | with_reducible assumption | with_reducible apply modDuty_keeps | with_reducible apply Memory.wf_clearRange
    | with_reducible refine keeps_mem ?_ (fun _ => ?_))

theorem ackMembers_keeps (st : Setup) (g step : Nat) (s : State) (kept : Keeps orig s) :
    Keeps orig (ackMembers st g step s) := by
  unfold ackMembers
  repeat' (first
    | with_reducible intro _ | with_reducible assumption | with_reducible apply keeps_foldl
    | with_reducible apply ckSend_keeps)

theorem completeParity_keeps (i : Nat) (st : Setup) (d : Duty) (step : Nat) (s : State) (kept : Keeps orig s) :
    Keeps orig (completeParity i st d step s) := by
  unfold completeParity
  repeat' (first
    | with_reducible intro _ | with_reducible assumption | with_reducible apply keeps_ite
    | with_reducible apply ackMembers_keeps | with_reducible apply modDuty_keeps
    | with_reducible apply ckStream_keeps | with_reducible apply ckSend_keeps)

theorem takeParity_keeps (mirror : Bool) (h : CkHead) (data : List Byte) (s : State) (kept : Keeps orig s) :
    Keeps orig (takeParity mirror h data s) := by
  unfold takeParity
  repeat' (first
    | with_reducible assumption
    | (extract_lets +onlyGivenNames x; refine keeps_cut (r := orig) (u := x) ?_ (fun _ => ?_); rotate_left; clear_value x; revert x; intro _ _; rotate_left; (simp -zeta only [x]); clear x)
    | (extract_lets +onlyGivenNames x; clear_value x; revert x; intro _) | with_reducible apply completeParity_keeps
    | with_reducible apply openBuild_keeps | with_reducible apply modDuty_keeps | with_reducible apply ckCount_keeps
    | with_reducible apply wrMem_keeps | split)

theorem takeParityAck_mark_keeps (h : CkHead) (i : Nat) (st : Setup) (s : State) (kept : Keeps orig s) :
    Keeps orig (takeParityAck.mark h i st s) := by
  unfold takeParityAck.mark
  exact keeps_foldl (fun _ _ k => keeps_ite (fun _ => modHalf_keeps _ _ _ _ k) (fun _ => k)) _ kept

theorem takeParityAck_keeps (h : CkHead) (s : State) (kept : Keeps orig s) : Keeps orig (takeParityAck h s) := by
  unfold takeParityAck
  split
  · exact kept
  · split
    · exact keeps_ite (fun _ => ackMembers_keeps _ _ _ _ kept) (fun _ => takeParityAck_mark_keeps _ _ _ _ kept)
    · exact takeParityAck_mark_keeps _ _ _ _ kept

theorem takeRebuildReq_keeps (h : CkHead) (s : State) (kept : Keeps orig s) :
    Keeps orig (takeRebuildReq h s) := by
  unfold takeRebuildReq
  repeat' (first
    | with_reducible assumption | with_reducible apply ckStream_keeps | with_reducible apply ckSend_keeps
    | with_reducible apply halfRead_keeps | split)

theorem endRebuild_keeps (j : Nat) (x : CkJob) (s : State) (kept : Keeps orig s) :
    Keeps orig (endRebuild j x s) := by
  unfold endRebuild
  repeat' (first
    | with_reducible intro _ | with_reducible assumption | with_reducible apply keeps_ite
    | with_reducible apply ckFail_keeps | with_reducible apply ckComplete_keeps | with_reducible apply halfRead_keeps
    | with_reducible apply ckCount_keeps | with_reducible apply modHalf_keeps | split)

theorem takeRebuildData_keeps (h : CkHead) (data : List Byte) (s : State) (kept : Keeps orig s) :
    Keeps orig (takeRebuildData h data s) := by
  unfold takeRebuildData
  repeat' (first
    | with_reducible assumption
    | (extract_lets +onlyGivenNames x; refine keeps_cut (r := orig) (u := x) ?_ (fun _ => ?_); rotate_left; clear_value x; revert x; intro _ _; rotate_left; (simp -zeta only [x]); clear x)
    | (extract_lets +onlyGivenNames x; refine keeps_cut (r := orig) (u := x.2) ?_ (fun _ => ?_); rotate_left; clear_value x; revert x; intro _ _; rotate_left; (simp -zeta only [x]); clear x)
    | with_reducible apply endRebuild_keeps | with_reducible apply halfWrite_keeps
    | with_reducible apply halfRead_keeps | with_reducible apply modJob_keeps | split)

theorem watchRebuilds_keeps (s : State) (kept : Keeps orig s) :
    Keeps orig (watchRebuilds s) := by
  unfold watchRebuilds
  repeat' (first
    | with_reducible intro _ | with_reducible assumption | with_reducible apply keeps_foldl
    | with_reducible apply ckFail_keeps | split)

theorem placeTargets_keeps (j : Nat) (bodies : List (List Byte)) (ps : List (Nat × CkRegion)) (s : State) (kept : Keeps orig s) :
    Keeps orig (placeTargets j bodies ps s) := by
  unfold placeTargets
  repeat' (first
    | with_reducible intro _ | with_reducible assumption | with_reducible apply keeps_ite
    | with_reducible apply keeps_foldl | with_reducible apply ckFail_keeps | with_reducible apply placeSlot_keeps
    | with_reducible apply modJob_keeps | with_reducible apply seedGen_keeps | with_reducible apply startXfer_keeps
    | split)

theorem placeDone_keeps (j b code : Nat) (s : State) (kept : Keeps orig s) :
    Keeps orig (placeDone j b code s) := by
  unfold placeDone
  repeat' (first
    | with_reducible intro _ | with_reducible assumption | with_reducible apply keeps_ite
    | with_reducible apply ckFail_keeps | with_reducible apply modJob_keeps)

theorem nextCandidate_keeps (j i : Nat) (s : State) (kept : Keeps orig s) :
    Keeps orig (nextCandidate j i s) := by
  unfold nextCandidate
  repeat' (first
    | with_reducible assumption | with_reducible apply ckNextCmd_keeps | with_reducible apply ckFail_keeps
    | with_reducible apply modJob_keeps | split)

theorem rejectCandidate_keeps (j : Nat) (s : State) (kept : Keeps orig s) :
    Keeps orig (rejectCandidate j s) := by
  unfold rejectCandidate
  repeat' (first
    | with_reducible assumption | with_reducible apply nextCandidate_keeps | with_reducible apply ckCount_keeps
    | with_reducible apply modJob_keeps | split)

theorem restoreReadDone_keeps (j : Nat) (s : State) (kept : Keeps orig s) :
    Keeps orig (restoreReadDone j s) := by
  unfold restoreReadDone
  repeat' (first
    | with_reducible intro _ | with_reducible assumption | with_reducible apply keeps_ite
    | (extract_lets +onlyGivenNames x; refine keeps_fn x ?_; subst x; try dsimp -zeta only)
    | with_reducible apply rejectCandidate_keeps | with_reducible apply placeTargets_keeps
    | with_reducible apply ckNextCmd_keeps | with_reducible apply ckCount_keeps | with_reducible apply modJob_keeps
    | split)

theorem startRestore_keeps (j : Nat) (s : State) (kept : Keeps orig s) :
    Keeps orig (startRestore j s) := by
  unfold startRestore
  repeat' (first
    | with_reducible assumption
    | (extract_lets +onlyGivenNames x; refine keeps_cut (r := orig) (u := x.2) ?_ (fun _ => ?_); rotate_left; clear_value x; revert x; intro _ _; rotate_left; (simp -zeta only [x]); clear x)
    | (extract_lets +onlyGivenNames x; clear_value x; revert x; intro _) | with_reducible apply nextCandidate_keeps
    | with_reducible apply placeTargets_keeps | with_reducible apply ckFail_keeps
    | with_reducible apply halfRead_keeps | with_reducible apply modJob_keeps | split)

theorem ckCmdDone_keeps (j code : Nat) (data : List Byte) (s : State) (kept : Keeps orig s) :
    Keeps orig (ckCmdDone j code data s) := by
  unfold ckCmdDone
  repeat' (first
    | with_reducible intro _ | with_reducible assumption | with_reducible apply keeps_ite
    | with_reducible apply restoreReadDone_keeps | with_reducible apply rejectCandidate_keeps
    | with_reducible apply ckNextCmd_keeps | with_reducible apply ckFail_keeps | with_reducible apply ckCount_keeps
    | with_reducible apply modJob_keeps | split)

theorem takeCkDone_keeps (s : State) (kept : Keeps orig s) :
    Keeps orig (takeCkDone s) := by
  unfold takeCkDone
  repeat' (first
    | with_reducible intro _ | with_reducible assumption | with_reducible apply keeps_foldl
    | with_reducible apply ckCmdDone_keeps | with_reducible apply modSb_keeps)

theorem ckXferDone_keeps (j b code : Nat) (f : Xfer) (s : State) (kept : Keeps orig s) :
    Keeps orig (ckXferDone j b code f s) := by
  unfold ckXferDone
  repeat' (first
    | with_reducible intro _ | with_reducible assumption | with_reducible apply keeps_ite
    | with_reducible apply placeDone_keeps | with_reducible apply captureRead_keeps)

theorem zeroHalf_keeps (st : Setup) (h : Nat) (s : State) (kept : Keeps orig s) :
    Keeps orig (zeroHalf st h s) := by
  unfold zeroHalf
  repeat' (first | with_reducible assumption | with_reducible apply halfWrite_keeps)

theorem startRebuild_keeps (x : CkJob) (s : State) (kept : Keeps orig s) :
    Keeps orig (startRebuild x s) := by
  unfold startRebuild
  repeat' (first
    | with_reducible intro _ | with_reducible assumption | with_reducible apply keeps_foldl
    | with_reducible apply zeroHalf_keeps | with_reducible apply ckSend_keeps | with_reducible apply modHalf_keeps
    | split)

theorem beginCk_keeps (j : Nat) (s : State) (kept : Keeps orig s) :
    Keeps orig (beginCk j s) := by
  unfold beginCk
  repeat' (first
    | with_reducible assumption | with_reducible apply startRebuild_keeps | with_reducible apply startRestore_keeps
    | with_reducible apply startCapture_keeps | with_reducible apply modJob_keeps
    | with_reducible apply wakeFor_keeps | split)

theorem kickCk_keeps (s : State) (kept : Keeps orig s) :
    Keeps orig (kickCk s) := by
  unfold kickCk
  repeat' (first
    | with_reducible intro _ | with_reducible assumption | with_reducible apply keeps_foldl
    | with_reducible apply beginCk_keeps)

end Sys2Proof.Machine
end

