-- ==== Sys2Proof/Laws/Keeps/CipherOps.lean ====
section
/-! SUPPORT. The operations of Machine/CipherOps.lean keep what every operation keeps. -/

namespace Sys2Proof.Machine

open Sys2Proof

set_option linter.tactic.unusedName false

variable {orig res : State}

theorem modSec_keeps (f : Sec → Sec) (s : State) (kept : Keeps orig s) : Keeps orig (modSec f s) := keeps_mk kept

theorem modRing_keeps (p : Nat) (f : CipherRing → CipherRing) (s : State) (kept : Keeps orig s) :
    Keeps orig (modRing p f s) := by
  unfold modRing
  repeat' (first | with_reducible assumption | with_reducible apply modSec_keeps)

theorem ceCount_keeps (p c n : Nat) (s : State) (kept : Keeps orig s) :
    Keeps orig (ceCount p c n s) := by
  unfold ceCount
  repeat' (first | with_reducible assumption | with_reducible apply bump_keeps)

theorem coreMiss_keeps (c : Nat) (s : State) (kept : Keeps orig s) :
    Keeps orig (coreMiss c s) := by
  unfold coreMiss
  repeat' (first
    | with_reducible intro _ | with_reducible assumption | with_reducible apply keeps_ite
    | with_reducible apply modSec_keeps | with_reducible apply event_keeps)

theorem modDesc_keeps (p idx : Nat) (f : StartedDesc → StartedDesc) (s : State) (kept : Keeps orig s) :
    Keeps orig (modDesc p idx f s) := by
  unfold modDesc
  repeat' (first | with_reducible assumption | with_reducible apply modRing_keeps)

theorem readInput_keeps (p : Nat) (e : StartedDesc) : ∀ (x0 : Nat) (x1 : List (List Byte)) (x2 : State), Keeps orig x2 →
    Keeps orig (readInput p e x0 x1 x2)
  | 0, _, s, kept => by
    unfold readInput
    repeat' (first
      | with_reducible assumption | with_reducible apply modDesc_keeps | with_reducible apply ceCount_keeps
      | with_reducible apply runReady_keeps | with_reducible apply startXfer_keeps
      | with_reducible apply readInput_keeps | split)
  | fuel + 1, got, s, kept => by
    unfold readInput
    repeat' (first
      | with_reducible assumption | with_reducible apply modDesc_keeps | with_reducible apply ceCount_keeps
      | with_reducible apply runReady_keeps | with_reducible apply startXfer_keeps
      | with_reducible apply readInput_keeps | split)

theorem startDesc_keeps (p idx : Nat) (bs : List Byte) (s : State) (kept : Keeps orig s) :
    Keeps orig (startDesc p idx bs s) := by
  unfold startDesc
  repeat' (first
    | with_reducible intro _ | with_reducible assumption | with_reducible apply keeps_ite
    | with_reducible apply readInput_keeps | with_reducible apply modRing_keeps | split)

theorem cipherAhead_keeps (p tries : Nat) (s : State) (kept : Keeps orig s) :
    Keeps orig (cipherAhead p tries s) := by
  unfold cipherAhead
  repeat' (first
    | with_reducible intro _ | with_reducible assumption | with_reducible apply keeps_ite
    | with_reducible apply ceCount_keeps | with_reducible apply modRing_keeps)

theorem cipherGot_keeps (p tries : Nat) (r : CipherRing) (bs : List Byte) (s : State) (kept : Keeps orig s) :
    Keeps orig (cipherGot p tries r bs s) := by
  unfold cipherGot
  repeat' (first
    | with_reducible intro _ | with_reducible assumption | with_reducible apply keeps_ite
    | with_reducible apply cipherAhead_keeps | with_reducible apply startDesc_keeps)

theorem cipherRun_keeps (p : Nat) : ∀ (x0 : Nat) (x1 : Nat) (x2 : State), Keeps orig x2 →
    Keeps orig (cipherRun p x0 x1 x2)
  | 0, _, s, kept => by
    unfold cipherRun
    repeat' (first
      | with_reducible assumption | with_reducible apply cipherGot_keeps | with_reducible apply modRing_keeps
      | with_reducible apply startNow_keeps | with_reducible apply ringRead_keeps
      | with_reducible apply cipherRun_keeps | with_reducible refine keepsRing_use_ok (by assumption) ?_
      | with_reducible refine keepsRing_use_fail (by assumption) ?_
      | with_reducible refine keepsRing_use_wait (by assumption) ?_ | split)
  | fuel + 1, tries, s, kept => by
    unfold cipherRun
    repeat' (first
      | with_reducible assumption | with_reducible apply cipherGot_keeps | with_reducible apply modRing_keeps
      | with_reducible apply startNow_keeps | with_reducible apply ringRead_keeps
      | with_reducible apply cipherRun_keeps | with_reducible refine keepsRing_use_ok (by assumption) ?_
      | with_reducible refine keepsRing_use_fail (by assumption) ?_
      | with_reducible refine keepsRing_use_wait (by assumption) ?_ | split)

theorem cipherTry_keeps (p tries : Nat) (s : State) (kept : Keeps orig s) :
    Keeps orig (cipherTry p tries s) := by
  unfold cipherTry
  repeat' (first | with_reducible assumption | with_reducible apply cipherRun_keeps)

theorem cipherKick_keeps (p : Nat) (s : State) (kept : Keeps orig s) :
    Keeps orig (cipherKick p s) := by
  unfold cipherKick
  repeat' (first | with_reducible assumption | with_reducible apply cipherTry_keeps)

theorem putOutcome_keeps (p k va : Nat) (bs : List Byte) (s : State) (kept : Keeps orig s) :
    Keeps orig (putOutcome p k va bs s).2 := by
  unfold putOutcome
  repeat' (first
    | with_reducible assumption | with_reducible apply startNow_keeps | with_reducible apply ringWrite_keeps
    | with_reducible refine keepsRing_use_ok (by assumption) ?_
    | with_reducible refine keepsRing_use_fail (by assumption) ?_
    | with_reducible refine keepsRing_use_wait (by assumption) ?_ | split)

theorem descDone_keeps (p : Nat) (r : CipherRing) (e : StartedDesc) (code detail : Nat) (s : State) (kept : Keeps orig s) :
    Keeps orig (descDone p r e code detail s) := by
  unfold descDone
  repeat' (first
    | with_reducible intro _ | with_reducible assumption | with_reducible apply keeps_ite
    | with_reducible apply ceCount_keeps | with_reducible apply modRing_keeps | with_reducible apply tallyAdd_keeps
    | with_reducible apply msix_keeps)

theorem drainRing_keeps (p : Nat) : ∀ (x0 : Nat) (x1 : State), Keeps orig x1 →
    Keeps orig (drainRing p x0 x1)
  | 0, s, kept => by
    unfold drainRing
    repeat' (first
      | with_reducible intro _ | with_reducible assumption | with_reducible apply keeps_ite
      | with_reducible apply descDone_keeps | with_reducible apply putOutcome_keeps
      | with_reducible apply modDesc_keeps | with_reducible apply drainRing_keeps | split)
  | fuel + 1, s, kept => by
    unfold drainRing
    repeat' (first
      | with_reducible intro _ | with_reducible assumption | with_reducible apply keeps_ite
      | with_reducible apply descDone_keeps | with_reducible apply putOutcome_keeps
      | with_reducible apply modDesc_keeps | with_reducible apply drainRing_keeps | split)

theorem releaseDesc_keeps (p : Nat) (e : StartedDesc) (out tag : List Byte) (code detail : Nat) (s : State) (kept : Keeps orig s) :
    Keeps orig (releaseDesc p e out tag code detail s) := by
  unfold releaseDesc
  repeat' (first
    | with_reducible intro _ | with_reducible assumption | with_reducible apply keeps_foldl
    | with_reducible apply keeps_foldl_snd | with_reducible apply drainRing_keeps
    | with_reducible apply modDesc_keeps | with_reducible apply runReady_keeps | with_reducible apply startXfer_keeps)

theorem writeEnded_keeps (p : Nat) (e : StartedDesc) (x k code : Nat) (f : Xfer) (s : State) (kept : Keeps orig s) :
    Keeps orig (writeEnded p e x k code f s) := by
  unfold writeEnded
  repeat' (first
    | with_reducible intro _ | with_reducible assumption | with_reducible apply keeps_ite
    | with_reducible apply drainRing_keeps | with_reducible apply modDesc_keeps | with_reducible apply runReady_keeps
    | with_reducible apply startXfer_keeps | split)

theorem outcomeEnded_keeps (p k : Nat) (s : State) (kept : Keeps orig s) :
    Keeps orig (outcomeEnded p k s) := by
  unfold outcomeEnded
  repeat' (first
    | with_reducible intro _ | with_reducible assumption | with_reducible apply keeps_ite
    | with_reducible apply drainRing_keeps | with_reducible apply descDone_keeps
    | with_reducible apply putOutcome_keeps | split)

theorem cipherXferDone_keeps (x : Nat) (f : Xfer) (code : Nat) (s : State) (kept : Keeps orig s) :
    Keeps orig (cipherXferDone x f code s) := by
  unfold cipherXferDone
  repeat' (first
    | with_reducible intro _ | with_reducible assumption | with_reducible apply keeps_ite
    | with_reducible apply outcomeEnded_keeps | with_reducible apply writeEnded_keeps
    | with_reducible apply cipherKick_keeps | with_reducible apply cipherGot_keeps
    | with_reducible apply readInput_keeps | with_reducible apply modDesc_keeps | with_reducible apply modRing_keeps
    | split)

end Sys2Proof.Machine
end

