-- ==== Sys2Proof/Laws/Keeps/PuntOps.lean ====
section
/-! SUPPORT. The operations of Machine/PuntOps.lean keep what every operation keeps. -/

namespace Sys2Proof.Machine

open Sys2Proof

set_option linter.tactic.unusedName false

variable {orig res : State}

theorem slotFree_keeps (count log : Nat) (s : State) (kept : Keeps orig s) :
    Keeps orig (slotFree count log s).2 := by
  unfold slotFree
  repeat' (first
    | with_reducible intro _ | with_reducible assumption | with_reducible apply keeps_ite_snd
    | with_reducible apply draw_keeps)

theorem pumpPunt_keeps (s : State) (kept : Keeps orig s) :
    Keeps orig (pumpPunt s) := by
  unfold pumpPunt
  repeat' (first
    | with_reducible assumption | with_reducible apply modPipe_keeps | with_reducible apply runReady_keeps
    | with_reducible apply startXfer_keeps | split)

theorem puntFrame_keeps (node ver rule : Nat) (f : List Byte) (room : Room) (s : State) (kept : Keeps orig s) :
    Keeps orig (puntFrame node ver rule f room s) := by
  unfold puntFrame
  repeat' (first
    | with_reducible intro _ | with_reducible assumption | with_reducible apply keeps_ite
    | with_reducible apply pumpPunt_keeps | with_reducible apply slotFree_keeps | with_reducible apply freeRoom_keeps
    | with_reducible apply pcount_keeps | with_reducible apply modPipe_keeps | split)

theorem retireVersions_keeps (s : State) (kept : Keeps orig s) :
    Keeps orig (retireVersions s) := by
  unfold retireVersions
  repeat' (first
    | with_reducible assumption
    | (extract_lets +onlyGivenNames x; refine keeps_fn x ?_; subst x; try dsimp -zeta only)
    | with_reducible apply modPipe_keeps | split)

theorem puntDone_keeps (b code : Nat) (s : State) (kept : Keeps orig s) :
    Keeps orig (puntDone b code s) := by
  unfold puntDone
  repeat' (first
    | with_reducible assumption | with_reducible apply retireVersions_keeps | with_reducible apply pumpPunt_keeps
    | with_reducible apply freeRoom_keeps | with_reducible apply modPipe_keeps | with_reducible apply runReady_keeps
    | with_reducible apply startXfer_keeps | split)

theorem injectDone_keeps (slot flags gtime : Nat) (ts : Bool) (s : State) (kept : Keeps orig s) :
    Keeps orig (injectDone slot flags gtime ts s) := by
  unfold injectDone
  repeat' (first
    | (simp -zeta only [keeps_mk_iff]) | with_reducible assumption | with_reducible apply modPipe_keeps
    | with_reducible apply startNow_keeps | with_reducible apply ringWrite_keeps
    | with_reducible refine keepsRing_use_ok (by assumption) ?_
    | with_reducible refine keepsRing_use_fail (by assumption) ?_
    | with_reducible refine keepsRing_use_wait (by assumption) ?_ | split)

theorem takeInject_keeps (i : Nat) (bs : List Byte) (s : State) (kept : Keeps orig s) :
    Keeps orig (takeInject i bs s) := by
  unfold takeInject
  repeat' (first
    | with_reducible intro _ | with_reducible assumption | with_reducible apply keeps_ite
    | with_reducible apply injectDone_keeps | with_reducible apply modSched_keeps | with_reducible apply pcount_keeps
    | with_reducible apply modPipe_keeps)

theorem injectGot_keeps (p : PuntSet) (tries : Nat) (bs : List Byte) (s : State) (kept : Keeps orig s) :
    Keeps orig (injectGot p tries bs s) := by
  unfold injectGot
  repeat' (first
    | with_reducible intro _ | with_reducible assumption | with_reducible apply keeps_ite
    | with_reducible apply takeInject_keeps | with_reducible apply modPipe_keeps)

theorem injectNext_keeps (p : PuntSet) (tries : Nat) (s : State) (kept : Keeps orig s) :
    Keeps orig (injectNext p tries s).2 := by
  unfold injectNext
  extract_lets i
  have hr := ringRead_keeps 0 (injectSlot p i) 4096 s kept
  refine keeps_ite_snd (fun _ => kept) (fun _ => ?_)
  split
  · next u e =>
    dsimp only
    exact modPipe_keeps _ u (keepsRing_use_fail e hr)
  · next u e =>
    extract_lets x
    dsimp only
    exact modPipe_keeps _ x.2 (startNow_keeps _ _ (keepsRing_use_wait e hr))
  · next bs u e =>
    exact injectGot_keeps p tries bs u (keepsRing_use_ok e hr)

theorem injectRun_keeps  : ∀ (x0 : Nat) (x1 : Nat) (x2 : State), Keeps orig x2 →
    Keeps orig (injectRun x0 x1 x2)
  | 0, _, s, kept => by
    unfold injectRun
    repeat' (first
      | with_reducible intro _ | with_reducible assumption | with_reducible apply keeps_ite
      | with_reducible apply injectNext_keeps | with_reducible apply injectRun_keeps | split)
  | fuel + 1, tries, s, kept => by
    unfold injectRun
    repeat' (first
      | with_reducible intro _ | with_reducible assumption | with_reducible apply keeps_ite
      | with_reducible apply injectNext_keeps | with_reducible apply injectRun_keeps | split)

theorem injectTry_keeps (tries : Nat) (s : State) (kept : Keeps orig s) :
    Keeps orig (injectTry tries s) := by
  unfold injectTry
  repeat' (first | with_reducible assumption | with_reducible apply injectRun_keeps)

theorem injectKick_keeps (s : State) (kept : Keeps orig s) :
    Keeps orig (injectKick s) := by
  unfold injectKick
  repeat' (first | with_reducible assumption | with_reducible apply injectTry_keeps)

theorem injectRead_keeps (code : Nat) (data : List Byte) (s : State) (kept : Keeps orig s) :
    Keeps orig (injectRead code data s) := by
  unfold injectRead
  repeat' (first
    | with_reducible assumption | with_reducible apply injectKick_keeps | with_reducible apply injectGot_keeps
    | with_reducible apply modPipe_keeps | split)

theorem takeCard_keeps (func : Nat) (s : State) (kept : Keeps orig s) :
    Keeps orig (takeCard func s) := by
  unfold takeCard
  repeat' (first
    | with_reducible intro _ | with_reducible assumption | with_reducible apply keeps_ite
    | with_reducible apply slotFree_keeps | with_reducible apply modPipe_keeps | with_reducible apply runReady_keeps
    | with_reducible apply startXfer_keeps | split)

theorem cardDone_keeps (func b code : Nat) (s : State) (kept : Keeps orig s) :
    Keeps orig (cardDone func b code s) := by
  unfold cardDone
  repeat' (first
    | with_reducible assumption | with_reducible apply modPipe_keeps | with_reducible apply runReady_keeps
    | with_reducible apply startXfer_keeps | split)

end Sys2Proof.Machine
end

