-- ==== Sys2Proof/Laws/Keeps/RoceOps.lean ====
section
/-! SUPPORT. The operations of Machine/RoceOps.lean keep what every operation keeps. -/

namespace Sys2Proof.Machine

open Sys2Proof

set_option linter.tactic.unusedName false

variable {orig res : State}

theorem roceResp_keeps (n psn msn : Nat) (atomic : Bool) (data : List Byte) (s : State) (kept : Keeps orig s) :
    Keeps orig (roceResp n psn msn atomic data s) := by
  unfold roceResp
  repeat' (first
    | with_reducible intro _ | with_reducible assumption | with_reducible apply keeps_foldl
    | with_reducible apply sendRoce_keeps | with_reducible apply modX_keeps | with_reducible apply bump_keeps | split)

theorem roceDup_keeps (n : Nat) (q : Qp) (k : RxPkt) (len : Nat) (s : State) (kept : Keeps orig s) :
    Keeps orig (roceDup n q k len s) := by
  unfold roceDup
  repeat' (first
    | with_reducible assumption | with_reducible apply startXfer_keeps | with_reducible apply sendAck_keeps
    | with_reducible apply sendRoce_keeps | split)

theorem roceRequest_keeps (n die op flags : Nat) (q : Qp) (bs : List Byte) (s : State) (kept : Keeps orig s) :
    Keeps orig (roceRequest n die op flags q bs s) := by
  unfold roceRequest
  repeat' (first
    | with_reducible intro _ | with_reducible assumption | with_reducible apply keeps_ite
    | with_reducible apply roceDup_keeps | with_reducible apply startHeld_keeps | with_reducible apply sendAck_keeps
    | with_reducible apply modX_keeps | with_reducible apply bump_keeps)

theorem roceAckBefore_keeps (n psn : Nat) (s : State) (kept : Keeps orig s) :
    Keeps orig (roceAckBefore n psn s) := by
  unfold roceAckBefore
  repeat' (first
    | with_reducible intro _ | with_reducible assumption
    | (extract_lets +onlyGivenNames x; refine keeps_cut (r := orig) (u := x) ?_ (fun _ => ?_); rotate_left; clear_value x; revert x; intro _ _; rotate_left; (simp -zeta only [x]); clear x)
    | (extract_lets +onlyGivenNames x; clear_value x; revert x; intro _) | with_reducible apply keeps_foldl
    | with_reducible apply succeedOp_keeps | with_reducible apply modX_keeps | split)

theorem goBack_keeps (n psn : Nat) (s : State) (kept : Keeps orig s) :
    Keeps orig (goBack n psn s) := by
  unfold goBack
  repeat' (first
    | with_reducible assumption | (extract_lets +onlyGivenNames x; clear_value x; revert x; intro _)
    | with_reducible apply exhaust_keeps | with_reducible apply modX_keeps | split)

theorem failPsn_keeps (n psn code : Nat) (s : State) (kept : Keeps orig s) :
    Keeps orig (failPsn n psn code s) := by
  unfold failPsn
  repeat' (first | with_reducible assumption | with_reducible apply failMsn_keeps | split)

theorem roceRnr_keeps (n psn : Nat) (s : State) (kept : Keeps orig s) :
    Keeps orig (roceRnr n psn s) := by
  unfold roceRnr
  repeat' (first
    | with_reducible intro _ | with_reducible assumption | with_reducible apply keeps_ite
    | with_reducible apply failPsn_keeps | with_reducible apply modX_keeps | split)

theorem roceAck_keeps (n syndrome psn : Nat) (s : State) (kept : Keeps orig s) :
    Keeps orig (roceAck n syndrome psn s) := by
  unfold roceAck
  repeat' (first
    | with_reducible assumption | with_reducible apply roceRnr_keeps | with_reducible apply failPsn_keeps
    | with_reducible apply goBack_keeps | with_reducible apply roceAckBefore_keeps | split)

theorem roceReadResp_keeps (n op psn : Nat) (payload : List Byte) (s : State) (kept : Keeps orig s) :
    Keeps orig (roceReadResp n op psn payload s) := by
  unfold roceReadResp
  repeat' (first
    | with_reducible intro _ | with_reducible assumption | with_reducible apply keeps_ite
    | with_reducible apply roceAckBefore_keeps | with_reducible apply finishRemoteReads_keeps
    | with_reducible apply landResp_keeps | with_reducible apply modX_keeps | with_reducible apply modQp_keeps
    | split)

theorem roceAtomicAck_keeps (n psn : Nat) (old : List Byte) (s : State) (kept : Keeps orig s) :
    Keeps orig (roceAtomicAck n psn old s) := by
  unfold roceAtomicAck
  repeat' (first
    | with_reducible assumption
    | (extract_lets +onlyGivenNames x; refine keeps_cut (r := orig) (u := x) ?_ (fun _ => ?_); rotate_left; clear_value x; revert x; intro _ _; rotate_left; (simp -zeta only [x]); clear x)
    | with_reducible apply roceAckBefore_keeps | with_reducible apply landResp_keeps
    | with_reducible apply modX_keeps | split)

theorem cnpFor_keeps (n : Nat) (q : Qp) (s : State) (kept : Keeps orig s) :
    Keeps orig (cnpFor n q s) := by
  unfold cnpFor
  repeat' (first
    | with_reducible intro _ | with_reducible assumption | with_reducible apply keeps_ite
    | with_reducible apply sendRoce_keeps | with_reducible apply modX_keeps)

theorem rxRoce_keeps (n die : Nat) (ce : Bool) (bs : List Byte) (s : State) (kept : Keeps orig s) :
    Keeps orig (rxRoce n die ce bs s) := by
  unfold rxRoce
  repeat' (first
    | with_reducible assumption
    | (extract_lets +onlyGivenNames x; refine keeps_cut (r := orig) (u := x) ?_ (fun _ => ?_); rotate_left; clear_value x; revert x; intro _ _; rotate_left; (simp -zeta only [x]); clear x)
    | (extract_lets +onlyGivenNames x; clear_value x; revert x; intro _) | with_reducible apply cnpFor_keeps
    | with_reducible apply roceAtomicAck_keeps | with_reducible apply roceReadResp_keeps
    | with_reducible apply roceAck_keeps | with_reducible apply roceRequest_keeps | with_reducible apply sqKick_keeps
    | with_reducible apply sendAck_keeps | with_reducible apply modX_keeps | with_reducible apply bump_keeps | split)

end Sys2Proof.Machine
end

