-- ==== Sys2Proof/Laws/Keeps/QpDone.lean ====
section
/-! SUPPORT. The operations of Machine/QpDone.lean keep what every operation keeps. -/

namespace Sys2Proof.Machine

open Sys2Proof

set_option linter.tactic.unusedName false

variable {orig res : State}

theorem sqRingDone_keeps (n code : Nat) (data : List Byte) (s : State) (kept : Keeps orig s) :
    Keeps orig (sqRingDone n code data s) := by
  unfold sqRingDone
  repeat' (first
    | with_reducible assumption | with_reducible apply sqKick_keeps | with_reducible apply sqGot_keeps
    | with_reducible apply takeEntry_keeps | with_reducible apply modQp_keeps | split)

theorem rqRingDone_keeps (n code : Nat) (data : List Byte) (s : State) (kept : Keeps orig s) :
    Keeps orig (rqRingDone n code data s) := by
  unfold rqRingDone
  repeat' (first
    | with_reducible assumption | with_reducible apply rqKick_keeps | with_reducible apply rqGot_keeps
    | with_reducible apply takeRecv_keeps | with_reducible apply modQp_keeps | split)

theorem cqRingDone_keeps (n part code : Nat) (s : State) (kept : Keeps orig s) :
    Keeps orig (cqRingDone n part code s) := by
  unfold cqRingDone
  repeat' (first
    | with_reducible assumption | with_reducible apply kickPart_keeps | with_reducible apply drainCq_keeps
    | with_reducible apply cqTransfer_keeps | with_reducible apply cqAdvance_keeps | with_reducible apply modCq_keeps
    | split)

theorem sqDataDone_keeps (n idx code : Nat) (f : Xfer) (s : State) (kept : Keeps orig s) :
    Keeps orig (sqDataDone n idx code f s) := by
  unfold sqDataDone
  repeat' (first
    | with_reducible assumption | with_reducible apply sqKick_keeps | with_reducible apply failOp_keeps
    | with_reducible apply setOp_keeps | with_reducible apply startXfer_keeps | with_reducible apply modQp_keeps
    | split)

theorem dropMsgXfer_keeps (n x : Nat) (s : State) (kept : Keeps orig s) :
    Keeps orig (dropMsgXfer n x s) := by
  unfold dropMsgXfer
  repeat' (first | with_reducible assumption | with_reducible apply modQp_keeps)

theorem bookPlaced_keeps (n msn k : Nat) (s : State) (kept : Keeps orig s) :
    Keeps orig (bookPlaced n msn k s) := by
  unfold bookPlaced
  repeat' (first | with_reducible assumption | with_reducible apply modQp_keeps)

theorem inboundDone_keeps (n x code : Nat) (f : Xfer) (s : State) (kept : Keeps orig s) :
    Keeps orig (inboundDone n x code f s) := by
  unfold inboundDone
  repeat' (first
    | with_reducible assumption
    | (extract_lets +onlyGivenNames x; refine keeps_cut (r := orig) (u := x.2) ?_ (fun _ => ?_); rotate_left; clear_value x; revert x; intro _ _; rotate_left; (simp -zeta only [x]); clear x)
    | with_reducible apply bookPlaced_keeps | with_reducible apply dropMsgXfer_keeps
    | with_reducible apply startHeld_keeps | with_reducible apply failPlace_keeps
    | with_reducible apply takeVia_keeps | split)

theorem answerRead_keeps (n psn msn : Nat) (atomic : Bool) (data : List Byte) (s : State) (kept : Keeps orig s) :
    Keeps orig (answerRead n psn msn atomic data s) := by
  unfold answerRead
  repeat' (first
    | with_reducible intro _ | with_reducible assumption | with_reducible apply keeps_ite
    | with_reducible apply roceResp_keeps | with_reducible apply queueResp_keeps)

theorem respDone_keeps (n psn x code : Nat) (atomic : Bool) (data : List Byte) (s : State) (kept : Keeps orig s) :
    Keeps orig (respDone n psn x code atomic data s) := by
  unfold respDone
  repeat' (first
    | with_reducible assumption
    | (extract_lets +onlyGivenNames x; refine keeps_cut (r := orig) (u := x.2) ?_ (fun _ => ?_); rotate_left; clear_value x; revert x; intro _ _; rotate_left; (simp -zeta only [x]); clear x)
    | with_reducible apply answerRead_keeps | with_reducible apply dropMsgXfer_keeps
    | with_reducible apply roceResp_keeps | with_reducible apply startHeld_keeps
    | with_reducible apply failPlace_keeps | with_reducible apply takeVia_keeps | split)

theorem settleLanding_keeps (n idx : Nat) (s : State) (kept : Keeps orig s) :
    Keeps orig (settleLanding n idx s) := by
  unfold settleLanding
  repeat' (first
    | with_reducible assumption | with_reducible apply sqKick_keeps | with_reducible apply failOp_keeps
    | with_reducible apply setOp_keeps | split)

theorem landingDone_keeps (n idx x code len : Nat) (s : State) (kept : Keeps orig s) :
    Keeps orig (landingDone n idx x code len s) := by
  unfold landingDone
  repeat' (first
    | with_reducible intro _ | with_reducible assumption | with_reducible apply keeps_ite
    | with_reducible apply settleLanding_keeps | with_reducible apply takeVia_keeps
    | with_reducible apply ackVia_keeps | with_reducible apply modQp_keeps)

theorem queueDone_keeps (x : Nat) (f : Xfer) (code : Nat) (s : State) (kept : Keeps orig s) :
    Keeps orig (queueDone x f code s) := by
  unfold queueDone
  repeat' (first
    | with_reducible assumption | (extract_lets +onlyGivenNames x; clear_value x; revert x; intro _)
    | with_reducible apply landingDone_keeps | with_reducible apply respDone_keeps
    | with_reducible apply inboundDone_keeps | with_reducible apply sqDataDone_keeps
    | with_reducible apply cqRingDone_keeps | with_reducible apply rqRingDone_keeps
    | with_reducible apply sqRingDone_keeps | split)

end Sys2Proof.Machine
end

