-- ==== Sys2Proof/Laws/Keeps/Settle.lean ====
section
/-! SUPPORT. The operations of Machine/Settle.lean keep what every operation keeps. -/

namespace Sys2Proof.Machine

open Sys2Proof

set_option linter.tactic.unusedName false

variable {orig res : State}

theorem xferEnded_keeps (x : Nat) (f : Xfer) (code : Nat) (s : State) (kept : Keeps orig s) :
    Keeps orig (xferEnded x f code s) := by
  unfold xferEnded
  repeat' (first
    | with_reducible assumption | (extract_lets +onlyGivenNames x; clear_value x; revert x; intro _)
    | with_reducible apply queueDone_keeps | with_reducible apply cardDone_keeps
    | with_reducible apply injectRead_keeps | with_reducible apply puntDone_keeps
    | with_reducible apply cipherXferDone_keeps | with_reducible apply ckXferDone_keeps
    | with_reducible apply taskXferDone_keeps | with_reducible apply startColl_keeps
    | with_reducible apply collXferDone_keeps | with_reducible apply imageDone_keeps
    | with_reducible apply tileDmaDone_keeps | with_reducible apply streamDone_keeps | split)

theorem answerInvals_keeps (s : State) (kept : Keeps orig s) :
    Keeps orig (answerInvals s) := by
  unfold answerInvals
  repeat' (first
    | (simp -zeta only [keeps_mk_iff]) | with_reducible intro _ | with_reducible assumption
    | with_reducible apply keeps_foldl | with_reducible apply finish_keeps)

theorem answerWithdrawals_keeps (s : State) (kept : Keeps orig s) :
    Keeps orig (answerWithdrawals s) := by
  unfold answerWithdrawals
  repeat' (first
    | with_reducible intro _ | with_reducible assumption | with_reducible apply keeps_foldl
    | with_reducible apply modGang_keeps | with_reducible apply finish_keeps | split)

theorem answerFences_keeps (s : State) (kept : Keeps orig s) :
    Keeps orig (answerFences s) := by
  unfold answerFences
  repeat' (first
    | (simp -zeta only [keeps_mk_iff]) | with_reducible intro _ | with_reducible assumption
    | with_reducible apply keeps_foldl | with_reducible apply finish_keeps | split)

theorem noteReady_keeps (s : State) (kept : Keeps orig s) :
    Keeps orig (noteReady s) := by
  unfold noteReady
  repeat' (first | with_reducible assumption | with_reducible apply modPipe_keeps)

theorem resumeFreed_keeps (s : State) (kept : Keeps orig s) :
    Keeps orig (resumeFreed s) := by
  unfold resumeFreed
  repeat' (first
    | (simp -zeta only [keeps_mk_iff]) | with_reducible intro _ | with_reducible assumption
    | with_reducible apply keeps_ite | with_reducible apply resumeHeld_keeps)

theorem resumeBehind_keeps (s : State) (kept : Keeps orig s) :
    Keeps orig (resumeBehind s) := by
  unfold resumeBehind
  repeat' (first
    | with_reducible intro _ | with_reducible assumption | with_reducible apply keeps_foldl
    | with_reducible apply sqKick_keeps | with_reducible apply resumeHeld_keeps)

theorem resumeBlocked_keeps (s : State) (kept : Keeps orig s) :
    Keeps orig (resumeBlocked s) := by
  unfold resumeBlocked
  repeat' (first
    | with_reducible intro _ | with_reducible assumption | with_reducible apply keeps_foldl
    | with_reducible apply kickCk_keeps | with_reducible apply resumeJbnd_keeps | with_reducible apply kickJobs_keeps)

theorem pressureOff_keeps (s : State) (part : Nat) (kept : Keeps orig s) :
    Keeps orig (pressureOff s part) := by
  unfold pressureOff
  repeat' (first
    | with_reducible assumption | with_reducible apply cipherKick_keeps | with_reducible apply kickStreams_keeps
    | with_reducible apply kickPart_keeps | with_reducible apply resumeHeld_keeps)

theorem watchPressure_keeps (s : State) (kept : Keeps orig s) :
    Keeps orig (watchPressure s) := by
  unfold watchPressure
  repeat' (first
    | (simp -zeta only [keeps_mk_iff]) | with_reducible assumption | with_reducible apply keeps_foldl
    | with_reducible apply pressureOff_keeps)

theorem resumePower_keeps (s : State) (kept : Keeps orig s) :
    Keeps orig (resumePower s) := by
  unfold resumePower
  repeat' (first
    | with_reducible intro _ | with_reducible assumption | with_reducible apply keeps_ite
    | with_reducible apply resumeHeld_keeps)

theorem hooks_keeps (s : State) (kept : Keeps orig s) :
    Keeps orig (hooks s) := by
  unfold hooks
  repeat' (first
    | with_reducible intro _ | with_reducible assumption | with_reducible apply keeps_foldl
    | with_reducible apply resumePower_keeps | with_reducible apply watchPressure_keeps
    | with_reducible apply resumeBlocked_keeps | with_reducible apply resumeBehind_keeps
    | with_reducible apply resumeFreed_keeps | with_reducible apply noteReady_keeps
    | with_reducible apply answerFences_keeps | with_reducible apply answerWithdrawals_keeps
    | with_reducible apply answerInvals_keeps | with_reducible apply takeCkDone_keeps
    | with_reducible apply watchRebuilds_keeps | with_reducible apply rewriteLines_keeps
    | with_reducible apply trySave_keeps | with_reducible apply watchConns_keeps
    | with_reducible apply closeTasks_keeps | with_reducible apply watchColls_keeps
    | with_reducible apply tryUnbind_keeps)

theorem settleN_keeps  : ∀ (x0 : Nat) (x1 : State), Keeps orig x1 →
    Keeps orig (settleN x0 x1)
  | 0, s, kept => by
    unfold settleN
    repeat' (first
      | with_reducible assumption
      | (extract_lets +onlyGivenNames x; refine keeps_cut (r := orig) (u := x) ?_ (fun _ => ?_); rotate_left; clear_value x; revert x; intro _ _; rotate_left; (simp -zeta only [x]); clear x)
      | with_reducible apply hooks_keeps | with_reducible apply xferEnded_keeps | with_reducible apply delXfer_keeps
      | with_reducible apply settleN_keeps | split)
  | fuel + 1, s, kept => by
    unfold settleN
    repeat' (first
      | with_reducible assumption
      | (extract_lets +onlyGivenNames x; refine keeps_cut (r := orig) (u := x) ?_ (fun _ => ?_); rotate_left; clear_value x; revert x; intro _ _; rotate_left; (simp -zeta only [x]); clear x)
      | with_reducible apply hooks_keeps | with_reducible apply xferEnded_keeps | with_reducible apply delXfer_keeps
      | with_reducible apply settleN_keeps | split)

theorem settle_keeps (s : State) (kept : Keeps orig s) :
    Keeps orig (settle s) := by
  unfold settle
  repeat' (first
    | with_reducible assumption | with_reducible apply settleN_keeps | with_reducible apply flushAcks_keeps)

theorem done_keeps (s : State) (kept : Keeps orig s) :
    KeepsOut orig (done s) := by
  unfold done
  repeat' (first
    | with_reducible assumption | with_reducible apply keepsOut_next | with_reducible apply settle_keeps)

end Sys2Proof.Machine
end

