-- ==== Sys2Proof/Laws/Keeps/ImageOps.lean ====
section
/-! SUPPORT. The operations of Machine/ImageOps.lean keep what every operation keeps. -/

namespace Sys2Proof.Machine

open Sys2Proof

set_option linter.tactic.unusedName false

variable {orig res : State}

theorem loadImage_keeps (i : Image) (key : Nat) (s : State) (kept : Keeps orig s) :
    Keeps orig (loadImage i key s) := by
  unfold loadImage
  repeat' (first
    | with_reducible intro _ | with_reducible assumption | with_reducible apply keeps_foldl
    | with_reducible apply modSec_keeps | with_reducible apply loadFw_keeps | with_reducible apply modProc_keeps
    | split)

end Sys2Proof.Machine
end

