-- ==== Sys2Proof/Laws/Keeps/ResetOps.lean ====
section
/-! SUPPORT. The operations of Machine/ResetOps.lean keep what every operation keeps. -/

namespace Sys2Proof.Machine

open Sys2Proof

set_option linter.tactic.unusedName false

variable {orig res : State}

theorem keepFuses_fuses (c : Chip) : Fuses c (keepFuses c) := ⟨rfl, rfl, rfl, rfl, rfl⟩

theorem powerOnState_keeps (s : State) (kept : Keeps orig s) : Keeps orig (powerOnState s) :=
  ⟨kept.pending, fun w => Memory.wf_filter _ (kept.mem w), kept.out, kept.draws, kept.chip.trans (keepFuses_fuses _)⟩

theorem systemState_keeps (s : State) (kept : Keeps orig s) : Keeps orig (systemState s) :=
  ⟨kept.pending, fun w => Memory.wf_filter _ (kept.mem w), kept.out, kept.draws,
    kept.chip.trans ⟨rfl, rfl, rfl, rfl, rfl⟩⟩

theorem coreState_keeps (s : State) (kept : Keeps orig s) : Keeps orig (coreState s) :=
  ⟨kept.pending, fun w => Memory.wf_filter _ (kept.mem w), kept.out, kept.draws,
    kept.chip.trans ⟨rfl, rfl, rfl, rfl, rfl⟩⟩

theorem doReset_keeps (lvl : ResetLevel) (s : State) (kept : Keeps orig s) :
    Keeps orig (doReset lvl s) := by
  unfold doReset
  repeat' (first
    | with_reducible intro _ | with_reducible assumption | with_reducible apply keeps_ite
    | with_reducible apply coreState_keeps | with_reducible apply systemState_keeps
    | with_reducible apply powerOnState_keeps | with_reducible apply bump_keeps | with_reducible apply emit_keeps
    | split)

theorem setCause_keeps (bit : Nat) (s : State) (kept : Keeps orig s) :
    Keeps orig (setCause bit s) := by
  unfold setCause
  repeat' (first | with_reducible assumption | with_reducible refine keeps_chip ?_ (fuses_keep _))

theorem assertReset_keeps (lvl : ResetLevel) (bit : Nat) (s : State) (kept : Keeps orig s) :
    Keeps orig (assertReset lvl bit s) := by
  unfold assertReset
  repeat' (first
    | with_reducible intro _ | with_reducible assumption | with_reducible apply keeps_ite
    | with_reducible apply setCause_keeps | with_reducible apply doReset_keeps
    | with_reducible refine keeps_chip ?_ (fuses_keep _))

theorem assertFault_keeps (s : State) (kept : Keeps orig s) :
    Keeps orig (assertFault s) := by
  unfold assertFault
  repeat' (first
    | with_reducible assumption | with_reducible apply emit_keeps
    | with_reducible refine keeps_chip ?_ (fuses_keep _))

theorem stopDevice_keeps (s : State) (kept : Keeps orig s) :
    Keeps orig (stopDevice s) := by
  unfold stopDevice
  repeat' (first
    | (simp -zeta only [keeps_mk_iff]) | with_reducible assumption | with_reducible apply assertFault_keeps
    | with_reducible apply startFlush_keeps)

theorem unarmedFault_keeps (bit : Nat) (s : State) (kept : Keeps orig s) :
    Keeps orig (unarmedFault bit s) := by
  unfold unarmedFault
  repeat' (first
    | with_reducible assumption | with_reducible apply stopDevice_keeps | with_reducible apply setCause_keeps)

theorem faultSource_keeps (bit : Nat) (s : State) (kept : Keeps orig s) :
    Keeps orig (faultSource bit s) := by
  unfold faultSource
  repeat' (first
    | with_reducible intro _ | with_reducible assumption | with_reducible apply keeps_ite
    | with_reducible apply unarmedFault_keeps | with_reducible apply assertReset_keeps)

theorem writeDump_keeps (p cause exc : Nat) (s : State) (kept : Keeps orig s) :
    Keeps orig (writeDump p cause exc s) := by
  unfold writeDump
  repeat' (first
    | with_reducible intro _ | with_reducible assumption | with_reducible apply keeps_ite
    | with_reducible apply modProc_keeps | with_reducible apply Memory.wf_copyRange
    | with_reducible apply Memory.wf_clearRange | with_reducible apply Memory.wf_mwrN
    | with_reducible refine keeps_mem ?_ (fun _ => ?_))

theorem refuseServed_keeps (p : Nat) (all : Bool) (s : State) (kept : Keeps orig s) :
    Keeps orig (refuseServed p all s) := by
  unfold refuseServed
  repeat' (first
    | with_reducible intro _ | with_reducible assumption
    | (extract_lets +onlyGivenNames x; clear_value x; revert x; intro _) | with_reducible apply keeps_foldl
    | with_reducible apply answer_keeps | split)

theorem refuseRelayed_keeps (b : Nat) (s : State) (kept : Keeps orig s) :
    Keeps orig (refuseRelayed b s) := by
  unfold refuseRelayed
  repeat' (first
    | with_reducible intro _ | with_reducible assumption | with_reducible apply keeps_foldl
    | with_reducible apply modBind_keeps | with_reducible apply modSlot_keeps | with_reducible apply finish_keeps
    | split)

theorem rollBack_keeps (p : Nat) (s : State) (kept : Keeps orig s) :
    Keeps orig (rollBack p s) := by
  unfold rollBack
  repeat' (first
    | with_reducible assumption
    | (extract_lets +onlyGivenNames x; refine keeps_cut (r := orig) (u := x) ?_ (fun _ => ?_); rotate_left; clear_value x; revert x; intro _ _; rotate_left; (simp -zeta only [x]); clear x)
    | (extract_lets +onlyGivenNames x; clear_value x; revert x; intro _) | with_reducible apply modSec_keeps
    | with_reducible apply loadFw_keeps | with_reducible apply fwEvent_keeps | with_reducible apply modProc_keeps
    | split)

theorem governed_keeps (p : Nat) (s : State) (kept : Keeps orig s) :
    Keeps orig (governed p s) := by
  unfold governed
  repeat' (first
    | (simp -zeta only [keeps_mk_iff]) | with_reducible intro _ | with_reducible assumption
    | with_reducible apply keeps_ite | with_reducible apply event_keeps)

theorem procCrash_keeps (p cause exc : Nat) (s : State) (kept : Keeps orig s) :
    Keeps orig (procCrash p cause exc s) := by
  unfold procCrash
  repeat' (first
    | with_reducible intro _ | with_reducible assumption | with_reducible apply keeps_ite
    | with_reducible apply governed_keeps | with_reducible apply rollBack_keeps
    | with_reducible apply refuseRelayed_keeps | with_reducible apply refuseServed_keeps
    | with_reducible apply writeDump_keeps | with_reducible apply faultSource_keeps
    | with_reducible apply fwEvent_keeps | with_reducible apply startFlush_keeps | with_reducible apply modProc_keeps)

end Sys2Proof.Machine
end

