-- ==== Sys2Proof/Laws/Keeps/XlCmds.lean ====
section
/-! SUPPORT. The operations of Machine/XlCmds.lean keep what every operation keeps. -/

namespace Sys2Proof.Machine

open Sys2Proof

set_option linter.tactic.unusedName false

variable {orig res : State}

theorem dropScope_keeps (part : Nat) (sc : InvScope) (s : State) (kept : Keeps orig s) :
    Keeps orig (dropScope part sc s) := by
  unfold dropScope
  repeat' (first
    | (simp -zeta only [keeps_mk_iff]) | with_reducible assumption
    | (extract_lets +onlyGivenNames x; clear_value x; revert x; intro _))

theorem invalidate_keeps (r : MbRef) (part : Nat) (sc : InvScope) (s : State) (kept : Keeps orig s) :
    Keeps orig (invalidate r part sc s) := by
  unfold invalidate
  repeat' (first
    | (simp -zeta only [keeps_mk_iff]) | with_reducible assumption
    | (extract_lets +onlyGivenNames x; refine keeps_cut (r := orig) (u := x) ?_ (fun _ => ?_); rotate_left; clear_value x; revert x; intro _ _; rotate_left; (simp -zeta only [x]); clear x)
    | (extract_lets +onlyGivenNames x; clear_value x; revert x; intro _) | with_reducible apply dropScope_keeps)

theorem execInvalidate_keeps (c : Call) (scope : InvScope) (s : State) (kept : Keeps orig s) :
    KeepsOut orig (execInvalidate c scope s) := by
  unfold execInvalidate
  repeat' (first
    | with_reducible intro _ | with_reducible assumption | with_reducible apply keepsAns_ite
    | with_reducible apply keepsAns_reject | with_reducible apply keepsAns_later
    | with_reducible apply invalidate_keeps | with_reducible apply done_keeps | with_reducible apply serve_keeps)

theorem execSetTranslation_keeps (c : Call) (p : TransSet) (s : State) (kept : Keeps orig s) :
    KeepsOut orig (execSetTranslation c p s) := by
  unfold execSetTranslation
  repeat' (first
    | with_reducible intro _ | with_reducible assumption | with_reducible apply keepsAns_ite
    | with_reducible apply keepsAns_reject | with_reducible apply keepsAns_later
    | with_reducible apply invalidate_keeps | with_reducible apply done_keeps | with_reducible apply serve_keeps
    | with_reducible apply modTrans_keeps)

theorem execReadTranslation_keeps (c : Call) (cursor : Nat) (s : State) (kept : Keeps orig s) :
    KeepsOut orig (execReadTranslation c cursor s) := by
  unfold execReadTranslation
  repeat' (first
    | with_reducible assumption | with_reducible apply keepsOut_next | with_reducible apply serveRead_keeps)

theorem execReadFaults_keeps (c : Call) (cursor : Nat) (s : State) (kept : Keeps orig s) :
    KeepsOut orig (execReadFaults c cursor s) := by
  unfold execReadFaults
  repeat' (first
    | with_reducible assumption | with_reducible apply keepsOut_next | with_reducible apply serveRead_keeps)

theorem countHostEnd_keeps (func : Nat) (how : HostEnd) (s : State) (kept : Keeps orig s) :
    Keeps orig (countHostEnd func how s) := by
  unfold countHostEnd
  repeat' (first
    | with_reducible assumption | with_reducible apply bump_keeps | with_reducible apply emit_keeps | split)

theorem execDmaTransferUnit_keeps (x : Nat) (ecc : List EccHit) (s : State) (kept : Keeps orig s) :
    KeepsOut orig (execDmaTransferUnit x ecc s) := by
  unfold execDmaTransferUnit
  repeat' (first | with_reducible assumption | with_reducible apply done_keeps | with_reducible apply runReady_keeps)

theorem endWalk_keeps (w : Nat) (k : Walk) (f : Nat → Nat → State → State) (s : State)
    (hf : ∀ x va t, Keeps orig t → Keeps orig (f x va t)) (kept : Keeps orig s) : Keeps orig (endWalk w k f s) := by
  unfold endWalk
  exact drainWalks_keeps _ _ (keeps_foldl (fun _ _ h => hf _ _ _ h) _ (keeps_mk kept))

theorem unitGoesOn_keeps (va : Nat) (l : Option Leaf) (x : Nat) (s : State) (kept : Keeps orig s) :
    Keeps orig (unitGoesOn va l x s) := by
  unfold unitGoesOn
  repeat' (first
    | with_reducible assumption | with_reducible apply runUnit_keeps | with_reducible apply modXfer_keeps)

theorem unitFaults_keeps (reason pte level : Nat) (x va : Nat) (s : State) (kept : Keeps orig s) :
    Keeps orig (unitFaults reason pte level x va s) := by
  unfold unitFaults
  repeat' (first | with_reducible assumption | with_reducible apply stallXfer_keeps | split)

theorem walkRead_keeps (w : Nat) (k : Walk) (s : State) (kept : Keeps orig s) :
    Keeps orig (walkRead w k s) := by
  unfold walkRead
  repeat' (first
    | (simp -zeta only [keeps_mk_iff]) | with_reducible intro _ | with_reducible assumption
    | with_reducible apply keeps_ite | with_reducible apply unitFaults_keeps | with_reducible apply unitGoesOn_keeps
    | with_reducible apply endWalk_keeps | with_reducible apply holdXfer_keeps
    | with_reducible apply sendWalkRead_keeps | with_reducible apply wcPut_keeps
    | with_reducible apply tlbTouch_keeps | with_reducible apply bump_keeps | split)

theorem execWalkComplete_keeps (w : Nat) (how : HostEnd) (stores : List HostStore) (s : State) (kept : Keeps orig s) :
    KeepsOut orig (execWalkComplete w how stores s) := by
  unfold execWalkComplete
  repeat' (first
    | with_reducible intro _ | with_reducible assumption | with_reducible apply keepsOut_next
    | with_reducible apply walkRead_keeps | with_reducible apply endWalk_keeps
    | with_reducible apply countHostEnd_keeps | with_reducible apply done_keeps | with_reducible apply failUnit_keeps
    | with_reducible apply hostStores_keeps | with_reducible apply bump_keeps | split)

theorem execFaultTimeout_keeps (x : Nat) (s : State) (kept : Keeps orig s) :
    KeepsOut orig (execFaultTimeout x s) := by
  unfold execFaultTimeout
  repeat' (first
    | with_reducible assumption | with_reducible apply keepsOut_next | with_reducible apply done_keeps
    | with_reducible apply failUnit_keeps | with_reducible apply expireFault_keeps | with_reducible apply bump_keeps
    | split)

theorem hostAnswer_keeps (tag : Nat) (r : HostReq) (how : HostEnd) (bytes : List Byte) (s : State) (kept : Keeps orig s) :
    Keeps orig (hostAnswer tag r how bytes s) := by
  unfold hostAnswer
  repeat' (first
    | (simp -zeta only [keeps_mk_iff]) | with_reducible intro _ | with_reducible assumption
    | with_reducible apply keeps_foldl | with_reducible apply countHostEnd_keeps
    | with_reducible apply pumpWaiting_keeps | with_reducible apply advance_keeps
    | with_reducible apply failHostPart_keeps | with_reducible apply failPart_keeps
    | with_reducible apply modXfer_keeps | with_reducible apply wrMem_keeps | with_reducible apply bump_keeps | split)

theorem execHostReadCompletion_keeps (tag : Nat) (how : HostEnd) (bytes : List Byte) (s : State) (kept : Keeps orig s) :
    KeepsOut orig (execHostReadCompletion tag how bytes s) := by
  unfold execHostReadCompletion
  repeat' (first
    | with_reducible assumption | with_reducible apply keepsOut_next | with_reducible apply hostAnswer_keeps
    | with_reducible apply done_keeps | split)

theorem execCompletionTimeout_keeps (tag : Nat) (s : State) (kept : Keeps orig s) :
    KeepsOut orig (execCompletionTimeout tag s) := by
  unfold execCompletionTimeout
  repeat' (first
    | with_reducible assumption | with_reducible apply keepsOut_next | with_reducible apply hostAnswer_keeps
    | with_reducible apply done_keeps | split)

theorem execZeroLengthRead_keeps (func : Nat) (s : State) (kept : Keeps orig s) :
    KeepsOut orig (execZeroLengthRead func s) := by
  unfold execZeroLengthRead
  repeat' (first
    | (simp -zeta only [keeps_mk_iff]) | with_reducible intro _ | with_reducible assumption
    | with_reducible apply keepsOut_ite | with_reducible apply keepsOut_next | with_reducible apply keeps_foldl
    | with_reducible apply modXfer_keeps | with_reducible apply bump_keeps | with_reducible apply emit_keeps | split)

theorem functionSends_keeps (func : Nat) (s : State) (kept : Keeps orig s) :
    Keeps orig (functionSends func s) := by
  unfold functionSends
  repeat' (first
    | with_reducible intro _ | with_reducible assumption | with_reducible apply keeps_ite
    | with_reducible apply resumeHeld_keeps | with_reducible apply drainFaults_keeps)

theorem execHeldAccessResume_keeps (func : Nat) (s : State) (kept : Keeps orig s) :
    KeepsOut orig (execHeldAccessResume func s) := by
  unfold execHeldAccessResume
  repeat' (first
    | with_reducible assumption | with_reducible apply functionSends_keeps | with_reducible apply done_keeps)

end Sys2Proof.Machine
end

