-- ==== Sys2Proof/Laws/Keeps/CollCmds.lean ====
section
/-! SUPPORT. The operations of Machine/CollCmds.lean keep what every operation keeps. -/

namespace Sys2Proof.Machine

open Sys2Proof

set_option linter.tactic.unusedName false

variable {orig res : State}

theorem readRanks_keeps (part table : Nat) : ∀ (x0 : List Nat) (x1 : State), Keeps orig x1 →
    Keeps orig (readRanks part table x0 x1).2
  | [], s, kept => by
    unfold readRanks
    repeat' (first
      | with_reducible assumption | with_reducible apply fwRead_keeps | with_reducible apply readRanks_keeps
      | with_reducible refine keepsSnd_use (by assumption) ?_ | split)
  | r :: rs, s, kept => by
    unfold readRanks
    repeat' (first
      | with_reducible assumption | with_reducible apply fwRead_keeps | with_reducible apply readRanks_keeps
      | with_reducible refine keepsSnd_use (by assumption) ?_ | split)

theorem bindEdges_keeps (es : List CEdge) (b : Nat) (s : State) (kept : Keeps orig s) :
    Keeps orig (bindEdges es b s) := by
  unfold bindEdges
  repeat' (first
    | with_reducible intro _ | with_reducible assumption | with_reducible apply keeps_foldl
    | with_reducible apply modQp_keeps)

theorem takeResiduals_keeps (h : Nat) (g : CGroup) (s : State) (kept : Keeps orig s) :
    KeepsOpt orig (takeResiduals h g s) := by
  unfold takeResiduals
  repeat' (first
    | with_reducible intro _ | with_reducible assumption | with_reducible apply keepsOpt_ite
    | with_reducible exact keepsOpt_none | with_reducible apply keepsOpt_some | with_reducible apply reserve_keeps
    | with_reducible refine keepsOpt2_use (by assumption) ?_ | with_reducible apply Memory.wf_clearRange
    | with_reducible refine keeps_mem ?_ (fun _ => ?_) | split)

theorem createGroup_keeps (part : Nat) (bs : List Byte) (s : State) (kept : Keeps orig s) :
    KeepsAns orig (createGroup part bs s) := by
  unfold createGroup
  repeat' (first
    | with_reducible intro _ | with_reducible assumption | with_reducible apply keepsAns_ite
    | with_reducible apply keepsAns_reject | with_reducible apply keepsAns_ok
    | with_reducible apply takeResiduals_keeps | with_reducible apply bindEdges_keeps
    | with_reducible apply readRanks_keeps | with_reducible apply modCu_keeps
    | with_reducible refine keepsAns_use_ok (by assumption) ?_
    | with_reducible refine keepsSnd_use (by assumption) ?_ | with_reducible refine keepsOpt_use (by assumption) ?_
    | split)

theorem execCreateGroup_keeps (c : Call) (s : State) (kept : Keeps orig s) :
    KeepsOut orig (execCreateGroup c s) := by
  unfold execCreateGroup
  repeat' (first
    | with_reducible intro _ | with_reducible assumption | with_reducible apply keepsOut_next
    | with_reducible apply createGroup_keeps | with_reducible apply serve_keeps)

theorem execDestroyGroup_keeps (c : Call) (handle : Nat) (s : State) (kept : Keeps orig s) :
    KeepsOut orig (execDestroyGroup c handle s) := by
  unfold execDestroyGroup
  repeat' (first
    | with_reducible intro _ | with_reducible assumption | with_reducible apply keepsOut_next
    | with_reducible apply keepsAns_reject | with_reducible apply keepsAns_ok | with_reducible apply bindEdges_keeps
    | with_reducible apply modCu_keeps | with_reducible apply unreserve_keeps | with_reducible apply serve_keeps
    | split)

theorem stageChange_keeps (k : StagedKind) (mb : MbRef) (s : State) (kept : Keeps orig s) : Keeps orig (stageChange k mb s) := keeps_mk kept

theorem execSetGroupMode_keeps (c : Call) (handle fmt effSeq : Nat) (s : State) (kept : Keeps orig s) :
    KeepsOut orig (execSetGroupMode c handle fmt effSeq s) := by
  unfold execSetGroupMode
  repeat' (first
    | with_reducible intro _ | with_reducible assumption | with_reducible apply keepsOut_next
    | with_reducible apply keepsAns_reject | with_reducible apply keepsAns_later
    | with_reducible apply stageChange_keeps | with_reducible apply serve_keeps | split)

theorem execReadCollGroups_keeps (c : Call) (cursor : Nat) (s : State) (kept : Keeps orig s) :
    KeepsOut orig (execReadCollGroups c cursor s) := by
  unfold execReadCollGroups
  repeat' (first
    | with_reducible assumption | with_reducible apply keepsOut_next | with_reducible apply serveRead_keeps)

theorem execReadCollectives_keeps (c : Call) (cursor : Nat) (s : State) (kept : Keeps orig s) :
    KeepsOut orig (execReadCollectives c cursor s) := by
  unfold execReadCollectives
  repeat' (first
    | with_reducible assumption | with_reducible apply keepsOut_next | with_reducible apply serveRead_keeps)

theorem dropOverShare_keeps (part : Nat) (s : State) (kept : Keeps orig s) :
    Keeps orig (dropOverShare part s) := by
  unfold dropOverShare
  repeat' (first
    | with_reducible intro _ | with_reducible assumption | with_reducible apply keeps_foldl
    | with_reducible apply collFail_keeps)

theorem execSetAccumShare_keeps (c : Call) (mib : Nat) (s : State) (kept : Keeps orig s) :
    KeepsOut orig (execSetAccumShare c mib s) := by
  unfold execSetAccumShare
  repeat' (first
    | with_reducible intro _ | with_reducible assumption | with_reducible apply keepsAns_ite
    | with_reducible apply keepsAns_reject | with_reducible apply keepsAns_ok
    | with_reducible apply dropOverShare_keeps | with_reducible apply done_keeps | with_reducible apply serve_keeps
    | with_reducible apply modPart_keeps)

theorem execCollAdmit_keeps (id : Nat) (s : State) (kept : Keeps orig s) :
    KeepsOut orig (execCollAdmit id s) := by
  unfold execCollAdmit
  repeat' (first
    | with_reducible intro _ | with_reducible assumption | with_reducible apply keeps_ite
    | with_reducible apply done_keeps | with_reducible apply admitColl_keeps | with_reducible apply wakeFor_keeps)

theorem collWaiting_keeps (i : Nat) (s : State) (kept : Keeps orig s) :
    KeepsOpt3 orig (collWaiting i s) := by
  unfold collWaiting
  repeat' (first
    | (simp -zeta only [keeps_mk_iff]) | with_reducible assumption
    | (extract_lets +onlyGivenNames x; clear_value x; revert x; intro _) | with_reducible exact keepsOpt3_none
    | with_reducible apply keepsOpt3_some | split)

theorem collTake_keeps (p : Nat → Bool) (i : Nat) (s : State) (kept : Keeps orig s) :
    Keeps orig (collTake p i s) := by
  unfold collTake
  repeat' (first
    | with_reducible assumption | with_reducible apply collWaiting_keeps | with_reducible apply collMessage_keeps
    | with_reducible refine keepsOpt3_use (by assumption) ?_ | split)

theorem execCollData_keeps (i : Nat) (s : State) (kept : Keeps orig s) :
    KeepsOut orig (execCollData i s) := by
  unfold execCollData
  repeat' (first | with_reducible assumption | with_reducible apply collTake_keeps | with_reducible apply done_keeps)

theorem execCollCredit_keeps (i : Nat) (s : State) (kept : Keeps orig s) :
    KeepsOut orig (execCollCredit i s) := by
  unfold execCollCredit
  repeat' (first | with_reducible assumption | with_reducible apply collTake_keeps | with_reducible apply done_keeps)

theorem execCollAbort_keeps (i : Nat) (s : State) (kept : Keeps orig s) :
    KeepsOut orig (execCollAbort i s) := by
  unfold execCollAbort
  repeat' (first | with_reducible assumption | with_reducible apply collTake_keeps | with_reducible apply done_keeps)

theorem execCollPeerTimeout_keeps (id : Nat) (s : State) (kept : Keeps orig s) :
    KeepsOut orig (execCollPeerTimeout id s) := by
  unfold execCollPeerTimeout
  repeat' (first
    | with_reducible assumption | with_reducible apply done_keeps | with_reducible apply collFail_keeps | split)

theorem execChunkFinished_keeps (id chunk : Nat) (s : State) (kept : Keeps orig s) :
    KeepsOut orig (execChunkFinished id chunk s) := by
  unfold execChunkFinished
  repeat' (first
    | with_reducible assumption | with_reducible apply done_keeps | with_reducible apply modColl_keeps
    | with_reducible apply tallyAdd_keeps | split)

theorem execCollComplete_keeps (id : Nat) (s : State) (kept : Keeps orig s) :
    KeepsOut orig (execCollComplete id s) := by
  unfold execCollComplete
  repeat' (first
    | with_reducible assumption | with_reducible apply done_keeps | with_reducible apply completeColl_keeps | split)

theorem execCollEnd_keeps (id : Nat) (s : State) (kept : Keeps orig s) :
    KeepsOut orig (execCollEnd id s) := by
  unfold execCollEnd
  repeat' (first
    | with_reducible assumption | with_reducible apply done_keeps | with_reducible apply endColl_keeps | split)

end Sys2Proof.Machine
end

