-- ==== Sys2Proof/Laws/Keeps/QueueCmds.lean ====
section
/-! SUPPORT. The operations of Machine/QueueCmds.lean keep what every operation keeps. -/

namespace Sys2Proof.Machine

open Sys2Proof

set_option linter.tactic.unusedName false

variable {orig res : State}

theorem execCreateQp_keeps (c : Call) (s : State) (kept : Keeps orig s) :
    KeepsOut orig (execCreateQp c s) := by
  unfold execCreateQp
  repeat' (first
    | with_reducible intro _ | with_reducible assumption | with_reducible apply keepsOut_next
    | with_reducible apply keepsAns_reject | with_reducible apply keepsAns_ok | with_reducible apply newQp_keeps
    | with_reducible apply serve_keeps | with_reducible refine keepsOpt2_use (by assumption) ?_ | split)

theorem cancelXfer_keeps (x : Nat) (s : State) (kept : Keeps orig s) :
    Keeps orig (cancelXfer x s) := by
  unfold cancelXfer
  repeat' (first
    | with_reducible assumption | with_reducible apply endXfer_keeps | with_reducible apply dropFault_keeps
    | with_reducible apply delXfer_keeps | split)

theorem quietQp_keeps (n : Nat) (s : State) (kept : Keeps orig s) :
    Keeps orig (quietQp n s) := by
  unfold quietQp
  repeat' (first
    | with_reducible intro _ | with_reducible assumption | with_reducible apply keeps_foldl
    | with_reducible apply cancelXfer_keeps)

theorem resetQp_keeps (n : Nat) (s : State) (kept : Keeps orig s) :
    Keeps orig (resetQp n s) := by
  unfold resetQp
  repeat' (first | with_reducible assumption | with_reducible apply quietQp_keeps | with_reducible apply modQp_keeps)

theorem bareModify_keeps (ctx : List Byte) (a : Ans) (h : KeepsAns orig a) : KeepsAns orig (bareModify ctx a) := by
  unfold bareModify
  exact keepsAns_ite (fun _ => h) (fun _ => keepsAns_reject)

theorem modifyQp_keeps (c : Call) (n : Nat) (q : Qp) (ctx : List Byte) (s : State) (kept : Keeps orig s) :
    KeepsAns orig (modifyQp c n q ctx s) := by
  unfold modifyQp
  repeat' (first
    | with_reducible assumption | with_reducible apply keepsAns_reject | with_reducible apply keepsAns_ok
    | with_reducible apply bareModify_keeps | with_reducible apply resetQp_keeps | with_reducible apply quietQp_keeps
    | with_reducible apply failQp_keeps | with_reducible apply kickPart_keeps | with_reducible apply qpKick_keeps
    | with_reducible apply modQp_keeps | split)

theorem execModifyQp_keeps (c : Call) (qpn : Nat) (goal : Byte) (ctx : List Byte) (s : State) (kept : Keeps orig s) :
    KeepsOut orig (execModifyQp c qpn goal ctx s) := by
  unfold execModifyQp
  repeat' (first
    | with_reducible intro _ | with_reducible assumption | with_reducible apply keepsAns_reject
    | with_reducible apply modifyQp_keeps | with_reducible apply done_keeps | with_reducible apply serve_keeps
    | split)

theorem execDestroyQp_keeps (c : Call) (qpn : Nat) (s : State) (kept : Keeps orig s) :
    KeepsOut orig (execDestroyQp c qpn s) := by
  unfold execDestroyQp
  repeat' (first
    | with_reducible intro _ | with_reducible assumption | with_reducible apply keepsAns_reject
    | with_reducible apply keepsAns_ok | with_reducible apply quietQp_keeps | with_reducible apply done_keeps
    | with_reducible apply dropQp_keeps | with_reducible apply serve_keeps | split)

theorem execReadQp_keeps (c : Call) (which : QpPage) (s : State) (kept : Keeps orig s) :
    KeepsOut orig (execReadQp c which s) := by
  unfold execReadQp
  repeat' (first
    | with_reducible intro _ | with_reducible assumption | with_reducible apply keepsOut_next
    | with_reducible apply keepsAns_reject | with_reducible apply pageRead_keeps | with_reducible apply serve_keeps
    | split)

theorem execCreateCq_keeps (c : Call) (base log vec count time : Nat) (s : State) (kept : Keeps orig s) :
    KeepsOut orig (execCreateCq c base log vec count time s) := by
  unfold execCreateCq
  repeat' (first
    | with_reducible intro _ | with_reducible assumption | with_reducible apply keepsAns_ite
    | with_reducible apply keepsOut_next | with_reducible apply keepsAns_reject | with_reducible apply keepsAns_ok
    | with_reducible apply modQe_keeps | with_reducible apply serve_keeps)

theorem execDestroyCq_keeps (c : Call) (cqn : Nat) (s : State) (kept : Keeps orig s) :
    KeepsOut orig (execDestroyCq c cqn s) := by
  unfold execDestroyCq
  repeat' (first
    | with_reducible intro _ | with_reducible assumption | with_reducible apply keepsOut_next
    | with_reducible apply keepsAns_reject | with_reducible apply keepsAns_ok | with_reducible apply modQe_keeps
    | with_reducible apply serve_keeps | split)

theorem execReadCq_keeps (c : Call) (cursor : Nat) (s : State) (kept : Keeps orig s) :
    KeepsOut orig (execReadCq c cursor s) := by
  unfold execReadCq
  repeat' (first
    | with_reducible assumption | with_reducible apply keepsOut_next | with_reducible apply serveRead_keeps)

theorem execCqModerationTimer_keeps (cqn : Nat) (s : State) (kept : Keeps orig s) :
    KeepsOut orig (execCqModerationTimer cqn s) := by
  unfold execCqModerationTimer
  repeat' (first
    | with_reducible assumption | with_reducible apply keepsOut_next | with_reducible apply cqFire_keeps | split)

theorem execIssuePass_keeps (c : Call) (p : PassSet) (s : State) (kept : Keeps orig s) :
    KeepsOut orig (execIssuePass c p s) := by
  unfold execIssuePass
  repeat' (first
    | with_reducible intro _ | with_reducible assumption | with_reducible apply keepsOut_next
    | with_reducible apply keepsAns_reject | with_reducible apply keepsAns_ok | with_reducible apply issuePass_keeps
    | with_reducible apply serve_keeps | with_reducible refine keepsOpt2_use (by assumption) ?_ | split)

theorem execRevokePass_keeps (c : Call) (key : Nat) (s : State) (kept : Keeps orig s) :
    KeepsOut orig (execRevokePass c key s) := by
  unfold execRevokePass
  repeat' (first
    | with_reducible intro _ | with_reducible assumption | with_reducible apply keepsAns_reject
    | with_reducible apply keepsAns_later | with_reducible apply done_keeps | with_reducible apply beginRevoke_keeps
    | with_reducible apply serve_keeps | split)

theorem execPassDrained_keeps (idx : Nat) (s : State) (kept : Keeps orig s) :
    KeepsOut orig (execPassDrained idx s) := by
  unfold execPassDrained
  repeat' (first | with_reducible assumption | with_reducible apply done_keeps | with_reducible apply tryDrain_keeps)

theorem execReadPasses_keeps (c : Call) (cursor : Nat) (s : State) (kept : Keeps orig s) :
    KeepsOut orig (execReadPasses c cursor s) := by
  unfold execReadPasses
  repeat' (first
    | with_reducible assumption | with_reducible apply keepsOut_next | with_reducible apply serveRead_keeps)

theorem execTallySet_keeps (c : Call) (handle : Nat) (value : DWord) (s : State) (kept : Keeps orig s) :
    KeepsOut orig (execTallySet c handle value s) := by
  unfold execTallySet
  repeat' (first
    | with_reducible intro _ | with_reducible assumption | with_reducible apply keepsAns_ite
    | with_reducible apply keepsOut_next | with_reducible apply keepsAns_reject | with_reducible apply keepsAns_ok
    | with_reducible apply tallyPut_keeps | with_reducible apply serve_keeps)

theorem execTallyRead_keeps (c : Call) (handle count cursor : Nat) (s : State) (kept : Keeps orig s) :
    KeepsOut orig (execTallyRead c handle count cursor s) := by
  unfold execTallyRead
  repeat' (first
    | with_reducible intro _ | with_reducible assumption | with_reducible apply keepsAns_ite
    | with_reducible apply keepsOut_next | with_reducible apply keepsAns_reject | with_reducible apply page_keeps
    | with_reducible apply serve_keeps)

theorem releaseWait_keeps (n : Nat) (s : State) (kept : Keeps orig s) :
    Keeps orig (releaseWait n s) := by
  unfold releaseWait
  repeat' (first
    | with_reducible assumption | with_reducible apply sqKick_keeps | with_reducible apply setOp_keeps
    | with_reducible apply bump_keeps | split)

theorem execWaitRelease_keeps (qpn : Nat) (s : State) (kept : Keeps orig s) :
    KeepsOut orig (execWaitRelease qpn s) := by
  unfold execWaitRelease
  repeat' (first
    | with_reducible assumption | with_reducible apply releaseWait_keeps | with_reducible apply done_keeps)

theorem trimPasses_keeps (part : Nat) (s : State) (kept : Keeps orig s) :
    Keeps orig (trimPasses part s) := by
  unfold trimPasses
  repeat' (first | with_reducible assumption | with_reducible apply modQe_keeps)

theorem setGrants_keeps (p qps cqs passes tallies : Nat) (g z : Part) (s : State) (kept : Keeps orig s) :
    KeepsAns orig (setGrants p qps cqs passes tallies g z s) := by
  unfold setGrants
  repeat' (first
    | with_reducible intro _ | with_reducible assumption | with_reducible apply keepsAns_ite
    | with_reducible apply keepsAns_reject | with_reducible apply keepsAns_ok | with_reducible apply trimPasses_keeps
    | with_reducible apply modPart_keeps)

theorem execSetQueueGrant_keeps (c : Call) (qps cqs passes tallies : Nat) (s : State) (kept : Keeps orig s) :
    KeepsOut orig (execSetQueueGrant c qps cqs passes tallies s) := by
  unfold execSetQueueGrant
  repeat' (first
    | with_reducible intro _ | with_reducible assumption | with_reducible apply keepsOut_next
    | with_reducible apply keepsAns_reject | with_reducible apply setGrants_keeps | with_reducible apply serve_keeps
    | split)

end Sys2Proof.Machine
end

