-- ==== Sys2Proof/Laws/Keeps/StorageCmds.lean ====
section
/-! SUPPORT. The operations of Machine/StorageCmds.lean keep what every operation keeps. -/

namespace Sys2Proof.Machine

open Sys2Proof

set_option linter.tactic.unusedName false

variable {orig res : State}

theorem execReadStorage_keeps (c : Call) (cursor : Nat) (s : State) (kept : Keeps orig s) :
    KeepsOut orig (execReadStorage c cursor s) := by
  unfold execReadStorage
  repeat' (first
    | with_reducible assumption | with_reducible apply keepsOut_next | with_reducible apply serveRead_keeps)

theorem execReadStorageErrlog_keeps (c : Call) (cursor : Nat) (s : State) (kept : Keeps orig s) :
    KeepsOut orig (execReadStorageErrlog c cursor s) := by
  unfold execReadStorageErrlog
  repeat' (first
    | with_reducible assumption | with_reducible apply keepsOut_next | with_reducible apply serveRead_keeps)

theorem createQps_keeps (part bound : Nat) (p : ConnSet) : ∀ (x0 : List (Nat × Nat)) (x1 : State), Keeps orig x1 →
    KeepsOpt2 orig (createQps part bound p x0 x1)
  | [], s, kept => by
    unfold createQps
    repeat' (first
      | with_reducible assumption | with_reducible exact keepsOpt2_none | with_reducible apply keepsOpt2_some
      | with_reducible apply newQp_keeps | with_reducible apply modQp_keeps | with_reducible apply createQps_keeps
      | with_reducible refine keepsOpt2_use (by assumption) ?_ | split)
  | peer :: rest, s, kept => by
    unfold createQps
    repeat' (first
      | with_reducible assumption | with_reducible exact keepsOpt2_none | with_reducible apply keepsOpt2_some
      | with_reducible apply newQp_keeps | with_reducible apply modQp_keeps | with_reducible apply createQps_keeps
      | with_reducible refine keepsOpt2_use (by assumption) ?_ | split)

theorem execStorageConnect_keeps (c : Call) (p : ConnSet) (mqes : Option Nat) (s : State) (kept : Keeps orig s) :
    KeepsOut orig (execStorageConnect c p mqes s) := by
  unfold execStorageConnect
  repeat' (first
    | with_reducible intro _ | with_reducible assumption | with_reducible apply keepsAns_reject
    | with_reducible apply keepsAns_ok | with_reducible apply createQps_keeps | with_reducible apply done_keeps
    | with_reducible apply modSb_keeps | with_reducible apply serve_keeps
    | with_reducible refine keepsOpt2_use (by assumption) ?_ | split)

theorem execStorageDisconnect_keeps (c : Call) (conn : Nat) (s : State) (kept : Keeps orig s) :
    KeepsOut orig (execStorageDisconnect c conn s) := by
  unfold execStorageDisconnect
  repeat' (first
    | with_reducible intro _ | with_reducible assumption | with_reducible apply keepsAns_reject
    | with_reducible apply keepsAns_ok | with_reducible apply keeps_foldl | with_reducible apply quietQp_keeps
    | with_reducible apply done_keeps | with_reducible apply modSb_keeps | with_reducible apply dropQp_keeps
    | with_reducible apply serve_keeps | split)

theorem execKeepAlive_keeps (conn : Nat) (ok : Bool) (s : State) (kept : Keeps orig s) :
    KeepsOut orig (execKeepAlive conn ok s) := by
  unfold execKeepAlive
  repeat' (first
    | with_reducible assumption | with_reducible apply done_keeps | with_reducible apply loseConn_keeps | split)

theorem execReconnectAttempt_keeps (conn : Nat) (ok : Bool) (peers : List (Nat × Nat)) (s : State) (kept : Keeps orig s) :
    KeepsOut orig (execReconnectAttempt conn ok peers s) := by
  unfold execReconnectAttempt
  repeat' (first
    | with_reducible intro _ | with_reducible assumption | with_reducible apply keeps_foldl
    | with_reducible apply quietQp_keeps | with_reducible apply done_keeps | with_reducible apply modConn_keeps
    | with_reducible apply modQp_keeps | split)

theorem execNsCreate_keeps (c : Call) (conn nsid : Nat) (nonatomic : Bool) (target : Option TargetNs) (s : State) (kept : Keeps orig s) :
    KeepsOut orig (execNsCreate c conn nsid nonatomic target s) := by
  unfold execNsCreate
  repeat' (first
    | with_reducible intro _ | with_reducible assumption | with_reducible apply keepsOut_next
    | with_reducible apply keepsAns_reject | with_reducible apply keepsAns_ok | with_reducible apply modSb_keeps
    | with_reducible apply serve_keeps | split)

theorem execNsDestroy_keeps (c : Call) (handle : Nat) (s : State) (kept : Keeps orig s) :
    KeepsOut orig (execNsDestroy c handle s) := by
  unfold execNsDestroy
  repeat' (first
    | with_reducible intro _ | with_reducible assumption | with_reducible apply keepsOut_next
    | with_reducible apply keepsAns_reject | with_reducible apply keepsAns_ok | with_reducible apply modSb_keeps
    | with_reducible apply serve_keeps | split)

theorem execNsAttach_keeps (c : Call) (handle func : Nat) (s : State) (kept : Keeps orig s) :
    KeepsOut orig (execNsAttach c handle func s) := by
  unfold execNsAttach
  repeat' (first
    | with_reducible intro _ | with_reducible assumption | with_reducible apply keepsOut_next
    | with_reducible apply keepsAns_reject | with_reducible apply keepsAns_ok | with_reducible apply modNs_keeps
    | with_reducible apply serve_keeps | split)

theorem execNsDetach_keeps (c : Call) (handle func : Nat) (s : State) (kept : Keeps orig s) :
    KeepsOut orig (execNsDetach c handle func s) := by
  unfold execNsDetach
  repeat' (first
    | with_reducible intro _ | with_reducible assumption | with_reducible apply keepsOut_next
    | with_reducible apply keepsAns_reject | with_reducible apply keepsAns_ok | with_reducible apply modNs_keeps
    | with_reducible apply serve_keeps | split)

theorem execNsSetCache_keeps (c : Call) (handle base size : Nat) (s : State) (kept : Keeps orig s) :
    KeepsOut orig (execNsSetCache c handle base size s) := by
  unfold execNsSetCache
  repeat' (first
    | with_reducible intro _ | with_reducible assumption | with_reducible apply keepsOut_next
    | with_reducible apply keepsAns_reject | with_reducible apply keepsAns_ok | with_reducible apply modNs_keeps
    | with_reducible apply serve_keeps | split)

theorem execStorageRestart_keeps (c : Call) (func errSeq : Nat) (flush : Bool) (s : State) (kept : Keeps orig s) :
    KeepsOut orig (execStorageRestart c func errSeq flush s) := by
  unfold execStorageRestart
  repeat' (first
    | with_reducible intro _ | with_reducible assumption | with_reducible apply keepsAns_ite
    | with_reducible apply keeps_ite | with_reducible apply keepsOut_next | with_reducible apply keepsAns_reject
    | with_reducible apply keepsAns_ok | with_reducible apply keeps_foldl | with_reducible apply completeTask_keeps
    | with_reducible apply modSbFunc_keeps | with_reducible apply serve_keeps)

theorem execSetStoragePower_keeps (c : Call) (func : Nat) (idleUs : List Nat) (deepest : Nat) (s : State) (kept : Keeps orig s) :
    KeepsOut orig (execSetStoragePower c func idleUs deepest s) := by
  unfold execSetStoragePower
  repeat' (first
    | with_reducible intro _ | with_reducible assumption | with_reducible apply keepsAns_ite
    | with_reducible apply keepsOut_next | with_reducible apply keepsAns_reject | with_reducible apply keepsAns_ok
    | with_reducible apply modSbFunc_keeps | with_reducible apply serve_keeps)

theorem execSetClassLimit_keeps (c : Call) (cls : Nat) (s : State) (kept : Keeps orig s) :
    KeepsOut orig (execSetClassLimit c cls s) := by
  unfold execSetClassLimit
  repeat' (first
    | with_reducible intro _ | with_reducible assumption | with_reducible apply keepsAns_ite
    | with_reducible apply keepsOut_next | with_reducible apply keepsAns_reject | with_reducible apply keepsAns_ok
    | with_reducible apply serve_keeps | with_reducible apply modPart_keeps)

theorem execSetStorageArb_keeps (c : Call) (wh wm wl : Nat) (s : State) (kept : Keeps orig s) :
    KeepsOut orig (execSetStorageArb c wh wm wl s) := by
  unfold execSetStorageArb
  repeat' (first
    | with_reducible intro _ | with_reducible assumption | with_reducible apply keepsAns_ite
    | with_reducible apply keepsOut_next | with_reducible apply keepsAns_reject | with_reducible apply keepsAns_ok
    | with_reducible apply modSb_keeps | with_reducible apply serve_keeps)

theorem execSetStorageMode_keeps (c : Call) (serial : Bool) (s : State) (kept : Keeps orig s) :
    KeepsOut orig (execSetStorageMode c serial s) := by
  unfold execSetStorageMode
  repeat' (first
    | with_reducible intro _ | with_reducible assumption | with_reducible apply keepsAns_ite
    | with_reducible apply keepsOut_next | with_reducible apply keepsAns_reject | with_reducible apply keepsAns_ok
    | with_reducible apply modSb_keeps | with_reducible apply serve_keeps)

theorem execStoragePick_keeps (conn : Nat) (s : State) (kept : Keeps orig s) :
    KeepsOut orig (execStoragePick conn s) := by
  unfold execStoragePick
  repeat' (first
    | with_reducible assumption | with_reducible apply done_keeps | with_reducible apply startTask_keeps
    | with_reducible apply modConn_keeps | split)

theorem takeResponse_keeps (i : Nat) (s : State) (kept : Keeps orig s) :
    KeepsOpt3 orig (takeResponse i s) := by
  unfold takeResponse
  repeat' (first
    | (simp -zeta only [keeps_mk_iff]) | with_reducible intro _ | with_reducible assumption
    | with_reducible apply keepsOpt3_ite | with_reducible exact keepsOpt3_none | with_reducible apply keepsOpt3_some
    | split)

theorem execTargetResponse_keeps (i : Nat) (data : List Byte) (s : State) (kept : Keeps orig s) :
    KeepsOut orig (execTargetResponse i data s) := by
  unfold execTargetResponse
  repeat' (first
    | with_reducible assumption | with_reducible apply takeResponse_keeps | with_reducible apply done_keeps
    | with_reducible apply answerXferRdy_keeps | with_reducible apply fillResponse_keeps
    | with_reducible apply taskResponse_keeps | with_reducible apply kickConn_keeps
    | with_reducible apply modConn_keeps | with_reducible refine keepsOpt3_use (by assumption) ?_ | split)

theorem releaseConns_keeps (s : State) (kept : Keeps orig s) :
    Keeps orig (releaseConns s) := by
  unfold releaseConns
  repeat' (first | with_reducible assumption | with_reducible apply modSb_keeps)

theorem execSpsIdle_keeps (func : Nat) (s : State) (kept : Keeps orig s) :
    KeepsOut orig (execSpsIdle func s) := by
  unfold execSpsIdle
  repeat' (first
    | with_reducible intro _ | with_reducible assumption | with_reducible apply keeps_ite
    | with_reducible apply keepsOut_next | with_reducible apply releaseConns_keeps
    | with_reducible apply modSbFunc_keeps)

theorem execSpsExitDone_keeps (func : Nat) (late : Bool) (s : State) (kept : Keeps orig s) :
    KeepsOut orig (execSpsExitDone func late s) := by
  unfold execSpsExitDone
  repeat' (first
    | with_reducible intro _ | with_reducible assumption | with_reducible apply keeps_ite
    | with_reducible apply keepsOut_next | with_reducible apply modSbFunc_keeps | with_reducible apply modSb_keeps
    | with_reducible apply bump_keeps)

theorem sbspTake_keeps (type : Nat) (bs : List Byte) (f : State → State) (s : State)
    (hf : ∀ t, Keeps orig t → Keeps orig (f t)) (kept : Keeps orig s) : Keeps orig (sbspTake type bs f s) := by
  have k := hf _ kept
  unfold sbspTake
  repeat' (first
    | with_reducible assumption | with_reducible apply keeps_ite | with_reducible apply sbspNakFor_keeps | with_reducible intro _)

theorem queueSerial_keeps (cmd : TaskCmd) (data : List Byte) (s : State) (kept : Keeps orig s) :
    Keeps orig (queueSerial cmd data s) := by
  unfold queueSerial
  repeat' (first | with_reducible assumption | with_reducible apply modSb_keeps)

theorem failSerial_keeps (code : Nat) (s : State) (kept : Keeps orig s) :
    Keeps orig (failSerial code s) := by
  unfold failSerial
  repeat' (first
    | with_reducible assumption | with_reducible apply queueSerial_keeps | with_reducible apply endSerial_keeps
    | split)

theorem execSbspCmd_keeps (bytes : List Byte) (s : State) (kept : Keeps orig s) :
    KeepsOut orig (execSbspCmd bytes s) := by
  unfold execSbspCmd
  repeat' (first
    | with_reducible intro _ | with_reducible assumption | with_reducible apply keeps_ite
    | with_reducible apply failSerial_keeps | with_reducible apply queueSerial_keeps
    | with_reducible apply sbspTake_keeps | with_reducible apply done_keeps | with_reducible apply grantSerial_keeps
    | with_reducible apply modSb_keeps | with_reducible apply emit_keeps)

theorem execXferRdy_keeps (bytes : List Byte) (s : State) (kept : Keeps orig s) :
    KeepsOut orig (execXferRdy bytes s) := by
  unfold execXferRdy
  repeat' (first
    | with_reducible intro _ | with_reducible assumption | with_reducible apply keeps_ite
    | with_reducible apply failSerial_keeps | with_reducible apply sbspTake_keeps | with_reducible apply done_keeps
    | with_reducible apply answerXferRdy_keeps | with_reducible apply modSb_keeps | split)

theorem execSbspData_keeps (bytes : List Byte) (s : State) (kept : Keeps orig s) :
    KeepsOut orig (execSbspData bytes s) := by
  unfold execSbspData
  repeat' (first
    | with_reducible intro _ | with_reducible assumption | with_reducible apply keeps_ite
    | with_reducible apply failSerial_keeps | with_reducible apply queueSerial_keeps
    | with_reducible apply sbspTake_keeps | with_reducible apply done_keeps | with_reducible apply grantSerial_keeps
    | with_reducible apply modSb_keeps | split)

theorem execSbspNak_keeps (bytes : List Byte) (s : State) (kept : Keeps orig s) :
    KeepsOut orig (execSbspNak bytes s) := by
  unfold execSbspNak
  repeat' (first
    | with_reducible intro _ | with_reducible assumption | with_reducible apply keeps_ite
    | with_reducible apply keepsOut_next | with_reducible apply sbspTake_keeps | with_reducible apply emit_keeps)

theorem execSbspWaitTimeout_keeps (s : State) (kept : Keeps orig s) :
    KeepsOut orig (execSbspWaitTimeout s) := by
  unfold execSbspWaitTimeout
  repeat' (first
    | with_reducible assumption | with_reducible apply failSerial_keeps | with_reducible apply done_keeps | split)

end Sys2Proof.Machine
end

