-- ==== Sys2Proof/Laws/Keeps/CkptCmds.lean ====
section
/-! SUPPORT. The operations of Machine/CkptCmds.lean keep what every operation keeps. -/

namespace Sys2Proof.Machine

open Sys2Proof

set_option linter.tactic.unusedName false

variable {orig res : State}

theorem pageInGddr_keeps (part va : Nat) (s : State) (kept : Keeps orig s) :
    Keeps orig (pageInGddr part va s).2 := by
  unfold pageInGddr
  repeat' (first
    | with_reducible assumption | with_reducible apply vaRead_keeps
    | with_reducible refine keepsSnd_use (by assumption) ?_ | split)

theorem rangeInGddr_keeps (part : Nat) : ∀ (x0 : Nat) (x1 : Nat) (x2 : Nat) (x3 : State), Keeps orig x3 →
    Keeps orig (rangeInGddr part x0 x1 x2 x3).2
  | 0, _, _, s, kept => by
    unfold rangeInGddr
    repeat' (first
      | with_reducible assumption | with_reducible apply pageInGddr_keeps | with_reducible apply rangeInGddr_keeps
      | with_reducible refine keepsSnd_use (by assumption) ?_ | split)
  | fuel + 1, va, n, s, kept => by
    unfold rangeInGddr
    repeat' (first
      | with_reducible assumption | with_reducible apply pageInGddr_keeps | with_reducible apply rangeInGddr_keeps
      | with_reducible refine keepsSnd_use (by assumption) ?_ | split)

theorem reserveDuties_keeps (i size : Nat) : ∀ (x0 : List (Nat × Bool)) (x1 : State), Keeps orig x1 →
    KeepsOpt2 orig (reserveDuties i size x0 x1)
  | [], s, kept => by
    unfold reserveDuties
    repeat' (first
      | with_reducible assumption | with_reducible exact keepsOpt2_none | with_reducible apply keepsOpt2_some
      | with_reducible apply reserve_keeps | with_reducible apply reserveDuties_keeps
      | with_reducible refine keepsOpt2_use (by assumption) ?_ | split)
  | (g, m) :: rest, s, kept => by
    unfold reserveDuties
    repeat' (first
      | with_reducible assumption | with_reducible exact keepsOpt2_none | with_reducible apply keepsOpt2_some
      | with_reducible apply reserve_keeps | with_reducible apply reserveDuties_keeps
      | with_reducible refine keepsOpt2_use (by assumption) ?_ | split)

theorem makeSetup_keeps (part runId half0 half1 halfSize : Nat) (s : State) (kept : Keeps orig s) :
    KeepsAns orig (makeSetup part runId half0 half1 halfSize s) := by
  unfold makeSetup
  repeat' (first
    | with_reducible assumption | (extract_lets +onlyGivenNames x; clear_value x; revert x; intro _)
    | with_reducible apply keepsAns_reject | with_reducible apply keepsAns_ok
    | with_reducible apply reserveDuties_keeps | with_reducible apply modCk_keeps
    | with_reducible refine keepsOpt2_use (by assumption) ?_ | split)

theorem execCkptSetup_keeps (c : Call) (runId half0 half1 halfSize : Nat) (s : State) (kept : Keeps orig s) :
    KeepsOut orig (execCkptSetup c runId half0 half1 halfSize s) := by
  unfold execCkptSetup
  repeat' (first
    | with_reducible intro _ | with_reducible assumption
    | (extract_lets +onlyGivenNames x; clear_value x; revert x; intro _) | with_reducible apply keepsOut_next
    | with_reducible apply keepsAns_reject | with_reducible apply makeSetup_keeps
    | with_reducible apply rangeInGddr_keeps | with_reducible apply serve_keeps
    | with_reducible refine keepsSnd_use (by assumption) ?_ | split)

theorem execCkptTeardown_keeps (c : Call) (runId : Nat) (s : State) (kept : Keeps orig s) :
    KeepsOut orig (execCkptTeardown c runId s) := by
  unfold execCkptTeardown
  repeat' (first
    | with_reducible intro _ | with_reducible assumption | with_reducible apply keepsOut_next
    | with_reducible apply keepsAns_reject | with_reducible apply keepsAns_ok | with_reducible apply modCk_keeps
    | with_reducible apply unreserve_keeps | with_reducible apply serve_keeps | split)

theorem execSetStaging_keeps (c : Call) (base size : Nat) (s : State) (kept : Keeps orig s) :
    KeepsOut orig (execSetStaging c base size s) := by
  unfold execSetStaging
  repeat' (first
    | with_reducible intro _ | with_reducible assumption | with_reducible apply keepsAns_ite
    | with_reducible apply keepsOut_next | with_reducible apply keepsAns_reject | with_reducible apply keepsAns_ok
    | with_reducible apply serve_keeps | with_reducible apply modPart_keeps)

theorem execCkptSetTrust_keeps (c : Call) (digests : List (BitVec 256)) (s : State) (kept : Keeps orig s) :
    KeepsOut orig (execCkptSetTrust c digests s) := by
  unfold execCkptSetTrust
  repeat' (first
    | with_reducible intro _ | with_reducible assumption | with_reducible apply keepsAns_ite
    | with_reducible apply keepsOut_next | with_reducible apply keepsAns_reject | with_reducible apply keepsAns_ok
    | with_reducible apply serve_keeps | with_reducible apply modPart_keeps)

theorem execCkptSetRate_keeps (c : Call) (gb : Nat) (s : State) (kept : Keeps orig s) :
    KeepsOut orig (execCkptSetRate c gb s) := by
  unfold execCkptSetRate
  repeat' (first
    | with_reducible intro _ | with_reducible assumption | with_reducible apply keepsAns_ite
    | with_reducible apply keepsOut_next | with_reducible apply keepsAns_reject | with_reducible apply keepsAns_ok
    | with_reducible apply modCk_keeps | with_reducible apply serve_keeps)

theorem readSave_keeps (part : Nat) (st : Setup) (d : SaveDesc) (s : State) (kept : Keeps orig s) :
    Keeps orig (readSave part st d s).2 := by
  unfold readSave
  repeat' (first
    | with_reducible intro _ | with_reducible assumption | with_reducible apply keeps_ite_snd
    | with_reducible apply vaRead_keeps | with_reducible refine keepsSnd_use (by assumption) ?_ | split)

theorem addJob_keeps (x : CkJob) (s : State) (kept : Keeps orig s) :
    KeepsOpt2 orig (addJob x s) := by
  unfold addJob
  repeat' (first
    | with_reducible intro _ | with_reducible assumption | with_reducible apply keepsOpt2_ite
    | with_reducible exact keepsOpt2_none | with_reducible apply keepsOpt2_some | with_reducible apply modCk_keeps)

theorem acceptSave_keeps (part : Nat) (bs : List Byte) (s : State) (kept : Keeps orig s) :
    KeepsAns orig (acceptSave part bs s) := by
  unfold acceptSave
  repeat' (first
    | with_reducible assumption | (extract_lets +onlyGivenNames x; clear_value x; revert x; intro _)
    | with_reducible apply keepsAns_reject | with_reducible apply keepsAns_ok | with_reducible apply addJob_keeps
    | with_reducible apply readSave_keeps | with_reducible apply beginCk_keeps
    | with_reducible refine keepsSnd_use (by assumption) ?_ | with_reducible refine keepsOpt2_use (by assumption) ?_
    | split)

theorem execCkptSave_keeps (c : Call) (addr : Nat) (s : State) (kept : Keeps orig s) :
    KeepsOut orig (execCkptSave c addr s) := by
  unfold execCkptSave
  repeat' (first
    | with_reducible intro _ | with_reducible assumption | with_reducible apply keepsAns_reject
    | with_reducible apply acceptSave_keeps | with_reducible apply done_keeps | with_reducible apply vaRead_keeps
    | with_reducible apply serve_keeps | with_reducible refine keepsSnd_use (by assumption) ?_ | split)

theorem acceptRestore_keeps (part : Nat) (bs : List Byte) (s : State) (kept : Keeps orig s) :
    KeepsAns orig (acceptRestore part bs s) := by
  unfold acceptRestore
  repeat' (first
    | with_reducible assumption | (extract_lets +onlyGivenNames x; clear_value x; revert x; intro _)
    | with_reducible apply keepsAns_reject | with_reducible apply keepsAns_ok | with_reducible apply addJob_keeps
    | with_reducible apply beginCk_keeps | with_reducible apply vaRead_keeps
    | with_reducible refine keepsSnd_use (by assumption) ?_ | with_reducible refine keepsOpt2_use (by assumption) ?_
    | split)

theorem execCkptRestore_keeps (c : Call) (addr : Nat) (s : State) (kept : Keeps orig s) :
    KeepsOut orig (execCkptRestore c addr s) := by
  unfold execCkptRestore
  repeat' (first
    | with_reducible intro _ | with_reducible assumption | with_reducible apply keepsAns_reject
    | with_reducible apply acceptRestore_keeps | with_reducible apply done_keeps | with_reducible apply vaRead_keeps
    | with_reducible apply serve_keeps | with_reducible refine keepsSnd_use (by assumption) ?_ | split)

theorem execCkptRebuild_keeps (c : Call) (p : RebuildSet) (s : State) (kept : Keeps orig s) :
    KeepsOut orig (execCkptRebuild c p s) := by
  unfold execCkptRebuild
  repeat' (first
    | with_reducible intro _ | with_reducible assumption | with_reducible apply keepsAns_ite
    | with_reducible apply keepsAns_reject | with_reducible apply keepsAns_ok | with_reducible apply addJob_keeps
    | with_reducible apply done_keeps | with_reducible apply beginCk_keeps | with_reducible apply serve_keeps
    | with_reducible refine keepsOpt2_use (by assumption) ?_ | split)

theorem execCkptCancel_keeps (c : Call) (job : Nat) (s : State) (kept : Keeps orig s) :
    KeepsOut orig (execCkptCancel c job s) := by
  unfold execCkptCancel
  repeat' (first
    | with_reducible intro _ | with_reducible assumption | with_reducible apply keepsAns_reject
    | with_reducible apply keepsAns_ok | with_reducible apply done_keeps | with_reducible apply ckFail_keeps
    | with_reducible apply serve_keeps | split)

theorem execCkptRead_keeps (c : Call) (cursor : Nat) (s : State) (kept : Keeps orig s) :
    KeepsOut orig (execCkptRead c cursor s) := by
  unfold execCkptRead
  repeat' (first
    | with_reducible assumption | with_reducible apply keepsOut_next | with_reducible apply serveRead_keeps)

theorem execCkptArmedStart_keeps (job : Nat) (s : State) (kept : Keeps orig s) :
    KeepsOut orig (execCkptArmedStart job s) := by
  unfold execCkptArmedStart
  repeat' (first
    | with_reducible assumption | with_reducible apply done_keeps | with_reducible apply beginCk_keeps | split)

theorem execCaptureDone_keeps (job : Nat) (s : State) (kept : Keeps orig s) :
    KeepsOut orig (execCaptureDone job s) := by
  unfold execCaptureDone
  repeat' (first
    | with_reducible assumption
    | (extract_lets +onlyGivenNames x; refine keeps_cut (r := orig) (u := x) ?_ (fun _ => ?_); rotate_left; clear_value x; revert x; intro _ _; rotate_left; (simp -zeta only [x]); clear x)
    | with_reducible apply done_keeps | with_reducible apply captureTiles_keeps | with_reducible apply modHalf_keeps
    | with_reducible apply modJob_keeps | with_reducible apply tallyAdd_keeps | split)

theorem execSealDone_keeps (job : Nat) (s : State) (kept : Keeps orig s) :
    KeepsOut orig (execSealDone job s) := by
  unfold execSealDone
  repeat' (first
    | with_reducible assumption | with_reducible apply done_keeps | with_reducible apply commitManifest_keeps
    | with_reducible apply sealHalf_keeps | split)

theorem execDrainDone_keeps (job : Nat) (s : State) (kept : Keeps orig s) :
    KeepsOut orig (execDrainDone job s) := by
  unfold execDrainDone
  repeat' (first
    | with_reducible assumption | with_reducible apply done_keeps | with_reducible apply commitManifest_keeps
    | with_reducible apply drained_keeps | split)

theorem execManifestCommit_keeps (job : Nat) (s : State) (kept : Keeps orig s) :
    KeepsOut orig (execManifestCommit job s) := by
  unfold execManifestCommit
  repeat' (first
    | with_reducible assumption | with_reducible apply done_keeps | with_reducible apply ckComplete_keeps | split)

theorem execCkptJobTimeout_keeps (job : Nat) (s : State) (kept : Keeps orig s) :
    KeepsOut orig (execCkptJobTimeout job s) := by
  unfold execCkptJobTimeout
  repeat' (first
    | with_reducible assumption | with_reducible apply done_keeps | with_reducible apply ckFail_keeps | split)

theorem execCkptRestoreDone_keeps (job : Nat) (s : State) (kept : Keeps orig s) :
    KeepsOut orig (execCkptRestoreDone job s) := by
  unfold execCkptRestoreDone
  repeat' (first
    | with_reducible assumption | with_reducible apply done_keeps | with_reducible apply writeResult'_keeps
    | with_reducible apply ckComplete_keeps | split)

theorem ckTake_keeps (p : Nat → Bool) (i : Nat) (f : CkHead → List Byte → State → State) (s : State)
    (hf : ∀ h d t, Keeps orig t → Keeps orig (f h d t)) (kept : Keeps orig s) : Keeps orig (ckTake p i f s) := by
  unfold ckTake
  split
  · exact kept
  · extract_lets
    exact keeps_ite (fun _ => kept) (fun _ => hf _ _ _ (keeps_mk kept))

theorem execParityMsg_keeps (i : Nat) (s : State) (kept : Keeps orig s) :
    KeepsOut orig (execParityMsg i s) := by
  unfold execParityMsg
  repeat' (first
    | with_reducible intro _ | with_reducible assumption | with_reducible apply keeps_ite
    | with_reducible apply ckTake_keeps | with_reducible apply done_keeps | with_reducible apply takeParity_keeps)

theorem execMirrorMsg_keeps (i : Nat) (s : State) (kept : Keeps orig s) :
    KeepsOut orig (execMirrorMsg i s) := by
  unfold execMirrorMsg
  repeat' (first
    | with_reducible assumption | with_reducible apply ckTake_keeps | with_reducible apply done_keeps
    | with_reducible apply takeParity_keeps)

theorem execParityAck_keeps (i : Nat) (s : State) (kept : Keeps orig s) :
    KeepsOut orig (execParityAck i s) := by
  unfold execParityAck
  repeat' (first
    | with_reducible intro _ | with_reducible assumption | with_reducible apply ckTake_keeps
    | with_reducible apply done_keeps | with_reducible apply takeParityAck_keeps)

theorem execShardRecord_keeps (i : Nat) (miss : List Nat) (s : State) (kept : Keeps orig s) :
    KeepsOut orig (execShardRecord i miss s) := by
  unfold execShardRecord
  repeat' (first
    | with_reducible intro _ | with_reducible assumption | with_reducible apply keeps_ite
    | (extract_lets +onlyGivenNames x; refine keeps_cut (r := orig) (u := x) ?_ (fun _ => ?_); rotate_left; clear_value x; revert x; intro _ _; rotate_left; (simp -zeta only [x]); clear x)
    | (extract_lets +onlyGivenNames x; refine keeps_fn x ?_; subst x; try dsimp -zeta only)
    | with_reducible apply keeps_foldl | with_reducible apply ckTake_keeps | with_reducible apply done_keeps
    | with_reducible apply coreMiss_keeps | with_reducible apply takeRecord_keeps | with_reducible apply ckFail_keeps
    | split)

theorem execRebuildReq_keeps (i : Nat) (s : State) (kept : Keeps orig s) :
    KeepsOut orig (execRebuildReq i s) := by
  unfold execRebuildReq
  repeat' (first
    | with_reducible intro _ | with_reducible assumption | with_reducible apply ckTake_keeps
    | with_reducible apply done_keeps | with_reducible apply takeRebuildReq_keeps)

theorem execRebuildData_keeps (i : Nat) (s : State) (kept : Keeps orig s) :
    KeepsOut orig (execRebuildData i s) := by
  unfold execRebuildData
  repeat' (first
    | with_reducible assumption | with_reducible apply ckTake_keeps | with_reducible apply done_keeps
    | with_reducible apply takeRebuildData_keeps)

theorem execRefuseMsg_keeps (i : Nat) (s : State) (kept : Keeps orig s) :
    KeepsOut orig (execRefuseMsg i s) := by
  unfold execRefuseMsg
  repeat' (first
    | with_reducible intro _ | with_reducible assumption | with_reducible apply ckTake_keeps
    | with_reducible apply done_keeps | with_reducible apply ckFail_keeps | split)

end Sys2Proof.Machine
end

