-- ==== Sys2Proof/Laws/Keeps/FwCmds.lean ====
section
/-! SUPPORT. The operations of Machine/FwCmds.lean keep what every operation keeps. -/

namespace Sys2Proof.Machine

open Sys2Proof

set_option linter.tactic.unusedName false

variable {orig res : State}

theorem execReadDevice_keeps (c : Call) (cursor : Nat) (s : State) (kept : Keeps orig s) :
    KeepsOut orig (execReadDevice c cursor s) := by
  unfold execReadDevice
  repeat' (first
    | with_reducible assumption | with_reducible apply keepsOut_next | with_reducible apply serveRead_keeps)

theorem execReadModes_keeps (c : Call) (cursor : Nat) (s : State) (kept : Keeps orig s) :
    KeepsOut orig (execReadModes c cursor s) := by
  unfold execReadModes
  repeat' (first
    | with_reducible assumption | with_reducible apply keepsOut_next | with_reducible apply serveRead_keeps)

theorem execReadEvents_keeps (c : Call) (frm sev lo hi : Nat) (s : State) (kept : Keeps orig s) :
    KeepsOut orig (execReadEvents c frm sev lo hi s) := by
  unfold execReadEvents
  repeat' (first
    | with_reducible intro _ | with_reducible assumption | with_reducible apply keepsAns_ite
    | with_reducible apply keepsOut_next | with_reducible apply keepsAns_reject | with_reducible apply keepsAns_ok
    | with_reducible apply serve_keeps | with_reducible refine keeps_draws ?_ (Nat.le_succ _))

theorem execReadEventLimits_keeps (c : Call) (cursor : Nat) (s : State) (kept : Keeps orig s) :
    KeepsOut orig (execReadEventLimits c cursor s) := by
  unfold execReadEventLimits
  repeat' (first
    | with_reducible assumption | with_reducible apply keepsOut_next | with_reducible apply serveRead_keeps)

theorem execReadFlashLog_keeps (c : Call) (seq : Nat) (s : State) (kept : Keeps orig s) :
    KeepsOut orig (execReadFlashLog c seq s) := by
  unfold execReadFlashLog
  repeat' (first
    | with_reducible intro _ | with_reducible assumption | with_reducible apply keepsOut_next
    | with_reducible apply keepsAns_ok | with_reducible apply serve_keeps)

theorem execEvtFlush_keeps (c : Call) (s : State) (kept : Keeps orig s) :
    KeepsOut orig (execEvtFlush c s) := by
  unfold execEvtFlush
  repeat' (first
    | with_reducible intro _ | with_reducible assumption | with_reducible apply keepsOut_next
    | with_reducible apply keepsAns_ok | with_reducible apply serve_keeps | with_reducible apply startFlush_keeps)

theorem execEvtSetLimit_keeps (c : Call) (code rate burst : Nat) (s : State) (kept : Keeps orig s) :
    KeepsOut orig (execEvtSetLimit c code rate burst s) := by
  unfold execEvtSetLimit
  repeat' (first
    | (simp -zeta only [keeps_mk_iff]) | with_reducible intro _ | with_reducible assumption
    | with_reducible apply keepsAns_ite | with_reducible apply keepsOut_next | with_reducible apply keepsAns_reject
    | with_reducible apply keepsAns_ok | with_reducible apply serve_keeps)

theorem execReadFirmware_keeps (c : Call) (cursor : Nat) (s : State) (kept : Keeps orig s) :
    KeepsOut orig (execReadFirmware c cursor s) := by
  unfold execReadFirmware
  repeat' (first
    | with_reducible assumption | with_reducible apply keepsOut_next | with_reducible apply serveRead_keeps)

theorem execReadCrashdump_keeps (c : Call) (p cursor : Nat) (s : State) (kept : Keeps orig s) :
    KeepsOut orig (execReadCrashdump c p cursor s) := by
  unfold execReadCrashdump
  repeat' (first
    | with_reducible intro _ | with_reducible assumption | with_reducible apply keepsOut_next
    | with_reducible apply keepsAns_reject | with_reducible apply keepsAns_ok | with_reducible apply page_keeps
    | with_reducible apply serve_keeps | with_reducible apply modProc_keeps
    | with_reducible refine keepsAns_use_ok (by assumption) ?_ | split)

theorem execFwDumpClear_keeps (c : Call) (p : Nat) (s : State) (kept : Keeps orig s) :
    KeepsOut orig (execFwDumpClear c p s) := by
  unfold execFwDumpClear
  repeat' (first
    | with_reducible intro _ | with_reducible assumption | with_reducible apply keepsAns_ite
    | with_reducible apply keepsOut_next | with_reducible apply keepsAns_reject | with_reducible apply keepsAns_ok
    | with_reducible apply serve_keeps | with_reducible apply modProc_keeps
    | with_reducible apply Memory.wf_clearRange | with_reducible refine keeps_mem ?_ (fun _ => ?_))

theorem stageImage_keeps (addr len : Nat) (t : State) (kept : Keeps orig t) :
    KeepsAns orig (stageImage addr len t) := by
  unfold stageImage
  repeat' (first
    | (simp -zeta only [keeps_mk_iff]) | with_reducible intro _ | with_reducible assumption
    | with_reducible apply keepsAns_ite | with_reducible apply keepsAns_reject | with_reducible apply keepsAns_ok
    | with_reducible apply vaRead_keeps | with_reducible apply unreserve_keeps | with_reducible apply reserve_keeps
    | with_reducible apply wrMem_keeps | with_reducible refine keepsSnd_use (by assumption) ?_
    | with_reducible refine keepsOpt2_use (by assumption) ?_ | split)

theorem execFwStage_keeps (c : Call) (addr len : Nat) (s : State) (kept : Keeps orig s) :
    KeepsOut orig (execFwStage c addr len s) := by
  unfold execFwStage
  repeat' (first
    | with_reducible intro _ | with_reducible assumption | with_reducible apply keepsAns_ite
    | with_reducible apply keepsOut_next | with_reducible apply keepsAns_reject
    | with_reducible apply stageImage_keeps | with_reducible apply serve_keeps)

theorem execFwFlash_keeps (c : Call) (img : Nat) (s : State) (kept : Keeps orig s) :
    KeepsOut orig (execFwFlash c img s) := by
  unfold execFwFlash
  repeat' (first
    | with_reducible intro _ | with_reducible assumption | with_reducible apply keepsOut_next
    | with_reducible apply keepsAns_reject | with_reducible apply keepsAns_ok | with_reducible apply serve_keeps
    | with_reducible apply Memory.wf_copyRange | with_reducible apply Memory.wf_clearRange
    | with_reducible refine keeps_mem ?_ (fun _ => ?_) | split)

theorem armProcs_keeps (x : StagedImage) (act : Activation) (targets : List Nat) (s : State) (kept : Keeps orig s) :
    Keeps orig (armProcs x act targets s) := by
  unfold armProcs
  repeat' (first
    | with_reducible intro _ | with_reducible assumption | with_reducible apply keeps_foldl
    | with_reducible apply modProc_keeps | split)

theorem execFwActivate_keeps (c : Call) (targets : List Nat) (s : State) (kept : Keeps orig s) :
    KeepsOut orig (execFwActivate c targets s) := by
  unfold execFwActivate
  repeat' (first
    | with_reducible intro _ | with_reducible assumption | with_reducible apply keepsAns_ite
    | with_reducible apply keepsOut_next | with_reducible apply keepsAns_reject | with_reducible apply keepsAns_ok
    | with_reducible apply keepsAns_deferred | with_reducible apply keeps_foldl | with_reducible apply armProcs_keeps
    | with_reducible apply fwEvent_keeps | with_reducible apply serve_keeps | split)

theorem execFwCancel_keeps (c : Call) (s : State) (kept : Keeps orig s) :
    KeepsOut orig (execFwCancel c s) := by
  unfold execFwCancel
  repeat' (first
    | (simp -zeta only [keeps_mk_iff]) | with_reducible intro _ | with_reducible assumption
    | with_reducible apply keepsAns_ite | with_reducible apply keepsOut_next | with_reducible apply keepsAns_reject
    | with_reducible apply keepsAns_ok | with_reducible apply serve_keeps)

theorem countReads_keeps (func n : Nat) (s : State) (kept : Keeps orig s) :
    Keeps orig (countReads func n s) := by
  unfold countReads
  repeat' (first | with_reducible assumption | with_reducible apply bump_keeps)

theorem execFwRecoveryLoad_keeps (c : Call) (addr len : Nat) (s : State) (kept : Keeps orig s) :
    KeepsOut orig (execFwRecoveryLoad c addr len s) := by
  unfold execFwRecoveryLoad
  refine keepsOut_next (serve_keeps _ _ _ _ (fun _ t h => keepsAns_ite (fun _ => keepsAns_reject) (fun _ => keepsAns_ite
    (fun _ => keepsAns_reject) (fun _ => ?_))) kept)
  extract_lets n bs
  split
  · exact keepsAns_reject
  · exact keepsAns_ok (loadImage_keeps _ _ _ (countReads_keeps _ _ _ (keeps_chip h (fuses_keep _))))

end Sys2Proof.Machine
end

