-- ==== Sys2Proof/Laws/Keeps/FwEvents.lean ====
section
/-! SUPPORT. The operations of Machine/FwEvents.lean keep what every operation keeps. -/

namespace Sys2Proof.Machine

open Sys2Proof

set_option linter.tactic.unusedName false

variable {orig res : State}

theorem execFwSwitch_keeps (p : Nat) (s : State) (kept : Keeps orig s) :
    KeepsOut orig (execFwSwitch p s) := by
  unfold execFwSwitch
  repeat' (first
    | with_reducible intro _ | with_reducible assumption | with_reducible apply keeps_ite
    | with_reducible apply keepsOut_next | with_reducible apply beginSwitch_keeps)

theorem execFwSwitchDone_keeps (p : Nat) (s : State) (kept : Keeps orig s) :
    KeepsOut orig (execFwSwitchDone p s) := by
  unfold execFwSwitchDone
  repeat' (first
    | with_reducible intro _ | with_reducible assumption
    | (extract_lets +onlyGivenNames x; refine keeps_cut (r := orig) (u := x) ?_ (fun _ => ?_); rotate_left; clear_value x; revert x; intro _ _; rotate_left; (simp -zeta only [x]); clear x)
    | (extract_lets +onlyGivenNames x; clear_value x; revert x; intro _) | with_reducible apply keepsOut_next
    | with_reducible apply keeps_foldl | with_reducible apply done_keeps | with_reducible apply modSec_keeps
    | with_reducible apply resumeJbnd_keeps | with_reducible apply kickJobs_keeps
    | with_reducible apply fwEvent_keeps | with_reducible apply modProc_keeps | split)

theorem execRollbackWindowEnd_keeps (p : Nat) (s : State) (kept : Keeps orig s) :
    KeepsOut orig (execRollbackWindowEnd p s) := by
  unfold execRollbackWindowEnd
  repeat' (first
    | with_reducible intro _ | with_reducible assumption | with_reducible apply keepsOut_ite
    | with_reducible apply keepsOut_next | with_reducible apply unreserve_keeps | with_reducible apply modProc_keeps)

theorem execProcessorWatchdog_keeps (p : Nat) (s : State) (kept : Keeps orig s) :
    KeepsOut orig (execProcessorWatchdog p s) := by
  unfold execProcessorWatchdog
  repeat' (first
    | with_reducible assumption | with_reducible apply keepsOut_next | with_reducible apply procCrash_keeps)

theorem execProcessorRestarted_keeps (p : Nat) (s : State) (kept : Keeps orig s) :
    KeepsOut orig (execProcessorRestarted p s) := by
  unfold execProcessorRestarted
  repeat' (first
    | with_reducible intro _ | with_reducible assumption | with_reducible apply keepsOut_ite
    | with_reducible apply keepsOut_next | with_reducible apply done_keeps | with_reducible apply kickJobs_keeps
    | with_reducible apply fwEvent_keeps | with_reducible apply modProc_keeps)

theorem commitChange_keeps (k : StagedKind) (s : State) (kept : Keeps orig s) :
    Keeps orig (commitChange k s) := by
  unfold commitChange
  repeat' (first
    | with_reducible assumption | with_reducible apply retireVersions_keeps | with_reducible apply modCgroup_keeps
    | with_reducible apply modPipe_keeps | split)

theorem setChange_keeps (g : StagedChange) (h : Option StagedChange) (s : State) (kept : Keeps orig s) : Keeps orig (setChange g h s) := keeps_mk kept

theorem execEpochSwitch_keeps (s : State) (kept : Keeps orig s) :
    KeepsOut orig (execEpochSwitch s) := by
  unfold execEpochSwitch
  repeat' (first
    | with_reducible assumption | with_reducible apply keepsOut_next | with_reducible apply setChange_keeps
    | with_reducible apply commitChange_keeps | with_reducible apply done_keeps | with_reducible apply finish_keeps
    | split)

theorem execModeAckTimeout_keeps (units : Nat) (s : State) (kept : Keeps orig s) :
    KeepsOut orig (execModeAckTimeout units s) := by
  unfold execModeAckTimeout
  repeat' (first
    | with_reducible assumption | with_reducible apply keepsOut_next | with_reducible apply setChange_keeps
    | with_reducible apply finish_keeps | with_reducible apply event_keeps | split)

theorem execStagedDiscard_keeps (unit : Nat) (s : State) (kept : Keeps orig s) :
    KeepsOut orig (execStagedDiscard unit s) := by
  unfold execStagedDiscard
  repeat' (first
    | with_reducible assumption | with_reducible apply keepsOut_next | with_reducible apply setChange_keeps | split)

theorem writeSlot_keeps (cause bytes : Nat) (s : State) (kept : Keeps orig s) :
    Keeps orig (writeSlot cause bytes s) := by
  unfold writeSlot
  repeat' (first | (simp -zeta only [keeps_mk_iff]) | with_reducible assumption | with_reducible apply bump_keeps)

theorem flushRecord_keeps (cause slot : Nat) (s : State) (kept : Keeps orig s) :
    Keeps orig (flushRecord cause slot s) := by
  unfold flushRecord
  repeat' (first | with_reducible assumption | with_reducible apply event_keeps)

theorem releaseReset_keeps (s : State) (kept : Keeps orig s) : Keeps orig (releaseReset s) := by
  unfold releaseReset
  split
  · exact assertReset_keeps _ _ _ (keeps_chip kept (fuses_keep _))
  · exact kept

theorem execFaultFlushEnd_keeps (s : State) (kept : Keeps orig s) :
    KeepsOut orig (execFaultFlushEnd s) := by
  unfold execFaultFlushEnd
  repeat' (first
    | (simp -zeta only [keeps_mk_iff]) | with_reducible assumption | with_reducible apply keepsOut_next
    | with_reducible apply releaseReset_keeps | with_reducible apply flushRecord_keeps
    | with_reducible apply writeSlot_keeps | split)

theorem execPwrfailAssert_keeps (ns : Nat) (s : State) (kept : Keeps orig s) :
    KeepsOut orig (execPwrfailAssert ns s) := by
  unfold execPwrfailAssert
  repeat' (first
    | with_reducible intro _ | with_reducible assumption | with_reducible apply keepsOut_ite
    | with_reducible apply keeps_ite | with_reducible apply keepsOut_next | with_reducible apply releaseReset_keeps
    | with_reducible apply bump_keeps | with_reducible refine keeps_chip ?_ (fuses_keep _))

theorem resumeRecorder_keeps (s : State) (kept : Keeps orig s) :
    Keeps orig (resumeRecorder s) := by
  unfold resumeRecorder
  repeat' (first
    | (simp -zeta only [keeps_mk_iff]) | with_reducible assumption | with_reducible apply flushRecord_keeps)

theorem execPwrfailDeassert_keeps (s : State) (kept : Keeps orig s) :
    KeepsOut orig (execPwrfailDeassert s) := by
  unfold execPwrfailDeassert
  repeat' (first
    | with_reducible intro _ | with_reducible assumption | with_reducible apply keeps_ite
    | with_reducible apply keepsOut_next | with_reducible apply resumeRecorder_keeps
    | with_reducible refine keeps_chip ?_ (fuses_keep _))

theorem execPowerFailFlushEnd_keeps (s : State) (kept : Keeps orig s) :
    KeepsOut orig (execPowerFailFlushEnd s) := by
  unfold execPowerFailFlushEnd
  repeat' (first
    | (simp -zeta only [keeps_mk_iff]) | with_reducible assumption | with_reducible apply keepsOut_next
    | with_reducible apply resumeRecorder_keeps | with_reducible apply writeSlot_keeps | split)

end Sys2Proof.Machine
end

