-- ==== Sys2Proof/Laws/Keeps/TileCmds.lean ====
section
/-! SUPPORT. The operations of Machine/TileCmds.lean keep what every operation keeps. -/

namespace Sys2Proof.Machine

open Sys2Proof

set_option linter.tactic.unusedName false

variable {orig res : State}

theorem relay_keeps (part : Nat) (slots : List Nat) (s : State) (k : Ans) (hk : KeepsAns orig k) :
    KeepsAns orig (relay part slots s k) := by
  unfold relay
  exact keepsAns_ite (fun _ => keepsAns_reject) (fun _ => keepsAns_ite (fun _ => keepsAns_wait) (fun _ => hk))

theorem execLoadImage_keeps (c : Call) (slot : Nat) (regions : List Region) (s : State) (kept : Keeps orig s) :
    KeepsOut orig (execLoadImage c slot regions s) := by
  unfold execLoadImage
  repeat' (first
    | with_reducible intro _ | with_reducible assumption | with_reducible apply keepsAns_reject
    | with_reducible apply keepsAns_later | with_reducible apply relay_keeps | with_reducible apply done_keeps
    | with_reducible apply startLoads_keeps | with_reducible apply modSlot_keeps | with_reducible apply serve_keeps
    | split)

theorem execUnloadImage_keeps (c : Call) (slot : Nat) (s : State) (kept : Keeps orig s) :
    KeepsOut orig (execUnloadImage c slot s) := by
  unfold execUnloadImage
  repeat' (first
    | with_reducible intro _ | with_reducible assumption | with_reducible apply keepsOut_next
    | with_reducible apply keepsAns_reject | with_reducible apply keepsAns_ok | with_reducible apply relay_keeps
    | with_reducible apply modSlot_keeps | with_reducible apply serve_keeps | split)

theorem execReloadRegion_keeps (c : Call) (slot : Nat) (regions : List Region) (s : State) (kept : Keeps orig s) :
    KeepsOut orig (execReloadRegion c slot regions s) := by
  unfold execReloadRegion
  repeat' (first
    | with_reducible intro _ | with_reducible assumption | with_reducible apply keepsAns_reject
    | with_reducible apply keepsAns_later | with_reducible apply relay_keeps | with_reducible apply done_keeps
    | with_reducible apply applyReload_keeps | with_reducible apply modSlot_keeps | with_reducible apply serve_keeps
    | split)

theorem execBindStream_keeps (c : Call) (s : State) (kept : Keeps orig s) :
    KeepsOut orig (execBindStream c s) := by
  unfold execBindStream
  repeat' (first
    | (simp -zeta only [keeps_mk_iff]) | with_reducible intro _ | with_reducible assumption
    | with_reducible apply keepsAns_ite
    | (extract_lets +onlyGivenNames x; refine keeps_cut (r := orig) (u := x) ?_ (fun _ => ?_); rotate_left; clear_value x; revert x; intro _ _; rotate_left; (simp -zeta only [x]); clear x)
    | with_reducible apply keepsAns_reject | with_reducible apply keepsAns_ok | with_reducible apply relay_keeps
    | with_reducible apply done_keeps | with_reducible apply pumpBind_keeps | with_reducible apply seedGen_keeps
    | with_reducible apply serve_keeps)

theorem execUnbindStream_keeps (c : Call) (slot tile fifo : Nat) (s : State) (kept : Keeps orig s) :
    KeepsOut orig (execUnbindStream c slot tile fifo s) := by
  unfold execUnbindStream
  repeat' (first
    | with_reducible intro _ | with_reducible assumption | with_reducible apply keepsAns_ite
    | with_reducible apply keepsAns_reject | with_reducible apply keepsAns_later | with_reducible apply relay_keeps
    | with_reducible apply done_keeps | with_reducible apply modBind_keeps | with_reducible apply serve_keeps | split)

theorem execStartJob_keeps (c : Call) (req : JobReq) (s : State) (kept : Keeps orig s) :
    KeepsOut orig (execStartJob c req s) := by
  unfold execStartJob
  repeat' (first
    | with_reducible intro _ | with_reducible assumption | with_reducible apply keepsAns_ite
    | with_reducible apply keepsAns_reject | with_reducible apply keepsAns_ok | with_reducible apply relay_keeps
    | with_reducible apply done_keeps | with_reducible apply launch_keeps | with_reducible apply setJob_keeps
    | with_reducible apply serve_keeps)

theorem execCancelJob_keeps (c : Call) (job : Nat) (s : State) (kept : Keeps orig s) :
    KeepsOut orig (execCancelJob c job s) := by
  unfold execCancelJob
  repeat' (first
    | with_reducible intro _ | with_reducible assumption | with_reducible apply keepsOut_next
    | with_reducible apply keepsAns_reject | with_reducible apply keepsAns_ok | with_reducible apply relay_keeps
    | with_reducible apply endJob_keeps | with_reducible apply serve_keeps | split)

theorem execReadBenches_keeps (c : Call) (cursor : Nat) (s : State) (kept : Keeps orig s) :
    KeepsOut orig (execReadBenches c cursor s) := by
  unfold execReadBenches
  repeat' (first
    | with_reducible assumption | with_reducible apply keepsOut_next | with_reducible apply serveRead_keeps)

theorem execReadBindings_keeps (c : Call) (cursor : Nat) (s : State) (kept : Keeps orig s) :
    KeepsOut orig (execReadBindings c cursor s) := by
  unfold execReadBindings
  repeat' (first
    | with_reducible assumption | with_reducible apply keepsOut_next | with_reducible apply serveRead_keeps)

theorem execReadJobs_keeps (c : Call) (cursor : Nat) (s : State) (kept : Keeps orig s) :
    KeepsOut orig (execReadJobs c cursor s) := by
  unfold execReadJobs
  repeat' (first
    | with_reducible assumption | with_reducible apply keepsOut_next | with_reducible apply serveRead_keeps)

theorem execReadGroups_keeps (c : Call) (cursor : Nat) (s : State) (kept : Keeps orig s) :
    KeepsOut orig (execReadGroups c cursor s) := by
  unfold execReadGroups
  repeat' (first
    | with_reducible assumption | with_reducible apply keepsOut_next | with_reducible apply serveRead_keeps)

theorem execSetQuantum_keeps (c : Call) (us : Nat) (s : State) (kept : Keeps orig s) :
    KeepsOut orig (execSetQuantum c us s) := by
  unfold execSetQuantum
  repeat' (first
    | (simp -zeta only [keeps_mk_iff]) | with_reducible intro _ | with_reducible assumption
    | with_reducible apply keepsAns_ite | with_reducible apply keepsOut_next | with_reducible apply keepsAns_reject
    | with_reducible apply keepsAns_ok | with_reducible apply serve_keeps)

theorem execPinGroup_keeps (c : Call) (s : State) (kept : Keeps orig s) :
    KeepsOut orig (execPinGroup c s) := by
  unfold execPinGroup
  repeat' (first
    | with_reducible intro _ | with_reducible assumption | with_reducible apply keepsOut_next
    | with_reducible apply keepsAns_reject | with_reducible apply keepsAns_ok
    | with_reducible apply releaseAreas_keeps | with_reducible apply serve_keeps
    | with_reducible apply setGroup_keeps | split)

theorem execUnpinGroup_keeps (c : Call) (s : State) (kept : Keeps orig s) :
    KeepsOut orig (execUnpinGroup c s) := by
  unfold execUnpinGroup
  repeat' (first
    | with_reducible intro _ | with_reducible assumption | with_reducible apply keepsAns_ite
    | with_reducible apply keepsOut_next | with_reducible apply keepsAns_reject | with_reducible apply keepsAns_ok
    | with_reducible apply takeAreas_keeps | with_reducible apply serve_keeps | with_reducible apply setGroup_keeps
    | with_reducible refine keepsOpt_use (by assumption) ?_ | split)

theorem execSetPortWait_keeps (c : Call) (n : Nat) (s : State) (kept : Keeps orig s) :
    KeepsOut orig (execSetPortWait c n s) := by
  unfold execSetPortWait
  repeat' (first
    | with_reducible intro _ | with_reducible assumption | with_reducible apply keepsOut_next
    | with_reducible apply keepsAns_reject | with_reducible apply keepsAns_ok | with_reducible apply relay_keeps
    | with_reducible apply serve_keeps | with_reducible apply setGroup_keeps | split)

end Sys2Proof.Machine
end

