-- ==== Sys2Proof/Laws/Keeps/RegWrites.lean ====
section
/-! SUPPORT. The operations of Machine/RegWrites.lean keep what every operation keeps. -/

namespace Sys2Proof.Machine

open Sys2Proof

set_option linter.tactic.unusedName false

variable {orig res : State}

/-- What every operation keeps, of the state in a result. -/
inductive KeepsW (orig : State) : WRes → Prop where
  | ok {s} (h : Keeps orig s) : KeepsW orig (.ok s)
  | drop {c} : KeepsW orig (.drop c)

theorem keepsW_ok (h : Keeps orig res) : KeepsW orig (.ok res) := .ok h

theorem keepsW_use_ok {o : WRes} (e : o = .ok res) (h : KeepsW orig o) : Keeps orig res := by
  rw [e] at h
  cases h
  assumption

theorem keepsW_ite {c : Prop} [Decidable c] {a b : WRes} (ha : c → KeepsW orig a) (hb : ¬c → KeepsW orig b) :
    KeepsW orig (if c then a else b) := by
  split
  · next h => exact ha h
  · next h => exact hb h

theorem sqBell_keeps (qpn n : Nat) (q : Qp) (s : State) (kept : Keeps orig s) :
    Keeps orig (sqBell qpn n q s) := by
  unfold sqBell
  repeat' (first
    | with_reducible intro _ | with_reducible assumption | with_reducible apply keeps_ite
    | with_reducible apply sqKick_keeps | with_reducible apply modQp_keeps | with_reducible apply bump_keeps)

theorem rqBell_keeps (qpn n : Nat) (q : Qp) (s : State) (kept : Keeps orig s) :
    Keeps orig (rqBell qpn n q s) := by
  unfold rqBell
  repeat' (first
    | with_reducible intro _ | with_reducible assumption | with_reducible apply keeps_ite
    | with_reducible apply rqKick_keeps | with_reducible apply modQp_keeps | with_reducible apply bump_keeps)

theorem cqBell_keeps (cqn n : Nat) (arm : Bool) (c : Cq) (s : State) (kept : Keeps orig s) :
    Keeps orig (cqBell cqn n arm c s) := by
  unfold cqBell
  repeat' (first
    | with_reducible intro _ | with_reducible assumption | with_reducible apply keeps_ite
    | with_reducible apply kickJobs_keeps | with_reducible apply kickPart_keeps | with_reducible apply drainCq_keeps
    | with_reducible apply cqFire_keeps | with_reducible apply modCq_keeps | with_reducible apply bump_keeps)

theorem doorbell_keeps (func kind v : Nat) (s : State) (kept : Keeps orig s) :
    KeepsW orig (doorbell func kind v s) := by
  unfold doorbell
  repeat' (first
    | with_reducible intro _ | with_reducible assumption | with_reducible apply keepsW_ite
    | with_reducible apply keepsW_ok | with_reducible exact KeepsW.drop | with_reducible apply cqBell_keeps
    | with_reducible apply rqBell_keeps | with_reducible apply sqBell_keeps | split)

theorem dropQuiet_keeps (func : Nat) (s : State) (kept : Keeps orig s) :
    Keeps orig (dropQuiet func s) := by
  unfold dropQuiet
  repeat' (first | with_reducible assumption | with_reducible apply bump_keeps)

theorem bellWrite_keeps (func off size v : Nat) (s : State) (kept : Keeps orig s) :
    Keeps orig (bellWrite func off size v s) := by
  unfold bellWrite
  repeat' (first
    | with_reducible assumption | with_reducible apply dropQuiet_keeps | with_reducible apply doorbell_keeps
    | with_reducible apply dropWrite_keeps | with_reducible refine keepsW_use_ok (by assumption) ?_ | split)

theorem slotPut_keeps (k o : Nat) (bs : List Byte) (s : State) (kept : Keeps orig s) :
    Keeps orig (slotPut k o bs s) := by
  unfold slotPut
  repeat' (first | with_reducible assumption | with_reducible apply modSlotRegs_keeps)

theorem slotGo_keeps (func slot : Nat) (s : State) (kept : Keeps orig s) :
    Keeps orig (slotGo func slot s) := by
  unfold slotGo
  repeat' (first
    | with_reducible intro _ | with_reducible assumption | with_reducible apply keeps_ite
    | with_reducible apply modSbFunc_keeps | with_reducible apply modSlotRegs_keeps
    | with_reducible apply modSb_keeps)

theorem slotWrite_keeps (func off size v : Nat) (s : State) (kept : Keeps orig s) :
    KeepsW orig (slotWrite func off size v s) := by
  unfold slotWrite
  repeat' (first
    | with_reducible intro _ | with_reducible assumption | with_reducible apply keepsW_ite
    | with_reducible apply keeps_ite | with_reducible apply keepsW_ok | with_reducible exact KeepsW.drop
    | with_reducible apply slotGo_keeps | with_reducible apply slotPut_keeps)

theorem slotBusWrite_keeps (func off size v : Nat) (s : State) (kept : Keeps orig s) :
    Keeps orig (slotBusWrite func off size v s) := by
  unfold slotBusWrite
  repeat' (first
    | with_reducible assumption | with_reducible apply slotWrite_keeps | with_reducible apply dropQuiet_keeps
    | with_reducible apply dropWrite_keeps | with_reducible refine keepsW_use_ok (by assumption) ?_ | split)

theorem snapBlock_keeps (blk : Nat) (s : State) (kept : Keeps orig s) : Keeps orig (snapBlock blk s) := keeps_mk kept

theorem errStatWrite_keeps (blk v : Nat) (s : State) (kept : Keeps orig s) :
    Keeps orig (errStatWrite blk v s) := by
  unfold errStatWrite
  repeat' (first
    | (simp -zeta only [keeps_mk_iff]) | with_reducible assumption
    | (extract_lets +onlyGivenNames x; clear_value x; revert x; intro _))

theorem mboxGo_keeps (m : Nat) (s : State) (kept : Keeps orig s) :
    Keeps orig (mboxGo m s) := by
  unfold mboxGo
  repeat' (first | with_reducible assumption | with_reducible apply modMbox_keeps | with_reducible apply bump_keeps)

theorem mbCtlWrite_keeps (m v : Nat) (s : State) (kept : Keeps orig s) :
    KeepsOpt orig (mbCtlWrite m v s) := by
  unfold mbCtlWrite
  repeat' (first
    | with_reducible intro _ | with_reducible assumption | with_reducible apply keepsOpt_ite
    | with_reducible apply keeps_ite | with_reducible exact keepsOpt_none | with_reducible apply keepsOpt_some
    | with_reducible apply mboxGo_keeps | with_reducible apply modMbox_keeps)

theorem fqHeadWrite_keeps (p v : Nat) (s : State) (kept : Keeps orig s) :
    KeepsOpt orig (fqHeadWrite p v s) := by
  unfold fqHeadWrite
  repeat' (first
    | with_reducible intro _ | with_reducible assumption | with_reducible apply keepsOpt_ite
    | with_reducible exact keepsOpt_none | with_reducible apply keepsOpt_some
    | with_reducible apply drainFaults_keeps | with_reducible apply modTrans_keeps)

theorem respond_keeps (p tag : Nat) (retry : Bool) (s : State) (kept : Keeps orig s) :
    Keeps orig (respond p tag retry s) := by
  unfold respond
  repeat' (first
    | with_reducible assumption | with_reducible apply runUnit_keeps | with_reducible apply failUnit_keeps
    | with_reducible apply modXfer_keeps | with_reducible apply dropFault_keeps | with_reducible apply bump_keeps
    | split)

theorem respondWrite_keeps (p v : Nat) (s : State) (kept : Keeps orig s) :
    KeepsOpt orig (respondWrite p v s) := by
  unfold respondWrite
  repeat' (first
    | with_reducible intro _ | with_reducible assumption | with_reducible apply keepsOpt_ite
    | with_reducible exact keepsOpt_none | with_reducible apply keepsOpt_some | with_reducible apply respond_keeps)

theorem ringBell_keeps (p v : Nat) (s : State) (kept : Keeps orig s) :
    KeepsOpt orig (ringBell p v s) := by
  unfold ringBell
  repeat' (first
    | with_reducible assumption | with_reducible exact keepsOpt_none | with_reducible apply keepsOpt_some
    | with_reducible apply cipherKick_keeps | with_reducible apply modRing_keeps | split)

theorem injectBell_keeps (v : Nat) (s : State) (kept : Keeps orig s) :
    Keeps orig (injectBell v s) := by
  unfold injectBell
  repeat' (first
    | with_reducible intro _ | with_reducible assumption | with_reducible apply keeps_ite
    | with_reducible apply injectKick_keeps | with_reducible apply modPipe_keeps)

theorem queueWrite_keeps (p off v : Nat) (s : State) (kept : Keeps orig s) :
    KeepsOpt orig (queueWrite p off v s) := by
  unfold queueWrite
  repeat' (first
    | (simp -zeta only [keeps_mk_iff]) | with_reducible intro _ | with_reducible assumption
    | with_reducible apply keepsOpt_ite | with_reducible apply keeps_ite | with_reducible exact keepsOpt_none
    | with_reducible apply keepsOpt_some | with_reducible apply tallyAdd_keeps | with_reducible apply tallyPut_keeps)

theorem devWrite_keeps (f off v : Nat) (s : State) (kept : Keeps orig s) :
    Keeps orig (devWrite f off v s) := by
  unfold devWrite
  repeat' (first
    | (simp -zeta only [keeps_mk_iff]) | with_reducible intro _ | with_reducible assumption
    | with_reducible apply keeps_ite)

theorem regEffect_keeps (blk off v : Nat) (s : State) (kept : Keeps orig s) :
    KeepsOpt orig (regEffect blk off v s) := by
  unfold regEffect
  repeat' (first
    | with_reducible intro _ | with_reducible assumption | with_reducible apply keepsOpt_ite
    | with_reducible apply keeps_ite | with_reducible apply keepsOpt_some | with_reducible apply devWrite_keeps
    | with_reducible apply queueWrite_keeps | with_reducible apply injectBell_keeps
    | with_reducible apply ringBell_keeps | with_reducible apply respondWrite_keeps
    | with_reducible apply fqHeadWrite_keeps | with_reducible apply mbCtlWrite_keeps
    | with_reducible apply errStatWrite_keeps | with_reducible apply snapBlock_keeps
    | with_reducible apply modTrans_keeps | with_reducible refine keeps_chip ?_ (fuses_keep _))

theorem normalWrite_keeps (blk off : Nat) (wide : Bool) (v : Nat) (s : State) (kept : Keeps orig s) :
    KeepsW orig (normalWrite blk off wide v s) := by
  unfold normalWrite
  repeat' (first
    | with_reducible intro _ | with_reducible assumption | with_reducible apply keepsW_ite
    | with_reducible apply keepsAns_ok | with_reducible apply keepsW_ok | with_reducible exact KeepsW.drop
    | with_reducible apply regEffect_keeps | with_reducible refine keepsOpt_use (by assumption) ?_ | split)

theorem aliasWrite_keeps (view blk off : Nat) (wide : Bool) (v : Nat) (s : State) (kept : Keeps orig s) :
    KeepsW orig (aliasWrite view blk off wide v s) := by
  unfold aliasWrite
  repeat' (first
    | with_reducible intro _ | with_reducible assumption | with_reducible apply keepsW_ite
    | with_reducible apply keepsAns_ok | with_reducible apply keepsW_ok | with_reducible exact KeepsW.drop
    | with_reducible apply regEffect_keeps | with_reducible refine keepsOpt_use (by assumption) ?_ | split)

theorem viewWrite_keeps (blk off : Nat) (wide : Bool) (v : Nat) (s : State) (kept : Keeps orig s) :
    KeepsW orig (viewWrite blk off wide v s) := by
  unfold viewWrite
  repeat' (first
    | with_reducible intro _ | with_reducible assumption | with_reducible apply keepsW_ite
    | with_reducible apply aliasWrite_keeps | with_reducible apply normalWrite_keeps)

theorem areaWrite_keeps (blk off size v : Nat) (s : State) (kept : Keeps orig s) :
    KeepsW orig (areaWrite blk off size v s) := by
  unfold areaWrite
  repeat' (first
    | with_reducible intro _ | with_reducible assumption | with_reducible apply keepsW_ite
    | with_reducible apply keepsW_ok | with_reducible exact KeepsW.drop | with_reducible apply wrMem_keeps)

theorem blockWrite_keeps (blk off size v : Nat) (s : State) (kept : Keeps orig s) :
    KeepsW orig (blockWrite blk off size v s) := by
  unfold blockWrite
  repeat' (first
    | with_reducible assumption | with_reducible exact KeepsW.drop | with_reducible apply areaWrite_keeps
    | with_reducible apply viewWrite_keeps | with_reducible refine keepsW_use_ok (by assumption) ?_ | split)

theorem recBadAddr_keeps (func off : Nat) (write bar2 : Bool) (s : State) (kept : Keeps orig s) :
    Keeps orig (recBadAddr func off write bar2 s) := by
  unfold recBadAddr
  repeat' (first
    | (simp -zeta only [keeps_mk_iff]) | with_reducible intro _ | with_reducible assumption
    | with_reducible apply keeps_ite)

theorem bar0Write_keeps (func off size v : Nat) (s : State) (kept : Keeps orig s) :
    Keeps orig (bar0Write func off size v s) := by
  unfold bar0Write
  repeat' (first
    | with_reducible intro _ | with_reducible assumption | with_reducible apply keeps_ite
    | with_reducible apply recBadAddr_keeps | with_reducible apply blockWrite_keeps
    | with_reducible apply dropQuiet_keeps | with_reducible apply dropWrite_keeps | with_reducible apply emit_keeps
    | with_reducible refine keepsW_use_ok (by assumption) ?_ | split)

theorem bar2Write_keeps (func off size v : Nat) (s : State) (kept : Keeps orig s) :
    Keeps orig (bar2Write func off size v s) := by
  unfold bar2Write
  repeat' (first
    | with_reducible intro _ | with_reducible assumption | with_reducible apply keeps_ite
    | with_reducible apply recBadAddr_keeps | with_reducible apply slotBusWrite_keeps
    | with_reducible apply bellWrite_keeps | with_reducible apply emit_keeps)

theorem procWrite_keeps (p off size v : Nat) (s : State) (kept : Keeps orig s) :
    KeepsOpt orig (procWrite p off size v s) := by
  unfold procWrite
  repeat' (first
    | with_reducible assumption | with_reducible exact keepsOpt_none | with_reducible apply keepsOpt_some
    | with_reducible apply blockWrite_keeps | with_reducible apply logDrop_keeps
    | with_reducible refine keepsW_use_ok (by assumption) ?_ | split)

theorem maskWrite_keeps (func off v : Nat) (s : State) (kept : Keeps orig s) :
    Keeps orig (maskWrite func off v s) := by
  unfold maskWrite
  repeat' (first
    | with_reducible intro _ | with_reducible assumption | with_reducible apply keeps_ite
    | with_reducible apply modFunc_keeps)

theorem regWrite_keeps (w : RegWrite) (s : State) (kept : Keeps orig s) :
    Keeps orig (regWrite w s) := by
  unfold regWrite
  repeat' (first
    | with_reducible assumption | with_reducible apply maskWrite_keeps | with_reducible apply procWrite_keeps
    | with_reducible apply bar2Write_keeps | with_reducible apply bar0Write_keeps
    | with_reducible apply procCrash_keeps | with_reducible apply hostStores_keeps
    | with_reducible refine keepsOpt_use (by assumption) ?_ | split)

end Sys2Proof.Machine
end

