-- ==== Sys2Proof/Laws/Keeps/FwExec.lean ====
section
/-! SUPPORT. The operations of Machine/FwExec.lean keep what every operation keeps. -/

namespace Sys2Proof.Machine

open Sys2Proof

set_option linter.tactic.unusedName false

variable {orig res : State}

theorem evtPut_keeps (line : List Byte) (s : State) (kept : Keeps orig s) :
    Keeps orig (evtPut line s) := by
  unfold evtPut
  repeat' (first
    | with_reducible intro _ | with_reducible assumption | with_reducible apply keeps_ite
    | with_reducible apply eventRaw_keeps)

theorem fwOut_keeps (port : Nat) (line : List Byte) (s : State) (kept : Keeps orig s) :
    Keeps orig (fwOut port line s) := by
  unfold fwOut
  repeat' (first
    | with_reducible intro _ | with_reducible assumption | with_reducible apply keeps_ite
    | with_reducible apply evtPut_keeps | with_reducible apply modProc_keeps | split)

theorem fwTake_keeps (p port : Nat) (s : State) (kept : Keeps orig s) :
    Keeps orig (fwTake p port s) := by
  unfold fwTake
  repeat' (first
    | with_reducible assumption | with_reducible apply modProc_keeps | with_reducible apply draw_keeps | split)

theorem fwTouch_keeps (p : Nat) (ecc : List EccHit) : ∀ (x0 : List (Nat × Nat)) (x1 : State), Keeps orig x1 →
    Keeps orig (fwTouch p ecc x0 x1).2
  | [], s, kept => by
    unfold fwTouch
    repeat' (first
      | with_reducible assumption | with_reducible apply readSpan_keeps | with_reducible apply fwTouch_keeps
      | with_reducible refine keepsAcc_use_ok (by assumption) ?_
      | with_reducible refine keepsAcc_use_stop (by assumption) ?_ | split)
  | (a, n) :: r, s, kept => by
    unfold fwTouch
    repeat' (first
      | with_reducible assumption | with_reducible apply readSpan_keeps | with_reducible apply fwTouch_keeps
      | with_reducible refine keepsAcc_use_ok (by assumption) ?_
      | with_reducible refine keepsAcc_use_stop (by assumption) ?_ | split)

theorem fwPut_keeps (p ea : Nat) (bs : List Byte) (s : State) (kept : Keeps orig s) :
    Keeps orig (fwPut p ea bs s) := by
  unfold fwPut
  repeat' (first
    | with_reducible assumption | with_reducible apply procWrite_keeps | with_reducible apply wrMem_keeps
    | with_reducible apply keepsOpt_getD | split)

theorem fwCommit_keeps (p : Nat) (ecc : List EccHit) (a : Plan) (f : Flow) (halt : Bool) (s : State) (kept : Keeps orig s) :
    Keeps orig (fwCommit p ecc a f halt s) := by
  unfold fwCommit
  repeat' (first
    | with_reducible intro _ | with_reducible assumption | with_reducible apply keeps_foldl
    | with_reducible apply fwPut_keeps | with_reducible apply fwTouch_keeps | with_reducible apply fwTake_keeps
    | with_reducible apply fwOut_keeps | with_reducible apply procCrash_keeps | with_reducible apply modProc_keeps
    | with_reducible refine keepsSnd_use (by assumption) ?_ | split)

theorem fwRun_keeps (p : Nat) (ecc : List EccHit) (s : State) (kept : Keeps orig s) :
    Keeps orig (fwRun p ecc s) := by
  unfold fwRun
  repeat' (first
    | with_reducible intro _ | with_reducible assumption | with_reducible apply keeps_ite
    | with_reducible apply fwCommit_keeps | with_reducible apply procCrash_keeps | with_reducible apply modProc_keeps)

theorem fwBundle_keeps (again : Bool) (p : Nat) (ecc : List EccHit) (s : State) (kept : Keeps orig s) :
    Keeps orig (fwBundle again p ecc s) := by
  unfold fwBundle
  repeat' (first
    | with_reducible intro _ | with_reducible assumption | with_reducible apply keeps_ite
    | with_reducible apply fwRun_keeps)

theorem coreBundle_keeps (again : Bool) (core : Core) (ecc : List EccHit) (s : State) (kept : Keeps orig s) :
    Keeps orig (coreBundle again core ecc s) := by
  unfold coreBundle
  repeat' (first
    | with_reducible assumption | with_reducible apply fwBundle_keeps | with_reducible apply tileBundle_keeps | split)

theorem execBundleIssue_keeps (core : Core) (ecc : List EccHit) (s : State) (kept : Keeps orig s) :
    KeepsOut orig (execBundleIssue core ecc s) := by
  unfold execBundleIssue
  repeat' (first
    | with_reducible assumption | with_reducible apply coreBundle_keeps | with_reducible apply done_keeps)

theorem execBundleResume_keeps (core : Core) (ecc : List EccHit) (s : State) (kept : Keeps orig s) :
    KeepsOut orig (execBundleResume core ecc s) := by
  unfold execBundleResume
  repeat' (first
    | with_reducible assumption | with_reducible apply coreBundle_keeps | with_reducible apply done_keeps)

end Sys2Proof.Machine
end

