-- ==== Sys2Proof/Laws/Keeps/HostCmds.lean ====
section
/-! SUPPORT. The operations of Machine/HostCmds.lean keep what every operation keeps. -/

namespace Sys2Proof.Machine

open Sys2Proof

set_option linter.tactic.unusedName false

variable {orig res : State}

theorem sendPending_keeps (f : Nat) (s : State) (kept : Keeps orig s) :
    Keeps orig (sendPending f s) := by
  unfold sendPending
  repeat' (first
    | with_reducible intro _ | with_reducible assumption | with_reducible apply keeps_ite
    | with_reducible apply keeps_foldl | with_reducible apply modFunc_keeps | with_reducible apply bump_keeps
    | with_reducible apply emit_keeps)

theorem execMsixUnmask_keeps (func vec : Nat) (s : State) (kept : Keeps orig s) :
    KeepsOut orig (execMsixUnmask func vec s) := by
  unfold execMsixUnmask
  repeat' (first
    | with_reducible intro _ | with_reducible assumption | with_reducible apply keeps_ite
    | with_reducible apply keepsOut_next | with_reducible apply sendPending_keeps
    | with_reducible apply modFunc_keeps)

theorem dropTask_keeps (k : Nat) (s : State) (kept : Keeps orig s) :
    Keeps orig (dropTask k s) := by
  unfold dropTask
  repeat' (first
    | with_reducible assumption | with_reducible apply sbCount_keeps | with_reducible apply modSlotRegs_keeps
    | with_reducible apply modSb_keeps | with_reducible apply tallyAdd_keeps | with_reducible apply msix_keeps
    | split)

theorem beginQuiesce_keeps (f cause : Nat) (after : FState) (flr reset : Bool) (waiter : Option MbRef) (s : State) (kept : Keeps orig s) :
    Keeps orig (beginQuiesce f cause after flr reset waiter s) := by
  unfold beginQuiesce
  repeat' (first
    | with_reducible intro _ | with_reducible assumption | with_reducible apply keeps_foldl
    | with_reducible apply dropTask_keeps | with_reducible apply modFunc_keeps)

theorem quiesceVfs_keeps (s : State) (kept : Keeps orig s) :
    Keeps orig (quiesceVfs s) := by
  unfold quiesceVfs
  repeat' (first
    | (simp -zeta only [keeps_mk_iff]) | with_reducible intro _ | with_reducible assumption
    | with_reducible apply keeps_foldl | with_reducible apply beginQuiesce_keeps | with_reducible apply modFunc_keeps
    | split)

theorem freshMbox_keeps (m : Nat) (s : State) (kept : Keeps orig s) :
    Keeps orig (freshMbox m s) := by
  unfold freshMbox
  repeat' (first
    | with_reducible assumption | with_reducible apply Memory.wf_filter
    | with_reducible refine keeps_mem ?_ (fun _ => ?_))

theorem resetLocal_keeps (f : Nat) (config : Bool) (s : State) (kept : Keeps orig s) :
    Keeps orig (resetLocal f config s) := by
  unfold resetLocal
  repeat' (first
    | (simp -zeta only [keeps_mk_iff]) | with_reducible intro _ | with_reducible assumption
    | with_reducible apply keeps_ite | with_reducible apply freshMbox_keeps | with_reducible apply quiesceVfs_keeps
    | with_reducible apply modSbFunc_keeps | with_reducible apply modSb_keeps | with_reducible apply modFunc_keeps)

theorem abandonUnwritten_keeps (m : Nat) (s : State) (kept : Keeps orig s) :
    Keeps orig (abandonUnwritten m s) := by
  unfold abandonUnwritten
  repeat' (first
    | with_reducible intro _ | with_reducible assumption | with_reducible apply keeps_ite
    | with_reducible apply abandonMbox_keeps)

theorem endQuiesce_keeps (f : Nat) (s : State) (kept : Keeps orig s) :
    Keeps orig (endQuiesce f s) := by
  unfold endQuiesce
  repeat' (first
    | (simp -zeta only [keeps_mk_iff]) | with_reducible intro _ | with_reducible assumption
    | with_reducible apply keeps_ite | with_reducible apply keeps_foldl | with_reducible apply abandonUnwritten_keeps
    | with_reducible apply resetLocal_keeps | with_reducible apply finish_keeps | with_reducible apply modFunc_keeps
    | with_reducible apply emit_keeps)

theorem execQuiesceEnd_keeps (func : Nat) (s : State) (kept : Keeps orig s) :
    KeepsOut orig (execQuiesceEnd func s) := by
  unfold execQuiesceEnd
  repeat' (first
    | with_reducible intro _ | with_reducible assumption | with_reducible apply keepsOut_ite
    | with_reducible apply keepsOut_next | with_reducible apply endQuiesce_keeps | with_reducible apply done_keeps)

theorem endUnder_keeps (f : Nat) (s : State) (kept : Keeps orig s) :
    Keeps orig (endUnder f s) := by
  unfold endUnder
  repeat' (first
    | (simp -zeta only [keeps_mk_iff]) | with_reducible intro _ | with_reducible assumption
    | with_reducible apply keeps_foldl | with_reducible apply endWalk_keeps | with_reducible apply closeTask_keeps
    | with_reducible apply pumpWaiting_keeps | with_reducible apply endXfer_keeps
    | with_reducible apply modFunc_keeps)

theorem execQuiesceTimeout_keeps (func : Nat) (s : State) (kept : Keeps orig s) :
    KeepsOut orig (execQuiesceTimeout func s) := by
  unfold execQuiesceTimeout
  repeat' (first
    | with_reducible intro _ | with_reducible assumption | with_reducible apply keepsOut_ite
    | with_reducible apply keepsOut_next | with_reducible apply endUnder_keeps | with_reducible apply done_keeps)

theorem execFlr_keeps (func : Nat) (s : State) (kept : Keeps orig s) :
    KeepsOut orig (execFlr func s) := by
  unfold execFlr
  repeat' (first
    | with_reducible assumption | with_reducible apply keepsOut_next | with_reducible apply resetLocal_keeps
    | with_reducible apply beginQuiesce_keeps | with_reducible apply done_keeps | with_reducible apply modFunc_keeps
    | with_reducible apply emit_keeps | split)

theorem execVfEnableClear_keeps (s : State) (kept : Keeps orig s) :
    KeepsOut orig (execVfEnableClear s) := by
  unfold execVfEnableClear
  repeat' (first
    | with_reducible intro _ | with_reducible assumption | with_reducible apply keeps_ite
    | with_reducible apply quiesceVfs_keeps | with_reducible apply done_keeps)

theorem execHotReset_keeps (down : Bool) (s : State) (kept : Keeps orig s) :
    KeepsOut orig (execHotReset down s) := by
  unfold execHotReset
  repeat' (first
    | (simp -zeta only [keeps_mk_iff]) | with_reducible intro _ | with_reducible assumption
    | with_reducible apply keepsOut_ite | with_reducible apply keeps_ite | with_reducible apply keepsOut_next
    | with_reducible apply quiesceVfs_keeps | with_reducible apply beginQuiesce_keeps
    | with_reducible apply done_keeps | with_reducible apply modFunc_keeps)

theorem nowSends_keeps (f : Nat) (s : State) (kept : Keeps orig s) :
    Keeps orig (nowSends f s) := by
  unfold nowSends
  repeat' (first
    | with_reducible assumption | with_reducible apply sendPending_keeps | with_reducible apply functionSends_keeps)

theorem execConfigurationWrite_keeps (func : Nat) (ch : CfgChange) (s : State) (kept : Keeps orig s) :
    KeepsOut orig (execConfigurationWrite func ch s) := by
  unfold execConfigurationWrite
  repeat' (first
    | (simp -zeta only [keeps_mk_iff]) | with_reducible assumption | with_reducible apply keepsOut_next
    | with_reducible apply nowSends_keeps | with_reducible apply done_keeps | with_reducible apply pumpWaiting_keeps
    | with_reducible apply modFunc_keeps | split)

theorem execReadFunctions_keeps (c : Call) (cursor : Nat) (s : State) (kept : Keeps orig s) :
    KeepsOut orig (execReadFunctions c cursor s) := by
  unfold execReadFunctions
  repeat' (first
    | with_reducible assumption | with_reducible apply keepsOut_next | with_reducible apply serveRead_keeps)

theorem detachAll_keeps (f : Nat) (s : State) (kept : Keeps orig s) :
    Keeps orig (detachAll f s) := by
  unfold detachAll
  repeat' (first | with_reducible assumption | with_reducible apply modSb_keeps)

theorem execFuncAssign_keeps (c : Call) (func : Nat) (s : State) (kept : Keeps orig s) :
    KeepsOut orig (execFuncAssign c func s) := by
  unfold execFuncAssign
  repeat' (first
    | with_reducible intro _ | with_reducible assumption | with_reducible apply keepsOut_next
    | with_reducible apply keepsAns_reject | with_reducible apply keepsAns_ok | with_reducible apply detachAll_keeps
    | with_reducible apply resetLocal_keeps | with_reducible apply serve_keeps | with_reducible apply modFunc_keeps
    | split)

theorem execFuncEnable_keeps (c : Call) (func : Nat) (s : State) (kept : Keeps orig s) :
    KeepsOut orig (execFuncEnable c func s) := by
  unfold execFuncEnable
  repeat' (first
    | with_reducible intro _ | with_reducible assumption | with_reducible apply keepsAns_reject
    | with_reducible apply keepsAns_ok | with_reducible apply nowSends_keeps | with_reducible apply done_keeps
    | with_reducible apply serve_keeps | with_reducible apply modFunc_keeps | split)

theorem execFuncDisable_keeps (c : Call) (func : Nat) (s : State) (kept : Keeps orig s) :
    KeepsOut orig (execFuncDisable c func s) := by
  unfold execFuncDisable
  repeat' (first
    | with_reducible intro _ | with_reducible assumption | with_reducible apply keepsAns_ite
    | with_reducible apply keepsAns_reject | with_reducible apply keepsAns_later
    | with_reducible apply beginQuiesce_keeps | with_reducible apply done_keeps | with_reducible apply serve_keeps
    | with_reducible apply modFunc_keeps | split)

end Sys2Proof.Machine
end

