-- ==== Sys2Proof/Laws/Keeps/LinkEvents.lean ====
section
/-! SUPPORT. The operations of Machine/LinkEvents.lean keep what every operation keeps. -/

namespace Sys2Proof.Machine

open Sys2Proof

set_option linter.tactic.unusedName false

variable {orig res : State}

theorem gangDown_keeps (gi : Nat) (s : State) (kept : Keeps orig s) :
    Keeps orig (gangDown gi s) := by
  unfold gangDown
  repeat' (first
    | with_reducible assumption | with_reducible apply keeps_foldl | with_reducible apply failGangParts_keeps
    | with_reducible apply modGang_keeps | with_reducible apply event_keeps)

theorem sendReform_keeps (g : Gang) (s : State) (kept : Keeps orig s) :
    Keeps orig (sendReform g s) := by
  unfold sendReform
  repeat' (first | with_reducible assumption | with_reducible apply sendCtl_keeps | split)

theorem beginReform_keeps (gi : Nat) (g : Gang) (order : List Nat) (s : State) (kept : Keeps orig s) :
    Keeps orig (beginReform gi g order s) := by
  unfold beginReform
  repeat' (first
    | with_reducible assumption | with_reducible apply sendReform_keeps | with_reducible apply setGang_keeps)

theorem clearMember_keeps (n : Nat) (heir : Option Nat) (s : State) (kept : Keeps orig s) :
    Keeps orig (clearMember n heir s) := by
  unfold clearMember
  repeat' (first
    | with_reducible intro _ | with_reducible assumption | with_reducible apply keeps_foldl
    | with_reducible apply modLink_keeps | split)

theorem leaveMember_keeps (gi n : Nat) (s : State) (kept : Keeps orig s) :
    Keeps orig (leaveMember gi n s) := by
  unfold leaveMember
  repeat' (first
    | with_reducible intro _ | with_reducible assumption | with_reducible apply keeps_ite
    | with_reducible apply clearMember_keeps | with_reducible apply beginReform_keeps
    | with_reducible apply gangDown_keeps | with_reducible apply setGang_keeps | with_reducible apply modLink_keeps
    | with_reducible apply bump_keeps | split)

theorem unlist_keeps (gi n : Nat) (s : State) (kept : Keeps orig s) :
    Keeps orig (unlist gi n s) := by
  unfold unlist
  repeat' (first
    | with_reducible assumption | with_reducible apply leaveMember_keeps | with_reducible apply modGang_keeps)

theorem recalIdle_keeps (n : Nat) (s : State) (kept : Keeps orig s) :
    Keeps orig (recalIdle n s) := by
  unfold recalIdle
  repeat' (first
    | with_reducible assumption | with_reducible apply spareCheck_keeps | with_reducible apply modLink_keeps)

theorem startDue_keeps (gi : Nat) (s : State) (kept : Keeps orig s) :
    Keeps orig (startDue gi s) := by
  unfold startDue
  repeat' (first
    | with_reducible intro _ | with_reducible assumption | with_reducible apply keeps_ite
    | with_reducible apply keeps_foldl | with_reducible apply recalIdle_keeps)

theorem endRecal_keeps (n : Nat) (s : State) (kept : Keeps orig s) :
    Keeps orig (endRecal n s) := by
  unfold endRecal
  repeat' (first
    | with_reducible assumption | with_reducible apply modLink_keeps | with_reducible apply finish_keeps | split)

theorem failLink_keeps (n : Nat) (s : State) (kept : Keeps orig s) :
    Keeps orig (failLink n s) := by
  unfold failLink
  repeat' (first
    | with_reducible assumption
    | (extract_lets +onlyGivenNames x; refine keeps_cut (r := orig) (u := x) ?_ (fun _ => ?_); rotate_left; clear_value x; revert x; intro _ _; rotate_left; (simp -zeta only [x]); clear x)
    | (extract_lets +onlyGivenNames x; clear_value x; revert x; intro _) | with_reducible apply endRecal_keeps
    | with_reducible apply startDue_keeps | with_reducible apply unlist_keeps | with_reducible apply spareCheck_keeps
    | with_reducible apply modLink_keeps | split)

theorem recalMember_keeps (n : Nat) (force : Bool) (s : State) (kept : Keeps orig s) :
    Keeps orig (recalMember n force s) := by
  unfold recalMember
  repeat' (first
    | with_reducible intro _ | with_reducible assumption | with_reducible apply keeps_ite
    | with_reducible apply startDue_keeps | with_reducible apply leaveMember_keeps
    | with_reducible apply spareCheck_keeps | with_reducible apply modLink_keeps | with_reducible apply bump_keeps
    | split)

theorem rejoin_keeps (gi n pos : Nat) (g : Gang) (s : State) (kept : Keeps orig s) :
    Keeps orig (rejoin gi n pos g s) := by
  unfold rejoin
  repeat' (first
    | with_reducible assumption | with_reducible apply beginReform_keeps | with_reducible apply modLink_keeps
    | with_reducible apply bump_keeps)

theorem recalWaiting_keeps (gi : Nat) (s : State) (kept : Keeps orig s) :
    Keeps orig (recalWaiting gi s) := by
  unfold recalWaiting
  repeat' (first | with_reducible assumption | with_reducible apply recalMember_keeps | split)

theorem sendHello_keeps (n : Nat) (s : State) (kept : Keeps orig s) :
    Keeps orig (sendHello n s) := by
  unfold sendHello
  repeat' (first | with_reducible assumption | with_reducible apply sendCtl_keeps | split)

theorem execSignalDetect_keeps (link : Nat) (s : State) (kept : Keeps orig s) :
    KeepsOut orig (execSignalDetect link s) := by
  unfold execSignalDetect
  repeat' (first
    | with_reducible intro _ | with_reducible assumption | with_reducible apply keepsOut_ite
    | with_reducible apply keepsOut_next | with_reducible apply sendHello_keeps | with_reducible apply modLink_keeps)

theorem execHelloResend_keeps (link : Nat) (s : State) (kept : Keeps orig s) :
    KeepsOut orig (execHelloResend link s) := by
  unfold execHelloResend
  repeat' (first
    | with_reducible intro _ | with_reducible assumption | with_reducible apply keepsOut_ite
    | with_reducible apply keepsOut_next | with_reducible apply sendHello_keeps)

theorem miswire_keeps (gi n : Nat) (s : State) (kept : Keeps orig s) :
    Keeps orig (miswire gi n s) := by
  unfold miswire
  repeat' (first
    | with_reducible assumption | with_reducible apply unlist_keeps | with_reducible apply modLink_keeps)

theorem trainLink_keeps (gi : Nat) (g : Gang) (n : Nat) (s : State) (kept : Keeps orig s) :
    Keeps orig (trainLink gi g n s) := by
  unfold trainLink
  repeat' (first
    | with_reducible intro _ | with_reducible assumption | with_reducible apply keeps_ite
    | with_reducible apply recalWaiting_keeps | with_reducible apply pumpGang_keeps
    | with_reducible apply modGang_keeps | with_reducible apply modLink_keeps)

theorem trimKept_keeps (gi : Nat) (s : State) (kept : Keeps orig s) :
    Keeps orig (trimKept gi s) := by
  unfold trimKept
  repeat' (first
    | with_reducible intro _ | with_reducible assumption | with_reducible apply keeps_ite
    | with_reducible apply setGang_keeps | split)

theorem takeAck_keeps (n ack vc cred : Nat) (s : State) (kept : Keeps orig s) :
    Keeps orig (takeAck n ack vc cred s) := by
  unfold takeAck
  repeat' (first
    | with_reducible assumption
    | (extract_lets +onlyGivenNames x; refine keeps_cut (r := orig) (u := x) ?_ (fun _ => ?_); rotate_left; clear_value x; revert x; intro _ _; rotate_left; (simp -zeta only [x]); clear x)
    | with_reducible apply trimKept_keeps | with_reducible apply modGang_keeps | with_reducible apply modLink_keeps
    | split)

theorem takeHead_keeps (h : CtlHead) (s : State) (kept : Keeps orig s) :
    Keeps orig (takeHead h s) := by
  unfold takeHead
  repeat' (first
    | with_reducible assumption
    | (extract_lets +onlyGivenNames x; refine keeps_cut (r := orig) (u := x) ?_ (fun _ => ?_); rotate_left; clear_value x; revert x; intro _ _; rotate_left; (simp -zeta only [x]); clear x)
    | with_reducible apply takeAck_keeps | with_reducible apply pumpGang_keeps | split)

theorem execHello_keeps (h : CtlHead) (m : HelloMsg) (s : State) (kept : Keeps orig s) :
    KeepsOut orig (execHello h m s) := by
  unfold execHello
  repeat' (first
    | with_reducible intro _ | with_reducible assumption
    | (extract_lets +onlyGivenNames x; refine keeps_cut (r := orig) (u := x) ?_ (fun _ => ?_); rotate_left; clear_value x; revert x; intro _ _; rotate_left; (simp -zeta only [x]); clear x)
    | (extract_lets +onlyGivenNames x; clear_value x; revert x; intro _) | with_reducible apply keepsOut_next
    | with_reducible apply keeps_foldl | with_reducible apply takeHead_keeps | with_reducible apply trainLink_keeps
    | with_reducible apply miswire_keeps | with_reducible apply done_keeps | with_reducible apply spareCheck_keeps
    | with_reducible apply modLink_keeps | split)

theorem execTrainingTimeout_keeps (link : Nat) (s : State) (kept : Keeps orig s) :
    KeepsOut orig (execTrainingTimeout link s) := by
  unfold execTrainingTimeout
  repeat' (first
    | with_reducible intro _ | with_reducible assumption | with_reducible apply keepsOut_ite
    | with_reducible apply keepsOut_next | with_reducible apply failLink_keeps | with_reducible apply done_keeps)

theorem replayFrom_keeps (n : Nat) (us : List Unacked) (s : State) (kept : Keeps orig s) :
    Keeps orig (replayFrom n us s) := by
  unfold replayFrom
  repeat' (first
    | with_reducible intro _ | with_reducible assumption | with_reducible apply keeps_ite
    | with_reducible apply keeps_foldl | with_reducible apply failLink_keeps | with_reducible apply sendFrame_keeps
    | with_reducible apply modLink_keeps | with_reducible apply bump_keeps)

theorem execJlNak_keeps (h : CtlHead) (seq : Nat) (s : State) (kept : Keeps orig s) :
    KeepsOut orig (execJlNak h seq s) := by
  unfold execJlNak
  repeat' (first
    | with_reducible intro _ | with_reducible assumption | with_reducible apply keepsOut_ite
    | with_reducible apply keepsOut_next | with_reducible apply replayFrom_keeps
    | with_reducible apply takeHead_keeps | with_reducible apply done_keeps)

theorem execReplayTimer_keeps (link : Nat) (s : State) (kept : Keeps orig s) :
    KeepsOut orig (execReplayTimer link s) := by
  unfold execReplayTimer
  repeat' (first
    | with_reducible intro _ | with_reducible assumption | with_reducible apply keepsOut_ite
    | with_reducible apply keepsOut_next | with_reducible apply replayFrom_keeps | with_reducible apply done_keeps)

theorem sendNak_keeps (n : Nat) (s : State) (kept : Keeps orig s) :
    Keeps orig (sendNak n s) := by
  unfold sendNak
  repeat' (first
    | with_reducible intro _ | with_reducible assumption | with_reducible apply keeps_ite
    | with_reducible apply sendCtl_keeps | with_reducible apply modLink_keeps)

theorem execNakResend_keeps (link : Nat) (s : State) (kept : Keeps orig s) :
    KeepsOut orig (execNakResend link s) := by
  unfold execNakResend
  repeat' (first
    | with_reducible intro _ | with_reducible assumption | with_reducible apply keepsOut_ite
    | with_reducible apply keepsOut_next | with_reducible apply sendCtl_keeps)

theorem moveLinkOut_keeps (n : Nat) (s : State) (kept : Keeps orig s) :
    Keeps orig (moveLinkOut n s) := by
  unfold moveLinkOut
  repeat' (first
    | with_reducible intro _ | with_reducible assumption | with_reducible apply keeps_ite
    | with_reducible apply recalMember_keeps | with_reducible apply recalIdle_keeps
    | with_reducible apply modLink_keeps)

theorem crcFail_keeps (n : Nat) (s : State) (kept : Keeps orig s) :
    Keeps orig (crcFail n s) := by
  unfold crcFail
  repeat' (first
    | with_reducible intro _ | with_reducible assumption | with_reducible apply keeps_ite
    | with_reducible apply moveLinkOut_keeps | with_reducible apply modLink_keeps | with_reducible apply bump_keeps)

theorem takeMsg_keeps (gi n : Nat) (g : Gang) (bs : List Byte) (s : State) (kept : Keeps orig s) :
    Keeps orig (takeMsg gi n g bs s) := by
  unfold takeMsg
  repeat' (first
    | with_reducible assumption | with_reducible apply modGang_keeps | with_reducible apply bump_keeps | split)

theorem deliverFrames_keeps (gi n : Nat) : ∀ (x0 : Nat) (x1 : State), Keeps orig x1 →
    Keeps orig (deliverFrames gi n x0 x1)
  | 0, s, kept => by
    unfold deliverFrames
    repeat' (first
      | with_reducible assumption | with_reducible apply takeMsg_keeps | with_reducible apply setGang_keeps
      | with_reducible apply modLink_keeps | with_reducible apply deliverFrames_keeps | split)
  | fuel + 1, s, kept => by
    unfold deliverFrames
    repeat' (first
      | with_reducible assumption | with_reducible apply takeMsg_keeps | with_reducible apply setGang_keeps
      | with_reducible apply modLink_keeps | with_reducible apply deliverFrames_keeps | split)

theorem gangFrame_keeps (gi n : Nat) (f : JlFrame) (s : State) (kept : Keeps orig s) :
    Keeps orig (gangFrame gi n f s) := by
  unfold gangFrame
  repeat' (first
    | with_reducible intro _ | with_reducible assumption | with_reducible apply keeps_ite
    | with_reducible apply deliverFrames_keeps | with_reducible apply setGang_keeps | split)

theorem dataFrame_keeps (n : Nat) (f : JlFrame) (s : State) (kept : Keeps orig s) :
    Keeps orig (dataFrame n f s) := by
  unfold dataFrame
  repeat' (first
    | with_reducible intro _ | with_reducible assumption | with_reducible apply keeps_ite
    | with_reducible apply gangFrame_keeps | with_reducible apply sendNak_keeps | with_reducible apply modLink_keeps
    | split)

theorem rxFrame_keeps (type n : Nat) (f : JlFrame) (s : State) (kept : Keeps orig s) :
    Keeps orig (rxFrame type n f s) := by
  unfold rxFrame
  repeat' (first
    | with_reducible assumption
    | (extract_lets +onlyGivenNames x; refine keeps_cut (r := orig) (u := x) ?_ (fun _ => ?_); rotate_left; clear_value x; revert x; intro _ _; rotate_left; (simp -zeta only [x]); clear x)
    | with_reducible apply dataFrame_keeps | with_reducible apply crcFail_keeps | with_reducible apply sendNak_keeps
    | with_reducible apply takeAck_keeps | with_reducible apply pumpGang_keeps | split)

theorem execJlDataFrame_keeps (link : Nat) (fr : JlFrame) (s : State) (kept : Keeps orig s) :
    KeepsOut orig (execJlDataFrame link fr s) := by
  unfold execJlDataFrame
  repeat' (first | with_reducible assumption | with_reducible apply rxFrame_keeps | with_reducible apply done_keeps)

theorem execIdleFrame_keeps (link : Nat) (fr : JlFrame) (s : State) (kept : Keeps orig s) :
    KeepsOut orig (execIdleFrame link fr s) := by
  unfold execIdleFrame
  repeat' (first | with_reducible assumption | with_reducible apply rxFrame_keeps | with_reducible apply done_keeps)

theorem execLossOfSignal_keeps (link : Nat) (s : State) (kept : Keeps orig s) :
    KeepsOut orig (execLossOfSignal link s) := by
  unfold execLossOfSignal
  repeat' (first
    | with_reducible assumption | with_reducible apply keepsOut_next | with_reducible apply failLink_keeps
    | with_reducible apply done_keeps | split)

theorem execReformAck_keeps (h : CtlHead) (restart : Nat) (s : State) (kept : Keeps orig s) :
    KeepsOut orig (execReformAck h restart s) := by
  unfold execReformAck
  repeat' (first
    | with_reducible assumption
    | (extract_lets +onlyGivenNames x; refine keeps_cut (r := orig) (u := x) ?_ (fun _ => ?_); rotate_left; clear_value x; revert x; intro _ _; rotate_left; (simp -zeta only [x]); clear x)
    | with_reducible apply takeHead_keeps | with_reducible apply recalWaiting_keeps
    | with_reducible apply startDue_keeps | with_reducible apply done_keeps | with_reducible apply pumpGang_keeps
    | with_reducible apply setGang_keeps | split)

theorem execReformResend_keeps (gang : Nat) (s : State) (kept : Keeps orig s) :
    KeepsOut orig (execReformResend gang s) := by
  unfold execReformResend
  repeat' (first
    | with_reducible assumption | with_reducible apply keepsOut_next | with_reducible apply startDue_keeps
    | with_reducible apply sendReform_keeps | with_reducible apply gangDown_keeps | with_reducible apply done_keeps
    | with_reducible apply setGang_keeps | split)

theorem execReform_keeps (h : CtlHead) (m : ReformMsg) (s : State) (kept : Keeps orig s) :
    KeepsOut orig (execReform h m s) := by
  unfold execReform
  repeat' (first
    | with_reducible intro _ | with_reducible assumption | with_reducible apply keepsOut_ite
    | (extract_lets +onlyGivenNames x; refine keeps_cut (r := orig) (u := x) ?_ (fun _ => ?_); rotate_left; clear_value x; revert x; intro _ _; rotate_left; (simp -zeta only [x]); clear x)
    | with_reducible apply keeps_foldl | with_reducible apply takeHead_keeps | with_reducible apply startDue_keeps
    | with_reducible apply clearMember_keeps | with_reducible apply gangDown_keeps | with_reducible apply done_keeps
    | with_reducible apply spareCheck_keeps | with_reducible apply pumpGang_keeps
    | with_reducible apply sendCtl_keeps | with_reducible apply setGang_keeps | with_reducible apply modLink_keeps
    | with_reducible apply bump_keeps | split)

theorem execRecalDone_addSpare_keeps (gi n : Nat) (s : State) (kept : Keeps orig s) :
    Keeps orig (execRecalDone.addSpare gi n s) := modGang_keeps _ _ _ kept

theorem execRecalDone_keeps (link : Nat) (ok : Bool) (s : State) (kept : Keeps orig s) :
    KeepsOut orig (execRecalDone link ok s) := by
  unfold execRecalDone
  refine keepsOut_ite (fun _ => keepsOut_next kept) (fun _ => keepsOut_ite (fun _ => done_keeps _ (failLink_keeps _ _ kept)) (fun _ => ?_))
  extract_lets back s1
  have h1 : Keeps orig s1 := endRecal_keeps _ _ (modLink_keeps _ _ _ kept)
  clear_value s1
  split
  · exact keepsOut_ite (fun _ => done_keeps _ (recalWaiting_keeps _ _ (rejoin_keeps _ _ _ _ _ h1)))
      (fun _ => done_keeps _ (recalWaiting_keeps _ _ (execRecalDone_addSpare_keeps _ _ _ h1)))
  · exact done_keeps _ (recalWaiting_keeps _ _ (execRecalDone_addSpare_keeps _ _ _ h1))
  · exact keepsOut_next h1

theorem execFailedLinkRetry_keeps (link : Nat) (s : State) (kept : Keeps orig s) :
    KeepsOut orig (execFailedLinkRetry link s) := by
  unfold execFailedLinkRetry
  repeat' (first
    | with_reducible intro _ | with_reducible assumption | with_reducible apply keepsOut_ite
    | with_reducible apply keepsOut_next | with_reducible apply recalIdle_keeps)

theorem execPeriodicRecal_keeps (link : Nat) (s : State) (kept : Keeps orig s) :
    KeepsOut orig (execPeriodicRecal link s) := by
  unfold execPeriodicRecal
  repeat' (first
    | with_reducible intro _ | with_reducible assumption | with_reducible apply keepsOut_ite
    | with_reducible apply keepsOut_next | with_reducible apply recalMember_keeps | with_reducible apply done_keeps)

theorem takeInbox_keeps (gi op : Nat) (s : State) (kept : Keeps orig s) :
    KeepsOpt2 orig (takeInbox gi op s) := by
  unfold takeInbox
  repeat' (first
    | with_reducible assumption | with_reducible exact keepsOpt2_none | with_reducible apply keepsOpt2_some
    | with_reducible apply setGang_keeps | split)

theorem freeJTag_keeps (gi tag : Nat) (s : State) (kept : Keeps orig s) :
    Keeps orig (freeJTag gi tag s) := by
  unfold freeJTag
  repeat' (first | with_reducible assumption | with_reducible apply modGang_keeps)

theorem lateResp_keeps (gi : Nat) (s : State) (kept : Keeps orig s) :
    Keeps orig (lateResp gi s) := by
  unfold lateResp
  repeat' (first | with_reducible assumption | with_reducible apply bump_keeps)

theorem pieceDone_keeps (gi tag x : Nat) (s : State) (kept : Keeps orig s) :
    Keeps orig (pieceDone gi tag x s) := by
  unfold pieceDone
  repeat' (first
    | with_reducible assumption | with_reducible apply freeJTag_keeps | with_reducible apply pumpWaiting_keeps
    | with_reducible apply advance_keeps | with_reducible apply modXfer_keeps)

theorem lateTag_keeps (gi tag : Nat) (s : State) (kept : Keeps orig s) :
    Keeps orig (lateTag gi tag s) := by
  unfold lateTag
  repeat' (first
    | with_reducible assumption | with_reducible apply lateResp_keeps | with_reducible apply freeJTag_keeps
    | with_reducible apply pumpWaiting_keeps)

theorem execVisAck_keeps (gang : Nat) (s : State) (kept : Keeps orig s) :
    KeepsOut orig (execVisAck gang s) := by
  unfold execVisAck
  repeat' (first
    | with_reducible assumption | with_reducible apply keepsOut_next | with_reducible apply lateTag_keeps
    | with_reducible apply pieceDone_keeps | with_reducible apply freeJTag_keeps
    | with_reducible apply takeInbox_keeps | with_reducible apply done_keeps | with_reducible apply pumpWaiting_keeps
    | with_reducible apply failJlPart_keeps | with_reducible refine keepsOpt2_use (by assumption) ?_ | split)

theorem landRead_keeps (gi tag : Nat) (k : JTag) (m : JMsg) (s : State) (kept : Keeps orig s) :
    Keeps orig (landRead gi tag k m s) := by
  unfold landRead
  repeat' (first | with_reducible assumption | with_reducible apply modXfer_keeps)

theorem execReadData_keeps (gang : Nat) (s : State) (kept : Keeps orig s) :
    KeepsOut orig (execReadData gang s) := by
  unfold execReadData
  repeat' (first
    | with_reducible intro _ | with_reducible assumption | with_reducible apply keepsOut_ite
    | with_reducible apply keepsOut_next | with_reducible apply landRead_keeps | with_reducible apply lateTag_keeps
    | with_reducible apply pieceDone_keeps | with_reducible apply lateResp_keeps
    | with_reducible apply freeJTag_keeps | with_reducible apply takeInbox_keeps | with_reducible apply done_keeps
    | with_reducible apply pumpWaiting_keeps | with_reducible apply failJlPart_keeps
    | with_reducible apply modGang_keeps | with_reducible refine keepsOpt2_use (by assumption) ?_ | split)

theorem execVisTimeout_keeps (gang tag : Nat) (s : State) (kept : Keeps orig s) :
    KeepsOut orig (execVisTimeout gang tag s) := by
  unfold execVisTimeout
  repeat' (first
    | with_reducible assumption | with_reducible apply keepsOut_next | with_reducible apply freeJTag_keeps
    | with_reducible apply done_keeps | with_reducible apply pumpWaiting_keeps
    | with_reducible apply failJlPart_keeps | with_reducible apply modGang_keeps | split)

end Sys2Proof.Machine
end

