-- ==== Sys2Proof/Laws/Keeps/RollCmds.lean ====
section
/-! SUPPORT. The operations of Machine/RollCmds.lean keep what every operation keeps. -/

namespace Sys2Proof.Machine

open Sys2Proof

set_option linter.tactic.unusedName false

variable {orig res : State}

theorem modRc_keeps (f : RollCall → RollCall) (s : State) (kept : Keeps orig s) : Keeps orig (modRc f s) := keeps_mk kept

theorem sendRc_keeps (g dst : Nat) (m : RcMsg) (s : State) (kept : Keeps orig s) :
    Keeps orig (sendRc g dst m s) := by
  unfold sendRc
  repeat' (first | with_reducible assumption | with_reducible apply sendMsg_keeps)

theorem setRole_keeps (g : Nat) (r : Role) (s : State) (kept : Keeps orig s) :
    Keeps orig (setRole g r s) := by
  unfold setRole
  repeat' (first | with_reducible assumption | with_reducible apply modRc_keeps)

theorem sendHeld_keeps (s : State) (kept : Keeps orig s) :
    Keeps orig (sendHeld s) := by
  unfold sendHeld
  repeat' (first
    | with_reducible intro _ | with_reducible assumption | with_reducible apply keeps_ite
    | with_reducible apply keeps_foldl | with_reducible apply modRc_keeps | with_reducible apply startFwd_keeps)

theorem applyResult_keeps (m : RcMsg) (s : State) (kept : Keeps orig s) :
    Keeps orig (applyResult m s) := by
  unfold applyResult
  repeat' (first
    | (simp -zeta only [keeps_mk_iff]) | with_reducible intro _ | with_reducible assumption
    | with_reducible apply keeps_ite | with_reducible apply sendHeld_keeps | with_reducible apply modRc_keeps
    | with_reducible apply spareCheck_keeps)

theorem relayResult_keeps (m : RcMsg) (s : State) (kept : Keeps orig s) :
    Keeps orig (relayResult m s) := by
  unfold relayResult
  repeat' (first
    | with_reducible intro _ | with_reducible assumption | with_reducible apply keeps_foldl
    | with_reducible apply sendRc_keeps)

theorem finishRun_keeps (s : State) (kept : Keeps orig s) :
    Keeps orig (finishRun s) := by
  unfold finishRun
  repeat' (first
    | with_reducible assumption
    | (extract_lets +onlyGivenNames x; refine keeps_cut (r := orig) (u := x) ?_ (fun _ => ?_); rotate_left; clear_value x; revert x; intro _ _; rotate_left; (simp -zeta only [x]); clear x)
    | (extract_lets +onlyGivenNames x; clear_value x; revert x; intro _) | with_reducible apply relayResult_keeps
    | with_reducible apply applyResult_keeps | with_reducible apply modRc_keeps | with_reducible apply finish_keeps
    | split)

theorem numberGangs_keeps  : ∀ (x0 : Nat) (x1 : State), Keeps orig x1 →
    Keeps orig (numberGangs x0 x1)
  | 0, s, kept => by
    unfold numberGangs
    repeat' (first
      | with_reducible assumption | (extract_lets +onlyGivenNames x; clear_value x; revert x; intro _)
      | with_reducible apply finishRun_keeps | with_reducible apply setRole_keeps | with_reducible apply sendRc_keeps
      | with_reducible apply modRc_keeps | with_reducible apply numberGangs_keeps | split)
  | fuel + 1, s, kept => by
    unfold numberGangs
    repeat' (first
      | with_reducible assumption | (extract_lets +onlyGivenNames x; clear_value x; revert x; intro _)
      | with_reducible apply finishRun_keeps | with_reducible apply setRole_keeps | with_reducible apply sendRc_keeps
      | with_reducible apply modRc_keeps | with_reducible apply numberGangs_keeps | split)

theorem goOn_keeps (s : State) (kept : Keeps orig s) :
    Keeps orig (goOn s) := by
  unfold goOn
  repeat' (first
    | with_reducible assumption | with_reducible apply numberGangs_keeps | with_reducible apply modRc_keeps)

theorem startRun_keeps (mb : Option MbRef) (s : State) (kept : Keeps orig s) :
    Keeps orig (startRun mb s) := by
  unfold startRun
  repeat' (first
    | with_reducible assumption | with_reducible apply numberGangs_keeps | with_reducible apply modRc_keeps)

theorem bootRun_keeps (s : State) (kept : Keeps orig s) :
    Keeps orig (bootRun s) := by
  unfold bootRun
  repeat' (first
    | with_reducible intro _ | with_reducible assumption | with_reducible apply keeps_ite
    | with_reducible apply startRun_keeps)

theorem execRollcallRun_keeps (c : Call) (s : State) (kept : Keeps orig s) :
    KeepsOut orig (execRollcallRun c s) := by
  unfold execRollcallRun
  repeat' (first
    | with_reducible intro _ | with_reducible assumption | with_reducible apply keepsAns_ite
    | with_reducible apply keepsOut_next | with_reducible apply keepsAns_reject | with_reducible apply keepsAns_later
    | with_reducible apply startRun_keeps | with_reducible apply serve_keeps)

theorem execSetRollcall_keeps (c : Call) (ns : Nat) (s : State) (kept : Keeps orig s) :
    KeepsOut orig (execSetRollcall c ns s) := by
  unfold execSetRollcall
  repeat' (first
    | with_reducible intro _ | with_reducible assumption | with_reducible apply keepsOut_next
    | with_reducible apply keepsAns_ok | with_reducible apply modRc_keeps | with_reducible apply serve_keeps)

theorem execSetRedundancy_keeps (c : Call) (level : Nat) (s : State) (kept : Keeps orig s) :
    KeepsOut orig (execSetRedundancy c level s) := by
  unfold execSetRedundancy
  repeat' (first
    | with_reducible intro _ | with_reducible assumption | with_reducible apply keepsAns_ite
    | with_reducible apply keepsOut_next | with_reducible apply keepsAns_reject | with_reducible apply keepsAns_ok
    | with_reducible apply modRc_keeps | with_reducible apply spareCheck_keeps | with_reducible apply serve_keeps)

theorem takeRc_keeps (gi kind : Nat) (s : State) (kept : Keeps orig s) :
    KeepsOpt2 orig (takeRc gi kind s) := by
  unfold takeRc
  repeat' (first
    | with_reducible assumption | with_reducible exact keepsOpt2_none | with_reducible apply keepsOpt2_some
    | with_reducible apply setGang_keeps | split)

theorem takeToken_keeps (g : Nat) (m : RcMsg) (s : State) (kept : Keeps orig s) :
    Keeps orig (takeToken g m s) := by
  unfold takeToken
  repeat' (first
    | with_reducible assumption | with_reducible apply numberGangs_keeps | with_reducible apply sendRc_keeps
    | with_reducible apply modRc_keeps)

theorem onToken_keeps (g : Nat) (m : RcMsg) (s : State) (kept : Keeps orig s) :
    Keeps orig (onToken g m s) := by
  unfold onToken
  repeat' (first
    | with_reducible intro _ | with_reducible assumption | with_reducible apply keeps_ite
    | with_reducible apply takeToken_keeps | with_reducible apply setRole_keeps | with_reducible apply sendRc_keeps)

theorem execTokenMsg_keeps (gang : Nat) (s : State) (kept : Keeps orig s) :
    KeepsOut orig (execTokenMsg gang s) := by
  unfold execTokenMsg
  repeat' (first
    | with_reducible assumption | with_reducible apply keepsOut_next | with_reducible apply onToken_keeps
    | with_reducible apply takeRc_keeps | with_reducible apply done_keeps
    | with_reducible refine keepsOpt2_use (by assumption) ?_ | split)

theorem execHoldMsg_keeps (gang : Nat) (s : State) (kept : Keeps orig s) :
    KeepsOut orig (execHoldMsg gang s) := by
  unfold execHoldMsg
  repeat' (first
    | with_reducible assumption | with_reducible apply keepsOut_next | with_reducible apply takeRc_keeps
    | with_reducible apply modRc_keeps | with_reducible refine keepsOpt2_use (by assumption) ?_ | split)

theorem execHoldResend_keeps (s : State) (kept : Keeps orig s) :
    KeepsOut orig (execHoldResend s) := by
  unfold execHoldResend
  repeat' (first
    | with_reducible assumption | with_reducible apply keepsOut_next | with_reducible apply sendRc_keeps | split)

theorem execReturnMsg_keeps (gang : Nat) (s : State) (kept : Keeps orig s) :
    KeepsOut orig (execReturnMsg gang s) := by
  unfold execReturnMsg
  repeat' (first
    | with_reducible assumption | with_reducible apply keepsOut_next | with_reducible apply takeRc_keeps
    | with_reducible apply goOn_keeps | with_reducible apply setRole_keeps | with_reducible apply modRc_keeps
    | with_reducible apply done_keeps | with_reducible refine keepsOpt2_use (by assumption) ?_ | split)

theorem execLoopMsg_keeps (gang : Nat) (s : State) (kept : Keeps orig s) :
    KeepsOut orig (execLoopMsg gang s) := by
  unfold execLoopMsg
  repeat' (first
    | with_reducible assumption | with_reducible apply keepsOut_next | with_reducible apply takeRc_keeps
    | with_reducible apply goOn_keeps | with_reducible apply setRole_keeps | with_reducible apply modRc_keeps
    | with_reducible apply done_keeps | with_reducible refine keepsOpt2_use (by assumption) ?_ | split)

theorem execRollcallAnswerTimeout_keeps (gang : Nat) (s : State) (kept : Keeps orig s) :
    KeepsOut orig (execRollcallAnswerTimeout gang s) := by
  unfold execRollcallAnswerTimeout
  repeat' (first
    | with_reducible intro _ | with_reducible assumption | with_reducible apply keepsOut_ite
    | with_reducible apply keepsOut_next | with_reducible apply goOn_keeps | with_reducible apply setRole_keeps
    | with_reducible apply done_keeps)

theorem execResultMsg_keeps (gang : Nat) (s : State) (kept : Keeps orig s) :
    KeepsOut orig (execResultMsg gang s) := by
  unfold execResultMsg
  repeat' (first
    | with_reducible assumption | with_reducible apply keepsOut_next | with_reducible apply takeRc_keeps
    | with_reducible apply relayResult_keeps | with_reducible apply applyResult_keeps
    | with_reducible apply done_keeps | with_reducible refine keepsOpt2_use (by assumption) ?_ | split)

theorem fwdDrop_keeps (g : Gang) (s : State) (kept : Keeps orig s) :
    Keeps orig (fwdDrop g s) := by
  unfold fwdDrop
  repeat' (first | with_reducible assumption | with_reducible apply bump_keeps)

theorem forwardMsg_keeps (gi : Nat) (g : Gang) (m : JMsg) (s : State) (kept : Keeps orig s) :
    Keeps orig (forwardMsg gi g m s) := by
  unfold forwardMsg
  repeat' (first
    | with_reducible intro _ | with_reducible assumption | with_reducible apply keeps_ite
    | with_reducible apply keeps_foldl | with_reducible apply fwdDrop_keeps | with_reducible apply consumeFwd_keeps
    | with_reducible apply sendMsg_keeps | split)

theorem execFwd_keeps (gang : Nat) (s : State) (kept : Keeps orig s) :
    KeepsOut orig (execFwd gang s) := by
  unfold execFwd
  repeat' (first
    | with_reducible assumption | with_reducible apply keepsOut_next | with_reducible apply forwardMsg_keeps
    | with_reducible apply takeInbox_keeps | with_reducible apply done_keeps
    | with_reducible refine keepsOpt2_use (by assumption) ?_ | split)

end Sys2Proof.Machine
end

