-- ==== Sys2Proof/Laws/Keeps/LinkCmds.lean ====
section
/-! SUPPORT. The operations of Machine/LinkCmds.lean keep what every operation keeps. -/

namespace Sys2Proof.Machine

open Sys2Proof

set_option linter.tactic.unusedName false

variable {orig res : State}

theorem execReadLinks_keeps (c : Call) (cursor : Nat) (s : State) (kept : Keeps orig s) :
    KeepsOut orig (execReadLinks c cursor s) := by
  unfold execReadLinks
  repeat' (first
    | with_reducible assumption | with_reducible apply keepsOut_next | with_reducible apply serveRead_keeps)

theorem execReadGangs_keeps (c : Call) (cursor : Nat) (s : State) (kept : Keeps orig s) :
    KeepsOut orig (execReadGangs c cursor s) := by
  unfold execReadGangs
  repeat' (first
    | with_reducible assumption | with_reducible apply keepsOut_next | with_reducible apply serveRead_keeps)

theorem execReadRollcall_keeps (c : Call) (cursor : Nat) (s : State) (kept : Keeps orig s) :
    KeepsOut orig (execReadRollcall c cursor s) := by
  unfold execReadRollcall
  repeat' (first
    | with_reducible assumption | with_reducible apply keepsOut_next | with_reducible apply serveRead_keeps)

theorem execReadRoutes_keeps (c : Call) (cursor : Nat) (s : State) (kept : Keeps orig s) :
    KeepsOut orig (execReadRoutes c cursor s) := by
  unfold execReadRoutes
  repeat' (first
    | with_reducible assumption | with_reducible apply keepsOut_next | with_reducible apply serveRead_keeps)

theorem dropLink_keeps (s : State) (n : Nat) (kept : Keeps orig s) :
    Keeps orig (dropLink s n) := by
  unfold dropLink
  repeat' (first
    | with_reducible assumption | with_reducible apply endRecal_keeps | with_reducible apply modLink_keeps)

theorem joinLink_keeps (gi : Nat) (members : List Nat) (s : State) (n : Nat) (kept : Keeps orig s) :
    Keeps orig (joinLink gi members s n) := by
  unfold joinLink
  repeat' (first | with_reducible assumption | with_reducible apply modLink_keeps)

theorem closeUp_keeps (gi : Nat) (members : List Nat) (s : State) (kept : Keeps orig s) :
    Keeps orig (closeUp gi members s) := by
  unfold closeUp
  repeat' (first
    | with_reducible intro _ | with_reducible assumption | with_reducible apply keeps_foldl
    | with_reducible apply leaveMember_keeps)

theorem execSetGang_keeps (c : Call) (gang : Nat) (kind : GangKind) (members spares : List Nat) (s : State) (kept : Keeps orig s) :
    KeepsOut orig (execSetGang c gang kind members spares s) := by
  unfold execSetGang
  repeat' (first
    | with_reducible intro _ | with_reducible assumption | with_reducible apply keepsAns_ite
    | with_reducible apply keepsOut_next | with_reducible apply keepsAns_reject | with_reducible apply keepsAns_ok
    | with_reducible apply keeps_foldl | with_reducible apply closeUp_keeps | with_reducible apply joinLink_keeps
    | with_reducible apply dropLink_keeps | with_reducible apply recalWaiting_keeps
    | with_reducible apply spareCheck_keeps | with_reducible apply setGang_keeps | with_reducible apply serve_keeps)

theorem execGrantGang_keeps (c : Call) (gang : Nat) (s : State) (kept : Keeps orig s) :
    KeepsOut orig (execGrantGang c gang s) := by
  unfold execGrantGang
  repeat' (first
    | with_reducible intro _ | with_reducible assumption | with_reducible apply keepsOut_next
    | with_reducible apply keepsAns_reject | with_reducible apply keepsAns_ok | with_reducible apply setGang_keeps
    | with_reducible apply serve_keeps | split)

theorem execGangWithdraw_keeps (c : Call) (gang : Nat) (s : State) (kept : Keeps orig s) :
    KeepsOut orig (execGangWithdraw c gang s) := by
  unfold execGangWithdraw
  repeat' (first
    | with_reducible intro _ | with_reducible assumption | with_reducible apply keepsAns_reject
    | with_reducible apply keepsAns_later | with_reducible apply done_keeps | with_reducible apply setGang_keeps
    | with_reducible apply serve_keeps | split)

theorem execSetVisTimeout_keeps (c : Call) (gang us : Nat) (s : State) (kept : Keeps orig s) :
    KeepsOut orig (execSetVisTimeout c gang us s) := by
  unfold execSetVisTimeout
  repeat' (first
    | with_reducible intro _ | with_reducible assumption | with_reducible apply keepsAns_ite
    | with_reducible apply keepsOut_next | with_reducible apply keepsAns_reject | with_reducible apply keepsAns_ok
    | with_reducible apply modGang_keeps | with_reducible apply serve_keeps)

theorem execRecalLink_keeps (c : Call) (link : Nat) (force : Bool) (s : State) (kept : Keeps orig s) :
    KeepsOut orig (execRecalLink c link force s) := by
  unfold execRecalLink
  repeat' (first
    | with_reducible intro _ | with_reducible assumption | with_reducible apply keepsAns_ite
    | with_reducible apply keepsAns_reject | with_reducible apply keepsAns_later
    | with_reducible apply recalMember_keeps | with_reducible apply recalIdle_keeps | with_reducible apply done_keeps
    | with_reducible apply modLink_keeps | with_reducible apply serve_keeps | split)

theorem execSetRoute_keeps (c : Call) (die : Nat) (entries : List RouteEntry) (s : State) (kept : Keeps orig s) :
    KeepsOut orig (execSetRoute c die entries s) := by
  unfold execSetRoute
  repeat' (first
    | (simp -zeta only [keeps_mk_iff]) | with_reducible intro _ | with_reducible assumption
    | with_reducible apply keepsAns_ite | with_reducible apply keepsOut_next | with_reducible apply keepsAns_reject
    | with_reducible apply keepsAns_ok | with_reducible apply serve_keeps)

theorem checkThresh_keeps (s : State) (kept : Keeps orig s) :
    Keeps orig (checkThresh s) := by
  unfold checkThresh
  repeat' (first
    | with_reducible intro _ | with_reducible assumption | with_reducible apply keeps_ite
    | with_reducible apply keeps_foldl | with_reducible apply moveLinkOut_keeps)

theorem execSetLinkThresh_keeps (c : Call) (crc hours : Nat) (s : State) (kept : Keeps orig s) :
    KeepsOut orig (execSetLinkThresh c crc hours s) := by
  unfold execSetLinkThresh
  repeat' (first
    | (simp -zeta only [keeps_mk_iff]) | with_reducible intro _ | with_reducible assumption
    | with_reducible apply keepsAns_ite | with_reducible apply keepsAns_reject | with_reducible apply keepsAns_ok
    | with_reducible apply checkThresh_keeps | with_reducible apply done_keeps | with_reducible apply serve_keeps)

end Sys2Proof.Machine
end

