-- ==== Sys2Proof/Laws/Keeps/MemCmds.lean ====
section
/-! SUPPORT. The operations of Machine/MemCmds.lean keep what every operation keeps. -/

namespace Sys2Proof.Machine

open Sys2Proof

set_option linter.tactic.unusedName false

variable {orig res : State}

theorem execReadMemory_keeps (c : Call) (cursor : Nat) (s : State) (kept : Keeps orig s) :
    KeepsOut orig (execReadMemory c cursor s) := by
  unfold execReadMemory
  repeat' (first
    | with_reducible assumption | with_reducible apply keepsOut_next | with_reducible apply serveRead_keeps)

theorem execReadMemErrors_keeps (c : Call) (cursor : Nat) (s : State) (kept : Keeps orig s) :
    KeepsOut orig (execReadMemErrors c cursor s) := by
  unfold execReadMemErrors
  repeat' (first
    | with_reducible assumption | with_reducible apply keepsOut_next | with_reducible apply serveRead_keeps)

theorem execReadMigrations_keeps (c : Call) (cursor : Nat) (s : State) (kept : Keeps orig s) :
    KeepsOut orig (execReadMigrations c cursor s) := by
  unfold execReadMigrations
  repeat' (first
    | with_reducible assumption | with_reducible apply keepsOut_next | with_reducible apply serveRead_keeps)

theorem execSetAllotment_keeps (c : Call) (ranges : List TierRange) (s : State) (kept : Keeps orig s) :
    KeepsOut orig (execSetAllotment c ranges s) := by
  unfold execSetAllotment
  repeat' (first
    | with_reducible intro _ | with_reducible assumption | with_reducible apply keepsAns_ite
    | with_reducible apply keepsOut_next | with_reducible apply keepsAns_reject | with_reducible apply keepsAns_ok
    | with_reducible apply serve_keeps | with_reducible apply modPart_keeps)

theorem execMigrateStart_keeps (c : Call) (src dst : TierRange) (rate : Nat) (s : State) (kept : Keeps orig s) :
    KeepsOut orig (execMigrateStart c src dst rate s) := by
  unfold execMigrateStart
  repeat' (first
    | (simp -zeta only [keeps_mk_iff]) | with_reducible intro _ | with_reducible assumption
    | with_reducible apply keepsAns_ite | with_reducible apply keepsOut_next | with_reducible apply keepsAns_reject
    | with_reducible apply keepsAns_ok | with_reducible apply serve_keeps | with_reducible apply wakeFor_keeps)

theorem execMigrateRelease_keeps (c : Call) (id : Nat) (s : State) (kept : Keeps orig s) :
    KeepsOut orig (execMigrateRelease c id s) := by
  unfold execMigrateRelease
  repeat' (first
    | (simp -zeta only [keeps_mk_iff]) | with_reducible intro _ | with_reducible assumption
    | with_reducible apply keepsOut_next | with_reducible apply keepsAns_reject | with_reducible apply keepsAns_ok
    | with_reducible apply serve_keeps | split)

theorem execMigrateAbort_keeps (c : Call) (id : Nat) (s : State) (kept : Keeps orig s) :
    KeepsOut orig (execMigrateAbort c id s) := by
  unfold execMigrateAbort
  repeat' (first
    | (simp -zeta only [keeps_mk_iff]) | with_reducible intro _ | with_reducible assumption
    | with_reducible apply keepsOut_next | with_reducible apply keepsAns_reject | with_reducible apply keepsAns_ok
    | with_reducible apply serve_keeps | split)

theorem migBadLine_keeps (m : Mig) (s : State) (o : Nat) (kept : Keeps orig s) :
    Keeps orig (migBadLine m s o) := by
  unfold migBadLine
  repeat' (first
    | with_reducible intro _ | with_reducible assumption | with_reducible apply keeps_ite
    | with_reducible apply uncorrectable_keeps | with_reducible apply quarantine_keeps)

theorem copyPart_keeps (id n : Nat) (s : State) (kept : Keeps orig s) : Keeps orig (copyPart id n s) := by
  unfold copyPart
  split
  · exact kept
  · extract_lets k src dst s1
    have h1 : Keeps orig s1 := checkSpan_keeps _ _ _ _ (checkSpan_keeps _ _ _ _ kept)
    clear_value s1
    exact keeps_mem h1 (fun w => Memory.wf_copyRange _ _ _ w)

theorem copyAll_keeps (s : State) (kept : Keeps orig s) :
    Keeps orig (copyAll s) := by
  unfold copyAll
  repeat' (first
    | with_reducible intro _ | with_reducible assumption | with_reducible apply keeps_ite
    | with_reducible apply keeps_foldl | with_reducible apply copyPart_keeps | with_reducible apply draw_keeps)

theorem execMigrationCopyDone_keeps (id : Nat) (bad : List Nat) (s : State) (kept : Keeps orig s) :
    KeepsOut orig (execMigrationCopyDone id bad s) := by
  unfold execMigrationCopyDone
  repeat' (first
    | (simp -zeta only [keeps_mk_iff]) | with_reducible intro _ | with_reducible assumption
    | with_reducible apply keepsOut_next | with_reducible apply keeps_foldl | with_reducible apply copyPart_keeps
    | with_reducible apply migBadLine_keeps | with_reducible apply done_keeps
    | with_reducible apply unquarantine_keeps | split)

theorem execQuarantineClear_keeps (c : Call) (lines : List LineLoc) (s : State) (kept : Keeps orig s) :
    KeepsOut orig (execQuarantineClear c lines s) := by
  unfold execQuarantineClear
  repeat' (first
    | with_reducible intro _ | with_reducible assumption | with_reducible apply keepsAns_ok
    | with_reducible apply keeps_foldl | with_reducible apply done_keeps | with_reducible apply unquarantine_keeps
    | with_reducible apply serve_keeps)

theorem execSetScrub_keeps (c : Call) (sramS gddrS : Nat) (s : State) (kept : Keeps orig s) :
    KeepsOut orig (execSetScrub c sramS gddrS s) := by
  unfold execSetScrub
  repeat' (first
    | (simp -zeta only [keeps_mk_iff]) | with_reducible intro _ | with_reducible assumption
    | with_reducible apply keepsAns_ite | with_reducible apply keepsOut_next | with_reducible apply keepsAns_reject
    | with_reducible apply keepsAns_ok | with_reducible apply serve_keeps)

theorem execScrubRead_keeps (loc : LineLoc) (found : Option EccKind) (_overwritten : Bool) (s : State) (kept : Keeps orig s) :
    KeepsOut orig (execScrubRead loc found _overwritten s) := by
  unfold execScrubRead
  repeat' (first
    | with_reducible intro _ | with_reducible assumption | with_reducible apply keepsOut_ite
    | with_reducible apply keepsOut_next | with_reducible apply done_keeps | with_reducible apply checkPlace_keeps
    | with_reducible apply uncorrectable_keeps | with_reducible apply corrected_keeps | split)

theorem beginRetrain_keeps (ch : Nat) (replay : Bool) (s : State) (kept : Keeps orig s) :
    Keeps orig (beginRetrain ch replay s) := by
  unfold beginRetrain
  repeat' (first | with_reducible assumption | with_reducible apply modChan_keeps)

theorem execRetrainChannel_keeps (c : Call) (ch : Nat) (s : State) (kept : Keeps orig s) :
    KeepsOut orig (execRetrainChannel c ch s) := by
  unfold execRetrainChannel
  repeat' (first
    | with_reducible intro _ | with_reducible assumption | with_reducible apply keepsOut_next
    | with_reducible apply keepsAns_reject | with_reducible apply keepsAns_later
    | with_reducible apply beginRetrain_keeps | with_reducible apply serve_keeps | with_reducible apply modChan_keeps
    | split)

theorem execEdcFail_keeps (ch addr fails who : Nat) (s : State) (kept : Keeps orig s) :
    KeepsOut orig (execEdcFail ch addr fails who s) := by
  unfold execEdcFail
  repeat' (first
    | with_reducible intro _ | with_reducible assumption | with_reducible apply keepsOut_ite
    | with_reducible apply keepsOut_next | with_reducible apply beginRetrain_keeps
    | with_reducible apply memError_keeps | with_reducible apply bump_keeps)

theorem execTempDriftRetrain_keeps (ch temp : Nat) (s : State) (kept : Keeps orig s) :
    KeepsOut orig (execTempDriftRetrain ch temp s) := by
  unfold execTempDriftRetrain
  repeat' (first
    | with_reducible intro _ | with_reducible assumption | with_reducible apply keepsOut_ite
    | with_reducible apply keepsOut_next | with_reducible apply beginRetrain_keeps
    | with_reducible apply modChan_keeps)

theorem goOffline_keeps (ch : Nat) (s : State) (kept : Keeps orig s) :
    Keeps orig (goOffline ch s) := by
  unfold goOffline
  repeat' (first
    | with_reducible assumption | with_reducible apply memError_keeps | with_reducible apply modChan_keeps)

theorem execRetrainDone_keeps (ch : Nat) (ok replayOk : Bool) (temp holdNs : Nat) (s : State) (kept : Keeps orig s) :
    KeepsOut orig (execRetrainDone ch ok replayOk temp holdNs s) := by
  unfold execRetrainDone
  repeat' (first
    | with_reducible intro _ | with_reducible assumption | with_reducible apply keepsOut_ite
    | with_reducible apply keepsOut_next | with_reducible apply goOffline_keeps | with_reducible apply done_keeps
    | with_reducible apply resumeHeld_keeps | with_reducible apply finish_keeps | with_reducible apply modChan_keeps
    | with_reducible apply bump_keeps | split)

theorem execCxlAdd_keeps (c : Call) (dev : Nat) (s : State) (kept : Keeps orig s) :
    KeepsOut orig (execCxlAdd c dev s) := by
  unfold execCxlAdd
  repeat' (first
    | with_reducible intro _ | with_reducible assumption | with_reducible apply keepsOut_next
    | with_reducible apply keepsAns_reject | with_reducible apply keepsAns_later | with_reducible apply serve_keeps
    | with_reducible apply modCxl_keeps | split)

theorem execCxlMediaReady_keeps (dev capacity : Nat) (s : State) (kept : Keeps orig s) :
    KeepsOut orig (execCxlMediaReady dev capacity s) := by
  unfold execCxlMediaReady
  repeat' (first
    | with_reducible intro _ | with_reducible assumption | with_reducible apply keepsOut_ite
    | with_reducible apply keepsOut_next | with_reducible apply finish_keeps | with_reducible apply modCxl_keeps
    | split)

theorem execCxlRemove_keeps (c : Call) (dev : Nat) (s : State) (kept : Keeps orig s) :
    KeepsOut orig (execCxlRemove c dev s) := by
  unfold execCxlRemove
  repeat' (first
    | with_reducible intro _ | with_reducible assumption | with_reducible apply keepsAns_ite
    | with_reducible apply keepsOut_next | with_reducible apply keepsAns_reject | with_reducible apply keepsAns_later
    | with_reducible apply serve_keeps | with_reducible apply modCxl_keeps)

theorem execCxlRemoveDrainEnd_keeps (dev : Nat) (s : State) (kept : Keeps orig s) :
    KeepsOut orig (execCxlRemoveDrainEnd dev s) := by
  unfold execCxlRemoveDrainEnd
  repeat' (first
    | with_reducible intro _ | with_reducible assumption | with_reducible apply keepsOut_ite
    | with_reducible apply keepsOut_next | with_reducible apply finish_keeps | with_reducible apply modCxl_keeps
    | split)

theorem execCxlDeviceLost_keeps (dev : Nat) (s : State) (kept : Keeps orig s) :
    KeepsOut orig (execCxlDeviceLost dev s) := by
  unfold execCxlDeviceLost
  repeat' (first
    | (simp -zeta only [keeps_mk_iff]) | with_reducible intro _ | with_reducible assumption
    | with_reducible apply keepsOut_ite | with_reducible apply keepsOut_next | with_reducible apply memError_keeps
    | with_reducible apply finish_keeps | with_reducible apply modCxl_keeps | split)

theorem execCxlEventPoll_keeps (dev : Nat) (events : List CxlEvent) (s : State) (kept : Keeps orig s) :
    KeepsOut orig (execCxlEventPoll dev events s) := by
  unfold execCxlEventPoll
  repeat' (first
    | with_reducible intro _ | with_reducible assumption | with_reducible apply keepsOut_ite
    | with_reducible apply keepsOut_next | with_reducible apply keeps_foldl | with_reducible apply memError_keeps)

end Sys2Proof.Machine
end

