-- ==== Sys2Proof/Laws/Keeps/SecCmds.lean ====
section
/-! SUPPORT. The operations of Machine/SecCmds.lean keep what every operation keeps. -/

namespace Sys2Proof.Machine

open Sys2Proof

set_option linter.tactic.unusedName false

variable {orig res : State}

theorem execReadSecurity_keeps (c : Call) (cursor : Nat) (s : State) (kept : Keeps orig s) :
    KeepsOut orig (execReadSecurity c cursor s) := by
  unfold execReadSecurity
  repeat' (first
    | with_reducible assumption | with_reducible apply keepsOut_next | with_reducible apply serveRead_keeps)

theorem execReadIdentity_keeps (c : Call) (cursor : Nat) (s : State) (kept : Keeps orig s) :
    KeepsOut orig (execReadIdentity c cursor s) := by
  unfold execReadIdentity
  repeat' (first
    | with_reducible assumption | with_reducible apply keepsOut_next | with_reducible apply serveRead_keeps)

theorem storeKey_keeps (part usage len slot : Nat) (key : List Byte) (s : State) (kept : Keeps orig s) :
    Keeps orig (storeKey part usage len slot key s) := by
  unfold storeKey
  repeat' (first
    | with_reducible intro _ | with_reducible assumption | with_reducible apply keeps_ite
    | with_reducible apply modSec_keeps)

theorem placeKey_keeps (part usage len : Nat) (key : List Byte) (s : State) (kept : Keeps orig s) :
    KeepsAns orig (placeKey part usage len key s) := by
  unfold placeKey
  repeat' (first
    | with_reducible intro _ | with_reducible assumption | with_reducible apply keepsAns_ite
    | with_reducible apply keepsAns_reject | with_reducible apply keepsAns_ok | with_reducible apply storeKey_keeps
    | split)

theorem keyLoad_keeps (part : Nat) (bs : List Byte) (s : State) (kept : Keeps orig s) :
    KeepsAns orig (keyLoad part bs s) := by
  unfold keyLoad
  repeat' (first
    | with_reducible intro _ | with_reducible assumption | with_reducible apply keepsAns_ite
    | with_reducible apply keepsAns_reject | with_reducible apply placeKey_keeps | split)

theorem execKeyLoad_keeps (c : Call) (s : State) (kept : Keeps orig s) :
    KeepsOut orig (execKeyLoad c s) := by
  unfold execKeyLoad
  repeat' (first
    | with_reducible intro _ | with_reducible assumption | with_reducible apply keepsOut_next
    | with_reducible apply keyLoad_keeps | with_reducible apply serve_keeps)

theorem execKeyErase_keeps (c : Call) (slot : Nat) (s : State) (kept : Keeps orig s) :
    KeepsOut orig (execKeyErase c slot s) := by
  unfold execKeyErase
  repeat' (first
    | with_reducible intro _ | with_reducible assumption | with_reducible apply keepsOut_next
    | with_reducible apply keepsAns_reject | with_reducible apply keepsAns_ok | with_reducible apply modSec_keeps
    | with_reducible apply serve_keeps | split)

theorem execReadKeys_keeps (c : Call) (cursor : Nat) (s : State) (kept : Keeps orig s) :
    KeepsOut orig (execReadKeys c cursor s) := by
  unfold execReadKeys
  repeat' (first
    | with_reducible assumption | with_reducible apply keepsOut_next | with_reducible apply serveRead_keeps)

theorem execSetKeyPolicy_keeps (c : Call) (limit : Nat) (clear : Bool) (s : State) (kept : Keeps orig s) :
    KeepsOut orig (execSetKeyPolicy c limit clear s) := by
  unfold execSetKeyPolicy
  repeat' (first
    | with_reducible intro _ | with_reducible assumption | with_reducible apply keepsAns_ite
    | with_reducible apply keepsOut_next | with_reducible apply keepsAns_reject | with_reducible apply keepsAns_ok
    | with_reducible apply serve_keeps | with_reducible apply modPart_keeps)

theorem execSetCipherRing_keeps (c : Call) (base log vec : Nat) (s : State) (kept : Keeps orig s) :
    KeepsOut orig (execSetCipherRing c base log vec s) := by
  unfold execSetCipherRing
  repeat' (first
    | with_reducible intro _ | with_reducible assumption | with_reducible apply keepsAns_ite
    | with_reducible apply keepsOut_next | with_reducible apply keepsAns_reject | with_reducible apply keepsAns_ok
    | with_reducible apply modSec_keeps | with_reducible apply serve_keeps)

theorem execReadCipherRing_keeps (c : Call) (cursor : Nat) (s : State) (kept : Keeps orig s) :
    KeepsOut orig (execReadCipherRing c cursor s) := by
  unfold execReadCipherRing
  repeat' (first
    | with_reducible assumption | with_reducible apply keepsOut_next | with_reducible apply serveRead_keeps)

theorem execDescriptorDone_keeps (part k : Nat) (miss : Option (Nat × Nat)) (s : State) (kept : Keeps orig s) :
    KeepsOut orig (execDescriptorDone part k miss s) := by
  unfold execDescriptorDone
  repeat' (first
    | with_reducible assumption | with_reducible apply done_keeps | with_reducible apply releaseDesc_keeps
    | with_reducible apply coreMiss_keeps | with_reducible apply ceCount_keeps | split)

/-- A service whose work may burn fuses. -/
theorem serve_burns (c : Call) (op : Nat) (k : Req → State → Ans) (s : State)
    (hk : ∀ q t, Keeps s t → match k q t with
      | .ok u _ => Burns s u
      | .reject _ => True
      | .wait => True
      | _ => False) : Burns s (serve c op k s) := by
  have h := Keeps.refl s
  unfold serve
  dsimp only
  split
  · next q _ _ =>
    have h1 := startService_keeps (mbIx c.func c.urgent) (serveProc op s) s h
    have h2 := hk q _ h1
    refine burns_ite (fun _ => h.burns) (fun _ => burns_ite (fun _ => h.burns) (fun _ => burns_ite
      (fun _ => (answer_keeps _ _ _ _ h).burns) (fun _ => burns_ite (fun _ => h.burns) (fun _ => ?_))))
    split
    · exact (answer_keeps _ _ _ _ h1).burns
    · refine burns_ite (fun _ => (answer_keeps _ _ _ _ h1).burns) (fun _ => burns_ite (fun _ => h.burns) (fun _ => burns_ite
        (fun _ => (answer_keeps _ _ _ _ h1).burns) (fun _ => burns_ite (fun _ => (answer_keeps _ _ _ _ h1).burns) (fun _ => ?_))))
      split
      · exact (answer_keeps _ _ _ _ h1).burns
      · next e => rw [e] at h2; exact Burns.trans_keeps h2 (answer_keeps _ _ _ _ (Keeps.refl _))
      · next e => rw [e] at h2; exact h2.elim
      · next e => rw [e] at h2; exact h2.elim
      · exact h.burns
  · exact h.burns

theorem execSvnCommit_burns (c : Call) (v : Nat) (s : State) : BurnsOut s (execSvnCommit c v s) := by
  refine serve_burns _ _ _ _ (fun q t h => ?_)
  by_cases h1 : v > 64 ∨ v < t.chip.fusedSvn
  · simp only [if_pos h1]
  · simp only [if_neg h1]
    split
    · next e => split at e <;> cases e; exact ⟨h.pending, h.mem, h.out, h.draws, h.chip.opt, h.chip.serial, h.chip.keys,
        by have := h.chip.svn; show s.chip.fusedSvn ≤ v; omega, by show t.chip.revoked ||| _ = t.chip.revoked; rw [h.chip.revoked, Nat.or_self]⟩
    · trivial
    · trivial
    · next e1 e2 e3 => split at e1 <;> simp_all


theorem execKeyRevoke_burns (c : Call) (slot : Nat) (s : State) : BurnsOut s (execKeyRevoke c slot s) := by
  refine serve_burns _ _ _ _ (fun q t h => ?_)
  by_cases h1 : slot > 3
  · simp only [if_pos h1]
  · simp only [if_neg h1]
    split
    · next e => split at e <;> cases e; exact ⟨h.pending, h.mem, h.out, h.draws, h.chip.opt, h.chip.serial, h.chip.keys,
        Nat.le_of_eq h.chip.svn.symm, by
          show (t.chip.revoked ||| 2 ^ slot) ||| s.chip.revoked = t.chip.revoked ||| 2 ^ slot
          rw [h.chip.revoked, Nat.or_comm, ← Nat.or_assoc, Nat.or_self]⟩
    · trivial
    · trivial
    · next e1 e2 e3 => split at e1 <;> simp_all

theorem execCipherCoreEnable_keeps (c : Call) (core : Nat) (s : State) (kept : Keeps orig s) :
    KeepsOut orig (execCipherCoreEnable c core s) := by
  unfold execCipherCoreEnable
  repeat' (first
    | with_reducible intro _ | with_reducible assumption | with_reducible apply keepsAns_ite
    | with_reducible apply keepsOut_next | with_reducible apply keepsAns_reject | with_reducible apply keepsAns_ok
    | with_reducible apply modSec_keeps | with_reducible apply serve_keeps)

end Sys2Proof.Machine
end

