-- ==== Sys2Proof/Laws/Keeps/PartCmds.lean ====
section
/-! SUPPORT. The operations of Machine/PartCmds.lean keep what every operation keeps. -/

namespace Sys2Proof.Machine

open Sys2Proof

set_option linter.tactic.unusedName false

variable {orig res : State}

theorem wipeTile_keeps (s : State) (t : Nat) (kept : Keeps orig s) :
    Keeps orig (wipeTile s t) := by
  unfold wipeTile
  repeat' (first
    | with_reducible assumption | with_reducible apply modTile_keeps | with_reducible apply Memory.wf_clearRange
    | with_reducible refine keeps_mem ?_ (fun _ => ?_))

theorem endBind_keeps (s : State) (k : Nat) (kept : Keeps orig s) :
    Keeps orig (endBind s k) := by
  unfold endBind
  repeat' (first
    | with_reducible assumption | with_reducible apply dropBind_keeps | with_reducible apply finish_keeps | split)

theorem dropSlot_keeps (part : Nat) (s : State) (slot : Nat) (kept : Keeps orig s) :
    Keeps orig (dropSlot part s slot) := by
  unfold dropSlot
  repeat' (first
    | with_reducible intro _ | with_reducible assumption | with_reducible apply keeps_foldl
    | with_reducible apply endBind_keeps | with_reducible apply wipeTile_keeps
    | with_reducible apply cancelXfer_keeps | with_reducible apply unreserve_keeps
    | with_reducible apply setGroup_keeps | split)

theorem dropEmptyGroup_keeps (part : Nat) (s : State) (kept : Keeps orig s) :
    Keeps orig (dropEmptyGroup part s) := by
  unfold dropEmptyGroup
  repeat' (first | (simp -zeta only [keeps_mk_iff]) | with_reducible assumption | split)

theorem grantSlots_keeps (part n : Nat) (g : Group) (s : State) (kept : Keeps orig s) :
    KeepsOpt orig (grantSlots part n g s) := by
  unfold grantSlots
  repeat' (first
    | with_reducible intro _ | with_reducible assumption | with_reducible apply keepsOpt_ite
    | with_reducible apply keepsOpt_some | with_reducible apply takeAllAreas_keeps
    | with_reducible apply setGroup_keeps | with_reducible apply modPart_keeps)

theorem growMoved_keeps (part m n : Nat) (g : Group) (s : State) (kept : Keeps orig s) :
    KeepsAns orig (growMoved part m n g s) := by
  unfold growMoved
  repeat' (first
    | with_reducible assumption | with_reducible apply keepsAns_reject | with_reducible apply keepsAns_wait
    | with_reducible apply keepsAns_ok | with_reducible apply grantSlots_keeps
    | with_reducible apply drainGroup_keeps | with_reducible apply placeWaiting_keeps
    | with_reducible apply saveGroup_keeps | with_reducible refine keepsOpt_use (by assumption) ?_ | split)

theorem growSlots_keeps (part m n : Nat) (g : Group) (s : State) (kept : Keeps orig s) :
    KeepsAns orig (growSlots part m n g s) := by
  unfold growSlots
  repeat' (first
    | with_reducible intro _ | with_reducible assumption | with_reducible apply keepsAns_reject
    | with_reducible apply keepsAns_wait | with_reducible apply keepsAns_ok | with_reducible apply keeps_foldl
    | with_reducible apply growMoved_keeps | with_reducible apply grantSlots_keeps
    | with_reducible apply wipeTile_keeps | with_reducible apply placeWaiting_keeps
    | with_reducible refine keepsOpt_use (by assumption) ?_ | split)

theorem shrinkSlots_keeps (part m n : Nat) (g : Group) (s : State) (kept : Keeps orig s) :
    KeepsAns orig (shrinkSlots part m n g s) := by
  unfold shrinkSlots
  repeat' (first
    | with_reducible intro _ | with_reducible assumption | with_reducible apply keepsAns_ite
    | with_reducible apply keepsAns_wait | with_reducible apply keepsAns_ok | with_reducible apply keeps_foldl
    | with_reducible apply dropEmptyGroup_keeps | with_reducible apply dropSlot_keeps
    | with_reducible apply releaseAreas_keeps | with_reducible apply placeWaiting_keeps
    | with_reducible apply modPart_keeps)

theorem setSlots_keeps (part n : Nat) (s : State) (kept : Keeps orig s) :
    KeepsAns orig (setSlots part n s) := by
  unfold setSlots
  repeat' (first
    | with_reducible intro _ | with_reducible assumption | with_reducible apply keepsAns_ite
    | with_reducible apply keepsAns_reject | with_reducible apply keepsAns_ok
    | with_reducible apply shrinkSlots_keeps | with_reducible apply growSlots_keeps)

theorem execPartSetSlots_keeps (c : Call) (slots : Nat) (s : State) (kept : Keeps orig s) :
    KeepsOut orig (execPartSetSlots c slots s) := by
  unfold execPartSetSlots
  repeat' (first
    | with_reducible intro _ | with_reducible assumption | with_reducible apply setSlots_keeps
    | with_reducible apply done_keeps | with_reducible apply serve_keeps)

theorem makePart_keeps (n : Nat) (p : PartSet) (s : State) (kept : Keeps orig s) :
    KeepsAns orig (makePart n p s) := by
  unfold makePart
  repeat' (first
    | (simp -zeta only [keeps_mk_iff]) | with_reducible intro _ | with_reducible assumption
    | with_reducible apply keepsAns_ite | with_reducible apply keepsAns_reject | with_reducible apply keepsAns_ok
    | with_reducible apply grantSlots_keeps | with_reducible apply trimPasses_keeps
    | with_reducible apply placeWaiting_keeps | with_reducible apply modPart_keeps
    | with_reducible refine keepsOpt_use (by assumption) ?_ | split)

theorem partCreate_keeps (header : Nat) (p : PartSet) (s : State) (kept : Keeps orig s) :
    KeepsAns orig (partCreate header p s) := by
  unfold partCreate
  repeat' (first
    | with_reducible assumption | with_reducible apply keepsAns_reject | with_reducible apply makePart_keeps | split)

theorem execPartCreate_keeps (c : Call) (s : State) (kept : Keeps orig s) :
    KeepsOut orig (execPartCreate c s) := by
  unfold execPartCreate
  repeat' (first
    | with_reducible intro _ | with_reducible assumption | with_reducible apply keepsOut_next
    | with_reducible apply partCreate_keeps | with_reducible apply serve_keeps)

theorem execPartSetExpert_keeps (c : Call) (grant : Bool) (s : State) (kept : Keeps orig s) :
    KeepsOut orig (execPartSetExpert c grant s) := by
  unfold execPartSetExpert
  repeat' (first
    | with_reducible intro _ | with_reducible assumption | with_reducible apply keepsAns_ite
    | with_reducible apply keepsOut_next | with_reducible apply keepsAns_reject | with_reducible apply keepsAns_ok
    | with_reducible apply serve_keeps | with_reducible apply modPart_keeps)

theorem execReadPartitions_keeps (c : Call) (cursor : Nat) (s : State) (kept : Keeps orig s) :
    KeepsOut orig (execReadPartitions c cursor s) := by
  unfold execReadPartitions
  repeat' (first
    | with_reducible assumption | with_reducible apply keepsOut_next | with_reducible apply serveRead_keeps)

theorem quiesceFuncs_keeps (part : Nat) (s : State) (kept : Keeps orig s) :
    Keeps orig (quiesceFuncs part s) := by
  unfold quiesceFuncs
  repeat' (first
    | with_reducible intro _ | with_reducible assumption | with_reducible apply keeps_foldl
    | with_reducible apply beginQuiesce_keeps | with_reducible apply modFunc_keeps | split)

theorem revokeAll_keeps (part : Nat) (s : State) (kept : Keeps orig s) :
    Keeps orig (revokeAll part s) := by
  unfold revokeAll
  repeat' (first
    | with_reducible intro _ | with_reducible assumption | with_reducible apply keeps_foldl
    | with_reducible apply beginRevoke_keeps)

theorem failFaults_keeps (part : Nat) (s : State) (kept : Keeps orig s) :
    Keeps orig (failFaults part s) := by
  unfold failFaults
  repeat' (first
    | with_reducible intro _ | with_reducible assumption | with_reducible apply keeps_foldl
    | with_reducible apply endXfer_keeps | with_reducible apply dropFault_keeps)

theorem stopColl_keeps (code : Nat) (s : State) (id : Nat) (kept : Keeps orig s) :
    Keeps orig (stopColl code s id) := by
  unfold stopColl
  repeat' (first | with_reducible assumption | with_reducible apply endColl_keeps | split)

theorem endWork_keeps (part : Nat) (s : State) (kept : Keeps orig s) :
    Keeps orig (endWork part s) := by
  unfold endWork
  repeat' (first
    | with_reducible intro _ | with_reducible assumption | with_reducible apply keeps_foldl
    | with_reducible apply stopColl_keeps | with_reducible apply dropTask_keeps | with_reducible apply ckFail_keeps
    | with_reducible apply closeTask_keeps | with_reducible apply endJob_keeps | with_reducible apply failQp_keeps
    | split)

theorem unloadSlot_keeps (part : Nat) (s : State) (i : Nat) (kept : Keeps orig s) :
    Keeps orig (unloadSlot part s i) := by
  unfold unloadSlot
  repeat' (first
    | with_reducible assumption | with_reducible apply modSlot_keeps | with_reducible apply finish_keeps | split)

theorem unloadAll_keeps (part : Nat) (s : State) (kept : Keeps orig s) :
    Keeps orig (unloadAll part s) := by
  unfold unloadAll
  repeat' (first
    | with_reducible assumption
    | (extract_lets +onlyGivenNames x; refine keeps_cut (r := orig) (u := x) ?_ (fun _ => ?_); rotate_left; clear_value x; revert x; intro _ _; rotate_left; (simp -zeta only [x]); clear x)
    | with_reducible apply keeps_foldl | with_reducible apply unloadSlot_keeps | with_reducible apply modRing_keeps
    | with_reducible apply modSec_keeps | split)

theorem execPartDestroy_keeps (c : Call) (s : State) (kept : Keeps orig s) :
    KeepsOut orig (execPartDestroy c s) := by
  unfold execPartDestroy
  repeat' (first
    | with_reducible intro _ | with_reducible assumption | with_reducible apply keepsAns_ite
    | with_reducible apply keepsAns_reject | with_reducible apply keepsAns_later
    | with_reducible apply unloadAll_keeps | with_reducible apply endWork_keeps
    | with_reducible apply failFaults_keeps | with_reducible apply revokeAll_keeps
    | with_reducible apply quiesceFuncs_keeps | with_reducible apply done_keeps | with_reducible apply serve_keeps
    | with_reducible apply modPart_keeps)

theorem freeQueues_keeps (part : Nat) (s : State) (kept : Keeps orig s) :
    Keeps orig (freeQueues part s) := by
  unfold freeQueues
  repeat' (first
    | with_reducible intro _ | with_reducible assumption | with_reducible apply keeps_foldl
    | with_reducible apply trimPasses_keeps | with_reducible apply quietQp_keeps | with_reducible apply dropQp_keeps
    | with_reducible apply modQe_keeps | with_reducible apply modPart_keeps)

theorem freeUnits_keeps (part : Nat) (s : State) (kept : Keeps orig s) :
    Keeps orig (freeUnits part s) := by
  unfold freeUnits
  repeat' (first
    | with_reducible assumption | with_reducible apply modCk_keeps | with_reducible apply modSb_keeps
    | with_reducible apply modCu_keeps | with_reducible apply unreserve_keeps)

theorem freeRest_keeps (part : Nat) (s : State) (kept : Keeps orig s) :
    Keeps orig (freeRest part s) := by
  unfold freeRest
  repeat' (first
    | (simp -zeta only [keeps_mk_iff]) | with_reducible assumption | with_reducible apply keeps_foldl
    | with_reducible apply dropEmptyGroup_keeps | with_reducible apply dropSlot_keeps
    | with_reducible apply dropScope_keeps | with_reducible apply modSec_keeps
    | with_reducible apply releaseAreas_keeps | with_reducible apply placeWaiting_keeps)

theorem removePart_keeps (n : Nat) (p : Part) (s : State) (kept : Keeps orig s) :
    Keeps orig (removePart n p s) := by
  unfold removePart
  repeat' (first
    | (simp -zeta only [keeps_mk_iff]) | with_reducible intro _ | with_reducible assumption
    | with_reducible apply keeps_foldl | with_reducible apply freeRest_keeps | with_reducible apply freeUnits_keeps
    | with_reducible apply freeQueues_keeps | with_reducible apply finish_keeps | with_reducible apply modPart_keeps
    | with_reducible apply modFunc_keeps | split)

theorem execPartDestroyDone_keeps (part : Nat) (s : State) (kept : Keeps orig s) :
    KeepsOut orig (execPartDestroyDone part s) := by
  unfold execPartDestroyDone
  repeat' (first
    | with_reducible assumption | with_reducible apply keepsOut_next | with_reducible apply removePart_keeps
    | with_reducible apply done_keeps | split)

end Sys2Proof.Machine
end

