-- ==== Sys2Proof/Laws/Keeps/TransportCmds.lean ====
section
/-! SUPPORT. The operations of Machine/TransportCmds.lean keep what every operation keeps. -/

namespace Sys2Proof.Machine

open Sys2Proof

set_option linter.tactic.unusedName false

variable {orig res : State}

theorem takeArrived_keeps (i : Nat) (s : State) (kept : Keeps orig s) :
    KeepsOpt2 orig (takeArrived i s) := by
  unfold takeArrived
  repeat' (first
    | with_reducible assumption | with_reducible exact keepsOpt2_none | with_reducible apply keepsOpt2_some
    | with_reducible apply modQe_keeps | with_reducible apply freeRoom_keeps | split)

theorem ptHandle_keeps (op : Nat) (a : Arrived) (q : Qp) (s : State) (kept : Keeps orig s) :
    Keeps orig (ptHandle op a q s) := by
  unfold ptHandle
  repeat' (first
    | with_reducible intro _ | with_reducible assumption | with_reducible apply keeps_ite
    | with_reducible apply onAck_keeps | with_reducible apply finishRemoteReads_keeps
    | with_reducible apply rxPacket_keeps | with_reducible apply sqKick_keeps | with_reducible apply modX_keeps)

theorem ptArrive_keeps (op i : Nat) (s : State) (kept : Keeps orig s) :
    Keeps orig (ptArrive op i s) := by
  unfold ptArrive
  repeat' (first
    | with_reducible assumption | with_reducible apply ptHandle_keeps | with_reducible apply takeArrived_keeps
    | with_reducible apply bump_keeps | with_reducible refine keepsOpt2_use (by assumption) ?_ | split)

theorem execPtSend_keeps (i : Nat) (s : State) (kept : Keeps orig s) :
    KeepsOut orig (execPtSend i s) := by
  unfold execPtSend
  repeat' (first | with_reducible assumption | with_reducible apply ptArrive_keeps | with_reducible apply done_keeps)

theorem execPtWrite_keeps (i : Nat) (s : State) (kept : Keeps orig s) :
    KeepsOut orig (execPtWrite i s) := by
  unfold execPtWrite
  repeat' (first | with_reducible assumption | with_reducible apply ptArrive_keeps | with_reducible apply done_keeps)

theorem execPtReadReq_keeps (i : Nat) (s : State) (kept : Keeps orig s) :
    KeepsOut orig (execPtReadReq i s) := by
  unfold execPtReadReq
  repeat' (first | with_reducible assumption | with_reducible apply ptArrive_keeps | with_reducible apply done_keeps)

theorem execPtReadResp_keeps (i : Nat) (s : State) (kept : Keeps orig s) :
    KeepsOut orig (execPtReadResp i s) := by
  unfold execPtReadResp
  repeat' (first | with_reducible assumption | with_reducible apply ptArrive_keeps | with_reducible apply done_keeps)

theorem execPtFadd_keeps (i : Nat) (s : State) (kept : Keeps orig s) :
    KeepsOut orig (execPtFadd i s) := by
  unfold execPtFadd
  repeat' (first | with_reducible assumption | with_reducible apply ptArrive_keeps | with_reducible apply done_keeps)

theorem execPtCas_keeps (i : Nat) (s : State) (kept : Keeps orig s) :
    KeepsOut orig (execPtCas i s) := by
  unfold execPtCas
  repeat' (first | with_reducible assumption | with_reducible apply ptArrive_keeps | with_reducible apply done_keeps)

theorem execPtAtomicResp_keeps (i : Nat) (s : State) (kept : Keeps orig s) :
    KeepsOut orig (execPtAtomicResp i s) := by
  unfold execPtAtomicResp
  repeat' (first | with_reducible assumption | with_reducible apply ptArrive_keeps | with_reducible apply done_keeps)

theorem execPtAck_keeps (i : Nat) (s : State) (kept : Keeps orig s) :
    KeepsOut orig (execPtAck i s) := by
  unfold execPtAck
  repeat' (first | with_reducible assumption | with_reducible apply ptArrive_keeps | with_reducible apply done_keeps)

theorem execRocePacket_keeps (i : Nat) (s : State) (kept : Keeps orig s) :
    KeepsOut orig (execRocePacket i s) := by
  unfold execRocePacket
  repeat' (first
    | with_reducible assumption | with_reducible apply takeArrived_keeps | with_reducible apply done_keeps
    | with_reducible apply rxRoce_keeps | with_reducible apply bump_keeps
    | with_reducible refine keepsOpt2_use (by assumption) ?_ | split)

theorem execPlacementDone_keeps (qpn msn : Nat) (s : State) (kept : Keeps orig s) :
    KeepsOut orig (execPlacementDone qpn msn s) := by
  unfold execPlacementDone
  repeat' (first
    | with_reducible assumption | with_reducible apply done_keeps | with_reducible apply releaseMsgs_keeps | split)

theorem execAckTimer_keeps (qpn : Nat) (s : State) (kept : Keeps orig s) :
    KeepsOut orig (execAckTimer qpn s) := by
  unfold execAckTimer
  repeat' (first
    | with_reducible assumption | with_reducible apply done_keeps | with_reducible apply sendAck_keeps | split)

theorem execRtoExpiry_keeps (qpn psn : Nat) (s : State) (kept : Keeps orig s) :
    KeepsOut orig (execRtoExpiry qpn psn s) := by
  unfold execRtoExpiry
  repeat' (first
    | with_reducible assumption | with_reducible apply done_keeps | with_reducible apply goBack_keeps
    | with_reducible apply losePkt_keeps | with_reducible apply sqKick_keeps | with_reducible apply modX_keeps
    | split)

theorem execRnrWaitExpiry_keeps (qpn : Nat) (s : State) (kept : Keeps orig s) :
    KeepsOut orig (execRnrWaitExpiry qpn s) := by
  unfold execRnrWaitExpiry
  repeat' (first
    | with_reducible assumption | with_reducible apply done_keeps | with_reducible apply sqKick_keeps
    | with_reducible apply modX_keeps | split)

theorem execPathPenaltyEnd_keeps (qpn path : Nat) (s : State) (kept : Keeps orig s) :
    KeepsOut orig (execPathPenaltyEnd qpn path s) := by
  unfold execPathPenaltyEnd
  repeat' (first
    | with_reducible assumption | with_reducible apply keepsOut_next | with_reducible apply modX_keeps | split)

theorem abandonPeers_keeps (qps : List Nat) (s : State) (kept : Keeps orig s) :
    Keeps orig (abandonPeers qps s) := by
  unfold abandonPeers
  repeat' (first
    | with_reducible intro _ | with_reducible assumption | with_reducible apply keeps_foldl
    | with_reducible apply failUnit_keeps | with_reducible apply dropFault_keeps | split)

theorem fencePeer_keeps (a : BitVec 128) (mb : MbRef) (s : State) (kept : Keeps orig s) :
    Keeps orig (fencePeer a mb s) := by
  unfold fencePeer
  repeat' (first
    | with_reducible intro _ | with_reducible assumption | with_reducible apply keeps_foldl
    | with_reducible apply abandonPeers_keeps | with_reducible apply modQe_keeps | with_reducible apply failQp_keeps)

theorem execFencePeer_keeps (c : Call) (addr : BitVec 128) (s : State) (kept : Keeps orig s) :
    KeepsOut orig (execFencePeer c addr s) := by
  unfold execFencePeer
  repeat' (first
    | with_reducible intro _ | with_reducible assumption | with_reducible apply keepsAns_reject
    | with_reducible apply keepsAns_wait | with_reducible apply keepsAns_ok | with_reducible apply keepsAns_later
    | with_reducible apply fencePeer_keeps | with_reducible apply done_keeps | with_reducible apply serve_keeps
    | split)

theorem execUnfencePeer_keeps (c : Call) (addr : BitVec 128) (s : State) (kept : Keeps orig s) :
    KeepsOut orig (execUnfencePeer c addr s) := by
  unfold execUnfencePeer
  repeat' (first
    | with_reducible intro _ | with_reducible assumption | with_reducible apply keepsOut_next
    | with_reducible apply keepsAns_reject | with_reducible apply keepsAns_wait | with_reducible apply keepsAns_ok
    | with_reducible apply modQe_keeps | with_reducible apply serve_keeps | split)

theorem execReadFences_keeps (c : Call) (cursor : Nat) (s : State) (kept : Keeps orig s) :
    KeepsOut orig (execReadFences c cursor s) := by
  unfold execReadFences
  repeat' (first
    | with_reducible assumption | with_reducible apply keepsOut_next | with_reducible apply serveRead_keeps)

theorem execReadPaths_keeps (c : Call) (cursor : Nat) (s : State) (kept : Keeps orig s) :
    KeepsOut orig (execReadPaths c cursor s) := by
  unfold execReadPaths
  repeat' (first
    | with_reducible assumption | with_reducible apply keepsOut_next | with_reducible apply serveRead_keeps)

theorem execReadCc_keeps (c : Call) (cursor : Nat) (s : State) (kept : Keeps orig s) :
    KeepsOut orig (execReadCc c cursor s) := by
  unfold execReadCc
  repeat' (first
    | with_reducible assumption | with_reducible apply keepsOut_next | with_reducible apply serveRead_keeps)

theorem execSetCc_keeps (c : Call) (p : CcSet) (s : State) (kept : Keeps orig s) :
    KeepsOut orig (execSetCc c p s) := by
  unfold execSetCc
  repeat' (first
    | with_reducible intro _ | with_reducible assumption | with_reducible apply keepsAns_ite
    | with_reducible apply keepsOut_next | with_reducible apply keepsAns_reject | with_reducible apply keepsAns_ok
    | with_reducible apply modQe_keeps | with_reducible apply serve_keeps)

theorem execSetPtPort_keeps (c : Call) (port : Nat) (s : State) (kept : Keeps orig s) :
    KeepsOut orig (execSetPtPort c port s) := by
  unfold execSetPtPort
  repeat' (first
    | with_reducible intro _ | with_reducible assumption | with_reducible apply keepsAns_ite
    | with_reducible apply keepsOut_next | with_reducible apply keepsAns_reject | with_reducible apply keepsAns_ok
    | with_reducible apply modQe_keeps | with_reducible apply serve_keeps)

theorem execPtPortGraceEnd_keeps (s : State) (kept : Keeps orig s) :
    KeepsOut orig (execPtPortGraceEnd s) := by
  unfold execPtPortGraceEnd
  repeat' (first | with_reducible assumption | with_reducible apply keepsOut_next | with_reducible apply modQe_keeps)

end Sys2Proof.Machine
end

