-- ==== Sys2Proof/Laws/Keeps/PipeCmds.lean ====
section
/-! SUPPORT. The operations of Machine/PipeCmds.lean keep what every operation keeps. -/

namespace Sys2Proof.Machine

open Sys2Proof

set_option linter.tactic.unusedName false

variable {orig res : State}

theorem execReadPorts_keeps (c : Call) (cursor : Nat) (s : State) (kept : Keeps orig s) :
    KeepsOut orig (execReadPorts c cursor s) := by
  unfold execReadPorts
  repeat' (first
    | with_reducible assumption | with_reducible apply keepsOut_next | with_reducible apply serveRead_keeps)

theorem setPort_keeps (port : Nat) (p : PortSet) (s : State) (kept : Keeps orig s) :
    Keeps orig (setPort port p s) := by
  unfold setPort
  repeat' (first | with_reducible assumption | with_reducible apply modPipe_keeps)

theorem execSetPort_keeps (c : Call) (port : Nat) (p : PortSet) (s : State) (kept : Keeps orig s) :
    KeepsOut orig (execSetPort c port p s) := by
  unfold execSetPort
  repeat' (first
    | with_reducible intro _ | with_reducible assumption | with_reducible apply keepsAns_ite
    | with_reducible apply keepsOut_next | with_reducible apply keepsAns_reject | with_reducible apply keepsAns_ok
    | with_reducible apply setPort_keeps | with_reducible apply serve_keeps)

theorem execPortLinkState_keeps (node : Nat) (up : Bool) (s : State) (kept : Keeps orig s) :
    KeepsOut orig (execPortLinkState node up s) := by
  unfold execPortLinkState
  repeat' (first
    | with_reducible intro _ | with_reducible assumption | with_reducible apply keeps_ite
    | with_reducible apply keepsOut_next | with_reducible apply modPipe_keeps)

theorem execWriteRules_keeps (c : Call) (edits : List RuleEdit) (conn : Option Bool) (udf0 udf1 : Option Nat) (empty : Bool) (s : State) (kept : Keeps orig s) :
    KeepsOut orig (execWriteRules c edits conn udf0 udf1 empty s) := by
  unfold execWriteRules
  repeat' (first
    | with_reducible intro _ | with_reducible assumption | with_reducible apply keepsAns_ite
    | with_reducible apply keepsOut_next | with_reducible apply keepsAns_reject | with_reducible apply keepsAns_ok
    | with_reducible apply modPipe_keeps | with_reducible apply serve_keeps)

theorem execCommitRules_keeps (c : Call) (s : State) (kept : Keeps orig s) :
    KeepsOut orig (execCommitRules c s) := by
  unfold execCommitRules
  repeat' (first
    | with_reducible intro _ | with_reducible assumption | with_reducible apply keepsAns_ite
    | with_reducible apply keepsOut_next | with_reducible apply keepsAns_reject | with_reducible apply keepsAns_later
    | with_reducible apply stageChange_keeps | with_reducible apply serve_keeps)

theorem execDiscardStaged_keeps (c : Call) (s : State) (kept : Keeps orig s) :
    KeepsOut orig (execDiscardStaged c s) := by
  unfold execDiscardStaged
  repeat' (first
    | with_reducible intro _ | with_reducible assumption | with_reducible apply keepsAns_ite
    | with_reducible apply keepsOut_next | with_reducible apply keepsAns_reject | with_reducible apply keepsAns_ok
    | with_reducible apply modPipe_keeps | with_reducible apply serve_keeps)

theorem execReadRules_keeps (c : Call) (cursor : Nat) (s : State) (kept : Keeps orig s) :
    KeepsOut orig (execReadRules c cursor s) := by
  unfold execReadRules
  repeat' (first
    | with_reducible assumption | with_reducible apply keepsOut_next | with_reducible apply serveRead_keeps)

theorem setSched_keeps (c : Call) (part level n : Nat) (p : SchedSet) (s : State) (kept : Keeps orig s) :
    KeepsAns orig (setSched c part level n p s) := by
  unfold setSched
  repeat' (first
    | with_reducible intro _ | with_reducible assumption | with_reducible apply keepsAns_ite
    | with_reducible apply keepsAns_reject | with_reducible apply keepsAns_ok | with_reducible apply modSched_keeps)

theorem execSetTxq_keeps (c : Call) (q : Nat) (p : SchedSet) (s : State) (kept : Keeps orig s) :
    KeepsOut orig (execSetTxq c q p s) := by
  unfold execSetTxq
  repeat' (first
    | with_reducible intro _ | with_reducible assumption | with_reducible apply keepsOut_next
    | with_reducible apply setSched_keeps | with_reducible apply serve_keeps)

theorem execSetNode_keeps (c : Call) (kind n : Nat) (p : SchedSet) (s : State) (kept : Keeps orig s) :
    KeepsOut orig (execSetNode c kind n p s) := by
  unfold execSetNode
  repeat' (first
    | with_reducible intro _ | with_reducible assumption | with_reducible apply keepsAns_ite
    | with_reducible apply keepsOut_next | with_reducible apply keepsAns_reject | with_reducible apply setSched_keeps
    | with_reducible apply serve_keeps)

theorem execSetTxGrant_keeps (c : Call) (group classLo classN qLo qN : Nat) (s : State) (kept : Keeps orig s) :
    KeepsOut orig (execSetTxGrant c group classLo classN qLo qN s) := by
  unfold execSetTxGrant
  repeat' (first
    | with_reducible intro _ | with_reducible assumption | with_reducible apply keepsAns_ite
    | with_reducible apply keepsOut_next | with_reducible apply keepsAns_reject | with_reducible apply keepsAns_ok
    | with_reducible apply serve_keeps | with_reducible apply modPart_keeps)

theorem execReadSched_keeps (c : Call) (cursor : Nat) (s : State) (kept : Keeps orig s) :
    KeepsOut orig (execReadSched c cursor s) := by
  unfold execReadSched
  repeat' (first
    | with_reducible assumption | with_reducible apply keepsOut_next | with_reducible apply serveRead_keeps)

theorem execSetMeter_keeps (c : Call) (die n : Nat) (p : MeterSet) (s : State) (kept : Keeps orig s) :
    KeepsOut orig (execSetMeter c die n p s) := by
  unfold execSetMeter
  repeat' (first
    | with_reducible intro _ | with_reducible assumption | with_reducible apply keepsAns_ite
    | with_reducible apply keepsOut_next | with_reducible apply keepsAns_reject | with_reducible apply keepsAns_ok
    | with_reducible apply modPipe_keeps | with_reducible apply serve_keeps | split)

theorem execReadMeters_keeps (c : Call) (cursor : Nat) (s : State) (kept : Keeps orig s) :
    KeepsOut orig (execReadMeters c cursor s) := by
  unfold execReadMeters
  repeat' (first
    | with_reducible assumption | with_reducible apply keepsOut_next | with_reducible apply serveRead_keeps)

theorem execSetTimetable_keeps (c : Call) (port : Nat) (tt : Timetable) (s : State) (kept : Keeps orig s) :
    KeepsOut orig (execSetTimetable c port tt s) := by
  unfold execSetTimetable
  repeat' (first
    | with_reducible intro _ | with_reducible assumption | with_reducible apply keepsAns_ite
    | with_reducible apply keepsOut_next | with_reducible apply keepsAns_reject | with_reducible apply keepsAns_ok
    | with_reducible apply gateNow_keeps | with_reducible apply modPipe_keeps | with_reducible apply serve_keeps)

theorem execReadTimetable_keeps (c : Call) (cursor : Nat) (s : State) (kept : Keeps orig s) :
    KeepsOut orig (execReadTimetable c cursor s) := by
  unfold execReadTimetable
  repeat' (first
    | with_reducible assumption | with_reducible apply keepsOut_next | with_reducible apply serveRead_keeps)

theorem gatesNow_keeps (s : State) (kept : Keeps orig s) :
    Keeps orig (gatesNow s) := by
  unfold gatesNow
  repeat' (first
    | with_reducible intro _ | with_reducible assumption | with_reducible apply keeps_foldl
    | with_reducible apply gateNow_keeps)

theorem execSetGateClock_keeps (c : Call) (incr : Nat) (step : Int) (s : State) (kept : Keeps orig s) :
    KeepsOut orig (execSetGateClock c incr step s) := by
  unfold execSetGateClock
  repeat' (first
    | with_reducible intro _ | with_reducible assumption | with_reducible apply keepsAns_ite
    | with_reducible apply keepsOut_next | with_reducible apply keepsAns_reject | with_reducible apply keepsAns_ok
    | with_reducible apply gatesNow_keeps | with_reducible apply modPipe_keeps | with_reducible apply serve_keeps)

theorem execReadGateClock_keeps (c : Call) (cursor : Nat) (s : State) (kept : Keeps orig s) :
    KeepsOut orig (execReadGateClock c cursor s) := by
  unfold execReadGateClock
  repeat' (first
    | with_reducible assumption | with_reducible apply keepsOut_next | with_reducible apply serveRead_keeps)

theorem execSetHistogram_keeps (c : Call) (lo n k : Nat) (on : Bool) (s : State) (kept : Keeps orig s) :
    KeepsOut orig (execSetHistogram c lo n k on s) := by
  unfold execSetHistogram
  repeat' (first
    | with_reducible intro _ | with_reducible assumption | with_reducible apply keepsAns_ite
    | with_reducible apply keepsOut_next | with_reducible apply keepsAns_reject | with_reducible apply keepsAns_ok
    | with_reducible apply modPipe_keeps | with_reducible apply serve_keeps)

theorem execReadHistogram_keeps (c : Call) (cursor : Nat) (s : State) (kept : Keeps orig s) :
    KeepsOut orig (execReadHistogram c cursor s) := by
  unfold execReadHistogram
  repeat' (first
    | with_reducible assumption | with_reducible apply keepsOut_next | with_reducible apply serveRead_keeps)

theorem execSetReportCard_keeps (c : Call) (p : CardSet) (s : State) (kept : Keeps orig s) :
    KeepsOut orig (execSetReportCard c p s) := by
  unfold execSetReportCard
  repeat' (first
    | with_reducible intro _ | with_reducible assumption | with_reducible apply keepsAns_ite
    | with_reducible apply keepsOut_next | with_reducible apply keepsAns_reject | with_reducible apply keepsAns_wait
    | with_reducible apply keepsAns_ok | with_reducible apply modPipe_keeps | with_reducible apply serve_keeps)

theorem execTakeReportCard_keeps (c : Call) (s : State) (kept : Keeps orig s) :
    KeepsOut orig (execTakeReportCard c s) := by
  unfold execTakeReportCard
  repeat' (first
    | with_reducible intro _ | with_reducible assumption | with_reducible apply keepsAns_ite
    | with_reducible apply keepsAns_reject | with_reducible apply keepsAns_ok | with_reducible apply done_keeps
    | with_reducible apply takeCard_keeps | with_reducible apply serve_keeps)

theorem execReadReportCard_keeps (c : Call) (cursor : Nat) (s : State) (kept : Keeps orig s) :
    KeepsOut orig (execReadReportCard c cursor s) := by
  unfold execReadReportCard
  repeat' (first
    | with_reducible assumption | with_reducible apply keepsOut_next | with_reducible apply serveRead_keeps)

theorem execSetPunt_keeps (c : Call) (p : PuntSet) (unread : Bool) (s : State) (kept : Keeps orig s) :
    KeepsOut orig (execSetPunt c p unread s) := by
  unfold execSetPunt
  repeat' (first
    | with_reducible intro _ | with_reducible assumption | with_reducible apply keepsAns_ite
    | with_reducible apply keepsOut_next | with_reducible apply keepsAns_reject | with_reducible apply keepsAns_ok
    | with_reducible apply modPipe_keeps | with_reducible apply serve_keeps)

theorem execSetRefill_keeps (c : Call) (quarters : Nat) (s : State) (kept : Keeps orig s) :
    KeepsOut orig (execSetRefill c quarters s) := by
  unfold execSetRefill
  repeat' (first
    | with_reducible intro _ | with_reducible assumption | with_reducible apply keepsAns_ite
    | with_reducible apply keepsOut_next | with_reducible apply keepsAns_reject | with_reducible apply keepsAns_later
    | with_reducible apply stageChange_keeps | with_reducible apply serve_keeps)

end Sys2Proof.Machine
end

