-- ==== Sys2Proof/Laws/Keeps/PipeEvents.lean ====
section
/-! SUPPORT. The operations of Machine/PipeEvents.lean keep what every operation keeps. -/

namespace Sys2Proof.Machine

open Sys2Proof

set_option linter.tactic.unusedName false

variable {orig res : State}

theorem arrive_keeps (p : Parsed) (roce : Bool) (qpn : Nat) (room : Room) (bs : List Byte) (s : State) (kept : Keeps orig s) :
    Keeps orig (arrive p roce qpn room bs s) := by
  unfold arrive
  repeat' (first
    | (simp -zeta only [keeps_mk_iff]) | with_reducible assumption
    | (extract_lets +onlyGivenNames x; clear_value x; revert x; intro _))

theorem dropPacket_keeps (die c : Nat) (room : Room) (s : State) (kept : Keeps orig s) :
    Keeps orig (dropPacket die c room s) := by
  unfold dropPacket
  repeat' (first | with_reducible assumption | with_reducible apply freeRoom_keeps | with_reducible apply bump_keeps)

theorem packetMiss_keeps (part core : Nat) (s : State) (kept : Keeps orig s) :
    Keeps orig (packetMiss part core s) := by
  unfold packetMiss
  repeat' (first
    | with_reducible assumption | with_reducible apply coreMiss_keeps | with_reducible apply ceCount_keeps)

theorem ptIn_keeps (p : Parsed) (bs : List Byte) (room : Room) (miss : Option Nat) (s : State) (kept : Keeps orig s) :
    Keeps orig (ptIn p bs room miss s) := by
  unfold ptIn
  repeat' (first
    | with_reducible assumption | (extract_lets +onlyGivenNames x; clear_value x; revert x; intro _)
    | with_reducible apply packetMiss_keeps | with_reducible apply dropPacket_keeps
    | with_reducible apply arrive_keeps | with_reducible apply ceCount_keeps | with_reducible apply freeRoom_keeps
    | split)

theorem roceIn_keeps (p : Parsed) (f bs : List Byte) (room : Room) (s : State) (kept : Keeps orig s) :
    Keeps orig (roceIn p f bs room s) := by
  unfold roceIn
  repeat' (first
    | with_reducible intro _ | with_reducible assumption | with_reducible apply keeps_ite
    | with_reducible apply dropPacket_keeps | with_reducible apply arrive_keeps)

theorem connect_keeps (p : Parsed) (f : List Byte) (room : Room) (miss : Option Nat) (s : State) (kept : Keeps orig s) :
    Keeps orig (connect p f room miss s) := by
  unfold connect
  repeat' (first
    | with_reducible intro _ | with_reducible assumption | with_reducible apply keeps_ite
    | with_reducible apply roceIn_keeps | with_reducible apply ptIn_keeps | with_reducible apply dropPacket_keeps
    | with_reducible apply freeRoom_keeps | with_reducible apply pcount_keeps)

theorem classify_keeps (p : Parsed) (n : Nat) (s : State) (kept : Keeps orig s) :
    Keeps orig (classify p n s).2 := by
  unfold classify
  repeat' (first | with_reducible assumption | with_reducible apply meterFrame_keeps | split)

theorem recordFrag_keeps (p : Parsed) (d : Decision) (s : State) (kept : Keeps orig s) :
    Keeps orig (recordFrag p d s) := by
  unfold recordFrag
  repeat' (first | with_reducible assumption | with_reducible apply modPipe_keeps)

theorem decideFrame_keeps (p : Parsed) (n : Nat) (s : State) (kept : Keeps orig s) :
    Keeps orig (decideFrame p n s).2 := by
  unfold decideFrame
  repeat' (first
    | with_reducible intro _ | with_reducible assumption | with_reducible apply keeps_ite_snd
    | with_reducible apply recordFrag_keeps | with_reducible apply classify_keeps | with_reducible apply pcount_keeps
    | split)

theorem toStream_keeps (p : Parsed) (d : Decision) (f : List Byte) (room : Room) (s : State) (kept : Keeps orig s) :
    Keeps orig (toStream p d f room s) := by
  unfold toStream
  repeat' (first
    | with_reducible assumption | with_reducible apply netArrive_keeps | with_reducible apply freeRoom_keeps
    | with_reducible apply pcount_keeps | split)

theorem runAction_keeps (p : Parsed) (d : Decision) (f : List Byte) (room : Room) (miss : Option Nat) (s : State) (kept : Keeps orig s) :
    Keeps orig (runAction p d f room miss s) := by
  unfold runAction
  repeat' (first
    | with_reducible assumption | with_reducible apply toStream_keeps | with_reducible apply connect_keeps
    | with_reducible apply puntFrame_keeps | with_reducible apply forward_keeps | with_reducible apply modSched_keeps
    | with_reducible apply freeRoom_keeps | with_reducible apply pcount_keeps
    | with_reducible refine keepsOpt_use (by assumption) ?_ | split)

theorem handleFrame_keeps (node : Nat) (f : List Byte) (room : Room) (miss : Option Nat) (s : State) (kept : Keeps orig s) :
    Keeps orig (handleFrame node f room miss s) := by
  unfold handleFrame
  repeat' (first
    | with_reducible intro _ | with_reducible assumption | with_reducible apply keeps_ite
    | with_reducible apply runAction_keeps | with_reducible apply decideFrame_keeps
    | with_reducible apply countHit_keeps | with_reducible apply freeRoom_keeps
    | with_reducible apply nodeCount_keeps | with_reducible apply pcount_keeps)

theorem bufferFindings_keeps (ecc : List EccHit) (s : State) (kept : Keeps orig s) :
    Keeps orig (bufferFindings ecc s).2 := by
  unfold bufferFindings
  repeat' (first
    | with_reducible intro _ | with_reducible assumption | with_reducible apply keeps_foldl_snd
    | with_reducible apply uncorrectable_keeps | with_reducible apply corrected_keeps | split)

theorem storedFrame_keeps (node : Nat) (f : List Byte) (room : Room) (miss : Option Nat) (ecc : List EccHit) (s : State) (kept : Keeps orig s) :
    Keeps orig (storedFrame node f room miss ecc s) := by
  unfold storedFrame
  repeat' (first
    | with_reducible intro _ | with_reducible assumption | with_reducible apply keeps_ite
    | with_reducible apply bufferFindings_keeps | with_reducible apply handleFrame_keeps
    | with_reducible apply freeRoom_keeps | with_reducible apply nodeCount_keeps | with_reducible apply pcount_keeps)

theorem execEthFrameRx_keeps (node : Nat) (bytes : List Byte) (found : FrameChecks) (s : State) (kept : Keeps orig s) :
    KeepsOut orig (execEthFrameRx node bytes found s) := by
  unfold execEthFrameRx
  repeat' (first
    | with_reducible intro _ | with_reducible assumption | with_reducible apply keepsOut_ite
    | with_reducible apply keepsOut_next | with_reducible apply storedFrame_keeps | with_reducible apply done_keeps
    | with_reducible apply takeRoom_keeps | with_reducible apply nodeCount_keeps | with_reducible apply pcount_keeps
    | split)

theorem execFragEntryExpiry_keeps (die i : Nat) (s : State) (kept : Keeps orig s) :
    KeepsOut orig (execFragEntryExpiry die i s) := by
  unfold execFragEntryExpiry
  repeat' (first
    | with_reducible assumption | with_reducible apply keepsOut_next | with_reducible apply modPipe_keeps)

theorem sendTxFrame_keeps (node q : Nat) (f : TxFrame) (rest : List TxFrame) (s : State) (kept : Keeps orig s) :
    Keeps orig (sendTxFrame node q f rest s) := by
  unfold sendTxFrame
  repeat' (first
    | with_reducible assumption | with_reducible apply injectDone_keeps | with_reducible apply sampleDelay_keeps
    | with_reducible apply modSched_keeps | with_reducible apply freeRoom_keeps
    | with_reducible apply nodeCount_keeps | with_reducible apply emit_keeps | split)

theorem sendPacket_keeps (n : Nat) (q : Qp) (p : TxPkt) (miss : Option Nat) (s : State) (kept : Keeps orig s) :
    Keeps orig (sendPacket n q p miss s).2.2 := by
  unfold sendPacket
  repeat' (first
    | with_reducible assumption | with_reducible apply packetMiss_keeps | with_reducible apply sendRoce_keeps
    | with_reducible apply sendPt_keeps | with_reducible apply sealPt_keeps | with_reducible apply modX_keeps | split)

theorem pullPacket_keeps (q : Nat) (miss : Option Nat) (s : State) (kept : Keeps orig s) :
    Keeps orig (pullPacket q miss s).2 := by
  unfold pullPacket
  repeat' (first
    | with_reducible assumption | with_reducible apply sendPacket_keeps | with_reducible apply sampleDelay_keeps
    | with_reducible apply modSched_keeps | with_reducible apply nodeCount_keeps | with_reducible apply modPipe_keeps
    | with_reducible apply bump_keeps | split)

theorem dropTxFrame_keeps (die q : Nat) (f : TxFrame) (rest : List TxFrame) (s : State) (kept : Keeps orig s) :
    Keeps orig (dropTxFrame die q f rest s) := by
  unfold dropTxFrame
  repeat' (first
    | with_reducible assumption | with_reducible apply modSched_keeps | with_reducible apply freeRoom_keeps
    | with_reducible apply pcount_keeps | split)

theorem execTxFrameSelect_keeps (node : Nat) (found : FrameChecks) (s : State) (kept : Keeps orig s) :
    KeepsOut orig (execTxFrameSelect node found s) := by
  unfold execTxFrameSelect
  repeat' (first
    | with_reducible assumption
    | (extract_lets +onlyGivenNames x; refine keeps_cut (r := orig) (u := x.2) ?_ (fun _ => ?_); rotate_left; clear_value x; revert x; intro _ _; rotate_left; (simp -zeta only [x]); clear x)
    | (extract_lets +onlyGivenNames x; clear_value x; revert x; intro _) | with_reducible apply keepsOut_next
    | with_reducible apply dropTxFrame_keeps | with_reducible apply pullPacket_keeps
    | with_reducible apply sendTxFrame_keeps | with_reducible apply bufferFindings_keeps
    | with_reducible apply done_keeps | with_reducible apply kickStreams_keeps
    | with_reducible apply chargePath_keeps | with_reducible apply pickPath_keeps
    | with_reducible refine keepsOpt2_use (by assumption) ?_ | split)

theorem execRefill_keeps (s : State) (kept : Keeps orig s) :
    KeepsOut orig (execRefill s) := by
  unfold execRefill
  repeat' (first
    | with_reducible intro _ | with_reducible assumption | with_reducible apply keeps_ite
    | with_reducible apply done_keeps | with_reducible apply kickStreams_keeps
    | with_reducible apply sampleDepths_keeps | with_reducible apply modPipe_keeps)

theorem execGateChange_keeps (port : Nat) (s : State) (kept : Keeps orig s) :
    KeepsOut orig (execGateChange port s) := by
  unfold execGateChange
  repeat' (first
    | with_reducible assumption | with_reducible apply keepsOut_next | with_reducible apply gateNow_keeps)

theorem execReportCardPeriod_keeps (func : Nat) (s : State) (kept : Keeps orig s) :
    KeepsOut orig (execReportCardPeriod func s) := by
  unfold execReportCardPeriod
  repeat' (first
    | with_reducible assumption | with_reducible apply keepsOut_next | with_reducible apply done_keeps
    | with_reducible apply takeCard_keeps | split)

end Sys2Proof.Machine
end

