-- ==== Sys2Proof/Laws/Keeps/ResetCmds.lean ====
section
/-! SUPPORT. The operations of Machine/ResetCmds.lean keep what every operation keeps. -/

namespace Sys2Proof.Machine

open Sys2Proof

set_option linter.tactic.unusedName false

variable {orig res : State}

theorem execDeviceReset_keeps (c : Call) (s : State) (kept : Keeps orig s) :
    KeepsOut orig (execDeviceReset c s) := by
  unfold execDeviceReset
  repeat' (first
    | with_reducible intro _ | with_reducible assumption | with_reducible apply keepsAns_ite
    | with_reducible apply keepsOut_next | with_reducible apply keepsAns_reject | with_reducible apply keepsAns_ok
    | with_reducible apply serve_keeps | with_reducible refine keeps_chip ?_ (fuses_keep _))

theorem execSoftResetFire_keeps (s : State) (kept : Keeps orig s) :
    KeepsOut orig (execSoftResetFire s) := by
  unfold execSoftResetFire
  repeat' (first
    | with_reducible assumption | with_reducible apply keepsOut_next | with_reducible apply assertReset_keeps
    | with_reducible refine keeps_chip ?_ (fuses_keep _) | split)

theorem execReadReset_keeps (c : Call) (cursor : Nat) (s : State) (kept : Keeps orig s) :
    KeepsOut orig (execReadReset c cursor s) := by
  unfold execReadReset
  repeat' (first
    | with_reducible assumption | with_reducible apply keepsOut_next | with_reducible apply serveRead_keeps)

theorem execBlockReset_keeps (c : Call) (s : State) (kept : Keeps orig s) :
    KeepsOut orig (execBlockReset c s) := by
  unfold execBlockReset
  repeat' (first
    | with_reducible intro _ | with_reducible assumption | with_reducible apply keepsAns_ite
    | with_reducible apply keepsOut_next | with_reducible apply keepsAns_reject | with_reducible apply keepsAns_later
    | with_reducible apply serve_keeps | with_reducible refine keeps_chip ?_ (fuses_keep _))

theorem rstCount_keeps (c n : Nat) (s : State) (kept : Keeps orig s) :
    Keeps orig (rstCount c n s) := by
  unfold rstCount
  repeat' (first | with_reducible assumption | with_reducible apply bump_keeps)

theorem isolate_keeps (f : Xfer → Bool) (s : State) (kept : Keeps orig s) :
    Keeps orig (isolate f s) := by
  unfold isolate
  repeat' (first
    | (simp -zeta only [keeps_mk_iff]) | with_reducible assumption
    | (extract_lets +onlyGivenNames x; refine keeps_cut (r := orig) (u := x) ?_ (fun _ => ?_); rotate_left; clear_value x; revert x; intro _ _; rotate_left; (simp -zeta only [x]); clear x)
    | (extract_lets +onlyGivenNames x; clear_value x; revert x; intro _) | with_reducible apply rstCount_keeps)

theorem resetBench_keeps (b : Nat) (s : State) (kept : Keeps orig s) :
    Keeps orig (resetBench b s) := by
  unfold resetBench
  repeat' (first
    | with_reducible intro _ | with_reducible assumption | with_reducible apply keeps_foldl
    | with_reducible apply isolate_keeps | with_reducible apply refuseRelayed_keeps
    | with_reducible apply endJob_keeps | with_reducible apply modBind_keeps | with_reducible apply modSlot_keeps
    | with_reducible apply modTile_keeps | with_reducible apply modProc_keeps | split)

theorem resetColl_keeps (unit : Nat) (s : State) (kept : Keeps orig s) :
    Keeps orig (resetColl unit s) := by
  unfold resetColl
  repeat' (first
    | with_reducible intro _ | with_reducible assumption | with_reducible apply keeps_foldl
    | with_reducible apply isolate_keeps | with_reducible apply endColl_keeps | split)

theorem dropQueued_keeps (f : Nat → Bool) (s : State) (kept : Keeps orig s) :
    Keeps orig (dropQueued f s).2 := by
  unfold dropQueued
  repeat' (first
    | with_reducible intro _ | with_reducible assumption | with_reducible apply keeps_foldl
    | with_reducible apply modSched_keeps | with_reducible apply freeRoom_keeps | split)

theorem resetPipe_keeps (d : Nat) (s : State) (kept : Keeps orig s) :
    Keeps orig (resetPipe d s) := by
  unfold resetPipe
  repeat' (first
    | with_reducible intro _ | with_reducible assumption | with_reducible apply keeps_foldl
    | with_reducible apply dropQueued_keeps | with_reducible apply freeRoom_keeps | with_reducible apply pcount_keeps
    | with_reducible apply modPipe_keeps)

theorem resetPort_keeps (n : Nat) (s : State) (kept : Keeps orig s) :
    Keeps orig (resetPort n s) := by
  unfold resetPort
  repeat' (first
    | with_reducible assumption | with_reducible apply dropQueued_keeps | with_reducible apply modPipe_keeps)

theorem resetBlock_keeps (kind index : Nat) (s : State) (kept : Keeps orig s) :
    Keeps orig (resetBlock kind index s) := by
  unfold resetBlock
  repeat' (first
    | with_reducible intro _ | with_reducible assumption | with_reducible apply keeps_ite
    | with_reducible apply resetPort_keeps | with_reducible apply resetPipe_keeps
    | with_reducible apply resetColl_keeps | with_reducible apply resetBench_keeps)

theorem execBlockIdle_keeps (kind index : Nat) (_timedOut : Bool) (s : State) (kept : Keeps orig s) :
    KeepsOut orig (execBlockIdle kind index _timedOut s) := by
  unfold execBlockIdle
  repeat' (first
    | with_reducible assumption | with_reducible apply keepsOut_next | with_reducible apply resetBlock_keeps
    | with_reducible apply rstCount_keeps | with_reducible apply done_keeps | with_reducible apply kickJobs_keeps
    | with_reducible apply finish_keeps | with_reducible refine keeps_chip ?_ (fuses_keep _) | split)

theorem execPowerOnReset_keeps (s : State) (kept : Keeps orig s) :
    KeepsOut orig (execPowerOnReset s) := by
  unfold execPowerOnReset
  repeat' (first
    | with_reducible assumption | with_reducible apply keepsOut_next | with_reducible apply powerOnState_keeps)

theorem execBrownOut_keeps (rail : Rail) (s : State) (kept : Keeps orig s) :
    KeepsOut orig (execBrownOut rail s) := by
  unfold execBrownOut
  repeat' (first
    | with_reducible intro _ | with_reducible assumption | with_reducible apply keepsOut_ite
    | with_reducible apply keepsOut_next | with_reducible apply faultSource_keeps
    | with_reducible apply powerOnState_keeps | with_reducible refine keeps_chip ?_ (fuses_keep _))

theorem execPerstN_keeps (s : State) (kept : Keeps orig s) :
    KeepsOut orig (execPerstN s) := by
  unfold execPerstN
  repeat' (first
    | with_reducible assumption | with_reducible apply keepsOut_next | with_reducible apply assertReset_keeps
    | with_reducible refine keeps_chip ?_ (fuses_keep _))

theorem execSysRstN_keeps (s : State) (kept : Keeps orig s) :
    KeepsOut orig (execSysRstN s) := by
  unfold execSysRstN
  repeat' (first
    | with_reducible assumption | with_reducible apply keepsOut_next | with_reducible apply assertReset_keeps
    | with_reducible refine keeps_chip ?_ (fuses_keep _))

theorem execSystemWatchdog_keeps (s : State) (kept : Keeps orig s) :
    KeepsOut orig (execSystemWatchdog s) := by
  unfold execSystemWatchdog
  repeat' (first
    | with_reducible assumption | with_reducible apply keepsOut_next | with_reducible apply faultSource_keeps)

theorem execDebugReset_keeps (level : ResetLevel) (s : State) (kept : Keeps orig s) :
    KeepsOut orig (execDebugReset level s) := by
  unfold execDebugReset
  repeat' (first
    | with_reducible intro _ | with_reducible assumption | with_reducible apply keeps_ite
    | with_reducible apply keepsOut_next | with_reducible apply assertReset_keeps
    | with_reducible apply setCause_keeps)

theorem execClockFailure_keeps (why : ClockLoss) (s : State) (kept : Keeps orig s) :
    KeepsOut orig (execClockFailure why s) := by
  unfold execClockFailure
  repeat' (first
    | with_reducible assumption | with_reducible apply keepsOut_next | with_reducible apply rstCount_keeps
    | with_reducible apply faultSource_keeps | with_reducible refine keeps_chip ?_ (fuses_keep _))

theorem execOptionLoadDone_keeps (crcOk : Bool) (s : State) (kept : Keeps orig s) :
    KeepsOut orig (execOptionLoadDone crcOk s) := by
  unfold execOptionLoadDone
  repeat' (first
    | with_reducible intro _ | with_reducible assumption | with_reducible apply keepsOut_ite
    | with_reducible apply keepsOut_next | with_reducible apply assertFault_keeps
    | with_reducible refine keeps_chip ?_ (fuses_keep _))

theorem execRootPllLock_keeps (s : State) (kept : Keeps orig s) :
    KeepsOut orig (execRootPllLock s) := by
  unfold execRootPllLock
  repeat' (first
    | with_reducible assumption | with_reducible apply keepsOut_next
    | with_reducible refine keeps_chip ?_ (fuses_keep _))

theorem execResetRelease_keeps (s : State) (kept : Keeps orig s) :
    KeepsOut orig (execResetRelease s) := by
  unfold execResetRelease
  repeat' (first
    | with_reducible intro _ | with_reducible assumption | with_reducible apply keepsOut_ite
    | with_reducible apply keepsOut_next | with_reducible refine keeps_chip ?_ (fuses_keep _))

theorem execBootImageRead_keeps (s : State) (kept : Keeps orig s) :
    KeepsOut orig (execBootImageRead s) := by
  unfold execBootImageRead
  repeat' (first
    | with_reducible intro _ | with_reducible assumption | with_reducible apply keeps_ite
    | (extract_lets +onlyGivenNames x; subst x) | with_reducible apply keepsOut_next
    | with_reducible apply rstCount_keeps | with_reducible apply loadImage_keeps
    | with_reducible refine keeps_chip ?_ (fuses_keep _) | split)

theorem execGddr7TrainingDone_keeps (ch : Nat) (ok : Bool) (temp : Nat) (s : State) (kept : Keeps orig s) :
    KeepsOut orig (execGddr7TrainingDone ch ok temp s) := by
  unfold execGddr7TrainingDone
  repeat' (first
    | with_reducible intro _ | with_reducible assumption | with_reducible apply keepsOut_ite
    | with_reducible apply keepsOut_next | with_reducible apply modChan_keeps)

theorem execEndpointReady_keeps (speed width : Nat) (flit : Bool) (s : State) (kept : Keeps orig s) :
    KeepsOut orig (execEndpointReady speed width flit s) := by
  unfold execEndpointReady
  repeat' (first
    | with_reducible intro _ | with_reducible assumption | with_reducible apply keepsOut_ite
    | with_reducible apply keeps_ite | with_reducible apply keepsOut_next | with_reducible apply bootRun_keeps
    | with_reducible refine keeps_chip ?_ (fuses_keep _))

end Sys2Proof.Machine
end

