-- ==== Sys2Proof/Laws/Keeps/PowerOps.lean ====
section
/-! SUPPORT. The operations of Machine/PowerOps.lean keep what every operation keeps. -/

namespace Sys2Proof.Machine

open Sys2Proof

set_option linter.tactic.unusedName false

variable {orig res : State}

theorem modPm_keeps (f : Pm → Pm) (s : State) (kept : Keeps orig s) : Keeps orig (modPm f s) := keeps_mk kept

theorem throttleTo_keeps (limit total tile : Nat) (s : State) (kept : Keeps orig s) :
    Keeps orig (throttleTo limit total tile s) := by
  unfold throttleTo
  repeat' (first
    | with_reducible intro _ | with_reducible assumption | with_reducible apply keeps_ite
    | with_reducible apply modPm_keeps)

theorem beginLimit_keeps (k : Nat) (s : State) (kept : Keeps orig s) :
    Keeps orig (beginLimit k s) := by
  unfold beginLimit
  repeat' (first
    | with_reducible intro _ | with_reducible assumption | with_reducible apply keeps_ite
    | with_reducible apply modPm_keeps | with_reducible apply event_keeps | with_reducible apply bump_keeps)

theorem actPower_keeps (tile : Nat) (s : State) (k : Nat) (kept : Keeps orig s) :
    Keeps orig (actPower tile s k) := by
  unfold actPower
  repeat' (first
    | with_reducible intro _ | with_reducible assumption | with_reducible apply keeps_ite
    | with_reducible apply beginLimit_keeps | with_reducible apply throttleTo_keeps
    | with_reducible apply modPm_keeps)

theorem powerOffTile_keeps (s : State) (t : Nat) (kept : Keeps orig s) :
    Keeps orig (powerOffTile s t) := by
  unfold powerOffTile
  repeat' (first
    | with_reducible assumption | with_reducible apply Memory.wf_clearRange
    | with_reducible refine keeps_mem ?_ (fun _ => ?_))

theorem enterState_keeps (p : Nat) (s : State) (kept : Keeps orig s) :
    Keeps orig (enterState p s) := by
  unfold enterState
  repeat' (first
    | with_reducible intro _ | with_reducible assumption | with_reducible apply keeps_ite
    | with_reducible apply keeps_foldl | with_reducible apply powerOffTile_keeps | with_reducible apply modPm_keeps)

theorem attemptEntry_keeps (s : State) (kept : Keeps orig s) :
    Keeps orig (attemptEntry s) := by
  unfold attemptEntry
  repeat' (first
    | with_reducible assumption | (extract_lets +onlyGivenNames x; clear_value x; revert x; intro _)
    | with_reducible apply enterState_keeps | with_reducible apply modPm_keeps | with_reducible apply bump_keeps
    | split)

end Sys2Proof.Machine
end

