-- ==== Sys2Proof/Laws/Keeps/PowerCmds.lean ====
section
/-! SUPPORT. The operations of Machine/PowerCmds.lean keep what every operation keeps. -/

namespace Sys2Proof.Machine

open Sys2Proof

set_option linter.tactic.unusedName false

variable {orig res : State}

theorem execReadPower_keeps (c : Call) (cursor : Nat) (s : State) (kept : Keeps orig s) :
    KeepsOut orig (execReadPower c cursor s) := by
  unfold execReadPower
  repeat' (first
    | with_reducible assumption | with_reducible apply keepsOut_next | with_reducible apply serveRead_keeps)

theorem execSetLatencyTol_keeps (c : Call) (us : Nat) (s : State) (kept : Keeps orig s) :
    KeepsOut orig (execSetLatencyTol c us s) := by
  unfold execSetLatencyTol
  repeat' (first
    | with_reducible intro _ | with_reducible assumption | with_reducible apply keepsAns_ite
    | with_reducible apply keepsOut_next | with_reducible apply keepsAns_reject | with_reducible apply keepsAns_ok
    | with_reducible apply serve_keeps | with_reducible apply modPart_keeps)

theorem execSetPowerLimit_keeps (c : Call) (watts : Nat) (s : State) (kept : Keeps orig s) :
    KeepsOut orig (execSetPowerLimit c watts s) := by
  unfold execSetPowerLimit
  repeat' (first
    | with_reducible intro _ | with_reducible assumption | with_reducible apply keepsAns_ite
    | with_reducible apply keepsOut_next | with_reducible apply keepsAns_reject | with_reducible apply keepsAns_ok
    | with_reducible apply modPm_keeps | with_reducible apply serve_keeps)

theorem execSetThermal_keeps (c : Call) (t : Nat) (s : State) (kept : Keeps orig s) :
    KeepsOut orig (execSetThermal c t s) := by
  unfold execSetThermal
  repeat' (first
    | with_reducible intro _ | with_reducible assumption | with_reducible apply keepsAns_ite
    | with_reducible apply keepsOut_next | with_reducible apply keepsAns_reject | with_reducible apply keepsAns_ok
    | with_reducible apply modPm_keeps | with_reducible apply serve_keeps)

theorem execSetPstateLimit_keeps (c : Call) (p : Nat) (s : State) (kept : Keeps orig s) :
    KeepsOut orig (execSetPstateLimit c p s) := by
  unfold execSetPstateLimit
  repeat' (first
    | with_reducible intro _ | with_reducible assumption | with_reducible apply keepsAns_ite
    | with_reducible apply keepsOut_next | with_reducible apply keepsAns_reject | with_reducible apply keepsAns_ok
    | with_reducible apply modPm_keeps | with_reducible apply serve_keeps)

theorem releaseThrottle_keeps (s : State) (kept : Keeps orig s) :
    Keeps orig (releaseThrottle s) := by
  unfold releaseThrottle
  repeat' (first
    | with_reducible intro _ | with_reducible assumption | with_reducible apply keeps_ite
    | with_reducible apply keeps_foldl | with_reducible apply modPm_keeps | with_reducible apply event_keeps)

theorem execControlPeriod_keeps (s : State) (kept : Keeps orig s) :
    KeepsOut orig (execControlPeriod s) := by
  unfold execControlPeriod
  repeat' (first
    | with_reducible intro _ | with_reducible assumption | with_reducible apply keepsOut_ite
    | with_reducible apply keeps_ite | with_reducible apply keepsOut_next
    | with_reducible apply releaseThrottle_keeps | with_reducible apply attemptEntry_keeps
    | with_reducible apply done_keeps | with_reducible apply beginSwitch_keeps | with_reducible apply wakeUp_keeps)

theorem execWake_keeps (entering : Bool) (s : State) (kept : Keeps orig s) :
    KeepsOut orig (execWake entering s) := by
  unfold execWake
  repeat' (first
    | with_reducible intro _ | with_reducible assumption | with_reducible apply keeps_ite
    | with_reducible apply done_keeps | with_reducible apply kickStreams_keeps | with_reducible apply bump_keeps
    | with_reducible apply wakeUp_keeps)

theorem execPowerSample_keeps (mW tileMw : Nat) (s : State) (kept : Keeps orig s) :
    KeepsOut orig (execPowerSample mW tileMw s) := by
  unfold execPowerSample
  repeat' (first
    | with_reducible assumption | with_reducible apply keepsOut_next | with_reducible apply keeps_foldl
    | with_reducible apply actPower_keeps | with_reducible apply modPm_keeps)

theorem thermTrip_keeps (s : State) (kept : Keeps orig s) :
    Keeps orig (thermTrip s) := by
  unfold thermTrip
  repeat' (first
    | (simp -zeta only [keeps_mk_iff]) | with_reducible intro _ | with_reducible assumption
    | with_reducible apply keeps_ite | with_reducible apply keeps_foldl | with_reducible apply modPm_keeps
    | with_reducible apply stopDevice_keeps | with_reducible apply event_keeps | with_reducible apply modTile_keeps)

theorem actThermal_keeps (steps : Nat) (s : State) (kept : Keeps orig s) :
    Keeps orig (actThermal steps s) := by
  unfold actThermal
  repeat' (first
    | with_reducible intro _ | with_reducible assumption | with_reducible apply keeps_ite
    | with_reducible apply beginLimit_keeps | with_reducible apply modPm_keeps)

theorem execThermalSample_keeps (temps : List Nat) (steps : Nat) (s : State) (kept : Keeps orig s) :
    KeepsOut orig (execThermalSample temps steps s) := by
  unfold execThermalSample
  repeat' (first
    | with_reducible intro _ | with_reducible assumption | with_reducible apply keeps_ite
    | with_reducible apply keepsOut_next | with_reducible apply actThermal_keeps
    | with_reducible apply thermTrip_keeps | with_reducible apply modPm_keeps)

theorem execEmergencyClear_keeps (s : State) (kept : Keeps orig s) :
    KeepsOut orig (execEmergencyClear s) := by
  unfold execEmergencyClear
  repeat' (first
    | (simp -zeta only [keeps_mk_iff]) | with_reducible intro _ | with_reducible assumption
    | with_reducible apply keepsOut_ite | with_reducible apply keepsOut_next | with_reducible apply modPm_keeps
    | with_reducible apply event_keeps)

theorem execWearCharge_keeps (s : State) (kept : Keeps orig s) :
    KeepsOut orig (execWearCharge s) := by
  unfold execWearCharge
  repeat' (first
    | with_reducible intro _ | with_reducible assumption | with_reducible apply keeps_ite
    | with_reducible apply keepsOut_next | with_reducible apply modPm_keeps | with_reducible apply event_keeps)

theorem execWearRecordWrite_keeps (s : State) (kept : Keeps orig s) :
    KeepsOut orig (execWearRecordWrite s) := by
  unfold execWearRecordWrite
  repeat' (first | with_reducible assumption | with_reducible apply keepsOut_next | with_reducible apply modPm_keeps)

theorem execI3cRead_keeps (addr : Nat) (s : State) (kept : Keeps orig s) :
    KeepsOut orig (execI3cRead addr s) := by
  unfold execI3cRead
  repeat' (first
    | with_reducible intro _ | with_reducible assumption | with_reducible apply keeps_ite
    | with_reducible apply keepsOut_next | with_reducible apply emit_keeps)

end Sys2Proof.Machine
end

