-- ==== Sys2Proof/Laws/Keeps/RegCmds.lean ====
section
/-! SUPPORT. The operations of Machine/RegCmds.lean keep what every operation keeps. -/

namespace Sys2Proof.Machine

open Sys2Proof

set_option linter.tactic.unusedName false

variable {orig res : State}

theorem execRegisterWrite_keeps (w : RegWrite) (s : State) (kept : Keeps orig s) :
    KeepsOut orig (execRegisterWrite w s) := by
  unfold execRegisterWrite
  repeat' (first | with_reducible assumption | with_reducible apply regWrite_keeps | with_reducible apply done_keeps)

theorem execUnimplementedRead_keeps (func bar offset size : Nat) (s : State) (kept : Keeps orig s) :
    KeepsOut orig (execUnimplementedRead func bar offset size s) := by
  unfold execUnimplementedRead
  repeat' (first
    | with_reducible intro _ | with_reducible assumption | with_reducible apply keepsOut_ite
    | with_reducible apply keepsOut_next | with_reducible apply recBadAddr_keeps | with_reducible apply emit_keeps)

theorem execBadSizeRead_keeps (func bar offset size : Nat) (s : State) (kept : Keeps orig s) :
    KeepsOut orig (execBadSizeRead func bar offset size s) := by
  unfold execBadSizeRead
  repeat' (first
    | with_reducible intro _ | with_reducible assumption | with_reducible apply keepsOut_ite
    | with_reducible apply keeps_ite | with_reducible apply keepsOut_next | with_reducible apply recBadAddr_keeps
    | with_reducible apply emit_keeps)

theorem execSnap_keeps (w : RegWrite) (s : State) (kept : Keeps orig s) :
    KeepsOut orig (execSnap w s) := by
  unfold execSnap
  repeat' (first
    | with_reducible intro _ | with_reducible assumption | with_reducible apply keeps_ite
    | with_reducible apply keepsOut_next | with_reducible apply regWrite_keeps)

theorem execErrstatClear_keeps (w : RegWrite) (s : State) (kept : Keeps orig s) :
    KeepsOut orig (execErrstatClear w s) := by
  unfold execErrstatClear
  repeat' (first
    | with_reducible intro _ | with_reducible assumption | with_reducible apply keeps_ite
    | with_reducible apply keepsOut_next | with_reducible apply regWrite_keeps)

theorem execTrFqhead_keeps (w : RegWrite) (s : State) (kept : Keeps orig s) :
    KeepsOut orig (execTrFqhead w s) := by
  unfold execTrFqhead
  repeat' (first
    | with_reducible intro _ | with_reducible assumption | with_reducible apply keeps_ite
    | with_reducible apply keepsOut_next | with_reducible apply regWrite_keeps)

theorem execRetry_keeps (w : RegWrite) (s : State) (kept : Keeps orig s) :
    KeepsOut orig (execRetry w s) := by
  unfold execRetry
  repeat' (first
    | with_reducible intro _ | with_reducible assumption | with_reducible apply keeps_ite
    | with_reducible apply regWrite_keeps | with_reducible apply done_keeps)

theorem execFail_keeps (w : RegWrite) (s : State) (kept : Keeps orig s) :
    KeepsOut orig (execFail w s) := by
  unfold execFail
  repeat' (first
    | with_reducible intro _ | with_reducible assumption | with_reducible apply keeps_ite
    | with_reducible apply regWrite_keeps | with_reducible apply done_keeps)

theorem execQeTcvalue_keeps (w : RegWrite) (s : State) (kept : Keeps orig s) :
    KeepsOut orig (execQeTcvalue w s) := by
  unfold execQeTcvalue
  repeat' (first
    | with_reducible intro _ | with_reducible assumption | with_reducible apply keeps_ite
    | with_reducible apply keepsOut_next | with_reducible apply regWrite_keeps)

theorem execQeTcadd_keeps (w : RegWrite) (s : State) (kept : Keeps orig s) :
    KeepsOut orig (execQeTcadd w s) := by
  unfold execQeTcadd
  repeat' (first
    | with_reducible intro _ | with_reducible assumption | with_reducible apply keeps_ite
    | with_reducible apply keepsOut_next | with_reducible apply regWrite_keeps)

theorem execPpInject_keeps (w : RegWrite) (s : State) (kept : Keeps orig s) :
    KeepsOut orig (execPpInject w s) := by
  unfold execPpInject
  repeat' (first
    | with_reducible intro _ | with_reducible assumption | with_reducible apply keeps_ite
    | with_reducible apply regWrite_keeps | with_reducible apply done_keeps)

theorem execCeRingdb_keeps (w : RegWrite) (s : State) (kept : Keeps orig s) :
    KeepsOut orig (execCeRingdb w s) := by
  unfold execCeRingdb
  repeat' (first
    | with_reducible intro _ | with_reducible assumption | with_reducible apply keeps_ite
    | with_reducible apply regWrite_keeps | with_reducible apply done_keeps)

theorem execTaskGo_keeps (w : RegWrite) (s : State) (kept : Keeps orig s) :
    KeepsOut orig (execTaskGo w s) := by
  unfold execTaskGo
  repeat' (first
    | with_reducible intro _ | with_reducible assumption | with_reducible apply keeps_ite
    | with_reducible apply keepsOut_next | with_reducible apply regWrite_keeps)

theorem execSqDb_keeps (w : DoorbellWrite) (s : State) (kept : Keeps orig s) :
    KeepsOut orig (execSqDb w s) := by
  unfold execSqDb
  repeat' (first
    | with_reducible intro _ | with_reducible assumption | with_reducible apply keeps_ite
    | with_reducible apply regWrite_keeps | with_reducible apply done_keeps)

theorem execRqDb_keeps (w : DoorbellWrite) (s : State) (kept : Keeps orig s) :
    KeepsOut orig (execRqDb w s) := by
  unfold execRqDb
  repeat' (first
    | with_reducible intro _ | with_reducible assumption | with_reducible apply keeps_ite
    | with_reducible apply regWrite_keeps | with_reducible apply done_keeps)

theorem execCqDb_keeps (w : DoorbellWrite) (s : State) (kept : Keeps orig s) :
    KeepsOut orig (execCqDb w s) := by
  unfold execCqDb
  repeat' (first
    | with_reducible intro _ | with_reducible assumption | with_reducible apply keeps_ite
    | with_reducible apply regWrite_keeps | with_reducible apply done_keeps)

theorem execCqArm_keeps (w : DoorbellWrite) (s : State) (kept : Keeps orig s) :
    KeepsOut orig (execCqArm w s) := by
  unfold execCqArm
  repeat' (first
    | with_reducible intro _ | with_reducible assumption | with_reducible apply keeps_ite
    | with_reducible apply regWrite_keeps | with_reducible apply done_keeps)

theorem retrySq_keeps (n : Nat) (s : State) (kept : Keeps orig s) :
    Keeps orig (retrySq n s) := by
  unfold retrySq
  repeat' (first
    | with_reducible assumption | with_reducible apply sqTry_keeps | with_reducible apply modQp_keeps | split)

theorem retryRq_keeps (n : Nat) (s : State) (kept : Keeps orig s) :
    Keeps orig (retryRq n s) := by
  unfold retryRq
  repeat' (first
    | with_reducible assumption | with_reducible apply rqTry_keeps | with_reducible apply modQp_keeps | split)

theorem retryRing_keeps (p : Nat) (s : State) (kept : Keeps orig s) :
    Keeps orig (retryRing p s) := by
  unfold retryRing
  repeat' (first
    | with_reducible assumption | with_reducible apply cipherTry_keeps | with_reducible apply modRing_keeps | split)

theorem retryInject_keeps (s : State) (kept : Keeps orig s) :
    Keeps orig (retryInject s) := by
  unfold retryInject
  repeat' (first
    | with_reducible assumption | with_reducible apply injectTry_keeps | with_reducible apply modPipe_keeps | split)

theorem execDoorbellRetry_keeps (kind n : Nat) (s : State) (kept : Keeps orig s) :
    KeepsOut orig (execDoorbellRetry kind n s) := by
  unfold execDoorbellRetry
  repeat' (first
    | with_reducible intro _ | with_reducible assumption | with_reducible apply keeps_ite
    | with_reducible apply retryInject_keeps | with_reducible apply retryRing_keeps
    | with_reducible apply retryRq_keeps | with_reducible apply retrySq_keeps | with_reducible apply done_keeps)

theorem execMailboxGo_keeps (w : RegWrite) (s : State) (kept : Keeps orig s) :
    KeepsOut orig (execMailboxGo w s) := by
  unfold execMailboxGo
  repeat' (first
    | with_reducible intro _ | with_reducible assumption | with_reducible apply keeps_ite
    | with_reducible apply keepsOut_next | with_reducible apply regWrite_keeps)

theorem execMailboxDone_keeps (mb : MbId) (s : State) (kept : Keeps orig s) :
    KeepsOut orig (execMailboxDone mb s) := by
  unfold execMailboxDone
  repeat' (first
    | with_reducible assumption
    | (extract_lets +onlyGivenNames x; refine keeps_cut (r := orig) (u := x) ?_ (fun _ => ?_); rotate_left; clear_value x; revert x; intro _ _; rotate_left; (simp -zeta only [x]); clear x)
    | (extract_lets +onlyGivenNames x; clear_value x; revert x; intro _) | with_reducible apply keepsOut_next
    | with_reducible apply msix_keeps | with_reducible apply wrMem_keeps | with_reducible apply modMbox_keeps
    | with_reducible apply bump_keeps | split)

end Sys2Proof.Machine
end

