-- ==== Sys2Proof/Laws/Keeps/SpdmCmds.lean ====
section
/-! SUPPORT. The operations of Machine/SpdmCmds.lean keep what every operation keeps. -/

namespace Sys2Proof.Machine

open Sys2Proof

set_option linter.tactic.unusedName false

variable {orig res : State}

theorem sendDoe_keeps (type : Nat) (bs : List Byte) (s : State) (kept : Keeps orig s) :
    Keeps orig (sendDoe type bs s) := by
  unfold sendDoe
  repeat' (first | with_reducible assumption | with_reducible apply emit_keeps)

theorem spdmError_keeps (code : Nat) (s : State) (kept : Keeps orig s) :
    Keeps orig (spdmError code s) := by
  unfold spdmError
  repeat' (first | with_reducible assumption | with_reducible apply sendDoe_keeps)

theorem modSpdm_keeps (f : Spdm → Spdm) (s : State) (kept : Keeps orig s) :
    Keeps orig (modSpdm f s) := by
  unfold modSpdm
  repeat' (first | with_reducible assumption | with_reducible apply modSec_keeps)

theorem spdmServe_keeps (code phase : Nat) (bs : List Byte) (k : State → State) (s : State)
    (hk : ∀ t, Keeps orig t → Keeps orig (k t)) (kept : Keeps orig s) : Keeps orig (spdmServe code phase bs k s) := by
  have h := hk _ kept
  unfold spdmServe
  repeat' (first
    | with_reducible assumption | with_reducible apply keeps_ite | with_reducible apply spdmError_keeps | with_reducible intro _)

theorem execGetVersion_keeps (bytes : List Byte) (s : State) (kept : Keeps orig s) :
    KeepsOut orig (execGetVersion bytes s) := by
  unfold execGetVersion
  repeat' (first
    | with_reducible intro _ | with_reducible assumption | with_reducible apply keeps_ite
    | with_reducible apply keepsOut_next | with_reducible apply modSpdm_keeps | with_reducible apply spdmError_keeps
    | with_reducible apply sendDoe_keeps)

theorem execGetCapabilities_keeps (bytes : List Byte) (s : State) (kept : Keeps orig s) :
    KeepsOut orig (execGetCapabilities bytes s) := by
  unfold execGetCapabilities
  repeat' (first
    | with_reducible intro _ | with_reducible assumption | with_reducible apply keeps_ite
    | with_reducible apply keepsOut_next | with_reducible apply spdmServe_keeps | with_reducible apply modSpdm_keeps
    | with_reducible apply spdmError_keeps | with_reducible apply sendDoe_keeps)

theorem execNegotiateAlgorithms_keeps (bytes : List Byte) (s : State) (kept : Keeps orig s) :
    KeepsOut orig (execNegotiateAlgorithms bytes s) := by
  unfold execNegotiateAlgorithms
  repeat' (first
    | with_reducible intro _ | with_reducible assumption | with_reducible apply keeps_ite
    | with_reducible apply keepsOut_next | with_reducible apply spdmServe_keeps | with_reducible apply modSpdm_keeps
    | with_reducible apply spdmError_keeps | with_reducible apply sendDoe_keeps)

theorem sendCert_keeps (req m : List Byte) (s : State) (kept : Keeps orig s) :
    Keeps orig (sendCert req m s) := by
  unfold sendCert
  repeat' (first
    | with_reducible assumption | with_reducible apply modSpdm_keeps | with_reducible apply sendDoe_keeps)

theorem execGetDigests_keeps (bytes : List Byte) (s : State) (kept : Keeps orig s) :
    KeepsOut orig (execGetDigests bytes s) := by
  unfold execGetDigests
  repeat' (first
    | with_reducible assumption | with_reducible apply keepsOut_next | with_reducible apply sendCert_keeps
    | with_reducible apply spdmServe_keeps | split)

theorem execGetCertificate_keeps (bytes : List Byte) (s : State) (kept : Keeps orig s) :
    KeepsOut orig (execGetCertificate bytes s) := by
  unfold execGetCertificate
  repeat' (first
    | with_reducible intro _ | with_reducible assumption | with_reducible apply keeps_ite
    | with_reducible apply keepsOut_next | with_reducible apply sendCert_keeps | with_reducible apply spdmServe_keeps
    | with_reducible apply spdmError_keeps | split)

theorem drawNonce_keeps (s : State) (kept : Keeps orig s) :
    Keeps orig (drawNonce s).2 := by
  unfold drawNonce
  repeat' (first
    | with_reducible intro _ | with_reducible assumption | with_reducible apply keeps_foldl_snd
    | with_reducible apply draw_keeps)

theorem signFails_keeps (miss : List Nat) (s : State) (kept : Keeps orig s) :
    Keeps orig (signFails miss s).2 := by
  unfold signFails
  repeat' (first
    | with_reducible intro _ | with_reducible assumption | with_reducible apply keeps_foldl
    | with_reducible apply coreMiss_keeps)

theorem execChallenge_keeps (bytes : List Byte) (miss : List Nat) (s : State) (kept : Keeps orig s) :
    KeepsOut orig (execChallenge bytes miss s) := by
  unfold execChallenge
  repeat' (first
    | (simp -zeta only [keeps_mk_iff]) | with_reducible intro _ | with_reducible assumption
    | with_reducible apply keepsOut_next | with_reducible apply signFails_keeps
    | with_reducible apply drawNonce_keeps | with_reducible apply spdmServe_keeps
    | with_reducible apply modSpdm_keeps | with_reducible apply spdmError_keeps | with_reducible apply sendDoe_keeps
    | split)

theorem execGetMeasurements_keeps (bytes : List Byte) (miss : List Nat) (s : State) (kept : Keeps orig s) :
    KeepsOut orig (execGetMeasurements bytes miss s) := by
  unfold execGetMeasurements
  repeat' (first
    | with_reducible intro _ | with_reducible assumption | with_reducible apply keeps_ite
    | with_reducible apply keepsOut_next | with_reducible apply signFails_keeps
    | with_reducible apply drawNonce_keeps | with_reducible apply spdmServe_keeps
    | with_reducible apply modSpdm_keeps | with_reducible apply spdmError_keeps | with_reducible apply sendDoe_keeps
    | split)

theorem execDoeAbort_keeps (s : State) (kept : Keeps orig s) :
    KeepsOut orig (execDoeAbort s) := by
  unfold execDoeAbort
  repeat' (first
    | with_reducible assumption | with_reducible apply keepsOut_next | with_reducible apply modSpdm_keeps)

theorem execDoeDiscovery_keeps (index : Nat) (s : State) (kept : Keeps orig s) :
    KeepsOut orig (execDoeDiscovery index s) := by
  unfold execDoeDiscovery
  repeat' (first
    | with_reducible assumption | with_reducible apply keepsOut_next | with_reducible apply sendDoe_keeps)

end Sys2Proof.Machine
end

