-- ==== Sys2Proof/Laws/Keeps/TileEvents.lean ====
section
/-! SUPPORT. The operations of Machine/TileEvents.lean keep what every operation keeps. -/

namespace Sys2Proof.Machine

open Sys2Proof

set_option linter.tactic.unusedName false

variable {orig res : State}

theorem endSlotJobs_keeps (part slot : Nat) (s : State) (kept : Keeps orig s) :
    Keeps orig (endSlotJobs part slot s) := by
  unfold endSlotJobs
  repeat' (first
    | with_reducible intro _ | with_reducible assumption | with_reducible apply keeps_foldl
    | with_reducible apply endJob_keeps)

theorem execLoadDone_keeps (part slot : Nat) (s : State) (kept : Keeps orig s) :
    KeepsOut orig (execLoadDone part slot s) := by
  unfold execLoadDone
  repeat' (first
    | with_reducible intro _ | with_reducible assumption | with_reducible apply keepsOut_next
    | with_reducible apply keeps_foldl | with_reducible apply endSlotJobs_keeps | with_reducible apply done_keeps
    | with_reducible apply resumeJbnd_keeps | with_reducible apply kickJobs_keeps
    | with_reducible apply modSlot_keeps | with_reducible apply finish_keeps | split)

theorem execArmedJobStart_keeps (job : Nat) (s : State) (kept : Keeps orig s) :
    KeepsOut orig (execArmedJobStart job s) := by
  unfold execArmedJobStart
  repeat' (first
    | with_reducible assumption | with_reducible apply keepsOut_next | with_reducible apply done_keeps
    | with_reducible apply launch_keeps | with_reducible apply setJob_keeps | split)

theorem execJobEnd_keeps (job : Nat) (s : State) (kept : Keeps orig s) :
    KeepsOut orig (execJobEnd job s) := by
  unfold execJobEnd
  repeat' (first
    | with_reducible assumption | with_reducible apply keepsOut_next | with_reducible apply done_keeps
    | with_reducible apply finishJob_keeps | split)

theorem execJobTimeLimit_keeps (job : Nat) (s : State) (kept : Keeps orig s) :
    KeepsOut orig (execJobTimeLimit job s) := by
  unfold execJobTimeLimit
  repeat' (first
    | with_reducible assumption | with_reducible apply keepsOut_next | with_reducible apply endJob_keeps | split)

theorem execQuantumExpiry_keeps (part : Nat) (s : State) (kept : Keeps orig s) :
    KeepsOut orig (execQuantumExpiry part s) := by
  unfold execQuantumExpiry
  repeat' (first
    | with_reducible assumption | with_reducible apply done_keeps | with_reducible apply quantumEnd_keeps)

theorem execGroupRestoreDone_keeps (part : Nat) (s : State) (kept : Keeps orig s) :
    KeepsOut orig (execGroupRestoreDone part s) := by
  unfold execGroupRestoreDone
  repeat' (first
    | with_reducible assumption | with_reducible apply keepsOut_next | with_reducible apply done_keeps
    | with_reducible apply restoreGroup_keeps | with_reducible apply releaseAreas_keeps | split)

theorem execDmaStreamEnd_keeps (tile fifo : Nat) (s : State) (kept : Keeps orig s) :
    KeepsOut orig (execDmaStreamEnd tile fifo s) := by
  unfold execDmaStreamEnd
  repeat' (first
    | with_reducible assumption | with_reducible apply keepsOut_next | with_reducible apply modBind_keeps | split)

theorem execMSequenceEnd_keeps (tile : Nat) (ecc : List EccHit) (s : State) (kept : Keeps orig s) :
    KeepsOut orig (execMSequenceEnd tile ecc s) := by
  unfold execMSequenceEnd
  repeat' (first
    | with_reducible assumption | with_reducible apply keepsOut_next | with_reducible apply done_keeps
    | with_reducible apply mRun_keeps | with_reducible apply modTile_keeps | split)

theorem execTileDmaComplete_keeps (tile slot : Nat) (s : State) (kept : Keeps orig s) :
    KeepsOut orig (execTileDmaComplete tile slot s) := by
  unfold execTileDmaComplete
  repeat' (first
    | with_reducible assumption | with_reducible apply keepsOut_next | with_reducible apply done_keeps
    | with_reducible apply startDma_keeps | with_reducible apply tallyAdd_keeps | with_reducible apply modTile_keeps
    | split)

end Sys2Proof.Machine
end

