-- ==== Sys2Proof/Laws/Keeps/Dispatch.lean ====
section
/-! SUPPORT. The operations of Machine/Dispatch.lean keep what every operation keeps. -/

namespace Sys2Proof.Machine

open Sys2Proof

set_option linter.tactic.unusedName false

variable {orig res : State}

/-- Every command but the two that burn fuses. -/
theorem exec_keeps (c : Instr) (hs : ∀ k v, c ≠ .svnCommit k v) (hr : ∀ k n, c ≠ .keyRevoke k n) (s : State) (kept : Keeps orig s) :
    KeepsOut orig (exec c s) :=
  match c, hs, hr with
  | .registerWrite w, _, _ => execRegisterWrite_keeps w s kept
  | .unimplementedRead func bar offset size, _, _ => execUnimplementedRead_keeps func bar offset size s kept
  | .badSizeRead func bar offset size, _, _ => execBadSizeRead_keeps func bar offset size s kept
  | .snap w, _, _ => execSnap_keeps w s kept
  | .errstatClear w, _, _ => execErrstatClear_keeps w s kept
  | .mailboxGo w, _, _ => execMailboxGo_keeps w s kept
  | .mailboxDone mb, _, _ => execMailboxDone_keeps mb s kept
  | .loadImage c slot regions, _, _ => execLoadImage_keeps c slot regions s kept
  | .unloadImage c slot, _, _ => execUnloadImage_keeps c slot s kept
  | .reloadRegion c slot regions, _, _ => execReloadRegion_keeps c slot regions s kept
  | .bindStream c, _, _ => execBindStream_keeps c s kept
  | .unbindStream c slot tile fifo, _, _ => execUnbindStream_keeps c slot tile fifo s kept
  | .startJob c req, _, _ => execStartJob_keeps c req s kept
  | .cancelJob c job, _, _ => execCancelJob_keeps c job s kept
  | .readBenches c cursor, _, _ => execReadBenches_keeps c cursor s kept
  | .readBindings c cursor, _, _ => execReadBindings_keeps c cursor s kept
  | .readJobs c cursor, _, _ => execReadJobs_keeps c cursor s kept
  | .readGroups c cursor, _, _ => execReadGroups_keeps c cursor s kept
  | .setQuantum c us, _, _ => execSetQuantum_keeps c us s kept
  | .pinGroup c, _, _ => execPinGroup_keeps c s kept
  | .unpinGroup c, _, _ => execUnpinGroup_keeps c s kept
  | .setPortWait c n, _, _ => execSetPortWait_keeps c n s kept
  | .loadDone part slot, _, _ => execLoadDone_keeps part slot s kept
  | .armedJobStart job, _, _ => execArmedJobStart_keeps job s kept
  | .jobEnd job, _, _ => execJobEnd_keeps job s kept
  | .jobTimeLimit job, _, _ => execJobTimeLimit_keeps job s kept
  | .quantumExpiry part, _, _ => execQuantumExpiry_keeps part s kept
  | .groupRestoreDone part, _, _ => execGroupRestoreDone_keeps part s kept
  | .dmaStreamEnd tile fifo, _, _ => execDmaStreamEnd_keeps tile fifo s kept
  | .bundleIssue core ecc, _, _ => execBundleIssue_keeps core ecc s kept
  | .bundleResume core ecc, _, _ => execBundleResume_keeps core ecc s kept
  | .mSequenceEnd tile ecc, _, _ => execMSequenceEnd_keeps tile ecc s kept
  | .tileDmaComplete tile slot, _, _ => execTileDmaComplete_keeps tile slot s kept
  | .readMemory c cursor, _, _ => execReadMemory_keeps c cursor s kept
  | .readMemErrors c cursor, _, _ => execReadMemErrors_keeps c cursor s kept
  | .migrateStart c src dst rate, _, _ => execMigrateStart_keeps c src dst rate s kept
  | .migrateRelease c id, _, _ => execMigrateRelease_keeps c id s kept
  | .migrateAbort c id, _, _ => execMigrateAbort_keeps c id s kept
  | .readMigrations c cursor, _, _ => execReadMigrations_keeps c cursor s kept
  | .setAllotment c ranges, _, _ => execSetAllotment_keeps c ranges s kept
  | .cxlAdd c dev, _, _ => execCxlAdd_keeps c dev s kept
  | .cxlRemove c dev, _, _ => execCxlRemove_keeps c dev s kept
  | .quarantineClear c lines, _, _ => execQuarantineClear_keeps c lines s kept
  | .retrainChannel c ch, _, _ => execRetrainChannel_keeps c ch s kept
  | .setScrub c sramS gddrS, _, _ => execSetScrub_keeps c sramS gddrS s kept
  | .migrationCopyDone id bad, _, _ => execMigrationCopyDone_keeps id bad s kept
  | .scrubRead loc found overwritten, _, _ => execScrubRead_keeps loc found overwritten s kept
  | .edcFail ch addr fails who, _, _ => execEdcFail_keeps ch addr fails who s kept
  | .tempDriftRetrain ch temp, _, _ => execTempDriftRetrain_keeps ch temp s kept
  | .retrainDone ch ok replayOk temp holdNs, _, _ => execRetrainDone_keeps ch ok replayOk temp holdNs s kept
  | .cxlEventPoll dev events, _, _ => execCxlEventPoll_keeps dev events s kept
  | .cxlDeviceLost dev, _, _ => execCxlDeviceLost_keeps dev s kept
  | .cxlRemoveDrainEnd dev, _, _ => execCxlRemoveDrainEnd_keeps dev s kept
  | .setTranslation c p, _, _ => execSetTranslation_keeps c p s kept
  | .readTranslation c cursor, _, _ => execReadTranslation_keeps c cursor s kept
  | .invalidate c scope, _, _ => execInvalidate_keeps c scope s kept
  | .readFaults c cursor, _, _ => execReadFaults_keeps c cursor s kept
  | .dmaTransferUnit x ecc, _, _ => execDmaTransferUnit_keeps x ecc s kept
  | .walkComplete w how stores, _, _ => execWalkComplete_keeps w how stores s kept
  | .trFqhead w, _, _ => execTrFqhead_keeps w s kept
  | .retry w, _, _ => execRetry_keeps w s kept
  | .fail w, _, _ => execFail_keeps w s kept
  | .faultTimeout x, _, _ => execFaultTimeout_keeps x s kept
  | .readLinks c cursor, _, _ => execReadLinks_keeps c cursor s kept
  | .readGangs c cursor, _, _ => execReadGangs_keeps c cursor s kept
  | .readRollcall c cursor, _, _ => execReadRollcall_keeps c cursor s kept
  | .readRoutes c cursor, _, _ => execReadRoutes_keeps c cursor s kept
  | .setGang c gang kind members spares, _, _ => execSetGang_keeps c gang kind members spares s kept
  | .grantGang c gang, _, _ => execGrantGang_keeps c gang s kept
  | .gangWithdraw c gang, _, _ => execGangWithdraw_keeps c gang s kept
  | .setVisTimeout c gang us, _, _ => execSetVisTimeout_keeps c gang us s kept
  | .rollcallRun c, _, _ => execRollcallRun_keeps c s kept
  | .setRollcall c ns, _, _ => execSetRollcall_keeps c ns s kept
  | .setRedundancy c level, _, _ => execSetRedundancy_keeps c level s kept
  | .recalLink c link force, _, _ => execRecalLink_keeps c link force s kept
  | .setRoute c die entries, _, _ => execSetRoute_keeps c die entries s kept
  | .setLinkThresh c crc hours, _, _ => execSetLinkThresh_keeps c crc hours s kept
  | .signalDetect link, _, _ => execSignalDetect_keeps link s kept
  | .hello h m, _, _ => execHello_keeps h m s kept
  | .helloResend link, _, _ => execHelloResend_keeps link s kept
  | .trainingTimeout link, _, _ => execTrainingTimeout_keeps link s kept
  | .jlDataFrame link fr, _, _ => execJlDataFrame_keeps link fr s kept
  | .jlNak h seq, _, _ => execJlNak_keeps h seq s kept
  | .nakResend link, _, _ => execNakResend_keeps link s kept
  | .replayTimer link, _, _ => execReplayTimer_keeps link s kept
  | .lossOfSignal link, _, _ => execLossOfSignal_keeps link s kept
  | .reform h m, _, _ => execReform_keeps h m s kept
  | .reformAck h restart, _, _ => execReformAck_keeps h restart s kept
  | .reformResend gang, _, _ => execReformResend_keeps gang s kept
  | .recalDone link ok, _, _ => execRecalDone_keeps link ok s kept
  | .failedLinkRetry link, _, _ => execFailedLinkRetry_keeps link s kept
  | .periodicRecal link, _, _ => execPeriodicRecal_keeps link s kept
  | .visAck gang, _, _ => execVisAck_keeps gang s kept
  | .readData gang, _, _ => execReadData_keeps gang s kept
  | .visTimeout gang tag, _, _ => execVisTimeout_keeps gang tag s kept
  | .fwd gang, _, _ => execFwd_keeps gang s kept
  | .tokenMsg gang, _, _ => execTokenMsg_keeps gang s kept
  | .holdMsg gang, _, _ => execHoldMsg_keeps gang s kept
  | .holdResend, _, _ => execHoldResend_keeps s kept
  | .returnMsg gang, _, _ => execReturnMsg_keeps gang s kept
  | .loopMsg gang, _, _ => execLoopMsg_keeps gang s kept
  | .rollcallAnswerTimeout gang, _, _ => execRollcallAnswerTimeout_keeps gang s kept
  | .resultMsg gang, _, _ => execResultMsg_keeps gang s kept
  | .createQp c, _, _ => execCreateQp_keeps c s kept
  | .modifyQp c qpn goal ctx, _, _ => execModifyQp_keeps c qpn goal ctx s kept
  | .destroyQp c qpn, _, _ => execDestroyQp_keeps c qpn s kept
  | .readQp c which, _, _ => execReadQp_keeps c which s kept
  | .createCq c base log vec count time, _, _ => execCreateCq_keeps c base log vec count time s kept
  | .destroyCq c cqn, _, _ => execDestroyCq_keeps c cqn s kept
  | .readCq c cursor, _, _ => execReadCq_keeps c cursor s kept
  | .issuePass c p, _, _ => execIssuePass_keeps c p s kept
  | .revokePass c key, _, _ => execRevokePass_keeps c key s kept
  | .passDrained idx, _, _ => execPassDrained_keeps idx s kept
  | .readPasses c cursor, _, _ => execReadPasses_keeps c cursor s kept
  | .tallySet c handle value, _, _ => execTallySet_keeps c handle value s kept
  | .tallyRead c handle count cursor, _, _ => execTallyRead_keeps c handle count cursor s kept
  | .setQueueGrant c qps cqs passes tallies, _, _ => execSetQueueGrant_keeps c qps cqs passes tallies s kept
  | .sqDb w, _, _ => execSqDb_keeps w s kept
  | .rqDb w, _, _ => execRqDb_keeps w s kept
  | .cqDb w, _, _ => execCqDb_keeps w s kept
  | .cqArm w, _, _ => execCqArm_keeps w s kept
  | .doorbellRetry kind n, _, _ => execDoorbellRetry_keeps kind n s kept
  | .cqModerationTimer cqn, _, _ => execCqModerationTimer_keeps cqn s kept
  | .waitRelease qpn, _, _ => execWaitRelease_keeps qpn s kept
  | .qeTcvalue w, _, _ => execQeTcvalue_keeps w s kept
  | .qeTcadd w, _, _ => execQeTcadd_keeps w s kept
  | .ptSend k, _, _ => execPtSend_keeps k s kept
  | .ptWrite k, _, _ => execPtWrite_keeps k s kept
  | .ptReadReq k, _, _ => execPtReadReq_keeps k s kept
  | .ptReadResp k, _, _ => execPtReadResp_keeps k s kept
  | .ptFadd k, _, _ => execPtFadd_keeps k s kept
  | .ptCas k, _, _ => execPtCas_keeps k s kept
  | .ptAtomicResp k, _, _ => execPtAtomicResp_keeps k s kept
  | .ptAck k, _, _ => execPtAck_keeps k s kept
  | .placementDone qpn msn, _, _ => execPlacementDone_keeps qpn msn s kept
  | .ackTimer qpn, _, _ => execAckTimer_keeps qpn s kept
  | .rtoExpiry qpn psn, _, _ => execRtoExpiry_keeps qpn psn s kept
  | .rnrWaitExpiry qpn, _, _ => execRnrWaitExpiry_keeps qpn s kept
  | .pathPenaltyEnd qpn path, _, _ => execPathPenaltyEnd_keeps qpn path s kept
  | .rocePacket k, _, _ => execRocePacket_keeps k s kept
  | .fencePeer c addr, _, _ => execFencePeer_keeps c addr s kept
  | .unfencePeer c addr, _, _ => execUnfencePeer_keeps c addr s kept
  | .readFences c cursor, _, _ => execReadFences_keeps c cursor s kept
  | .readPaths c cursor, _, _ => execReadPaths_keeps c cursor s kept
  | .readCc c cursor, _, _ => execReadCc_keeps c cursor s kept
  | .setCc c p, _, _ => execSetCc_keeps c p s kept
  | .setPtPort c port, _, _ => execSetPtPort_keeps c port s kept
  | .ptPortGraceEnd, _, _ => execPtPortGraceEnd_keeps s kept
  | .createGroup c, _, _ => execCreateGroup_keeps c s kept
  | .destroyGroup c handle, _, _ => execDestroyGroup_keeps c handle s kept
  | .setGroupMode c handle fmt effSeq, _, _ => execSetGroupMode_keeps c handle fmt effSeq s kept
  | .readCollGroups c cursor, _, _ => execReadCollGroups_keeps c cursor s kept
  | .readCollectives c cursor, _, _ => execReadCollectives_keeps c cursor s kept
  | .setAccumShare c mib, _, _ => execSetAccumShare_keeps c mib s kept
  | .collAdmit id, _, _ => execCollAdmit_keeps id s kept
  | .collData k, _, _ => execCollData_keeps k s kept
  | .collCredit k, _, _ => execCollCredit_keeps k s kept
  | .collAbort k, _, _ => execCollAbort_keeps k s kept
  | .collPeerTimeout id, _, _ => execCollPeerTimeout_keeps id s kept
  | .chunkFinished id chunk, _, _ => execChunkFinished_keeps id chunk s kept
  | .collComplete id, _, _ => execCollComplete_keeps id s kept
  | .collEnd id, _, _ => execCollEnd_keeps id s kept
  | .readPorts c cursor, _, _ => execReadPorts_keeps c cursor s kept
  | .setPort c port p, _, _ => execSetPort_keeps c port p s kept
  | .writeRules c edits conn udf0 udf1 empty, _, _ => execWriteRules_keeps c edits conn udf0 udf1 empty s kept
  | .commitRules c, _, _ => execCommitRules_keeps c s kept
  | .discardStaged c, _, _ => execDiscardStaged_keeps c s kept
  | .readRules c cursor, _, _ => execReadRules_keeps c cursor s kept
  | .setTxq c q p, _, _ => execSetTxq_keeps c q p s kept
  | .setNode c kind n p, _, _ => execSetNode_keeps c kind n p s kept
  | .setTxGrant c group classLo classN qLo qN, _, _ => execSetTxGrant_keeps c group classLo classN qLo qN s kept
  | .readSched c cursor, _, _ => execReadSched_keeps c cursor s kept
  | .setMeter c die n p, _, _ => execSetMeter_keeps c die n p s kept
  | .readMeters c cursor, _, _ => execReadMeters_keeps c cursor s kept
  | .setTimetable c port t, _, _ => execSetTimetable_keeps c port t s kept
  | .readTimetable c cursor, _, _ => execReadTimetable_keeps c cursor s kept
  | .setGateClock c incr step, _, _ => execSetGateClock_keeps c incr step s kept
  | .readGateClock c cursor, _, _ => execReadGateClock_keeps c cursor s kept
  | .setHistogram c lo n k on, _, _ => execSetHistogram_keeps c lo n k on s kept
  | .readHistogram c cursor, _, _ => execReadHistogram_keeps c cursor s kept
  | .setReportCard c p, _, _ => execSetReportCard_keeps c p s kept
  | .takeReportCard c, _, _ => execTakeReportCard_keeps c s kept
  | .readReportCard c cursor, _, _ => execReadReportCard_keeps c cursor s kept
  | .setPunt c p unread, _, _ => execSetPunt_keeps c p unread s kept
  | .setRefill c quarters, _, _ => execSetRefill_keeps c quarters s kept
  | .ppInject w, _, _ => execPpInject_keeps w s kept
  | .ethFrameRx node bytes found, _, _ => execEthFrameRx_keeps node bytes found s kept
  | .fragEntryExpiry die k, _, _ => execFragEntryExpiry_keeps die k s kept
  | .refill, _, _ => execRefill_keeps s kept
  | .txFrameSelect node found, _, _ => execTxFrameSelect_keeps node found s kept
  | .gateChange port, _, _ => execGateChange_keeps port s kept
  | .reportCardPeriod func, _, _ => execReportCardPeriod_keeps func s kept
  | .readStorage c cursor, _, _ => execReadStorage_keeps c cursor s kept
  | .readStorageErrlog c cursor, _, _ => execReadStorageErrlog_keeps c cursor s kept
  | .storageConnect c p mqes, _, _ => execStorageConnect_keeps c p mqes s kept
  | .storageDisconnect c conn, _, _ => execStorageDisconnect_keeps c conn s kept
  | .nsCreate c conn nsid nonatomic target, _, _ => execNsCreate_keeps c conn nsid nonatomic target s kept
  | .nsDestroy c handle, _, _ => execNsDestroy_keeps c handle s kept
  | .nsAttach c handle func, _, _ => execNsAttach_keeps c handle func s kept
  | .nsDetach c handle func, _, _ => execNsDetach_keeps c handle func s kept
  | .nsSetCache c handle base size, _, _ => execNsSetCache_keeps c handle base size s kept
  | .storageRestart c func errSeq flush, _, _ => execStorageRestart_keeps c func errSeq flush s kept
  | .setStoragePower c func idleUs deepest, _, _ => execSetStoragePower_keeps c func idleUs deepest s kept
  | .setClassLimit c cls, _, _ => execSetClassLimit_keeps c cls s kept
  | .setStorageArb c wh wm wl, _, _ => execSetStorageArb_keeps c wh wm wl s kept
  | .setStorageMode c serial, _, _ => execSetStorageMode_keeps c serial s kept
  | .taskGo w, _, _ => execTaskGo_keeps w s kept
  | .storagePick conn, _, _ => execStoragePick_keeps conn s kept
  | .targetResponse k data, _, _ => execTargetResponse_keeps k data s kept
  | .keepAlive conn ok, _, _ => execKeepAlive_keeps conn ok s kept
  | .reconnectAttempt conn ok peers, _, _ => execReconnectAttempt_keeps conn ok peers s kept
  | .spsIdle func, _, _ => execSpsIdle_keeps func s kept
  | .spsExitDone func late, _, _ => execSpsExitDone_keeps func late s kept
  | .sbspCmd bytes, _, _ => execSbspCmd_keeps bytes s kept
  | .xferRdy bytes, _, _ => execXferRdy_keeps bytes s kept
  | .sbspData bytes, _, _ => execSbspData_keeps bytes s kept
  | .sbspNak bytes, _, _ => execSbspNak_keeps bytes s kept
  | .sbspWaitTimeout, _, _ => execSbspWaitTimeout_keeps s kept
  | .ckptSetup c runId half0 half1 halfSize, _, _ => execCkptSetup_keeps c runId half0 half1 halfSize s kept
  | .ckptTeardown c runId, _, _ => execCkptTeardown_keeps c runId s kept
  | .ckptSave c addr, _, _ => execCkptSave_keeps c addr s kept
  | .ckptRestore c addr, _, _ => execCkptRestore_keeps c addr s kept
  | .ckptRebuild c p, _, _ => execCkptRebuild_keeps c p s kept
  | .ckptCancel c job, _, _ => execCkptCancel_keeps c job s kept
  | .ckptRead c cursor, _, _ => execCkptRead_keeps c cursor s kept
  | .setStaging c base size, _, _ => execSetStaging_keeps c base size s kept
  | .ckptSetTrust c digests, _, _ => execCkptSetTrust_keeps c digests s kept
  | .ckptSetRate c gb, _, _ => execCkptSetRate_keeps c gb s kept
  | .ckptArmedStart job, _, _ => execCkptArmedStart_keeps job s kept
  | .captureDone job, _, _ => execCaptureDone_keeps job s kept
  | .sealDone job, _, _ => execSealDone_keeps job s kept
  | .drainDone job, _, _ => execDrainDone_keeps job s kept
  | .parityMsg k, _, _ => execParityMsg_keeps k s kept
  | .mirrorMsg k, _, _ => execMirrorMsg_keeps k s kept
  | .parityAck k, _, _ => execParityAck_keeps k s kept
  | .shardRecord k miss, _, _ => execShardRecord_keeps k miss s kept
  | .manifestCommit job, _, _ => execManifestCommit_keeps job s kept
  | .rebuildReq k, _, _ => execRebuildReq_keeps k s kept
  | .rebuildData k, _, _ => execRebuildData_keeps k s kept
  | .refuseMsg k, _, _ => execRefuseMsg_keeps k s kept
  | .ckptJobTimeout job, _, _ => execCkptJobTimeout_keeps job s kept
  | .ckptRestoreDone job, _, _ => execCkptRestoreDone_keeps job s kept
  | .readSecurity c cursor, _, _ => execReadSecurity_keeps c cursor s kept
  | .readIdentity c cursor, _, _ => execReadIdentity_keeps c cursor s kept
  | .keyLoad c, _, _ => execKeyLoad_keeps c s kept
  | .keyErase c slot, _, _ => execKeyErase_keeps c slot s kept
  | .readKeys c cursor, _, _ => execReadKeys_keeps c cursor s kept
  | .setCipherRing c base log vec, _, _ => execSetCipherRing_keeps c base log vec s kept
  | .readCipherRing c cursor, _, _ => execReadCipherRing_keeps c cursor s kept
  | .setKeyPolicy c limit clear, _, _ => execSetKeyPolicy_keeps c limit clear s kept
  | .svnCommit c v, hs, _ => absurd rfl (hs c v)
  | .keyRevoke c slot, _, hr => absurd rfl (hr c slot)
  | .cipherCoreEnable c core, _, _ => execCipherCoreEnable_keeps c core s kept
  | .ceRingdb w, _, _ => execCeRingdb_keeps w s kept
  | .descriptorDone part k miss, _, _ => execDescriptorDone_keeps part k miss s kept
  | .getVersion bytes, _, _ => execGetVersion_keeps bytes s kept
  | .getCapabilities bytes, _, _ => execGetCapabilities_keeps bytes s kept
  | .negotiateAlgorithms bytes, _, _ => execNegotiateAlgorithms_keeps bytes s kept
  | .getDigests bytes, _, _ => execGetDigests_keeps bytes s kept
  | .getCertificate bytes, _, _ => execGetCertificate_keeps bytes s kept
  | .challenge bytes miss, _, _ => execChallenge_keeps bytes miss s kept
  | .getMeasurements bytes miss, _, _ => execGetMeasurements_keeps bytes miss s kept
  | .doeAbort, _, _ => execDoeAbort_keeps s kept
  | .partCreate c, _, _ => execPartCreate_keeps c s kept
  | .partDestroy c, _, _ => execPartDestroy_keeps c s kept
  | .partDestroyDone part, _, _ => execPartDestroyDone_keeps part s kept
  | .partSetExpert c grant, _, _ => execPartSetExpert_keeps c grant s kept
  | .partSetSlots c slots, _, _ => execPartSetSlots_keeps c slots s kept
  | .readPartitions c cursor, _, _ => execReadPartitions_keeps c cursor s kept
  | .readFunctions c cursor, _, _ => execReadFunctions_keeps c cursor s kept
  | .funcAssign c func, _, _ => execFuncAssign_keeps c func s kept
  | .funcEnable c func, _, _ => execFuncEnable_keeps c func s kept
  | .funcDisable c func, _, _ => execFuncDisable_keeps c func s kept
  | .flr func, _, _ => execFlr_keeps func s kept
  | .vfEnableClear, _, _ => execVfEnableClear_keeps s kept
  | .hotReset down, _, _ => execHotReset_keeps down s kept
  | .quiesceEnd func, _, _ => execQuiesceEnd_keeps func s kept
  | .quiesceTimeout func, _, _ => execQuiesceTimeout_keeps func s kept
  | .hostReadCompletion tag how bytes, _, _ => execHostReadCompletion_keeps tag how bytes s kept
  | .completionTimeout tag, _, _ => execCompletionTimeout_keeps tag s kept
  | .zeroLengthRead func, _, _ => execZeroLengthRead_keeps func s kept
  | .heldAccessResume func, _, _ => execHeldAccessResume_keeps func s kept
  | .msixUnmask func vec, _, _ => execMsixUnmask_keeps func vec s kept
  | .readDevice c cursor, _, _ => execReadDevice_keeps c cursor s kept
  | .readModes c cursor, _, _ => execReadModes_keeps c cursor s kept
  | .readEvents c frm sev lo hi, _, _ => execReadEvents_keeps c frm sev lo hi s kept
  | .readEventLimits c cursor, _, _ => execReadEventLimits_keeps c cursor s kept
  | .readFlashLog c seq, _, _ => execReadFlashLog_keeps c seq s kept
  | .evtFlush c, _, _ => execEvtFlush_keeps c s kept
  | .evtSetLimit c code rate burst, _, _ => execEvtSetLimit_keeps c code rate burst s kept
  | .readFirmware c cursor, _, _ => execReadFirmware_keeps c cursor s kept
  | .readCrashdump c p cursor, _, _ => execReadCrashdump_keeps c p cursor s kept
  | .fwStage c addr len, _, _ => execFwStage_keeps c addr len s kept
  | .fwFlash c img, _, _ => execFwFlash_keeps c img s kept
  | .fwActivate c targets, _, _ => execFwActivate_keeps c targets s kept
  | .fwCancel c, _, _ => execFwCancel_keeps c s kept
  | .fwDumpClear c p, _, _ => execFwDumpClear_keeps c p s kept
  | .fwRecoveryLoad c addr len, _, _ => execFwRecoveryLoad_keeps c addr len s kept
  | .fwSwitch p, _, _ => execFwSwitch_keeps p s kept
  | .fwSwitchDone p, _, _ => execFwSwitchDone_keeps p s kept
  | .rollbackWindowEnd p, _, _ => execRollbackWindowEnd_keeps p s kept
  | .processorWatchdog p, _, _ => execProcessorWatchdog_keeps p s kept
  | .processorRestarted p, _, _ => execProcessorRestarted_keeps p s kept
  | .epochSwitch, _, _ => execEpochSwitch_keeps s kept
  | .modeAckTimeout units, _, _ => execModeAckTimeout_keeps units s kept
  | .stagedDiscard unit, _, _ => execStagedDiscard_keeps unit s kept
  | .faultFlushEnd, _, _ => execFaultFlushEnd_keeps s kept
  | .pwrfailAssert ns, _, _ => execPwrfailAssert_keeps ns s kept
  | .pwrfailDeassert, _, _ => execPwrfailDeassert_keeps s kept
  | .powerFailFlushEnd, _, _ => execPowerFailFlushEnd_keeps s kept
  | .deviceReset c, _, _ => execDeviceReset_keeps c s kept
  | .softResetFire, _, _ => execSoftResetFire_keeps s kept
  | .readReset c cursor, _, _ => execReadReset_keeps c cursor s kept
  | .blockReset c, _, _ => execBlockReset_keeps c s kept
  | .blockIdle kind index timedOut, _, _ => execBlockIdle_keeps kind index timedOut s kept
  | .powerOnReset, _, _ => execPowerOnReset_keeps s kept
  | .brownOut rail, _, _ => execBrownOut_keeps rail s kept
  | .perstN, _, _ => execPerstN_keeps s kept
  | .sysRstN, _, _ => execSysRstN_keeps s kept
  | .systemWatchdog, _, _ => execSystemWatchdog_keeps s kept
  | .debugReset level, _, _ => execDebugReset_keeps level s kept
  | .clockFailure why, _, _ => execClockFailure_keeps why s kept
  | .optionLoadDone crcOk, _, _ => execOptionLoadDone_keeps crcOk s kept
  | .rootPllLock, _, _ => execRootPllLock_keeps s kept
  | .resetRelease, _, _ => execResetRelease_keeps s kept
  | .bootImageRead, _, _ => execBootImageRead_keeps s kept
  | .gddr7TrainingDone ch ok temp, _, _ => execGddr7TrainingDone_keeps ch ok temp s kept
  | .endpointReady speed width flit, _, _ => execEndpointReady_keeps speed width flit s kept
  | .readPower c cursor, _, _ => execReadPower_keeps c cursor s kept
  | .setLatencyTol c us, _, _ => execSetLatencyTol_keeps c us s kept
  | .setPowerLimit c watts, _, _ => execSetPowerLimit_keeps c watts s kept
  | .setThermal c t, _, _ => execSetThermal_keeps c t s kept
  | .setPstateLimit c p, _, _ => execSetPstateLimit_keeps c p s kept
  | .controlPeriod, _, _ => execControlPeriod_keeps s kept
  | .wake entering, _, _ => execWake_keeps entering s kept
  | .powerSample mW tileMw, _, _ => execPowerSample_keeps mW tileMw s kept
  | .thermalSample temps steps, _, _ => execThermalSample_keeps temps steps s kept
  | .emergencyClear, _, _ => execEmergencyClear_keeps s kept
  | .wearCharge, _, _ => execWearCharge_keeps s kept
  | .wearRecordWrite, _, _ => execWearRecordWrite_keeps s kept
  | .i3cRead addr, _, _ => execI3cRead_keeps addr s kept
  | .idleFrame link fr, _, _ => execIdleFrame_keeps link fr s kept
  | .configurationWrite func ch, _, _ => execConfigurationWrite_keeps func ch s kept
  | .doeDiscovery index, _, _ => execDoeDiscovery_keeps index s kept
  | .cxlMediaReady dev capacity, _, _ => execCxlMediaReady_keeps dev capacity s kept
  | .portLinkState node up, _, _ => execPortLinkState_keeps node up s kept

/-- Every command. -/
theorem exec_burns (c : Instr) (s : State) : BurnsOut s (exec c s) := by
  by_cases hs : ∃ k v, c = .svnCommit k v
  · obtain ⟨k, v, rfl⟩ := hs
    exact execSvnCommit_burns k v s
  by_cases hr : ∃ k n, c = .keyRevoke k n
  · obtain ⟨k, n, rfl⟩ := hr
    exact execKeyRevoke_burns k n s
  exact (exec_keeps c (fun k v e => hs ⟨k, v, e⟩) (fun k n e => hr ⟨k, n, e⟩) s (Keeps.refl s)).burns

end Sys2Proof.Machine
end

