-- ==== Sys2Proof/Laws/Keeps/Tick.lean ====
section
/-! SUPPORT. The operations of Machine/Tick.lean keep what every operation keeps. -/

namespace Sys2Proof.Machine

open Sys2Proof

set_option linter.tactic.unusedName false

variable {orig res : State}

theorem countPower_keeps (s : State) (kept : Keeps orig s) :
    Keeps orig (countPower s) := by
  unfold countPower
  repeat' (first
    | with_reducible intro _ | with_reducible assumption | with_reducible apply keeps_ite
    | with_reducible apply bump_keeps)

theorem tick_keeps (s : State) (kept : Keeps orig s) :
    Keeps orig (tick s) := by
  unfold tick
  repeat' (first
    | with_reducible assumption | with_reducible apply countPower_keeps | with_reducible apply copyAll_keeps
    | with_reducible refine keeps_chip ?_ (fuses_keep _))

end Sys2Proof.Machine
end

