-- ==== Sys2Proof/Laws/State.lean ====
section
/-! SUPPORT. What each update of the state does to each of its fields. -/

namespace Sys2Proof.Machine

open Sys2Proof

/-! ### emit -/
@[simp] theorem emit_chip (o : Out) (s : State) : (emit o s).chip = s.chip := rfl
@[simp] theorem emit_ep (o : Out) (s : State) : (emit o s).ep = s.ep := rfl
@[simp] theorem emit_regs (o : Out) (s : State) : (emit o s).regs = s.regs := rfl
@[simp] theorem emit_mb (o : Out) (s : State) : (emit o s).mb = s.mb := rfl
@[simp] theorem emit_fw (o : Out) (s : State) : (emit o s).fw = s.fw := rfl
@[simp] theorem emit_ev (o : Out) (s : State) : (emit o s).ev = s.ev := rfl
@[simp] theorem emit_parts (o : Out) (s : State) : (emit o s).parts = s.parts := rfl
@[simp] theorem emit_funcs (o : Out) (s : State) : (emit o s).funcs = s.funcs := rfl
@[simp] theorem emit_ti (o : Out) (s : State) : (emit o s).ti = s.ti := rfl
@[simp] theorem emit_mem (o : Out) (s : State) : (emit o s).mem = s.mem := rfl
@[simp] theorem emit_tiers (o : Out) (s : State) : (emit o s).tiers = s.tiers := rfl
@[simp] theorem emit_xl (o : Out) (s : State) : (emit o s).xl = s.xl := rfl
@[simp] theorem emit_jl (o : Out) (s : State) : (emit o s).jl = s.jl := rfl
@[simp] theorem emit_qe (o : Out) (s : State) : (emit o s).qe = s.qe := rfl
@[simp] theorem emit_pp (o : Out) (s : State) : (emit o s).pp = s.pp := rfl
@[simp] theorem emit_sec (o : Out) (s : State) : (emit o s).sec = s.sec := rfl
@[simp] theorem emit_pm (o : Out) (s : State) : (emit o s).pm = s.pm := rfl
@[simp] theorem emit_cu (o : Out) (s : State) : (emit o s).cu = s.cu := rfl
@[simp] theorem emit_sb (o : Out) (s : State) : (emit o s).sb = s.sb := rfl
@[simp] theorem emit_ck (o : Out) (s : State) : (emit o s).ck = s.ck := rfl
@[simp] theorem emit_out (o : Out) (s : State) : (emit o s).out = s.out ++ [o] := rfl
@[simp] theorem emit_draws (o : Out) (s : State) : (emit o s).draws = s.draws := rfl
@[simp] theorem emit_pending (o : Out) (s : State) : (emit o s).pending = s.pending := rfl

/-! ### bump -/
@[simp] theorem bump_chip (blk c n : Nat) (s : State) : (bump blk c n s).chip = s.chip := rfl
@[simp] theorem bump_ep (blk c n : Nat) (s : State) : (bump blk c n s).ep = s.ep := rfl
@[simp] theorem bump_regs (blk c n : Nat) (s : State) : (bump blk c n s).regs = { s.regs with counters := tset s.regs.counters (blk * 64 + c) (counter blk c s + BitVec.ofNat 64 n) } := rfl
@[simp] theorem bump_mb (blk c n : Nat) (s : State) : (bump blk c n s).mb = s.mb := rfl
@[simp] theorem bump_fw (blk c n : Nat) (s : State) : (bump blk c n s).fw = s.fw := rfl
@[simp] theorem bump_ev (blk c n : Nat) (s : State) : (bump blk c n s).ev = s.ev := rfl
@[simp] theorem bump_parts (blk c n : Nat) (s : State) : (bump blk c n s).parts = s.parts := rfl
@[simp] theorem bump_funcs (blk c n : Nat) (s : State) : (bump blk c n s).funcs = s.funcs := rfl
@[simp] theorem bump_ti (blk c n : Nat) (s : State) : (bump blk c n s).ti = s.ti := rfl
@[simp] theorem bump_mem (blk c n : Nat) (s : State) : (bump blk c n s).mem = s.mem := rfl
@[simp] theorem bump_tiers (blk c n : Nat) (s : State) : (bump blk c n s).tiers = s.tiers := rfl
@[simp] theorem bump_xl (blk c n : Nat) (s : State) : (bump blk c n s).xl = s.xl := rfl
@[simp] theorem bump_jl (blk c n : Nat) (s : State) : (bump blk c n s).jl = s.jl := rfl
@[simp] theorem bump_qe (blk c n : Nat) (s : State) : (bump blk c n s).qe = s.qe := rfl
@[simp] theorem bump_pp (blk c n : Nat) (s : State) : (bump blk c n s).pp = s.pp := rfl
@[simp] theorem bump_sec (blk c n : Nat) (s : State) : (bump blk c n s).sec = s.sec := rfl
@[simp] theorem bump_pm (blk c n : Nat) (s : State) : (bump blk c n s).pm = s.pm := rfl
@[simp] theorem bump_cu (blk c n : Nat) (s : State) : (bump blk c n s).cu = s.cu := rfl
@[simp] theorem bump_sb (blk c n : Nat) (s : State) : (bump blk c n s).sb = s.sb := rfl
@[simp] theorem bump_ck (blk c n : Nat) (s : State) : (bump blk c n s).ck = s.ck := rfl
@[simp] theorem bump_out (blk c n : Nat) (s : State) : (bump blk c n s).out = s.out := rfl
@[simp] theorem bump_draws (blk c n : Nat) (s : State) : (bump blk c n s).draws = s.draws := rfl
@[simp] theorem bump_pending (blk c n : Nat) (s : State) : (bump blk c n s).pending = s.pending := rfl

/-! ### modFunc -/
@[simp] theorem modFunc_chip (f : Nat) (g : Func → Func) (s : State) : (modFunc f g s).chip = s.chip := rfl
@[simp] theorem modFunc_ep (f : Nat) (g : Func → Func) (s : State) : (modFunc f g s).ep = s.ep := rfl
@[simp] theorem modFunc_regs (f : Nat) (g : Func → Func) (s : State) : (modFunc f g s).regs = s.regs := rfl
@[simp] theorem modFunc_mb (f : Nat) (g : Func → Func) (s : State) : (modFunc f g s).mb = s.mb := rfl
@[simp] theorem modFunc_fw (f : Nat) (g : Func → Func) (s : State) : (modFunc f g s).fw = s.fw := rfl
@[simp] theorem modFunc_ev (f : Nat) (g : Func → Func) (s : State) : (modFunc f g s).ev = s.ev := rfl
@[simp] theorem modFunc_parts (f : Nat) (g : Func → Func) (s : State) : (modFunc f g s).parts = s.parts := rfl
@[simp] theorem modFunc_funcs (f : Nat) (g : Func → Func) (s : State) : (modFunc f g s).funcs = tset s.funcs f (g (func? f s)) := rfl
@[simp] theorem modFunc_ti (f : Nat) (g : Func → Func) (s : State) : (modFunc f g s).ti = s.ti := rfl
@[simp] theorem modFunc_mem (f : Nat) (g : Func → Func) (s : State) : (modFunc f g s).mem = s.mem := rfl
@[simp] theorem modFunc_tiers (f : Nat) (g : Func → Func) (s : State) : (modFunc f g s).tiers = s.tiers := rfl
@[simp] theorem modFunc_xl (f : Nat) (g : Func → Func) (s : State) : (modFunc f g s).xl = s.xl := rfl
@[simp] theorem modFunc_jl (f : Nat) (g : Func → Func) (s : State) : (modFunc f g s).jl = s.jl := rfl
@[simp] theorem modFunc_qe (f : Nat) (g : Func → Func) (s : State) : (modFunc f g s).qe = s.qe := rfl
@[simp] theorem modFunc_pp (f : Nat) (g : Func → Func) (s : State) : (modFunc f g s).pp = s.pp := rfl
@[simp] theorem modFunc_sec (f : Nat) (g : Func → Func) (s : State) : (modFunc f g s).sec = s.sec := rfl
@[simp] theorem modFunc_pm (f : Nat) (g : Func → Func) (s : State) : (modFunc f g s).pm = s.pm := rfl
@[simp] theorem modFunc_cu (f : Nat) (g : Func → Func) (s : State) : (modFunc f g s).cu = s.cu := rfl
@[simp] theorem modFunc_sb (f : Nat) (g : Func → Func) (s : State) : (modFunc f g s).sb = s.sb := rfl
@[simp] theorem modFunc_ck (f : Nat) (g : Func → Func) (s : State) : (modFunc f g s).ck = s.ck := rfl
@[simp] theorem modFunc_out (f : Nat) (g : Func → Func) (s : State) : (modFunc f g s).out = s.out := rfl
@[simp] theorem modFunc_draws (f : Nat) (g : Func → Func) (s : State) : (modFunc f g s).draws = s.draws := rfl
@[simp] theorem modFunc_pending (f : Nat) (g : Func → Func) (s : State) : (modFunc f g s).pending = s.pending := rfl

/-! ### modPart -/
@[simp] theorem modPart_chip (p : Nat) (g : Part → Part) (s : State) : (modPart p g s).chip = s.chip := rfl
@[simp] theorem modPart_ep (p : Nat) (g : Part → Part) (s : State) : (modPart p g s).ep = s.ep := rfl
@[simp] theorem modPart_regs (p : Nat) (g : Part → Part) (s : State) : (modPart p g s).regs = s.regs := rfl
@[simp] theorem modPart_mb (p : Nat) (g : Part → Part) (s : State) : (modPart p g s).mb = s.mb := rfl
@[simp] theorem modPart_fw (p : Nat) (g : Part → Part) (s : State) : (modPart p g s).fw = s.fw := rfl
@[simp] theorem modPart_ev (p : Nat) (g : Part → Part) (s : State) : (modPart p g s).ev = s.ev := rfl
@[simp] theorem modPart_parts (p : Nat) (g : Part → Part) (s : State) : (modPart p g s).parts = tmod s.parts p g := rfl
@[simp] theorem modPart_funcs (p : Nat) (g : Part → Part) (s : State) : (modPart p g s).funcs = s.funcs := rfl
@[simp] theorem modPart_ti (p : Nat) (g : Part → Part) (s : State) : (modPart p g s).ti = s.ti := rfl
@[simp] theorem modPart_mem (p : Nat) (g : Part → Part) (s : State) : (modPart p g s).mem = s.mem := rfl
@[simp] theorem modPart_tiers (p : Nat) (g : Part → Part) (s : State) : (modPart p g s).tiers = s.tiers := rfl
@[simp] theorem modPart_xl (p : Nat) (g : Part → Part) (s : State) : (modPart p g s).xl = s.xl := rfl
@[simp] theorem modPart_jl (p : Nat) (g : Part → Part) (s : State) : (modPart p g s).jl = s.jl := rfl
@[simp] theorem modPart_qe (p : Nat) (g : Part → Part) (s : State) : (modPart p g s).qe = s.qe := rfl
@[simp] theorem modPart_pp (p : Nat) (g : Part → Part) (s : State) : (modPart p g s).pp = s.pp := rfl
@[simp] theorem modPart_sec (p : Nat) (g : Part → Part) (s : State) : (modPart p g s).sec = s.sec := rfl
@[simp] theorem modPart_pm (p : Nat) (g : Part → Part) (s : State) : (modPart p g s).pm = s.pm := rfl
@[simp] theorem modPart_cu (p : Nat) (g : Part → Part) (s : State) : (modPart p g s).cu = s.cu := rfl
@[simp] theorem modPart_sb (p : Nat) (g : Part → Part) (s : State) : (modPart p g s).sb = s.sb := rfl
@[simp] theorem modPart_ck (p : Nat) (g : Part → Part) (s : State) : (modPart p g s).ck = s.ck := rfl
@[simp] theorem modPart_out (p : Nat) (g : Part → Part) (s : State) : (modPart p g s).out = s.out := rfl
@[simp] theorem modPart_draws (p : Nat) (g : Part → Part) (s : State) : (modPart p g s).draws = s.draws := rfl
@[simp] theorem modPart_pending (p : Nat) (g : Part → Part) (s : State) : (modPart p g s).pending = s.pending := rfl

/-! ### modProc -/
@[simp] theorem modProc_chip (p : Nat) (g : Proc → Proc) (s : State) : (modProc p g s).chip = s.chip := rfl
@[simp] theorem modProc_ep (p : Nat) (g : Proc → Proc) (s : State) : (modProc p g s).ep = s.ep := rfl
@[simp] theorem modProc_regs (p : Nat) (g : Proc → Proc) (s : State) : (modProc p g s).regs = s.regs := rfl
@[simp] theorem modProc_mb (p : Nat) (g : Proc → Proc) (s : State) : (modProc p g s).mb = s.mb := rfl
@[simp] theorem modProc_fw (p : Nat) (g : Proc → Proc) (s : State) : (modProc p g s).fw = { s.fw with procs := tset s.fw.procs p (g (proc? p s)) } := rfl
@[simp] theorem modProc_ev (p : Nat) (g : Proc → Proc) (s : State) : (modProc p g s).ev = s.ev := rfl
@[simp] theorem modProc_parts (p : Nat) (g : Proc → Proc) (s : State) : (modProc p g s).parts = s.parts := rfl
@[simp] theorem modProc_funcs (p : Nat) (g : Proc → Proc) (s : State) : (modProc p g s).funcs = s.funcs := rfl
@[simp] theorem modProc_ti (p : Nat) (g : Proc → Proc) (s : State) : (modProc p g s).ti = s.ti := rfl
@[simp] theorem modProc_mem (p : Nat) (g : Proc → Proc) (s : State) : (modProc p g s).mem = s.mem := rfl
@[simp] theorem modProc_tiers (p : Nat) (g : Proc → Proc) (s : State) : (modProc p g s).tiers = s.tiers := rfl
@[simp] theorem modProc_xl (p : Nat) (g : Proc → Proc) (s : State) : (modProc p g s).xl = s.xl := rfl
@[simp] theorem modProc_jl (p : Nat) (g : Proc → Proc) (s : State) : (modProc p g s).jl = s.jl := rfl
@[simp] theorem modProc_qe (p : Nat) (g : Proc → Proc) (s : State) : (modProc p g s).qe = s.qe := rfl
@[simp] theorem modProc_pp (p : Nat) (g : Proc → Proc) (s : State) : (modProc p g s).pp = s.pp := rfl
@[simp] theorem modProc_sec (p : Nat) (g : Proc → Proc) (s : State) : (modProc p g s).sec = s.sec := rfl
@[simp] theorem modProc_pm (p : Nat) (g : Proc → Proc) (s : State) : (modProc p g s).pm = s.pm := rfl
@[simp] theorem modProc_cu (p : Nat) (g : Proc → Proc) (s : State) : (modProc p g s).cu = s.cu := rfl
@[simp] theorem modProc_sb (p : Nat) (g : Proc → Proc) (s : State) : (modProc p g s).sb = s.sb := rfl
@[simp] theorem modProc_ck (p : Nat) (g : Proc → Proc) (s : State) : (modProc p g s).ck = s.ck := rfl
@[simp] theorem modProc_out (p : Nat) (g : Proc → Proc) (s : State) : (modProc p g s).out = s.out := rfl
@[simp] theorem modProc_draws (p : Nat) (g : Proc → Proc) (s : State) : (modProc p g s).draws = s.draws := rfl
@[simp] theorem modProc_pending (p : Nat) (g : Proc → Proc) (s : State) : (modProc p g s).pending = s.pending := rfl

/-! ### modTile -/
@[simp] theorem modTile_chip (t : Nat) (g : Tile → Tile) (s : State) : (modTile t g s).chip = s.chip := rfl
@[simp] theorem modTile_ep (t : Nat) (g : Tile → Tile) (s : State) : (modTile t g s).ep = s.ep := rfl
@[simp] theorem modTile_regs (t : Nat) (g : Tile → Tile) (s : State) : (modTile t g s).regs = s.regs := rfl
@[simp] theorem modTile_mb (t : Nat) (g : Tile → Tile) (s : State) : (modTile t g s).mb = s.mb := rfl
@[simp] theorem modTile_fw (t : Nat) (g : Tile → Tile) (s : State) : (modTile t g s).fw = s.fw := rfl
@[simp] theorem modTile_ev (t : Nat) (g : Tile → Tile) (s : State) : (modTile t g s).ev = s.ev := rfl
@[simp] theorem modTile_parts (t : Nat) (g : Tile → Tile) (s : State) : (modTile t g s).parts = s.parts := rfl
@[simp] theorem modTile_funcs (t : Nat) (g : Tile → Tile) (s : State) : (modTile t g s).funcs = s.funcs := rfl
@[simp] theorem modTile_ti (t : Nat) (g : Tile → Tile) (s : State) : (modTile t g s).ti = { s.ti with tiles := tset s.ti.tiles t (g (tile? t s)) } := rfl
@[simp] theorem modTile_mem (t : Nat) (g : Tile → Tile) (s : State) : (modTile t g s).mem = s.mem := rfl
@[simp] theorem modTile_tiers (t : Nat) (g : Tile → Tile) (s : State) : (modTile t g s).tiers = s.tiers := rfl
@[simp] theorem modTile_xl (t : Nat) (g : Tile → Tile) (s : State) : (modTile t g s).xl = s.xl := rfl
@[simp] theorem modTile_jl (t : Nat) (g : Tile → Tile) (s : State) : (modTile t g s).jl = s.jl := rfl
@[simp] theorem modTile_qe (t : Nat) (g : Tile → Tile) (s : State) : (modTile t g s).qe = s.qe := rfl
@[simp] theorem modTile_pp (t : Nat) (g : Tile → Tile) (s : State) : (modTile t g s).pp = s.pp := rfl
@[simp] theorem modTile_sec (t : Nat) (g : Tile → Tile) (s : State) : (modTile t g s).sec = s.sec := rfl
@[simp] theorem modTile_pm (t : Nat) (g : Tile → Tile) (s : State) : (modTile t g s).pm = s.pm := rfl
@[simp] theorem modTile_cu (t : Nat) (g : Tile → Tile) (s : State) : (modTile t g s).cu = s.cu := rfl
@[simp] theorem modTile_sb (t : Nat) (g : Tile → Tile) (s : State) : (modTile t g s).sb = s.sb := rfl
@[simp] theorem modTile_ck (t : Nat) (g : Tile → Tile) (s : State) : (modTile t g s).ck = s.ck := rfl
@[simp] theorem modTile_out (t : Nat) (g : Tile → Tile) (s : State) : (modTile t g s).out = s.out := rfl
@[simp] theorem modTile_draws (t : Nat) (g : Tile → Tile) (s : State) : (modTile t g s).draws = s.draws := rfl
@[simp] theorem modTile_pending (t : Nat) (g : Tile → Tile) (s : State) : (modTile t g s).pending = s.pending := rfl

/-! ### setGroup -/
@[simp] theorem setGroup_chip (p : Nat) (g : Group) (s : State) : (setGroup p g s).chip = s.chip := rfl
@[simp] theorem setGroup_ep (p : Nat) (g : Group) (s : State) : (setGroup p g s).ep = s.ep := rfl
@[simp] theorem setGroup_regs (p : Nat) (g : Group) (s : State) : (setGroup p g s).regs = s.regs := rfl
@[simp] theorem setGroup_mb (p : Nat) (g : Group) (s : State) : (setGroup p g s).mb = s.mb := rfl
@[simp] theorem setGroup_fw (p : Nat) (g : Group) (s : State) : (setGroup p g s).fw = s.fw := rfl
@[simp] theorem setGroup_ev (p : Nat) (g : Group) (s : State) : (setGroup p g s).ev = s.ev := rfl
@[simp] theorem setGroup_parts (p : Nat) (g : Group) (s : State) : (setGroup p g s).parts = s.parts := rfl
@[simp] theorem setGroup_funcs (p : Nat) (g : Group) (s : State) : (setGroup p g s).funcs = s.funcs := rfl
@[simp] theorem setGroup_ti (p : Nat) (g : Group) (s : State) : (setGroup p g s).ti = { s.ti with groups := tset s.ti.groups p g } := rfl
@[simp] theorem setGroup_mem (p : Nat) (g : Group) (s : State) : (setGroup p g s).mem = s.mem := rfl
@[simp] theorem setGroup_tiers (p : Nat) (g : Group) (s : State) : (setGroup p g s).tiers = s.tiers := rfl
@[simp] theorem setGroup_xl (p : Nat) (g : Group) (s : State) : (setGroup p g s).xl = s.xl := rfl
@[simp] theorem setGroup_jl (p : Nat) (g : Group) (s : State) : (setGroup p g s).jl = s.jl := rfl
@[simp] theorem setGroup_qe (p : Nat) (g : Group) (s : State) : (setGroup p g s).qe = s.qe := rfl
@[simp] theorem setGroup_pp (p : Nat) (g : Group) (s : State) : (setGroup p g s).pp = s.pp := rfl
@[simp] theorem setGroup_sec (p : Nat) (g : Group) (s : State) : (setGroup p g s).sec = s.sec := rfl
@[simp] theorem setGroup_pm (p : Nat) (g : Group) (s : State) : (setGroup p g s).pm = s.pm := rfl
@[simp] theorem setGroup_cu (p : Nat) (g : Group) (s : State) : (setGroup p g s).cu = s.cu := rfl
@[simp] theorem setGroup_sb (p : Nat) (g : Group) (s : State) : (setGroup p g s).sb = s.sb := rfl
@[simp] theorem setGroup_ck (p : Nat) (g : Group) (s : State) : (setGroup p g s).ck = s.ck := rfl
@[simp] theorem setGroup_out (p : Nat) (g : Group) (s : State) : (setGroup p g s).out = s.out := rfl
@[simp] theorem setGroup_draws (p : Nat) (g : Group) (s : State) : (setGroup p g s).draws = s.draws := rfl
@[simp] theorem setGroup_pending (p : Nat) (g : Group) (s : State) : (setGroup p g s).pending = s.pending := rfl

/-! ### modChan -/
@[simp] theorem modChan_chip (c : Nat) (g : Chan → Chan) (s : State) : (modChan c g s).chip = s.chip := rfl
@[simp] theorem modChan_ep (c : Nat) (g : Chan → Chan) (s : State) : (modChan c g s).ep = s.ep := rfl
@[simp] theorem modChan_regs (c : Nat) (g : Chan → Chan) (s : State) : (modChan c g s).regs = s.regs := rfl
@[simp] theorem modChan_mb (c : Nat) (g : Chan → Chan) (s : State) : (modChan c g s).mb = s.mb := rfl
@[simp] theorem modChan_fw (c : Nat) (g : Chan → Chan) (s : State) : (modChan c g s).fw = s.fw := rfl
@[simp] theorem modChan_ev (c : Nat) (g : Chan → Chan) (s : State) : (modChan c g s).ev = s.ev := rfl
@[simp] theorem modChan_parts (c : Nat) (g : Chan → Chan) (s : State) : (modChan c g s).parts = s.parts := rfl
@[simp] theorem modChan_funcs (c : Nat) (g : Chan → Chan) (s : State) : (modChan c g s).funcs = s.funcs := rfl
@[simp] theorem modChan_ti (c : Nat) (g : Chan → Chan) (s : State) : (modChan c g s).ti = s.ti := rfl
@[simp] theorem modChan_mem (c : Nat) (g : Chan → Chan) (s : State) : (modChan c g s).mem = s.mem := rfl
@[simp] theorem modChan_tiers (c : Nat) (g : Chan → Chan) (s : State) : (modChan c g s).tiers = { s.tiers with chans := tset s.tiers.chans c (g (chan? c s)) } := rfl
@[simp] theorem modChan_xl (c : Nat) (g : Chan → Chan) (s : State) : (modChan c g s).xl = s.xl := rfl
@[simp] theorem modChan_jl (c : Nat) (g : Chan → Chan) (s : State) : (modChan c g s).jl = s.jl := rfl
@[simp] theorem modChan_qe (c : Nat) (g : Chan → Chan) (s : State) : (modChan c g s).qe = s.qe := rfl
@[simp] theorem modChan_pp (c : Nat) (g : Chan → Chan) (s : State) : (modChan c g s).pp = s.pp := rfl
@[simp] theorem modChan_sec (c : Nat) (g : Chan → Chan) (s : State) : (modChan c g s).sec = s.sec := rfl
@[simp] theorem modChan_pm (c : Nat) (g : Chan → Chan) (s : State) : (modChan c g s).pm = s.pm := rfl
@[simp] theorem modChan_cu (c : Nat) (g : Chan → Chan) (s : State) : (modChan c g s).cu = s.cu := rfl
@[simp] theorem modChan_sb (c : Nat) (g : Chan → Chan) (s : State) : (modChan c g s).sb = s.sb := rfl
@[simp] theorem modChan_ck (c : Nat) (g : Chan → Chan) (s : State) : (modChan c g s).ck = s.ck := rfl
@[simp] theorem modChan_out (c : Nat) (g : Chan → Chan) (s : State) : (modChan c g s).out = s.out := rfl
@[simp] theorem modChan_draws (c : Nat) (g : Chan → Chan) (s : State) : (modChan c g s).draws = s.draws := rfl
@[simp] theorem modChan_pending (c : Nat) (g : Chan → Chan) (s : State) : (modChan c g s).pending = s.pending := rfl

/-! ### modCxl -/
@[simp] theorem modCxl_chip (d : Nat) (g : CxlDev → CxlDev) (s : State) : (modCxl d g s).chip = s.chip := rfl
@[simp] theorem modCxl_ep (d : Nat) (g : CxlDev → CxlDev) (s : State) : (modCxl d g s).ep = s.ep := rfl
@[simp] theorem modCxl_regs (d : Nat) (g : CxlDev → CxlDev) (s : State) : (modCxl d g s).regs = s.regs := rfl
@[simp] theorem modCxl_mb (d : Nat) (g : CxlDev → CxlDev) (s : State) : (modCxl d g s).mb = s.mb := rfl
@[simp] theorem modCxl_fw (d : Nat) (g : CxlDev → CxlDev) (s : State) : (modCxl d g s).fw = s.fw := rfl
@[simp] theorem modCxl_ev (d : Nat) (g : CxlDev → CxlDev) (s : State) : (modCxl d g s).ev = s.ev := rfl
@[simp] theorem modCxl_parts (d : Nat) (g : CxlDev → CxlDev) (s : State) : (modCxl d g s).parts = s.parts := rfl
@[simp] theorem modCxl_funcs (d : Nat) (g : CxlDev → CxlDev) (s : State) : (modCxl d g s).funcs = s.funcs := rfl
@[simp] theorem modCxl_ti (d : Nat) (g : CxlDev → CxlDev) (s : State) : (modCxl d g s).ti = s.ti := rfl
@[simp] theorem modCxl_mem (d : Nat) (g : CxlDev → CxlDev) (s : State) : (modCxl d g s).mem = s.mem := rfl
@[simp] theorem modCxl_tiers (d : Nat) (g : CxlDev → CxlDev) (s : State) : (modCxl d g s).tiers = { s.tiers with cxl := tset s.tiers.cxl d (g (cxl? d s)) } := rfl
@[simp] theorem modCxl_xl (d : Nat) (g : CxlDev → CxlDev) (s : State) : (modCxl d g s).xl = s.xl := rfl
@[simp] theorem modCxl_jl (d : Nat) (g : CxlDev → CxlDev) (s : State) : (modCxl d g s).jl = s.jl := rfl
@[simp] theorem modCxl_qe (d : Nat) (g : CxlDev → CxlDev) (s : State) : (modCxl d g s).qe = s.qe := rfl
@[simp] theorem modCxl_pp (d : Nat) (g : CxlDev → CxlDev) (s : State) : (modCxl d g s).pp = s.pp := rfl
@[simp] theorem modCxl_sec (d : Nat) (g : CxlDev → CxlDev) (s : State) : (modCxl d g s).sec = s.sec := rfl
@[simp] theorem modCxl_pm (d : Nat) (g : CxlDev → CxlDev) (s : State) : (modCxl d g s).pm = s.pm := rfl
@[simp] theorem modCxl_cu (d : Nat) (g : CxlDev → CxlDev) (s : State) : (modCxl d g s).cu = s.cu := rfl
@[simp] theorem modCxl_sb (d : Nat) (g : CxlDev → CxlDev) (s : State) : (modCxl d g s).sb = s.sb := rfl
@[simp] theorem modCxl_ck (d : Nat) (g : CxlDev → CxlDev) (s : State) : (modCxl d g s).ck = s.ck := rfl
@[simp] theorem modCxl_out (d : Nat) (g : CxlDev → CxlDev) (s : State) : (modCxl d g s).out = s.out := rfl
@[simp] theorem modCxl_draws (d : Nat) (g : CxlDev → CxlDev) (s : State) : (modCxl d g s).draws = s.draws := rfl
@[simp] theorem modCxl_pending (d : Nat) (g : CxlDev → CxlDev) (s : State) : (modCxl d g s).pending = s.pending := rfl

/-! ### modTrans -/
@[simp] theorem modTrans_chip (p : Nat) (g : Trans → Trans) (s : State) : (modTrans p g s).chip = s.chip := rfl
@[simp] theorem modTrans_ep (p : Nat) (g : Trans → Trans) (s : State) : (modTrans p g s).ep = s.ep := rfl
@[simp] theorem modTrans_regs (p : Nat) (g : Trans → Trans) (s : State) : (modTrans p g s).regs = s.regs := rfl
@[simp] theorem modTrans_mb (p : Nat) (g : Trans → Trans) (s : State) : (modTrans p g s).mb = s.mb := rfl
@[simp] theorem modTrans_fw (p : Nat) (g : Trans → Trans) (s : State) : (modTrans p g s).fw = s.fw := rfl
@[simp] theorem modTrans_ev (p : Nat) (g : Trans → Trans) (s : State) : (modTrans p g s).ev = s.ev := rfl
@[simp] theorem modTrans_parts (p : Nat) (g : Trans → Trans) (s : State) : (modTrans p g s).parts = s.parts := rfl
@[simp] theorem modTrans_funcs (p : Nat) (g : Trans → Trans) (s : State) : (modTrans p g s).funcs = s.funcs := rfl
@[simp] theorem modTrans_ti (p : Nat) (g : Trans → Trans) (s : State) : (modTrans p g s).ti = s.ti := rfl
@[simp] theorem modTrans_mem (p : Nat) (g : Trans → Trans) (s : State) : (modTrans p g s).mem = s.mem := rfl
@[simp] theorem modTrans_tiers (p : Nat) (g : Trans → Trans) (s : State) : (modTrans p g s).tiers = s.tiers := rfl
@[simp] theorem modTrans_xl (p : Nat) (g : Trans → Trans) (s : State) : (modTrans p g s).xl = { s.xl with trans := tset s.xl.trans p (g (trans? p s)) } := rfl
@[simp] theorem modTrans_jl (p : Nat) (g : Trans → Trans) (s : State) : (modTrans p g s).jl = s.jl := rfl
@[simp] theorem modTrans_qe (p : Nat) (g : Trans → Trans) (s : State) : (modTrans p g s).qe = s.qe := rfl
@[simp] theorem modTrans_pp (p : Nat) (g : Trans → Trans) (s : State) : (modTrans p g s).pp = s.pp := rfl
@[simp] theorem modTrans_sec (p : Nat) (g : Trans → Trans) (s : State) : (modTrans p g s).sec = s.sec := rfl
@[simp] theorem modTrans_pm (p : Nat) (g : Trans → Trans) (s : State) : (modTrans p g s).pm = s.pm := rfl
@[simp] theorem modTrans_cu (p : Nat) (g : Trans → Trans) (s : State) : (modTrans p g s).cu = s.cu := rfl
@[simp] theorem modTrans_sb (p : Nat) (g : Trans → Trans) (s : State) : (modTrans p g s).sb = s.sb := rfl
@[simp] theorem modTrans_ck (p : Nat) (g : Trans → Trans) (s : State) : (modTrans p g s).ck = s.ck := rfl
@[simp] theorem modTrans_out (p : Nat) (g : Trans → Trans) (s : State) : (modTrans p g s).out = s.out := rfl
@[simp] theorem modTrans_draws (p : Nat) (g : Trans → Trans) (s : State) : (modTrans p g s).draws = s.draws := rfl
@[simp] theorem modTrans_pending (p : Nat) (g : Trans → Trans) (s : State) : (modTrans p g s).pending = s.pending := rfl

/-! ### setXfer -/
@[simp] theorem setXfer_chip (x : Nat) (f : Xfer) (s : State) : (setXfer x f s).chip = s.chip := rfl
@[simp] theorem setXfer_ep (x : Nat) (f : Xfer) (s : State) : (setXfer x f s).ep = s.ep := rfl
@[simp] theorem setXfer_regs (x : Nat) (f : Xfer) (s : State) : (setXfer x f s).regs = s.regs := rfl
@[simp] theorem setXfer_mb (x : Nat) (f : Xfer) (s : State) : (setXfer x f s).mb = s.mb := rfl
@[simp] theorem setXfer_fw (x : Nat) (f : Xfer) (s : State) : (setXfer x f s).fw = s.fw := rfl
@[simp] theorem setXfer_ev (x : Nat) (f : Xfer) (s : State) : (setXfer x f s).ev = s.ev := rfl
@[simp] theorem setXfer_parts (x : Nat) (f : Xfer) (s : State) : (setXfer x f s).parts = s.parts := rfl
@[simp] theorem setXfer_funcs (x : Nat) (f : Xfer) (s : State) : (setXfer x f s).funcs = s.funcs := rfl
@[simp] theorem setXfer_ti (x : Nat) (f : Xfer) (s : State) : (setXfer x f s).ti = s.ti := rfl
@[simp] theorem setXfer_mem (x : Nat) (f : Xfer) (s : State) : (setXfer x f s).mem = s.mem := rfl
@[simp] theorem setXfer_tiers (x : Nat) (f : Xfer) (s : State) : (setXfer x f s).tiers = s.tiers := rfl
@[simp] theorem setXfer_xl (x : Nat) (f : Xfer) (s : State) : (setXfer x f s).xl = { s.xl with xfers := tset s.xl.xfers x f } := rfl
@[simp] theorem setXfer_jl (x : Nat) (f : Xfer) (s : State) : (setXfer x f s).jl = s.jl := rfl
@[simp] theorem setXfer_qe (x : Nat) (f : Xfer) (s : State) : (setXfer x f s).qe = s.qe := rfl
@[simp] theorem setXfer_pp (x : Nat) (f : Xfer) (s : State) : (setXfer x f s).pp = s.pp := rfl
@[simp] theorem setXfer_sec (x : Nat) (f : Xfer) (s : State) : (setXfer x f s).sec = s.sec := rfl
@[simp] theorem setXfer_pm (x : Nat) (f : Xfer) (s : State) : (setXfer x f s).pm = s.pm := rfl
@[simp] theorem setXfer_cu (x : Nat) (f : Xfer) (s : State) : (setXfer x f s).cu = s.cu := rfl
@[simp] theorem setXfer_sb (x : Nat) (f : Xfer) (s : State) : (setXfer x f s).sb = s.sb := rfl
@[simp] theorem setXfer_ck (x : Nat) (f : Xfer) (s : State) : (setXfer x f s).ck = s.ck := rfl
@[simp] theorem setXfer_out (x : Nat) (f : Xfer) (s : State) : (setXfer x f s).out = s.out := rfl
@[simp] theorem setXfer_draws (x : Nat) (f : Xfer) (s : State) : (setXfer x f s).draws = s.draws := rfl
@[simp] theorem setXfer_pending (x : Nat) (f : Xfer) (s : State) : (setXfer x f s).pending = s.pending := rfl

/-! ### delXfer -/
@[simp] theorem delXfer_chip (x : Nat) (s : State) : (delXfer x s).chip = s.chip := rfl
@[simp] theorem delXfer_ep (x : Nat) (s : State) : (delXfer x s).ep = s.ep := rfl
@[simp] theorem delXfer_regs (x : Nat) (s : State) : (delXfer x s).regs = s.regs := rfl
@[simp] theorem delXfer_mb (x : Nat) (s : State) : (delXfer x s).mb = s.mb := rfl
@[simp] theorem delXfer_fw (x : Nat) (s : State) : (delXfer x s).fw = s.fw := rfl
@[simp] theorem delXfer_ev (x : Nat) (s : State) : (delXfer x s).ev = s.ev := rfl
@[simp] theorem delXfer_parts (x : Nat) (s : State) : (delXfer x s).parts = s.parts := rfl
@[simp] theorem delXfer_funcs (x : Nat) (s : State) : (delXfer x s).funcs = s.funcs := rfl
@[simp] theorem delXfer_ti (x : Nat) (s : State) : (delXfer x s).ti = s.ti := rfl
@[simp] theorem delXfer_mem (x : Nat) (s : State) : (delXfer x s).mem = s.mem := rfl
@[simp] theorem delXfer_tiers (x : Nat) (s : State) : (delXfer x s).tiers = s.tiers := rfl
@[simp] theorem delXfer_xl (x : Nat) (s : State) : (delXfer x s).xl = { s.xl with xfers := tdel s.xl.xfers x } := rfl
@[simp] theorem delXfer_jl (x : Nat) (s : State) : (delXfer x s).jl = s.jl := rfl
@[simp] theorem delXfer_qe (x : Nat) (s : State) : (delXfer x s).qe = s.qe := rfl
@[simp] theorem delXfer_pp (x : Nat) (s : State) : (delXfer x s).pp = s.pp := rfl
@[simp] theorem delXfer_sec (x : Nat) (s : State) : (delXfer x s).sec = s.sec := rfl
@[simp] theorem delXfer_pm (x : Nat) (s : State) : (delXfer x s).pm = s.pm := rfl
@[simp] theorem delXfer_cu (x : Nat) (s : State) : (delXfer x s).cu = s.cu := rfl
@[simp] theorem delXfer_sb (x : Nat) (s : State) : (delXfer x s).sb = s.sb := rfl
@[simp] theorem delXfer_ck (x : Nat) (s : State) : (delXfer x s).ck = s.ck := rfl
@[simp] theorem delXfer_out (x : Nat) (s : State) : (delXfer x s).out = s.out := rfl
@[simp] theorem delXfer_draws (x : Nat) (s : State) : (delXfer x s).draws = s.draws := rfl
@[simp] theorem delXfer_pending (x : Nat) (s : State) : (delXfer x s).pending = s.pending := rfl

/-! ### modMbox -/
@[simp] theorem modMbox_chip (m : Nat) (g : Mailbox → Mailbox) (s : State) : (modMbox m g s).chip = s.chip := rfl
@[simp] theorem modMbox_ep (m : Nat) (g : Mailbox → Mailbox) (s : State) : (modMbox m g s).ep = s.ep := rfl
@[simp] theorem modMbox_regs (m : Nat) (g : Mailbox → Mailbox) (s : State) : (modMbox m g s).regs = s.regs := rfl
@[simp] theorem modMbox_mb (m : Nat) (g : Mailbox → Mailbox) (s : State) : (modMbox m g s).mb = tset s.mb m (g (mbox? m s)) := rfl
@[simp] theorem modMbox_fw (m : Nat) (g : Mailbox → Mailbox) (s : State) : (modMbox m g s).fw = s.fw := rfl
@[simp] theorem modMbox_ev (m : Nat) (g : Mailbox → Mailbox) (s : State) : (modMbox m g s).ev = s.ev := rfl
@[simp] theorem modMbox_parts (m : Nat) (g : Mailbox → Mailbox) (s : State) : (modMbox m g s).parts = s.parts := rfl
@[simp] theorem modMbox_funcs (m : Nat) (g : Mailbox → Mailbox) (s : State) : (modMbox m g s).funcs = s.funcs := rfl
@[simp] theorem modMbox_ti (m : Nat) (g : Mailbox → Mailbox) (s : State) : (modMbox m g s).ti = s.ti := rfl
@[simp] theorem modMbox_mem (m : Nat) (g : Mailbox → Mailbox) (s : State) : (modMbox m g s).mem = s.mem := rfl
@[simp] theorem modMbox_tiers (m : Nat) (g : Mailbox → Mailbox) (s : State) : (modMbox m g s).tiers = s.tiers := rfl
@[simp] theorem modMbox_xl (m : Nat) (g : Mailbox → Mailbox) (s : State) : (modMbox m g s).xl = s.xl := rfl
@[simp] theorem modMbox_jl (m : Nat) (g : Mailbox → Mailbox) (s : State) : (modMbox m g s).jl = s.jl := rfl
@[simp] theorem modMbox_qe (m : Nat) (g : Mailbox → Mailbox) (s : State) : (modMbox m g s).qe = s.qe := rfl
@[simp] theorem modMbox_pp (m : Nat) (g : Mailbox → Mailbox) (s : State) : (modMbox m g s).pp = s.pp := rfl
@[simp] theorem modMbox_sec (m : Nat) (g : Mailbox → Mailbox) (s : State) : (modMbox m g s).sec = s.sec := rfl
@[simp] theorem modMbox_pm (m : Nat) (g : Mailbox → Mailbox) (s : State) : (modMbox m g s).pm = s.pm := rfl
@[simp] theorem modMbox_cu (m : Nat) (g : Mailbox → Mailbox) (s : State) : (modMbox m g s).cu = s.cu := rfl
@[simp] theorem modMbox_sb (m : Nat) (g : Mailbox → Mailbox) (s : State) : (modMbox m g s).sb = s.sb := rfl
@[simp] theorem modMbox_ck (m : Nat) (g : Mailbox → Mailbox) (s : State) : (modMbox m g s).ck = s.ck := rfl
@[simp] theorem modMbox_out (m : Nat) (g : Mailbox → Mailbox) (s : State) : (modMbox m g s).out = s.out := rfl
@[simp] theorem modMbox_draws (m : Nat) (g : Mailbox → Mailbox) (s : State) : (modMbox m g s).draws = s.draws := rfl
@[simp] theorem modMbox_pending (m : Nat) (g : Mailbox → Mailbox) (s : State) : (modMbox m g s).pending = s.pending := rfl

/-! ### wrMem -/
@[simp] theorem wrMem_chip (space addr : Nat) (bs : List Byte) (s : State) : (wrMem space addr bs s).chip = s.chip := rfl
@[simp] theorem wrMem_ep (space addr : Nat) (bs : List Byte) (s : State) : (wrMem space addr bs s).ep = s.ep := rfl
@[simp] theorem wrMem_regs (space addr : Nat) (bs : List Byte) (s : State) : (wrMem space addr bs s).regs = s.regs := rfl
@[simp] theorem wrMem_mb (space addr : Nat) (bs : List Byte) (s : State) : (wrMem space addr bs s).mb = s.mb := rfl
@[simp] theorem wrMem_fw (space addr : Nat) (bs : List Byte) (s : State) : (wrMem space addr bs s).fw = s.fw := rfl
@[simp] theorem wrMem_ev (space addr : Nat) (bs : List Byte) (s : State) : (wrMem space addr bs s).ev = s.ev := rfl
@[simp] theorem wrMem_parts (space addr : Nat) (bs : List Byte) (s : State) : (wrMem space addr bs s).parts = s.parts := rfl
@[simp] theorem wrMem_funcs (space addr : Nat) (bs : List Byte) (s : State) : (wrMem space addr bs s).funcs = s.funcs := rfl
@[simp] theorem wrMem_ti (space addr : Nat) (bs : List Byte) (s : State) : (wrMem space addr bs s).ti = s.ti := rfl
@[simp] theorem wrMem_mem (space addr : Nat) (bs : List Byte) (s : State) : (wrMem space addr bs s).mem = mwrN s.mem (mkey space addr) bs := rfl
@[simp] theorem wrMem_tiers (space addr : Nat) (bs : List Byte) (s : State) : (wrMem space addr bs s).tiers = s.tiers := rfl
@[simp] theorem wrMem_xl (space addr : Nat) (bs : List Byte) (s : State) : (wrMem space addr bs s).xl = s.xl := rfl
@[simp] theorem wrMem_jl (space addr : Nat) (bs : List Byte) (s : State) : (wrMem space addr bs s).jl = s.jl := rfl
@[simp] theorem wrMem_qe (space addr : Nat) (bs : List Byte) (s : State) : (wrMem space addr bs s).qe = s.qe := rfl
@[simp] theorem wrMem_pp (space addr : Nat) (bs : List Byte) (s : State) : (wrMem space addr bs s).pp = s.pp := rfl
@[simp] theorem wrMem_sec (space addr : Nat) (bs : List Byte) (s : State) : (wrMem space addr bs s).sec = s.sec := rfl
@[simp] theorem wrMem_pm (space addr : Nat) (bs : List Byte) (s : State) : (wrMem space addr bs s).pm = s.pm := rfl
@[simp] theorem wrMem_cu (space addr : Nat) (bs : List Byte) (s : State) : (wrMem space addr bs s).cu = s.cu := rfl
@[simp] theorem wrMem_sb (space addr : Nat) (bs : List Byte) (s : State) : (wrMem space addr bs s).sb = s.sb := rfl
@[simp] theorem wrMem_ck (space addr : Nat) (bs : List Byte) (s : State) : (wrMem space addr bs s).ck = s.ck := rfl
@[simp] theorem wrMem_out (space addr : Nat) (bs : List Byte) (s : State) : (wrMem space addr bs s).out = s.out := rfl
@[simp] theorem wrMem_draws (space addr : Nat) (bs : List Byte) (s : State) : (wrMem space addr bs s).draws = s.draws := rfl
@[simp] theorem wrMem_pending (space addr : Nat) (bs : List Byte) (s : State) : (wrMem space addr bs s).pending = s.pending := rfl

/-! ### hostStores -/
@[simp] theorem hostStores_chip (w : List HostStore) (s : State) : (hostStores w s).chip = s.chip := rfl
@[simp] theorem hostStores_ep (w : List HostStore) (s : State) : (hostStores w s).ep = s.ep := rfl
@[simp] theorem hostStores_regs (w : List HostStore) (s : State) : (hostStores w s).regs = s.regs := rfl
@[simp] theorem hostStores_mb (w : List HostStore) (s : State) : (hostStores w s).mb = s.mb := rfl
@[simp] theorem hostStores_fw (w : List HostStore) (s : State) : (hostStores w s).fw = s.fw := rfl
@[simp] theorem hostStores_ev (w : List HostStore) (s : State) : (hostStores w s).ev = s.ev := rfl
@[simp] theorem hostStores_parts (w : List HostStore) (s : State) : (hostStores w s).parts = s.parts := rfl
@[simp] theorem hostStores_funcs (w : List HostStore) (s : State) : (hostStores w s).funcs = s.funcs := rfl
@[simp] theorem hostStores_ti (w : List HostStore) (s : State) : (hostStores w s).ti = s.ti := rfl
@[simp] theorem hostStores_mem (w : List HostStore) (s : State) : (hostStores w s).mem = w.foldl (fun m p => mwr m (mkey spHost p.1) p.2) s.mem := rfl
@[simp] theorem hostStores_tiers (w : List HostStore) (s : State) : (hostStores w s).tiers = s.tiers := rfl
@[simp] theorem hostStores_xl (w : List HostStore) (s : State) : (hostStores w s).xl = s.xl := rfl
@[simp] theorem hostStores_jl (w : List HostStore) (s : State) : (hostStores w s).jl = s.jl := rfl
@[simp] theorem hostStores_qe (w : List HostStore) (s : State) : (hostStores w s).qe = s.qe := rfl
@[simp] theorem hostStores_pp (w : List HostStore) (s : State) : (hostStores w s).pp = s.pp := rfl
@[simp] theorem hostStores_sec (w : List HostStore) (s : State) : (hostStores w s).sec = s.sec := rfl
@[simp] theorem hostStores_pm (w : List HostStore) (s : State) : (hostStores w s).pm = s.pm := rfl
@[simp] theorem hostStores_cu (w : List HostStore) (s : State) : (hostStores w s).cu = s.cu := rfl
@[simp] theorem hostStores_sb (w : List HostStore) (s : State) : (hostStores w s).sb = s.sb := rfl
@[simp] theorem hostStores_ck (w : List HostStore) (s : State) : (hostStores w s).ck = s.ck := rfl
@[simp] theorem hostStores_out (w : List HostStore) (s : State) : (hostStores w s).out = s.out := rfl
@[simp] theorem hostStores_draws (w : List HostStore) (s : State) : (hostStores w s).draws = s.draws := rfl
@[simp] theorem hostStores_pending (w : List HostStore) (s : State) : (hostStores w s).pending = s.pending := rfl

/-! ### modXfer -/
@[simp] theorem modXfer_chip (x : Nat) (f : Xfer → Xfer) (s : State) : (modXfer x f s).chip = s.chip := rfl
@[simp] theorem modXfer_ep (x : Nat) (f : Xfer → Xfer) (s : State) : (modXfer x f s).ep = s.ep := rfl
@[simp] theorem modXfer_regs (x : Nat) (f : Xfer → Xfer) (s : State) : (modXfer x f s).regs = s.regs := rfl
@[simp] theorem modXfer_mb (x : Nat) (f : Xfer → Xfer) (s : State) : (modXfer x f s).mb = s.mb := rfl
@[simp] theorem modXfer_fw (x : Nat) (f : Xfer → Xfer) (s : State) : (modXfer x f s).fw = s.fw := rfl
@[simp] theorem modXfer_ev (x : Nat) (f : Xfer → Xfer) (s : State) : (modXfer x f s).ev = s.ev := rfl
@[simp] theorem modXfer_parts (x : Nat) (f : Xfer → Xfer) (s : State) : (modXfer x f s).parts = s.parts := rfl
@[simp] theorem modXfer_funcs (x : Nat) (f : Xfer → Xfer) (s : State) : (modXfer x f s).funcs = s.funcs := rfl
@[simp] theorem modXfer_ti (x : Nat) (f : Xfer → Xfer) (s : State) : (modXfer x f s).ti = s.ti := rfl
@[simp] theorem modXfer_mem (x : Nat) (f : Xfer → Xfer) (s : State) : (modXfer x f s).mem = s.mem := rfl
@[simp] theorem modXfer_tiers (x : Nat) (f : Xfer → Xfer) (s : State) : (modXfer x f s).tiers = s.tiers := rfl
@[simp] theorem modXfer_xl (x : Nat) (f : Xfer → Xfer) (s : State) : (modXfer x f s).xl = { s.xl with xfers := tmod s.xl.xfers x f } := rfl
@[simp] theorem modXfer_jl (x : Nat) (f : Xfer → Xfer) (s : State) : (modXfer x f s).jl = s.jl := rfl
@[simp] theorem modXfer_qe (x : Nat) (f : Xfer → Xfer) (s : State) : (modXfer x f s).qe = s.qe := rfl
@[simp] theorem modXfer_pp (x : Nat) (f : Xfer → Xfer) (s : State) : (modXfer x f s).pp = s.pp := rfl
@[simp] theorem modXfer_sec (x : Nat) (f : Xfer → Xfer) (s : State) : (modXfer x f s).sec = s.sec := rfl
@[simp] theorem modXfer_pm (x : Nat) (f : Xfer → Xfer) (s : State) : (modXfer x f s).pm = s.pm := rfl
@[simp] theorem modXfer_cu (x : Nat) (f : Xfer → Xfer) (s : State) : (modXfer x f s).cu = s.cu := rfl
@[simp] theorem modXfer_sb (x : Nat) (f : Xfer → Xfer) (s : State) : (modXfer x f s).sb = s.sb := rfl
@[simp] theorem modXfer_ck (x : Nat) (f : Xfer → Xfer) (s : State) : (modXfer x f s).ck = s.ck := rfl
@[simp] theorem modXfer_out (x : Nat) (f : Xfer → Xfer) (s : State) : (modXfer x f s).out = s.out := rfl
@[simp] theorem modXfer_draws (x : Nat) (f : Xfer → Xfer) (s : State) : (modXfer x f s).draws = s.draws := rfl
@[simp] theorem modXfer_pending (x : Nat) (f : Xfer → Xfer) (s : State) : (modXfer x f s).pending = s.pending := rfl

/-! ### modLink -/
@[simp] theorem modLink_chip (n : Nat) (f : Link → Link) (s : State) : (modLink n f s).chip = s.chip := rfl
@[simp] theorem modLink_ep (n : Nat) (f : Link → Link) (s : State) : (modLink n f s).ep = s.ep := rfl
@[simp] theorem modLink_regs (n : Nat) (f : Link → Link) (s : State) : (modLink n f s).regs = s.regs := rfl
@[simp] theorem modLink_mb (n : Nat) (f : Link → Link) (s : State) : (modLink n f s).mb = s.mb := rfl
@[simp] theorem modLink_fw (n : Nat) (f : Link → Link) (s : State) : (modLink n f s).fw = s.fw := rfl
@[simp] theorem modLink_ev (n : Nat) (f : Link → Link) (s : State) : (modLink n f s).ev = s.ev := rfl
@[simp] theorem modLink_parts (n : Nat) (f : Link → Link) (s : State) : (modLink n f s).parts = s.parts := rfl
@[simp] theorem modLink_funcs (n : Nat) (f : Link → Link) (s : State) : (modLink n f s).funcs = s.funcs := rfl
@[simp] theorem modLink_ti (n : Nat) (f : Link → Link) (s : State) : (modLink n f s).ti = s.ti := rfl
@[simp] theorem modLink_mem (n : Nat) (f : Link → Link) (s : State) : (modLink n f s).mem = s.mem := rfl
@[simp] theorem modLink_tiers (n : Nat) (f : Link → Link) (s : State) : (modLink n f s).tiers = s.tiers := rfl
@[simp] theorem modLink_xl (n : Nat) (f : Link → Link) (s : State) : (modLink n f s).xl = s.xl := rfl
@[simp] theorem modLink_jl (n : Nat) (f : Link → Link) (s : State) : (modLink n f s).jl = { s.jl with links := tset s.jl.links n (f (link? n s)) } := rfl
@[simp] theorem modLink_qe (n : Nat) (f : Link → Link) (s : State) : (modLink n f s).qe = s.qe := rfl
@[simp] theorem modLink_pp (n : Nat) (f : Link → Link) (s : State) : (modLink n f s).pp = s.pp := rfl
@[simp] theorem modLink_sec (n : Nat) (f : Link → Link) (s : State) : (modLink n f s).sec = s.sec := rfl
@[simp] theorem modLink_pm (n : Nat) (f : Link → Link) (s : State) : (modLink n f s).pm = s.pm := rfl
@[simp] theorem modLink_cu (n : Nat) (f : Link → Link) (s : State) : (modLink n f s).cu = s.cu := rfl
@[simp] theorem modLink_sb (n : Nat) (f : Link → Link) (s : State) : (modLink n f s).sb = s.sb := rfl
@[simp] theorem modLink_ck (n : Nat) (f : Link → Link) (s : State) : (modLink n f s).ck = s.ck := rfl
@[simp] theorem modLink_out (n : Nat) (f : Link → Link) (s : State) : (modLink n f s).out = s.out := rfl
@[simp] theorem modLink_draws (n : Nat) (f : Link → Link) (s : State) : (modLink n f s).draws = s.draws := rfl
@[simp] theorem modLink_pending (n : Nat) (f : Link → Link) (s : State) : (modLink n f s).pending = s.pending := rfl

/-! ### setGang -/
@[simp] theorem setGang_chip (g : Nat) (x : Gang) (s : State) : (setGang g x s).chip = s.chip := rfl
@[simp] theorem setGang_ep (g : Nat) (x : Gang) (s : State) : (setGang g x s).ep = s.ep := rfl
@[simp] theorem setGang_regs (g : Nat) (x : Gang) (s : State) : (setGang g x s).regs = s.regs := rfl
@[simp] theorem setGang_mb (g : Nat) (x : Gang) (s : State) : (setGang g x s).mb = s.mb := rfl
@[simp] theorem setGang_fw (g : Nat) (x : Gang) (s : State) : (setGang g x s).fw = s.fw := rfl
@[simp] theorem setGang_ev (g : Nat) (x : Gang) (s : State) : (setGang g x s).ev = s.ev := rfl
@[simp] theorem setGang_parts (g : Nat) (x : Gang) (s : State) : (setGang g x s).parts = s.parts := rfl
@[simp] theorem setGang_funcs (g : Nat) (x : Gang) (s : State) : (setGang g x s).funcs = s.funcs := rfl
@[simp] theorem setGang_ti (g : Nat) (x : Gang) (s : State) : (setGang g x s).ti = s.ti := rfl
@[simp] theorem setGang_mem (g : Nat) (x : Gang) (s : State) : (setGang g x s).mem = s.mem := rfl
@[simp] theorem setGang_tiers (g : Nat) (x : Gang) (s : State) : (setGang g x s).tiers = s.tiers := rfl
@[simp] theorem setGang_xl (g : Nat) (x : Gang) (s : State) : (setGang g x s).xl = s.xl := rfl
@[simp] theorem setGang_jl (g : Nat) (x : Gang) (s : State) : (setGang g x s).jl = { s.jl with gangs := tset s.jl.gangs g x } := rfl
@[simp] theorem setGang_qe (g : Nat) (x : Gang) (s : State) : (setGang g x s).qe = s.qe := rfl
@[simp] theorem setGang_pp (g : Nat) (x : Gang) (s : State) : (setGang g x s).pp = s.pp := rfl
@[simp] theorem setGang_sec (g : Nat) (x : Gang) (s : State) : (setGang g x s).sec = s.sec := rfl
@[simp] theorem setGang_pm (g : Nat) (x : Gang) (s : State) : (setGang g x s).pm = s.pm := rfl
@[simp] theorem setGang_cu (g : Nat) (x : Gang) (s : State) : (setGang g x s).cu = s.cu := rfl
@[simp] theorem setGang_sb (g : Nat) (x : Gang) (s : State) : (setGang g x s).sb = s.sb := rfl
@[simp] theorem setGang_ck (g : Nat) (x : Gang) (s : State) : (setGang g x s).ck = s.ck := rfl
@[simp] theorem setGang_out (g : Nat) (x : Gang) (s : State) : (setGang g x s).out = s.out := rfl
@[simp] theorem setGang_draws (g : Nat) (x : Gang) (s : State) : (setGang g x s).draws = s.draws := rfl
@[simp] theorem setGang_pending (g : Nat) (x : Gang) (s : State) : (setGang g x s).pending = s.pending := rfl

/-! ### modGang -/
@[simp] theorem modGang_chip (g : Nat) (f : Gang → Gang) (s : State) : (modGang g f s).chip = s.chip := rfl
@[simp] theorem modGang_ep (g : Nat) (f : Gang → Gang) (s : State) : (modGang g f s).ep = s.ep := rfl
@[simp] theorem modGang_regs (g : Nat) (f : Gang → Gang) (s : State) : (modGang g f s).regs = s.regs := rfl
@[simp] theorem modGang_mb (g : Nat) (f : Gang → Gang) (s : State) : (modGang g f s).mb = s.mb := rfl
@[simp] theorem modGang_fw (g : Nat) (f : Gang → Gang) (s : State) : (modGang g f s).fw = s.fw := rfl
@[simp] theorem modGang_ev (g : Nat) (f : Gang → Gang) (s : State) : (modGang g f s).ev = s.ev := rfl
@[simp] theorem modGang_parts (g : Nat) (f : Gang → Gang) (s : State) : (modGang g f s).parts = s.parts := rfl
@[simp] theorem modGang_funcs (g : Nat) (f : Gang → Gang) (s : State) : (modGang g f s).funcs = s.funcs := rfl
@[simp] theorem modGang_ti (g : Nat) (f : Gang → Gang) (s : State) : (modGang g f s).ti = s.ti := rfl
@[simp] theorem modGang_mem (g : Nat) (f : Gang → Gang) (s : State) : (modGang g f s).mem = s.mem := rfl
@[simp] theorem modGang_tiers (g : Nat) (f : Gang → Gang) (s : State) : (modGang g f s).tiers = s.tiers := rfl
@[simp] theorem modGang_xl (g : Nat) (f : Gang → Gang) (s : State) : (modGang g f s).xl = s.xl := rfl
@[simp] theorem modGang_jl (g : Nat) (f : Gang → Gang) (s : State) : (modGang g f s).jl = { s.jl with gangs := tmod s.jl.gangs g f } := rfl
@[simp] theorem modGang_qe (g : Nat) (f : Gang → Gang) (s : State) : (modGang g f s).qe = s.qe := rfl
@[simp] theorem modGang_pp (g : Nat) (f : Gang → Gang) (s : State) : (modGang g f s).pp = s.pp := rfl
@[simp] theorem modGang_sec (g : Nat) (f : Gang → Gang) (s : State) : (modGang g f s).sec = s.sec := rfl
@[simp] theorem modGang_pm (g : Nat) (f : Gang → Gang) (s : State) : (modGang g f s).pm = s.pm := rfl
@[simp] theorem modGang_cu (g : Nat) (f : Gang → Gang) (s : State) : (modGang g f s).cu = s.cu := rfl
@[simp] theorem modGang_sb (g : Nat) (f : Gang → Gang) (s : State) : (modGang g f s).sb = s.sb := rfl
@[simp] theorem modGang_ck (g : Nat) (f : Gang → Gang) (s : State) : (modGang g f s).ck = s.ck := rfl
@[simp] theorem modGang_out (g : Nat) (f : Gang → Gang) (s : State) : (modGang g f s).out = s.out := rfl
@[simp] theorem modGang_draws (g : Nat) (f : Gang → Gang) (s : State) : (modGang g f s).draws = s.draws := rfl
@[simp] theorem modGang_pending (g : Nat) (f : Gang → Gang) (s : State) : (modGang g f s).pending = s.pending := rfl

/-! ### modQp -/
@[simp] theorem modQp_chip (n : Nat) (f : Qp → Qp) (s : State) : (modQp n f s).chip = s.chip := rfl
@[simp] theorem modQp_ep (n : Nat) (f : Qp → Qp) (s : State) : (modQp n f s).ep = s.ep := rfl
@[simp] theorem modQp_regs (n : Nat) (f : Qp → Qp) (s : State) : (modQp n f s).regs = s.regs := rfl
@[simp] theorem modQp_mb (n : Nat) (f : Qp → Qp) (s : State) : (modQp n f s).mb = s.mb := rfl
@[simp] theorem modQp_fw (n : Nat) (f : Qp → Qp) (s : State) : (modQp n f s).fw = s.fw := rfl
@[simp] theorem modQp_ev (n : Nat) (f : Qp → Qp) (s : State) : (modQp n f s).ev = s.ev := rfl
@[simp] theorem modQp_parts (n : Nat) (f : Qp → Qp) (s : State) : (modQp n f s).parts = s.parts := rfl
@[simp] theorem modQp_funcs (n : Nat) (f : Qp → Qp) (s : State) : (modQp n f s).funcs = s.funcs := rfl
@[simp] theorem modQp_ti (n : Nat) (f : Qp → Qp) (s : State) : (modQp n f s).ti = s.ti := rfl
@[simp] theorem modQp_mem (n : Nat) (f : Qp → Qp) (s : State) : (modQp n f s).mem = s.mem := rfl
@[simp] theorem modQp_tiers (n : Nat) (f : Qp → Qp) (s : State) : (modQp n f s).tiers = s.tiers := rfl
@[simp] theorem modQp_xl (n : Nat) (f : Qp → Qp) (s : State) : (modQp n f s).xl = s.xl := rfl
@[simp] theorem modQp_jl (n : Nat) (f : Qp → Qp) (s : State) : (modQp n f s).jl = s.jl := rfl
@[simp] theorem modQp_qe (n : Nat) (f : Qp → Qp) (s : State) : (modQp n f s).qe = { s.qe with qps := tmod s.qe.qps n f } := rfl
@[simp] theorem modQp_pp (n : Nat) (f : Qp → Qp) (s : State) : (modQp n f s).pp = s.pp := rfl
@[simp] theorem modQp_sec (n : Nat) (f : Qp → Qp) (s : State) : (modQp n f s).sec = s.sec := rfl
@[simp] theorem modQp_pm (n : Nat) (f : Qp → Qp) (s : State) : (modQp n f s).pm = s.pm := rfl
@[simp] theorem modQp_cu (n : Nat) (f : Qp → Qp) (s : State) : (modQp n f s).cu = s.cu := rfl
@[simp] theorem modQp_sb (n : Nat) (f : Qp → Qp) (s : State) : (modQp n f s).sb = s.sb := rfl
@[simp] theorem modQp_ck (n : Nat) (f : Qp → Qp) (s : State) : (modQp n f s).ck = s.ck := rfl
@[simp] theorem modQp_out (n : Nat) (f : Qp → Qp) (s : State) : (modQp n f s).out = s.out := rfl
@[simp] theorem modQp_draws (n : Nat) (f : Qp → Qp) (s : State) : (modQp n f s).draws = s.draws := rfl
@[simp] theorem modQp_pending (n : Nat) (f : Qp → Qp) (s : State) : (modQp n f s).pending = s.pending := rfl

/-! ### modCq -/
@[simp] theorem modCq_chip (n : Nat) (f : Cq → Cq) (s : State) : (modCq n f s).chip = s.chip := rfl
@[simp] theorem modCq_ep (n : Nat) (f : Cq → Cq) (s : State) : (modCq n f s).ep = s.ep := rfl
@[simp] theorem modCq_regs (n : Nat) (f : Cq → Cq) (s : State) : (modCq n f s).regs = s.regs := rfl
@[simp] theorem modCq_mb (n : Nat) (f : Cq → Cq) (s : State) : (modCq n f s).mb = s.mb := rfl
@[simp] theorem modCq_fw (n : Nat) (f : Cq → Cq) (s : State) : (modCq n f s).fw = s.fw := rfl
@[simp] theorem modCq_ev (n : Nat) (f : Cq → Cq) (s : State) : (modCq n f s).ev = s.ev := rfl
@[simp] theorem modCq_parts (n : Nat) (f : Cq → Cq) (s : State) : (modCq n f s).parts = s.parts := rfl
@[simp] theorem modCq_funcs (n : Nat) (f : Cq → Cq) (s : State) : (modCq n f s).funcs = s.funcs := rfl
@[simp] theorem modCq_ti (n : Nat) (f : Cq → Cq) (s : State) : (modCq n f s).ti = s.ti := rfl
@[simp] theorem modCq_mem (n : Nat) (f : Cq → Cq) (s : State) : (modCq n f s).mem = s.mem := rfl
@[simp] theorem modCq_tiers (n : Nat) (f : Cq → Cq) (s : State) : (modCq n f s).tiers = s.tiers := rfl
@[simp] theorem modCq_xl (n : Nat) (f : Cq → Cq) (s : State) : (modCq n f s).xl = s.xl := rfl
@[simp] theorem modCq_jl (n : Nat) (f : Cq → Cq) (s : State) : (modCq n f s).jl = s.jl := rfl
@[simp] theorem modCq_qe (n : Nat) (f : Cq → Cq) (s : State) : (modCq n f s).qe = { s.qe with cqs := tmod s.qe.cqs n f } := rfl
@[simp] theorem modCq_pp (n : Nat) (f : Cq → Cq) (s : State) : (modCq n f s).pp = s.pp := rfl
@[simp] theorem modCq_sec (n : Nat) (f : Cq → Cq) (s : State) : (modCq n f s).sec = s.sec := rfl
@[simp] theorem modCq_pm (n : Nat) (f : Cq → Cq) (s : State) : (modCq n f s).pm = s.pm := rfl
@[simp] theorem modCq_cu (n : Nat) (f : Cq → Cq) (s : State) : (modCq n f s).cu = s.cu := rfl
@[simp] theorem modCq_sb (n : Nat) (f : Cq → Cq) (s : State) : (modCq n f s).sb = s.sb := rfl
@[simp] theorem modCq_ck (n : Nat) (f : Cq → Cq) (s : State) : (modCq n f s).ck = s.ck := rfl
@[simp] theorem modCq_out (n : Nat) (f : Cq → Cq) (s : State) : (modCq n f s).out = s.out := rfl
@[simp] theorem modCq_draws (n : Nat) (f : Cq → Cq) (s : State) : (modCq n f s).draws = s.draws := rfl
@[simp] theorem modCq_pending (n : Nat) (f : Cq → Cq) (s : State) : (modCq n f s).pending = s.pending := rfl

/-! ### modQe -/
@[simp] theorem modQe_chip (f : Qe → Qe) (s : State) : (modQe f s).chip = s.chip := rfl
@[simp] theorem modQe_ep (f : Qe → Qe) (s : State) : (modQe f s).ep = s.ep := rfl
@[simp] theorem modQe_regs (f : Qe → Qe) (s : State) : (modQe f s).regs = s.regs := rfl
@[simp] theorem modQe_mb (f : Qe → Qe) (s : State) : (modQe f s).mb = s.mb := rfl
@[simp] theorem modQe_fw (f : Qe → Qe) (s : State) : (modQe f s).fw = s.fw := rfl
@[simp] theorem modQe_ev (f : Qe → Qe) (s : State) : (modQe f s).ev = s.ev := rfl
@[simp] theorem modQe_parts (f : Qe → Qe) (s : State) : (modQe f s).parts = s.parts := rfl
@[simp] theorem modQe_funcs (f : Qe → Qe) (s : State) : (modQe f s).funcs = s.funcs := rfl
@[simp] theorem modQe_ti (f : Qe → Qe) (s : State) : (modQe f s).ti = s.ti := rfl
@[simp] theorem modQe_mem (f : Qe → Qe) (s : State) : (modQe f s).mem = s.mem := rfl
@[simp] theorem modQe_tiers (f : Qe → Qe) (s : State) : (modQe f s).tiers = s.tiers := rfl
@[simp] theorem modQe_xl (f : Qe → Qe) (s : State) : (modQe f s).xl = s.xl := rfl
@[simp] theorem modQe_jl (f : Qe → Qe) (s : State) : (modQe f s).jl = s.jl := rfl
@[simp] theorem modQe_qe (f : Qe → Qe) (s : State) : (modQe f s).qe = f s.qe := rfl
@[simp] theorem modQe_pp (f : Qe → Qe) (s : State) : (modQe f s).pp = s.pp := rfl
@[simp] theorem modQe_sec (f : Qe → Qe) (s : State) : (modQe f s).sec = s.sec := rfl
@[simp] theorem modQe_pm (f : Qe → Qe) (s : State) : (modQe f s).pm = s.pm := rfl
@[simp] theorem modQe_cu (f : Qe → Qe) (s : State) : (modQe f s).cu = s.cu := rfl
@[simp] theorem modQe_sb (f : Qe → Qe) (s : State) : (modQe f s).sb = s.sb := rfl
@[simp] theorem modQe_ck (f : Qe → Qe) (s : State) : (modQe f s).ck = s.ck := rfl
@[simp] theorem modQe_out (f : Qe → Qe) (s : State) : (modQe f s).out = s.out := rfl
@[simp] theorem modQe_draws (f : Qe → Qe) (s : State) : (modQe f s).draws = s.draws := rfl
@[simp] theorem modQe_pending (f : Qe → Qe) (s : State) : (modQe f s).pending = s.pending := rfl

/-! ### modPipe -/
@[simp] theorem modPipe_chip (f : Pipe → Pipe) (s : State) : (modPipe f s).chip = s.chip := rfl
@[simp] theorem modPipe_ep (f : Pipe → Pipe) (s : State) : (modPipe f s).ep = s.ep := rfl
@[simp] theorem modPipe_regs (f : Pipe → Pipe) (s : State) : (modPipe f s).regs = s.regs := rfl
@[simp] theorem modPipe_mb (f : Pipe → Pipe) (s : State) : (modPipe f s).mb = s.mb := rfl
@[simp] theorem modPipe_fw (f : Pipe → Pipe) (s : State) : (modPipe f s).fw = s.fw := rfl
@[simp] theorem modPipe_ev (f : Pipe → Pipe) (s : State) : (modPipe f s).ev = s.ev := rfl
@[simp] theorem modPipe_parts (f : Pipe → Pipe) (s : State) : (modPipe f s).parts = s.parts := rfl
@[simp] theorem modPipe_funcs (f : Pipe → Pipe) (s : State) : (modPipe f s).funcs = s.funcs := rfl
@[simp] theorem modPipe_ti (f : Pipe → Pipe) (s : State) : (modPipe f s).ti = s.ti := rfl
@[simp] theorem modPipe_mem (f : Pipe → Pipe) (s : State) : (modPipe f s).mem = s.mem := rfl
@[simp] theorem modPipe_tiers (f : Pipe → Pipe) (s : State) : (modPipe f s).tiers = s.tiers := rfl
@[simp] theorem modPipe_xl (f : Pipe → Pipe) (s : State) : (modPipe f s).xl = s.xl := rfl
@[simp] theorem modPipe_jl (f : Pipe → Pipe) (s : State) : (modPipe f s).jl = s.jl := rfl
@[simp] theorem modPipe_qe (f : Pipe → Pipe) (s : State) : (modPipe f s).qe = s.qe := rfl
@[simp] theorem modPipe_pp (f : Pipe → Pipe) (s : State) : (modPipe f s).pp = f s.pp := rfl
@[simp] theorem modPipe_sec (f : Pipe → Pipe) (s : State) : (modPipe f s).sec = s.sec := rfl
@[simp] theorem modPipe_pm (f : Pipe → Pipe) (s : State) : (modPipe f s).pm = s.pm := rfl
@[simp] theorem modPipe_cu (f : Pipe → Pipe) (s : State) : (modPipe f s).cu = s.cu := rfl
@[simp] theorem modPipe_sb (f : Pipe → Pipe) (s : State) : (modPipe f s).sb = s.sb := rfl
@[simp] theorem modPipe_ck (f : Pipe → Pipe) (s : State) : (modPipe f s).ck = s.ck := rfl
@[simp] theorem modPipe_out (f : Pipe → Pipe) (s : State) : (modPipe f s).out = s.out := rfl
@[simp] theorem modPipe_draws (f : Pipe → Pipe) (s : State) : (modPipe f s).draws = s.draws := rfl
@[simp] theorem modPipe_pending (f : Pipe → Pipe) (s : State) : (modPipe f s).pending = s.pending := rfl

/-! ### modSec -/
@[simp] theorem modSec_chip (f : Sec → Sec) (s : State) : (modSec f s).chip = s.chip := rfl
@[simp] theorem modSec_ep (f : Sec → Sec) (s : State) : (modSec f s).ep = s.ep := rfl
@[simp] theorem modSec_regs (f : Sec → Sec) (s : State) : (modSec f s).regs = s.regs := rfl
@[simp] theorem modSec_mb (f : Sec → Sec) (s : State) : (modSec f s).mb = s.mb := rfl
@[simp] theorem modSec_fw (f : Sec → Sec) (s : State) : (modSec f s).fw = s.fw := rfl
@[simp] theorem modSec_ev (f : Sec → Sec) (s : State) : (modSec f s).ev = s.ev := rfl
@[simp] theorem modSec_parts (f : Sec → Sec) (s : State) : (modSec f s).parts = s.parts := rfl
@[simp] theorem modSec_funcs (f : Sec → Sec) (s : State) : (modSec f s).funcs = s.funcs := rfl
@[simp] theorem modSec_ti (f : Sec → Sec) (s : State) : (modSec f s).ti = s.ti := rfl
@[simp] theorem modSec_mem (f : Sec → Sec) (s : State) : (modSec f s).mem = s.mem := rfl
@[simp] theorem modSec_tiers (f : Sec → Sec) (s : State) : (modSec f s).tiers = s.tiers := rfl
@[simp] theorem modSec_xl (f : Sec → Sec) (s : State) : (modSec f s).xl = s.xl := rfl
@[simp] theorem modSec_jl (f : Sec → Sec) (s : State) : (modSec f s).jl = s.jl := rfl
@[simp] theorem modSec_qe (f : Sec → Sec) (s : State) : (modSec f s).qe = s.qe := rfl
@[simp] theorem modSec_pp (f : Sec → Sec) (s : State) : (modSec f s).pp = s.pp := rfl
@[simp] theorem modSec_sec (f : Sec → Sec) (s : State) : (modSec f s).sec = f s.sec := rfl
@[simp] theorem modSec_pm (f : Sec → Sec) (s : State) : (modSec f s).pm = s.pm := rfl
@[simp] theorem modSec_cu (f : Sec → Sec) (s : State) : (modSec f s).cu = s.cu := rfl
@[simp] theorem modSec_sb (f : Sec → Sec) (s : State) : (modSec f s).sb = s.sb := rfl
@[simp] theorem modSec_ck (f : Sec → Sec) (s : State) : (modSec f s).ck = s.ck := rfl
@[simp] theorem modSec_out (f : Sec → Sec) (s : State) : (modSec f s).out = s.out := rfl
@[simp] theorem modSec_draws (f : Sec → Sec) (s : State) : (modSec f s).draws = s.draws := rfl
@[simp] theorem modSec_pending (f : Sec → Sec) (s : State) : (modSec f s).pending = s.pending := rfl

/-! ### modSb -/
@[simp] theorem modSb_chip (f : Sb → Sb) (s : State) : (modSb f s).chip = s.chip := rfl
@[simp] theorem modSb_ep (f : Sb → Sb) (s : State) : (modSb f s).ep = s.ep := rfl
@[simp] theorem modSb_regs (f : Sb → Sb) (s : State) : (modSb f s).regs = s.regs := rfl
@[simp] theorem modSb_mb (f : Sb → Sb) (s : State) : (modSb f s).mb = s.mb := rfl
@[simp] theorem modSb_fw (f : Sb → Sb) (s : State) : (modSb f s).fw = s.fw := rfl
@[simp] theorem modSb_ev (f : Sb → Sb) (s : State) : (modSb f s).ev = s.ev := rfl
@[simp] theorem modSb_parts (f : Sb → Sb) (s : State) : (modSb f s).parts = s.parts := rfl
@[simp] theorem modSb_funcs (f : Sb → Sb) (s : State) : (modSb f s).funcs = s.funcs := rfl
@[simp] theorem modSb_ti (f : Sb → Sb) (s : State) : (modSb f s).ti = s.ti := rfl
@[simp] theorem modSb_mem (f : Sb → Sb) (s : State) : (modSb f s).mem = s.mem := rfl
@[simp] theorem modSb_tiers (f : Sb → Sb) (s : State) : (modSb f s).tiers = s.tiers := rfl
@[simp] theorem modSb_xl (f : Sb → Sb) (s : State) : (modSb f s).xl = s.xl := rfl
@[simp] theorem modSb_jl (f : Sb → Sb) (s : State) : (modSb f s).jl = s.jl := rfl
@[simp] theorem modSb_qe (f : Sb → Sb) (s : State) : (modSb f s).qe = s.qe := rfl
@[simp] theorem modSb_pp (f : Sb → Sb) (s : State) : (modSb f s).pp = s.pp := rfl
@[simp] theorem modSb_sec (f : Sb → Sb) (s : State) : (modSb f s).sec = s.sec := rfl
@[simp] theorem modSb_pm (f : Sb → Sb) (s : State) : (modSb f s).pm = s.pm := rfl
@[simp] theorem modSb_cu (f : Sb → Sb) (s : State) : (modSb f s).cu = s.cu := rfl
@[simp] theorem modSb_sb (f : Sb → Sb) (s : State) : (modSb f s).sb = f s.sb := rfl
@[simp] theorem modSb_ck (f : Sb → Sb) (s : State) : (modSb f s).ck = s.ck := rfl
@[simp] theorem modSb_out (f : Sb → Sb) (s : State) : (modSb f s).out = s.out := rfl
@[simp] theorem modSb_draws (f : Sb → Sb) (s : State) : (modSb f s).draws = s.draws := rfl
@[simp] theorem modSb_pending (f : Sb → Sb) (s : State) : (modSb f s).pending = s.pending := rfl

/-! ### modCu -/
@[simp] theorem modCu_chip (f : Cu → Cu) (s : State) : (modCu f s).chip = s.chip := rfl
@[simp] theorem modCu_ep (f : Cu → Cu) (s : State) : (modCu f s).ep = s.ep := rfl
@[simp] theorem modCu_regs (f : Cu → Cu) (s : State) : (modCu f s).regs = s.regs := rfl
@[simp] theorem modCu_mb (f : Cu → Cu) (s : State) : (modCu f s).mb = s.mb := rfl
@[simp] theorem modCu_fw (f : Cu → Cu) (s : State) : (modCu f s).fw = s.fw := rfl
@[simp] theorem modCu_ev (f : Cu → Cu) (s : State) : (modCu f s).ev = s.ev := rfl
@[simp] theorem modCu_parts (f : Cu → Cu) (s : State) : (modCu f s).parts = s.parts := rfl
@[simp] theorem modCu_funcs (f : Cu → Cu) (s : State) : (modCu f s).funcs = s.funcs := rfl
@[simp] theorem modCu_ti (f : Cu → Cu) (s : State) : (modCu f s).ti = s.ti := rfl
@[simp] theorem modCu_mem (f : Cu → Cu) (s : State) : (modCu f s).mem = s.mem := rfl
@[simp] theorem modCu_tiers (f : Cu → Cu) (s : State) : (modCu f s).tiers = s.tiers := rfl
@[simp] theorem modCu_xl (f : Cu → Cu) (s : State) : (modCu f s).xl = s.xl := rfl
@[simp] theorem modCu_jl (f : Cu → Cu) (s : State) : (modCu f s).jl = s.jl := rfl
@[simp] theorem modCu_qe (f : Cu → Cu) (s : State) : (modCu f s).qe = s.qe := rfl
@[simp] theorem modCu_pp (f : Cu → Cu) (s : State) : (modCu f s).pp = s.pp := rfl
@[simp] theorem modCu_sec (f : Cu → Cu) (s : State) : (modCu f s).sec = s.sec := rfl
@[simp] theorem modCu_pm (f : Cu → Cu) (s : State) : (modCu f s).pm = s.pm := rfl
@[simp] theorem modCu_cu (f : Cu → Cu) (s : State) : (modCu f s).cu = f s.cu := rfl
@[simp] theorem modCu_sb (f : Cu → Cu) (s : State) : (modCu f s).sb = s.sb := rfl
@[simp] theorem modCu_ck (f : Cu → Cu) (s : State) : (modCu f s).ck = s.ck := rfl
@[simp] theorem modCu_out (f : Cu → Cu) (s : State) : (modCu f s).out = s.out := rfl
@[simp] theorem modCu_draws (f : Cu → Cu) (s : State) : (modCu f s).draws = s.draws := rfl
@[simp] theorem modCu_pending (f : Cu → Cu) (s : State) : (modCu f s).pending = s.pending := rfl

/-! ### modCk -/
@[simp] theorem modCk_chip (f : Ck → Ck) (s : State) : (modCk f s).chip = s.chip := rfl
@[simp] theorem modCk_ep (f : Ck → Ck) (s : State) : (modCk f s).ep = s.ep := rfl
@[simp] theorem modCk_regs (f : Ck → Ck) (s : State) : (modCk f s).regs = s.regs := rfl
@[simp] theorem modCk_mb (f : Ck → Ck) (s : State) : (modCk f s).mb = s.mb := rfl
@[simp] theorem modCk_fw (f : Ck → Ck) (s : State) : (modCk f s).fw = s.fw := rfl
@[simp] theorem modCk_ev (f : Ck → Ck) (s : State) : (modCk f s).ev = s.ev := rfl
@[simp] theorem modCk_parts (f : Ck → Ck) (s : State) : (modCk f s).parts = s.parts := rfl
@[simp] theorem modCk_funcs (f : Ck → Ck) (s : State) : (modCk f s).funcs = s.funcs := rfl
@[simp] theorem modCk_ti (f : Ck → Ck) (s : State) : (modCk f s).ti = s.ti := rfl
@[simp] theorem modCk_mem (f : Ck → Ck) (s : State) : (modCk f s).mem = s.mem := rfl
@[simp] theorem modCk_tiers (f : Ck → Ck) (s : State) : (modCk f s).tiers = s.tiers := rfl
@[simp] theorem modCk_xl (f : Ck → Ck) (s : State) : (modCk f s).xl = s.xl := rfl
@[simp] theorem modCk_jl (f : Ck → Ck) (s : State) : (modCk f s).jl = s.jl := rfl
@[simp] theorem modCk_qe (f : Ck → Ck) (s : State) : (modCk f s).qe = s.qe := rfl
@[simp] theorem modCk_pp (f : Ck → Ck) (s : State) : (modCk f s).pp = s.pp := rfl
@[simp] theorem modCk_sec (f : Ck → Ck) (s : State) : (modCk f s).sec = s.sec := rfl
@[simp] theorem modCk_pm (f : Ck → Ck) (s : State) : (modCk f s).pm = s.pm := rfl
@[simp] theorem modCk_cu (f : Ck → Ck) (s : State) : (modCk f s).cu = s.cu := rfl
@[simp] theorem modCk_sb (f : Ck → Ck) (s : State) : (modCk f s).sb = s.sb := rfl
@[simp] theorem modCk_ck (f : Ck → Ck) (s : State) : (modCk f s).ck = f s.ck := rfl
@[simp] theorem modCk_out (f : Ck → Ck) (s : State) : (modCk f s).out = s.out := rfl
@[simp] theorem modCk_draws (f : Ck → Ck) (s : State) : (modCk f s).draws = s.draws := rfl
@[simp] theorem modCk_pending (f : Ck → Ck) (s : State) : (modCk f s).pending = s.pending := rfl

/-! ### modPm -/
@[simp] theorem modPm_chip (f : Pm → Pm) (s : State) : (modPm f s).chip = s.chip := rfl
@[simp] theorem modPm_ep (f : Pm → Pm) (s : State) : (modPm f s).ep = s.ep := rfl
@[simp] theorem modPm_regs (f : Pm → Pm) (s : State) : (modPm f s).regs = s.regs := rfl
@[simp] theorem modPm_mb (f : Pm → Pm) (s : State) : (modPm f s).mb = s.mb := rfl
@[simp] theorem modPm_fw (f : Pm → Pm) (s : State) : (modPm f s).fw = s.fw := rfl
@[simp] theorem modPm_ev (f : Pm → Pm) (s : State) : (modPm f s).ev = s.ev := rfl
@[simp] theorem modPm_parts (f : Pm → Pm) (s : State) : (modPm f s).parts = s.parts := rfl
@[simp] theorem modPm_funcs (f : Pm → Pm) (s : State) : (modPm f s).funcs = s.funcs := rfl
@[simp] theorem modPm_ti (f : Pm → Pm) (s : State) : (modPm f s).ti = s.ti := rfl
@[simp] theorem modPm_mem (f : Pm → Pm) (s : State) : (modPm f s).mem = s.mem := rfl
@[simp] theorem modPm_tiers (f : Pm → Pm) (s : State) : (modPm f s).tiers = s.tiers := rfl
@[simp] theorem modPm_xl (f : Pm → Pm) (s : State) : (modPm f s).xl = s.xl := rfl
@[simp] theorem modPm_jl (f : Pm → Pm) (s : State) : (modPm f s).jl = s.jl := rfl
@[simp] theorem modPm_qe (f : Pm → Pm) (s : State) : (modPm f s).qe = s.qe := rfl
@[simp] theorem modPm_pp (f : Pm → Pm) (s : State) : (modPm f s).pp = s.pp := rfl
@[simp] theorem modPm_sec (f : Pm → Pm) (s : State) : (modPm f s).sec = s.sec := rfl
@[simp] theorem modPm_pm (f : Pm → Pm) (s : State) : (modPm f s).pm = f s.pm := rfl
@[simp] theorem modPm_cu (f : Pm → Pm) (s : State) : (modPm f s).cu = s.cu := rfl
@[simp] theorem modPm_sb (f : Pm → Pm) (s : State) : (modPm f s).sb = s.sb := rfl
@[simp] theorem modPm_ck (f : Pm → Pm) (s : State) : (modPm f s).ck = s.ck := rfl
@[simp] theorem modPm_out (f : Pm → Pm) (s : State) : (modPm f s).out = s.out := rfl
@[simp] theorem modPm_draws (f : Pm → Pm) (s : State) : (modPm f s).draws = s.draws := rfl
@[simp] theorem modPm_pending (f : Pm → Pm) (s : State) : (modPm f s).pending = s.pending := rfl

/-! ### modBind -/
@[simp] theorem modBind_chip (k : Nat) (f : Binding → Binding) (s : State) : (modBind k f s).chip = s.chip := rfl
@[simp] theorem modBind_ep (k : Nat) (f : Binding → Binding) (s : State) : (modBind k f s).ep = s.ep := rfl
@[simp] theorem modBind_regs (k : Nat) (f : Binding → Binding) (s : State) : (modBind k f s).regs = s.regs := rfl
@[simp] theorem modBind_mb (k : Nat) (f : Binding → Binding) (s : State) : (modBind k f s).mb = s.mb := rfl
@[simp] theorem modBind_fw (k : Nat) (f : Binding → Binding) (s : State) : (modBind k f s).fw = s.fw := rfl
@[simp] theorem modBind_ev (k : Nat) (f : Binding → Binding) (s : State) : (modBind k f s).ev = s.ev := rfl
@[simp] theorem modBind_parts (k : Nat) (f : Binding → Binding) (s : State) : (modBind k f s).parts = s.parts := rfl
@[simp] theorem modBind_funcs (k : Nat) (f : Binding → Binding) (s : State) : (modBind k f s).funcs = s.funcs := rfl
@[simp] theorem modBind_ti (k : Nat) (f : Binding → Binding) (s : State) : (modBind k f s).ti = { s.ti with binds := tmod s.ti.binds k f } := rfl
@[simp] theorem modBind_mem (k : Nat) (f : Binding → Binding) (s : State) : (modBind k f s).mem = s.mem := rfl
@[simp] theorem modBind_tiers (k : Nat) (f : Binding → Binding) (s : State) : (modBind k f s).tiers = s.tiers := rfl
@[simp] theorem modBind_xl (k : Nat) (f : Binding → Binding) (s : State) : (modBind k f s).xl = s.xl := rfl
@[simp] theorem modBind_jl (k : Nat) (f : Binding → Binding) (s : State) : (modBind k f s).jl = s.jl := rfl
@[simp] theorem modBind_qe (k : Nat) (f : Binding → Binding) (s : State) : (modBind k f s).qe = s.qe := rfl
@[simp] theorem modBind_pp (k : Nat) (f : Binding → Binding) (s : State) : (modBind k f s).pp = s.pp := rfl
@[simp] theorem modBind_sec (k : Nat) (f : Binding → Binding) (s : State) : (modBind k f s).sec = s.sec := rfl
@[simp] theorem modBind_pm (k : Nat) (f : Binding → Binding) (s : State) : (modBind k f s).pm = s.pm := rfl
@[simp] theorem modBind_cu (k : Nat) (f : Binding → Binding) (s : State) : (modBind k f s).cu = s.cu := rfl
@[simp] theorem modBind_sb (k : Nat) (f : Binding → Binding) (s : State) : (modBind k f s).sb = s.sb := rfl
@[simp] theorem modBind_ck (k : Nat) (f : Binding → Binding) (s : State) : (modBind k f s).ck = s.ck := rfl
@[simp] theorem modBind_out (k : Nat) (f : Binding → Binding) (s : State) : (modBind k f s).out = s.out := rfl
@[simp] theorem modBind_draws (k : Nat) (f : Binding → Binding) (s : State) : (modBind k f s).draws = s.draws := rfl
@[simp] theorem modBind_pending (k : Nat) (f : Binding → Binding) (s : State) : (modBind k f s).pending = s.pending := rfl

/-! ### setJob -/
@[simp] theorem setJob_chip (j : Nat) (x : Job) (s : State) : (setJob j x s).chip = s.chip := rfl
@[simp] theorem setJob_ep (j : Nat) (x : Job) (s : State) : (setJob j x s).ep = s.ep := rfl
@[simp] theorem setJob_regs (j : Nat) (x : Job) (s : State) : (setJob j x s).regs = s.regs := rfl
@[simp] theorem setJob_mb (j : Nat) (x : Job) (s : State) : (setJob j x s).mb = s.mb := rfl
@[simp] theorem setJob_fw (j : Nat) (x : Job) (s : State) : (setJob j x s).fw = s.fw := rfl
@[simp] theorem setJob_ev (j : Nat) (x : Job) (s : State) : (setJob j x s).ev = s.ev := rfl
@[simp] theorem setJob_parts (j : Nat) (x : Job) (s : State) : (setJob j x s).parts = s.parts := rfl
@[simp] theorem setJob_funcs (j : Nat) (x : Job) (s : State) : (setJob j x s).funcs = s.funcs := rfl
@[simp] theorem setJob_ti (j : Nat) (x : Job) (s : State) : (setJob j x s).ti = { s.ti with jobs := tset s.ti.jobs j x } := rfl
@[simp] theorem setJob_mem (j : Nat) (x : Job) (s : State) : (setJob j x s).mem = s.mem := rfl
@[simp] theorem setJob_tiers (j : Nat) (x : Job) (s : State) : (setJob j x s).tiers = s.tiers := rfl
@[simp] theorem setJob_xl (j : Nat) (x : Job) (s : State) : (setJob j x s).xl = s.xl := rfl
@[simp] theorem setJob_jl (j : Nat) (x : Job) (s : State) : (setJob j x s).jl = s.jl := rfl
@[simp] theorem setJob_qe (j : Nat) (x : Job) (s : State) : (setJob j x s).qe = s.qe := rfl
@[simp] theorem setJob_pp (j : Nat) (x : Job) (s : State) : (setJob j x s).pp = s.pp := rfl
@[simp] theorem setJob_sec (j : Nat) (x : Job) (s : State) : (setJob j x s).sec = s.sec := rfl
@[simp] theorem setJob_pm (j : Nat) (x : Job) (s : State) : (setJob j x s).pm = s.pm := rfl
@[simp] theorem setJob_cu (j : Nat) (x : Job) (s : State) : (setJob j x s).cu = s.cu := rfl
@[simp] theorem setJob_sb (j : Nat) (x : Job) (s : State) : (setJob j x s).sb = s.sb := rfl
@[simp] theorem setJob_ck (j : Nat) (x : Job) (s : State) : (setJob j x s).ck = s.ck := rfl
@[simp] theorem setJob_out (j : Nat) (x : Job) (s : State) : (setJob j x s).out = s.out := rfl
@[simp] theorem setJob_draws (j : Nat) (x : Job) (s : State) : (setJob j x s).draws = s.draws := rfl
@[simp] theorem setJob_pending (j : Nat) (x : Job) (s : State) : (setJob j x s).pending = s.pending := rfl

/-! ### modRc -/
@[simp] theorem modRc_chip (f : RollCall → RollCall) (s : State) : (modRc f s).chip = s.chip := rfl
@[simp] theorem modRc_ep (f : RollCall → RollCall) (s : State) : (modRc f s).ep = s.ep := rfl
@[simp] theorem modRc_regs (f : RollCall → RollCall) (s : State) : (modRc f s).regs = s.regs := rfl
@[simp] theorem modRc_mb (f : RollCall → RollCall) (s : State) : (modRc f s).mb = s.mb := rfl
@[simp] theorem modRc_fw (f : RollCall → RollCall) (s : State) : (modRc f s).fw = s.fw := rfl
@[simp] theorem modRc_ev (f : RollCall → RollCall) (s : State) : (modRc f s).ev = s.ev := rfl
@[simp] theorem modRc_parts (f : RollCall → RollCall) (s : State) : (modRc f s).parts = s.parts := rfl
@[simp] theorem modRc_funcs (f : RollCall → RollCall) (s : State) : (modRc f s).funcs = s.funcs := rfl
@[simp] theorem modRc_ti (f : RollCall → RollCall) (s : State) : (modRc f s).ti = s.ti := rfl
@[simp] theorem modRc_mem (f : RollCall → RollCall) (s : State) : (modRc f s).mem = s.mem := rfl
@[simp] theorem modRc_tiers (f : RollCall → RollCall) (s : State) : (modRc f s).tiers = s.tiers := rfl
@[simp] theorem modRc_xl (f : RollCall → RollCall) (s : State) : (modRc f s).xl = s.xl := rfl
@[simp] theorem modRc_jl (f : RollCall → RollCall) (s : State) : (modRc f s).jl = { s.jl with rc := f s.jl.rc } := rfl
@[simp] theorem modRc_qe (f : RollCall → RollCall) (s : State) : (modRc f s).qe = s.qe := rfl
@[simp] theorem modRc_pp (f : RollCall → RollCall) (s : State) : (modRc f s).pp = s.pp := rfl
@[simp] theorem modRc_sec (f : RollCall → RollCall) (s : State) : (modRc f s).sec = s.sec := rfl
@[simp] theorem modRc_pm (f : RollCall → RollCall) (s : State) : (modRc f s).pm = s.pm := rfl
@[simp] theorem modRc_cu (f : RollCall → RollCall) (s : State) : (modRc f s).cu = s.cu := rfl
@[simp] theorem modRc_sb (f : RollCall → RollCall) (s : State) : (modRc f s).sb = s.sb := rfl
@[simp] theorem modRc_ck (f : RollCall → RollCall) (s : State) : (modRc f s).ck = s.ck := rfl
@[simp] theorem modRc_out (f : RollCall → RollCall) (s : State) : (modRc f s).out = s.out := rfl
@[simp] theorem modRc_draws (f : RollCall → RollCall) (s : State) : (modRc f s).draws = s.draws := rfl
@[simp] theorem modRc_pending (f : RollCall → RollCall) (s : State) : (modRc f s).pending = s.pending := rfl

/-! ### setCause -/
@[simp] theorem setCause_chip (bit : Nat) (s : State) : (setCause bit s).chip = { s.chip with cause := s.chip.cause ||| 2 ^ bit } := rfl
@[simp] theorem setCause_ep (bit : Nat) (s : State) : (setCause bit s).ep = s.ep := rfl
@[simp] theorem setCause_regs (bit : Nat) (s : State) : (setCause bit s).regs = s.regs := rfl
@[simp] theorem setCause_mb (bit : Nat) (s : State) : (setCause bit s).mb = s.mb := rfl
@[simp] theorem setCause_fw (bit : Nat) (s : State) : (setCause bit s).fw = s.fw := rfl
@[simp] theorem setCause_ev (bit : Nat) (s : State) : (setCause bit s).ev = s.ev := rfl
@[simp] theorem setCause_parts (bit : Nat) (s : State) : (setCause bit s).parts = s.parts := rfl
@[simp] theorem setCause_funcs (bit : Nat) (s : State) : (setCause bit s).funcs = s.funcs := rfl
@[simp] theorem setCause_ti (bit : Nat) (s : State) : (setCause bit s).ti = s.ti := rfl
@[simp] theorem setCause_mem (bit : Nat) (s : State) : (setCause bit s).mem = s.mem := rfl
@[simp] theorem setCause_tiers (bit : Nat) (s : State) : (setCause bit s).tiers = s.tiers := rfl
@[simp] theorem setCause_xl (bit : Nat) (s : State) : (setCause bit s).xl = s.xl := rfl
@[simp] theorem setCause_jl (bit : Nat) (s : State) : (setCause bit s).jl = s.jl := rfl
@[simp] theorem setCause_qe (bit : Nat) (s : State) : (setCause bit s).qe = s.qe := rfl
@[simp] theorem setCause_pp (bit : Nat) (s : State) : (setCause bit s).pp = s.pp := rfl
@[simp] theorem setCause_sec (bit : Nat) (s : State) : (setCause bit s).sec = s.sec := rfl
@[simp] theorem setCause_pm (bit : Nat) (s : State) : (setCause bit s).pm = s.pm := rfl
@[simp] theorem setCause_cu (bit : Nat) (s : State) : (setCause bit s).cu = s.cu := rfl
@[simp] theorem setCause_sb (bit : Nat) (s : State) : (setCause bit s).sb = s.sb := rfl
@[simp] theorem setCause_ck (bit : Nat) (s : State) : (setCause bit s).ck = s.ck := rfl
@[simp] theorem setCause_out (bit : Nat) (s : State) : (setCause bit s).out = s.out := rfl
@[simp] theorem setCause_draws (bit : Nat) (s : State) : (setCause bit s).draws = s.draws := rfl
@[simp] theorem setCause_pending (bit : Nat) (s : State) : (setCause bit s).pending = s.pending := rfl

/-! ### dropFault -/
@[simp] theorem dropFault_chip (part tag : Nat) (s : State) : (dropFault part tag s).chip = s.chip := rfl
@[simp] theorem dropFault_ep (part tag : Nat) (s : State) : (dropFault part tag s).ep = s.ep := rfl
@[simp] theorem dropFault_regs (part tag : Nat) (s : State) : (dropFault part tag s).regs = s.regs := rfl
@[simp] theorem dropFault_mb (part tag : Nat) (s : State) : (dropFault part tag s).mb = s.mb := rfl
@[simp] theorem dropFault_fw (part tag : Nat) (s : State) : (dropFault part tag s).fw = s.fw := rfl
@[simp] theorem dropFault_ev (part tag : Nat) (s : State) : (dropFault part tag s).ev = s.ev := rfl
@[simp] theorem dropFault_parts (part tag : Nat) (s : State) : (dropFault part tag s).parts = s.parts := rfl
@[simp] theorem dropFault_funcs (part tag : Nat) (s : State) : (dropFault part tag s).funcs = s.funcs := rfl
@[simp] theorem dropFault_ti (part tag : Nat) (s : State) : (dropFault part tag s).ti = s.ti := rfl
@[simp] theorem dropFault_mem (part tag : Nat) (s : State) : (dropFault part tag s).mem = s.mem := rfl
@[simp] theorem dropFault_tiers (part tag : Nat) (s : State) : (dropFault part tag s).tiers = s.tiers := rfl
@[simp] theorem dropFault_xl (part tag : Nat) (s : State) : (dropFault part tag s).xl = { s.xl with faults := s.xl.faults.filter (fun f => !(f.part == part && f.tag == tag)) } := rfl
@[simp] theorem dropFault_jl (part tag : Nat) (s : State) : (dropFault part tag s).jl = s.jl := rfl
@[simp] theorem dropFault_qe (part tag : Nat) (s : State) : (dropFault part tag s).qe = s.qe := rfl
@[simp] theorem dropFault_pp (part tag : Nat) (s : State) : (dropFault part tag s).pp = s.pp := rfl
@[simp] theorem dropFault_sec (part tag : Nat) (s : State) : (dropFault part tag s).sec = s.sec := rfl
@[simp] theorem dropFault_pm (part tag : Nat) (s : State) : (dropFault part tag s).pm = s.pm := rfl
@[simp] theorem dropFault_cu (part tag : Nat) (s : State) : (dropFault part tag s).cu = s.cu := rfl
@[simp] theorem dropFault_sb (part tag : Nat) (s : State) : (dropFault part tag s).sb = s.sb := rfl
@[simp] theorem dropFault_ck (part tag : Nat) (s : State) : (dropFault part tag s).ck = s.ck := rfl
@[simp] theorem dropFault_out (part tag : Nat) (s : State) : (dropFault part tag s).out = s.out := rfl
@[simp] theorem dropFault_draws (part tag : Nat) (s : State) : (dropFault part tag s).draws = s.draws := rfl
@[simp] theorem dropFault_pending (part tag : Nat) (s : State) : (dropFault part tag s).pending = s.pending := rfl

/-! ### unreserve -/
@[simp] theorem unreserve_chip (p : ReserveUse → Bool) (s : State) : (unreserve p s).chip = s.chip := rfl
@[simp] theorem unreserve_ep (p : ReserveUse → Bool) (s : State) : (unreserve p s).ep = s.ep := rfl
@[simp] theorem unreserve_regs (p : ReserveUse → Bool) (s : State) : (unreserve p s).regs = s.regs := rfl
@[simp] theorem unreserve_mb (p : ReserveUse → Bool) (s : State) : (unreserve p s).mb = s.mb := rfl
@[simp] theorem unreserve_fw (p : ReserveUse → Bool) (s : State) : (unreserve p s).fw = s.fw := rfl
@[simp] theorem unreserve_ev (p : ReserveUse → Bool) (s : State) : (unreserve p s).ev = s.ev := rfl
@[simp] theorem unreserve_parts (p : ReserveUse → Bool) (s : State) : (unreserve p s).parts = s.parts := rfl
@[simp] theorem unreserve_funcs (p : ReserveUse → Bool) (s : State) : (unreserve p s).funcs = s.funcs := rfl
@[simp] theorem unreserve_ti (p : ReserveUse → Bool) (s : State) : (unreserve p s).ti = s.ti := rfl
@[simp] theorem unreserve_mem (p : ReserveUse → Bool) (s : State) : (unreserve p s).mem = s.mem := rfl
@[simp] theorem unreserve_tiers (p : ReserveUse → Bool) (s : State) : (unreserve p s).tiers = { s.tiers with reserves := s.tiers.reserves.filter (fun r => !p r.use) } := rfl
@[simp] theorem unreserve_xl (p : ReserveUse → Bool) (s : State) : (unreserve p s).xl = s.xl := rfl
@[simp] theorem unreserve_jl (p : ReserveUse → Bool) (s : State) : (unreserve p s).jl = s.jl := rfl
@[simp] theorem unreserve_qe (p : ReserveUse → Bool) (s : State) : (unreserve p s).qe = s.qe := rfl
@[simp] theorem unreserve_pp (p : ReserveUse → Bool) (s : State) : (unreserve p s).pp = s.pp := rfl
@[simp] theorem unreserve_sec (p : ReserveUse → Bool) (s : State) : (unreserve p s).sec = s.sec := rfl
@[simp] theorem unreserve_pm (p : ReserveUse → Bool) (s : State) : (unreserve p s).pm = s.pm := rfl
@[simp] theorem unreserve_cu (p : ReserveUse → Bool) (s : State) : (unreserve p s).cu = s.cu := rfl
@[simp] theorem unreserve_sb (p : ReserveUse → Bool) (s : State) : (unreserve p s).sb = s.sb := rfl
@[simp] theorem unreserve_ck (p : ReserveUse → Bool) (s : State) : (unreserve p s).ck = s.ck := rfl
@[simp] theorem unreserve_out (p : ReserveUse → Bool) (s : State) : (unreserve p s).out = s.out := rfl
@[simp] theorem unreserve_draws (p : ReserveUse → Bool) (s : State) : (unreserve p s).draws = s.draws := rfl
@[simp] theorem unreserve_pending (p : ReserveUse → Bool) (s : State) : (unreserve p s).pending = s.pending := rfl

/-! ### tallyPut -/
@[simp] theorem tallyPut_chip (part h : Nat) (v : DWord) (s : State) : (tallyPut part h v s).chip = s.chip := rfl
@[simp] theorem tallyPut_ep (part h : Nat) (v : DWord) (s : State) : (tallyPut part h v s).ep = s.ep := rfl
@[simp] theorem tallyPut_regs (part h : Nat) (v : DWord) (s : State) : (tallyPut part h v s).regs = s.regs := rfl
@[simp] theorem tallyPut_mb (part h : Nat) (v : DWord) (s : State) : (tallyPut part h v s).mb = s.mb := rfl
@[simp] theorem tallyPut_fw (part h : Nat) (v : DWord) (s : State) : (tallyPut part h v s).fw = s.fw := rfl
@[simp] theorem tallyPut_ev (part h : Nat) (v : DWord) (s : State) : (tallyPut part h v s).ev = s.ev := rfl
@[simp] theorem tallyPut_parts (part h : Nat) (v : DWord) (s : State) : (tallyPut part h v s).parts = s.parts := rfl
@[simp] theorem tallyPut_funcs (part h : Nat) (v : DWord) (s : State) : (tallyPut part h v s).funcs = s.funcs := rfl
@[simp] theorem tallyPut_ti (part h : Nat) (v : DWord) (s : State) : (tallyPut part h v s).ti = s.ti := rfl
@[simp] theorem tallyPut_mem (part h : Nat) (v : DWord) (s : State) : (tallyPut part h v s).mem = s.mem := rfl
@[simp] theorem tallyPut_tiers (part h : Nat) (v : DWord) (s : State) : (tallyPut part h v s).tiers = s.tiers := rfl
@[simp] theorem tallyPut_xl (part h : Nat) (v : DWord) (s : State) : (tallyPut part h v s).xl = s.xl := rfl
@[simp] theorem tallyPut_jl (part h : Nat) (v : DWord) (s : State) : (tallyPut part h v s).jl = s.jl := rfl
@[simp] theorem tallyPut_qe (part h : Nat) (v : DWord) (s : State) : (tallyPut part h v s).qe = { s.qe with tallies := tset s.qe.tallies (tallyKey part h) v } := rfl
@[simp] theorem tallyPut_pp (part h : Nat) (v : DWord) (s : State) : (tallyPut part h v s).pp = s.pp := rfl
@[simp] theorem tallyPut_sec (part h : Nat) (v : DWord) (s : State) : (tallyPut part h v s).sec = s.sec := rfl
@[simp] theorem tallyPut_pm (part h : Nat) (v : DWord) (s : State) : (tallyPut part h v s).pm = s.pm := rfl
@[simp] theorem tallyPut_cu (part h : Nat) (v : DWord) (s : State) : (tallyPut part h v s).cu = s.cu := rfl
@[simp] theorem tallyPut_sb (part h : Nat) (v : DWord) (s : State) : (tallyPut part h v s).sb = s.sb := rfl
@[simp] theorem tallyPut_ck (part h : Nat) (v : DWord) (s : State) : (tallyPut part h v s).ck = s.ck := rfl
@[simp] theorem tallyPut_out (part h : Nat) (v : DWord) (s : State) : (tallyPut part h v s).out = s.out := rfl
@[simp] theorem tallyPut_draws (part h : Nat) (v : DWord) (s : State) : (tallyPut part h v s).draws = s.draws := rfl
@[simp] theorem tallyPut_pending (part h : Nat) (v : DWord) (s : State) : (tallyPut part h v s).pending = s.pending := rfl

end Sys2Proof.Machine
end

