-- ==== Sys2Proof/Laws/Registers.lean ====
section
/-! SUPPORT. Host writes that reach a register whole, and where the registers of the blocks stand. -/

namespace Sys2Proof.Machine

open Sys2Proof

variable {f off blk o size : Nat} {v : DWord} {s t : State} {r : Reg}

theorem unlocated_of_reg (h : HostReg f off blk o s) (ho : o < 0x4000) (ho4 : o % 4 = 0) (hr : regAt blk o s = some r) :
    unlocated f 0 off s = false := by
  obtain ⟨-, -, h3, h4, h5⟩ := h
  have e : o / 4 * 4 = o := by omega
  have e2 : o % 0x4000 = o := Nat.mod_eq_of_lt ho
  simp only [unlocated, h3, h4, h5, if_true, blockRead, e, e2]
  rw [if_neg (by omega)]
  by_cases hm : inMboxArea blk o = true
  · simp [read4, hm]
  · simp [read4, hm, wordAt, hr]

/-- A host's write to BAR0 does what its block does with it, unless the function may not act. -/
theorem regWrite_hostPut (h : HostReg f off blk o s) (hu : unlocated f 0 off s = false) (hs : sizeOk off size = true)
    (hq : ((isBk blk 0x100 64 && o == 0) || (blk == bkPipe 0 && o == 0x18)) = false ∨ mayAct f s = true) :
    regWrite (hostPut f off size v) s = match blockWrite blk o size v.toNat s with
      | .ok t => t
      | .drop c => dropWrite f blk c o false (if c = 2 then recBadAddr f off true false s else s) := by
  obtain ⟨h1, h2, h3, h4, h5⟩ := h
  have e : hostStores [] s = s := rfl
  have hq' : (((isBk blk 0x100 64 && o == 0) || (blk == bkPipe 0 && o == 0x18)) && !mayAct f s) = false := by
    rcases hq with hq | hq
    · rw [hq]; rfl
    · rw [hq]; simp
  simp only [regWrite, hostPut, e, h1, h2]
  simp only [bar0Write, h4, h5, hu, hs, hq', Nat.not_le.mpr h3]
  simp <;> rfl

/-- A write of a register's own width, in the normal view. -/
theorem blockWrite_whole {v : Nat} (hm : inMboxArea blk o = false) (ho : o < 0x4000) (hr : regAt blk o s = some r)
    (hw : size = if r.wide then 8 else 4) (hv : v < 2 ^ (8 * size)) (hz : v &&& r.rsv = 0) (he : regEffect blk o v s = some t) :
    blockWrite blk o size v s = .ok t := by
  have e2 : o % 0x4000 = o := Nat.mod_eq_of_lt ho
  by_cases hwide : r.wide = true
  · rw [if_pos hwide] at hw; subst hw
    have : isWide blk o s = true := by simp [isWide, e2, hr, hwide]
    simp [blockWrite, hm, this, viewWrite, ho, e2, normalWrite, hr, hwide, hz, he]
  · rw [if_neg hwide] at hw; subst hw
    have hv' : v % 2 ^ 32 = v := Nat.mod_eq_of_lt hv
    simp only [Bool.not_eq_true] at hwide
    simp only [blockWrite, hm, hv', viewWrite, ho, e2, normalWrite, wordAt, hr, he]
    simp [hz, hwide]

/-- A host's write of a whole register does what the register's block says. -/
theorem regWrite_whole (h : HostReg f off blk o s) (hr : regAt blk o s = some r)
    (he : regEffect blk o v.toNat s = some t) (ho : o < 0x4000) (ho4 : o % size = 0) (hm : inMboxArea blk o = false)
    (hw : size = if r.wide then 8 else 4) (hv : v.toNat < 2 ^ (8 * size)) (hz : v.toNat &&& r.rsv = 0)
    (hq : ((isBk blk 0x100 64 && o == 0) || (blk == bkPipe 0 && o == 0x18)) = false ∨ mayAct f s = true) :
    regWrite (hostPut f off size v) s = t := by
  have h48 : size = 4 ∨ size = 8 := by split at hw <;> simp [hw]
  have hu := unlocated_of_reg h ho (by rcases h48 with e | e <;> subst e <;> omega) hr
  have hs : sizeOk off size = true := by
    have := h.2.2.2.2
    rcases h48 with e | e <;> subst e <;> simp [sizeOk] <;> omega
  rw [regWrite_hostPut h hu hs hq, blockWrite_whole hm ho hr hw hv hz he]

theorem reaches_hostPut {p : Nat → Nat → Bool} (h : HostReg f off blk o s) (ho : o < 0x4000) :
    reaches p (hostPut f off size v) s = p blk o := by
  obtain ⟨-, -, -, h4, h5⟩ := h
  simp [reaches, writeTarget, hostPut, h4, h5, Nat.mod_eq_of_lt ho]

/-! ## Where registers stand -/

theorem counterAt_low (h : o < 0x100) : counterAt blk o = none := by
  unfold counterAt
  simp only []
  split
  · rfl
  · rw [if_neg, if_neg] <;> (repeat' split) <;> omega

theorem regAt_low (h : o < 0x100) : regAt blk o s = ownReg blk o s := by
  rw [regAt, if_neg (by omega), if_neg (by omega), counterAt_low h]

theorem ownReg_dev : ownReg (bkDevice f) o s = devReg f o s := by
  simp [ownReg, bkDevice]

theorem isBk_false {b n : Nat} (h : blk < b ∨ b + n ≤ blk) : ¬isBk blk b n = true := by
  simp only [isBk, Bool.and_eq_true, decide_eq_true_eq]; omega

theorem isBk_true {b n : Nat} (h : b ≤ blk ∧ blk < b + n) : isBk blk b n = true := by
  simp only [isBk, Bool.and_eq_true, decide_eq_true_eq]; omega

theorem isBk_eq_false {b n : Nat} (h : blk < b ∨ b + n ≤ blk) : isBk blk b n = false := by
  cases e : isBk blk b n
  · rfl
  · exact absurd e (isBk_false h)

theorem inMboxArea_false (h : blk < 0x1000 ∨ 0x2000 ≤ blk) : inMboxArea blk o = false := by
  rw [inMboxArea, isBk_eq_false (by omega)]; rfl

/-- Registers outside the cipher blocks and the inject doorbell may be written by a function that is not ENABLED. -/
theorem notQuiet (h : blk < 0x100 ∨ 0x140 ≤ blk) (h2 : blk ≠ 0x14) :
    ((isBk blk 0x100 64 && o == 0) || (blk == bkPipe 0 && o == 0x18)) = false := by
  rw [isBk_eq_false (by omega)]
  simp [bkPipe, h2]

theorem ownReg_mbox {m : Nat} (h : m < 4096) : ownReg (bkMailbox m) o s = mboxReg m o s := by
  have e : bkMailbox m - 4096 = m := by unfold bkMailbox; omega
  rw [ownReg, if_neg (by unfold bkMailbox; omega), if_pos (by unfold bkMailbox; omega), e]

theorem ownReg_trans {p : Nat} (h : p < 64) : ownReg (bkTrans p) o s = transReg p o s := by
  have e : bkTrans p - 128 = p := by unfold bkTrans; omega
  rw [ownReg]
  iterate 8 rw [if_neg (by simp only [bkTrans, bkReset, bkPower, bkFirmware, bkRecorder, bkCkpt, bkRollCall]; omega)]
  iterate 6 rw [if_neg (isBk_false (by unfold bkTrans; omega))]
  rw [if_pos (isBk_true (by unfold bkTrans; omega)), e]

theorem ownReg_queue {p : Nat} (h : p < 64) : ownReg (bkQueue p) o s = queueReg p o s := by
  have e : bkQueue p - 192 = p := by unfold bkQueue; omega
  rw [ownReg]
  iterate 8 rw [if_neg (by simp only [bkQueue, bkReset, bkPower, bkFirmware, bkRecorder, bkCkpt, bkRollCall]; omega)]
  iterate 7 rw [if_neg (isBk_false (by unfold bkQueue; omega))]
  rw [if_pos (isBk_true (by unfold bkQueue; omega)), e]

theorem ownReg_cipher {p : Nat} (h : p < 64) : ownReg (bkCipher p) o s = cipherReg p o s := by
  have e : bkCipher p - 256 = p := by unfold bkCipher; omega
  rw [ownReg]
  iterate 8 rw [if_neg (by simp only [bkCipher, bkReset, bkPower, bkFirmware, bkRecorder, bkCkpt, bkRollCall]; omega)]
  iterate 8 rw [if_neg (isBk_false (by unfold bkCipher; omega))]
  rw [if_pos (isBk_true (by unfold bkCipher; omega)), e]

/-! ## Doorbells -/

/-- A doorbell write in a lane of BAR2 reaches the doorbell of its offset. -/
theorem regWrite_bell {lane idx n k : Nat} (h : MayRing f s) (hl : lane < 16) (hk : k = 0 ∨ k = 8 ∨ k = 16) (hn : n < 2 ^ 32)
    (hi : idx < 2 ^ 32) :
    regWrite (bellAccess (bell f lane idx n) k) s = match doorbell f (k / 8) (idx * 2 ^ 32 + n) s with
      | .ok t => t
      | .drop c => dropWrite f (bkQueue (funcPart f s)) c (lane * 0x1000 + k) true s := by
  obtain ⟨h1, h2, h3⟩ := h
  have e : hostStores [] s = s := rfl
  have ev : (BitVec.ofNat 64 (idx * 2 ^ 32 + n)).toNat = idx * 2 ^ 32 + n := by simp; omega
  have hs : isSlot (lane * 0x1000 + k) = false := by simp [isSlot]; omega
  have hd : isDoor ((lane * 0x1000 + k) / 8 * 8) = true := by simp [isDoor]; omega
  have ho : (lane * 0x1000 + k) % 0x1000 / 8 = k / 8 := by omega
  have ho8 : (lane * 0x1000 + k) % 8 = 0 := by omega
  simp only [regWrite, bellAccess, bell, e, h1, h2, ev]
  rw [if_neg (by simp), if_neg (by omega), if_pos trivial]
  simp only [bar2Write, hs, hd, bellWrite, h3, ho, ho8]
  rw [if_neg (by simp), if_pos trivial, if_neg (by simp), if_neg (by simp)]
  all_goals rfl

/-- An SQ doorbell that R243 does not drop. -/
theorem doorbell_sq {v : Nat} {q : Qp} (b1 : bitsOf 30 20 v = 0) (b2 : bitOf 31 v = false) (hq : qp? (v % 2 ^ 20) s = some q)
    (hp : q.part = funcPart f s) (hd : diff32 (v / 2 ^ 32) q.sqComp ≤ 2 ^ q.sqLog) :
    doorbell f 0 v s = .ok (sqBell (v % 2 ^ 20) (v / 2 ^ 32) q s) := by
  simp only [doorbell, b1, b2, hq]
  rw [if_neg (by simp), if_neg (by omega), if_neg (by simp [hp]), if_pos trivial, if_neg (by omega)]

/-- An RQ doorbell that R243 does not drop. -/
theorem doorbell_rq {v : Nat} {q : Qp} (b1 : bitsOf 30 20 v = 0) (b2 : bitOf 31 v = false) (hq : qp? (v % 2 ^ 20) s = some q)
    (hp : q.part = funcPart f s) (hd : diff32 (v / 2 ^ 32) q.rqCi ≤ 2 ^ q.rqLog) :
    doorbell f 1 v s = .ok (rqBell (v % 2 ^ 20) (v / 2 ^ 32) q s) := by
  simp only [doorbell, b1, b2, hq]
  rw [if_neg (by simp), if_neg (by omega), if_neg (by simp [hp]), if_neg (by omega), if_neg (by omega)]

/-- A CQ doorbell that R243 does not drop. -/
theorem doorbell_cq {v : Nat} {q : Cq} (b1 : bitsOf 30 20 v = 0) (hq : cq? (v % 2 ^ 20) s = some q) (hp : q.part = funcPart f s)
    (ht : v / 2 ^ 32 = q.tail ∨ before32 (v / 2 ^ 32) q.tail = true) :
    doorbell f 2 v s = .ok (cqBell (v % 2 ^ 20) (v / 2 ^ 32) (bitOf 31 v) q s) := by
  have hc : (v / 2 ^ 32 != q.tail && !before32 (v / 2 ^ 32) q.tail) = false := by
    generalize v / 2 ^ 32 = k at ht ⊢
    rcases ht with ht | ht <;> simp [ht]
  simp only [doorbell, b1, hq, hc]
  rw [if_neg (by simp), if_pos trivial, if_neg (by simp [hp])]

end Sys2Proof.Machine
end

