-- ==== Sys2Proof/Laws/Serve.lean ====
section
/-! SUPPORT. What serving a mailbox's request leads to, said once. -/

namespace Sys2Proof.Machine

open Sys2Proof

variable {c : Call} {op cursor : Nat} {r : Req} {s : State}

/-- A service whose checks pass does the opcode's own work. -/
theorem serve_of_serves (h : Serves c op r s) (k : Req → State → Ans) :
    serve c op k s = match k r (begun c op s) with
      | .reject st => replied c st Body.empty (begun c op s)
      | .ok t b => replied c Config.ok b t
      | .deferred t => replied c Config.deferred Body.empty t
      | .later t cm => runsOn c cm t
      | .wait => s := by
  obtain ⟨⟨h1, h2, h3, h4, h5, h6⟩, h7, h8, hl, h9, h10, h11⟩ := h
  have h2p : (proc? 2 s).pstate = .running := by simp_all [procUp]
  have hop : (proc? (opProc op) s).pstate = .running := by simp_all [procUp]
  have hd : procDown (opProc op) s = false := by simp_all [procUp, procDown]
  have hu : (!c.urgent && urgentWaiting s) = false := by cases h4 <;> simp_all
  subst h3
  simp only [boxOf] at h1 h2
  simp only [serve, h1, h2, hu, h6, h7, h8, hl, h9, h2p, Nat.not_le.mpr h5]
  simp [begun, serveProc, h9, replied, runsOn, hd, hop] <;> rfl

@[simp] theorem boxOf_begun : boxOf c (begun c op s) = { boxOf c s with proc := serveProc op s } := by
  simp [boxOf, begun, startService, mbox?, modMbox, bump]

@[simp] theorem callRef_begun : callRef c (begun c op s) = callRef c s := by
  have h : (boxOf c (begun c op s)).gen = (boxOf c s).gen := by rw [boxOf_begun]
  simp only [boxOf] at h
  simp only [callRef, h]

/-- A readback whose checks pass and whose cursor is sound answers a piece of its rows. -/
theorem serveRead_of_serves (h : Serves c op r s) (hc : CursorOk c op cursor r s) (rows : Req → State → List (List Nat)) :
    serveRead c op cursor rows s = paged c op cursor (rows r (begun c op s)) s := by
  have hcur : (mbox? (mbIx c.func c.urgent) (begun c op s)).cursors = (boxOf c s).cursors := by
    have e : (boxOf c (begun c op s)).cursors = (boxOf c s).cursors := by rw [boxOf_begun]
    exact e
  have hno : ¬(cursor ≠ 0 ∧ !(boxOf c s).cursors.contains (op, cursor)) := by
    rcases hc.1 with hc | hc <;> simp_all
  have hl : ¬(r.length < 8 ∧ (r.length ≠ 0 ∨ cursor ≠ 0)) := by have := hc.2; omega
  rw [serveRead, serve_of_serves h]
  simp only [pageRead, page, hcur, if_neg hno, if_neg hl]
  rfl

/-- Every mailbox row serves the opcode of its call. -/
theorem opcodeOf_serve (i : Instr) (h : opcodeOf i = some (c, op)) :
    ∃ k, ∀ s, exec i s = .next (serve c op k s) ∨ exec i s = done (serve c op k s) := by
  cases i <;> first
    | (cases h; done)
    | (cases h; exact ⟨_, fun _ => .inl rfl⟩)
    | (cases h; exact ⟨_, fun _ => .inr rfl⟩)

/-- What a mailbox row comes to where its service is known whatever its work. -/
theorem comes_of_serve {i : Instr} {t : State} (h : opcodeOf i = some (c, op)) (hk : ∀ k, serve c op k s = t) : Comes i s t := by
  obtain ⟨k, e⟩ := opcodeOf_serve i h
  rcases e s with e | e
  · exact .inl (e.trans (by rw [hk]))
  · exact .inr (e.trans (by rw [hk]; rfl))

/-- Work on benches whose cores run is not held up (R548). -/
theorem relay_up {part : Nat} {slots : List Nat} (h : benchesUp part slots s) (k : Ans) : relay part slots s k = k := by
  have h1 : (workBenches part slots s).any (fun b => benchDown b s) = false := by
    simp only [List.any_eq_false]
    intro b hb
    simp [(h b hb).1]
  have h2 : (workBenches part slots s).any (fun b => (proc? (benchProc b) s).pstate == .switching) = false := by
    simp only [List.any_eq_false]
    intro b hb
    simp [(h b hb).2]
  simp [relay, h1, h2]

theorem benchesUp_begun {part : Nat} {slots : List Nat} (h : benchesUp part slots s) : benchesUp part slots (begun c op s) := h

end Sys2Proof.Machine
end

