-- ==== Sys2Proof/WellFormed.lean ====
section
/-! DEFINITION. Well-formed commands: every number that names a unit of the part names one that exists. The payload
fields of a mailbox opcode are not restricted: the opcode's own checks answer them. -/

namespace Sys2Proof

/-- Functions 0 to 255 (R429). -/
def okFunc (n : Nat) : Bool := decide (n < 256)
/-- Links JL0 to JL63. -/
def okLink (n : Nat) : Bool := decide (n < 64)
def okHead (h : CtlHead) : Bool := decide (h.link < 64 ∧ h.ack < 4096 ∧ h.credVc < 4 ∧ h.cred < 64)
/-- Gangs 0 to 63 (R175). -/
def okGang (n : Nat) : Bool := decide (n < 64)
/-- GDDR7 channels GC0 to GC15 (R141). -/
def okChan (n : Nat) : Bool := decide (n < 16)
/-- CXL device indices 0 to 7 (R147). -/
def okCxl (n : Nat) : Bool := decide (n < 8)
/-- Ethernet ports ETH0 to ETH7. -/
def okPort (n : Nat) : Bool := decide (n < 8)
/-- The two I/O dies. -/
def okDie (n : Nat) : Bool := decide (n < 2)
/-- Port nodes 0 to 31 (R337). -/
def okNode (n : Nat) : Bool := decide (n < 32)
/-- Queue pair numbers (Table 1-8). -/
def okQpn (n : Nat) : Bool := decide (n < 1048576)
/-- Completion queue numbers (Table 1-8). -/
def okCqn (n : Nat) : Bool := decide (n < 65536)
/-- Partitions 0 to 63 (R29). -/
def okPart (n : Nat) : Bool := decide (n < 64)
/-- Firmware processors 0 to 18 (Table 16-3). -/
def okProc (n : Nat) : Bool := decide (n < 19)
/-- Tiles T0 to T127 (R17). -/
def okTile (n : Nat) : Bool := decide (n < 128)
/-- FIFOs SI0 to SI3, SO0 and SO1 (R84). -/
def okFifo (n : Nat) : Bool := decide (n < 6)
/-- Bench slots of a group (R100). -/
def okSlot (n : Nat) : Bool := decide (n < 16)
def okCall (c : Call) : Bool := okFunc c.func
def okMb (m : MbId) : Bool := okFunc m.func
def okCore : Core → Bool
  | .tile t => okTile t
  | .proc p => okProc p
def okAgent : Agent → Bool
  | .host f => okFunc f
  | .proc p => okProc p
/-- A register access: an agent that exists, and BAR0, BAR2 or BAR4 of it. -/
def okWrite (w : RegWrite) : Bool := okAgent w.agent && (w.bar == 0 || w.bar == 2 || w.bar == 4)
def okDoorbell (w : DoorbellWrite) : Bool := okFunc w.func && decide (w.lane < 65536)
/-- A frame's fields in their widths (Table 7-2). -/
def okFrame (f : JlFrame) : Bool := decide (f.type < 4 && f.vc < 4 && f.ctlRsvd < 4 && f.len < 256 && f.seq < 4096 && f.ack < 4096 && f.credVc < 4 && f.cred < 64 && f.gpos < 65536 && f.payload.length = 256)

/-- Well-formed commands. -/
def WellFormed : Instr → Bool
  | .registerWrite w => okWrite w
  | .unimplementedRead func _ _ _ => okFunc func
  | .badSizeRead func _ _ _ => okFunc func
  | .snap w => okWrite w
  | .errstatClear w => okWrite w
  | .mailboxGo w => okWrite w
  | .mailboxDone mb => okMb mb
  | .loadImage c _ _ => okCall c
  | .unloadImage c _ => okCall c
  | .reloadRegion c _ _ => okCall c
  | .bindStream c => okCall c
  | .unbindStream c _ _ _ => okCall c
  | .startJob c _ => okCall c
  | .cancelJob c _ => okCall c
  | .readBenches c _ => okCall c
  | .readBindings c _ => okCall c
  | .readJobs c _ => okCall c
  | .readGroups c _ => okCall c
  | .setQuantum c _ => okCall c
  | .pinGroup c => okCall c
  | .unpinGroup c => okCall c
  | .setPortWait c _ => okCall c
  | .loadDone part slot => okPart part && okSlot slot
  | .armedJobStart _ => true
  | .jobEnd _ => true
  | .jobTimeLimit _ => true
  | .quantumExpiry part => okPart part
  | .groupRestoreDone part => okPart part
  | .dmaStreamEnd tile fifo => okTile tile && okFifo fifo
  | .bundleIssue core _ => okCore core
  | .bundleResume core _ => okCore core
  | .mSequenceEnd tile _ => okTile tile
  | .tileDmaComplete tile _ => okTile tile
  | .readMemory c _ => okCall c
  | .readMemErrors c _ => okCall c
  | .migrateStart c _ _ _ => okCall c
  | .migrateRelease c _ => okCall c
  | .migrateAbort c _ => okCall c
  | .readMigrations c _ => okCall c
  | .setAllotment c _ => okCall c
  | .cxlAdd c _ => okCall c
  | .cxlRemove c _ => okCall c
  | .quarantineClear c _ => okCall c
  | .retrainChannel c _ => okCall c
  | .setScrub c _ _ => okCall c
  | .migrationCopyDone _ _ => true
  | .scrubRead _ _ _ => true
  | .edcFail ch _ _ _ => okChan ch
  | .tempDriftRetrain ch _ => okChan ch
  | .retrainDone ch _ _ _ _ => okChan ch
  | .cxlEventPoll dev _ => okCxl dev
  | .cxlDeviceLost dev => okCxl dev
  | .cxlRemoveDrainEnd dev => okCxl dev
  | .setTranslation c _ => okCall c
  | .readTranslation c _ => okCall c
  | .invalidate c _ => okCall c
  | .readFaults c _ => okCall c
  | .dmaTransferUnit _ _ => true
  | .walkComplete _ _ _ => true
  | .trFqhead w => okWrite w
  | .retry w => okWrite w
  | .fail w => okWrite w
  | .faultTimeout _ => true
  | .readLinks c _ => okCall c
  | .readGangs c _ => okCall c
  | .readRollcall c _ => okCall c
  | .readRoutes c _ => okCall c
  | .setGang c _ _ _ _ => okCall c
  | .grantGang c _ => okCall c
  | .gangWithdraw c _ => okCall c
  | .setVisTimeout c _ _ => okCall c
  | .rollcallRun c => okCall c
  | .setRollcall c _ => okCall c
  | .setRedundancy c _ => okCall c
  | .recalLink c _ _ => okCall c
  | .setRoute c _ _ => okCall c
  | .setLinkThresh c _ _ => okCall c
  | .signalDetect link => okLink link
  | .hello h _ => okHead h
  | .helloResend link => okLink link
  | .trainingTimeout link => okLink link
  | .jlDataFrame link fr => okLink link && okFrame fr
  | .jlNak h seq => okHead h && decide (seq < 4096)
  | .nakResend link => okLink link
  | .replayTimer link => okLink link
  | .lossOfSignal link => okLink link
  | .reform h _ => okHead h
  | .reformAck h _ => okHead h
  | .reformResend gang => okGang gang
  | .recalDone link _ => okLink link
  | .failedLinkRetry link => okLink link
  | .periodicRecal link => okLink link
  | .visAck gang => okGang gang
  | .readData gang => okGang gang
  | .visTimeout gang _ => okGang gang
  | .fwd gang => okGang gang
  | .tokenMsg gang => okGang gang
  | .holdMsg gang => okGang gang
  | .holdResend => true
  | .returnMsg gang => okGang gang
  | .loopMsg gang => okGang gang
  | .rollcallAnswerTimeout gang => okGang gang
  | .resultMsg gang => okGang gang
  | .createQp c => okCall c
  | .modifyQp c _ _ ctx => okCall c && ctx.length == 255
  | .destroyQp c _ => okCall c
  | .readQp c _ => okCall c
  | .createCq c _ _ _ _ _ => okCall c
  | .destroyCq c _ => okCall c
  | .readCq c _ => okCall c
  | .issuePass c _ => okCall c
  | .revokePass c _ => okCall c
  | .passDrained _ => true
  | .readPasses c _ => okCall c
  | .tallySet c _ _ => okCall c
  | .tallyRead c _ _ _ => okCall c
  | .setQueueGrant c _ _ _ _ => okCall c
  | .sqDb w => okDoorbell w
  | .rqDb w => okDoorbell w
  | .cqDb w => okDoorbell w
  | .cqArm w => okDoorbell w
  | .doorbellRetry _ _ => true
  | .cqModerationTimer cqn => okCqn cqn
  | .waitRelease qpn => okQpn qpn
  | .qeTcvalue w => okWrite w
  | .qeTcadd w => okWrite w
  | .ptSend _ => true
  | .ptWrite _ => true
  | .ptReadReq _ => true
  | .ptReadResp _ => true
  | .ptFadd _ => true
  | .ptCas _ => true
  | .ptAtomicResp _ => true
  | .ptAck _ => true
  | .placementDone qpn _ => okQpn qpn
  | .ackTimer qpn => okQpn qpn
  | .rtoExpiry qpn _ => okQpn qpn
  | .rnrWaitExpiry qpn => okQpn qpn
  | .pathPenaltyEnd qpn _ => okQpn qpn
  | .rocePacket _ => true
  | .fencePeer c _ => okCall c
  | .unfencePeer c _ => okCall c
  | .readFences c _ => okCall c
  | .readPaths c _ => okCall c
  | .readCc c _ => okCall c
  | .setCc c _ => okCall c
  | .setPtPort c _ => okCall c
  | .ptPortGraceEnd => true
  | .createGroup c => okCall c
  | .destroyGroup c _ => okCall c
  | .setGroupMode c _ _ _ => okCall c
  | .readCollGroups c _ => okCall c
  | .readCollectives c _ => okCall c
  | .setAccumShare c _ => okCall c
  | .collAdmit _ => true
  | .collData _ => true
  | .collCredit _ => true
  | .collAbort _ => true
  | .collPeerTimeout _ => true
  | .chunkFinished _ _ => true
  | .collComplete _ => true
  | .collEnd _ => true
  | .readPorts c _ => okCall c
  | .setPort c _ _ => okCall c
  | .writeRules c _ _ _ _ _ => okCall c
  | .commitRules c => okCall c
  | .discardStaged c => okCall c
  | .readRules c _ => okCall c
  | .setTxq c _ _ => okCall c
  | .setNode c _ _ _ => okCall c
  | .setTxGrant c _ _ _ _ _ => okCall c
  | .readSched c _ => okCall c
  | .setMeter c _ _ _ => okCall c
  | .readMeters c _ => okCall c
  | .setTimetable c _ _ => okCall c
  | .readTimetable c _ => okCall c
  | .setGateClock c _ _ => okCall c
  | .readGateClock c _ => okCall c
  | .setHistogram c _ _ _ _ => okCall c
  | .readHistogram c _ => okCall c
  | .setReportCard c _ => okCall c
  | .takeReportCard c => okCall c
  | .readReportCard c _ => okCall c
  | .setPunt c _ _ => okCall c
  | .setRefill c _ => okCall c
  | .ppInject w => okWrite w
  | .ethFrameRx node _ _ => okNode node
  | .fragEntryExpiry die _ => okDie die
  | .refill => true
  | .txFrameSelect node _ => okNode node
  | .gateChange port => okPort port
  | .reportCardPeriod func => okFunc func
  | .readStorage c _ => okCall c
  | .readStorageErrlog c _ => okCall c
  | .storageConnect c _ _ => okCall c
  | .storageDisconnect c _ => okCall c
  | .nsCreate c _ _ _ _ => okCall c
  | .nsDestroy c _ => okCall c
  | .nsAttach c _ _ => okCall c
  | .nsDetach c _ _ => okCall c
  | .nsSetCache c _ _ _ => okCall c
  | .storageRestart c _ _ _ => okCall c
  | .setStoragePower c _ _ _ => okCall c
  | .setClassLimit c _ => okCall c
  | .setStorageArb c _ _ _ => okCall c
  | .setStorageMode c _ => okCall c
  | .taskGo w => okWrite w
  | .storagePick _ => true
  | .targetResponse _ _ => true
  | .keepAlive _ _ => true
  | .reconnectAttempt _ _ _ => true
  | .spsIdle func => okFunc func
  | .spsExitDone func _ => okFunc func
  | .sbspCmd _ => true
  | .xferRdy _ => true
  | .sbspData _ => true
  | .sbspNak _ => true
  | .sbspWaitTimeout => true
  | .ckptSetup c _ _ _ _ => okCall c
  | .ckptTeardown c _ => okCall c
  | .ckptSave c _ => okCall c
  | .ckptRestore c _ => okCall c
  | .ckptRebuild c _ => okCall c
  | .ckptCancel c _ => okCall c
  | .ckptRead c _ => okCall c
  | .setStaging c _ _ => okCall c
  | .ckptSetTrust c _ => okCall c
  | .ckptSetRate c _ => okCall c
  | .ckptArmedStart _ => true
  | .captureDone _ => true
  | .sealDone _ => true
  | .drainDone _ => true
  | .parityMsg _ => true
  | .mirrorMsg _ => true
  | .parityAck _ => true
  | .shardRecord _ _ => true
  | .manifestCommit _ => true
  | .rebuildReq _ => true
  | .rebuildData _ => true
  | .refuseMsg _ => true
  | .ckptJobTimeout _ => true
  | .ckptRestoreDone _ => true
  | .readSecurity c _ => okCall c
  | .readIdentity c _ => okCall c
  | .keyLoad c => okCall c
  | .keyErase c _ => okCall c
  | .readKeys c _ => okCall c
  | .setCipherRing c _ _ _ => okCall c
  | .readCipherRing c _ => okCall c
  | .setKeyPolicy c _ _ => okCall c
  | .svnCommit c _ => okCall c
  | .keyRevoke c _ => okCall c
  | .cipherCoreEnable c _ => okCall c
  | .ceRingdb w => okWrite w
  | .descriptorDone part _ _ => okPart part
  | .getVersion _ => true
  | .getCapabilities _ => true
  | .negotiateAlgorithms _ => true
  | .getDigests _ => true
  | .getCertificate _ => true
  | .challenge _ _ => true
  | .getMeasurements _ _ => true
  | .doeAbort => true
  | .partCreate c => okCall c
  | .partDestroy c => okCall c
  | .partDestroyDone part => okPart part
  | .partSetExpert c _ => okCall c
  | .partSetSlots c _ => okCall c
  | .readPartitions c _ => okCall c
  | .readFunctions c _ => okCall c
  | .funcAssign c _ => okCall c
  | .funcEnable c _ => okCall c
  | .funcDisable c _ => okCall c
  | .flr func => okFunc func
  | .vfEnableClear => true
  | .hotReset _ => true
  | .quiesceEnd func => okFunc func
  | .quiesceTimeout func => okFunc func
  | .hostReadCompletion _ _ _ => true
  | .completionTimeout _ => true
  | .zeroLengthRead func => okFunc func
  | .heldAccessResume func => okFunc func
  | .msixUnmask func _ => okFunc func
  | .readDevice c _ => okCall c
  | .readModes c _ => okCall c
  | .readEvents c _ _ _ _ => okCall c
  | .readEventLimits c _ => okCall c
  | .readFlashLog c _ => okCall c
  | .evtFlush c => okCall c
  | .evtSetLimit c _ _ _ => okCall c
  | .readFirmware c _ => okCall c
  | .readCrashdump c _ _ => okCall c
  | .fwStage c _ _ => okCall c
  | .fwFlash c _ => okCall c
  | .fwActivate c _ => okCall c
  | .fwCancel c => okCall c
  | .fwDumpClear c _ => okCall c
  | .fwRecoveryLoad c _ _ => okCall c
  | .fwSwitch p => okProc p
  | .fwSwitchDone p => okProc p
  | .rollbackWindowEnd p => okProc p
  | .processorWatchdog p => okProc p
  | .processorRestarted p => okProc p
  | .epochSwitch => true
  | .modeAckTimeout _ => true
  | .stagedDiscard _ => true
  | .faultFlushEnd => true
  | .pwrfailAssert _ => true
  | .pwrfailDeassert => true
  | .powerFailFlushEnd => true
  | .deviceReset c => okCall c
  | .softResetFire => true
  | .readReset c _ => okCall c
  | .blockReset c => okCall c
  | .blockIdle _ _ _ => true
  | .powerOnReset => true
  | .brownOut _ => true
  | .perstN => true
  | .sysRstN => true
  | .systemWatchdog => true
  | .debugReset _ => true
  | .clockFailure _ => true
  | .optionLoadDone _ => true
  | .rootPllLock => true
  | .resetRelease => true
  | .bootImageRead => true
  | .gddr7TrainingDone ch _ _ => okChan ch
  | .endpointReady _ _ _ => true
  | .readPower c _ => okCall c
  | .setLatencyTol c _ => okCall c
  | .setPowerLimit c _ => okCall c
  | .setThermal c _ => okCall c
  | .setPstateLimit c _ => okCall c
  | .controlPeriod => true
  | .wake _ => true
  | .powerSample _ _ => true
  | .thermalSample _ _ => true
  | .emergencyClear => true
  | .wearCharge => true
  | .wearRecordWrite => true
  | .i3cRead _ => true
  | .idleFrame link fr => okLink link && okFrame fr
  | .configurationWrite func _ => okFunc func
  | .doeDiscovery _ => true
  | .cxlMediaReady dev _ => okCxl dev
  | .portLinkState node _ => okNode node

end Sys2Proof
end

