-- ==== Sys2Proof/Tests/Slice0.lean ====
section
/-! SUPPORT. Small tests from the spec, the refusals of WellFormed, and states that meet the hypotheses of the statements. -/

open Sys2Proof Sys2Proof.Machine

set_option Elab.async false

namespace Sys2Proof.Tests

/-! ## Small states -/

/-- The part after boot: no reset is asserted, image 0 runs, PCIe and the fabric are up. -/
def up : State := { State.reset with chip := { Chip.fresh with
  asserted := none, loaded := true, refOk := true, bootDone := true, bootImage := some 0 } }

/-- The physical function's mailbox. -/
def c0 : Call := ⟨0, false, false, false⟩

/-- A request. -/
def rq (op part : Nat) (pay : List Byte) : Req :=
  { opcode := op, flags := (opExpert op).toNat, part := part, tag := 7, length := pay.length, rsvd := false, payload := pay }

/-- The state with a request waiting in that mailbox. -/
def ask (op part : Nat) (pay : List Byte) (s : State) : State :=
  { s with mb := [(0, { Mailbox.fresh 0 with state := 1, phase := .waiting, req := some (rq op part pay) })] }

/-- The request that waits there. -/
def rqOf (s : State) : Req := ((mbox? 0 s).req).getD (rq 0 0 [])

/-- A transfer of nothing, waiting to run. -/
def xf (st : XState) (k : OwnerKind) : Xfer :=
  { part := 0, agent := 0, unit := 0, ctx := 0, owner := ⟨k, 0, 0, 0⟩, write := false, atomic := 0, opa := 0, opb := 0, remote := false,
    probe := false, va := ⟨0, 0, 0, 0⟩, data := [], samePath := none, spOk := true, pos := 0, got := [], st := st, todo := [],
    hpieces := [], jpieces := [], zneed := [], zwait := [], rops := [], fails := [], admitted := true, heldSeq := 0, inner := false, firstFault := none }

/-- A fault with tag 1 of partition 0. -/
def fault1 : FaultRec :=
  { part := 0, xfer := 3, tag := 1, vaddr := 0, pte := 0, time := 0, length := 0, ctx := 0, reason := 0, level := 0, access := 0,
    agent := 0, unit := 0, written := true, ended := false }

def upXl (f : Xl → Xl) : State := { up with xl := f up.xl }
def upQe (f : Qe → Qe) : State := { up with qe := f up.qe }
def upTi (f : Tiles → Tiles) : State := { up with ti := f up.ti }
def upJl (f : Jl → Jl) : State := { up with jl := f up.jl }
def upPp (f : Pipe → Pipe) : State := { up with pp := f up.pp }
def upSec (f : Sec → Sec) : State := { up with sec := f up.sec }
def upPm (f : Pm → Pm) : State := { up with pm := f up.pm }
def upCu (f : Cu → Cu) : State := { up with cu := f up.cu }
def upSb (f : Sb → Sb) : State := { up with sb := f up.sb }
def upCk (f : Ck → Ck) : State := { up with ck := f up.ck }
def upTr (f : Tiers → Tiers) : State := { up with tiers := f up.tiers }

/-- A queue pair in RTS with rings of 64 entries. -/
def qp1 : Qp := { Qp.fresh 0 1 with qstate := .rts }
def cq1 : Cq :=
  { part := 0, func := 0, base := 0, log := 4, vec := 0, modCount := 0, modTime := 0, tail := 1, released := 0, arm := none,
    timing := false, ovf := false, held := [], stalled := none }

def slot1 (w : WState) : SlotSt := { wstate := w, regions := [], staged := [], loads := [], reload := false, loadMb := none }
/-- Partition 0's group on bench 0, with one slot. -/
def group1 (w : WState) (p : GPhase) : Group :=
  { slots := [(0, slot1 w)], first := 0, phase := p, pinned := false, portWait := 64, quantumAt := 0, saved := [] }
def upGr (w : WState) (p : GPhase) : State := { up with
  parts := [(0, { Part.zero with slots := 1 })], ti := { Tiles.fresh with groups := [(0, group1 w p)] } }
def region1 : Region :=
  { tile := 0, kind := .weights, dest := 0, length := 64, src := 0, srcFmt := 0, cvt := 0, srcScale := 0, dstScale := 0, digest := none }
def jobReq1 : JobReq := { slots := [⟨0, 1, [0]⟩], limitUs := 5, tally := 0, cq := none, arm := some (1, 1) }
def job1 (j : JState) : Job := { part := 0, func := 0, req := jobReq1, jstate := j, ran := true }

/-- Addresses below 2^30 of partition 0 are mapped to the host's memory, and function 0 may send requests. -/
def mapped : State := { up with
  funcs := tset up.funcs 0 { Func.fresh 0 with bme := true }
  xl := { Xl.fresh with
    trans := [(0, { Trans.fresh with set := true })]
    tlb := [(0, [⟨0, 0, { tgt := 5, unit := 0, key := 0, addr := 0, r := true, w := true, hp := true, size := 30, pte := 0, level := 1 }⟩])] } }

theorem all_some {α : Type} {P : α → Prop} [DecidablePred P] {o : Option α} (h : o.all (fun x => decide (P x)) = true) :
    ∀ p, o = some p → P p := by
  rintro p rfl
  simpa using h

theorem get2 {α β : Type} {o : Option (α × β)} (h : o.isSome = true) : o = some ((o.get h).1, (o.get h).2) := (Option.some_get h).symm
theorem pair_eta {α β : Type} (p : α × β) : p = (p.1, p.2) := rfl
theorem get3 {α β γ : Type} {o : Option (α × β × γ)} (h : o.isSome = true) :
    o = some ((o.get h).1, (o.get h).2.1, (o.get h).2.2) := (Option.some_get h).symm

/-- A gang of link 0. -/
def gang1 (k : GangKind) (st : GState) : Gang :=
  { kind := k, members := [0], spares := [], gstate := st, grant := none, withdraw := none, timeoutUs := 50, gposTx := 0, gposRx := 0,
    spent := [], sendq := [], rxq := [], rxPart := [], inbox := [], tags := [], kept := [], resend := [], restart := 0, order := [],
    reforms := 0 }
/-- Gang 0 with link 0 in a state. -/
def upLink (l : LState) (g : Gang) : State := upJl (fun j => { j with
  links := tset j.links 0 { Link.fresh with lstate := l, gang := some 0 }, gangs := [(0, g)] })
def frame1 (type : Nat) : JlFrame :=
  { type := type, vc := 0, sop := true, eop := true, ctlRsvd := 0, len := 8, seq := 0, ack := 4095, credVc := 0, cred := 0, gpos := 0,
    payload := List.replicate 256 0, crc := 0 }
def msg1 (op : Nat) (data : List Byte) : JMsg := { op := op, flags := 0, tag := 5, len := data.length, dst := 0, addr := 0, data := data }
/-- Gang 0 with a message of its partner in hand. -/
def upMsg (m : JMsg) : State := upLink .active { gang1 .peer .up with inbox := [m] }
/-- A roll-call message of a kind. -/
def roll1 (kind : Nat) : JMsg := msg1 6 (RcMsg.bytes { rcMsg kind up with next := 9, head := 0x5704000000000001 })
def mig1 (m : MigState) : Mig :=
  { part := 0, src := ⟨.gddr, 0, 65536⟩, dst := ⟨.gddr, 65536, 65536⟩, rate := 0, mstate := m, copied := 0, bad := 0 }
/-- Every GDDR7 channel serves. -/
def chans (c : CState) : Tab Chan := (List.range 16).map (fun n => (n, { Chan.fresh with cstate := c }))

theorem crcBit_lt {p c : Nat} (hp : p < 2 ^ 64) (h : c < 2 ^ 64) : crcBit p c < 2 ^ 64 := by
  unfold crcBit
  split
  · exact Nat.xor_lt_two_pow (by omega) hp
  · omega

theorem crc64_lt (bs : List Byte) : crc64 bs < 2 ^ 64 := by
  refine Nat.xor_lt_two_pow ?_ (by decide)
  suffices H : ∀ a, a < 2 ^ 64 → bs.foldl (crcByte 0xC96C5795D7870F42) a < 2 ^ 64 from H _ (by decide)
  induction bs with
  | nil => exact fun a h => h
  | cons b bs ih =>
    intro a h
    refine ih _ ?_
    unfold crcByte
    iterate 8 refine crcBit_lt (by decide) ?_
    exact Nat.xor_lt_two_pow h (by have := b.isLt; omega)

/-- A frame whose CRC is computed checks; one whose CRC is one more does not. -/
theorem sealed_ok (f : JlFrame) : frameOk (sealFrame f) = true := by
  have h := crc64_lt (frameBody f)
  have e : frameBody (sealFrame f) = frameBody f := rfl
  simp only [frameOk, e]
  simp [sealFrame, BitVec.toNat_ofNat] <;> omega

theorem sealed_bad (f : JlFrame) : frameOk { sealFrame f with crc := (sealFrame f).crc + 1 } = false := by
  have h := crc64_lt (frameBody f)
  have e : frameBody { sealFrame f with crc := (sealFrame f).crc + 1 } = frameBody f := rfl
  simp only [frameOk, e]
  simp [sealFrame, BitVec.toNat_ofNat, BitVec.toNat_add]
  omega

theorem crcBit_lt32 {p c : Nat} (hp : p < 2 ^ 32) (h : c < 2 ^ 32) : crcBit p c < 2 ^ 32 := by
  unfold crcBit
  split
  · exact Nat.xor_lt_two_pow (by omega) hp
  · omega

theorem crc32_lt (bs : List Byte) : crc32 bs < 2 ^ 32 := by
  refine Nat.xor_lt_two_pow ?_ (by decide)
  suffices H : ∀ a, a < 2 ^ 32 → bs.foldl (crcByte 0xEDB88320) a < 2 ^ 32 from H _ (by decide)
  induction bs with
  | nil => exact fun a h => h
  | cons b bs ih =>
    intro a h
    refine ih _ ?_
    unfold crcByte
    iterate 8 refine crcBit_lt32 (by decide) ?_
    exact Nat.xor_lt_two_pow h (by have := b.isLt; omega)

/-- A request's context with some bytes set. -/
def ctx1 (l : List (Nat × Byte)) : List Byte := l.foldl (fun b e => b.set e.1 e.2) (List.replicate 256 0)

/-- A packet that has arrived for queue pair 5. -/
def arrived1 (op : Byte) : Arrived :=
  { die := 0, port := 0, src := 9, ce := false, udpSrc := 0, qpn := 5, loc := false, roce := false, pool := 8, room := 0,
    bytes := [0, op] ++ List.replicate 62 0 }
def upArr (op : Byte) : State := upQe (fun q => { q with qps := [(5, qp1)], cqs := [(0, cq1)], arrived := [arrived1 op] })
def upQp (q : Qp) : State := upQe (fun e => { e with qps := [(5, q)], cqs := [(0, cq1)] })
/-- A group of two ranks over the roll call. -/
def cgroup1 : CGroup :=
  { part := 0, tag := 7, n := 2, rank := 0, fanin := 2, depth := 2, unit := 0, modes := [(0, 0)], nres := 0, resLen := 0, halves := 0,
    tmoMs := 1000, edges := [⟨1, 1, 2⟩], broken := none, nextSeq := 0, early := [], aborted := [], doomed := [] }
def cdesc1 : CollDesc :=
  { op := 2, red := 0, alg := 1, flags := 0, group := 0, nsrc := 1, ndst := 0, count := 128, srcFmt := 0, dstCvt := 0, rslot := 0,
    chunk := 128, progress := 0xFFFF, seed := 0, src := [⟨0, 0⟩], dst := [], zeroSet := false }
def coll1 : Coll :=
  { group := 0, seq := 0, qpn := 5, idx := 0, desc := cdesc1, admitted := true, txGrant := [], txUsed := [], txSent := [], rxGrant := [],
    rxBegun := [], starts := [], outq := [], works := [], landed := [], finished := [], bytes := 0, same := true, gen := 0, ended := none }
def upColl (c : Coll) : State := upCu (fun u => { u with groups := [(0, cgroup1)], colls := [(0, c)] })
def sched1 : SchedSet :=
  { parent := none, prio := 0, weight := 1, shaper := ⟨0, 1024, 0, 0⟩, tc := 0, dscp := 0, pcp := 0, qlimit := 0 }
def meter1 : MeterSet :=
  { mode := 0, aware := false, cir := 1, pir := 1, cbs := 16384, ebs := 16384, lenMode := 0, overhead := 0, actions := [0, 0, 0],
    dscps := [0, 0, 0] }
def card1 : Card := { set := ⟨0, 2, 10, 0, 0, 0⟩, seq := 0, missed := 0, stalled := none }

theorem leNat_leBytes (n v : Nat) : leNat (leBytes n v) = v % 256 ^ n := by
  induction n generalizing v with
  | zero => simp [leBytes, leNat, Nat.mod_one]
  | succ n ih =>
    have e : (BitVec.ofNat 8 v).toNat = v % 256 := by simp
    rw [leBytes, leNat, ih, e, Nat.pow_succ', Nat.mod_mul]

/-- 60 zero bytes with their check sequence: a frame that a port takes. -/
def eth1 : List Byte := List.replicate 60 0 ++ leBytes 4 (crc32 (List.replicate 60 0))

theorem eth1_ok : fcsOk eth1 = true := by
  have h : crc32 (List.replicate 60 0) < 256 ^ 4 := crc32_lt (List.replicate 60 0)
  have e : eth1.length - 4 = 60 := rfl
  have d : eth1.drop 60 = leBytes 4 (crc32 (List.replicate 60 0)) := rfl
  have t : eth1.take 60 = List.replicate 60 0 := rfl
  rw [fcsOk, e, d, t, leNat_leBytes, Nat.mod_eq_of_lt h, beq_self_eq_true]

def upEth : State := upPp (fun p => { p with up := [0] })

theorem eth1_taken : rxBad 0 eth1 upEth = false := by
  have l : eth1.length = 64 := rfl
  have p : isPause eth1 = false := by decide +kernel
  have m : (port? (nodePort 0) upEth).maxFrame = 9216 := by decide +kernel
  simp [rxBad, l, p, m, eth1_ok]

/-- A path from port node 0 to a queue with a frame. -/
def upTree (r : Option Room) : State := upPp (fun p => { p with up := [0], sched := [
  (0x100, { Sched.fresh with set := { sched1 with parent := some 0 } }), (0x1000, { Sched.fresh with set := { sched1 with parent := some 0 } }),
  (0x10000, { Sched.fresh with set := { sched1 with parent := some 0 }, frames := [⟨[1], 0, r, none⟩] })] })

/-- A serial packet made as Table 12-4 says checks. -/
theorem sbsp_ok (type tag : Nat) (pay : List Byte) (h : pay.length < 65536) : sbspOk (sbspPacket type tag pay) = true := by
  have hc : ∀ bs : List Byte, crc32c bs < 2 ^ 32 := by
    intro bs
    refine Nat.xor_lt_two_pow ?_ (by decide)
    suffices H : ∀ a, a < 2 ^ 32 → bs.foldl (crcByte 0x82F63B78) a < 2 ^ 32 from H _ (by decide)
    induction bs with
    | nil => exact fun a h => h
    | cons b bs ih =>
      intro a h
      refine ih _ ?_
      unfold crcByte
      iterate 8 refine crcBit_lt32 (by decide) ?_
      exact Nat.xor_lt_two_pow h (by have := b.isLt; omega)
  have hl : ∀ n v, (leBytes n v).length = n := by
    intro n
    induction n with
    | zero => intro v; rfl
    | succ n ih => intro v; simp [leBytes, ih]
  have h2 : ∀ v, leBytes 2 v = [BitVec.ofNat 8 v, BitVec.ofNat 8 (v / 256)] := fun v => rfl
  have h4 : ∀ v, v < 2 ^ 32 → leNat (leBytes 4 v) = v := fun v hv => by
    have hv' : v < 256 ^ 4 := hv
    rw [leNat_leBytes, Nat.mod_eq_of_lt hv']
  have hn : leNat [BitVec.ofNat 8 pay.length, BitVec.ofNat 8 (pay.length / 256)] = pay.length := by
    have := leNat_leBytes 2 pay.length
    rw [h2] at this
    rw [this]
    omega
  simp only [sbspOk, sbspPacket, h2, List.cons_append, List.nil_append]
  have hk : ∀ bs, leNat (leBytes 4 (crc32c bs)) = crc32c bs := fun bs => h4 _ (hc bs)
  simp [hl, hn, hk] <;> omega

/-- A body of a connection, its namespace and a task on it. -/
def conn1 : Conn :=
  { part := 0, addr := 0, typ := 0, subnqn := [1], hostnqn := [1], admin := 0, io := [1, 2, 3, 4], depth := 16, online := true,
    released := false, credits := [8, 4, 1], reached := 0, last := [], nextCid := 0, out := [] }
def ns1 : Ns := { conn := 0, nsid := 1, bs := 512, blocks := 64, nonatomic := false, attached := [0], cache := none, lines := [] }
def upNs (f : Sb → Sb) : State := upSb (fun b => f { b with conns := [(0, conn1)], nss := [(1, ns1)] })
def task1 : TaskCmd := { opc := 1, ctlf := 1, ns := 1, nblk := 1, lba := 0, addr := 0, htag := 0, tally := 0xFFFF, vec := 0, zeroSet := false }
def serial1 (opc : Nat) : Serial :=
  { tag := 7, cmd := { task1 with opc := opc }, data := [], grant := some (0, 512), ready := true, sent := 0, atTarget := false, cid := 0 }

/-- Addresses of partition 0 are mapped to GDDR7, which serves. -/
def gmapped : State := { up with
  tiers := { up.tiers with chans := chans .active }
  parts := [(0, { Part.zero with allot := [⟨.gddr, 0, 2 ^ 30⟩], staging := [(0, stagingLo, 2 ^ 22)] })]
  xl := { Xl.fresh with
    trans := [(0, { Trans.fresh with set := true })]
    tlb := [(0, [⟨0, 0, { tgt := 3, unit := 0, key := 0, addr := 0, r := true, w := true, hp := true, size := 30, pte := 0, level := 1 }⟩])] }
  sb := { Sb.fresh with conns := [(0, conn1)], nss := [(1, ns1)] } }
def setup1 : Setup :=
  { part := 0, runId := 5, addrs := [0x100000, 0x200000], halfSize := 65536, g := 0, n := 0, level := 0, halves := [Half.fresh, Half.fresh],
    duties := [], lastStep := 0 }
def ckRegion1 : CkRegion :=
  { name := [65], kind := 0, fmt := 0, ndim := 1, cvt := 0, shape := [64, 1, 1, 1], origin := [0, 0, 0, 0], extent := [64, 1, 1, 1],
    elem := 0x3000, scale := 0, zeroSet := false }
/-- A save descriptor at 0x4000, a restore descriptor at 0x5000, with their tables. -/
def upCkpt : State :=
  wrMem spGddr 0x4000 (leBytes 8 5 ++ leBytes 8 1 ++ leBytes 16 0 ++ leBytes 8 0x1000 ++ leBytes 8 0x2000 ++ List.replicate 40 0 ++
      leBytes 2 1 ++ leBytes 2 1 ++ leBytes 4 0 ++ leBytes 2 0xFFFF ++ leBytes 2 0xFFFF ++ leBytes 2 0xFFFF ++ leBytes 10 0 ++ [2, 1] ++ leBytes 14 0) <|
    wrMem spGddr 0x5000 (leBytes 8 5 ++ leBytes 16 0 ++ [1, 0, 0, 1] ++ leBytes 2 0xFFFF ++ leBytes 2 0xFFFF ++ leBytes 8 0 ++ leBytes 8 0x1000 ++
      leBytes 16 0) <|
    wrMem spGddr 0x1000 ckRegion1.bytes <| wrMem spGddr 0x2000 (Extent.bytes ⟨1, 1, 0⟩) { gmapped with ck := { Ck.fresh with setups := [(0, setup1)] } }

def okBody : Ans → Option Body
  | .ok _ b => some b
  | _ => none
def okState : Ans → State
  | .ok s _ => s
  | _ => up
theorem ok_of {a : Ans} {b : Body} (h : okBody a = some b) : a = .ok (okState a) b := by
  cases a <;> simp_all [okBody, okState]

def job2 (k : CkKind) (p : CkPhase) : CkJob := newJob 0 0 k p 0 0 0xFFFF 0xFFFF
def upJob (x : CkJob) : State := upCk (fun k => { k with setups := [(0, setup1)], jobs := [(1, x)] })
/-- A checkpoint message of a kind has come from device 2. -/
def upCkMsg (kind : Nat) : State := { upJob { job2 .rebuild .rebuild with usedStep := 1, streams := [⟨2, false, 0, none⟩] } with
  jl := { Jl.fresh with arrived := [⟨0, 2, 2, CkHead.bytes ⟨5, 1, 0, kind, 2, 0⟩⟩] } }

/-- Tile 0 runs job 1, its instruction memory begins with a syllable. -/
def upRun (w : Nat) (x : Tile) : State :=
  modTile 0 (fun _ => x) (wrMem (spImem 0) 0 (leBytes 4 w)
    { upGr .resident .resident with ti := { (upGr .resident .resident).ti with jobs := [(1, job1 .running)] } })
/-- The bundle at tile 0's PC as it is fetched. -/
def fetched (s : State) : Acc :=
  let b := fetchBundle (fun i => leNat (rdMem (spImem 0) (4 * i) 4 s)) 65535 8 (tile? 0 s).pc
  readSpan 0 [] (lineFuel (4 * b.length)) ⟨spImem 0, 4 * (tile? 0 s).pc⟩ (4 * b.length) s
def accOk : Acc → Bool
  | .ok _ _ => true
  | .stop _ _ => false
def accBytes : Acc → List Byte
  | .ok bs _ => bs
  | .stop _ _ => []
def accState : Acc → State
  | .ok _ s => s
  | .stop _ s => s
theorem acc_of {a : Acc} (h : accOk a = true) : a = .ok (accBytes a) (accState a) := by
  cases a <;> simp_all [accOk, accBytes, accState]
def upFwRun (w : Nat) (c : CoreRegs) : State := modProc 0 (fun p => { p with core := c }) (wrMem (spFwImem 0) 0 (leBytes 4 w) up)
def tile1 : Tile := { Tile.fresh with tstate := .run }
def dma1 : TileDma :=
  { va := 0, taddr := 0, len := 64, out := false, srcFmt := 0, cvt := 0, tally := 0, seed := 0, order := 0, xfer := none, landed := none }
/-- A staged image with a component for each target. -/
def staged1 : StagedImage := { build := 2, svn := 0, comps := (List.range 6).map (fun t => ⟨t, 4180, 0, 0, 0⟩), addr := 0, len := 4180 }
def upStaged (f : State → State) : State := f { up with fw := { up.fw with staged := some staged1 } }
def modChip (f : Chip → Chip) (s : State) : State := { s with chip := f s.chip }
/-- The header of an image with a component for each target. -/
def image1 : List Byte := imgMagic ++ [1, 0, 6, 0] ++ leBytes 12 0 ++ leBytes 4 4180 ++ List.replicate 36 0 ++
  (List.range 6).flatMap (fun t => leBytes 4 t ++ leBytes 4 4180 ++ List.replicate 56 0)
def sBoot : State := wrMem (spFlash 0) 0 image1 (wrMem (spFlash 1) 0 image1 (modChip (fun c => { c with bootImage := none, bootDone := false }) up))
/-- Every source asserts a reset (R489). -/
def armedUp : State := modChip (fun c => { c with opt := 1 }) up
theorem some_getD {α : Type} {o : Option α} {d : α} (h : o.isSome = true) : o = some (o.getD d) := by
  cases o <;> simp_all

/-- A descriptor whose result is computed. -/
def isDone (d : StartedDesc) : Bool := match d.st with
  | .computed _ _ _ _ => true
  | _ => false
def desc1 : StartedDesc :=
  { idx := 0, key := none, st := .computed [] [] 0 0
    desc := { op := 1, mode := 0, flags := 0, keySlot := 0, src := 0, dst := 0, length := 0, aadLen := 0, aad := 0, tag := 0, iv := [],
              tally := 0xFFFF, zeroSet := false } }

/-! ## Ill-formed commands: one for each check, which the check refuses, beside a well-formed neighbour -/

def w0 : RegWrite := { agent := .host 0, bar := 0, offset := 0, size := 4, value := 0, stores := [] }
def d0 : DoorbellWrite := { func := 0, lane := 0, size := 4, value := 0, stores := [] }

theorem test_wf_func : WellFormed (.flr 256) = false ∧ WellFormed (.flr 255) = true := by decide
theorem test_wf_link : WellFormed (.helloResend 64) = false ∧ WellFormed (.helloResend 63) = true := by decide
theorem test_wf_gang : WellFormed (.visAck 64) = false ∧ WellFormed (.visAck 63) = true := by decide
theorem test_wf_chan : WellFormed (.tempDriftRetrain 16 0) = false ∧ WellFormed (.tempDriftRetrain 15 0) = true := by decide
theorem test_wf_cxl : WellFormed (.cxlDeviceLost 8) = false ∧ WellFormed (.cxlDeviceLost 7) = true := by decide
theorem test_wf_port : WellFormed (.gateChange 8) = false ∧ WellFormed (.gateChange 7) = true := by decide
theorem test_wf_die : WellFormed (.fragEntryExpiry 2 0) = false ∧ WellFormed (.fragEntryExpiry 1 0) = true := by decide
theorem test_wf_node : WellFormed (.ethFrameRx 32 [] ⟨none, []⟩) = false ∧ WellFormed (.ethFrameRx 31 [] ⟨none, []⟩) = true := by decide
theorem test_wf_qpn : WellFormed (.ackTimer 1048576) = false ∧ WellFormed (.ackTimer 1048575) = true := by decide
theorem test_wf_cqn : WellFormed (.cqModerationTimer 65536) = false ∧ WellFormed (.cqModerationTimer 65535) = true := by decide
theorem test_wf_part : WellFormed (.partDestroyDone 64) = false ∧ WellFormed (.partDestroyDone 63) = true := by decide
theorem test_wf_proc : WellFormed (.fwSwitch 19) = false ∧ WellFormed (.fwSwitch 18) = true := by decide
theorem test_wf_tile : WellFormed (.dmaStreamEnd 128 0) = false ∧ WellFormed (.dmaStreamEnd 127 0) = true := by decide
theorem test_wf_fifo : WellFormed (.dmaStreamEnd 0 6) = false ∧ WellFormed (.dmaStreamEnd 0 5) = true := by decide
theorem test_wf_slot : WellFormed (.loadDone 0 16) = false ∧ WellFormed (.loadDone 0 15) = true := by decide
theorem test_wf_call : WellFormed (.pinGroup ⟨256, false, false, false⟩) = false ∧ WellFormed (.pinGroup ⟨255, true, true, true⟩) = true := by decide
theorem test_wf_mailbox : WellFormed (.mailboxDone ⟨256, false⟩) = false ∧ WellFormed (.mailboxDone ⟨255, true⟩) = true := by decide
theorem test_wf_context : WellFormed (.modifyQp c0 0 0 (List.replicate 254 0)) = false ∧
    WellFormed (.modifyQp c0 0 0 (List.replicate 255 0)) = true := by decide +kernel
theorem test_wf_core : WellFormed (.bundleIssue (.tile 128) []) = false ∧ WellFormed (.bundleIssue (.proc 19) []) = false ∧
    WellFormed (.bundleIssue (.proc 18) []) = true := by decide
theorem test_wf_agent : WellFormed (.snap { w0 with agent := .proc 19 }) = false ∧ WellFormed (.snap { w0 with agent := .host 256 }) = false ∧
    WellFormed (.snap { w0 with agent := .proc 18 }) = true := by decide
theorem test_wf_write : WellFormed (.registerWrite { w0 with bar := 1 }) = false ∧ WellFormed (.registerWrite { w0 with bar := 4 }) = true := by
  decide
theorem test_wf_doorbell : WellFormed (.sqDb { d0 with lane := 65536 }) = false ∧ WellFormed (.sqDb { d0 with lane := 65535 }) = true := by decide
theorem test_wf_frame : WellFormed (.jlDataFrame 0 { frame1 0 with seq := 4096 }) = false ∧
    WellFormed (.jlDataFrame 0 { frame1 0 with payload := [] }) = false ∧ WellFormed (.jlDataFrame 0 (frame1 0)) = true := by decide +kernel

/-- No row of the step table has bits, so no word spells a command. -/
theorem test_no_word_spells_a_command : decodeTableWord 32 0 = none ∧ decodeTableWord 8 255 = none := by decide

/-! ## The spec's worked examples -/

/-- The block of 02's example: magnitudes 13.7, 0.0371 and 0.0021 in units of 2^-30, then zeros. -/
def block1 : List FVal :=
  [.fin false 14710262988 (-30), .fin true 39835822 (-30), .fin false 2254857 (-30)] ++ List.replicate 29 FVal.zero

/-- 02, worked example: scale byte 0x7A, codes 0x7E, 0xB9 and 0x19 under control byte 0x88. -/
theorem test_mxfp8_block : (convertSeq 0x88 0 block1).codes.take 3 = [0x7E, 0xB9, 0x19] ∧ (convertSeq 0x88 0 block1).scales = [0x7A] := by
  decide +kernel

/-- 02: those codes decode to 14.0 and -0.03515625. -/
theorem test_mxfp8_values : scaled 0x7A (e4m3.decode 0x7E) = .fin false 14 (0) ∧ scaled 0x7A (e4m3.decode 0xB9) = .fin true 9 (-8) := by
  decide +kernel

/-- 02, under SR: the element takes the upper neighbour from a draw of 32,926 on. -/
theorem test_sr_boundary : (e4m3.convert true .sr 32926 (.fin true 39835822 (-25))).code = 0xBA ∧
    (e4m3.convert true .sr 32900 (.fin true 39835822 (-25))).code = 0xB9 := by decide +kernel

/-- 02: 449 into E4M3 is 448 with SAT and NaN without, 127.3 into INT8 is 127 (under SR). -/
theorem test_finite_overflow : (e4m3.convert true .sr 0 (.fin false 449 0)).code = 0x7E ∧ (e4m3.convert false .sr 0 (.fin false 449 0)).code = 0x7F ∧
    (intConvert false .sr 0xFFFF (.fin false 1273 0)).code = 127 := by decide +kernel

/-- Virtual function 17's mailbox with VEC 5, as in 19's example. -/
def up17 : State := { up with
  ep := { up.ep with vfEnable := true }
  funcs := tset up.funcs 17 { Func.fresh 17 with fstate := .enabled, bme := true }
  mb := [(34, { Mailbox.fresh 34 with vec := 5 })] }

/-- Table 19-3, first row: a write through the set view sets IRQ and keeps VEC. -/
theorem test_mb_ctl_set : (match exec (.registerWrite { w0 with agent := .host 17, offset := 0x16000, value := 0x80000000 }) up17 with
    | .next t => hostRead 17 0 0x12000 4 t
    | _ => none) = some 0x80050000 := by decide +kernel

/-- Table 19-3, third row: a toggle that gives VEC 69 is dropped whole with CAUSE 1 and OFFSET 0xE000. -/
theorem test_mb_ctl_toggle : (match exec (.registerWrite { w0 with agent := .host 17, offset := 0x1E000, value := 0x00400000 }) up17 with
    | .next t => (hostRead 17 0 0x12000 4 t, (tget t.regs.err (bkMailbox 34)).map (fun e => (e.valid, e.ovf, e.cause, e.offset)))
    | _ => (none, none)) = (some 0x50000, some (true, false, 1, 0xE000)) := by decide +kernel

/-- 18's example: fourteen pinned benches and two others at 375 W of 805 W come to duties 2/16 and 10/16 for a limit of 650 W. -/
theorem test_peak_clamp : (let s := throttleTo 650000 805000 375000 { up with ti := { Tiles.fresh with groups :=
      [(0, { group1 .resident .resident with pinned := true, slots := (List.range 14).map (fun k => (k, slot1 .resident)) }),
       (1, { group1 .resident .resident with first := 14, slots := (List.range 2).map (fun k => (k, slot1 .resident)) })] } }
    (s.pm.dutyFree, s.pm.dutyPinned)) = (2, 10) := by decide +kernel

/-! ## States that meet the hypotheses of the statements, one for each clause -/

theorem witness_RegisterAccessesComplete :
    (∃ (f : Nat) (off : Nat) (s : State), HostReg f off (bkDevice f) 0x28 s ∧ f < 256) ∧
    (∃ (f : Nat) (off : Nat) (blk : Nat) (s : State), HostReg f off blk 0x3F00 s ∧ blk ≠ bkRollCall) ∧
    (∃ (blk : Nat) (c : Nat), c < counterCount blk) ∧
    (∃ (f : Nat) (off : Nat) (blk : Nat) (s : State), HostReg f off blk 0x3F08 s) ∧
    (∃ (f : Nat) (off : Nat) (size : Nat) (s : State), s.chip.asserted = none ∧ decodes f s = true ∧ unlocated f 0 off s = true ∧ hostRead f 0 off size s = none) ∧
    (∃ (f : Nat) (off : Nat) (size : Nat) (s : State), s.chip.asserted = none ∧ decodes f s = true ∧ unlocated f 0 off s = false ∧ sizeOk off size = false) := by
  exact ⟨⟨0, 0x28, up, by unfold HostReg; decide +kernel, by decide +kernel⟩,
    ⟨0, 0x3F00, (bkDevice 0), up, by unfold HostReg; decide +kernel, by decide +kernel⟩,
    ⟨0x20, 63, by decide +kernel⟩,
    ⟨0, 0x3F08, (bkDevice 0), up, by unfold HostReg; decide +kernel⟩,
    ⟨0, 0x3000, 4, up, by decide +kernel⟩,
    ⟨0, 0x28, 3, up, by decide +kernel⟩⟩

def s2_1 : State := upXl (fun x => { x with faults := [fault1], xfers := [(3, xf .ready .tileDma)] })
def s2_2 : State := upQe (fun q => { q with tallies := [(1, 0)], tcsel := [(0, 1)] })
def s2_3 : State := upQe (fun q => { q with tallies := [(1, 0)], tcsel := [(0, 1)] })
def s2_4 : State := upSec (fun x => { x with rings := [(0, ⟨0, 4, 0, 0, 0, 0, 0, 0, .idle, []⟩)] })
def s2_5 : State := upPp (fun p => { p with punt := some ⟨0, 6, 0, 6⟩ })
theorem witness_PartitionRegistersComplete :
    (∃ (f : Nat) (off : Nat) (p : Nat) (v : Nat) (s : State), HostReg f off (bkTrans p) 0 s ∧ p < 64 ∧ (part? p s).isSome = true ∧ v < 4096 ∧ (v + 4096 - (trans? p s).head) % 4096 ≤ (trans? p s).unreleased) ∧
    (∃ (f : Nat) (off : Nat) (p : Nat) (tag : Nat) (k : FaultRec) (s : State), HostReg f off (bkTrans p) 0x10 s ∧ p < 64 ∧ tag < 65536 ∧ s.xl.faults.find? (fun f => f.part == p && f.tag == tag && f.written) = some k ∧ backPressure p s = false) ∧
    (∃ (f : Nat) (off : Nat) (p : Nat) (s : State), HostReg f off (bkQueue p) 8 s ∧ p < 64 ∧ tallyOk p (tgetD s.qe.tcsel p 0) s = true) ∧
    (∃ (f : Nat) (off : Nat) (p : Nat) (s : State), HostReg f off (bkQueue p) 0x10 s ∧ p < 64 ∧ tallyOk p (tgetD s.qe.tcsel p 0) s = true) ∧
    (∃ (f : Nat) (off : Nat) (p : Nat) (v : Nat) (c : CipherRing) (s : State), HostReg f off (bkCipher p) 0 s ∧ p < 64 ∧ mayAct f s = true ∧ v < 2 ^ 32 ∧ cring? p s = some c ∧ diff32 v c.di ≤ 2 ^ c.log ∧ aheadOf v c.db = true) ∧
    (∃ (off : Nat) (v : Nat) (s : State), HostReg 0 off (bkPipe 0) 0x18 s ∧ mayAct 0 s = true ∧ v < 2 ^ 32 ∧ s.pp.punt.isSome = true ∧ aheadOf v s.pp.injDb = true ∧ s.pp.injLoop = .idle) ∧
    (∃ (f : Nat) (k : Nat) (s : State), s.chip.asserted = none ∧ decodes f s = true ∧ mayAct f s = true ∧ k < 256 ∧ (slotRegs (taskKey f k) s).state ≠ 1 ∧ (slotRegs (taskKey f k) s).state ≠ 2 ∧ s.sb.serialMode = false ∧ disabled 2 s = false) := by
  exact ⟨⟨0, 0x800000, 0, 0, up, by unfold HostReg; decide +kernel, by decide +kernel⟩,
    ⟨0, 0x800010, 0, 1, ((s2_1.xl.faults.find? (fun f' => f'.part == 0 && f'.tag == 1 && f'.written)).get (by decide +kernel)), s2_1, by unfold HostReg; decide +kernel, by decide +kernel, by decide +kernel, (Option.some_get _).symm, by decide +kernel⟩,
    ⟨0, 0xC00008, 0, s2_2, by unfold HostReg; decide +kernel, by decide +kernel⟩,
    ⟨0, 0xC00010, 0, s2_3, by unfold HostReg; decide +kernel, by decide +kernel⟩,
    ⟨0, 0x1000000, 0, 16, ((cring? 0 s2_4).get (by decide +kernel)), s2_4, by unfold HostReg; decide +kernel, by decide +kernel, by decide +kernel, by decide +kernel, (Option.some_get _).symm, by decide +kernel⟩,
    ⟨0x140018, 1, s2_5, by unfold HostReg; decide +kernel, by decide +kernel⟩,
    ⟨0, 255, up, by decide +kernel⟩⟩

def sQ : State := upQe (fun q => { q with qps := [(5, qp1)], cqs := [(5, cq1)] })
def s3_3 : State := upQe (fun q => { q with qps := [(5, { qp1 with sqLoop := .sleeping 1 })] })
def s3_4 : State := upQe (fun q => { q with qps := [(5, { qp1 with rqLoop := .sleeping 8 })] })
theorem witness_DoorbellsComplete :
    (∃ (f : Nat) (lane : Nat) (idx : Nat) (n : Nat) (q : Qp) (s : State), MayRing f s ∧ lane < 16 ∧ n < 2 ^ 20 ∧ idx < 2 ^ 32 ∧ qp? n s = some q ∧ q.part = funcPart f s ∧ q.qstate ≠ .reset ∧ diff32 idx q.sqComp ≤ 2 ^ q.sqLog ∧ aheadOf idx q.sqDb = true) ∧
    (∃ (f : Nat) (lane : Nat) (idx : Nat) (n : Nat) (q : Qp) (s : State), MayRing f s ∧ lane < 16 ∧ n < 2 ^ 20 ∧ idx < 2 ^ 32 ∧ qp? n s = some q ∧ q.part = funcPart f s ∧ q.qstate ≠ .reset ∧ diff32 idx q.rqCi ≤ 2 ^ q.rqLog ∧ aheadOf idx q.rqDb = true) ∧
    (∃ (f : Nat) (lane : Nat) (idx : Nat) (n : Nat) (q : Cq) (s : State), MayRing f s ∧ lane < 16 ∧ n < 2 ^ 20 ∧ idx < 2 ^ 32 ∧ cq? n s = some q ∧ q.part = funcPart f s ∧ (idx = q.tail ∨ before32 idx q.tail = true) ∧ aheadOf idx q.released = true ∧ q.held = []) ∧
    (∃ (n : Nat) (k : Nat) (q : Qp) (s : State), qp? n s = some q ∧ q.sqLoop = .sleeping k) ∧
    (∃ (n : Nat) (k : Nat) (q : Qp) (s : State), qp? n s = some q ∧ q.rqLoop = .sleeping k) ∧
    (∃ (n : Nat) (k : Nat) (q : Qp) (bs : List Byte) (s : State), qp? n s = some q ∧ phaseOk (bs.getD 63 0) q.sqCi q.sqLog = false ∧ k < 8) ∧
    (∃ (n : Nat) (k : Nat) (q : Qp) (bs : List Byte) (s : State), qp? n s = some q ∧ phaseOk (bs.getD 63 0) q.sqCi q.sqLog = false ∧ 8 ≤ k) := by
  exact ⟨⟨0, 15, 64, 5, ((qp? 5 sQ).get (by decide +kernel)), sQ, by unfold MayRing; decide +kernel, by decide +kernel, by decide +kernel, by decide +kernel, (Option.some_get _).symm, by decide +kernel⟩,
    ⟨0, 15, 64, 5, ((qp? 5 sQ).get (by decide +kernel)), sQ, by unfold MayRing; decide +kernel, by decide +kernel, by decide +kernel, by decide +kernel, (Option.some_get _).symm, by decide +kernel⟩,
    ⟨0, 15, 1, 5, ((cq? 5 sQ).get (by decide +kernel)), sQ, by unfold MayRing; decide +kernel, by decide +kernel, by decide +kernel, by decide +kernel, (Option.some_get _).symm, by decide +kernel⟩,
    ⟨5, 1, ((qp? 5 s3_3).get (by decide +kernel)), s3_3, (Option.some_get _).symm, by decide +kernel⟩,
    ⟨5, 8, ((qp? 5 s3_4).get (by decide +kernel)), s3_4, (Option.some_get _).symm, by decide +kernel⟩,
    ⟨5, 7, ((qp? 5 sQ).get (by decide +kernel)), [], sQ, (Option.some_get _).symm, by decide +kernel⟩,
    ⟨5, 8, ((qp? 5 sQ).get (by decide +kernel)), [], sQ, (Option.some_get _).symm, by decide +kernel⟩⟩

def s4_1 : State := { up with mb := [(0, { Mailbox.fresh 0 with phase := .answered, resp := some ⟨0, 7, 0, Body.empty⟩ })] }
theorem witness_MailboxHandshake :
    (∃ (f : Nat) (off : Nat) (m : Nat) (s : State), HostReg f off (bkMailbox m) 0x2000 s ∧ m < 512 ∧ (mbox? m s).state ≠ 1) ∧
    (∃ (mb : MbId) (r : Resp) (s : State), (mbox? (mbIx mb.func mb.urgent) s).phase = .answered ∧ (mbox? (mbIx mb.func mb.urgent) s).resp = some r ∧ r.status = Config.ok) := by
  exact ⟨⟨0, 0x12000, 0, up, by unfold HostReg; decide +kernel, by decide +kernel⟩,
    ⟨(⟨0, false⟩ : MbId), (((mbox? (mbIx (⟨0, false⟩ : MbId).func (⟨0, false⟩ : MbId).urgent) s4_1).resp).get (by decide +kernel)), s4_1, by decide +kernel, (Option.some_get _).symm, by decide +kernel⟩⟩

def s5_0 : State := ask 0x5010 0 [] (upGr .empty .resident)
def s5_1 : State := ask 0x5011 0 [] (upGr .resident .resident)
def s5_2 : State := ask 0x5012 0 [] { upGr .resident .resident with ti := { (upGr .resident .resident).ti with jobs := [(1, job1 .running)] } }
def s5_3 : State := ask 0x5030 0 [] (upGr .resident .resident)
def s5_4 : State := ask 0x5031 0 [] { upGr .resident .resident with ti := { (upGr .resident .resident).ti with jobs := [(1, job1 .running)] } }
def s5_5 : State := upTi (fun t => { t with groups := [(0, { group1 .loading .resident with slots := [(0, { slot1 .loading with loadMb := some ⟨0, false, 0⟩ })] })] })
def s5_6 : State := { upTi (fun t => { t with jobs := [(1, job1 .armed)] }) with qe := { Qe.fresh with tallies := [(1, 1)] } }
def s5_7 : State := upTi (fun t => { t with jobs := [(1, job1 (.ending 0 0))] })
def s5_8 : State := upTi (fun t => { t with jobs := [(1, job1 .running)], groups := [(0, group1 .resident .resident)] })
theorem witness_ImagesAndJobsComplete :
    (∃ (c : Call) (slot : Nat) (regions : List Region) (r : Req) (st : SlotSt) (s : State), Serves c 0x5010 r s ∧ slotSt? r.part slot s = some st ∧ regionsBad regions = false ∧ st.wstate = .empty ∧ benchesUp r.part [slot] s) ∧
    (∃ (c : Call) (slot : Nat) (r : Req) (st : SlotSt) (s : State), Serves c 0x5011 r s ∧ slotSt? r.part slot s = some st ∧ (st.wstate = .empty ∨ st.wstate = .resident ∨ st.wstate = .saved) ∧ st.staged = [] ∧ slotBusy r.part slot s = false ∧ benchesUp r.part [slot] s) ∧
    (∃ (c : Call) (slot : Nat) (regions : List Region) (r : Req) (st : SlotSt) (s : State), Serves c 0x5012 r s ∧ slotSt? r.part slot s = some st ∧ regionsBad regions = false ∧ regions ≠ [] ∧ (∀ g ∈ regions, g.kind = .weights) ∧ st.wstate = .resident ∧ st.staged = [] ∧ slotBusy r.part slot s = true ∧ benchesUp r.part [slot] s) ∧
    (∃ (c : Call) (q : JobReq) (r : Req) (s : State), Serves c 0x5030 r s ∧ jobBad r.part q s = false ∧ (q.slots.filterMap (fun e => slotSt? r.part e.slot s)).any (fun x => x.wstate == .empty || (x.wstate == .loading && !x.reload)) = false ∧ ((q.slots.filterMap (fun e => slotSt? r.part e.slot s)).any (fun x => x.wstate == .reloadPending || x.wstate == .loading) = true ∨ tilesTaken r.part q s = false) ∧ benchesUp r.part (q.slots.map JobSlot.slot) s) ∧
    (∃ (c : Call) (job : Nat) (x : Job) (r : Req) (s : State), Serves c 0x5031 r s ∧ job? job s = some x ∧ x.part = r.part ∧ (x.jstate = .armed ∨ x.jstate = .held ∨ x.jstate = .running) ∧ benchesUp r.part (x.req.slots.map JobSlot.slot) s) ∧
    (∃ (part : Nat) (slot : Nat) (st : SlotSt) (m : MbRef) (s : State), slotSt? part slot s = some st ∧ st.wstate = .loading ∧ (∀ l ∈ st.loads, l.ended = some 0) ∧ st.loadMb = some m ∧ s.xl.xfers.any (fun e => e.2.owner.kind == .image && e.2.owner.a == part * 16 + slot) = false) ∧
    (∃ (job : Nat) (h : Nat) (v : Nat) (x : Job) (s : State), job? job s = some x ∧ x.jstate = .armed ∧ x.req.arm = some (h, v) ∧ tallyPassed x.part h v s = true) ∧
    (∃ (job : Nat) (code : Nat) (opspec : Nat) (x : Job) (s : State), job? job s = some x ∧ x.jstate = .ending code opspec ∧ jobDrained x s = true) ∧
    (∃ (job : Nat) (x : Job) (g : Group) (s : State), job? job s = some x ∧ x.jstate = .running ∧ x.req.limitUs ≠ 0 ∧ group? x.part s = some g ∧ g.phase = .resident) := by
  exact ⟨⟨c0, 0, [region1], (rqOf s5_0), ((slotSt? (rqOf s5_0).part 0 s5_0).get (by decide +kernel)), s5_0, by unfold Serves Waits; decide +kernel, (Option.some_get _).symm, by decide +kernel, by decide +kernel, by unfold benchesUp; decide +kernel⟩,
    ⟨c0, 0, (rqOf s5_1), ((slotSt? (rqOf s5_1).part 0 s5_1).get (by decide +kernel)), s5_1, by unfold Serves Waits; decide +kernel, (Option.some_get _).symm, by decide +kernel, by decide +kernel, by decide +kernel, by unfold benchesUp; decide +kernel⟩,
    ⟨c0, 0, [region1], (rqOf s5_2), ((slotSt? (rqOf s5_2).part 0 s5_2).get (by decide +kernel)), s5_2, by unfold Serves Waits; decide +kernel, (Option.some_get _).symm, by decide +kernel, by decide +kernel, by decide +kernel, by decide +kernel, by decide +kernel, by decide +kernel, by unfold benchesUp; decide +kernel⟩,
    ⟨c0, jobReq1, (rqOf s5_3), s5_3, by unfold Serves Waits; decide +kernel, by decide +kernel, by decide +kernel, by decide +kernel, by unfold benchesUp; decide +kernel⟩,
    ⟨c0, 1, ((job? 1 s5_4).get (by decide +kernel)), (rqOf s5_4), s5_4, by unfold Serves Waits; decide +kernel, (Option.some_get _).symm, by decide +kernel, by decide +kernel, by unfold benchesUp; decide +kernel⟩,
    ⟨0, 0, ((slotSt? 0 0 s5_5).get (by decide +kernel)), (⟨0, false, 0⟩ : MbRef), s5_5, (Option.some_get _).symm, by decide +kernel⟩,
    ⟨1, ((((job? 1 s5_6).get (by decide +kernel)).req.arm).get (by decide +kernel)).1, ((((job? 1 s5_6).get (by decide +kernel)).req.arm).get (by decide +kernel)).2, ((job? 1 s5_6).get (by decide +kernel)), s5_6, (Option.some_get _).symm, by decide +kernel, get2 _, by decide +kernel⟩,
    ⟨1, 0, 0, ((job? 1 s5_7).get (by decide +kernel)), s5_7, (Option.some_get _).symm, by decide +kernel⟩,
    ⟨1, ((job? 1 s5_8).get (by decide +kernel)), ((group? ((job? 1 s5_8).get (by decide +kernel)).part s5_8).get (by decide +kernel)), s5_8, (Option.some_get _).symm, by decide +kernel, by decide +kernel, (Option.some_get _).symm, by decide +kernel⟩⟩

def s6_0 : State := ask 0x5020 0 ([3, 0, 0, 0, 0, 0x41, 0, 0] ++ leBytes 8 0 ++ leBytes 8 256 ++ leBytes 4 64 ++ leBytes 4 9) (upGr .empty .resident)
def s6_1 : State := ask 0x5021 0 [] { upGr .empty .resident with ti := { (upGr .empty .resident).ti with binds := [(61, bindingOf 0 [4, 5, 7])] } }
def s6_2 : State := { upGr .empty .resident with ti := { (upGr .empty .resident).ti with binds := [(61, bindingOf 0 [4, 5, 7])] } }
def s6_3 : State := modTile 0 (fun x => { x with dma := [(3, { va := 0, taddr := 0, len := 64, out := false, srcFmt := 0, cvt := 0, tally := 0, seed := 0, order := 0, xfer := none, landed := some 0 })] }) (upGr .empty .resident)
def s6_4 : State := modTile 0 (fun x => { x with mseq := some ⟨0x670000, 1, 0, 0, 0, 0⟩ }) (upGr .empty .resident)
def s6_5 : State := modTile 0 (fun x => { x with mseq := some ⟨0x670000, 1, 0, 0, 0, 0⟩ }) (upGr .empty .resident)
theorem witness_StreamsComplete :
    (∃ (c : Call) (r : Req) (s : State), Serves c 0x5020 r s ∧ bindingBad (bindingOf r.part r.payload) s = false ∧ bind? (bindKey r.part (bindingOf r.part r.payload).slot (bindingOf r.part r.payload).tile (bindingOf r.part r.payload).fifo) s = none ∧ (bindingOf r.part r.payload).kind ≠ 1 ∧ (bindingOf r.part r.payload).seed ≠ 0 ∧ benchesUp r.part [(bindingOf r.part r.payload).slot] s) ∧
    (∃ (c : Call) (slot : Nat) (tile : Nat) (fifo : Nat) (b : Binding) (r : Req) (s : State), Serves c 0x5021 r s ∧ (slotSt? r.part slot s).isSome = true ∧ tile < 8 ∧ fifo < 6 ∧ bind? (bindKey r.part slot tile fifo) s = some b ∧ b.unbindMb = none ∧ benchesUp r.part [slot] s) ∧
    (∃ (tile : Nat) (fifo : Nat) (k : Nat) (b : Binding) (s : State), bindKeyAt tile fifo s = some k ∧ bind? k s = some b ∧ (b.kind = 3 ∨ b.kind = 4) ∧ b.length ≤ b.moved ∧ b.xfer = none) ∧
    (∃ (tile : Nat) (part : Nat) (slot : Nat) (rel : Nat) (n : Nat) (d : TileDma) (s : State), tget (tile? tile s).dma n = some d ∧ d.landed = some 0 ∧ d.tally ≠ 0xFFFF ∧ tilePlace tile s = some (part, slot, rel)) ∧
    (∃ (tile : Nat) (ecc : List EccHit) (q : MSeq) (e : MSeq) (p : Nat × Nat × Nat) (s : State), (tile? tile s).mseq = some q ∧ tilePlace tile s = some p ∧ (tile? tile (mRun tile ecc (q.steps + 1) s)).mseq = some e ∧ e.steps = 0) ∧
    (∃ (tile : Nat) (ecc : List EccHit) (q : MSeq) (p : Nat × Nat × Nat) (s : State), (tile? tile s).mseq = some q ∧ tilePlace tile s = some p ∧ (tile? tile (mRun tile ecc (q.steps + 1) s)).mseq = none) := by
  exact ⟨⟨c0, (rqOf s6_0), s6_0, by unfold Serves Waits; decide +kernel, by decide +kernel, by decide +kernel, by decide +kernel, by decide +kernel, by unfold benchesUp; decide +kernel⟩,
    ⟨c0, 0, 7, 5, ((bind? (bindKey (rqOf s6_1).part 0 7 5) s6_1).get (by decide +kernel)), (rqOf s6_1), s6_1, by unfold Serves Waits; decide +kernel, by decide +kernel, by decide +kernel, by decide +kernel, (Option.some_get _).symm, by decide +kernel, by unfold benchesUp; decide +kernel⟩,
    ⟨7, 5, ((bindKeyAt 7 5 s6_2).get (by decide +kernel)), ((bind? ((bindKeyAt 7 5 s6_2).get (by decide +kernel)) s6_2).get (by decide +kernel)), s6_2, (Option.some_get _).symm, (Option.some_get _).symm, by decide +kernel⟩,
    ⟨0, ((tilePlace 0 s6_3).get (by decide +kernel)).1, ((tilePlace 0 s6_3).get (by decide +kernel)).2.1, ((tilePlace 0 s6_3).get (by decide +kernel)).2.2, 3, ((tget (tile? 0 s6_3).dma 3).get (by decide +kernel)), s6_3, (Option.some_get _).symm, by decide +kernel, by decide +kernel, get3 _⟩,
    ⟨0, [], (((tile? 0 s6_4).mseq).get (by decide +kernel)), ((tile? 0 (mRun 0 [] 2 s6_4)).mseq.get (by decide +kernel)), ((tilePlace 0 s6_4).get (by decide +kernel)), s6_4, (Option.some_get _).symm, (Option.some_get _).symm, (Option.some_get _).symm, by decide +kernel⟩,
    ⟨0, [⟨.tile 0 0, .uncorrectable⟩], (((tile? 0 s6_5).mseq).get (by decide +kernel)), ((tilePlace 0 s6_5).get (by decide +kernel)), s6_5, (Option.some_get _).symm, (Option.some_get _).symm, by decide +kernel⟩⟩

def s7_0 : State := ask 0x5850 0 [] up
def s7_1 : State := ask 0x5851 0 [] (upGr .resident .resident)
def s7_2 : State := ask 0x5851 0 [] { upGr .resident .resident with ti := { Tiles.fresh with groups := [(0, { group1 .resident .resident with pinned := true })] } }
def s7_3 : State := ask 0x5852 0 [] (upGr .resident .resident)
def s7_4 : State := upTi (fun t => { t with groups := [(0, group1 .resident .resident), (1, group1 .resident .waiting)] })
def s7_5 : State := upGr .resident .restoring
theorem witness_GroupsComplete :
    (∃ (c : Call) (us : Nat) (r : Req) (s : State), Serves c 0x5850 r s ∧ 100 ≤ us ∧ us ≤ 100000) ∧
    (∃ (c : Call) (g : Group) (r : Req) (s : State), Serves c 0x5851 r s ∧ group? r.part s = some g ∧ g.pinned = false ∧ g.phase = .resident ∧ pinFits r.part s = true) ∧
    (∃ (c : Call) (g : Group) (r : Req) (s : State), Serves c 0x5851 r s ∧ group? r.part s = some g ∧ g.pinned = true ∧ slotsGranted s ≤ 16) ∧
    (∃ (c : Call) (n : Nat) (g : Group) (r : Req) (s : State), Serves c 0x5852 r s ∧ group? r.part s = some g ∧ 8 ≤ n ∧ n ≤ 256 ∧ benchesUp r.part (tkeys g.slots) s) ∧
    (∃ (part : Nat) (g : Group) (s : State), group? part s = some g ∧ g.phase = .resident ∧ g.pinned = false ∧ s.ti.groups.any (fun e => e.2.phase == .waiting && !e.2.slots.isEmpty) = true ∧ (∀ b ∈ benchesOf g, benchDown b s = false)) ∧
    (∃ (part : Nat) (g : Group) (s : State), group? part s = some g ∧ g.phase = .restoring ∧ areasHeld s = false) := by
  exact ⟨⟨c0, 100, (rqOf s7_0), s7_0, by unfold Serves Waits; decide +kernel, by decide +kernel⟩,
    ⟨c0, ((group? (rqOf s7_1).part s7_1).get (by decide +kernel)), (rqOf s7_1), s7_1, by unfold Serves Waits; decide +kernel, (Option.some_get _).symm, by decide +kernel⟩,
    ⟨c0, ((group? (rqOf s7_2).part s7_2).get (by decide +kernel)), (rqOf s7_2), s7_2, by unfold Serves Waits; decide +kernel, (Option.some_get _).symm, by decide +kernel⟩,
    ⟨c0, 256, ((group? (rqOf s7_3).part s7_3).get (by decide +kernel)), (rqOf s7_3), s7_3, by unfold Serves Waits; decide +kernel, (Option.some_get _).symm, by decide +kernel, by decide +kernel, by unfold benchesUp; decide +kernel⟩,
    ⟨0, ((group? 0 s7_4).get (by decide +kernel)), s7_4, (Option.some_get _).symm, by decide +kernel⟩,
    ⟨0, ((group? 0 s7_5).get (by decide +kernel)), s7_5, (Option.some_get _).symm, by decide +kernel⟩⟩

def s8_0 : State := ask 0x5040 0 [] up
def s8_1 : State := ask 0x5041 0 [] up
def s8_2 : State := ask 0x5042 0 [] up
def s8_3 : State := ask 0x5043 0 [] up
theorem witness_BenchReadbacksComplete :
    (∃ (c : Call) (cursor : Nat) (r : Req) (s : State), Serves c 0x5040 r s ∧ CursorOk c 0x5040 cursor r s) ∧
    (∃ (c : Call) (cursor : Nat) (r : Req) (s : State), Serves c 0x5041 r s ∧ CursorOk c 0x5041 cursor r s) ∧
    (∃ (c : Call) (cursor : Nat) (r : Req) (s : State), Serves c 0x5042 r s ∧ CursorOk c 0x5042 cursor r s) ∧
    (∃ (c : Call) (cursor : Nat) (r : Req) (s : State), Serves c 0x5043 r s ∧ CursorOk c 0x5043 cursor r s) := by
  exact ⟨⟨c0, 0, (rqOf s8_0), s8_0, by unfold Serves Waits; decide +kernel, by unfold CursorOk; decide +kernel⟩,
    ⟨c0, 0, (rqOf s8_1), s8_1, by unfold Serves Waits; decide +kernel, by unfold CursorOk; decide +kernel⟩,
    ⟨c0, 0, (rqOf s8_2), s8_2, by unfold Serves Waits; decide +kernel, by unfold CursorOk; decide +kernel⟩,
    ⟨c0, 0, (rqOf s8_3), s8_3, by unfold Serves Waits; decide +kernel, by unfold CursorOk; decide +kernel⟩⟩

def s9_0 : State := ask 0x1120 0 [] up
def s9_1 : State := ask 0x1110 0 [] ({ up with parts := [(0, { Part.zero with allot := [⟨.gddr, 0, 131072⟩] })] })
def s9_2 : State := ask 0x1111 0 [] (upTr (fun t => { t with migs := [(0, mig1 .redirecting)] }))
def s9_3 : State := ask 0x1112 0 [] (upTr (fun t => { t with migs := [(0, mig1 .copying)] }))
def s9_4 : State := upTr (fun t => { t with migs := [(0, mig1 .copying)] })
def s9_5 : State := upTr (fun t => { t with chans := chans .active, migs := [(0, mig1 .copying)] })
def s9_6 : State := ask 0x1100 0 [] up
def s9_7 : State := ask 0x1101 0 [] up
def s9_8 : State := ask 0x1113 0 [] up
theorem witness_TiersComplete :
    (∃ (c : Call) (ranges : List TierRange) (r : Req) (s : State), Serves c 0x1120 r s ∧ ranges.length ≤ 64 ∧ (∀ a ∈ ranges, allotOk r.part s a = true)) ∧
    (∃ (c : Call) (src : TierRange) (dst : TierRange) (r : Req) (s : State), Serves c 0x1110 r s ∧ src.size = dst.size ∧ src.size ≠ 0 ∧ src.size % 65536 = 0 ∧ src.size ≤ 2 ^ 38 ∧ migMay c r.part src s = true ∧ migMay c r.part dst s = true ∧ (src.tier == dst.tier && overlap src.base src.size dst.base dst.size) = false ∧ s.tiers.migs.any (fun e => migTouches src.tier src.base src.size e.2 || migTouches dst.tier dst.base dst.size e.2) = false ∧ s.tiers.migs.countP (fun e => e.2.mstate != .aborted) < 64) ∧
    (∃ (c : Call) (id : Nat) (m : Mig) (r : Req) (s : State), Serves c 0x1111 r s ∧ tget s.tiers.migs id = some m ∧ (c.func = 0 ∨ m.part = r.part) ∧ m.mstate ≠ .copying) ∧
    (∃ (c : Call) (id : Nat) (m : Mig) (r : Req) (s : State), Serves c 0x1112 r s ∧ tget s.tiers.migs id = some m ∧ (c.func = 0 ∨ m.part = r.part) ∧ m.mstate = .copying) ∧
    (∃ (id : Nat) (m : Mig) (s : State), tget s.tiers.migs id = some m) ∧
    (∃ (id : Nat) (m : Mig) (s : State), tget s.tiers.migs id = some m ∧ m.mstate = .copying ∧ rangeStops m.src s = false ∧ rangeStops m.dst s = false) ∧
    (∃ (c : Call) (cursor : Nat) (r : Req) (s : State), Serves c 0x1100 r s ∧ CursorOk c 0x1100 cursor r s) ∧
    (∃ (c : Call) (cursor : Nat) (r : Req) (s : State), Serves c 0x1101 r s ∧ CursorOk c 0x1101 cursor r s) ∧
    (∃ (c : Call) (cursor : Nat) (r : Req) (s : State), Serves c 0x1113 r s ∧ CursorOk c 0x1113 cursor r s) := by
  exact ⟨⟨c0, [⟨.gddr, 0, 65536⟩], (rqOf s9_0), s9_0, by unfold Serves Waits; decide +kernel, by decide +kernel⟩,
    ⟨c0, (⟨.gddr, 0, 65536⟩ : TierRange), (⟨.gddr, 65536, 65536⟩ : TierRange), (rqOf s9_1), s9_1, by unfold Serves Waits; decide +kernel, by decide +kernel⟩,
    ⟨c0, 0, ((tget s9_2.tiers.migs 0).get (by decide +kernel)), (rqOf s9_2), s9_2, by unfold Serves Waits; decide +kernel, (Option.some_get _).symm, by decide +kernel⟩,
    ⟨c0, 0, ((tget s9_3.tiers.migs 0).get (by decide +kernel)), (rqOf s9_3), s9_3, by unfold Serves Waits; decide +kernel, (Option.some_get _).symm, by decide +kernel⟩,
    ⟨0, ((tget s9_4.tiers.migs 0).get (by decide +kernel)), s9_4, (Option.some_get _).symm⟩,
    ⟨0, ((tget s9_5.tiers.migs 0).get (by decide +kernel)), s9_5, (Option.some_get _).symm, by decide +kernel⟩,
    ⟨c0, 0, (rqOf s9_6), s9_6, by unfold Serves Waits; decide +kernel, by unfold CursorOk; decide +kernel⟩,
    ⟨c0, 0, (rqOf s9_7), s9_7, by unfold Serves Waits; decide +kernel, by unfold CursorOk; decide +kernel⟩,
    ⟨c0, 0, (rqOf s9_8), s9_8, by unfold Serves Waits; decide +kernel, by unfold CursorOk; decide +kernel⟩⟩

def s10_0 : State := ask 0x1123 0 [] up
def s10_1 : State := ask 0x1851 0 [] up
def s10_2 : State := ask 0x1850 0 [] (upTr (fun t => { t with chans := chans .active }))
def s10_3 : State := upTr (fun t => { t with chans := chans .active })
def s10_5 : State := upTr (fun t => { t with chans := chans .active })
def s10_6 : State := upTr (fun t => { t with chans := chans .active })
def s10_7 : State := upTr (fun t => { t with chans := chans .active })
def s10_8 : State := upTr (fun t => { t with chans := chans .retraining })
theorem witness_ChannelsComplete :
    (∃ (c : Call) (r : Req) (s : State), Serves c 0x1123 r s) ∧
    (∃ (c : Call) (a : Nat) (b : Nat) (r : Req) (s : State), Serves c 0x1851 r s ∧ 60 ≤ a ∧ a ≤ 86400 ∧ 60 ≤ b ∧ b ≤ 86400) ∧
    (∃ (c : Call) (ch : Nat) (r : Req) (s : State), Serves c 0x1850 r s ∧ ch ≤ 15 ∧ (chan? ch s).cstate = .active) ∧
    (∃ (loc : LineLoc) (s : State), (locPlace loc).space ≠ spCxl ∧ unitBlock (locPlace loc) s = none ∧ quarantined (lineKey (locPlace loc)) s = false ∧ lineKey (locPlace loc) ∉ s.tiers.fatal ∧ ((locPlace loc).space = spGddr → domainOff 3 s = false)) ∧
    (∃ (ch : Nat) (addr : Nat) (fails : Nat) (s : State), (chan? ch s).cstate = .active ∧ addr / 4096 % 16 = ch ∧ addr < gddrSize s.tiers.density ∧ fails ≤ 4) ∧
    (∃ (ch : Nat) (addr : Nat) (fails : Nat) (s : State), (chan? ch s).cstate = .active ∧ addr / 4096 % 16 = ch ∧ addr < gddrSize s.tiers.density ∧ 5 ≤ fails) ∧
    (∃ (ch : Nat) (temp : Nat) (s : State), (chan? ch s).cstate = .active ∧ (chan? ch s).temp + 10 ≤ temp ∧ (chan? ch s).driftAt = none) ∧
    (∃ (ch : Nat) (temp : Nat) (holdNs : Nat) (s : State), (chan? ch s).cstate = .retraining ∧ (chan? ch s).mb = none ∧ temp < 256 ∧ holdNs ≤ 20000) := by
  exact ⟨⟨c0, (rqOf s10_0), s10_0, by unfold Serves Waits; decide +kernel⟩,
    ⟨c0, 60, 86400, (rqOf s10_1), s10_1, by unfold Serves Waits; decide +kernel, by decide +kernel⟩,
    ⟨c0, 15, (rqOf s10_2), s10_2, by unfold Serves Waits; decide +kernel, by decide +kernel⟩,
    ⟨(.gddr 0 : LineLoc), s10_3, by decide +kernel⟩,
    ⟨1, 4096, 4, s10_5, by decide +kernel⟩,
    ⟨1, 4096, 5, s10_6, by decide +kernel⟩,
    ⟨1, 10, s10_7, by decide +kernel⟩,
    ⟨1, 255, 20000, s10_8, by decide +kernel⟩⟩

def s11_1 : State := upTr (fun t => { t with cxl := tset t.cxl 0 ⟨.bringUp, 0, false, some ⟨0, false, 0⟩⟩ })
def s11_2 : State := ask 0x1122 0 [] (upTr (fun t => { t with cxl := tset t.cxl 0 ⟨.inService, 2 ^ 37, false, none⟩ }))
def s11_3 : State := upTr (fun t => { t with cxl := tset t.cxl 0 ⟨.removing, 0, false, some ⟨0, false, 0⟩⟩ })
def s11_4 : State := upTr (fun t => { t with cxl := tset t.cxl 0 ⟨.inService, 2 ^ 37, false, none⟩ })
def s11_5 : State := upTr (fun t => { t with cxl := tset t.cxl 0 ⟨.inService, 2 ^ 37, false, none⟩ })
theorem witness_CxlDevicesComplete :
    (∃ (dev : Nat) (m : MbRef) (s : State), (cxl? dev s).cstate = .bringUp ∧ (cxl? dev s).mb = some m) ∧
    (∃ (c : Call) (dev : Nat) (r : Req) (s : State), Serves c 0x1122 r s ∧ cxlIndexOk dev s = true ∧ (cxl? dev s).cstate = .inService ∧ s.parts.any (fun e => e.2.allot.any (fun a => a.tier == .cxl && a.base / 2 ^ 37 == dev)) = false ∧ s.tiers.migs.any (fun e => migTouches .cxl (dev * 2 ^ 37) (2 ^ 37) e.2) = false) ∧
    (∃ (dev : Nat) (m : MbRef) (s : State), (cxl? dev s).cstate = .removing ∧ (cxl? dev s).mb = some m) ∧
    (∃ (dev : Nat) (s : State), (cxl? dev s).cstate = .inService ∧ s.tiers.migs = []) ∧
    (∃ (dev : Nat) (s : State), (cxl? dev s).cstate = .inService) := by
  exact ⟨⟨0, (⟨0, false, 0⟩ : MbRef), s11_1, by decide +kernel⟩,
    ⟨c0, 0, (rqOf s11_2), s11_2, by unfold Serves Waits; decide +kernel, by decide +kernel⟩,
    ⟨0, (⟨0, false, 0⟩ : MbRef), s11_3, by decide +kernel⟩,
    ⟨0, s11_4, by decide +kernel⟩,
    ⟨0, s11_5, by decide +kernel⟩⟩

def s12_0 : State := ask 0x1200 0 [] up
def s12_1 : State := ask 0x1210 0 [] up
def s12_2 : State := ask 0x1201 0 [] up
def s12_3 : State := ask 0x1211 0 [] up
def s12_4 : State := upXl (fun x => { x with faults := [fault1], xfers := [(3, xf (.stalled 1) .tileDma)] })
theorem witness_TranslationComplete :
    (∃ (c : Call) (p : TransSet) (r : Req) (s : State), Serves c 0x1200 r s ∧ transOk r.part p s = true ∧ (trans? r.part s).unreleased = 0 ∧ stalledCount r.part s = 0) ∧
    (∃ (c : Call) (sc : InvScope) (r : Req) (s : State), Serves c 0x1210 r s ∧ scopeOk sc = true) ∧
    (∃ (c : Call) (cursor : Nat) (r : Req) (s : State), Serves c 0x1201 r s ∧ CursorOk c 0x1201 cursor r s) ∧
    (∃ (c : Call) (cursor : Nat) (r : Req) (s : State), Serves c 0x1211 r s ∧ CursorOk c 0x1211 cursor r s) ∧
    (∃ (x : Nat) (tag : Nat) (f : Xfer) (s : State), xfer? x s = some f ∧ f.st = .stalled tag) := by
  exact ⟨⟨c0, (⟨0, 1, 0, 0, 0, 60000⟩ : TransSet), (rqOf s12_0), s12_0, by unfold Serves Waits; decide +kernel, by decide +kernel⟩,
    ⟨c0, (.range 65536 65536 : InvScope), (rqOf s12_1), s12_1, by unfold Serves Waits; decide +kernel, by decide +kernel⟩,
    ⟨c0, 0, (rqOf s12_2), s12_2, by unfold Serves Waits; decide +kernel, by unfold CursorOk; decide +kernel⟩,
    ⟨c0, 0, (rqOf s12_3), s12_3, by unfold Serves Waits; decide +kernel, by unfold CursorOk; decide +kernel⟩,
    ⟨3, 1, ((xfer? 3 s12_4).get (by decide +kernel)), s12_4, (Option.some_get _).symm, by decide +kernel⟩⟩

def s13_0 : State := upXl (fun x => { x with walks := [(1, ⟨0, 0, 3, 0, 0, false⟩)] })
def s13_1 : State := upXl (fun x => { x with walks := [(1, ⟨0, 0, 3, 0, 0, false⟩)] })
def s13_2 : State := upXl (fun x => { x with hreqs := [(1, ⟨.walk, 0, 0, 16, 1⟩)] })
def s13_3 : State := upXl (fun x => { x with hreqs := [(1, ⟨.read, 0, 0, 64, 3⟩)], xfers := [(3, { xf .moving .tileDma with hpieces := [(1, ⟨0, 64⟩)] })] })
def s13_4 : State := { mapped with xl := { mapped.xl with lastPosted := [(0, 99)], xfers := [(3, { xf .settling .tileDma with zneed := [0] })] } }
theorem witness_HostRequestsComplete :
    (∃ (w : Nat) (k : Walk) (s : State), tget s.xl.walks w = some k) ∧
    (∃ (w : Nat) (k : Walk) (how : HostEnd) (s : State), tget s.xl.walks w = some k ∧ how ≠ .ok) ∧
    (∃ (tag : Nat) (q : HostReq) (s : State), tget s.xl.hreqs tag = some q) ∧
    (∃ (tag : Nat) (q : HostReq) (s : State), tget s.xl.hreqs tag = some q ∧ q.kind = .read) ∧
    (∃ (f : Nat) (addr : Nat) (tag : Nat) (x : Nat) (s : State), tget s.xl.lastPosted f = some addr ∧ hostTag f s = some tag ∧ zlrDue f s = [x] ∧ mayRequest f s = true) ∧
    (∃ (f : Nat) (s : State), mayRequest f s = true) := by
  exact ⟨⟨1, ((tget s13_0.xl.walks 1).get (by decide +kernel)), s13_0, (Option.some_get _).symm⟩,
    ⟨1, ((tget s13_1.xl.walks 1).get (by decide +kernel)), (.poisoned : HostEnd), s13_1, (Option.some_get _).symm, by decide +kernel⟩,
    ⟨1, ((tget s13_2.xl.hreqs 1).get (by decide +kernel)), s13_2, (Option.some_get _).symm⟩,
    ⟨1, ((tget s13_3.xl.hreqs 1).get (by decide +kernel)), s13_3, (Option.some_get _).symm, by decide +kernel⟩,
    ⟨0, ((tget s13_4.xl.lastPosted 0).get (by decide +kernel)), ((hostTag 0 s13_4).get (by decide +kernel)), 3, s13_4, (Option.some_get _).symm, (Option.some_get _).symm, by decide +kernel⟩,
    ⟨0, mapped, by decide +kernel⟩⟩

def s14_0 : State := upLink .down (gang1 .peer .forming)
def s14_1 : State := upLink .training (gang1 .peer .forming)
def s14_2 : State := upLink .training (gang1 .peer .forming)
def s14_3 : State := upLink .spare (gang1 .peer .up)
def s14_4 : State := upLink .failed (gang1 .peer .up)
def s14_5 : State := upLink .active (gang1 .peer .up)
def s14_6 : State := upLink .recal (gang1 .peer .up)
def s14_7 : State := modLink 0 (fun l => { l with backTo := some 0 }) (upLink .recal { gang1 .peer .up with members := [1] })
theorem witness_LinkTrainingComplete :
    (∃ (link : Nat) (s : State), (link? link s).lstate = .down ∧ (link? link s).gang.isSome = true ∧ s.pm.tripped = false) ∧
    (∃ (link : Nat) (s : State), (link? link s).lstate = .training) ∧
    (∃ (h : CtlHead) (gi : Nat) (g : Gang) (s : State), gangOf h.link s = some (gi, g) ∧ (link? h.link s).lstate = .training ∧ g.members.head? = some h.link ∧ g.spares = [] ∧ g.members.tail = []) ∧
    (∃ (link : Nat) (s : State), ((link? link s).lstate = .active ∨ (link? link s).lstate = .spare)) ∧
    (∃ (link : Nat) (s : State), (link? link s).lstate = .failed ∧ (link? link s).gang.isSome = true ∧ (link? link s).recalDue = false) ∧
    (∃ (link : Nat) (gi : Nat) (g : Gang) (s : State), gangOf link s = some (gi, g) ∧ link ∈ g.members ∧ (link? link s).lstate = .active) ∧
    (∃ (link : Nat) (gi : Nat) (g : Gang) (s : State), (link? link s).lstate = .recal ∧ (link? link s).recalMb = none ∧ gangOf link s = some (gi, g) ∧ (link? link s).backTo = none) ∧
    (∃ (link : Nat) (gi : Nat) (pos : Nat) (g : Gang) (s : State), (link? link s).lstate = .recal ∧ (link? link s).recalMb = none ∧ gangOf link s = some (gi, g) ∧ (link? link s).backTo = some pos ∧ g.gstate = .up ∧ g.members.length < 8) := by
  exact ⟨⟨0, s14_0, by decide +kernel⟩,
    ⟨0, s14_1, by decide +kernel⟩,
    ⟨(⟨0, 0, 0, 0⟩ : CtlHead), ((gangOf (⟨0, 0, 0, 0⟩ : CtlHead).link s14_2).get (by decide +kernel)).1, ((gangOf (⟨0, 0, 0, 0⟩ : CtlHead).link s14_2).get (by decide +kernel)).2, s14_2, get2 _, by decide +kernel⟩,
    ⟨0, s14_3, by decide +kernel⟩,
    ⟨0, s14_4, by decide +kernel⟩,
    ⟨0, ((gangOf 0 s14_5).get (by decide +kernel)).1, ((gangOf 0 s14_5).get (by decide +kernel)).2, s14_5, get2 _, by decide +kernel⟩,
    ⟨0, ((gangOf 0 s14_6).get (by decide +kernel)).1, ((gangOf 0 s14_6).get (by decide +kernel)).2, s14_6, by decide +kernel, by decide +kernel, get2 _, by decide +kernel⟩,
    ⟨0, ((gangOf 0 s14_7).get (by decide +kernel)).1, (((link? 0 s14_7).backTo).get (by decide +kernel)), ((gangOf 0 s14_7).get (by decide +kernel)).2, s14_7, by decide +kernel, by decide +kernel, get2 _, (Option.some_get _).symm, by decide +kernel⟩⟩

def s15_0 : State := upLink .active (gang1 .peer .up)
def s15_1 : State := upLink .active (gang1 .peer .up)
def s15_2 : State := upLink .active (gang1 .peer .up)
def s15_3 : State := upLink .active (gang1 .peer .up)
def s15_4 : State := upLink .active (gang1 .peer .up)
def s15_5 : State := upLink .active (gang1 .peer .up)
def s15_6 : State := modLink 0 (fun l => { l with nak := true }) (upLink .active (gang1 .peer .up))
theorem witness_LinkFramesComplete :
    (∃ (link : Nat) (f : JlFrame) (s : State), (link? link s).lstate = .active ∧ frameOk f = false) ∧
    (∃ (link : Nat) (gi : Nat) (f : JlFrame) (s : State), (link? link s).lstate = .active ∧ frameOk f = true ∧ f.type = 1 ∧ (link? link (dataFrame link f (takeAck link f.ack f.credVc f.cred s))).gang = some gi) ∧
    (∃ (link : Nat) (gi : Nat) (f : JlFrame) (s : State), (link? link s).lstate = .active ∧ frameOk f = true ∧ f.type = 0 ∧ (link? link (takeAck link f.ack f.credVc f.cred s)).gang = some gi) ∧
    (∃ (link : Nat) (gi : Nat) (f : JlFrame) (s : State), f.seq = (link? link s).seqRx ∧ (link? link s).gang = some gi) ∧
    (∃ (h : CtlHead) (s : State), (link? h.link s).lstate = .active) ∧
    (∃ (link : Nat) (s : State), (link? link s).lstate = .active) ∧
    (∃ (link : Nat) (s : State), (link? link s).nak = true) := by
  exact ⟨⟨0, ({ sealFrame (frame1 1) with crc := (sealFrame (frame1 1)).crc + 1 }), s15_0, by decide +kernel, sealed_bad _⟩,
    ⟨0, (((link? 0 (dataFrame 0 (sealFrame (frame1 1)) (takeAck 0 (sealFrame (frame1 1)).ack (sealFrame (frame1 1)).credVc (sealFrame (frame1 1)).cred s15_1))).gang).get (by decide +kernel)), (sealFrame (frame1 1)), s15_1, by decide +kernel, sealed_ok _, by decide +kernel, (Option.some_get _).symm⟩,
    ⟨0, (((link? 0 (takeAck 0 (sealFrame (frame1 0)).ack (sealFrame (frame1 0)).credVc (sealFrame (frame1 0)).cred s15_2)).gang).get (by decide +kernel)), (sealFrame (frame1 0)), s15_2, by decide +kernel, sealed_ok _, by decide +kernel, (Option.some_get _).symm⟩,
    ⟨0, (((link? 0 s15_3).gang).get (by decide +kernel)), (frame1 1), s15_3, by decide +kernel, (Option.some_get _).symm⟩,
    ⟨(⟨0, 0, 0, 0⟩ : CtlHead), s15_4, by decide +kernel⟩,
    ⟨0, s15_5, by decide +kernel⟩,
    ⟨0, s15_6, by decide +kernel⟩⟩

def s16_0 : State := upLink .active (gang1 .peer .reforming)
def s16_1 : State := upLink .active { gang1 .peer .reforming with reforms := 99 }
def s16_2 : State := upLink .active { gang1 .peer .reforming with reforms := 100 }
def s16_3 : State := upLink .active (gang1 .peer .up)
def s16_4 : State := upLink .active { gang1 .accelerator .up with inbox := [msg1 4 []], tags := [(5, ⟨true, 3, 0, 0, false⟩)] }
def s16_5 : State := upLink .active { gang1 .accelerator .up with inbox := [msg1 3 [1, 2]], tags := [(5, ⟨false, 3, 2, 0, false⟩)] }
def s16_6 : State := upLink .active { gang1 .accelerator .up with tags := [(5, ⟨true, 3, 0, 0, false⟩)] }
theorem witness_GangTrafficComplete :
    (∃ (h : CtlHead) (gang : Nat) (restart : Nat) (g : Gang) (s : State), gangOf h.link (takeHead h s) = some (gang, g) ∧ g.gstate = .reforming ∧ restart % 65536 = g.restart % 65536) ∧
    (∃ (gang : Nat) (g : Gang) (s : State), gang? gang s = some g ∧ g.gstate = .reforming ∧ g.reforms < 100) ∧
    (∃ (gang : Nat) (g : Gang) (s : State), gang? gang s = some g ∧ g.gstate = .reforming ∧ 100 ≤ g.reforms) ∧
    (∃ (h : CtlHead) (gang : Nat) (m : ReformMsg) (g : Gang) (s : State), gangOf h.link (takeHead h s) = some (gang, g) ∧ g.gstate = .up ∧ m.order ≠ [] ∧ reformOrder g (takeHead h s) m.order [] = g.members ∧ g.members ≠ []) ∧
    (∃ (gang : Nat) (g : Gang) (m : JMsg) (k : JTag) (s : State), gang? gang s = some g ∧ g.inbox.find? (fun m => m.op == 4) = some m ∧ tget g.tags m.tag = some k ∧ k.write = true ∧ k.ended = false ∧ bitOf 1 m.flags = false) ∧
    (∃ (gang : Nat) (g : Gang) (m : JMsg) (k : JTag) (s : State), gang? gang s = some g ∧ g.inbox.find? (fun m => m.op == 3) = some m ∧ tget g.tags m.tag = some k ∧ k.write = false ∧ k.ended = false ∧ bitOf 1 m.flags = false ∧ k.addr ≤ m.addr ∧ m.data.length = k.left) ∧
    (∃ (gang : Nat) (tag : Nat) (g : Gang) (k : JTag) (s : State), gang? gang s = some g ∧ tget g.tags tag = some k ∧ k.ended = false) := by
  exact ⟨⟨(⟨0, 0, 0, 0⟩ : CtlHead), ((gangOf (⟨0, 0, 0, 0⟩ : CtlHead).link (takeHead (⟨0, 0, 0, 0⟩ : CtlHead) s16_0)).get (by decide +kernel)).1, 65536, ((gangOf (⟨0, 0, 0, 0⟩ : CtlHead).link (takeHead (⟨0, 0, 0, 0⟩ : CtlHead) s16_0)).get (by decide +kernel)).2, s16_0, get2 _, by decide +kernel⟩,
    ⟨0, ((gang? 0 s16_1).get (by decide +kernel)), s16_1, (Option.some_get _).symm, by decide +kernel⟩,
    ⟨0, ((gang? 0 s16_2).get (by decide +kernel)), s16_2, (Option.some_get _).symm, by decide +kernel⟩,
    ⟨(⟨0, 0, 0, 0⟩ : CtlHead), ((gangOf (⟨0, 0, 0, 0⟩ : CtlHead).link (takeHead (⟨0, 0, 0, 0⟩ : CtlHead) s16_3)).get (by decide +kernel)).1, (⟨[0], 0⟩ : ReformMsg), ((gangOf (⟨0, 0, 0, 0⟩ : CtlHead).link (takeHead (⟨0, 0, 0, 0⟩ : CtlHead) s16_3)).get (by decide +kernel)).2, s16_3, get2 _, by decide +kernel⟩,
    ⟨0, ((gang? 0 s16_4).get (by decide +kernel)), ((((gang? 0 s16_4).get (by decide +kernel)).inbox.find? (fun m' => m'.op == 4)).get (by decide +kernel)), ((tget ((gang? 0 s16_4).get (by decide +kernel)).tags ((((gang? 0 s16_4).get (by decide +kernel)).inbox.find? (fun m' => m'.op == 4)).get (by decide +kernel)).tag).get (by decide +kernel)), s16_4, (Option.some_get _).symm, (Option.some_get _).symm, (Option.some_get _).symm, by decide +kernel⟩,
    ⟨0, ((gang? 0 s16_5).get (by decide +kernel)), ((((gang? 0 s16_5).get (by decide +kernel)).inbox.find? (fun m' => m'.op == 3)).get (by decide +kernel)), ((tget ((gang? 0 s16_5).get (by decide +kernel)).tags ((((gang? 0 s16_5).get (by decide +kernel)).inbox.find? (fun m' => m'.op == 3)).get (by decide +kernel)).tag).get (by decide +kernel)), s16_5, (Option.some_get _).symm, (Option.some_get _).symm, (Option.some_get _).symm, by decide +kernel⟩,
    ⟨0, 5, ((gang? 0 s16_6).get (by decide +kernel)), ((tget ((gang? 0 s16_6).get (by decide +kernel)).tags 5).get (by decide +kernel)), s16_6, (Option.some_get _).symm, (Option.some_get _).symm, by decide +kernel⟩⟩

def s17_0 : State := ask 0x3010 0 [] up
def s17_1 : State := ask 0x3011 0 [] (upLink .active (gang1 .accelerator .up))
def s17_2 : State := ask 0x3011 0 [] (upLink .active { gang1 .accelerator .up with grant := some 0 })
def s17_3 : State := ask 0x3012 0 [] (upLink .active (gang1 .accelerator .up))
def s17_4 : State := ask 0x3850 0 [] (upLink .active (gang1 .peer .up))
def s17_5 : State := ask 0x3851 0 [] up
def s17_6 : State := ask 0x3852 0 [] up
def s17_7 : State := ask 0x3000 0 [] up
def s17_8 : State := ask 0x3001 0 [] up
def s17_9 : State := ask 0x3003 0 [] up
theorem witness_GangCommandsComplete :
    (∃ (c : Call) (gi : Nat) (members : List Nat) (spares : List Nat) (r : Req) (s : State), Serves c 0x3010 r s ∧ gangListsOk gi members spares s = true ∧ gang? gi s = none ∧ linksOf gi s = [] ∧ (∃ n ∈ members, (link? n ((members ++ spares).foldl (joinLink gi members) s)).lstate ≠ .active)) ∧
    (∃ (c : Call) (gi : Nat) (g : Gang) (r : Req) (s : State), Serves c 0x3011 r s ∧ gang? gi s = some g ∧ g.kind = .accelerator ∧ g.grant = none ∧ g.withdraw = none) ∧
    (∃ (c : Call) (gi : Nat) (g : Gang) (r : Req) (s : State), Serves c 0x3011 r s ∧ gang? gi s = some g ∧ g.grant = some r.part) ∧
    (∃ (c : Call) (gi : Nat) (us : Nat) (g : Gang) (r : Req) (s : State), Serves c 0x3012 r s ∧ gang? gi s = some g ∧ 10 ≤ us ∧ us ≤ 100000) ∧
    (∃ (c : Call) (link : Nat) (gi : Nat) (g : Gang) (r : Req) (s : State), Serves c 0x3850 r s ∧ link ≤ 63 ∧ gangOf link s = some (gi, g) ∧ (link? link s).lstate = .active ∧ (link? link s).recalDue = false) ∧
    (∃ (c : Call) (die : Nat) (es : List RouteEntry) (r : Req) (s : State), Serves c 0x3851 r s ∧ die ≤ 1 ∧ (∀ e ∈ es, routeOk e = true)) ∧
    (∃ (c : Call) (crc : Nat) (hours : Nat) (r : Req) (s : State), Serves c 0x3852 r s ∧ 1 ≤ crc ∧ crc ≤ 65535 ∧ 1 ≤ hours ∧ hours ≤ 720) ∧
    (∃ (c : Call) (cursor : Nat) (r : Req) (s : State), Serves c 0x3000 r s ∧ CursorOk c 0x3000 cursor r s) ∧
    (∃ (c : Call) (cursor : Nat) (r : Req) (s : State), Serves c 0x3001 r s ∧ CursorOk c 0x3001 cursor r s) ∧
    (∃ (c : Call) (cursor : Nat) (r : Req) (s : State), Serves c 0x3003 r s ∧ CursorOk c 0x3003 cursor r s) := by
  exact ⟨⟨c0, 63, [0], [1], (rqOf s17_0), s17_0, by unfold Serves Waits; decide +kernel, by decide +kernel⟩,
    ⟨c0, 0, ((gang? 0 s17_1).get (by decide +kernel)), (rqOf s17_1), s17_1, by unfold Serves Waits; decide +kernel, (Option.some_get _).symm, by decide +kernel⟩,
    ⟨c0, 0, ((gang? 0 s17_2).get (by decide +kernel)), (rqOf s17_2), s17_2, by unfold Serves Waits; decide +kernel, (Option.some_get _).symm, by decide +kernel⟩,
    ⟨c0, 0, 10, ((gang? 0 s17_3).get (by decide +kernel)), (rqOf s17_3), s17_3, by unfold Serves Waits; decide +kernel, (Option.some_get _).symm, by decide +kernel⟩,
    ⟨c0, 0, ((gangOf 0 s17_4).get (by decide +kernel)).1, ((gangOf 0 s17_4).get (by decide +kernel)).2, (rqOf s17_4), s17_4, by unfold Serves Waits; decide +kernel, by decide +kernel, get2 _, by decide +kernel⟩,
    ⟨c0, 1, [], (rqOf s17_5), s17_5, by unfold Serves Waits; decide +kernel, by decide +kernel⟩,
    ⟨c0, 65535, 720, (rqOf s17_6), s17_6, by unfold Serves Waits; decide +kernel, by decide +kernel⟩,
    ⟨c0, 0, (rqOf s17_7), s17_7, by unfold Serves Waits; decide +kernel, by unfold CursorOk; decide +kernel⟩,
    ⟨c0, 0, (rqOf s17_8), s17_8, by unfold Serves Waits; decide +kernel, by unfold CursorOk; decide +kernel⟩,
    ⟨c0, 0, (rqOf s17_9), s17_9, by unfold Serves Waits; decide +kernel, by unfold CursorOk; decide +kernel⟩⟩

def s18_0 : State := ask 0x3020 0 [] ({ up with chip := { up.chip with opt := 3 } })
def s18_1 : State := ask 0x3021 0 [] up
def s18_2 : State := ask 0x3022 0 [] up
def s18_3 : State := ask 0x3002 0 [] up
def s18_4 : State := { upMsg (roll1 1) with chip := { up.chip with opt := 3 } }
def s18_5 : State := modRc (fun c => { c with round := 7 }) (upMsg (roll1 1))
def s18_6 : State := modRc (fun c => { c with waiting := some 0 }) (upMsg (roll1 5))
def s18_7 : State := modRc (fun c => { c with parent := some 0, rcstate := 1, waiting := some 0 }) (upMsg (roll1 5))
def s18_8 : State := modRc (fun c => { c with waiting := some 0 }) (upMsg (roll1 2))
def s18_9 : State := modRc (fun c => { c with waiting := some 0 }) (upMsg (roll1 3))
def s18_10 : State := modRc (fun c => { c with waiting := some 0 }) up
def s18_11 : State := modRc (fun c => { c with parent := some 0, rcstate := 1 }) (upMsg (roll1 4))
def s18_12 : State := modRc (fun c => { c with addr := 2, fwdOn := true }) (upMsg { msg1 5 [] with dst := 2 })
theorem witness_RollCallComplete :
    (∃ (c : Call) (r : Req) (s : State), Serves c 0x3020 r s ∧ isHead s = true ∧ s.jl.rc.rcstate ≠ 1) ∧
    (∃ (c : Call) (r : Req) (s : State), Serves c 0x3021 r s) ∧
    (∃ (c : Call) (level : Nat) (r : Req) (s : State), Serves c 0x3022 r s ∧ level ≤ 3 ∧ s.jl.rc.level ≤ level) ∧
    (∃ (c : Call) (cursor : Nat) (r : Req) (s : State), Serves c 0x3002 r s ∧ CursorOk c 0x3002 cursor r s) ∧
    (∃ (g : Nat) (m : RcMsg) (s : State) (t : State), takeRc g 1 s = some (m, t) ∧ isHead t = true ∧ m.head = t.chip.serial ∧ t.jl.rc.next ≤ m.next) ∧
    (∃ (g : Nat) (m : RcMsg) (s : State) (t : State), takeRc g 1 s = some (m, t) ∧ isHead t = false ∧ t.jl.rc.rcstate ≠ 1 ∧ m.round ≠ t.jl.rc.round) ∧
    (∃ (g : Nat) (m : RcMsg) (s : State) (t : State), takeRc g 5 s = some (m, t) ∧ t.jl.rc.waiting = some g) ∧
    (∃ (p : Nat) (s : State), s.jl.rc.parent = some p ∧ s.jl.rc.rcstate = 1 ∧ s.jl.rc.waiting.isSome = true) ∧
    (∃ (g : Nat) (m : RcMsg) (s : State) (t : State), takeRc g 2 s = some (m, t) ∧ t.jl.rc.waiting = some g) ∧
    (∃ (g : Nat) (m : RcMsg) (s : State) (t : State), takeRc g 3 s = some (m, t) ∧ t.jl.rc.waiting = some g ∧ t.jl.rc.waitHold = false) ∧
    (∃ (g : Nat) (s : State), s.jl.rc.waiting = some g) ∧
    (∃ (g : Nat) (m : RcMsg) (s : State) (t : State), takeRc g 4 s = some (m, t) ∧ t.jl.rc.rcstate = 1 ∧ t.jl.rc.parent = some g) ∧
    (∃ (gi : Nat) (g : Gang) (m : JMsg) (s : State), gang? gi s = some g ∧ g.inbox.find? (fun m => m.op == 5) = some m ∧ m.dst = s.jl.rc.addr ∧ m.dst ≠ 0 ∧ s.jl.rc.fwdOn = true) := by
  exact ⟨⟨c0, (rqOf s18_0), s18_0, by unfold Serves Waits; decide +kernel, by decide +kernel⟩,
    ⟨c0, (rqOf s18_1), s18_1, by unfold Serves Waits; decide +kernel⟩,
    ⟨c0, 3, (rqOf s18_2), s18_2, by unfold Serves Waits; decide +kernel, by decide +kernel⟩,
    ⟨c0, 0, (rqOf s18_3), s18_3, by unfold Serves Waits; decide +kernel, by unfold CursorOk; decide +kernel⟩,
    ⟨0, ((takeRc 0 1 s18_4).get (by decide +kernel)).1, s18_4, ((takeRc 0 1 s18_4).get (by decide +kernel)).2, get2 _, by decide +kernel⟩,
    ⟨0, ((takeRc 0 1 s18_5).get (by decide +kernel)).1, s18_5, ((takeRc 0 1 s18_5).get (by decide +kernel)).2, get2 _, by decide +kernel⟩,
    ⟨0, ((takeRc 0 5 s18_6).get (by decide +kernel)).1, s18_6, ((takeRc 0 5 s18_6).get (by decide +kernel)).2, get2 _, by decide +kernel⟩,
    ⟨0, s18_7, by decide +kernel⟩,
    ⟨0, ((takeRc 0 2 s18_8).get (by decide +kernel)).1, s18_8, ((takeRc 0 2 s18_8).get (by decide +kernel)).2, get2 _, by decide +kernel⟩,
    ⟨0, ((takeRc 0 3 s18_9).get (by decide +kernel)).1, s18_9, ((takeRc 0 3 s18_9).get (by decide +kernel)).2, get2 _, by decide +kernel⟩,
    ⟨0, s18_10, by decide +kernel⟩,
    ⟨0, ((takeRc 0 4 s18_11).get (by decide +kernel)).1, s18_11, ((takeRc 0 4 s18_11).get (by decide +kernel)).2, get2 _, by decide +kernel⟩,
    ⟨0, ((gang? 0 s18_12).get (by decide +kernel)), ((((gang? 0 s18_12).get (by decide +kernel)).inbox.find? (fun m' => m'.op == 5)).get (by decide +kernel)), s18_12, (Option.some_get _).symm, (Option.some_get _).symm, by decide +kernel⟩⟩

def s19_0 : State := ask 0x4000 0 [] up
def s19_1 : State := ask 0x4001 0 [] (upQp { qp1 with qstate := .reset })
def s19_2 : State := ask 0x4001 0 [] (upQp { qp1 with qstate := .init })
def s19_3 : State := ask 0x4001 0 [] (upQp { qp1 with qstate := .rtr })
def s19_4 : State := ask 0x4001 0 [] (upQp qp1)
def s19_5 : State := ask 0x4002 0 [] (upQp { qp1 with qstate := .reset })
def s19_6 : State := ask 0x4003 0 [] up
def s19_7 : State := ask 0x4003 0 [] (upQp qp1)
def s19_8 : State := upQe (fun e => { e with tallies := [(3, 1)], qps := [(5, { qp1 with ops := [⟨0, ⟨13, 0, 0, 0, 0, 0, 0, 0, 0x100000003, 0, 0xFFFF⟩, .waiting, 0, 0, 0, none, 0, 0, 0, none, false⟩] })] })
def s19_9 : State := ask 0x4850 1 [] ({ up with parts := [(0, Part.zero), (1, { Part.zero with qps := 2, cqs := 2, passes := 2, tallies := 2 })] })
theorem witness_QueuePairsComplete :
    (∃ (c : Call) (n : Nat) (q : Qp) (u : State) (r : Req) (s : State), Serves c 0x4000 r s ∧ newQp r.part (begun c 0x4000 s) = some (n, u) ∧ qp? n u = some q) ∧
    (∃ (c : Call) (n : Nat) (q : Qp) (st : Byte) (ctx : List Byte) (r : Req) (s : State), Serves c 0x4001 r s ∧ qp? n s = some q ∧ (c.func = 0 ∨ q.part = r.part) ∧ q.qstate = .reset ∧ ctxAt (st :: ctx) 0 1 = 1 ∧ setsOnly initSpans (st :: ctx) = true ∧ initBad c n (setInit (st :: ctx) q) s = none) ∧
    (∃ (c : Call) (n : Nat) (q : Qp) (st : Byte) (ctx : List Byte) (r : Req) (s : State), Serves c 0x4001 r s ∧ qp? n s = some q ∧ (c.func = 0 ∨ q.part = r.part) ∧ q.qstate = .init ∧ ctxAt (st :: ctx) 0 1 = 2 ∧ setsOnly (rtrSpans q.typ) (st :: ctx) = true ∧ rtrOk (setRtr (st :: ctx) q) = true) ∧
    (∃ (c : Call) (n : Nat) (q : Qp) (st : Byte) (ctx : List Byte) (goal : QpState) (r : Req) (s : State), Serves c 0x4001 r s ∧ qp? n s = some q ∧ (c.func = 0 ∨ q.part = r.part) ∧ QpState.ofCode (ctxAt (st :: ctx) 0 1) = some goal ∧ setsOnly [(0, 1)] (st :: ctx) = true ∧ ((q.qstate = .rtr ∧ goal = .rts) ∨ (q.qstate = .rts ∧ goal = .draining) ∨ (q.qstate = .drained ∧ goal = .rts))) ∧
    (∃ (c : Call) (n : Nat) (q : Qp) (st : Byte) (ctx : List Byte) (r : Req) (s : State), Serves c 0x4001 r s ∧ qp? n s = some q ∧ (c.func = 0 ∨ q.part = r.part) ∧ q.qstate ≠ .reset ∧ ctxAt (st :: ctx) 0 1 = 6 ∧ setsOnly [(0, 1)] (st :: ctx) = true) ∧
    (∃ (c : Call) (n : Nat) (q : Qp) (r : Req) (s : State), Serves c 0x4002 r s ∧ qp? n s = some q ∧ (c.func = 0 ∨ q.part = r.part) ∧ q.qstate = .reset) ∧
    (∃ (c : Call) (cursor : Nat) (r : Req) (s : State), Serves c 0x4003 r s ∧ CursorOk c 0x4003 cursor r s) ∧
    (∃ (c : Call) (n : Nat) (cursor : Nat) (q : Qp) (r : Req) (s : State), Serves c 0x4003 r s ∧ CursorOk c 0x4003 cursor r s ∧ qp? n s = some q ∧ (c.func = 0 ∨ q.part = r.part)) ∧
    (∃ (n : Nat) (q : Qp) (o : SqOp) (s : State), qp? n s = some q ∧ q.ops.find? (fun o => o.remote.isNone && o.st == .waiting) = some o ∧ tallyPassed q.part (o.ent.opa.toNat % 65536) (o.ent.opa.toNat / 2 ^ 32) s = true) ∧
    (∃ (c : Call) (qps : Nat) (cqs : Nat) (passes : Nat) (tallies : Nat) (g : Part) (z : Part) (r : Req) (s : State), Serves c 0x4850 r s ∧ r.part ≠ 0 ∧ part? r.part s = some g ∧ part? 0 s = some z ∧ qpsOf r.part s ≤ qps ∧ qps ≤ g.qps ∧ cqsOf r.part s ≤ cqs ∧ cqs ≤ g.cqs ∧ passesOf r.part s ≤ passes ∧ passes ≤ g.passes ∧ talliesUsed r.part s ≤ tallies ∧ tallies ≤ g.tallies) := by
  exact ⟨⟨c0, ((newQp (rqOf s19_0).part (begun c0 0x4000 s19_0)).get (by decide +kernel)).1, (Qp.fresh 0 0), ((newQp (rqOf s19_0).part (begun c0 0x4000 s19_0)).get (by decide +kernel)).2, (rqOf s19_0), s19_0, by unfold Serves Waits; decide +kernel, get2 _, by decide +kernel⟩,
    ⟨c0, 5, ((qp? 5 s19_1).get (by decide +kernel)), 1, (ctx1 [(0, 1), (24, 16), (25, 6), (76, 0xFF), (77, 0xFF), (78, 0xFF), (79, 0xFF)]).tail, (rqOf s19_1), s19_1, by unfold Serves Waits; decide +kernel, (Option.some_get _).symm, by decide +kernel⟩,
    ⟨c0, 5, ((qp? 5 s19_2).get (by decide +kernel)), 2, (ctx1 [(0, 2), (74, 4), (75, 64), (172, 8), (173, 255), (176, 15), (177, 7)]).tail, (rqOf s19_2), s19_2, by unfold Serves Waits; decide +kernel, (Option.some_get _).symm, by decide +kernel⟩,
    ⟨c0, 5, ((qp? 5 s19_3).get (by decide +kernel)), 3, (ctx1 [(0, 3)]).tail, QpState.rts, (rqOf s19_3), s19_3, by unfold Serves Waits; decide +kernel, (Option.some_get _).symm, by decide +kernel⟩,
    ⟨c0, 5, ((qp? 5 s19_4).get (by decide +kernel)), 6, (ctx1 [(0, 6)]).tail, (rqOf s19_4), s19_4, by unfold Serves Waits; decide +kernel, (Option.some_get _).symm, by decide +kernel⟩,
    ⟨c0, 5, ((qp? 5 s19_5).get (by decide +kernel)), (rqOf s19_5), s19_5, by unfold Serves Waits; decide +kernel, (Option.some_get _).symm, by decide +kernel⟩,
    ⟨c0, 0, (rqOf s19_6), s19_6, by unfold Serves Waits; decide +kernel, by unfold CursorOk; decide +kernel⟩,
    ⟨c0, 5, 0, ((qp? 5 s19_7).get (by decide +kernel)), (rqOf s19_7), s19_7, by unfold Serves Waits; decide +kernel, by unfold CursorOk; decide +kernel, (Option.some_get _).symm, by decide +kernel⟩,
    ⟨5, ((qp? 5 s19_8).get (by decide +kernel)), ((((qp? 5 s19_8).get (by decide +kernel)).ops.find? (fun o' => o'.remote.isNone && o'.st == .waiting)).get (by decide +kernel)), s19_8, (Option.some_get _).symm, (Option.some_get _).symm, by decide +kernel⟩,
    ⟨c0, 2, 2, 2, 2, ((part? (rqOf s19_9).part s19_9).get (by decide +kernel)), ((part? 0 s19_9).get (by decide +kernel)), (rqOf s19_9), s19_9, by unfold Serves Waits; decide +kernel, by decide +kernel, (Option.some_get _).symm, (Option.some_get _).symm, by decide +kernel⟩⟩

def s20_0 : State := ask 0x4010 0 [] up
def s20_1 : State := ask 0x4011 0 [] (upQe (fun e => { e with cqs := [(0, cq1)] }))
def s20_2 : State := ask 0x4012 0 [] up
def s20_3 : State := upQe (fun e => { e with cqs := [(0, { cq1 with timing := true, arm := some 0 })] })
def s20_4 : State := ask 0x4020 0 [] up
def s20_5 : State := ask 0x4021 0 [] (upQe (fun e => { e with passes := [(1, ⟨.valid, 1, 3, 0, 0, 0, 64, 0xFFFF, none⟩)] }))
def s20_6 : State := ask 0x4022 0 [] up
def s20_7 : State := ask 0x4030 0 [] (upQe (fun e => { e with tallies := [(0, 0)] }))
def s20_8 : State := ask 0x4031 0 [] (upQe (fun e => { e with tallies := [(0, 0)] }))
theorem witness_QueueObjectsComplete :
    (∃ (c : Call) (base : Nat) (log : Nat) (vec : Nat) (count : Nat) (time : Nat) (r : Req) (g : Part) (s : State), Serves c 0x4010 r s ∧ base % 4096 = 0 ∧ base < 2 ^ 57 ∧ 6 ≤ log ∧ log ≤ 20 ∧ vec < vectors c.func ∧ 1 ≤ count ∧ count ≤ 256 ∧ time ≤ 1000 ∧ part? r.part s = some g ∧ cqsOf r.part s < g.cqs ∧ freshKey s.qe.cqs < Config.poolCqs) ∧
    (∃ (c : Call) (n : Nat) (q : Cq) (r : Req) (s : State), Serves c 0x4011 r s ∧ cq? n s = some q ∧ (c.func = 0 ∨ q.part = r.part) ∧ cqUsed n q s = false) ∧
    (∃ (c : Call) (cursor : Nat) (r : Req) (s : State), Serves c 0x4012 r s ∧ CursorOk c 0x4012 cursor r s) ∧
    (∃ (n : Nat) (q : Cq) (s : State), cq? n s = some q ∧ q.timing = true ∧ 0 < cqBeyond q) ∧
    (∃ (c : Call) (p : PassSet) (k : Nat) (u : State) (r : Req) (s : State), Serves c 0x4020 r s ∧ passOk r.part p s = true ∧ issuePass r.part p.rights p.bind p.base p.length p.tally (begun c 0x4020 s) = some (k, u)) ∧
    (∃ (c : Call) (key : Nat) (p : Pass) (r : Req) (s : State), Serves c 0x4021 r s ∧ pass? (key / 256) s = some p ∧ p.pstate = .valid ∧ p.gen = key % 256 ∧ (c.func = 0 ∨ p.part = r.part)) ∧
    (∃ (c : Call) (cursor : Nat) (r : Req) (s : State), Serves c 0x4022 r s ∧ CursorOk c 0x4022 cursor r s) ∧
    (∃ (c : Call) (h : Nat) (r : Req) (s : State), Serves c 0x4030 r s ∧ tallyOk r.part h s = true) ∧
    (∃ (c : Call) (h : Nat) (count : Nat) (cursor : Nat) (r : Req) (s : State), Serves c 0x4031 r s ∧ CursorOk c 0x4031 cursor r s ∧ count ≠ 0 ∧ tallyOk r.part (h + count - 1) s = true) := by
  exact ⟨⟨c0, 0x1000, 20, 0, 256, 1000, (rqOf s20_0), ((part? (rqOf s20_0).part s20_0).get (by decide +kernel)), s20_0, by unfold Serves Waits; decide +kernel, by decide +kernel, by decide +kernel, by decide +kernel, by decide +kernel, by decide +kernel, by decide +kernel, by decide +kernel, by decide +kernel, (Option.some_get _).symm, by decide +kernel⟩,
    ⟨c0, 0, ((cq? 0 s20_1).get (by decide +kernel)), (rqOf s20_1), s20_1, by unfold Serves Waits; decide +kernel, (Option.some_get _).symm, by decide +kernel⟩,
    ⟨c0, 0, (rqOf s20_2), s20_2, by unfold Serves Waits; decide +kernel, by unfold CursorOk; decide +kernel⟩,
    ⟨0, ((cq? 0 s20_3).get (by decide +kernel)), s20_3, (Option.some_get _).symm, by decide +kernel⟩,
    ⟨c0, (⟨7, 0, 0, 2 ^ 57, 0xFFFF⟩ : PassSet), ((issuePass (rqOf s20_4).part (⟨7, 0, 0, 2 ^ 57, 0xFFFF⟩ : PassSet).rights (⟨7, 0, 0, 2 ^ 57, 0xFFFF⟩ : PassSet).bind (⟨7, 0, 0, 2 ^ 57, 0xFFFF⟩ : PassSet).base (⟨7, 0, 0, 2 ^ 57, 0xFFFF⟩ : PassSet).length (⟨7, 0, 0, 2 ^ 57, 0xFFFF⟩ : PassSet).tally (begun c0 0x4020 s20_4)).get (by decide +kernel)).1, ((issuePass (rqOf s20_4).part (⟨7, 0, 0, 2 ^ 57, 0xFFFF⟩ : PassSet).rights (⟨7, 0, 0, 2 ^ 57, 0xFFFF⟩ : PassSet).bind (⟨7, 0, 0, 2 ^ 57, 0xFFFF⟩ : PassSet).base (⟨7, 0, 0, 2 ^ 57, 0xFFFF⟩ : PassSet).length (⟨7, 0, 0, 2 ^ 57, 0xFFFF⟩ : PassSet).tally (begun c0 0x4020 s20_4)).get (by decide +kernel)).2, (rqOf s20_4), s20_4, by unfold Serves Waits; decide +kernel, by decide +kernel, get2 _⟩,
    ⟨c0, 257, ((pass? (257 / 256) s20_5).get (by decide +kernel)), (rqOf s20_5), s20_5, by unfold Serves Waits; decide +kernel, (Option.some_get _).symm, by decide +kernel⟩,
    ⟨c0, 0, (rqOf s20_6), s20_6, by unfold Serves Waits; decide +kernel, by unfold CursorOk; decide +kernel⟩,
    ⟨c0, 0, (rqOf s20_7), s20_7, by unfold Serves Waits; decide +kernel, by decide +kernel⟩,
    ⟨c0, 0, 1, 0, (rqOf s20_8), s20_8, by unfold Serves Waits; decide +kernel, by unfold CursorOk; decide +kernel, by decide +kernel⟩⟩

def s21_0 : State := upArr 1
def s21_1 : State := upArr 2
def s21_2 : State := upArr 3
def s21_3 : State := upArr 4
def s21_4 : State := upArr 5
def s21_5 : State := upArr 6
def s21_6 : State := upArr 7
def s21_7 : State := upArr 8
def s21_8 : State := upQe (fun e => { e with arrived := [arrived1 1], fences := [⟨9, [], none⟩] })
def s21_9 : State := upQe (fun e => { e with arrived := [{ arrived1 1 with roce := true }] })
theorem witness_PacketsComplete :
    (∃ (i : Nat) (a : Arrived) (q : Qp) (s : State) (t : State), takeArrived i s = some (a, t) ∧ a.roce = false ∧ (a.loc = true ∨ fenced a.src s = false) ∧ qp? a.qpn t = some q ∧ q.typ = (if a.loc then 2 else 0) ∧ beAt a.bytes 1 1 = 1) ∧
    (∃ (i : Nat) (a : Arrived) (q : Qp) (s : State) (t : State), takeArrived i s = some (a, t) ∧ a.roce = false ∧ (a.loc = true ∨ fenced a.src s = false) ∧ qp? a.qpn t = some q ∧ q.typ = (if a.loc then 2 else 0) ∧ beAt a.bytes 1 1 = 2) ∧
    (∃ (i : Nat) (a : Arrived) (q : Qp) (s : State) (t : State), takeArrived i s = some (a, t) ∧ a.roce = false ∧ (a.loc = true ∨ fenced a.src s = false) ∧ qp? a.qpn t = some q ∧ q.typ = (if a.loc then 2 else 0) ∧ beAt a.bytes 1 1 = 3) ∧
    (∃ (i : Nat) (a : Arrived) (q : Qp) (s : State) (t : State), takeArrived i s = some (a, t) ∧ a.roce = false ∧ (a.loc = true ∨ fenced a.src s = false) ∧ qp? a.qpn t = some q ∧ q.typ = (if a.loc then 2 else 0) ∧ beAt a.bytes 1 1 = 4) ∧
    (∃ (i : Nat) (a : Arrived) (q : Qp) (s : State) (t : State), takeArrived i s = some (a, t) ∧ a.roce = false ∧ (a.loc = true ∨ fenced a.src s = false) ∧ qp? a.qpn t = some q ∧ q.typ = (if a.loc then 2 else 0) ∧ beAt a.bytes 1 1 = 5) ∧
    (∃ (i : Nat) (a : Arrived) (q : Qp) (s : State) (t : State), takeArrived i s = some (a, t) ∧ a.roce = false ∧ (a.loc = true ∨ fenced a.src s = false) ∧ qp? a.qpn t = some q ∧ q.typ = (if a.loc then 2 else 0) ∧ beAt a.bytes 1 1 = 6) ∧
    (∃ (i : Nat) (a : Arrived) (q : Qp) (s : State) (t : State), takeArrived i s = some (a, t) ∧ a.roce = false ∧ (a.loc = true ∨ fenced a.src s = false) ∧ qp? a.qpn t = some q ∧ q.typ = (if a.loc then 2 else 0) ∧ beAt a.bytes 1 1 = 7) ∧
    (∃ (i : Nat) (a : Arrived) (q : Qp) (s : State) (t : State), takeArrived i s = some (a, t) ∧ a.roce = false ∧ (a.loc = true ∨ fenced a.src s = false) ∧ qp? a.qpn t = some q ∧ q.typ = (if a.loc then 2 else 0) ∧ beAt a.bytes 1 1 = 8) ∧
    (∃ (i : Nat) (op : Nat) (a : Arrived) (s : State) (t : State), takeArrived i s = some (a, t) ∧ a.roce = false ∧ beAt a.bytes 1 1 = op ∧ a.loc = false ∧ fenced a.src s = true) ∧
    (∃ (i : Nat) (a : Arrived) (s : State) (t : State), takeArrived i s = some (a, t) ∧ a.roce = true ∧ fenced a.src s = false) := by
  exact ⟨⟨0, ((takeArrived 0 s21_0).get (by decide +kernel)).1, ((qp? ((takeArrived 0 s21_0).get (by decide +kernel)).1.qpn ((takeArrived 0 s21_0).get (by decide +kernel)).2).get (by decide +kernel)), s21_0, ((takeArrived 0 s21_0).get (by decide +kernel)).2, get2 _, by decide +kernel, by decide +kernel, (Option.some_get _).symm, by decide +kernel⟩,
    ⟨0, ((takeArrived 0 s21_1).get (by decide +kernel)).1, ((qp? ((takeArrived 0 s21_1).get (by decide +kernel)).1.qpn ((takeArrived 0 s21_1).get (by decide +kernel)).2).get (by decide +kernel)), s21_1, ((takeArrived 0 s21_1).get (by decide +kernel)).2, get2 _, by decide +kernel, by decide +kernel, (Option.some_get _).symm, by decide +kernel⟩,
    ⟨0, ((takeArrived 0 s21_2).get (by decide +kernel)).1, ((qp? ((takeArrived 0 s21_2).get (by decide +kernel)).1.qpn ((takeArrived 0 s21_2).get (by decide +kernel)).2).get (by decide +kernel)), s21_2, ((takeArrived 0 s21_2).get (by decide +kernel)).2, get2 _, by decide +kernel, by decide +kernel, (Option.some_get _).symm, by decide +kernel⟩,
    ⟨0, ((takeArrived 0 s21_3).get (by decide +kernel)).1, ((qp? ((takeArrived 0 s21_3).get (by decide +kernel)).1.qpn ((takeArrived 0 s21_3).get (by decide +kernel)).2).get (by decide +kernel)), s21_3, ((takeArrived 0 s21_3).get (by decide +kernel)).2, get2 _, by decide +kernel, by decide +kernel, (Option.some_get _).symm, by decide +kernel⟩,
    ⟨0, ((takeArrived 0 s21_4).get (by decide +kernel)).1, ((qp? ((takeArrived 0 s21_4).get (by decide +kernel)).1.qpn ((takeArrived 0 s21_4).get (by decide +kernel)).2).get (by decide +kernel)), s21_4, ((takeArrived 0 s21_4).get (by decide +kernel)).2, get2 _, by decide +kernel, by decide +kernel, (Option.some_get _).symm, by decide +kernel⟩,
    ⟨0, ((takeArrived 0 s21_5).get (by decide +kernel)).1, ((qp? ((takeArrived 0 s21_5).get (by decide +kernel)).1.qpn ((takeArrived 0 s21_5).get (by decide +kernel)).2).get (by decide +kernel)), s21_5, ((takeArrived 0 s21_5).get (by decide +kernel)).2, get2 _, by decide +kernel, by decide +kernel, (Option.some_get _).symm, by decide +kernel⟩,
    ⟨0, ((takeArrived 0 s21_6).get (by decide +kernel)).1, ((qp? ((takeArrived 0 s21_6).get (by decide +kernel)).1.qpn ((takeArrived 0 s21_6).get (by decide +kernel)).2).get (by decide +kernel)), s21_6, ((takeArrived 0 s21_6).get (by decide +kernel)).2, get2 _, by decide +kernel, by decide +kernel, (Option.some_get _).symm, by decide +kernel⟩,
    ⟨0, ((takeArrived 0 s21_7).get (by decide +kernel)).1, ((qp? ((takeArrived 0 s21_7).get (by decide +kernel)).1.qpn ((takeArrived 0 s21_7).get (by decide +kernel)).2).get (by decide +kernel)), s21_7, ((takeArrived 0 s21_7).get (by decide +kernel)).2, get2 _, by decide +kernel, by decide +kernel, (Option.some_get _).symm, by decide +kernel⟩,
    ⟨0, 1, ((takeArrived 0 s21_8).get (by decide +kernel)).1, s21_8, ((takeArrived 0 s21_8).get (by decide +kernel)).2, get2 _, by decide +kernel⟩,
    ⟨0, ((takeArrived 0 s21_9).get (by decide +kernel)).1, s21_9, ((takeArrived 0 s21_9).get (by decide +kernel)).2, get2 _, by decide +kernel⟩⟩

def s22_0 : State := upQp { qp1 with inMsgs := [{ InMsg.start ⟨0, 1, 0, 0, 0, 0, 0, [], none, false, Via.zero⟩ with total := some 0 }] }
def s22_1 : State := upQp { qp1 with x := { Xport.fresh with ackDue := true } }
def s22_2 : State := upQp { qp1 with x := { Xport.fresh with unacked := [⟨0, 1, 0, 0, 0, 0, 0, [], 0, 1, 0, 0, false⟩] } }
def s22_3 : State := upQp { qp1 with x := { Xport.fresh with rnrWait := true } }
def s22_4 : State := upQp { qp1 with x := { Xport.fresh with penalty := 128 } }
theorem witness_TransportTimersComplete :
    (∃ (n : Nat) (msn : Nat) (q : Qp) (s : State), qp? n s = some q ∧ q.x.vmsnRx = msn ∧ (inMsg? q msn).any msgDone = true) ∧
    (∃ (n : Nat) (q : Qp) (s : State), qp? n s = some q ∧ q.x.ackDue = true ∧ streaming q = true) ∧
    (∃ (n : Nat) (psn : Nat) (q : Qp) (p : TxPkt) (s : State), qp? n s = some q ∧ q.x.unacked.find? (fun p => p.psn == psn && !p.acked) = some p ∧ q.typ = 0) ∧
    (∃ (n : Nat) (q : Qp) (s : State), qp? n s = some q ∧ q.x.rnrWait = true) ∧
    (∃ (n : Nat) (path : Nat) (q : Qp) (s : State), qp? n s = some q ∧ bitOf path q.x.penalty = true) := by
  exact ⟨⟨5, 0, ((qp? 5 s22_0).get (by decide +kernel)), s22_0, (Option.some_get _).symm, by decide +kernel⟩,
    ⟨5, ((qp? 5 s22_1).get (by decide +kernel)), s22_1, (Option.some_get _).symm, by decide +kernel⟩,
    ⟨5, 0, ((qp? 5 s22_2).get (by decide +kernel)), ((((qp? 5 s22_2).get (by decide +kernel)).x.unacked.find? (fun p' => p'.psn == 0 && !p'.acked)).get (by decide +kernel)), s22_2, (Option.some_get _).symm, (Option.some_get _).symm, by decide +kernel⟩,
    ⟨5, ((qp? 5 s22_3).get (by decide +kernel)), s22_3, (Option.some_get _).symm, by decide +kernel⟩,
    ⟨5, 7, ((qp? 5 s22_4).get (by decide +kernel)), s22_4, (Option.some_get _).symm, by decide +kernel⟩⟩

def s23_0 : State := ask 0x4100 0 [] up
def s23_1 : State := ask 0x4101 0 [] (upQe (fun e => { e with fences := [⟨9, [], none⟩] }))
def s23_2 : State := ask 0x4102 0 [] up
def s23_3 : State := ask 0x4103 0 [] up
def s23_4 : State := ask 0x4104 0 [] up
def s23_5 : State := ask 0x4851 0 [] up
def s23_6 : State := ask 0x4852 0 [] up
theorem witness_TransportCommandsComplete :
    (∃ (c : Call) (a : BitVec 128) (r : Req) (s : State), Serves c 0x4100 r s ∧ s.qe.fences.find? (fun f => f.addr == a) = none ∧ s.qe.fences.length < 256) ∧
    (∃ (c : Call) (a : BitVec 128) (f : Fence) (r : Req) (s : State), Serves c 0x4101 r s ∧ s.qe.fences.find? (fun f => f.addr == a) = some f ∧ f.mb = none) ∧
    (∃ (c : Call) (cursor : Nat) (r : Req) (s : State), Serves c 0x4102 r s ∧ CursorOk c 0x4102 cursor r s) ∧
    (∃ (c : Call) (cursor : Nat) (r : Req) (s : State), Serves c 0x4103 r s ∧ CursorOk c 0x4103 cursor r s) ∧
    (∃ (c : Call) (cursor : Nat) (r : Req) (s : State), Serves c 0x4104 r s ∧ CursorOk c 0x4104 cursor r s) ∧
    (∃ (c : Call) (p : CcSet) (r : Req) (s : State), Serves c 0x4851 r s ∧ ccOk' (applyCc p s.qe.cc) = true) ∧
    (∃ (c : Call) (port : Nat) (r : Req) (s : State), Serves c 0x4852 r s ∧ 1 ≤ port ∧ port ≤ 65535 ∧ port ≠ s.qe.ptPort) := by
  exact ⟨⟨c0, 0, (rqOf s23_0), s23_0, by unfold Serves Waits; decide +kernel, by decide +kernel⟩,
    ⟨c0, 9, ((s23_1.qe.fences.find? (fun f' => f'.addr == 9)).get (by decide +kernel)), (rqOf s23_1), s23_1, by unfold Serves Waits; decide +kernel, (Option.some_get _).symm, by decide +kernel⟩,
    ⟨c0, 0, (rqOf s23_2), s23_2, by unfold Serves Waits; decide +kernel, by unfold CursorOk; decide +kernel⟩,
    ⟨c0, 0, (rqOf s23_3), s23_3, by unfold Serves Waits; decide +kernel, by unfold CursorOk; decide +kernel⟩,
    ⟨c0, 0, (rqOf s23_4), s23_4, by unfold Serves Waits; decide +kernel, by unfold CursorOk; decide +kernel⟩,
    ⟨c0, (⟨some 1000, some 2, some 2, some 1, some 8, some 16, some 256, some 16, some 1, some 4000, some 255⟩ : CcSet), (rqOf s23_5), s23_5, by unfold Serves Waits; decide +kernel, by decide +kernel⟩,
    ⟨c0, 65535, (rqOf s23_6), s23_6, by unfold Serves Waits; decide +kernel, by decide +kernel⟩⟩

def sCg : State := wrMem spHost 0x1004 [2, 0, 0, 0x40] { ask 0x4200 0 ([7, 0, 0, 0, 2, 0, 0, 0, 2, 2] ++ List.replicate 15 0 ++ [0x10] ++
  List.replicate 22 0) mapped with jl := { Jl.fresh with rc := { RollCall.fresh with rcstate := 2, size := 2 } } }
def s24_1 : State := ask 0x4201 0 [] (upCu (fun u => { u with groups := [(0, cgroup1)] }))
def s24_2 : State := ask 0x4202 0 [] (upCu (fun u => { u with groups := [(0, cgroup1)] }))
def s24_3 : State := ask 0x4203 0 [] up
def s24_4 : State := ask 0x4204 0 [] up
def s24_5 : State := ask 0x4860 0 [] up
theorem witness_CollectiveGroupsComplete :
    (∃ (c : Call) (es : List CEdge) (u : State) (r : Req) (s : State), Serves c 0x4200 r s ∧ groupFieldsOk (CGroup.parse r.part r.payload) r.payload = true ∧ s.cu.groups.any (fun e => e.2.tag == (CGroup.parse r.part r.payload).tag) = false ∧ readRanks r.part (leNat ((r.payload.drop 24).take 8)) (reachRanks (CGroup.parse r.part r.payload)) (begun c 0x4200 s) = (some es, u) ∧ (∀ e ∈ es, edgeOk r.part e u = true ∧ edgeNotReady e u = false) ∧ freshKey s.cu.groups < 65536 ∧ (CGroup.parse r.part r.payload).nres = 0) ∧
    (∃ (c : Call) (h : Nat) (g : CGroup) (r : Req) (s : State), Serves c 0x4201 r s ∧ cgroup? h s = some g ∧ g.part = r.part ∧ s.cu.colls.any (fun e => e.2.group == h) = false ∧ modeStaged h s = false) ∧
    (∃ (c : Call) (h : Nat) (fmt : Nat) (q : Nat) (g : CGroup) (r : Req) (s : State), Serves c 0x4202 r s ∧ cgroup? h s = some g ∧ g.part = r.part ∧ fmt < 256 ∧ q < 2 ^ 32 ∧ wireCvtOk (BitVec.ofNat 8 fmt) = true ∧ g.nextSeq ≤ q ∧ modeStaged h s = false) ∧
    (∃ (c : Call) (cursor : Nat) (r : Req) (s : State), Serves c 0x4203 r s ∧ CursorOk c 0x4203 cursor r s) ∧
    (∃ (c : Call) (cursor : Nat) (r : Req) (s : State), Serves c 0x4204 r s ∧ CursorOk c 0x4204 cursor r s) ∧
    (∃ (c : Call) (mib : Nat) (r : Req) (s : State), Serves c 0x4860 r s ∧ 1 ≤ mib ∧ mib ≤ 16) := by
  exact ⟨⟨c0, [(⟨1, 1, 2⟩ : CEdge)], ((readRanks 0 0x1000 [1] (begun c0 0x4200 sCg)).2), (rqOf sCg), sCg, by unfold Serves Waits; decide +kernel, by decide +kernel⟩,
    ⟨c0, 0, ((cgroup? 0 s24_1).get (by decide +kernel)), (rqOf s24_1), s24_1, by unfold Serves Waits; decide +kernel, (Option.some_get _).symm, by decide +kernel⟩,
    ⟨c0, 0, 1, 0, ((cgroup? 0 s24_2).get (by decide +kernel)), (rqOf s24_2), s24_2, by unfold Serves Waits; decide +kernel, (Option.some_get _).symm, by decide +kernel⟩,
    ⟨c0, 0, (rqOf s24_3), s24_3, by unfold Serves Waits; decide +kernel, by unfold CursorOk; decide +kernel⟩,
    ⟨c0, 0, (rqOf s24_4), s24_4, by unfold Serves Waits; decide +kernel, by unfold CursorOk; decide +kernel⟩,
    ⟨c0, 16, (rqOf s24_5), s24_5, by unfold Serves Waits; decide +kernel, by decide +kernel⟩⟩

def s25_0 : State := upColl { coll1 with admitted := false }
def s25_1 : State := upJl (fun j => { j with arrived := [⟨0, 2, 1, List.replicate 8 0 ++ [1] ++ List.replicate 23 0⟩] })
def s25_2 : State := upJl (fun j => { j with arrived := [⟨0, 2, 1, List.replicate 8 0 ++ [2] ++ List.replicate 23 0⟩] })
def s25_3 : State := upJl (fun j => { j with arrived := [⟨0, 2, 1, List.replicate 8 0 ++ [3] ++ List.replicate 23 0⟩] })
def s25_4 : State := upColl coll1
def s25_5 : State := upColl { coll1 with landed := [0] }
def s25_6 : State := upColl { coll1 with finished := [0] }
def s25_7 : State := upColl { coll1 with ended := some (2, 0) }
theorem witness_CollectivesComplete :
    (∃ (id : Nat) (s : State), admissible id s = true ∧ s.pm.tripped = false) ∧
    (∃ (i : Nat) (die : Nat) (bs : List Byte) (s : State) (t : State), collWaiting i s = some (die, bs, t) ∧ s.pm.tripped = false ∧ (CHead.parse bs).kind = 1) ∧
    (∃ (i : Nat) (die : Nat) (bs : List Byte) (s : State) (t : State), collWaiting i s = some (die, bs, t) ∧ s.pm.tripped = false ∧ (CHead.parse bs).kind = 2) ∧
    (∃ (i : Nat) (die : Nat) (bs : List Byte) (s : State) (t : State), collWaiting i s = some (die, bs, t) ∧ s.pm.tripped = false ∧ (CHead.parse bs).kind = 3) ∧
    (∃ (id : Nat) (k : Nat) (c : Coll) (g : CGroup) (s : State), coll? id s = some c ∧ s.pm.tripped = false ∧ cgroup? c.group s = some g ∧ awaited g c = some k ∧ c.admitted = true ∧ c.ended = none) ∧
    (∃ (id : Nat) (chunk : Nat) (c : Coll) (g : CGroup) (s : State), coll? id s = some c ∧ s.pm.tripped = false ∧ chunk ∈ c.landed ∧ cgroup? c.group s = some g) ∧
    (∃ (id : Nat) (c : Coll) (g : CGroup) (s : State), coll? id s = some c ∧ s.pm.tripped = false ∧ cgroup? c.group s = some g ∧ collReady g c = true) ∧
    (∃ (id : Nat) (code : Nat) (opspec : Nat) (c : Coll) (g : CGroup) (s : State), coll? id s = some c ∧ s.pm.tripped = false ∧ cgroup? c.group s = some g ∧ c.ended = some (code, opspec) ∧ s.xl.xfers.any (fun x => ofColl id x.2) = false) := by
  exact ⟨⟨0, s25_0, by decide +kernel⟩,
    ⟨0, ((collWaiting 0 s25_1).get (by decide +kernel)).1, ((collWaiting 0 s25_1).get (by decide +kernel)).2.1, s25_1, ((collWaiting 0 s25_1).get (by decide +kernel)).2.2, get3 _, by decide +kernel⟩,
    ⟨0, ((collWaiting 0 s25_2).get (by decide +kernel)).1, ((collWaiting 0 s25_2).get (by decide +kernel)).2.1, s25_2, ((collWaiting 0 s25_2).get (by decide +kernel)).2.2, get3 _, by decide +kernel⟩,
    ⟨0, ((collWaiting 0 s25_3).get (by decide +kernel)).1, ((collWaiting 0 s25_3).get (by decide +kernel)).2.1, s25_3, ((collWaiting 0 s25_3).get (by decide +kernel)).2.2, get3 _, by decide +kernel⟩,
    ⟨0, ((awaited ((cgroup? ((coll? 0 s25_4).get (by decide +kernel)).group s25_4).get (by decide +kernel)) ((coll? 0 s25_4).get (by decide +kernel))).get (by decide +kernel)), ((coll? 0 s25_4).get (by decide +kernel)), ((cgroup? ((coll? 0 s25_4).get (by decide +kernel)).group s25_4).get (by decide +kernel)), s25_4, (Option.some_get _).symm, by decide +kernel, (Option.some_get _).symm, (Option.some_get _).symm, by decide +kernel⟩,
    ⟨0, 0, ((coll? 0 s25_5).get (by decide +kernel)), ((cgroup? ((coll? 0 s25_5).get (by decide +kernel)).group s25_5).get (by decide +kernel)), s25_5, (Option.some_get _).symm, by decide +kernel, by decide +kernel, (Option.some_get _).symm⟩,
    ⟨0, ((coll? 0 s25_6).get (by decide +kernel)), ((cgroup? ((coll? 0 s25_6).get (by decide +kernel)).group s25_6).get (by decide +kernel)), s25_6, (Option.some_get _).symm, by decide +kernel, (Option.some_get _).symm, by decide +kernel⟩,
    ⟨0, 2, 0, ((coll? 0 s25_7).get (by decide +kernel)), ((cgroup? ((coll? 0 s25_7).get (by decide +kernel)).group s25_7).get (by decide +kernel)), s25_7, (Option.some_get _).symm, by decide +kernel, (Option.some_get _).symm, by decide +kernel⟩⟩

def s26_0 : State := ask 0x8000 0 [] up
def s26_1 : State := ask 0x8001 0 [] up
def s26_2 : State := upPp (fun p => { p with ports := [(0, ⟨2, 9216, 2048, true⟩)] })
def s26_3 : State := ask 0x8010 0 [] up
def s26_4 : State := ask 0x8011 0 [] (upPp (fun p => { p with staged := some RuleSet.empty }))
def s26_5 : State := ask 0x8012 0 [] (upPp (fun p => { p with staged := some RuleSet.empty }))
def s26_6 : State := ask 0x8013 0 [] up
theorem witness_PortsAndRulesComplete :
    (∃ (c : Call) (cursor : Nat) (r : Req) (s : State), Serves c 0x8000 r s ∧ CursorOk c 0x8000 cursor r s) ∧
    (∃ (c : Call) (port : Nat) (p : PortSet) (r : Req) (s : State), Serves c 0x8001 r s ∧ portSetOk port p = true ∧ p.mode = (port? port s).mode ∧ p.reserveKiB ≤ (port? port s).reserveKiB) ∧
    (∃ (node : Nat) (s : State), nodeExists node s = true ∧ (port? (nodePort node) s).enable = true ∧ s.pm.tripped = false) ∧
    (∃ (c : Call) (edits : List RuleEdit) (u0 : Option Nat) (u1 : Option Nat) (empty : Bool) (r : Req) (s : State), Serves c 0x8010 r s ∧ editsBad edits u0 u1 = false ∧ rulesStaged s = false ∧ residentRules s + (editRules edits (openStaged empty s).rules).length ≤ 65536) ∧
    (∃ (c : Call) (r : Req) (s : State), Serves c 0x8011 r s ∧ s.pp.staged.isSome = true ∧ rulesStaged s = false ∧ s.pp.retiring.length < 2) ∧
    (∃ (c : Call) (r : Req) (s : State), Serves c 0x8012 r s ∧ s.pp.staged.isSome = true ∧ rulesStaged s = false) ∧
    (∃ (c : Call) (cursor : Nat) (r : Req) (s : State), Serves c 0x8013 r s ∧ CursorOk c 0x8013 cursor r s) := by
  exact ⟨⟨c0, 0, (rqOf s26_0), s26_0, by unfold Serves Waits; decide +kernel, by unfold CursorOk; decide +kernel⟩,
    ⟨c0, 7, (⟨0, 1518, 0, true⟩ : PortSet), (rqOf s26_1), s26_1, by unfold Serves Waits; decide +kernel, by decide +kernel⟩,
    ⟨0, s26_2, by decide +kernel⟩,
    ⟨c0, [⟨16383, none⟩], (some 60), none, true, (rqOf s26_3), s26_3, by unfold Serves Waits; decide +kernel, by decide +kernel⟩,
    ⟨c0, (rqOf s26_4), s26_4, by unfold Serves Waits; decide +kernel, by decide +kernel⟩,
    ⟨c0, (rqOf s26_5), s26_5, by unfold Serves Waits; decide +kernel, by decide +kernel⟩,
    ⟨c0, 0, (rqOf s26_6), s26_6, by unfold Serves Waits; decide +kernel, by unfold CursorOk; decide +kernel⟩⟩

def s27_0 : State := ask 0x8020 0 [] up
def s27_1 : State := ask 0x8021 0 [] up
def s27_2 : State := ask 0x8022 0 [] up
def s27_3 : State := ask 0x8023 0 [] up
def s27_4 : State := ask 0x8030 0 [] (upPp (fun p => { p with meters := [(meterKey 0 0, ⟨meter1, none, 0, 0, 0, 0, 0⟩)] }))
def s27_5 : State := ask 0x8030 0 [] up
def s27_6 : State := ask 0x8031 0 [] up
def s27_7 : State := ask 0x8040 0 [] up
def s27_8 : State := ask 0x8041 0 [] up
def s27_9 : State := ask 0x8042 0 [] up
def s27_10 : State := ask 0x8043 0 [] up
theorem witness_SchedulerCommandsComplete :
    (∃ (c : Call) (q : Nat) (p : SchedSet) (r : Req) (s : State), Serves c 0x8020 r s ∧ q < 65536 ∧ schedOk p = true ∧ parentOk 3 p = true ∧ maySet c r.part 3 q s = true ∧ mayHang c r.part 3 p s = true ∧ (sched? (schedKey 3 q) s).next = none) ∧
    (∃ (c : Call) (k : Nat) (n : Nat) (p : SchedSet) (r : Req) (s : State), Serves c 0x8021 r s ∧ k ≤ 2 ∧ c.func = 0 ∧ n < levelCount k ∧ schedOk p = true ∧ parentOk k p = true ∧ (sched? (schedKey k n) s).next = none) ∧
    (∃ (c : Call) (g : Nat) (cl : Nat) (cn : Nat) (ql : Nat) (qn : Nat) (r : Req) (s : State), Serves c 0x8022 r s ∧ g < 256 ∧ cl + cn ≤ 4096 ∧ ql + qn ≤ 65536) ∧
    (∃ (c : Call) (cursor : Nat) (r : Req) (s : State), Serves c 0x8023 r s ∧ CursorOk c 0x8023 cursor r s) ∧
    (∃ (c : Call) (die : Nat) (n : Nat) (p : MeterSet) (r : Req) (s : State) (m : _), Serves c 0x8030 r s ∧ meterOk die n p s = true ∧ tget s.pp.meters (meterKey die n) = some m ∧ m.next = none) ∧
    (∃ (c : Call) (die : Nat) (n : Nat) (p : MeterSet) (r : Req) (s : State), Serves c 0x8030 r s ∧ meterOk die n p s = true ∧ tget s.pp.meters (meterKey die n) = none ∧ tget s.pp.newMeters (meterKey die n) = none) ∧
    (∃ (c : Call) (cursor : Nat) (r : Req) (s : State), Serves c 0x8031 r s ∧ CursorOk c 0x8031 cursor r s) ∧
    (∃ (c : Call) (port : Nat) (tt : Timetable) (r : Req) (s : State), Serves c 0x8040 r s ∧ port < 8 ∧ timetableOk tt = true ∧ (gate? port s).staged = none) ∧
    (∃ (c : Call) (cursor : Nat) (r : Req) (s : State), Serves c 0x8041 r s ∧ CursorOk c 0x8041 cursor r s) ∧
    (∃ (c : Call) (incr : Nat) (step : Int) (r : Req) (s : State), Serves c 0x8042 r s ∧ 10 * 2 ^ 32 * 999 ≤ incr * 1000 ∧ incr * 1000 ≤ 10 * 2 ^ 32 * 1001 ∧ step.natAbs ≤ 2 ^ 40) ∧
    (∃ (c : Call) (cursor : Nat) (r : Req) (s : State), Serves c 0x8043 r s ∧ CursorOk c 0x8043 cursor r s) := by
  exact ⟨⟨c0, 65535, sched1, (rqOf s27_0), s27_0, by unfold Serves Waits; decide +kernel, by decide +kernel⟩,
    ⟨c0, 2, 4095, sched1, (rqOf s27_1), s27_1, by unfold Serves Waits; decide +kernel, by decide +kernel⟩,
    ⟨c0, 255, 0, 4096, 0, 65536, (rqOf s27_2), s27_2, by unfold Serves Waits; decide +kernel, by decide +kernel⟩,
    ⟨c0, 0, (rqOf s27_3), s27_3, by unfold Serves Waits; decide +kernel, by unfold CursorOk; decide +kernel⟩,
    ⟨c0, 0, 0, meter1, (rqOf s27_4), s27_4, ⟨meter1, none, 0, 0, 0, 0, 0⟩, by unfold Serves Waits; decide +kernel, by decide +kernel⟩,
    ⟨c0, 1, 4095, meter1, (rqOf s27_5), s27_5, by unfold Serves Waits; decide +kernel, by decide +kernel⟩,
    ⟨c0, 0, (rqOf s27_6), s27_6, by unfold Serves Waits; decide +kernel, by unfold CursorOk; decide +kernel⟩,
    ⟨c0, 7, (⟨0, 1000, [(255, 1)]⟩ : Timetable), (rqOf s27_7), s27_7, by unfold Serves Waits; decide +kernel, by decide +kernel⟩,
    ⟨c0, 0, (rqOf s27_8), s27_8, by unfold Serves Waits; decide +kernel, by unfold CursorOk; decide +kernel⟩,
    ⟨c0, (10 * 2 ^ 32), (-(2 ^ 40)), (rqOf s27_9), s27_9, by unfold Serves Waits; decide +kernel, by decide +kernel⟩,
    ⟨c0, 0, (rqOf s27_10), s27_10, by unfold Serves Waits; decide +kernel, by unfold CursorOk; decide +kernel⟩⟩

def s28_0 : State := ask 0x8050 0 [] up
def s28_1 : State := ask 0x8051 0 [] up
def s28_2 : State := ask 0x8052 0 [] up
def s28_3 : State := ask 0x8053 0 [] (upPp (fun p => { p with cards := [(0, card1)] }))
def s28_4 : State := ask 0x8054 0 [] up
def s28_5 : State := ask 0x8060 0 [] up
def s28_6 : State := ask 0x8850 0 [] up
def s28_7 : State := upPp (fun p => { p with cards := [(0, card1)] })
theorem witness_PipelineReportsComplete :
    (∃ (c : Call) (lo : Nat) (n : Nat) (k : Nat) (on : Bool) (r : Req) (s : State), Serves c 0x8050 r s ∧ 1 ≤ n ∧ lo + n ≤ 65536 ∧ k ≤ 10 ∧ c.func = 0 ∧ (sampleQueues r.part lo n k on s.pp.hists).length ≤ 4096) ∧
    (∃ (c : Call) (cursor : Nat) (r : Req) (s : State), Serves c 0x8051 r s ∧ CursorOk c 0x8051 cursor r s) ∧
    (∃ (c : Call) (p : CardSet) (r : Req) (s : State), Serves c 0x8052 r s ∧ cardOk c r.part p s = true ∧ (tget s.pp.cards c.func).any (fun k => k.stalled.isSome) = false) ∧
    (∃ (c : Call) (k : Card) (r : Req) (s : State), Serves c 0x8053 r s ∧ tget s.pp.cards c.func = some k) ∧
    (∃ (c : Call) (cursor : Nat) (r : Req) (s : State), Serves c 0x8054 r s ∧ CursorOk c 0x8054 cursor r s) ∧
    (∃ (c : Call) (p : PuntSet) (r : Req) (s : State), Serves c 0x8060 r s ∧ puntOk p = true ∧ ringsBusy s = false) ∧
    (∃ (c : Call) (n : Nat) (r : Req) (s : State), Serves c 0x8850 r s ∧ 1 ≤ n ∧ n ≤ 64 ∧ refillStaged s = none) ∧
    (∃ (f : Nat) (k : Card) (s : State), tget s.pp.cards f = some k ∧ k.set.periodMs ≠ 0) := by
  exact ⟨⟨c0, 0, 1, 10, true, (rqOf s28_0), s28_0, by unfold Serves Waits; decide +kernel, by decide +kernel⟩,
    ⟨c0, 0, (rqOf s28_1), s28_1, by unfold Serves Waits; decide +kernel, by unfold CursorOk; decide +kernel⟩,
    ⟨c0, (⟨4096, 10, 10000, 31, 65535, 1⟩ : CardSet), (rqOf s28_2), s28_2, by unfold Serves Waits; decide +kernel, by decide +kernel⟩,
    ⟨c0, ((tget s28_3.pp.cards c0.func).get (by decide +kernel)), (rqOf s28_3), s28_3, by unfold Serves Waits; decide +kernel, (Option.some_get _).symm⟩,
    ⟨c0, 0, (rqOf s28_4), s28_4, by unfold Serves Waits; decide +kernel, by unfold CursorOk; decide +kernel⟩,
    ⟨c0, (⟨0, 4, 0, 12⟩ : PuntSet), (rqOf s28_5), s28_5, by unfold Serves Waits; decide +kernel, by decide +kernel⟩,
    ⟨c0, 64, (rqOf s28_6), s28_6, by unfold Serves Waits; decide +kernel, by decide +kernel⟩,
    ⟨0, ((tget s28_7.pp.cards 0).get (by decide +kernel)), s28_7, (Option.some_get _).symm, by decide +kernel⟩⟩

def s29_2 : State := upPp (fun p => { p with up := [0] })
def s29_3 : State := upTree none
def s29_4 : State := upTree (some ⟨0, 64⟩)
def s29_5 : State := upPp (fun p => { p with refills := 62 })
theorem witness_FramesComplete :
    (∃ (node : Nat) (bytes : List Byte) (ecc : List EccHit) (room : Room) (bad : Bool) (s : State) (t : State), node ∈ s.pp.up ∧ rxBad node bytes s = false ∧ pipeInReset (nodeDie node) s = false ∧ findRoom (nodePort node) bytes.length (nodeCount node 1 bytes.length (nodeCount node 0 1 s)) = some room ∧ bufferFindings ecc (takeRoom room (nodeCount node 1 bytes.length (nodeCount node 0 1 s))) = (bad, t) ∧ bad = false) ∧
    (∃ (node : Nat) (bytes : List Byte) (ecc : List EccHit) (room : Room) (bad : Bool) (s : State) (t : State), node ∈ s.pp.up ∧ rxBad node bytes s = false ∧ pipeInReset (nodeDie node) s = false ∧ findRoom (nodePort node) bytes.length (nodeCount node 1 bytes.length (nodeCount node 0 1 s)) = some room ∧ bufferFindings ecc (takeRoom room (nodeCount node 1 bytes.length (nodeCount node 0 1 s))) = (bad, t) ∧ bad = true) ∧
    (∃ (node : Nat) (bytes : List Byte) (s : State), node ∈ s.pp.up ∧ rxBad node bytes s = true ∧ isPause bytes = false) ∧
    (∃ (node : Nat) (ecc : List EccHit) (ks : List Nat) (f : TxFrame) (rest : List TxFrame) (bad : Bool) (s : State) (t : State) (v : State), node ∈ s.pp.up ∧ pickPath node 4 node s = some (ks, t) ∧ (sched? (0x10000 + (ks.getLast?.getD 0x10000 - 0x10000)) t).frames = f :: rest ∧ (if f.room.isSome then bufferFindings ecc t else (false, t)) = (bad, v) ∧ bad = false) ∧
    (∃ (node : Nat) (ecc : List EccHit) (ks : List Nat) (f : TxFrame) (rest : List TxFrame) (bad : Bool) (s : State) (t : State) (v : State), node ∈ s.pp.up ∧ pickPath node 4 node s = some (ks, t) ∧ (sched? (0x10000 + (ks.getLast?.getD 0x10000 - 0x10000)) t).frames = f :: rest ∧ (if f.room.isSome then bufferFindings ecc t else (false, t)) = (bad, v) ∧ bad = true) ∧
    (∃ (s : State), (s.pp.refills + 1) % 64 ≠ 0) := by
  exact ⟨⟨0, eth1, [], (⟨0, 64⟩ : Room), (bufferFindings [] (takeRoom (⟨0, 64⟩ : Room) (nodeCount 0 1 eth1.length (nodeCount 0 0 1 upEth)))).1, upEth, (bufferFindings [] (takeRoom (⟨0, 64⟩ : Room) (nodeCount 0 1 eth1.length (nodeCount 0 0 1 upEth)))).2, by decide +kernel, eth1_taken, by decide +kernel, by decide +kernel, pair_eta _, by decide +kernel⟩,
    ⟨0, eth1, [⟨.shared 0 0, .uncorrectable⟩], (⟨0, 64⟩ : Room), (bufferFindings [⟨.shared 0 0, .uncorrectable⟩] (takeRoom (⟨0, 64⟩ : Room) (nodeCount 0 1 eth1.length (nodeCount 0 0 1 upEth)))).1, upEth, (bufferFindings [⟨.shared 0 0, .uncorrectable⟩] (takeRoom (⟨0, 64⟩ : Room) (nodeCount 0 1 eth1.length (nodeCount 0 0 1 upEth)))).2, by decide +kernel, eth1_taken, by decide +kernel, by decide +kernel, pair_eta _, by decide +kernel⟩,
    ⟨0, [], s29_2, by decide +kernel⟩,
    ⟨0, [], (((pickPath 0 4 0 (upTree none)).get (by decide +kernel)).1), (⟨[1], 0, none, none⟩ : TxFrame), [], ((if (⟨[1], 0, none, none⟩ : TxFrame).room.isSome then bufferFindings [] (((pickPath 0 4 0 (upTree none)).get (by decide +kernel)).2) else (false, (((pickPath 0 4 0 (upTree none)).get (by decide +kernel)).2)))).1, s29_3, (((pickPath 0 4 0 (upTree none)).get (by decide +kernel)).2), ((if (⟨[1], 0, none, none⟩ : TxFrame).room.isSome then bufferFindings [] (((pickPath 0 4 0 (upTree none)).get (by decide +kernel)).2) else (false, (((pickPath 0 4 0 (upTree none)).get (by decide +kernel)).2)))).2, by decide +kernel, get2 _, by decide +kernel, pair_eta _, by decide +kernel⟩,
    ⟨0, [⟨.shared 0 0, .uncorrectable⟩], (((pickPath 0 4 0 (upTree (some ⟨0, 64⟩))).get (by decide +kernel)).1), (⟨[1], 0, some ⟨0, 64⟩, none⟩ : TxFrame), [], ((if (⟨[1], 0, some ⟨0, 64⟩, none⟩ : TxFrame).room.isSome then bufferFindings [⟨.shared 0 0, .uncorrectable⟩] (((pickPath 0 4 0 (upTree (some ⟨0, 64⟩))).get (by decide +kernel)).2) else (false, (((pickPath 0 4 0 (upTree (some ⟨0, 64⟩))).get (by decide +kernel)).2)))).1, s29_4, (((pickPath 0 4 0 (upTree (some ⟨0, 64⟩))).get (by decide +kernel)).2), ((if (⟨[1], 0, some ⟨0, 64⟩, none⟩ : TxFrame).room.isSome then bufferFindings [⟨.shared 0 0, .uncorrectable⟩] (((pickPath 0 4 0 (upTree (some ⟨0, 64⟩))).get (by decide +kernel)).2) else (false, (((pickPath 0 4 0 (upTree (some ⟨0, 64⟩))).get (by decide +kernel)).2)))).2, by decide +kernel, get2 _, by decide +kernel, pair_eta _, by decide +kernel⟩,
    ⟨s29_5, by decide +kernel⟩⟩

def sNc : State := ask 0x6010 0 [] (upPp (fun p => { p with sched := [(0x10000, Sched.fresh)] }))
def pNc : ConnSet := { addr := 0, type := 0, subnqn := [1], hostnqn := List.replicate 223 1, peers := List.replicate 5 (1, 1), txq := 0, portMask := 255 }
def s30_1 : State := ask 0x6011 0 [] (upSb (fun b => { b with conns := [(0, conn1)] }))
def s30_2 : State := ask 0x6020 0 [] (upNs id)
def s30_3 : State := ask 0x6021 0 [] (upNs (fun b => { b with nss := [(1, { ns1 with attached := [] })] }))
def s30_4 : State := ask 0x6022 0 [] (upNs id)
def s30_5 : State := ask 0x6022 0 [] (upNs id)
def s30_6 : State := ask 0x6023 0 [] (upNs id)
theorem witness_NamespacesComplete :
    (∃ (c : Call) (p : ConnSet) (n : Nat) (qs : List Nat) (r : Req) (s : State) (u : State), Serves c 0x6010 r s ∧ connSetOk r.part p s = true ∧ lowestFree (tkeys s.sb.conns) 0 256 = some n ∧ createQps r.part (connBound n) p p.peers (begun c 0x6010 s) = some (qs, u)) ∧
    (∃ (c : Call) (n : Nat) (k : Conn) (r : Req) (s : State), Serves c 0x6011 r s ∧ conn? n s = some k ∧ (∀ e ∈ s.sb.nss, e.2.conn ≠ n)) ∧
    (∃ (c : Call) (conn : Nat) (h : Nat) (nonatomic : Bool) (x : TargetNs) (k : Conn) (r : Req) (s : State), Serves c 0x6020 r s ∧ conn? conn s = some k ∧ k.online = true ∧ (x.blockSize = 512 ∨ x.blockSize = 4096) ∧ (atomicOk x = true ∨ nonatomic = true) ∧ nssOf k.part s < ((part? k.part s).map Part.namespaces).getD 0 ∧ lowestFree (tkeys s.sb.nss) 1 4095 = some h) ∧
    (∃ (c : Call) (h : Nat) (n : Ns) (r : Req) (s : State), Serves c 0x6021 r s ∧ ns? h s = some n ∧ n.attached = []) ∧
    (∃ (c : Call) (h : Nat) (f : Nat) (n : Ns) (r : Req) (s : State), Serves c 0x6022 r s ∧ ns? h s = some n ∧ f < 256 ∧ nsPart n s = some (funcPart f s) ∧ f ∉ n.attached ∧ s.sb.nss.countP (fun e => e.2.attached.contains f) < 256) ∧
    (∃ (c : Call) (h : Nat) (f : Nat) (n : Ns) (r : Req) (s : State), Serves c 0x6022 r s ∧ ns? h s = some n ∧ f ∈ n.attached ∧ s.sb.tasks.any (fun e => decide (e.1 ≤ serialKey) && taskFunc e.1 == f && e.2.cmd.ns == h) = false) ∧
    (∃ (c : Call) (h : Nat) (base : Nat) (size : Nat) (n : Ns) (r : Req) (s : State), Serves c 0x6023 r s ∧ ns? h s = some n ∧ (size = 0 ∨ cacheOk ((nsPart n s).getD 64) base size s = true) ∧ s.sb.tasks.any (fun e => e.2.cmd.ns == h && e.2.phase != .queued) = false) := by
  exact ⟨⟨c0, pNc, 0, (((createQps 0 (connBound 0) pNc pNc.peers (begun c0 0x6010 sNc)).get (by decide +kernel)).1), (rqOf sNc), sNc, (((createQps 0 (connBound 0) pNc pNc.peers (begun c0 0x6010 sNc)).get (by decide +kernel)).2), by unfold Serves Waits; decide +kernel, by decide +kernel, by decide +kernel, get2 _⟩,
    ⟨c0, 0, ((conn? 0 s30_1).get (by decide +kernel)), (rqOf s30_1), s30_1, by unfold Serves Waits; decide +kernel, (Option.some_get _).symm, by decide +kernel⟩,
    ⟨c0, 0, ((lowestFree (tkeys s30_2.sb.nss) 1 4095).get (by decide +kernel)), false, (⟨4096, 1, 262144, false⟩ : TargetNs), ((conn? 0 s30_2).get (by decide +kernel)), (rqOf s30_2), s30_2, by unfold Serves Waits; decide +kernel, (Option.some_get _).symm, by decide +kernel, by decide +kernel, by decide +kernel, by decide +kernel, (Option.some_get _).symm⟩,
    ⟨c0, 1, ((ns? 1 s30_3).get (by decide +kernel)), (rqOf s30_3), s30_3, by unfold Serves Waits; decide +kernel, (Option.some_get _).symm, by decide +kernel⟩,
    ⟨c0, 1, 255, ((ns? 1 s30_4).get (by decide +kernel)), (rqOf s30_4), s30_4, by unfold Serves Waits; decide +kernel, (Option.some_get _).symm, by decide +kernel⟩,
    ⟨c0, 1, 0, ((ns? 1 s30_5).get (by decide +kernel)), (rqOf s30_5), s30_5, by unfold Serves Waits; decide +kernel, (Option.some_get _).symm, by decide +kernel⟩,
    ⟨c0, 1, 0, 0, ((ns? 1 s30_6).get (by decide +kernel)), (rqOf s30_6), s30_6, by unfold Serves Waits; decide +kernel, (Option.some_get _).symm, by decide +kernel⟩⟩

def s31_0 : State := ask 0x6030 0 [] (upSb (fun b => { b with funcs := [(0, { SbFunc.fresh with frozen := true, errSeq := 7 })] }))
def s31_1 : State := ask 0x6031 0 [] up
def s31_2 : State := ask 0x6032 0 [] up
def s31_3 : State := ask 0x6850 0 [] up
def s31_4 : State := ask 0x6851 0 [] up
def s31_5 : State := ask 0x6000 0 [] up
def s31_6 : State := ask 0x6001 0 [] up
theorem witness_StorageSettingsComplete :
    (∃ (c : Call) (f : Nat) (q : Nat) (r : Req) (s : State), Serves c 0x6030 r s ∧ f < 256 ∧ (c.func = 0 ∨ f = c.func) ∧ (sbFunc f s).frozen = true ∧ (sbFunc f s).errSeq = q) ∧
    (∃ (c : Call) (f : Nat) (d : Nat) (us : List Nat) (r : Req) (s : State), Serves c 0x6031 r s ∧ f < 256 ∧ (c.func = 0 ∨ f = c.func) ∧ d ≤ 3 ∧ idleOk us = true) ∧
    (∃ (c : Call) (cls : Nat) (r : Req) (s : State), Serves c 0x6032 r s ∧ cls ≤ 3) ∧
    (∃ (c : Call) (h : Nat) (m : Nat) (l : Nat) (r : Req) (s : State), Serves c 0x6850 r s ∧ (∀ w ∈ [h, m, l], 1 ≤ w ∧ w ≤ 255)) ∧
    (∃ (c : Call) (r : Req) (s : State), Serves c 0x6851 r s ∧ s.sb.serial = none ∧ s.sb.tasks.any (fun e => decide (e.1 ≤ serialKey)) = false) ∧
    (∃ (c : Call) (cursor : Nat) (r : Req) (s : State), Serves c 0x6000 r s ∧ CursorOk c 0x6000 cursor r s) ∧
    (∃ (c : Call) (cursor : Nat) (r : Req) (s : State), Serves c 0x6001 r s ∧ CursorOk c 0x6001 cursor r s) := by
  exact ⟨⟨c0, 0, 7, (rqOf s31_0), s31_0, by unfold Serves Waits; decide +kernel, by decide +kernel⟩,
    ⟨c0, 255, 3, [10, 1000, 3600000000], (rqOf s31_1), s31_1, by unfold Serves Waits; decide +kernel, by decide +kernel⟩,
    ⟨c0, 3, (rqOf s31_2), s31_2, by unfold Serves Waits; decide +kernel, by decide +kernel⟩,
    ⟨c0, 255, 1, 1, (rqOf s31_3), s31_3, by unfold Serves Waits; decide +kernel, by decide +kernel⟩,
    ⟨c0, (rqOf s31_4), s31_4, by unfold Serves Waits; decide +kernel, by decide +kernel⟩,
    ⟨c0, 0, (rqOf s31_5), s31_5, by unfold Serves Waits; decide +kernel, by unfold CursorOk; decide +kernel⟩,
    ⟨c0, 0, (rqOf s31_6), s31_6, by unfold Serves Waits; decide +kernel, by unfold CursorOk; decide +kernel⟩⟩

def s32_0 : State := upNs (fun b => { b with tasks := [(3, Task.fresh task1 0)] })
def s32_1 : State := { upNs (fun b => { b with conns := [(0, { conn1 with out := [(0, ⟨.task 0 3, 1, 1⟩)] })] }) with qe := { Qe.fresh with qps := [(1, { qp1 with bound := connBound 0 })], collIn := [(1, List.replicate 16 0)] } }
def s32_2 : State := upNs id
def s32_3 : State := upSb (fun b => { b with conns := [(0, { conn1 with online := false })] })
def s32_5 : State := upSb (fun b => { b with funcs := [(0, { SbFunc.fresh with waking := true })] })
theorem witness_StorageEventsComplete :
    (∃ (n : Nat) (k : Nat) (c : Conn) (d : Conn) (s : State), n < 256 ∧ conn? n s = some c ∧ pick n c s = some (k, d)) ∧
    (∃ (i : Nat) (n : Nat) (f : Nat) (k : Nat) (bs : List Byte) (c : Conn) (e : CidEnt) (s : State) (t : State), takeResponse i s = some (n, bs, t) ∧ conn? n t = some c ∧ tget c.out (u bs 12 2) = some e ∧ e.owner = .task f k) ∧
    (∃ (n : Nat) (c : Conn) (s : State), conn? n s = some c ∧ c.online = true) ∧
    (∃ (n : Nat) (c : Conn) (peers : List (Nat × Nat)) (s : State), conn? n s = some c ∧ c.online = false ∧ peers.length = 5) ∧
    (∃ (f : Nat) (s : State), liveTasks f s = 0 ∧ (sbFunc f s).waking = false ∧ (sbFunc f s).sps < (sbFunc f s).deepest) ∧
    (∃ (f : Nat) (s : State), (sbFunc f s).waking = true) := by
  exact ⟨⟨0, (((pick 0 conn1 s32_0).get (by decide +kernel)).1), conn1, (((pick 0 conn1 s32_0).get (by decide +kernel)).2), s32_0, by decide +kernel, by decide +kernel, get2 _⟩,
    ⟨0, ((takeResponse 0 s32_1).get (by decide +kernel)).1, 0, 3, ((takeResponse 0 s32_1).get (by decide +kernel)).2.1, ((conn? ((takeResponse 0 s32_1).get (by decide +kernel)).1 ((takeResponse 0 s32_1).get (by decide +kernel)).2.2).get (by decide +kernel)), (⟨.task 0 3, 1, 1⟩ : CidEnt), s32_1, ((takeResponse 0 s32_1).get (by decide +kernel)).2.2, get3 _, (Option.some_get _).symm, by decide +kernel⟩,
    ⟨0, ((conn? 0 s32_2).get (by decide +kernel)), s32_2, (Option.some_get _).symm, by decide +kernel⟩,
    ⟨0, ((conn? 0 s32_3).get (by decide +kernel)), (List.replicate 5 (0, 0)), s32_3, (Option.some_get _).symm, by decide +kernel⟩,
    ⟨0, up, by decide +kernel⟩,
    ⟨0, s32_5, by decide +kernel⟩⟩

def sSer (r : Option Serial) : State := upNs (fun b => { b with serialMode := true, serial := r, lastSent := sbspPacket 2 7 [] })
def s33_0 : State := sSer none
def s33_1 : State := sSer none
def s33_2 : State := sSer (some (serial1 1))
def s33_3 : State := sSer (some (serial1 2))
def s33_4 : State := sSer none
def s33_5 : State := sSer (some (serial1 2))
theorem witness_SerialModeComplete :
    (∃ (bs : List Byte) (s : State), s.sb.serialMode = true ∧ sbspOk bs = true ∧ sbspType bs = 1 ∧ s.sb.serial = none ∧ serialBad (sbspBody bs) s = 0 ∧ (TaskCmd.parse (sbspBody bs)).opc ≠ 2) ∧
    (∃ (bs : List Byte) (s : State), s.sb.serialMode = true ∧ sbspOk bs = false) ∧
    (∃ (bs : List Byte) (r : Serial) (s : State), s.sb.serialMode = true ∧ sbspOk bs = true ∧ sbspType bs = 2 ∧ s.sb.serial = some r ∧ r.tag = sbspTag bs ∧ r.cmd.opc = 1 ∧ (sbspBody bs).length = 12 ∧ 1 ≤ leNat (((sbspBody bs).drop 8).take 4) ∧ leNat (((sbspBody bs).drop 8).take 4) ≤ 65536 ∧ leNat ((sbspBody bs).take 8) + leNat (((sbspBody bs).drop 8).take 4) ≤ serialBytes r.cmd s) ∧
    (∃ (bs : List Byte) (r : Serial) (o : Nat) (n : Nat) (s : State), s.sb.serialMode = true ∧ sbspOk bs = true ∧ sbspType bs = 3 ∧ s.sb.serial = some r ∧ r.tag = sbspTag bs ∧ r.cmd.opc = 2 ∧ r.grant = some (o, n) ∧ (r.data ++ sbspBody bs).length < o + n) ∧
    (∃ (bs : List Byte) (s : State), s.sb.serialMode = true ∧ sbspOk bs = true ∧ sbspType bs = 5 ∧ s.sb.lastSent ≠ [] ∧ sbspTag s.sb.lastSent = sbspTag bs) ∧
    (∃ (r : Serial) (s : State), s.sb.serial = some r ∧ r.grant.isSome = true ∧ r.cmd.opc = 2) := by
  exact ⟨⟨(sbspPacket 1 7 (List.replicate 48 0 |>.set 0 1 |>.set 1 1 |>.set 2 1 |>.set 4 1 |>.set 32 0xFF |>.set 33 0xFF)), s33_0, by decide +kernel, sbsp_ok _ _ _ (by decide), by decide +kernel⟩,
    ⟨[0xA5], s33_1, by decide +kernel⟩,
    ⟨(sbspPacket 2 7 (leBytes 8 0 ++ leBytes 4 512)), ((s33_2.sb.serial).get (by decide +kernel)), s33_2, by decide +kernel, sbsp_ok _ _ _ (by decide), by decide +kernel, (Option.some_get _).symm, by decide +kernel⟩,
    ⟨(sbspPacket 3 7 [1, 2]), ((s33_3.sb.serial).get (by decide +kernel)), 0, 512, s33_3, by decide +kernel, sbsp_ok _ _ _ (by decide), by decide +kernel, (Option.some_get _).symm, by decide +kernel⟩,
    ⟨(sbspPacket 5 7 []), s33_4, by decide +kernel, sbsp_ok _ _ _ (by decide), by decide +kernel⟩,
    ⟨((s33_5.sb.serial).get (by decide +kernel)), s33_5, (Option.some_get _).symm, by decide +kernel⟩⟩

def pRb : RebuildSet := { runId := 5, step := 1, copy := some 2, holder := 0, members := [], wrid := 0, cq := 0xFFFF, tally := 0xFFFF }
def s34_0 : State := ask 0x7000 0 [] gmapped
def s34_1 : State := ask 0x7001 0 [] (upCk (fun k => { k with setups := [(0, setup1)] }))
def s34_2 : State := ask 0x7010 0 [] upCkpt
def s34_3 : State := ask 0x7011 0 [] upCkpt
def s34_4 : State := ask 0x7012 0 [] (upCk (fun k => { k with setups := [(0, setup1)] }))
def s34_5 : State := ask 0x7013 0 [] (upJob (job2 .save .capture))
def s34_6 : State := ask 0x7021 0 [] up
def s34_7 : State := ask 0x7021 0 [] up
def s34_8 : State := ask 0x7022 0 [] up
def s34_9 : State := ask 0x7850 0 [] up
def s34_10 : State := ask 0x7020 0 [] up
theorem witness_CheckpointCommandsComplete :
    (∃ (c : Call) (runId : Nat) (h0 : Nat) (h1 : Nat) (size : Nat) (i : Nat) (ds : List Duty) (r : Req) (s : State) (t1 : State) (t2 : State) (u : State), Serves c 0x7000 r s ∧ 0 < runId ∧ runId < 2 ^ 64 ∧ (∀ e ∈ s.ck.setups, e.2.runId ≠ runId) ∧ size % 65536 = 0 ∧ 0 < size ∧ size ≤ 2 ^ 36 ∧ rangeInGddr r.part (size / 65536 + 2) h0 size (begun c 0x7000 s) = (true, t1) ∧ rangeInGddr r.part (size / 65536 + 2) h1 size t1 = (true, t2) ∧ lowestFree (tkeys t2.ck.setups) 0 16 = some i ∧ reserveDuties i size (dutiesOf { part := r.part, runId := runId, addrs := [h0, h1], halfSize := size, g := groupSize (levelNow t2), n := t2.jl.rc.size, level := levelNow t2, halves := [Half.fresh, Half.fresh], duties := [], lastStep := 0 } (ownAddr t2)) t2 = some (ds, u)) ∧
    (∃ (c : Call) (runId : Nat) (i : Nat) (st : Setup) (r : Req) (s : State), Serves c 0x7001 r s ∧ setupOf runId s = some (i, st) ∧ st.part = r.part ∧ (∀ e ∈ s.ck.jobs, e.2.setup ≠ i)) ∧
    (∃ (c : Call) (addr : Nat) (j : Nat) (bs : List Byte) (r : Req) (s : State) (t : State) (u : State), Serves c 0x7010 r s ∧ vaRead r.part addr 128 (begun c 0x7010 s) = (some bs, t) ∧ acceptSave r.part bs t = .ok u (Body.nums [j])) ∧
    (∃ (c : Call) (addr : Nat) (j : Nat) (bs : List Byte) (r : Req) (s : State) (t : State) (u : State), Serves c 0x7011 r s ∧ vaRead r.part addr 64 (begun c 0x7011 s) = (some bs, t) ∧ acceptRestore r.part bs t = .ok u (Body.nums [j])) ∧
    (∃ (c : Call) (p : RebuildSet) (i : Nat) (h : Nat) (j : Nat) (st : Setup) (r : Req) (s : State) (u : State), Serves c 0x7012 r s ∧ setupOf p.runId s = some (i, st) ∧ st.part = r.part ∧ (∀ q ∈ rebuildStreams p, q.addr ≠ 0 ∧ q.addr ≤ 65534) ∧ ((rebuildStreams p).map Stream.addr).eraseDups.length = ((rebuildStreams p).map Stream.addr).length ∧ tallyField r.part p.tally s = true ∧ cqField r.part p.cq s = true ∧ p.step < 2 ^ 64 ∧ freeHalf i st (begun c 0x7012 s) = some h ∧ addJob { newJob r.part i .rebuild .armed h p.wrid p.cq p.tally with usedStep := p.step, streams := rebuildStreams p } (begun c 0x7012 s) = some (j, u)) ∧
    (∃ (c : Call) (j : Nat) (x : CkJob) (r : Req) (s : State), Serves c 0x7013 r s ∧ ckJob? j s = some x ∧ x.part = r.part) ∧
    (∃ (c : Call) (size : Nat) (r : Req) (s : State), Serves c 0x7021 r s ∧ size = 0) ∧
    (∃ (c : Call) (base : Nat) (size : Nat) (r : Req) (s : State), Serves c 0x7021 r s ∧ size ≠ 0 ∧ base % 65536 = 0 ∧ size % 65536 = 0 ∧ stagingLo ≤ base ∧ base + size ≤ stagingHi ∧ s.parts.any (fun e => e.1 != r.part && e.2.staging.any (fun g => overlap base size g.2.1 g.2.2)) = false) ∧
    (∃ (c : Call) (ds : List (BitVec 256)) (r : Req) (s : State), Serves c 0x7022 r s ∧ ds.length ≤ 64) ∧
    (∃ (c : Call) (gb : Nat) (r : Req) (s : State), Serves c 0x7850 r s ∧ gb ≤ 800) ∧
    (∃ (c : Call) (cursor : Nat) (r : Req) (s : State), Serves c 0x7020 r s ∧ CursorOk c 0x7020 cursor r s) := by
  exact ⟨⟨c0, 5, 0, 0x100000, 65536, ((lowestFree (tkeys (rangeInGddr (rqOf s34_0).part (65536 / 65536 + 2) 0x100000 65536 (rangeInGddr (rqOf s34_0).part (65536 / 65536 + 2) 0 65536 (begun c0 0x7000 s34_0)).2).2.ck.setups) 0 16).get (by decide +kernel)), ((reserveDuties ((lowestFree (tkeys (rangeInGddr (rqOf s34_0).part (65536 / 65536 + 2) 0x100000 65536 (rangeInGddr (rqOf s34_0).part (65536 / 65536 + 2) 0 65536 (begun c0 0x7000 s34_0)).2).2.ck.setups) 0 16).get (by decide +kernel)) 65536 (dutiesOf { part := (rqOf s34_0).part, runId := 5, addrs := [0, 0x100000], halfSize := 65536, g := groupSize (levelNow (rangeInGddr (rqOf s34_0).part (65536 / 65536 + 2) 0x100000 65536 (rangeInGddr (rqOf s34_0).part (65536 / 65536 + 2) 0 65536 (begun c0 0x7000 s34_0)).2).2), n := (rangeInGddr (rqOf s34_0).part (65536 / 65536 + 2) 0x100000 65536 (rangeInGddr (rqOf s34_0).part (65536 / 65536 + 2) 0 65536 (begun c0 0x7000 s34_0)).2).2.jl.rc.size, level := levelNow (rangeInGddr (rqOf s34_0).part (65536 / 65536 + 2) 0x100000 65536 (rangeInGddr (rqOf s34_0).part (65536 / 65536 + 2) 0 65536 (begun c0 0x7000 s34_0)).2).2, halves := [Half.fresh, Half.fresh], duties := [], lastStep := 0 } (ownAddr (rangeInGddr (rqOf s34_0).part (65536 / 65536 + 2) 0x100000 65536 (rangeInGddr (rqOf s34_0).part (65536 / 65536 + 2) 0 65536 (begun c0 0x7000 s34_0)).2).2)) (rangeInGddr (rqOf s34_0).part (65536 / 65536 + 2) 0x100000 65536 (rangeInGddr (rqOf s34_0).part (65536 / 65536 + 2) 0 65536 (begun c0 0x7000 s34_0)).2).2).get (by decide +kernel)).1, (rqOf s34_0), s34_0, (rangeInGddr (rqOf s34_0).part (65536 / 65536 + 2) 0 65536 (begun c0 0x7000 s34_0)).2, (rangeInGddr (rqOf s34_0).part (65536 / 65536 + 2) 0x100000 65536 (rangeInGddr (rqOf s34_0).part (65536 / 65536 + 2) 0 65536 (begun c0 0x7000 s34_0)).2).2, ((reserveDuties ((lowestFree (tkeys (rangeInGddr (rqOf s34_0).part (65536 / 65536 + 2) 0x100000 65536 (rangeInGddr (rqOf s34_0).part (65536 / 65536 + 2) 0 65536 (begun c0 0x7000 s34_0)).2).2.ck.setups) 0 16).get (by decide +kernel)) 65536 (dutiesOf { part := (rqOf s34_0).part, runId := 5, addrs := [0, 0x100000], halfSize := 65536, g := groupSize (levelNow (rangeInGddr (rqOf s34_0).part (65536 / 65536 + 2) 0x100000 65536 (rangeInGddr (rqOf s34_0).part (65536 / 65536 + 2) 0 65536 (begun c0 0x7000 s34_0)).2).2), n := (rangeInGddr (rqOf s34_0).part (65536 / 65536 + 2) 0x100000 65536 (rangeInGddr (rqOf s34_0).part (65536 / 65536 + 2) 0 65536 (begun c0 0x7000 s34_0)).2).2.jl.rc.size, level := levelNow (rangeInGddr (rqOf s34_0).part (65536 / 65536 + 2) 0x100000 65536 (rangeInGddr (rqOf s34_0).part (65536 / 65536 + 2) 0 65536 (begun c0 0x7000 s34_0)).2).2, halves := [Half.fresh, Half.fresh], duties := [], lastStep := 0 } (ownAddr (rangeInGddr (rqOf s34_0).part (65536 / 65536 + 2) 0x100000 65536 (rangeInGddr (rqOf s34_0).part (65536 / 65536 + 2) 0 65536 (begun c0 0x7000 s34_0)).2).2)) (rangeInGddr (rqOf s34_0).part (65536 / 65536 + 2) 0x100000 65536 (rangeInGddr (rqOf s34_0).part (65536 / 65536 + 2) 0 65536 (begun c0 0x7000 s34_0)).2).2).get (by decide +kernel)).2, by unfold Serves Waits; decide +kernel, by decide +kernel, by decide +kernel, by decide +kernel, by decide +kernel, by decide +kernel, by decide +kernel, Prod.ext (by decide +kernel) rfl, Prod.ext (by decide +kernel) rfl, (Option.some_get _).symm, get2 _⟩,
    ⟨c0, 5, ((setupOf 5 s34_1).get (by decide +kernel)).1, ((setupOf 5 s34_1).get (by decide +kernel)).2, (rqOf s34_1), s34_1, by unfold Serves Waits; decide +kernel, get2 _, by decide +kernel⟩,
    ⟨c0, 0x4000, 0, ((vaRead (rqOf s34_2).part 0x4000 128 (begun c0 0x7010 s34_2)).1.get (by decide +kernel)), (rqOf s34_2), s34_2, (vaRead (rqOf s34_2).part 0x4000 128 (begun c0 0x7010 s34_2)).2, (okState (acceptSave (rqOf s34_2).part ((vaRead (rqOf s34_2).part 0x4000 128 (begun c0 0x7010 s34_2)).1.get (by decide +kernel)) (vaRead (rqOf s34_2).part 0x4000 128 (begun c0 0x7010 s34_2)).2)), by unfold Serves Waits; decide +kernel, Prod.ext (Option.some_get _).symm rfl, ok_of (by decide +kernel)⟩,
    ⟨c0, 0x5000, 0, ((vaRead (rqOf s34_3).part 0x5000 64 (begun c0 0x7011 s34_3)).1.get (by decide +kernel)), (rqOf s34_3), s34_3, (vaRead (rqOf s34_3).part 0x5000 64 (begun c0 0x7011 s34_3)).2, (okState (acceptRestore (rqOf s34_3).part ((vaRead (rqOf s34_3).part 0x5000 64 (begun c0 0x7011 s34_3)).1.get (by decide +kernel)) (vaRead (rqOf s34_3).part 0x5000 64 (begun c0 0x7011 s34_3)).2)), by unfold Serves Waits; decide +kernel, Prod.ext (Option.some_get _).symm rfl, ok_of (by decide +kernel)⟩,
    ⟨c0, pRb, 0, 0, 0, setup1, (rqOf s34_4), s34_4, (((addJob { newJob 0 0 .rebuild .armed 0 0 0xFFFF 0xFFFF with usedStep := 1, streams := rebuildStreams pRb } (begun c0 0x7012 s34_4)).get (by decide +kernel)).2), by unfold Serves Waits; decide +kernel, by decide +kernel⟩,
    ⟨c0, 1, ((ckJob? 1 s34_5).get (by decide +kernel)), (rqOf s34_5), s34_5, by unfold Serves Waits; decide +kernel, (Option.some_get _).symm, by decide +kernel⟩,
    ⟨c0, 0, (rqOf s34_6), s34_6, by unfold Serves Waits; decide +kernel, by decide +kernel⟩,
    ⟨c0, stagingLo, 65536, (rqOf s34_7), s34_7, by unfold Serves Waits; decide +kernel, by decide +kernel⟩,
    ⟨c0, (List.replicate 64 0), (rqOf s34_8), s34_8, by unfold Serves Waits; decide +kernel, by decide +kernel⟩,
    ⟨c0, 800, (rqOf s34_9), s34_9, by unfold Serves Waits; decide +kernel, by decide +kernel⟩,
    ⟨c0, 0, (rqOf s34_10), s34_10, by unfold Serves Waits; decide +kernel, by unfold CursorOk; decide +kernel⟩⟩

def s35_0 : State := upJob (job2 .save .armed)
def s35_1 : State := upJob (job2 .restore .armed)
def s35_2 : State := upJob (job2 .rebuild .armed)
def s35_3 : State := upJob (job2 .save .seal)
def s35_4 : State := upJob (job2 .save .drain)
def s35_5 : State := upJob (job2 .save .commit)
def s35_6 : State := upJob (job2 .save .capture)
def s35_7 : State := upJob (job2 .save .manifest)
def s35_8 : State := upJob (job2 .restore .place)
def s35_9 : State := upJob (job2 .save .capture)
def s35_10 : State := upCkMsg 1
def s35_11 : State := upCkMsg 6
def s35_12 : State := upCkMsg 2
def s35_13 : State := upCkMsg 3
def s35_14 : State := upCkMsg 4
def s35_15 : State := upCkMsg 5
def s35_16 : State := upCkMsg 7
theorem witness_CheckpointEventsComplete :
    (∃ (j : Nat) (x : CkJob) (s : State), ckJob? j s = some x ∧ x.phase = .armed ∧ armPassed x s = true ∧ x.kind = .save) ∧
    (∃ (j : Nat) (x : CkJob) (s : State), ckJob? j s = some x ∧ x.phase = .armed ∧ armPassed x s = true ∧ x.kind = .restore) ∧
    (∃ (j : Nat) (x : CkJob) (s : State), ckJob? j s = some x ∧ x.phase = .armed ∧ armPassed x s = true ∧ x.kind = .rebuild) ∧
    (∃ (j : Nat) (x : CkJob) (s : State), ckJob? j s = some x ∧ x.phase = .seal) ∧
    (∃ (j : Nat) (x : CkJob) (s : State), ckJob? j s = some x ∧ x.phase = .drain ∧ x.todo = [] ∧ x.busy = false) ∧
    (∃ (j : Nat) (x : CkJob) (s : State), ckJob? j s = some x ∧ x.phase = .commit ∧ x.todo = [] ∧ x.busy = false) ∧
    (∃ (j : Nat) (x : CkJob) (s : State), ckJob? j s = some x ∧ x.kind ≠ .rebuild ∧ x.phase ≠ .manifest) ∧
    (∃ (j : Nat) (x : CkJob) (s : State), ckJob? j s = some x ∧ x.kind = .save ∧ x.phase = .manifest) ∧
    (∃ (j : Nat) (x : CkJob) (s : State), ckJob? j s = some x ∧ x.phase = .place ∧ x.reads = []) ∧
    (∃ (j : Nat) (x : CkJob) (y : CkJob) (s : State), ckJob? j s = some x ∧ x.phase = .capture ∧ x.reads = [] ∧ ckJob? j (captureTiles j s) = some y ∧ y.tiles = []) ∧
    (∃ (i : Nat) (m : FwdIn) (s : State) (t : State), s.jl.arrived[i]? = some m ∧ m.cls = 2 ∧ t = { s with jl := { s.jl with arrived := s.jl.arrived.eraseIdx i } } ∧ (CkHead.parse m.data).kind = 1) ∧
    (∃ (i : Nat) (m : FwdIn) (s : State) (t : State), s.jl.arrived[i]? = some m ∧ m.cls = 2 ∧ t = { s with jl := { s.jl with arrived := s.jl.arrived.eraseIdx i } } ∧ (CkHead.parse m.data).kind = 6) ∧
    (∃ (i : Nat) (m : FwdIn) (s : State) (t : State), s.jl.arrived[i]? = some m ∧ m.cls = 2 ∧ t = { s with jl := { s.jl with arrived := s.jl.arrived.eraseIdx i } } ∧ (CkHead.parse m.data).kind = 2) ∧
    (∃ (i : Nat) (m : FwdIn) (s : State) (t : State), s.jl.arrived[i]? = some m ∧ m.cls = 2 ∧ t = { s with jl := { s.jl with arrived := s.jl.arrived.eraseIdx i } } ∧ (CkHead.parse m.data).kind = 3 ∧ manifestJob (CkHead.parse m.data) (takeRecord (CkHead.parse m.data) ((m.data.drop 32).take (CkHead.parse m.data).len) t) = none) ∧
    (∃ (i : Nat) (m : FwdIn) (s : State) (t : State), s.jl.arrived[i]? = some m ∧ m.cls = 2 ∧ t = { s with jl := { s.jl with arrived := s.jl.arrived.eraseIdx i } } ∧ (CkHead.parse m.data).kind = 4) ∧
    (∃ (i : Nat) (m : FwdIn) (s : State) (t : State), s.jl.arrived[i]? = some m ∧ m.cls = 2 ∧ t = { s with jl := { s.jl with arrived := s.jl.arrived.eraseIdx i } } ∧ (CkHead.parse m.data).kind = 5) ∧
    (∃ (i : Nat) (m : FwdIn) (s : State) (t : State) (j : Nat) (x : CkJob), s.jl.arrived[i]? = some m ∧ m.cls = 2 ∧ t = { s with jl := { s.jl with arrived := s.jl.arrived.eraseIdx i } } ∧ (CkHead.parse m.data).kind = 7 ∧ rebuildJob (CkHead.parse m.data) t = some (j, x)) := by
  exact ⟨⟨1, ((ckJob? 1 s35_0).get (by decide +kernel)), s35_0, (Option.some_get _).symm, by decide +kernel⟩,
    ⟨1, ((ckJob? 1 s35_1).get (by decide +kernel)), s35_1, (Option.some_get _).symm, by decide +kernel⟩,
    ⟨1, ((ckJob? 1 s35_2).get (by decide +kernel)), s35_2, (Option.some_get _).symm, by decide +kernel⟩,
    ⟨1, ((ckJob? 1 s35_3).get (by decide +kernel)), s35_3, (Option.some_get _).symm, by decide +kernel⟩,
    ⟨1, ((ckJob? 1 s35_4).get (by decide +kernel)), s35_4, (Option.some_get _).symm, by decide +kernel⟩,
    ⟨1, ((ckJob? 1 s35_5).get (by decide +kernel)), s35_5, (Option.some_get _).symm, by decide +kernel⟩,
    ⟨1, ((ckJob? 1 s35_6).get (by decide +kernel)), s35_6, (Option.some_get _).symm, by decide +kernel⟩,
    ⟨1, ((ckJob? 1 s35_7).get (by decide +kernel)), s35_7, (Option.some_get _).symm, by decide +kernel⟩,
    ⟨1, ((ckJob? 1 s35_8).get (by decide +kernel)), s35_8, (Option.some_get _).symm, by decide +kernel⟩,
    ⟨1, ((ckJob? 1 s35_9).get (by decide +kernel)), ((ckJob? 1 (captureTiles 1 s35_9)).get (by decide +kernel)), s35_9, (Option.some_get _).symm, by decide +kernel, by decide +kernel, (Option.some_get _).symm, by decide +kernel⟩,
    ⟨0, ((s35_10.jl.arrived[0]?).get (by decide +kernel)), s35_10, ({ s35_10 with jl := { s35_10.jl with arrived := s35_10.jl.arrived.eraseIdx 0 } }), (Option.some_get _).symm, by decide +kernel, rfl, by decide +kernel⟩,
    ⟨0, ((s35_11.jl.arrived[0]?).get (by decide +kernel)), s35_11, ({ s35_11 with jl := { s35_11.jl with arrived := s35_11.jl.arrived.eraseIdx 0 } }), (Option.some_get _).symm, by decide +kernel, rfl, by decide +kernel⟩,
    ⟨0, ((s35_12.jl.arrived[0]?).get (by decide +kernel)), s35_12, ({ s35_12 with jl := { s35_12.jl with arrived := s35_12.jl.arrived.eraseIdx 0 } }), (Option.some_get _).symm, by decide +kernel, rfl, by decide +kernel⟩,
    ⟨0, ((s35_13.jl.arrived[0]?).get (by decide +kernel)), s35_13, ({ s35_13 with jl := { s35_13.jl with arrived := s35_13.jl.arrived.eraseIdx 0 } }), (Option.some_get _).symm, by decide +kernel, rfl, by decide +kernel⟩,
    ⟨0, ((s35_14.jl.arrived[0]?).get (by decide +kernel)), s35_14, ({ s35_14 with jl := { s35_14.jl with arrived := s35_14.jl.arrived.eraseIdx 0 } }), (Option.some_get _).symm, by decide +kernel, rfl, by decide +kernel⟩,
    ⟨0, ((s35_15.jl.arrived[0]?).get (by decide +kernel)), s35_15, ({ s35_15 with jl := { s35_15.jl with arrived := s35_15.jl.arrived.eraseIdx 0 } }), (Option.some_get _).symm, by decide +kernel, rfl, by decide +kernel⟩,
    ⟨0, ((s35_16.jl.arrived[0]?).get (by decide +kernel)), s35_16, ({ s35_16 with jl := { s35_16.jl with arrived := s35_16.jl.arrived.eraseIdx 0 } }), 1, ({ job2 .rebuild .rebuild with usedStep := 1, streams := [⟨2, false, 0, none⟩] }), (Option.some_get _).symm, by decide +kernel, rfl, by decide +kernel⟩⟩

def s36_0 : State := ask 0x9010 0 ([1, 0, 32, 0, 0xFF, 0xFF, 0xFF, 0xFF] ++ List.replicate 72 0) up
def s36_1 : State := ask 0x9011 0 [] (upSec (fun x => { x with keys := [(1, ⟨2, 0, [], false, 0⟩)] }))
def s36_2 : State := ask 0x9030 0 [] up
def s36_3 : State := ask 0x9020 0 [] up
def s36_5 : State := ask 0x9850 0 [] up
def s36_6 : State := ask 0x9851 0 [] (upSec (fun x => { x with coresOut := [21] }))
def s36_7 : State := ask 0x9000 0 [] up
def s36_8 : State := ask 0x9001 0 [] up
def s36_9 : State := ask 0x9012 0 [] up
def s36_10 : State := ask 0x9021 0 [] up
def s36_11 : State := upSec (fun x => { x with rings := [(0, ⟨0, 4, 0, 0, 0, 0, 0, 0, .idle, [desc1]⟩)] })
theorem witness_SecurityCommandsComplete :
    (∃ (c : Call) (n : Nat) (r : Req) (s : State), Serves c 0x9010 r s ∧ keyFieldsOk r.payload = true ∧ u r.payload 1 1 = 0 ∧ 16 ≤ r.payload.length ∧ r.payload.length = keyPayload (u r.payload 0 1) 0 (u r.payload 2 1) ∧ xtsHalves (u r.payload 0 1) (u r.payload 2 1) (r.payload.drop 16) = false ∧ ((part? r.part s).map Part.keyClear).getD false = true ∧ keysOf r.part s + (u r.payload 0 1 == 1).toNat + 1 ≤ ((part? r.part s).map Part.keyLimit).getD 0 ∧ freeKey (u r.payload 0 1 == 1) s = some n) ∧
    (∃ (c : Call) (n : Nat) (k : KeySlot) (r : Req) (s : State), Serves c 0x9011 r s ∧ keySlot? n s = some k ∧ k.part = r.part ∧ keyNamed n k s = false) ∧
    (∃ (c : Call) (limit : Nat) (r : Req) (s : State), Serves c 0x9030 r s ∧ limit ≤ 65536 ∧ keysOf r.part s ≤ limit) ∧
    (∃ (c : Call) (base : Nat) (log : Nat) (vec : Nat) (r : Req) (s : State), Serves c 0x9020 r s ∧ base % 4096 = 0 ∧ base < 2 ^ 57 ∧ 4 ≤ log ∧ log ≤ 12 ∧ vec < vectors c.func ∧ (∀ k, cring? r.part s = some k → k.db = k.di)) ∧
    (∃ (c : Call) (k : Nat) (r : Req) (s : State), Serves c 0x9850 r s ∧ k ≤ 3 ∧ flashNames k 0 s = false ∧ flashNames k 1 s = false ∧ (∃ j, j < 4 ∧ j ≠ k ∧ bitOf j s.chip.revoked = false)) ∧
    (∃ (c : Call) (k : Nat) (r : Req) (s : State), Serves c 0x9851 r s ∧ k < 22 ∧ k ∈ s.sec.coresOut) ∧
    (∃ (c : Call) (cursor : Nat) (r : Req) (s : State), Serves c 0x9000 r s ∧ CursorOk c 0x9000 cursor r s) ∧
    (∃ (c : Call) (cursor : Nat) (r : Req) (s : State), Serves c 0x9001 r s ∧ CursorOk c 0x9001 cursor r s) ∧
    (∃ (c : Call) (cursor : Nat) (r : Req) (s : State), Serves c 0x9012 r s ∧ CursorOk c 0x9012 cursor r s) ∧
    (∃ (c : Call) (cursor : Nat) (r : Req) (s : State), Serves c 0x9021 r s ∧ CursorOk c 0x9021 cursor r s) ∧
    (∃ (part : Nat) (k : Nat) (ring : CipherRing) (p : StartedDesc → Bool) (e : StartedDesc) (out : List Byte) (tag : List Byte) (code : Nat) (detail : Nat) (s : State), cring? part s = some ring ∧ (∀ d, p d = true ↔ ∃ o t n m, d.st = .computed o t n m) ∧ (ring.descs.filter p)[k]? = some e ∧ e.st = .computed out tag code detail) := by
  exact ⟨⟨c0, ((freeKey (u (rqOf s36_0).payload 0 1 == 1) s36_0).get (by decide +kernel)), (rqOf s36_0), s36_0, by unfold Serves Waits; decide +kernel, by decide +kernel, by decide +kernel, by decide +kernel, by decide +kernel, by decide +kernel, by decide +kernel, by decide +kernel, (Option.some_get _).symm⟩,
    ⟨c0, 1, ((keySlot? 1 s36_1).get (by decide +kernel)), (rqOf s36_1), s36_1, by unfold Serves Waits; decide +kernel, (Option.some_get _).symm, by decide +kernel⟩,
    ⟨c0, 65536, (rqOf s36_2), s36_2, by unfold Serves Waits; decide +kernel, by decide +kernel⟩,
    ⟨c0, 4096, 12, 2047, (rqOf s36_3), s36_3, by unfold Serves Waits; decide +kernel, by decide +kernel, by decide +kernel, by decide +kernel, by decide +kernel, by decide +kernel, all_some (by decide +kernel)⟩,
    ⟨c0, 3, (rqOf s36_5), s36_5, by unfold Serves Waits; decide +kernel, by decide +kernel, by decide +kernel, by decide +kernel, ⟨0, by decide, by decide, by decide +kernel⟩⟩,
    ⟨c0, 21, (rqOf s36_6), s36_6, by unfold Serves Waits; decide +kernel, by decide +kernel⟩,
    ⟨c0, 0, (rqOf s36_7), s36_7, by unfold Serves Waits; decide +kernel, by unfold CursorOk; decide +kernel⟩,
    ⟨c0, 0, (rqOf s36_8), s36_8, by unfold Serves Waits; decide +kernel, by unfold CursorOk; decide +kernel⟩,
    ⟨c0, 0, (rqOf s36_9), s36_9, by unfold Serves Waits; decide +kernel, by unfold CursorOk; decide +kernel⟩,
    ⟨c0, 0, (rqOf s36_10), s36_10, by unfold Serves Waits; decide +kernel, by unfold CursorOk; decide +kernel⟩,
    ⟨0, 0, ((cring? 0 s36_11).get (by decide +kernel)), isDone, desc1, [], [], 0, 0, s36_11, (Option.some_get _).symm, fun d => by cases h : d.st <;> simp [isDone, h], by decide +kernel⟩⟩

def s37_1 : State := upSec (fun x => { x with spdm := { Spdm.fresh with phase := 1 } })
def s37_2 : State := upSec (fun x => { x with spdm := { Spdm.fresh with phase := 2 } })
def s37_6 : State := upSec (fun x => { x with spdm := { Spdm.fresh with phase := 3 } })
theorem witness_AttestationCompletes :
    (∃ (bs : List Byte) (s : State), responderUp s = true ∧ 4 ≤ bs.length ∧ u bs 1 1 = 0x84 ∧ u bs 0 1 = 0x10) ∧
    (∃ (bs : List Byte) (s : State), responderUp s = true ∧ 4 ≤ bs.length ∧ u bs 0 1 = 0x13 ∧ u bs 1 1 = 0xE1 ∧ s.sec.spdm.phase = 1) ∧
    (∃ (bs : List Byte) (s : State), responderUp s = true ∧ 4 ≤ bs.length ∧ u bs 0 1 = 0x13 ∧ u bs 1 1 = 0xE3 ∧ s.sec.spdm.phase = 2 ∧ algsOffered bs = true) ∧
    (∃ (bs : List Byte) (blocks : List Nat) (s : State), responderUp s = true ∧ 12 ≤ bs.length ∧ u bs 0 1 = 0x13 ∧ u bs 1 1 = 0xE0 ∧ 3 ≤ s.sec.spdm.phase ∧ bitOf 0 (u bs 2 1) = false ∧ measAsked (u bs 3 1) = some blocks) := by
  exact ⟨⟨[0x10, 0x84, 0, 0], up, by decide +kernel⟩,
    ⟨[0x13, 0xE1, 0, 0], s37_1, by decide +kernel⟩,
    ⟨[0x13, 0xE3, 0, 0] ++ List.replicate 8 0 ++ [8] ++ List.replicate 15 0 ++ [1], s37_2, by decide +kernel⟩,
    ⟨([0x13, 0xE0, 0, 0xFF] ++ List.replicate 8 0), ((measAsked (u ([0x13, 0xE0, 0, 0xFF] ++ List.replicate 8 0) 3 1)).get (by decide +kernel)), s37_6, by decide +kernel, by decide +kernel, by decide +kernel, by decide +kernel, by decide +kernel, by decide +kernel, (Option.some_get _).symm⟩⟩

def s38_0 : State := ask 0x2000 0 ([63] ++ List.replicate 31 0) up
def s38_1 : State := ask 0x2001 1 [] { up with parts := [(0, Part.zero), (1, Part.made ⟨1, 0, 0, 0, 0, 0, 0, 0, false⟩)] }
def s38_2 : State := { up with parts := [(0, Part.zero), (1, { Part.zero with destroying := true })] }
def s38_3 : State := ask 0x2002 1 [] { up with parts := [(0, Part.zero), (1, Part.zero)] }
def s38_4 : State := ask 0x2003 0 [] up
def s38_5 : State := ask 0x2003 0 [] up
def s38_6 : State := ask 0x2003 0 [] (upGr .empty .resident)
def s38_7 : State := ask 0x2010 0 [] up
theorem witness_PartitionsComplete :
    (∃ (c : Call) (n : Nat) (p : PartSet) (z : Part) (r : Req) (s : State), Serves c 0x2000 r s ∧ r.part = 0 ∧ p = PartSet.parse r.payload ∧ partSetOk p s = true ∧ p.slots = 0 ∧ part? 0 s = some z ∧ grantsMet p z s = true ∧ ((p.part = n ∧ n ≠ 0xFF ∧ part? n s = none) ∨ (p.part = 0xFF ∧ lowestFree (tkeys s.parts) 1 63 = some n))) ∧
    (∃ (c : Call) (r : Req) (s : State) (t : State), Serves c 0x2001 r s ∧ r.part ≠ 0 ∧ t = modPart r.part (fun x => { x with destroying := true, destroyer := some (callRef c s) }) (begun c 0x2001 s)) ∧
    (∃ (part : Nat) (p : Part) (s : State), part? part s = some p ∧ p.destroying = true ∧ partDrained part s = true) ∧
    (∃ (c : Call) (r : Req) (s : State), Serves c 0x2002 r s ∧ r.part ≠ 0) ∧
    (∃ (c : Call) (m : Nat) (n : Nat) (g : Group) (r : Req) (s : State), Serves c 0x2003 r s ∧ n ≤ 16 ∧ disabled 0 s = false ∧ s.ti.jobs.any (fun e => e.2.part == r.part) = false ∧ (group? r.part s).getD Group.fresh = g ∧ g.pinned = false ∧ g.slots.any (fun e => decide (n ≤ e.1) && slotLoading e.2) = false ∧ ((part? r.part s).map Part.slots).getD 0 = m ∧ n = m) ∧
    (∃ (c : Call) (m : Nat) (n : Nat) (g : Group) (r : Req) (s : State) (t : _), Serves c 0x2003 r s ∧ n ≤ 16 ∧ disabled 0 s = false ∧ s.ti.jobs.any (fun e => e.2.part == r.part) = false ∧ (group? r.part s).getD Group.fresh = g ∧ g.pinned = false ∧ g.slots.any (fun e => decide (n ≤ e.1) && slotLoading e.2) = false ∧ ((part? r.part s).map Part.slots).getD 0 = m ∧ m < n ∧ g.phase = .waiting ∧ grantSlots r.part n (withSlots m n g) (begun c 0x2003 s) = some t) ∧
    (∃ (c : Call) (m : Nat) (n : Nat) (g : Group) (r : Req) (s : State), Serves c 0x2003 r s ∧ n ≤ 16 ∧ disabled 0 s = false ∧ s.ti.jobs.any (fun e => e.2.part == r.part) = false ∧ (group? r.part s).getD Group.fresh = g ∧ g.pinned = false ∧ g.slots.any (fun e => decide (n ≤ e.1) && slotLoading e.2) = false ∧ ((part? r.part s).map Part.slots).getD 0 = m ∧ n < m ∧ g.phase ≠ .saving ∧ g.phase ≠ .restoring) ∧
    (∃ (c : Call) (cursor : Nat) (r : Req) (s : State), Serves c 0x2010 r s ∧ CursorOk c 0x2010 cursor r s) := by
  exact ⟨⟨c0, 63, (PartSet.parse (rqOf s38_0).payload), ((part? 0 s38_0).get (by decide +kernel)), (rqOf s38_0), s38_0, by unfold Serves Waits; decide +kernel, by decide +kernel, rfl, by decide +kernel, by decide +kernel, (Option.some_get _).symm, by decide +kernel⟩,
    ⟨c0, (rqOf s38_1), s38_1, (modPart (rqOf s38_1).part (fun x' => { x' with destroying := true, destroyer := some (callRef c0 s38_1) }) (begun c0 0x2001 s38_1)), by unfold Serves Waits; decide +kernel, by decide +kernel, rfl⟩,
    ⟨1, ((part? 1 s38_2).get (by decide +kernel)), s38_2, (Option.some_get _).symm, by decide +kernel⟩,
    ⟨c0, (rqOf s38_3), s38_3, by unfold Serves Waits; decide +kernel, by decide +kernel⟩,
    ⟨c0, 0, 0, Group.fresh, (rqOf s38_4), s38_4, by unfold Serves Waits; decide +kernel, by decide +kernel⟩,
    ⟨c0, 0, 16, Group.fresh, (rqOf s38_5), s38_5, (grantSlots 0 16 (withSlots 0 16 Group.fresh) (begun c0 0x2003 s38_5)).get (by decide +kernel), by unfold Serves Waits; decide +kernel, by decide +kernel, by decide +kernel, by decide +kernel, by decide +kernel, by decide +kernel, by decide +kernel, by decide +kernel, by decide +kernel, by decide +kernel, (Option.some_get _).symm⟩,
    ⟨c0, 1, 0, (group1 .empty .resident), (rqOf s38_6), s38_6, by unfold Serves Waits; decide +kernel, by decide +kernel⟩,
    ⟨c0, 0, (rqOf s38_7), s38_7, by unfold Serves Waits; decide +kernel, by unfold CursorOk; decide +kernel⟩⟩

def s39_0 : State := ask 0x2020 0 [] up
def s39_1 : State := ask 0x2021 0 [] up
def s39_2 : State := ask 0x2022 0 [] ({ up with funcs := tset up.funcs 255 { Func.fresh 255 with fstate := .enabled } })
def s39_3 : State := ask 0x2011 0 [] up
def s39_6 : State := { up with funcs := tset up.funcs 255 { Func.fresh 255 with fstate := .quiescing } }
def s39_7 : State := { up with funcs := tset up.funcs 255 { Func.fresh 255 with fstate := .quiescing } }
def s39_8 : State := { up with ep := { up.ep with vfEnable := true } }
theorem witness_FunctionsComplete :
    (∃ (c : Call) (f : Nat) (r : Req) (s : State), Serves c 0x2020 r s ∧ 1 ≤ f ∧ f < 256 ∧ (func? f s).fstate = .disabled) ∧
    (∃ (c : Call) (f : Nat) (r : Req) (s : State), Serves c 0x2021 r s ∧ 1 ≤ f ∧ f < 256 ∧ (func? f s).fstate = .disabled ∧ partLive (funcPart f s) s = true) ∧
    (∃ (c : Call) (f : Nat) (r : Req) (s : State), Serves c 0x2022 r s ∧ 1 ≤ f ∧ f < 256 ∧ (func? f s).fstate = .enabled) ∧
    (∃ (c : Call) (cursor : Nat) (r : Req) (s : State), Serves c 0x2011 r s ∧ CursorOk c 0x2011 cursor r s) ∧
    (∃ (f : Nat) (s : State), (func? f s).fstate = .enabled) ∧
    (∃ (f : Nat) (s : State), (func? f s).fstate = .disabled) ∧
    (∃ (f : Nat) (s : State), (func? f s).fstate = .quiescing ∧ quiesced f s = true) ∧
    (∃ (f : Nat) (s : State), (func? f s).fstate = .quiescing ∧ (func? f s).overdue = false) ∧
    (∃ (s : State), s.ep.vfEnable = true) ∧
    (∃ (s : State), s.chip.asserted = none ∧ (func? 0 (quiesceVfs s)).fstate = .enabled) ∧
    (∃ (f : Nat) (v : Nat) (s : State), v < vectors f ∧ (func? f s).unmasked.contains v = false) ∧
    (∃ (code : Nat), code ≤ 2) ∧
    (∃ (code : Nat), code ≤ 5) ∧
    (∃ (mib : Nat), (mib = 64 ∨ mib = 128 ∨ mib = 256)) := by
  exact ⟨⟨c0, 255, (rqOf s39_0), s39_0, by unfold Serves Waits; decide +kernel, by decide +kernel⟩,
    ⟨c0, 255, (rqOf s39_1), s39_1, by unfold Serves Waits; decide +kernel, by decide +kernel⟩,
    ⟨c0, 255, (rqOf s39_2), s39_2, by unfold Serves Waits; decide +kernel, by decide +kernel⟩,
    ⟨c0, 0, (rqOf s39_3), s39_3, by unfold Serves Waits; decide +kernel, by unfold CursorOk; decide +kernel⟩,
    ⟨0, up, by decide +kernel⟩,
    ⟨255, up, by decide +kernel⟩,
    ⟨255, s39_6, by decide +kernel⟩,
    ⟨255, s39_7, by decide +kernel⟩,
    ⟨s39_8, by decide +kernel⟩,
    ⟨up, by decide +kernel⟩,
    ⟨255, 63, up, by decide +kernel⟩,
    ⟨2, by decide +kernel⟩,
    ⟨5, by decide +kernel⟩,
    ⟨256, by decide +kernel⟩⟩

def s40_0 : State := upRun 0x80000000 tile1
def s40_1 : State := upRun 0x80000000 { tile1 with waiting := true }
def s40_2 : State := upRun 0 tile1
def s40_3 : State := upRun 0x8A000000 { tile1 with dma := [(0, dma1)] }
def s40_4 : State := upRun 0x89000000 tile1
def s40_5 : State := upRun 0x80000000 tile1
def s40_7 : State := upFwRun 0 { CoreRegs.fresh with waiting := true }
def s40_8 : State := upFwRun 0 CoreRegs.fresh
def s40_9 : State := upFwRun 0x89000000 CoreRegs.fresh
def s40_10 : State := upFwRun 0x80000000 CoreRegs.fresh
theorem witness_BundlesComplete :
    (∃ (t : Nat) (part : Nat) (slot : Nat) (s : State), issues t s = some (part, slot) ∧ (tile? t s).waiting = false) ∧
    (∃ (t : Nat) (part : Nat) (slot : Nat) (s : State), issues t s = some (part, slot) ∧ (tile? t s).waiting = true) ∧
    (∃ (t : Nat) (part : Nat) (slot : Nat) (ecc : List EccHit) (b : List Nat) (bytes : List Byte) (x : Tile) (f : Flow) (a : Plan) (s : State) (u : State), x = tile? t s ∧ b = fetchBundle (fun i => leNat (rdMem (spImem t) (4 * i) 4 s)) 65535 8 x.pc ∧ readSpan part ecc (lineFuel (4 * b.length)) ⟨spImem t, 4 * x.pc⟩ (4 * b.length) s = .ok bytes u ∧ f = flowOf 4 65535 x.pc b.length x.ix.toNat x.iy.toNat x.rstack (slotOf b 0) ∧ a = evalBundle t part slot x b u ∧ bundleCause false b ≠ 0) ∧
    (∃ (t : Nat) (part : Nat) (slot : Nat) (ecc : List EccHit) (b : List Nat) (bytes : List Byte) (x : Tile) (f : Flow) (a : Plan) (s : State) (u : State), x = tile? t s ∧ b = fetchBundle (fun i => leNat (rdMem (spImem t) (4 * i) 4 s)) 65535 8 x.pc ∧ readSpan part ecc (lineFuel (4 * b.length)) ⟨spImem t, 4 * x.pc⟩ (4 * b.length) s = .ok bytes u ∧ f = flowOf 4 65535 x.pc b.length x.ix.toNat x.iy.toNat x.rstack (slotOf b 0) ∧ a = evalBundle t part slot x b u ∧ bundleCause false b = 0 ∧ interlocked x b = true) ∧
    (∃ (t : Nat) (part : Nat) (slot : Nat) (ecc : List EccHit) (b : List Nat) (bytes : List Byte) (x : Tile) (f : Flow) (a : Plan) (s : State) (u : State), x = tile? t s ∧ b = fetchBundle (fun i => leNat (rdMem (spImem t) (4 * i) 4 s)) 65535 8 x.pc ∧ readSpan part ecc (lineFuel (4 * b.length)) ⟨spImem t, 4 * x.pc⟩ (4 * b.length) s = .ok bytes u ∧ f = flowOf 4 65535 x.pc b.length x.ix.toNat x.iy.toNat x.rstack (slotOf b 0) ∧ a = evalBundle t part slot x b u ∧ bundleCause false b = 0 ∧ interlocked x b = false ∧ f.exc ≠ 0) ∧
    (∃ (t : Nat) (part : Nat) (slot : Nat) (ecc : List EccHit) (b : List Nat) (bytes : List Byte) (x : Tile) (f : Flow) (a : Plan) (s : State) (u : State), x = tile? t s ∧ b = fetchBundle (fun i => leNat (rdMem (spImem t) (4 * i) 4 s)) 65535 8 x.pc ∧ readSpan part ecc (lineFuel (4 * b.length)) ⟨spImem t, 4 * x.pc⟩ (4 * b.length) s = .ok bytes u ∧ f = flowOf 4 65535 x.pc b.length x.ix.toNat x.iy.toNat x.rstack (slotOf b 0) ∧ a = evalBundle t part slot x b u ∧ bundleCause false b = 0 ∧ interlocked x b = false ∧ f.exc = 0 ∧ a.exc = [] ∧ a.stall = none) ∧
    (∃ (p : Nat) (s : State), fwIssues p s = true ∧ (proc? p s).core.waiting = false) ∧
    (∃ (p : Nat) (s : State), fwIssues p s = true ∧ (proc? p s).core.waiting = true) ∧
    (∃ (p : Nat) (b : List Nat) (x : CoreRegs) (f : Flow) (a : Plan) (s : State), x = (proc? p s).core ∧ b = fetchBundle (fun i => leNat (rdMem (spFwImem p) (4 * i) 4 s)) 262143 8 x.pc ∧ f = flowOf 16 262143 x.pc b.length x.ix.toNat x.iy.toNat x.rstack (slotOf b 0) ∧ a = fwEval p x b s ∧ bundleCause true b ≠ 0) ∧
    (∃ (p : Nat) (b : List Nat) (x : CoreRegs) (f : Flow) (a : Plan) (s : State), x = (proc? p s).core ∧ b = fetchBundle (fun i => leNat (rdMem (spFwImem p) (4 * i) 4 s)) 262143 8 x.pc ∧ f = flowOf 16 262143 x.pc b.length x.ix.toNat x.iy.toNat x.rstack (slotOf b 0) ∧ a = fwEval p x b s ∧ bundleCause true b = 0 ∧ f.exc ≠ 0) ∧
    (∃ (p : Nat) (b : List Nat) (x : CoreRegs) (f : Flow) (a : Plan) (s : State), x = (proc? p s).core ∧ b = fetchBundle (fun i => leNat (rdMem (spFwImem p) (4 * i) 4 s)) 262143 8 x.pc ∧ f = flowOf 16 262143 x.pc b.length x.ix.toNat x.iy.toNat x.rstack (slotOf b 0) ∧ a = fwEval p x b s ∧ bundleCause true b = 0 ∧ f.exc = 0 ∧ a.exc = [] ∧ a.stall = none) := by
  exact ⟨⟨0, ((issues 0 s40_0).get (by decide +kernel)).1, ((issues 0 s40_0).get (by decide +kernel)).2, s40_0, get2 _, by decide +kernel⟩,
    ⟨0, ((issues 0 s40_1).get (by decide +kernel)).1, ((issues 0 s40_1).get (by decide +kernel)).2, s40_1, get2 _, by decide +kernel⟩,
    ⟨0, 0, 0, [], (fetchBundle (fun i' => leNat (rdMem (spImem 0) (4 * i') 4 s40_2)) 65535 8 (tile? 0 s40_2).pc), (accBytes (fetched s40_2)), (tile? 0 s40_2), (flowOf 4 65535 (tile? 0 s40_2).pc (fetchBundle (fun i' => leNat (rdMem (spImem 0) (4 * i') 4 s40_2)) 65535 8 (tile? 0 s40_2).pc).length (tile? 0 s40_2).ix.toNat (tile? 0 s40_2).iy.toNat (tile? 0 s40_2).rstack (slotOf (fetchBundle (fun i' => leNat (rdMem (spImem 0) (4 * i') 4 s40_2)) 65535 8 (tile? 0 s40_2).pc) 0)), (evalBundle 0 0 0 (tile? 0 s40_2) (fetchBundle (fun i' => leNat (rdMem (spImem 0) (4 * i') 4 s40_2)) 65535 8 (tile? 0 s40_2).pc) (accState (fetched s40_2))), s40_2, (accState (fetched s40_2)), rfl, rfl, acc_of (by decide +kernel), rfl, rfl, by decide +kernel⟩,
    ⟨0, 0, 0, [], (fetchBundle (fun i' => leNat (rdMem (spImem 0) (4 * i') 4 s40_3)) 65535 8 (tile? 0 s40_3).pc), (accBytes (fetched s40_3)), (tile? 0 s40_3), (flowOf 4 65535 (tile? 0 s40_3).pc (fetchBundle (fun i' => leNat (rdMem (spImem 0) (4 * i') 4 s40_3)) 65535 8 (tile? 0 s40_3).pc).length (tile? 0 s40_3).ix.toNat (tile? 0 s40_3).iy.toNat (tile? 0 s40_3).rstack (slotOf (fetchBundle (fun i' => leNat (rdMem (spImem 0) (4 * i') 4 s40_3)) 65535 8 (tile? 0 s40_3).pc) 0)), (evalBundle 0 0 0 (tile? 0 s40_3) (fetchBundle (fun i' => leNat (rdMem (spImem 0) (4 * i') 4 s40_3)) 65535 8 (tile? 0 s40_3).pc) (accState (fetched s40_3))), s40_3, (accState (fetched s40_3)), rfl, rfl, acc_of (by decide +kernel), rfl, rfl, by decide +kernel⟩,
    ⟨0, 0, 0, [], (fetchBundle (fun i' => leNat (rdMem (spImem 0) (4 * i') 4 s40_4)) 65535 8 (tile? 0 s40_4).pc), (accBytes (fetched s40_4)), (tile? 0 s40_4), (flowOf 4 65535 (tile? 0 s40_4).pc (fetchBundle (fun i' => leNat (rdMem (spImem 0) (4 * i') 4 s40_4)) 65535 8 (tile? 0 s40_4).pc).length (tile? 0 s40_4).ix.toNat (tile? 0 s40_4).iy.toNat (tile? 0 s40_4).rstack (slotOf (fetchBundle (fun i' => leNat (rdMem (spImem 0) (4 * i') 4 s40_4)) 65535 8 (tile? 0 s40_4).pc) 0)), (evalBundle 0 0 0 (tile? 0 s40_4) (fetchBundle (fun i' => leNat (rdMem (spImem 0) (4 * i') 4 s40_4)) 65535 8 (tile? 0 s40_4).pc) (accState (fetched s40_4))), s40_4, (accState (fetched s40_4)), rfl, rfl, acc_of (by decide +kernel), rfl, rfl, by decide +kernel⟩,
    ⟨0, 0, 0, [], (fetchBundle (fun i' => leNat (rdMem (spImem 0) (4 * i') 4 s40_5)) 65535 8 (tile? 0 s40_5).pc), (accBytes (fetched s40_5)), (tile? 0 s40_5), (flowOf 4 65535 (tile? 0 s40_5).pc (fetchBundle (fun i' => leNat (rdMem (spImem 0) (4 * i') 4 s40_5)) 65535 8 (tile? 0 s40_5).pc).length (tile? 0 s40_5).ix.toNat (tile? 0 s40_5).iy.toNat (tile? 0 s40_5).rstack (slotOf (fetchBundle (fun i' => leNat (rdMem (spImem 0) (4 * i') 4 s40_5)) 65535 8 (tile? 0 s40_5).pc) 0)), (evalBundle 0 0 0 (tile? 0 s40_5) (fetchBundle (fun i' => leNat (rdMem (spImem 0) (4 * i') 4 s40_5)) 65535 8 (tile? 0 s40_5).pc) (accState (fetched s40_5))), s40_5, (accState (fetched s40_5)), rfl, rfl, acc_of (by decide +kernel), rfl, rfl, by decide +kernel⟩,
    ⟨0, up, by decide +kernel⟩,
    ⟨0, s40_7, by decide +kernel⟩,
    ⟨0, (fetchBundle (fun i' => leNat (rdMem (spFwImem 0) (4 * i') 4 s40_8)) 262143 8 ((proc? 0 s40_8).core).pc), ((proc? 0 s40_8).core), (flowOf 16 262143 ((proc? 0 s40_8).core).pc (fetchBundle (fun i' => leNat (rdMem (spFwImem 0) (4 * i') 4 s40_8)) 262143 8 ((proc? 0 s40_8).core).pc).length ((proc? 0 s40_8).core).ix.toNat ((proc? 0 s40_8).core).iy.toNat ((proc? 0 s40_8).core).rstack (slotOf (fetchBundle (fun i' => leNat (rdMem (spFwImem 0) (4 * i') 4 s40_8)) 262143 8 ((proc? 0 s40_8).core).pc) 0)), (fwEval 0 ((proc? 0 s40_8).core) (fetchBundle (fun i' => leNat (rdMem (spFwImem 0) (4 * i') 4 s40_8)) 262143 8 ((proc? 0 s40_8).core).pc) s40_8), s40_8, rfl, rfl, rfl, rfl, by decide +kernel⟩,
    ⟨0, (fetchBundle (fun i' => leNat (rdMem (spFwImem 0) (4 * i') 4 s40_9)) 262143 8 ((proc? 0 s40_9).core).pc), ((proc? 0 s40_9).core), (flowOf 16 262143 ((proc? 0 s40_9).core).pc (fetchBundle (fun i' => leNat (rdMem (spFwImem 0) (4 * i') 4 s40_9)) 262143 8 ((proc? 0 s40_9).core).pc).length ((proc? 0 s40_9).core).ix.toNat ((proc? 0 s40_9).core).iy.toNat ((proc? 0 s40_9).core).rstack (slotOf (fetchBundle (fun i' => leNat (rdMem (spFwImem 0) (4 * i') 4 s40_9)) 262143 8 ((proc? 0 s40_9).core).pc) 0)), (fwEval 0 ((proc? 0 s40_9).core) (fetchBundle (fun i' => leNat (rdMem (spFwImem 0) (4 * i') 4 s40_9)) 262143 8 ((proc? 0 s40_9).core).pc) s40_9), s40_9, rfl, rfl, rfl, rfl, by decide +kernel⟩,
    ⟨0, (fetchBundle (fun i' => leNat (rdMem (spFwImem 0) (4 * i') 4 s40_10)) 262143 8 ((proc? 0 s40_10).core).pc), ((proc? 0 s40_10).core), (flowOf 16 262143 ((proc? 0 s40_10).core).pc (fetchBundle (fun i' => leNat (rdMem (spFwImem 0) (4 * i') 4 s40_10)) 262143 8 ((proc? 0 s40_10).core).pc).length ((proc? 0 s40_10).core).ix.toNat ((proc? 0 s40_10).core).iy.toNat ((proc? 0 s40_10).core).rstack (slotOf (fetchBundle (fun i' => leNat (rdMem (spFwImem 0) (4 * i') 4 s40_10)) 262143 8 ((proc? 0 s40_10).core).pc) 0)), (fwEval 0 ((proc? 0 s40_10).core) (fetchBundle (fun i' => leNat (rdMem (spFwImem 0) (4 * i') 4 s40_10)) 262143 8 ((proc? 0 s40_10).core).pc) s40_10), s40_10, rfl, rfl, rfl, rfl, by decide +kernel⟩⟩

def s41_2 : State := ask 0xC012 0 [] (upStaged id)
def s41_3 : State := ask 0xC012 0 [] (upStaged (fun s => { s with pm := { s.pm with emerg := true } }))
def s41_4 : State := ask 0xC013 0 [] (upStaged (modProc 0 (fun x => { x with act := .armed })))
def s41_5 : State := ask 0xC014 0 [] up
def s41_8 : State := ask 0x1000 0 [] up
def s41_9 : State := ask 0x1001 0 [] up
def s41_10 : State := ask 0xC000 0 [] up
theorem witness_FirmwareCommandsComplete :
    (∃ (c : Call) (ks : List Nat) (x : StagedImage) (r : Req) (s : State), Serves c 0xC012 r s ∧ s.fw.staged = some x ∧ ks ≠ [] ∧ (∀ k ∈ ks, 1 ≤ k ∧ k ≤ 4 ∧ ∃ y ∈ x.comps, y.target = k) ∧ (∀ p ∈ ks.flatMap procsOf, (proc? p s).act = .none ∧ (proc? p s).pstate ≠ .switching) ∧ emergency s = false) ∧
    (∃ (c : Call) (ks : List Nat) (x : StagedImage) (r : Req) (s : State), Serves c 0xC012 r s ∧ s.fw.staged = some x ∧ ks ≠ [] ∧ (∀ k ∈ ks, 1 ≤ k ∧ k ≤ 4 ∧ ∃ y ∈ x.comps, y.target = k) ∧ (∀ p ∈ ks.flatMap procsOf, (proc? p s).act = .none ∧ (proc? p s).pstate ≠ .switching) ∧ emergency s = true) ∧
    (∃ (c : Call) (r : Req) (s : State), Serves c 0xC013 r s ∧ activating s = true) ∧
    (∃ (c : Call) (p : Nat) (r : Req) (s : State), Serves c 0xC014 r s ∧ p ≤ 18) ∧
    (∃ (c : Call) (cursor : Nat) (r : Req) (s : State), Serves c 0x1000 r s ∧ CursorOk c 0x1000 cursor r s) ∧
    (∃ (c : Call) (cursor : Nat) (r : Req) (s : State), Serves c 0x1001 r s ∧ CursorOk c 0x1001 cursor r s) ∧
    (∃ (c : Call) (cursor : Nat) (r : Req) (s : State), Serves c 0xC000 r s ∧ CursorOk c 0xC000 cursor r s) := by
  exact ⟨⟨c0, [1, 2, 3, 4], ((s41_2.fw.staged).get (by decide +kernel)), (rqOf s41_2), s41_2, by unfold Serves Waits; decide +kernel, (Option.some_get _).symm, by decide +kernel⟩,
    ⟨c0, [4], ((s41_3.fw.staged).get (by decide +kernel)), (rqOf s41_3), s41_3, by unfold Serves Waits; decide +kernel, (Option.some_get _).symm, by decide +kernel⟩,
    ⟨c0, (rqOf s41_4), s41_4, by unfold Serves Waits; decide +kernel, by decide +kernel⟩,
    ⟨c0, 18, (rqOf s41_5), s41_5, by unfold Serves Waits; decide +kernel, by decide +kernel⟩,
    ⟨c0, 0, (rqOf s41_8), s41_8, by unfold Serves Waits; decide +kernel, by unfold CursorOk; decide +kernel⟩,
    ⟨c0, 0, (rqOf s41_9), s41_9, by unfold Serves Waits; decide +kernel, by unfold CursorOk; decide +kernel⟩,
    ⟨c0, 0, (rqOf s41_10), s41_10, by unfold Serves Waits; decide +kernel, by unfold CursorOk; decide +kernel⟩⟩

def s42_0 : State := ask 0xB000 0 [] up
def s42_1 : State := ask 0xB001 0 [] up
def s42_2 : State := ask 0xB002 0 [] up
def s42_3 : State := ask 0xB010 0 [] up
def s42_4 : State := ask 0xB850 0 [] up
def s42_5 : State := { up with ev := { up.ev with flush := .fault 1 } }
def s42_8 : State := modChip (fun c => { c with pwrFail := true }) { up with ev := { up.ev with flush := .power } }
def s42_9 : State := { up with ev := { up.ev with flush := .power } }
def s42_10 : State := { up with ev := { up.ev with flush := .power } }
def s42_11 : State := { up with ev := { up.ev with held := true, owed := true } }
def s42_12 : State := { up with ev := { up.ev with held := true } }
theorem witness_RecorderComplete :
    (∃ (c : Call) (frm : Nat) (sev : Nat) (lo : Nat) (hi : Nat) (r : Req) (s : State), Serves c 0xB000 r s ∧ frm ≤ s.ev.wpos ∧ sev ≤ 3 ∧ lo ≤ hi) ∧
    (∃ (c : Call) (cursor : Nat) (r : Req) (s : State), Serves c 0xB001 r s ∧ CursorOk c 0xB001 cursor r s) ∧
    (∃ (c : Call) (r : Req) (s : State), Serves c 0xB002 r s) ∧
    (∃ (c : Call) (r : Req) (s : State), Serves c 0xB010 r s) ∧
    (∃ (c : Call) (k : Nat) (rate : Nat) (burst : Nat) (r : Req) (s : State), Serves c 0xB850 r s ∧ k ≤ 1023 ∧ rate ≤ 65535 ∧ 1 ≤ burst ∧ burst ≤ 1024) ∧
    (∃ (cause : Nat) (s : State), s.ev.flush = .fault cause) ∧
    (∃ (ns : Nat) (s : State), 200 ≤ ns ∧ faultFlush s = false) ∧
    (∃ (ns : Nat), ns < 200) ∧
    (∃ (s : State) (t : State), s.ev.flush = .power ∧ t = writeSlot 2 3072 s ∧ t.chip.pwrFail = true) ∧
    (∃ (s : State) (t : State), s.ev.flush = .power ∧ t = writeSlot 2 3072 s ∧ t.chip.pwrFail = false) ∧
    (∃ (s : State) (t : State), t = { s with chip := { s.chip with pwrFail := false } } ∧ s.ev.flush = .power) ∧
    (∃ (s : State) (t : State), t = { s with chip := { s.chip with pwrFail := false } } ∧ s.ev.flush ≠ .power ∧ s.ev.owed = true) ∧
    (∃ (s : State) (t : State), t = { s with chip := { s.chip with pwrFail := false } } ∧ s.ev.flush ≠ .power ∧ s.ev.owed = false) := by
  exact ⟨⟨c0, 0, 3, 0, 0, (rqOf s42_0), s42_0, by unfold Serves Waits; decide +kernel, by decide +kernel⟩,
    ⟨c0, 0, (rqOf s42_1), s42_1, by unfold Serves Waits; decide +kernel, by unfold CursorOk; decide +kernel⟩,
    ⟨c0, (rqOf s42_2), s42_2, by unfold Serves Waits; decide +kernel⟩,
    ⟨c0, (rqOf s42_3), s42_3, by unfold Serves Waits; decide +kernel⟩,
    ⟨c0, 1023, 65535, 1024, (rqOf s42_4), s42_4, by unfold Serves Waits; decide +kernel, by decide +kernel⟩,
    ⟨1, s42_5, by decide +kernel⟩,
    ⟨200, up, by decide +kernel⟩,
    ⟨199, by decide +kernel⟩,
    ⟨s42_8, (writeSlot 2 3072 s42_8), by decide +kernel, rfl, by decide +kernel⟩,
    ⟨s42_9, (writeSlot 2 3072 s42_9), by decide +kernel, rfl, by decide +kernel⟩,
    ⟨s42_10, ({ s42_10 with chip := { s42_10.chip with pwrFail := false } }), rfl, by decide +kernel⟩,
    ⟨s42_11, ({ s42_11 with chip := { s42_11.chip with pwrFail := false } }), rfl, by decide +kernel⟩,
    ⟨s42_12, ({ s42_12 with chip := { s42_12.chip with pwrFail := false } }), rfl, by decide +kernel⟩⟩

def s43_1 : State := modProc 1 (fun x => { x with pstate := .switching, target := some FwImage.none }) up
def s43_2 : State := modProc 1 (fun x => { x with target := some FwImage.none }) up
def s43_3 : State := modProc 1 (fun x => { x with pstate := .restarting }) up
def s43_4 : State := { up with mb := [(0, { Mailbox.fresh 0 with phase := .running true })], fw := { up.fw with changes := [⟨1, .rules, ⟨0, false, 0⟩, 3⟩] } }
def s43_5 : State := { up with mb := [(0, { Mailbox.fresh 0 with phase := .running true })], fw := { up.fw with changes := [⟨1, .rules, ⟨0, false, 0⟩, 3⟩] } }
def s43_6 : State := { up with fw := { up.fw with changes := [⟨1, .rules, ⟨0, false, 0⟩, 3⟩] } }
theorem witness_ProcessorEventsComplete :
    (∃ (p : Nat) (s : State), atBoundary p s = true) ∧
    (∃ (p : Nat) (t : FwImage) (s : State) (u : State), (proc? p s).target = some t ∧ (proc? p s).pstate = .switching ∧ u = fwEvent 0x0303 0 p ([0, 0, 0] ++ leBytes 8 t.build) (modSec (fun k => { k with measured := tset k.measured (procTarget p) t.digest }) (modProc p (fun x => { x with pstate := .running, previous := some x.active, active := t, core := atEntry t.entry }) s))) ∧
    (∃ (p : Nat) (s : State), (proc? p s).target.isSome = true ∧ (proc? p s).pstate = .running) ∧
    (∃ (p : Nat) (s : State), (proc? p s).pstate = .restarting) ∧
    (∃ (g : StagedChange) (s : State), s.fw.changes.head? = some g ∧ stillRunning g.mb s = true ∧ g.units = 3 ∧ unitsInReset g.kind s = 0) ∧
    (∃ (g : StagedChange) (s : State) (units : Nat) (late : Nat), s.fw.changes.head? = some g ∧ stillRunning g.mb s = true ∧ lateUnits units g s = late ∧ late ≠ 0) ∧
    (∃ (g : StagedChange) (unit : Nat) (s : State), s.fw.changes.head? = some g ∧ stillRunning g.mb s = false ∧ bitOf unit g.units = true ∧ g.units ≠ 2 ^ unit) := by
  exact ⟨⟨1, up, by decide +kernel⟩,
    ⟨1, (((proc? 1 s43_1).target).get (by decide +kernel)), s43_1, (fwEvent 0x0303 0 1 ([0, 0, 0] ++ leBytes 8 (((proc? 1 s43_1).target).get (by decide +kernel)).build) (modSec (fun k' => { k' with measured := tset k'.measured (procTarget 1) (((proc? 1 s43_1).target).get (by decide +kernel)).digest }) (modProc 1 (fun x' => { x' with pstate := .running, previous := some x'.active, active := (((proc? 1 s43_1).target).get (by decide +kernel)), core := atEntry (((proc? 1 s43_1).target).get (by decide +kernel)).entry }) s43_1))), (Option.some_get _).symm, by decide +kernel, rfl⟩,
    ⟨1, s43_2, by decide +kernel⟩,
    ⟨1, s43_3, by decide +kernel⟩,
    ⟨((s43_4.fw.changes.head?).get (by decide +kernel)), s43_4, (Option.some_get _).symm, by decide +kernel⟩,
    ⟨((s43_5.fw.changes.head?).get (by decide +kernel)), s43_5, 1, 1, (Option.some_get _).symm, by decide +kernel⟩,
    ⟨((s43_6.fw.changes.head?).get (by decide +kernel)), 1, s43_6, (Option.some_get _).symm, by decide +kernel⟩⟩

def s44_6 : State := ask 0x1020 0 [2] armedUp
def s44_7 : State := modChip (fun c => { c with soft := some .core }) up
def s44_8 : State := ask 0x1021 0 [] up
def s44_9 : State := ask 0x1870 0 ([4, 7, 0, 0] ++ leBytes 4 10000) up
def s44_10 : State := modChip (fun c => { c with blockRsts := [⟨4, 7, ⟨0, false, 0⟩⟩] }) up
theorem witness_ResetsComplete :
    (∃ (s : State), armed 4 s = true) ∧
    (∃ (s : State), armed 4 s = false) ∧
    (∃ (rail : Rail) (s : State), rail ≠ .vddAon ∧ rail ∉ s.chip.lowRails) ∧
    (∃ (s : State), armed 6 s = true) ∧
    (∃ (s : State), armed 6 s = false) ∧
    (∃ (bit : Nat) (s : State), (faultFlush s = false ∨ bit ∉ [4, 5, 6, 8] ∨ s.chip.asserted ≠ none)) ∧
    (∃ (c : Call) (l : Nat) (r : Req) (s : State), Serves c 0x1020 r s ∧ (r.payload.getD 0 0).toNat = l ∧ (l = 1 ∨ l = 2) ∧ armed 5 s = true) ∧
    (∃ (l : ResetLevel) (s : State), s.chip.soft = some l ∧ resetUnanswered s = false) ∧
    (∃ (c : Call) (cursor : Nat) (r : Req) (s : State), Serves c 0x1021 r s ∧ CursorOk c 0x1021 cursor r s) ∧
    (∃ (c : Call) (kind : Nat) (i : Nat) (t : Nat) (r : Req) (s : State), Serves c 0x1870 r s ∧ kind = u r.payload 0 1 ∧ i = u r.payload 1 1 ∧ t = u r.payload 4 4 ∧ i < blockCount kind ∧ u r.payload 2 2 = 0 ∧ (t = 0 ∨ (10 ≤ t ∧ t ≤ 10000)) ∧ s.chip.blockRsts.any (fun b => b.kind == kind && b.index == i) = false ∧ blockStaged kind s = false ∧ blockAllowed kind i s = true) ∧
    (∃ (kind : Nat) (i : Nat) (b : BlockRst) (s : State) (t : State), s.chip.blockRsts.find? (fun b => b.kind == kind && b.index == i) = some b ∧ resetBlock kind i s = t) := by
  exact ⟨⟨armedUp, by decide +kernel⟩,
    ⟨up, by decide +kernel⟩,
    ⟨(.vddIo : Rail), up, by decide +kernel⟩,
    ⟨armedUp, by decide +kernel⟩,
    ⟨up, by decide +kernel⟩,
    ⟨8, up, by decide +kernel⟩,
    ⟨c0, 2, (rqOf s44_6), s44_6, by unfold Serves Waits; decide +kernel, by decide +kernel, Or.inr rfl, by decide +kernel⟩,
    ⟨(.core : ResetLevel), s44_7, by decide +kernel⟩,
    ⟨c0, 0, (rqOf s44_8), s44_8, by unfold Serves Waits; decide +kernel, by unfold CursorOk; decide +kernel⟩,
    ⟨c0, (u (rqOf s44_9).payload 0 1), (u (rqOf s44_9).payload 1 1), (u (rqOf s44_9).payload 4 4), (rqOf s44_9), s44_9, by unfold Serves Waits; decide +kernel, rfl, rfl, rfl, by decide +kernel⟩,
    ⟨4, 7, ((s44_10.chip.blockRsts.find? (fun b' => b'.kind == 4 && b'.index == 7)).get (by decide +kernel)), s44_10, (resetBlock 4 7 s44_10), (Option.some_get _).symm, rfl⟩⟩

def s45_1 : State := modChip (fun c => { c with loaded := true, rootLock := true }) State.reset
def s45_3 : State := modChip (fun c => { c with bootImage := none, bootDone := false }) up
def s45_5 : State := modChip (fun c => { c with bootDone := false }) (upTr (fun t => { t with chans := chans .active }))
theorem witness_BootCompletes :
    (∃ (s : State), s.chip.loaded = false) ∧
    (∃ (s : State), s.chip.asserted.isSome = true ∧ s.chip.loaded = true ∧ s.chip.rootLock = true) ∧
    (∃ (d : Nat) (rest : List Nat) (s : State) (k : Nat) (ks : List Nat), (bootOrder s).filter (fun d => !s.chip.bootTried.contains d) = d :: rest ∧ s.chip.asserted = none ∧ s.chip.bootImage = none ∧ s.chip.recovery = false ∧ flashFails d s = k :: ks ∧ rest ≠ []) ∧
    (∃ (ch : Nat) (s : State), ch < 16 ∧ (chan? ch s).cstate = .untrained ∧ s.chip.bootImage.isSome = true) ∧
    (∃ (speed : Nat) (width : Nat) (flit : Bool) (s : State), linkOk speed width flit = true ∧ s.pm.tripped = false ∧ s.chip.bootImage.isSome = true ∧ s.chip.bootDone = false ∧ (∀ e ∈ s.tiers.chans, e.2.cstate ≠ .untrained)) := by
  exact ⟨⟨State.reset, by decide +kernel⟩,
    ⟨s45_1, by decide +kernel⟩,
    ⟨0, [1], s45_3, 1, [], by decide +kernel⟩,
    ⟨15, up, by decide +kernel⟩,
    ⟨6, 16, true, s45_5, by decide +kernel⟩⟩

def s46_0 : State := ask 0xA001 0 [] up
def s46_1 : State := ask 0xA010 0 [] up
def s46_2 : State := ask 0xA850 0 [] up
def s46_3 : State := ask 0xA851 0 [] up
def s46_4 : State := ask 0xA000 0 [] up
def s46_5 : State := { up with parts := [(0, { Part.zero with latTol := 1 })], pm := { up.pm with pstate := 1 } }
def s46_6 : State := modChip (fun c => { c with lcount := 10 ^ 12 }) { up with parts := [(0, { Part.zero with latTol := 0xFFFFFFFF })] }
def s46_8 : State := { up with pm := { up.pm with pstate := 1 } }
def s46_11 : State := { up with pm := { up.pm with emerg := true } }
theorem witness_PowerComplete :
    (∃ (c : Call) (us : Nat) (r : Req) (s : State), Serves c 0xA001 r s ∧ ((1 ≤ us ∧ us ≤ 1000000) ∨ us = 0xFFFFFFFF)) ∧
    (∃ (c : Call) (w : Nat) (r : Req) (s : State), Serves c 0xA010 r s ∧ 300 ≤ w ∧ w ≤ 650) ∧
    (∃ (c : Call) (t : Nat) (r : Req) (s : State), Serves c 0xA850 r s ∧ 85 ≤ t ∧ t ≤ 100) ∧
    (∃ (c : Call) (p : Nat) (r : Req) (s : State), Serves c 0xA851 r s ∧ p ≤ 4) ∧
    (∃ (c : Call) (cursor : Nat) (r : Req) (s : State), Serves c 0xA000 r s ∧ CursorOk c 0xA000 cursor r s) ∧
    (∃ (s : State) (t : State), governor s = false ∧ t = beginSwitch 1 s ∧ allowedState t < t.pm.pstate) ∧
    (∃ (s : State) (t : State), governor s = false ∧ t = beginSwitch 1 s ∧ t.pm.pstate ≤ allowedState t ∧ entryDue t = true) ∧
    (∃ (s : State) (t : State), governor s = false ∧ t = beginSwitch 1 s ∧ t.pm.pstate ≤ allowedState t ∧ entryDue t = false) ∧
    (∃ (s : State), (s.pm.pstate ≠ 0 ∨ s.pm.waking = true)) ∧
    (∃ (temps : List Nat) (steps : Nat) (s : State) (t : State), t = actThermal steps { s with pm := { s.pm with temps := temps } } ∧ t.pm.hottest.1 < 108) ∧
    (∃ (temps : List Nat) (steps : Nat) (s : State) (t : State), t = actThermal steps { s with pm := { s.pm with temps := temps } } ∧ 108 ≤ t.pm.hottest.1) ∧
    (∃ (s : State), s.pm.emerg = true ∧ s.pm.limits = [] ∧ governor s = false ∧ s.chip.pwrFail = false) ∧
    (∃ (n : Nat) (s : State), n = s.pm.wear + wearUnits s.pm.hottest.1 ∧ n < 57600000) ∧
    (∃ (a : Nat) (b : Nat) (o : Nat) (r : Reg) (s : State), s.chip.asserted ≠ some .powerOn ∧ i3cMap a = some (b, o) ∧ regAt b o s = some r) ∧
    (∃ (a : Nat) (s : State), s.chip.asserted ≠ some .powerOn ∧ i3cMap a = none) := by
  exact ⟨⟨c0, 0xFFFFFFFF, (rqOf s46_0), s46_0, by unfold Serves Waits; decide +kernel, by decide +kernel⟩,
    ⟨c0, 300, (rqOf s46_1), s46_1, by unfold Serves Waits; decide +kernel, by decide +kernel⟩,
    ⟨c0, 85, (rqOf s46_2), s46_2, by unfold Serves Waits; decide +kernel, by decide +kernel⟩,
    ⟨c0, 4, (rqOf s46_3), s46_3, by unfold Serves Waits; decide +kernel, by decide +kernel⟩,
    ⟨c0, 0, (rqOf s46_4), s46_4, by unfold Serves Waits; decide +kernel, by unfold CursorOk; decide +kernel⟩,
    ⟨s46_5, (beginSwitch 1 s46_5), by decide +kernel, rfl, by decide +kernel⟩,
    ⟨s46_6, (beginSwitch 1 s46_6), by decide +kernel, rfl, by decide +kernel⟩,
    ⟨up, (beginSwitch 1 up), by decide +kernel, rfl, by decide +kernel⟩,
    ⟨s46_8, by decide +kernel⟩,
    ⟨[107], 1, up, (actThermal 1 { up with pm := { up.pm with temps := [107] } }), rfl, by decide +kernel⟩,
    ⟨[108], 1, up, (actThermal 1 { up with pm := { up.pm with temps := [108] } }), rfl, by decide +kernel⟩,
    ⟨s46_11, by decide +kernel⟩,
    ⟨(up.pm.wear + wearUnits up.pm.hottest.1), up, rfl, by decide +kernel⟩,
    ⟨0, ((i3cMap 0).get (by decide +kernel)).1, ((i3cMap 0).get (by decide +kernel)).2, ((regAt ((i3cMap 0).get (by decide +kernel)).1 ((i3cMap 0).get (by decide +kernel)).2 up).get (by decide +kernel)), up, by decide +kernel, get2 _, (Option.some_get _).symm⟩,
    ⟨1, up, by decide +kernel⟩⟩

def s47_0 : State := { up with pending := [.cxlRemoveDrainEnd 0] }
theorem witness_StepTakesFront :
    (∃ (c : Instr) (rest : List Instr) (s : State), s.pending = c :: rest) ∧
    (∃ (s : State), s.pending = []) := by
  exact ⟨⟨(.cxlRemoveDrainEnd 0 : Instr), [], s47_0, by decide +kernel⟩,
    ⟨up, by decide +kernel⟩⟩

def s49_4 : State := { up with funcs := tset up.funcs 1 { Func.fresh 1 with fstate := .quiescing } }
def s49_8 : State := ask 0x1121 63 [] up
theorem witness_RequestChecksInOrder :
    (∃ (r : Req) (s : State), s.chip.recovery = false ∧ opKnown r.opcode s = false) ∧
    (∃ (r : Req) (s : State), s.chip.recovery = false ∧ opKnown r.opcode s = true ∧ (r.flags ≠ (opExpert r.opcode).toNat ∨ r.rsvd = true ∨ 63 < r.part ∨ 4064 < r.length)) ∧
    (∃ (f : Nat) (r : Req) (s : State), s.chip.recovery = false ∧ opKnown r.opcode s = true ∧ r.flags = (opExpert r.opcode).toNat ∧ r.rsvd = false ∧ r.part ≤ 63 ∧ r.length ≤ 4064 ∧ ((f ≠ 0 ∧ r.part ≠ funcPart f s) ∨ (f ≠ 0 ∧ opsPf.contains r.opcode = true) ∨ (opExpert r.opcode = true ∧ ((part? (funcPart f s) s).map Part.expert).getD false = false))) ∧
    (∃ (f : Nat) (r : Req) (s : State), s.chip.recovery = false ∧ opKnown r.opcode s = true ∧ r.flags = (opExpert r.opcode).toNat ∧ r.rsvd = false ∧ r.part ≤ 63 ∧ r.length ≤ 4064 ∧ (f = 0 ∨ (r.part = funcPart f s ∧ opsPf.contains r.opcode = false)) ∧ (opExpert r.opcode = false ∨ ((part? (funcPart f s) s).map Part.expert).getD false = true) ∧ (func? f s).fstate = .disabled) ∧
    (∃ (f : Nat) (r : Req) (s : State), s.chip.recovery = false ∧ opKnown r.opcode s = true ∧ r.flags = (opExpert r.opcode).toNat ∧ r.rsvd = false ∧ r.part ≤ 63 ∧ r.length ≤ 4064 ∧ (f = 0 ∨ (r.part = funcPart f s ∧ opsPf.contains r.opcode = false)) ∧ (opExpert r.opcode = false ∨ ((part? (funcPart f s) s).map Part.expert).getD false = true) ∧ (func? f s).fstate = .quiescing) ∧
    (∃ (f : Nat) (r : Req) (s : State), s.chip.recovery = false ∧ opKnown r.opcode s = true ∧ r.flags = (opExpert r.opcode).toNat ∧ r.rsvd = false ∧ r.part ≤ 63 ∧ r.length ≤ 4064 ∧ (f = 0 ∨ (r.part = funcPart f s ∧ opsPf.contains r.opcode = false)) ∧ (opExpert r.opcode = false ∨ ((part? (funcPart f s) s).map Part.expert).getD false = true) ∧ (func? f s).fstate = .enabled ∧ r.opcode ≠ 0x2000 ∧ partLive r.part s = false) ∧
    (∃ (f : Nat) (r : Req) (s : State) (n : _), s.chip.recovery = false ∧ opKnown r.opcode s = true ∧ r.flags = (opExpert r.opcode).toNat ∧ r.rsvd = false ∧ r.part ≤ 63 ∧ r.length ≤ 4064 ∧ (f = 0 ∨ (r.part = funcPart f s ∧ opsPf.contains r.opcode = false)) ∧ (opExpert r.opcode = false ∨ ((part? (funcPart f s) s).map Part.expert).getD false = true) ∧ (func? f s).fstate = .enabled ∧ (r.opcode = 0x2000 ∨ partLive r.part s = true) ∧ opLength r.opcode = some n ∧ r.length ≠ n) ∧
    (∃ (f : Nat) (r : Req) (s : State), s.chip.recovery = false ∧ opKnown r.opcode s = true ∧ r.flags = (opExpert r.opcode).toNat ∧ r.rsvd = false ∧ r.part ≤ 63 ∧ r.length ≤ 4064 ∧ (f = 0 ∨ (r.part = funcPart f s ∧ opsPf.contains r.opcode = false)) ∧ (opExpert r.opcode = false ∨ ((part? (funcPart f s) s).map Part.expert).getD false = true) ∧ (func? f s).fstate = .enabled ∧ (r.opcode = 0x2000 ∨ partLive r.part s = true) ∧ (∀ n, opLength r.opcode = some n → r.length = n)) ∧
    (∃ (i : Instr) (c : Call) (op : Nat) (st : Nat) (r : Req) (s : State), opcodeOf i = some (c, op) ∧ Waits c op r s ∧ (s.chip.recovery = true ∨ (proc? 2 s).pstate ≠ .switching) ∧ precheck c.func r s = some st) := by
  exact ⟨⟨(rq 0xFFFF 0 []), up, by decide +kernel⟩,
    ⟨({ rq 0x1000 0 [] with length := 4065 }), up, by decide +kernel⟩,
    ⟨1, (rq 0x1020 0 [1]), up, by decide +kernel⟩,
    ⟨1, (rq 0x1000 0 []), up, by decide +kernel⟩,
    ⟨1, (rq 0x1000 0 []), s49_4, by decide +kernel⟩,
    ⟨0, (rq 0x1000 63 []), up, by decide +kernel⟩,
    ⟨0, (rq 0x1020 0 []), up, 1, by decide +kernel⟩,
    ⟨0, (rq 0x1020 0 [1]), up, by decide +kernel, by decide +kernel, by decide +kernel, (by decide +kernel), by decide +kernel, by decide +kernel, (by decide +kernel), by decide +kernel, by decide +kernel, by decide +kernel, all_some (by decide +kernel)⟩,
    ⟨(.cxlAdd c0 0 : Instr), c0, 0x1121, 7, (rq 0x1121 63 []), s49_8, by decide +kernel, by unfold Waits; decide +kernel, by decide +kernel⟩⟩

def s50_1 : State := modProc 2 (fun x => { x with pstate := .switching }) (ask 0x1121 0 [] up)
def s50_2 : State := modProc 0 (fun x => { x with pstate := .failed }) (ask 0x9012 0 [] up)
def s50_3 : State := ask 0x1121 0 [] up
def s50_4 : State := ask 0x1121 0 [] up
def s50_5 : State := modProc 2 (fun x => { x with pstate := .failed }) (ask 0x1121 0 [] up)
theorem witness_RequestsThatWait :
    (∃ (i : Instr) (c : Call) (op : Nat) (s : State), opcodeOf i = some (c, op) ∧ ((boxOf c s).phase ≠ .waiting ∨ (∀ r, (boxOf c s).req = some r → r.opcode ≠ op) ∨ (c.urgent = false ∧ urgentWaiting s = true) ∨ 64 ≤ runningCount s)) ∧
    (∃ (i : Instr) (c : Call) (op : Nat) (r : Req) (s : State), opcodeOf i = some (c, op) ∧ Waits c op r s ∧ precheck c.func r s = none ∧ s.chip.recovery = false ∧ ((proc? 2 s).pstate = .switching ∨ ((proc? 2 s).pstate = .running ∧ s.chip.bootDone = true ∧ (proc? (opProc op) s).pstate = .switching))) ∧
    (∃ (i : Instr) (c : Call) (op : Nat) (r : Req) (s : State), opcodeOf i = some (c, op) ∧ Waits c op r s ∧ precheck c.func r s = none ∧ s.chip.recovery = false ∧ (proc? 2 s).pstate ≠ .switching ∧ procDown (opProc op) s = true) ∧
    (∃ (i : Instr) (c : Call) (op : Nat) (r : Req) (s : State), opcodeOf i = some (c, op) ∧ Waits c op r s ∧ precheck c.func r s = none ∧ s.chip.recovery = false ∧ (proc? 2 s).pstate ≠ .switching ∧ procUp (opProc op) s = true ∧ c.wrongLen = true) ∧
    (∃ (i : Instr) (c : Call) (op : Nat) (r : Req) (s : State), opcodeOf i = some (c, op) ∧ Waits c op r s ∧ precheck c.func r s = none ∧ s.chip.recovery = false ∧ (proc? 2 s).pstate ≠ .switching ∧ procUp (opProc op) s = true ∧ c.wrongLen = false ∧ c.rsvdSet = true) ∧
    (∃ (i : Instr) (c : Call) (op : Nat) (r : Req) (s : State), opcodeOf i = some (c, op) ∧ (boxOf c s).phase = .waiting ∧ (boxOf c s).req = some r ∧ r.opcode = op ∧ (c.urgent = true ∨ urgentWaiting s = false) ∧ runningCount s < 64 ∧ hardwareAnswers c s = true) := by
  exact ⟨⟨(.cxlAdd c0 0 : Instr), c0, 0x1121, up, by decide +kernel, Or.inl (by decide +kernel)⟩,
    ⟨(.cxlAdd c0 0 : Instr), c0, 0x1121, (rq 0x1121 0 []), s50_1, by decide +kernel, by unfold Waits; decide +kernel, by decide +kernel⟩,
    ⟨(.readKeys c0 0 : Instr), c0, 0x9012, (rq 0x9012 0 []), s50_2, by decide +kernel, by unfold Waits; decide +kernel, by decide +kernel⟩,
    ⟨(.cxlAdd { c0 with wrongLen := true } 0 : Instr), ({ c0 with wrongLen := true }), 0x1121, (rq 0x1121 0 []), s50_3, by decide +kernel, by unfold Waits; decide +kernel, by decide +kernel⟩,
    ⟨(.cxlAdd { c0 with rsvdSet := true } 0 : Instr), ({ c0 with rsvdSet := true }), 0x1121, (rq 0x1121 0 []), s50_4, by decide +kernel, by unfold Waits; decide +kernel, by decide +kernel⟩,
    ⟨(.cxlAdd c0 0 : Instr), c0, 0x1121, (rq 0x1121 0 []), s50_5, by decide +kernel⟩⟩

def s53_0 : State := ask 0x9031 0 [] up
def s53_1 : State := ask 0x9031 0 [] up
theorem witness_FusedSvnRises :
    (∃ (c : Call) (v : Nat) (r : Req) (s : State), Serves c 0x9031 r s ∧ (64 < v ∨ v < s.chip.fusedSvn)) ∧
    (∃ (c : Call) (v : Nat) (r : Req) (s : State), Serves c 0x9031 r s ∧ v ≤ 64 ∧ s.chip.fusedSvn ≤ v ∧ (∃ d, (d = 0 ∨ d = 1) ∧ (flashFails d s ≠ [] ∨ (Image.parse (rdMem (spFlash d) 0 64 s)).svn < v))) ∧
    (∃ (i : Instr) (s : State) (t : State), (∀ c v, i ≠ .svnCommit c v) ∧ exec i s = .next t) := by
  exact ⟨⟨c0, 65, (rqOf s53_0), s53_0, by unfold Serves Waits; decide +kernel, by decide +kernel⟩,
    ⟨c0, 0, (rqOf s53_1), s53_1, by unfold Serves Waits; decide +kernel, by decide +kernel, by decide +kernel, ⟨0, by decide, Or.inl (by decide +kernel)⟩⟩,
    ⟨(.cxlRemoveDrainEnd 0 : Instr), up, up, (fun _ _ h => by cases h), rfl⟩⟩

def s54_3 : State := { upEth with chip := { upEth.chip with asserted := some .core } }
theorem witness_ResetLeavesPartitionZero :
    (∃ (s : State) (t : State), (t = systemState s ∨ t = coreState s)) ∧
    (∃ (a : Nat) (n : Nat), a + n ≤ spaceSize) ∧
    (∃ (node : Nat) (bs : List Byte) (s : State), s.chip.asserted = some .core ∧ node ∈ s.pp.up ∧ rxBad node bs s = false) := by
  exact ⟨⟨up, (coreState up), Or.inr rfl⟩,
    ⟨0, 64, by decide +kernel⟩,
    ⟨0, eth1, s54_3, by decide +kernel, by decide +kernel, eth1_taken⟩⟩

theorem witness_DeepestResetApplies :
    (∃ (s : State), s.chip.asserted.isSome = true) := by
  exact ⟨State.reset, by decide +kernel⟩

def s56_5 : State := ask 0x1020 0 [1] up
theorem witness_ArmedSources :
    (∃ (bit : Nat) (s : State) (t : State), (bit = 1 ∨ bit = 4 ∨ bit = 7 ∨ bit = 8) ∧ armed bit s = false ∧ t = faultSource bit s) ∧
    (∃ (bit : Nat) (s : State) (t : State), (bit = 1 ∨ bit = 4 ∨ bit = 7 ∨ bit = 8) ∧ armed bit s = false ∧ t = faultSource bit s ∧ s.ev.flush = .none ∧ s.ev.held = false) ∧
    (∃ (c : Call) (r : Req) (s : State), Serves c 0x1020 r s ∧ ((r.payload.getD 0 0).toNat = 1 ∨ (r.payload.getD 0 0).toNat = 2) ∧ armed 5 s = false) ∧
    (∃ (s : State), armed 6 s = false) := by
  exact ⟨⟨8, up, (faultSource 8 up), by decide +kernel, by decide +kernel, rfl⟩,
    ⟨1, up, (faultSource 1 up), by decide +kernel, by decide +kernel, rfl, by decide +kernel⟩,
    ⟨c0, (rqOf s56_5), s56_5, by unfold Serves Waits; decide +kernel, by decide +kernel⟩,
    ⟨up, by decide +kernel⟩⟩

def s59_1 : State := upQe (fun e => { e with passes := [(0, ⟨.valid, 254, 3, 0, 0, 0, 64, 0xFFFF, none⟩)] })
def s59_2 : State := upQe (fun e => { e with passes := [(0, ⟨.valid, 255, 3, 0, 0, 0, 64, 0xFFFF, none⟩)] })
def s59_4 : State := { upQe (fun e => { e with passes := [(0, ⟨.free, 254, 3, 0, 0, 0, 64, 0xFFFF, none⟩)], freed := [(0, [0])] }) with parts := [(0, { Part.zero with passes := 1 })] }
def s59_5 : State := upQe (fun e => { e with passes := [(0, ⟨.valid, 255, 3, 0, 0, 0, 64, 0xFFFF, none⟩)] })
theorem witness_HallPassKeys :
    (∃ (part : Nat) (rights : Nat) (bind : Nat) (base : Nat) (len : Nat) (tally : Nat) (key : Nat) (s : State) (t : State), issuePass part rights bind base len tally s = some (key, t)) ∧
    (∃ (i : Nat) (p : Pass) (s : State), pass? i s = some p ∧ p.gen < 255) ∧
    (∃ (i : Nat) (p : Pass) (s : State), pass? i s = some p ∧ p.gen = 255) ∧
    (∃ (key : Nat), key % 256 = 0) ∧
    (∃ (part : Nat) (i : Nat) (rest : List Nat) (s : State), passesOf part s < ((part? part s).map Part.passes).getD 0 ∧ s.qe.passes.countP (fun e => e.2.part == part) = ((part? part s).map Part.passes).getD 0 ∧ tgetD s.qe.freed part [] = i :: rest) ∧
    (∃ (i : Nat) (p : Pass) (s : State), pass? i s = some p) := by
  exact ⟨⟨0, 7, 0, 0, 64, 0xFFFF, ((issuePass 0 7 0 0 64 0xFFFF up).get (by decide +kernel)).1, up, ((issuePass 0 7 0 0 64 0xFFFF up).get (by decide +kernel)).2, get2 _⟩,
    ⟨0, ((pass? 0 s59_1).get (by decide +kernel)), s59_1, (Option.some_get _).symm, by decide +kernel⟩,
    ⟨0, ((pass? 0 s59_2).get (by decide +kernel)), s59_2, (Option.some_get _).symm, by decide +kernel⟩,
    ⟨256, by decide +kernel⟩,
    ⟨0, 0, [], s59_4, by decide +kernel⟩,
    ⟨0, ((pass? 0 s59_5).get (by decide +kernel)), s59_5, (Option.some_get _).symm⟩⟩

/-! Clauses whose hypotheses rest on what an opaque function of Config answers: a state that meets the rest of them, given that answer. -/

/-- The part after boot, both flash devices holding the image. -/
def sImages : State := wrMem (spFlash 0) 0 image1 (wrMem (spFlash 1) 0 image1 up)
def sSvn : State := ask 0x9031 0 [] sImages

theorem witness_FusedSvnRises_given (h : ∀ d, d = 0 ∨ d = 1 → flashFails d sSvn = []) :
    ∃ (c : Call) (v : Nat) (r : Req) (s : State), Serves c 0x9031 r s ∧ v ≤ 64 ∧ s.chip.fusedSvn ≤ v ∧
      (∀ d, d = 0 ∨ d = 1 → flashFails d s = [] ∧ v ≤ (Image.parse (rdMem (spFlash d) 0 64 s)).svn) :=
  ⟨c0, 0, rqOf sSvn, sSvn, by unfold Serves Waits; decide +kernel, by decide, by decide +kernel, fun d hd => ⟨h d hd, Nat.zero_le _⟩⟩

theorem witness_SecurityCommandsComplete_given (h : ∀ d, d = 0 ∨ d = 1 → flashFails d sSvn = []) :
    ∃ (c : Call) (v : Nat) (r : Req) (s : State), Serves c 0x9031 r s ∧ v ≤ 64 ∧ s.chip.fusedSvn ≤ v ∧
      flashAtLeast v 0 s = true ∧ flashAtLeast v 1 s = true :=
  ⟨c0, 0, rqOf sSvn, sSvn, by unfold Serves Waits; decide +kernel, by decide, by decide +kernel,
    by simp [flashAtLeast, h 0 (.inl rfl)], by simp [flashAtLeast, h 1 (.inr rfl)]⟩

theorem witness_BootCompletes_given (h : flashFails 0 sBoot = []) :
    ∃ (d : Nat) (rest : List Nat) (s : State), (bootOrder s).filter (fun d => !s.chip.bootTried.contains d) = d :: rest ∧
      s.chip.asserted = none ∧ s.chip.bootImage = none ∧ s.chip.recovery = false ∧ flashFails d s = [] :=
  ⟨0, [1], sBoot, by decide +kernel, by decide +kernel, by decide +kernel, by decide +kernel, h⟩

/-- The image's header passes check 1, so that the hypotheses above ask only what a signature and digests answer. -/
theorem test_image_header : imageHeadOk flashBytes (rdMem (spFlash 0) 0 4180 sBoot) = true := by decide +kernel

theorem witness_AttestationCompletes_given {chain : List Byte} (h : certChain = some chain) :
    ∃ s : State, responderUp s = true ∧ 3 ≤ s.sec.spdm.phase ∧ certChain = some chain ∧
      (∃ bs : List Byte, 4 ≤ bs.length ∧ u bs 0 1 = 0x13 ∧ u bs 1 1 = 0x81) ∧
      (∃ bs : List Byte, 4 ≤ bs.length ∧ u bs 0 1 = 0x13 ∧ u bs 1 1 = 0x82 ∧ u bs 2 1 = 0 ∧ 8 ≤ bs.length ∧
        u bs 4 2 < (spdmChain chain).length) ∧
      (∃ bs : List Byte, 4 ≤ bs.length ∧ u bs 0 1 = 0x13 ∧ u bs 1 1 = 0x83 ∧ u bs 2 1 = 0 ∧ 44 ≤ bs.length ∧ u bs 3 1 = 0) := by
  refine ⟨upSec (fun x => { x with spdm := { Spdm.fresh with phase := 3 } }), by decide +kernel, by decide, h,
    ⟨[0x13, 0x81, 0, 0], by decide⟩, ⟨[0x13, 0x82, 0, 0, 0, 0, 0xFF, 0xFF], by decide, by decide, by decide, by decide, by decide, ?_⟩,
    ⟨[0x13, 0x83, 0, 0] ++ List.replicate 40 0, by decide⟩⟩
  have e : u [0x13, 0x82, 0, 0, 0, 0, 0xFF, 0xFF] 4 2 = 0 := by decide
  rw [e]
  simp [spdmChain, leBytes] <;> omega

theorem witness_CxlDevicesComplete_given (h : Config.cxlPresent 0 0 = true) :
    ∃ (c : Call) (dev : Nat) (r : Req) (s : State), Serves c 0x1121 r s ∧ cxlIndexOk dev s = true ∧
      s.chip.blockRsts.any (fun b => b.kind == 5 && b.index == dev / 2) = false ∧
      ((cxl? dev s).cstate = .absent ∨ (cxl? dev s).cstate = .present) ∧ Config.cxlPresent dev s.chip.lcount = true :=
  ⟨c0, 0, rqOf (ask 0x1121 0 [] up), ask 0x1121 0 [] up, by unfold Serves Waits; decide +kernel, by decide +kernel, by decide +kernel,
    by decide +kernel, h⟩

def sStage : State := ask 0xC010 0 [] { mapped with mem := (wrMem spHost 0 image1 mapped).mem }
def sStage1 : Option (List Byte) × State := vaRead 0 0 64 (begun c0 0xC010 sStage)
def sStage2 : Option (List Byte) × State := vaRead 0 0 4180 sStage1.2

theorem witness_FirmwareCommandsComplete_given0 (h : imageFails (min 8192 flashBytes) false (sStage2.1.getD []) sStage2.2 = []) :
    ∃ (c : Call) (addr len n b : Nat) (hd bs : List Byte) (r : Req) (s t1 t2 t3 : State),
      Serves c 0xC010 r s ∧ activating s = false ∧ vaRead 0 addr (min len 64) (begun c 0xC010 s) = (some hd, t1) ∧ n = u hd 24 4 ∧
      n ≤ len ∧ vaRead 0 addr n t1 = (some bs, t2) ∧ imageFails (min len flashBytes) false bs t2 = [] ∧
      reserve .stagedImage n (unreserve (fun x => x == .stagedImage) t2) = some (b, t3) :=
  ⟨c0, 0, 8192, 4180, ((reserve .stagedImage 4180 (unreserve (fun x => x == .stagedImage) sStage2.2)).getD (0, up)).1,
    sStage1.1.getD [], sStage2.1.getD [], rqOf sStage, sStage, sStage1.2, sStage2.2,
    ((reserve .stagedImage 4180 (unreserve (fun x => x == .stagedImage) sStage2.2)).getD (0, up)).2,
    by unfold Serves Waits; decide +kernel, by decide +kernel, Prod.ext (some_getD (by decide +kernel)) rfl, by decide +kernel, by decide,
    Prod.ext (some_getD (by decide +kernel)) rfl, h, some_getD (d := (0, up)) (by decide +kernel)⟩

def sFlash : State := ask 0xC011 0 [] { sImages with fw := { sImages.fw with staged := some staged1 } }

theorem witness_FirmwareCommandsComplete_given1 (h : flashFails 0 sFlash = []) :
    ∃ (c : Call) (img : Nat) (x : StagedImage) (r : Req) (s : State), Serves c 0xC011 r s ∧ s.fw.staged = some x ∧ img ≤ 1 ∧
      (∀ k < 6, ∃ y ∈ x.comps, y.target = k) ∧ flashFails (1 - img) s = [] :=
  ⟨c0, 1, staged1, rqOf sFlash, sFlash, by unfold Serves Waits; decide +kernel, by decide +kernel, by decide, by decide, h⟩

theorem itemsOf_count (k : Nat) : ∀ (n : Nat) (bs : List Byte), (itemsOf k n bs).length = n
  | 0, _ => rfl
  | n + 1, bs => by simp [itemsOf, itemsOf_count k n]

/-- A dump of more rows than a piece of any length a free value may give. -/
def sDump : State := modProc 0 (fun p => { p with dump := some { cause := 0, exc := 0, pc := 0, time := 0, build := 0, seq := 0, len := 8 * (Config.pieceRows 0 + 2) } }) (ask 0xC001 0 [] up)

theorem witness_FirmwareCommandsComplete_piece :
    ∃ (c : Call) (p cursor : Nat) (r : Req) (s : State), Serves c 0xC001 r s ∧ CursorOk c 0xC001 cursor r s ∧ p ≤ 18 ∧
      cursor + (Config.pieceRows s.draws + 1) < (dumpRows p s).length := by
  refine ⟨c0, 0, 0, rqOf sDump, sDump, by unfold Serves Waits; decide +kernel, by unfold CursorOk; decide +kernel, by decide, ?_⟩
  have e : (proc? 0 sDump).dump = some { cause := 0, exc := 0, pc := 0, time := 0, build := 0, seq := 0, len := 8 * (Config.pieceRows 0 + 2) } := rfl
  have d : sDump.draws = 0 := rfl
  simp [dumpRows, e, d, itemsOf_count]
  omega

def sRecover : State := ask 0xC015 0 [] { mapped with
  mem := (wrMem spHost 0 image1 mapped).mem, chip := { mapped.chip with recovery := true } }

theorem witness_FirmwareCommandsComplete_given7 (h : imageFails (min 8192 flashBytes) true (rdMem spHost 0 4180 sRecover) (begun c0 0xC015 sRecover) = []) :
    ∃ (c : Call) (addr len n : Nat) (bs : List Byte) (r : Req) (s : State), Waits c 0xC015 r s ∧ precheck c.func r s = none ∧
      c.rsvdSet = false ∧ c.wrongLen = false ∧ s.chip.recovery = true ∧ (proc? 0 s).pstate ≠ .switching ∧ canSend 0 s = true ∧
      n = leNat (rdMem spHost (addr + 24) 4 s) ∧ n ≤ len ∧ bs = rdMem spHost addr n s ∧ imageFails (min len flashBytes) true bs (begun c 0xC015 s) = [] :=
  ⟨c0, 0, 8192, 4180, rdMem spHost 0 4180 sRecover, rqOf sRecover, sRecover, by unfold Waits; decide +kernel, by decide +kernel, rfl, rfl,
    by decide +kernel, by decide +kernel, by decide +kernel, by decide +kernel, by decide, rfl, h⟩

/-! Statements about every state, whose only hypotheses are a step, a bound or a field's value. -/

theorem witness_FusedSvnRises_step : ∃ s t : State, step s = .next t := ⟨up, _, rfl⟩
theorem witness_MemoryStaysCanonical : ∃ s t : State, Memory.wf s.mem = true ∧ step s = .next t := ⟨up, _, by decide +kernel, rfl⟩
theorem witness_ResetState : ∃ f : Nat, f < 256 ∧ f ≠ 0 := ⟨255, by decide⟩
theorem witness_ResetLeavesPartitionZero_func :
    ∃ (s t : State) (f : Nat), (t = systemState s ∨ t = coreState s) ∧ 1 ≤ f ∧ f < 256 := ⟨up, systemState up, 255, .inl rfl, by decide⟩
theorem witness_ArmedSources_modes :
    (∃ (s : State) (bit : Nat), bitOf 0 (optByte 0 s) = false ∧ bit ≤ 8) ∧
    (∃ (s : State) (bit : Nat), bitOf 0 (optByte 0 s) = true ∧ bit ≤ 8) ∧
    (∃ (bit : Nat) (s t : State), (bit = 1 ∨ bit = 4 ∨ bit = 7 ∨ bit = 8) ∧ armed bit s = false ∧ t = faultSource bit s ∧ t.fw.procs ≠ [] ∧
      s.ev.flush = .none ∧ s.ev.held = false) :=
  ⟨⟨up, 8, by decide +kernel⟩, ⟨armedUp, 8, by decide +kernel⟩,
    ⟨8, up, faultSource 8 up, by decide, by decide +kernel, rfl, by decide +kernel⟩⟩
theorem witness_ElementValues :
    (∃ c : Nat, c < 128) ∧ (∃ c : Nat, 128 ≤ c ∧ c < 256) ∧ (∃ sc : Nat, sc < 0xFF) ∧
    (∃ f ∈ [fp32, bf16, fp16, e4m3, e5m2], ∃ c : Nat, f.maxCode < c % 2 ^ (f.eb + f.mb) ∧ f.infCode ≠ some (c % 2 ^ (f.eb + f.mb))) ∧
    (∃ f ∈ [fp32, bf16, fp16, e4m3, e5m2], ∃ (sat : Bool) (rm : RMode) (d : Nat) (x : FVal), f.decode (f.convert sat rm d x).code = .nan) :=
  ⟨⟨127, by decide⟩, ⟨255, by decide⟩, ⟨0xFE, by decide⟩, ⟨fp16, by decide, 0x7C01, by decide +kernel⟩,
    ⟨fp16, by decide, true, .rne, 0, .nan, by decide +kernel⟩⟩
theorem witness_ArithmeticWraps :
    (∃ w ix iy : Nat, ix < 2 ^ 32 ∧ iy < 2 ^ 32 ∧ specUpdate w ix iy ≠ []) ∧
    (∀ op ∈ [0, 1, 7, 10], ∃ w : Nat, bitOf 22 w = true ∧ bitOf 23 w = false ∧ sylOp w = op) ∧
    (∃ w : Nat, sylOp w ≠ 11 ∧ sylOp w ≠ 12) :=
  ⟨⟨0x800001, 0, 0, by decide +kernel⟩, fun op _ => ⟨op % 16 * 2 ^ 24 + 2 ^ 22, by
    simp only [List.mem_cons, List.not_mem_nil, or_false] at *
    rename_i h
    rcases h with rfl | rfl | rfl | rfl <;> decide +kernel⟩, ⟨0, by decide +kernel⟩⟩
end Sys2Proof.Tests
end

section
/-! The shared registers of a block, DEV_SCRATCH, and the reads that end in Completer Abort (O1). -/

namespace Sys2Proof.Machine

open Sys2Proof

variable {α : Type} {f off blk o size : Nat} {v : DWord} {s : State}

/-! ## Counter copies -/

/-- Writing `g c` at the key `b + c` for each `c` below `n` leaves each of them there: the keys differ. -/
theorem tget_foldl_range_tset (b : Nat) (g : Nat → α) (t : Tab α) {n c : Nat} (hc : c < n) :
    tget ((List.range n).foldl (fun t c => tset t (b + c) (g c)) t) (b + c) = some (g c) := by
  induction n with
  | zero => omega
  | succ n ih =>
    simp only [List.range_succ, List.foldl_append, List.foldl_cons, List.foldl_nil]
    by_cases hcn : c = n
    · subst hcn; exact tget_tset_same _ _ _
    · rw [tget_tset_other _ _ (by omega)]; exact ih (by omega)

/-- After the copy, a snapshot holds what its counter holds (R527). -/
theorem snapBlock_snap {c : Nat} (hc : c < counterCount blk) :
    tgetD (snapBlock blk s).regs.snaps (blk * 64 + c) 0 = counter blk c s := by
  have h := tget_foldl_range_tset (blk * 64) (fun c => counter blk c s) s.regs.snaps hc
  simp only [tgetD, snapBlock, h, Option.getD_some]

/-! ## Where the shared registers stand, and what a write to them does -/

theorem regAt_snapctl (h : blk ≠ bkRollCall) : regAt blk 0x3F00 s = some { Reg.ro false (mask 31 1) 0 with ws := 1 } := by
  rw [regAt, if_neg (by omega), if_pos rfl, if_neg h]

theorem regAt_errstat : regAt blk 0x3F08 s =
    some { Reg.ro false (if hasDoor blk then mask 26 16 else mask 27 16) (errStatVal blk s) with wc := mask 31 30 } := by
  rw [regAt, if_pos rfl]

theorem regAt_scratch : regAt (bkDevice f) 0x28 s =
    some { Reg.ro true 0 ((tgetD s.regs.scratch f 0).toNat) with rw := mask 63 0 } := by
  rw [regAt_low (by omega), ownReg_dev]
  rfl

theorem regEffect_snapctl {v : Nat} (h : bitOf 0 v = true) : regEffect blk 0x3F00 v s = some (snapBlock blk s) := by
  rw [regEffect, if_neg (by omega), if_pos rfl, if_pos h]

theorem regEffect_errstat {v : Nat} (h : bitOf 31 v = true) : regEffect blk 0x3F08 v s =
    some { s with regs := { s.regs with
      err := tset s.regs.err blk { valid := false, ovf := false, cause := 0, offset := 0, door := false } } } := by
  rw [regEffect, if_pos rfl]
  simp only [errStatWrite, h, if_true]

theorem regEffect_scratch {v : Nat} : regEffect (bkDevice f) 0x28 v s =
    some { s with regs := { s.regs with scratch := tset s.regs.scratch f (BitVec.ofNat 64 v) } } := by
  have e : bkDevice f - 0x2000 = f := by unfold bkDevice; omega
  rw [regEffect, if_neg (by omega), if_neg (by omega), if_pos (by unfold bkDevice; omega), e]
  rfl

/-- The doorbells, whose writes need an ENABLED function, stand at offsets 0 and 0x18. -/
theorem notQuiet_of_offset (h0 : o ≠ 0) (h18 : o ≠ 0x18) :
    ((isBk blk 0x100 64 && o == 0) || (blk == bkPipe 0 && o == 0x18)) = false := by
  simp [h0, h18]

theorem inMboxArea_of_le (h : 0x2000 ≤ o) : inMboxArea blk o = false := by
  simp [inMboxArea, Nat.not_lt.mpr h]

/-! ## The writes -/

theorem regWrite_scratch (h : HostReg f off (bkDevice f) 0x28 s) :
    regWrite (hostPut f off 8 v) s = { s with regs := { s.regs with scratch := tset s.regs.scratch f v } } := by
  have he := regEffect_scratch (f := f) (v := v.toNat) (s := s)
  rw [BitVec.ofNat_toNat, BitVec.setWidth_eq] at he
  exact regWrite_whole h regAt_scratch he (by omega) (by omega) (inMboxArea_false (.inr (by unfold bkDevice; omega)))
    rfl v.isLt (Nat.and_zero _) (.inl (notQuiet_of_offset (by omega) (by omega)))

theorem regWrite_snapctl (h : HostReg f off blk 0x3F00 s) (hb : blk ≠ bkRollCall) :
    regWrite (hostPut f off 4 1) s = snapBlock blk s :=
  regWrite_whole h (regAt_snapctl hb) (regEffect_snapctl (by decide)) (by omega) (by omega) (inMboxArea_of_le (by omega))
    rfl (by decide) (by decide) (.inl (notQuiet_of_offset (by omega) (by omega)))

theorem regWrite_errstat_valid (h : HostReg f off blk 0x3F08 s) :
    regWrite (hostPut f off 4 0x80000000) s = { s with regs := { s.regs with
      err := tset s.regs.err blk { valid := false, ovf := false, cause := 0, offset := 0, door := false } } } := by
  have hz : (0x80000000 : DWord).toNat &&& (if hasDoor blk then mask 26 16 else mask 27 16) = 0 := by
    split <;> decide
  exact regWrite_whole h regAt_errstat (regEffect_errstat (by decide)) (by omega) (by omega) (inMboxArea_of_le (by omega))
    rfl (by decide) hz (.inl (notQuiet_of_offset (by omega) (by omega)))

/-! ## What the instructions run -/

theorem exec_registerWrite (w : RegWrite) (s : State) : exec (.registerWrite w) s = .next (settle (regWrite w s)) := rfl

theorem exec_snap (w : RegWrite) (s : State) : exec (.snap w) s = execSnap w s := rfl

theorem exec_errstatClear (w : RegWrite) (s : State) : exec (.errstatClear w) s = execErrstatClear w s := rfl

theorem exec_unimplementedRead (f bar off size : Nat) (s : State) :
    exec (.unimplementedRead f bar off size) s = execUnimplementedRead f bar off size s := rfl

theorem exec_badSizeRead (f bar off size : Nat) (s : State) :
    exec (.badSizeRead f bar off size) s = execBadSizeRead f bar off size s := rfl

/-- A host's write that reaches SNAPCTL is done as a register write. -/
theorem exec_snap_hostPut (h : HostReg f off blk 0x3F00 s) :
    exec (.snap (hostPut f off size v)) s = .next (regWrite (hostPut f off size v) s) := by
  have hr : reaches (fun _ o => o == 0x3F00) (hostPut f off size v) s = true := by
    rw [reaches_hostPut h (by omega)]; rfl
  rw [exec_snap, execSnap, if_pos hr]

/-- A host's write that reaches an ERRSTAT is done as a register write. -/
theorem exec_errstatClear_hostPut (h : HostReg f off blk 0x3F08 s) :
    exec (.errstatClear (hostPut f off size v)) s = .next (regWrite (hostPut f off size v) s) := by
  have hr : reaches (fun _ o => o == 0x3F08) (hostPut f off size v) s = true := by
    rw [reaches_hostPut h (by omega)]; rfl
  rw [exec_errstatClear, execErrstatClear, if_pos hr]

/-! ## The reads -/

/-- A read of a BAR0 location that holds no register is recorded and ends in Completer Abort (R523, R532). -/
theorem exec_unimplementedRead_bar0 (ha : s.chip.asserted = none) (hd : decodes f s = true)
    (hu : unlocated f 0 off s = true) (hr : hostRead f 0 off size s = none) :
    exec (.unimplementedRead f 0 off size) s = .next (emit (.completerAbort f) (recBadAddr f off false false s)) := by
  rw [exec_unimplementedRead, execUnimplementedRead, if_pos ⟨by rw [ha]; rfl, hd, .inl rfl, hu, hr⟩]
  rfl

/-- A read of a register in a wrong size ends in Completer Abort and is not recorded (R431). -/
theorem exec_badSizeRead_bar0 (ha : s.chip.asserted = none) (hd : decodes f s = true)
    (hu : unlocated f 0 off s = false) (hs : sizeOk off size = false) :
    exec (.badSizeRead f 0 off size) s = .next (emit (.completerAbort f) s) := by
  rw [exec_badSizeRead, execBadSizeRead, if_pos ⟨by rw [ha]; rfl, hd, .inl rfl, hs⟩, hu]
  rfl

/-- Settles O1: each write reaches its register whole, and each read meets the condition of its Completer Abort. -/
theorem registerAccessesComplete : Obligations.RegisterAccessesComplete := by
  unfold Obligations.RegisterAccessesComplete
  refine ⟨?scratch, ?snapctl, ?snapshots, ?errstat, ?unimplemented, ?badSize⟩
  case scratch =>
    intro f off v s h _
    rw [exec_registerWrite, regWrite_scratch h]
  case snapctl =>
    intro f off blk s h hb
    rw [exec_snap_hostPut h, regWrite_snapctl h hb]
  case snapshots => exact fun _ _ _ hc => snapBlock_snap hc
  case errstat =>
    intro f off blk s h
    rw [exec_errstatClear_hostPut h, regWrite_errstat_valid h]
  case unimplemented => exact fun _ _ _ _ ha hd hu hr => exec_unimplementedRead_bar0 ha hd hu hr
  case badSize => exact fun _ _ _ _ ha hd hu hs => exec_badSizeRead_bar0 ha hd hu hs

end Sys2Proof.Machine
end

section
/-! Requests that do not reach their opcode's work (O50). -/

namespace Sys2Proof.Machine

open Sys2Proof

variable {c : Call} {op : Nat} {r : Req} {s : State}

/-! ## A service that does not reach its work -/

/-- A request is left as it is where none of the opcode waits or its turn has not come (R457). -/
theorem serve_of_not_due (k : Req → State → Ans)
    (h : (boxOf c s).phase ≠ .waiting ∨ (∀ r, (boxOf c s).req = some r → r.opcode ≠ op) ∨
      (c.urgent = false ∧ urgentWaiting s = true) ∨ 64 ≤ runningCount s) : serve c op k s = s := by
  simp only [boxOf] at h
  rw [serve]
  dsimp only
  split
  next r hp hr =>
    by_cases ho : r.opcode = op
    · have hw : ((!c.urgent && urgentWaiting s) || decide (runningCount s ≥ 64)) = true := by
        rcases h with h | h | ⟨hu, hw⟩ | h
        · exact absurd hp h
        · exact absurd ho (h r hr)
        · simp [hu, hw]
        · simp [h]
      simp only [ne_eq, ho, not_true_eq_false, if_false, hw, if_true]
    · simp only [ne_eq, ho, not_false_eq_true, if_true]
  next => rfl

/-- The mailbox hardware answers before firmware checks anything (R462). -/
theorem serve_of_hardwareAnswers (k : Req → State → Ans) (hp : (boxOf c s).phase = .waiting)
    (hr : (boxOf c s).req = some r) (ho : r.opcode = op) (hu : c.urgent = true ∨ urgentWaiting s = false)
    (hn : runningCount s < 64) (hh : hardwareAnswers c s = true) :
    serve c op k s = replied c Config.fwRestarting Body.empty s := by
  have hu' : (!c.urgent && urgentWaiting s) = false := by rcases hu with hu | hu <;> simp [hu]
  simp only [boxOf] at hp hr
  simp [serve, hp, hr, ho, hu', Nat.not_le.mpr hn, hh, replied]

/-- What firmware looks at, in its order, between the common checks and the opcode's work `t`: the scheduler core's switch, the
serving processor, the payload (R38, R459, R462). -/
theorem serve_of_passed (h : Waits c op r s) (hpre : precheck c.func r s = none) (hrec : s.chip.recovery = false)
    (k : Req → State → Ans) : ∃ t, serve c op k s =
      if (proc? 2 s).pstate = .switching then s
      else if procDown (opProc op) s = true then replied c Config.fwRestarting Body.empty (begun c op s)
      else if (proc? (opProc op) s).pstate = .switching then s
      else if c.wrongLen = true then replied c Config.badLength Body.empty (begun c op s)
      else if c.rsvdSet = true then replied c Config.badValue Body.empty (begun c op s)
      else t := by
  obtain ⟨hp, hr, ho, hu, hn, hh⟩ := h
  have hu' : (!c.urgent && urgentWaiting s) = false := by rcases hu with hu | hu <;> simp [hu]
  simp only [boxOf] at hp hr
  simp only [serve, hp, hr, ho, hu', hh, hpre, hrec, serveProc, Nat.not_le.mpr hn, ne_eq, not_true_eq_false, beq_iff_eq,
    decide_false, Bool.or_false, Bool.not_false, Bool.true_and, Bool.false_eq_true, if_false, begun, replied]
  exact ⟨_, rfl⟩

theorem not_procDown_of_procUp {p : Nat} (h : procUp p s = true) : procDown p s = false ∧ (proc? p s).pstate ≠ .switching := by
  simp only [procUp, Bool.and_eq_true, beq_iff_eq] at h
  obtain ⟨hb, hs⟩ := h
  simp [procDown, hb, hs]

/-- A request waits while the scheduler core switches images, or the processor of its opcode does (R459). -/
theorem serve_of_switching (h : Waits c op r s) (hpre : precheck c.func r s = none) (hrec : s.chip.recovery = false)
    (hs : (proc? 2 s).pstate = .switching ∨
      ((proc? 2 s).pstate = .running ∧ s.chip.bootDone = true ∧ (proc? (opProc op) s).pstate = .switching)) (k : Req → State → Ans) :
    serve c op k s = s := by
  obtain ⟨t, e⟩ := serve_of_passed h hpre hrec k
  rw [e]
  rcases hs with h2 | ⟨h2, hb, hop⟩
  · rw [if_pos h2]
  · have hd : procDown (opProc op) s = false := by simp [procDown, hb, hop]
    simp [h2, hd, hop]

/-- A request whose processor is down is answered FW_RESTARTING (R462). -/
theorem serve_of_procDown (h : Waits c op r s) (hpre : precheck c.func r s = none) (hrec : s.chip.recovery = false)
    (h2 : (proc? 2 s).pstate ≠ .switching) (hd : procDown (opProc op) s = true) (k : Req → State → Ans) :
    serve c op k s = replied c Config.fwRestarting Body.empty (begun c op s) := by
  obtain ⟨t, e⟩ := serve_of_passed h hpre hrec k
  rw [e, if_neg h2, if_pos hd]

/-- A payload of the wrong length is refused by a processor that runs, before its reserved bits are looked at (R38). -/
theorem serve_of_wrongLen (h : Waits c op r s) (hpre : precheck c.func r s = none) (hrec : s.chip.recovery = false)
    (h2 : (proc? 2 s).pstate ≠ .switching) (hup : procUp (opProc op) s = true) (hl : c.wrongLen = true) (k : Req → State → Ans) :
    serve c op k s = replied c Config.badLength Body.empty (begun c op s) := by
  obtain ⟨t, e⟩ := serve_of_passed h hpre hrec k
  obtain ⟨hd, hs⟩ := not_procDown_of_procUp hup
  simp [e, h2, hd, hs, hl]

/-- A payload of the right length with a reserved bit set is refused (R38). -/
theorem serve_of_rsvdSet (h : Waits c op r s) (hpre : precheck c.func r s = none) (hrec : s.chip.recovery = false)
    (h2 : (proc? 2 s).pstate ≠ .switching) (hup : procUp (opProc op) s = true) (hl : c.wrongLen = false) (hz : c.rsvdSet = true)
    (k : Req → State → Ans) : serve c op k s = replied c Config.badValue Body.empty (begun c op s) := by
  obtain ⟨t, e⟩ := serve_of_passed h hpre hrec k
  obtain ⟨hd, hs⟩ := not_procDown_of_procUp hup
  simp [e, h2, hd, hs, hl, hz]

/-! ## What a service whose work is reached comes to, by the work's answer -/

theorem serve_ok {b : Body} {t : State} {k : Req → State → Ans} (h : Serves c op r s) (hk : k r (begun c op s) = .ok t b) :
    serve c op k s = replied c Config.ok b t := by
  simp only [serve_of_serves h, hk]

theorem serve_later {t : State} {k : Req → State → Ans} {cm : Bool} (h : Serves c op r s) (hk : k r (begun c op s) = .later t cm) :
    serve c op k s = runsOn c cm t := by
  simp only [serve_of_serves h, hk]

/-! ## The statement -/

/-- Settles O50: in each case the service comes to one state whatever the opcode's work is. -/
theorem requestsThatWait : Obligations.RequestsThatWait := by
  unfold Obligations.RequestsThatWait
  refine ⟨fun i c op s hi h => comes_of_serve hi (fun k => serve_of_not_due k h), ?_,
    fun i c op r s hi hp hr ho hu hn hh => comes_of_serve hi (fun k => serve_of_hardwareAnswers k hp hr ho hu hn hh)⟩
  intro i c op r s hi hw hpre hrec
  refine ⟨?switching, ?down, ?length, ?reserved⟩
  case switching => exact fun h => comes_of_serve hi (serve_of_switching hw hpre hrec h)
  case down => exact fun h2 hd => comes_of_serve hi (serve_of_procDown hw hpre hrec h2 hd)
  case length => exact fun h2 hup hl => comes_of_serve hi (serve_of_wrongLen hw hpre hrec h2 hup hl)
  case reserved => exact fun h2 hup hl hz => comes_of_serve hi (serve_of_rsvdSet hw hpre hrec h2 hup hl hz)

end Sys2Proof.Machine
end

section
/-! READ_BENCHES (O8): how many rows it answers from, and the regions among them. -/

namespace Sys2Proof.Machine

open Sys2Proof

variable {c : Call} {op cursor : Nat} {r : Req} {s : State}

/-! ## Pieces of a readback -/

/-- The piece that a readback answers stands in its mailbox's response. -/
theorem resp_paged (rows : List (List Nat)) : (boxOf c (paged c op cursor rows s)).resp.map (fun x => x.body.rows) =
    some ((rows.drop cursor).take (Config.pieceRows s.draws + 1)) := by
  simp [boxOf, paged, replied, answer, mbox?, modMbox]

/-- Two lists of rows that give the same piece have as many rows behind the cursor, up to the length of a piece. -/
theorem min_length_of_paged_eq {rows rows' : List (List Nat)} (h : paged c op cursor rows s = paged c op cursor rows' s) :
    min (Config.pieceRows s.draws + 1) (rows.length - cursor) = min (Config.pieceRows s.draws + 1) (rows'.length - cursor) := by
  have hp := congrArg (fun t => (boxOf c t).resp.map (fun x => x.body.rows)) h
  simp only [resp_paged, Option.some.injEq] at hp
  simpa using congrArg List.length hp

/-! ## The rows of READ_BENCHES -/

/-- Rows of READ_BENCHES for a slot: its weight state, its loaded regions and, apart from them, its staged ones (R43). -/
def slotRowCount (st : SlotSt) : Nat := st.regions.length + st.staged.length + 1

/-- The physical function reads a row for each bench and the rows of each slot. -/
theorem exec_readBenches_physical (h : Serves c 0x5040 r s) (hc : CursorOk c 0x5040 cursor r s) (hf : c.func = 0) :
    ∃ rows, exec (.readBenches c cursor) s = .next (paged c 0x5040 cursor rows s) ∧
      rows.length = 16 + (s.ti.groups.map (fun e => (e.2.slots.map (fun x => slotRowCount x.2)).sum)).sum := by
  have hsees : ∀ part t, sees c part t = true := fun part t => by simp [sees, hf]
  refine ⟨_, congrArg _ (serveRead_of_serves h hc _), ?_⟩
  rw [List.length_append, List.filterMap_length_eq_length.mpr]
  · rw [List.filter_eq_self.mpr (fun e _ => hsees e.1 _)]
    simp only [List.length_flatMap, List.length_cons, List.length_append, List.length_map]
    rfl
  · intro b _
    simp only [hsees, if_true]
    split <;> rfl

/-! ## A slot with a loaded region -/

/-- A slot whose image has one region of weights. -/
def oneRegionSlot : SlotSt := { SlotSt.fresh with
  wstate := .resident,
  regions := [⟨⟨0, .weights, 0, 64, 0, 0, 0, 0, 0, none⟩, true⟩] }

/-- A request for the rows of READ_BENCHES from row 17 on. -/
def rowSeventeen : Req :=
  { opcode := 0x5040, flags := 0, part := 0, tag := 0, length := 8, rsvd := false, payload := leBytes 8 17 }

/-- Partition 0's group stands on bench 0 with that slot; the request waits in the physical function's normal mailbox, to which
firmware has returned the cursor 17. -/
def askedForRegion : State := { State.reset with
  chip := { Chip.fresh with asserted := none, loaded := true, refOk := true, bootDone := true, bootImage := some 0 },
  parts := [(0, { Part.zero with slots := 1 })],
  ti := { Tiles.fresh with groups := [(0, { Group.fresh with phase := .resident, slots := [(0, oneRegionSlot)] })] },
  mb := [(0, { Mailbox.fresh 0 with state := 1, phase := .waiting, req := some rowSeventeen, cursors := [(0x5040, 17)] })] }

/-- The physical function's normal mailbox, with a sound payload. -/
def pfCall : Call := { func := 0, urgent := false, wrongLen := false, rsvdSet := false }

theorem serves_askedForRegion : Serves pfCall 0x5040 rowSeventeen askedForRegion := by
  unfold Serves Waits
  decide

theorem cursorOk_askedForRegion : CursorOk pfCall 0x5040 17 rowSeventeen askedForRegion :=
  ⟨.inr rfl, .inl (by decide)⟩

/-- Refutes O8: READ_BENCHES has rows for the regions of each slot besides the slot's own row. With one loaded region row 17 stands
behind the 16 benches and the one slot, and a list of the 17 rows that the statement counts has no such row. -/
theorem not_benchReadbacksComplete : ¬ Obligations.BenchReadbacksComplete := by
  unfold Obligations.BenchReadbacksComplete
  rintro ⟨hbenches, -, -, -⟩
  have hs := serves_askedForRegion
  have hc := cursorOk_askedForRegion
  obtain ⟨rows, hexec, hcount⟩ := exec_readBenches_physical hs hc rfl
  obtain ⟨rows', hexec', hclaim⟩ := hbenches _ _ _ _ hs hc
  have hlen : rows.length = 18 := hcount
  have hlen' : rows'.length = 17 := hclaim rfl
  have hpaged : paged pfCall 0x5040 17 rows askedForRegion = paged pfCall 0x5040 17 rows' askedForRegion := by
    rw [hexec] at hexec'
    exact Host.Outcome.next.inj hexec'
  have hmin := min_length_of_paged_eq hpaged
  omega

end Sys2Proof.Machine
end

section
/-! Partitions (O38): creation, the bench slots of a partition, destruction and readback. -/

namespace Sys2Proof.Machine

open Sys2Proof

variable {n m part : Nat} {s t : State}

/-! ## What the commands run -/

theorem exec_partCreate (c : Call) (s : State) : exec (.partCreate c) s =
    .next (serve c 0x2000 (fun r t => partCreate r.part (PartSet.parse r.payload) t) s) := rfl

theorem exec_partDestroy (c : Call) (s : State) : exec (.partDestroy c) s =
    .next (settle (serve c 0x2001 (fun r t =>
      if r.part = 0 then .reject Config.badValue
      else .later (unloadAll r.part (endWork r.part (failFaults r.part (revokeAll r.part (quiesceFuncs r.part
        (modPart r.part (fun x => { x with destroying := true, destroyer := some (callRef c t) }) t)))))) true) s)) := rfl

theorem exec_partSetExpert (c : Call) (grant : Bool) (s : State) : exec (.partSetExpert c grant) s =
    .next (serve c 0x2002 (fun r t =>
      if r.part = 0 then .reject Config.badValue else .ok (modPart r.part (fun p => { p with expert := grant }) t) Body.empty) s) := rfl

theorem exec_partSetSlots (c : Call) (n : Nat) (s : State) : exec (.partSetSlots c n) s =
    .next (settle (serve c 0x2003 (fun r t => setSlots r.part n t) s)) := rfl

theorem exec_partDestroyDone_drained {p : Part} (hp : part? part s = some p) (hd : p.destroying = true)
    (hq : partDrained part s = true) : exec (.partDestroyDone part) s = .next (settle (removePart part p s)) := by
  have e : exec (.partDestroyDone part) s = execPartDestroyDone part s := rfl
  simp only [e, execPartDestroyDone, hp, hd, hq, and_self, if_true, done]

/-! ## Creation (R447) -/

/-- A payload names partition `n` by its number, or leaves the choice to the SW4, which takes the lowest free one. -/
def NamesPart (p : PartSet) (n : Nat) (s : State) : Prop :=
  (p.part = n ∧ n ≠ 0xFF ∧ part? n s = none) ∨ (p.part = 0xFF ∧ lowestFree (tkeys s.parts) 1 63 = some n)

/-- Where the checks of PART_CREATE pass and partition 0 can meet the grants, the named partition is made. -/
theorem partCreate_of_named {p : PartSet} {z : Part} (hok : partSetOk p s = true) (hz : part? 0 s = some z)
    (hg : grantsMet p z s = true) (hn : NamesPart p n s) : partCreate 0 p s = makePart n p s := by
  rcases hn with ⟨rfl, hff, hfree⟩ | ⟨hff, hlow⟩
  · simp [partCreate, hok, hff, hfree, hz, hg]
  · simp [partCreate, hok, hff, hlow, hz, hg]

/-! ## Bench slots (R448) -/

/-- Past the checks of PART_SET_SLOTS only the count of slots matters: it stays, grows or shrinks. -/
theorem setSlots_of_checked {g : Group} (hn : n ≤ 16) (hd : disabled 0 s = false)
    (hj : s.ti.jobs.any (fun e => e.2.part == part) = false) (hg : (group? part s).getD Group.fresh = g) (hpin : g.pinned = false)
    (hl : g.slots.any (fun e => decide (n ≤ e.1) && slotLoading e.2) = false) (hm : ((part? part s).map Part.slots).getD 0 = m) :
    setSlots part n s = if n = m then .ok s Body.empty else if m < n then growSlots part m n g s else shrinkSlots part m n g s := by
  subst hg hm
  simp [setSlots, hd, hj, hpin, hl, Nat.not_lt.mpr hn]

/-- A group that waits grows by its slots alone and is placed anew. -/
theorem growSlots_of_waiting {g : Group} (hw : g.phase = .waiting) (ht : grantSlots part n (withSlots m n g) s = some t) :
    growSlots part m n g s = .ok (placeWaiting part t) Body.empty := by
  simp [growSlots, hw, ht]

theorem shrinkSlots_of_placed {g : Group} (hs : g.phase ≠ .saving) (hr : g.phase ≠ .restoring) :
    shrinkSlots part m n g s = .ok (releaseAreas (placeWaiting part (dropEmptyGroup part
      (((List.range m).drop n).foldl (dropSlot part) (modPart part (fun p => { p with slots := n }) s))))) Body.empty := by
  simp [shrinkSlots, hs, hr]

/-- Settles O38: each command's work passes its checks, and what is left is its effect. -/
theorem partitionsComplete : Obligations.PartitionsComplete := by
  unfold Obligations.PartitionsComplete
  refine ⟨?create, ?destroy, ?destroyDone, ?expert, ?slots, ?readback⟩
  case create =>
    intro c n p z r s h hr hp hok h0 hz hg hn
    subst hp
    rw [exec_partCreate]
    refine congrArg _ (serve_ok h ?_)
    rw [hr, partCreate_of_named (s := begun c 0x2000 s) hok hz hg hn, makePart, if_pos h0]
    rfl
  case destroy =>
    intro c r s t h hr ht
    subst ht
    rw [exec_partDestroy, serve_later h (if_neg hr), callRef_begun]
  case destroyDone => exact fun _ _ _ hp hd hq => exec_partDestroyDone_drained hp hd hq
  case expert =>
    intro c grant r s h hr
    rw [exec_partSetExpert, serve_ok h (if_neg hr)]
    rfl
  case slots =>
    intro c m n g r s h hn hd hj hg hpin hl hm
    have hset := setSlots_of_checked (s := begun c 0x2003 s) hn hd hj hg hpin hl hm
    simp only [exec_partSetSlots]
    refine ⟨fun hnm => ?same, fun t hlt hw ht => ?grow, fun hlt hs hr => ?shrink⟩
    case same => rw [serve_ok h (by rw [hset, if_pos hnm])]; rfl
    case grow =>
      rw [serve_ok h (by rw [hset, if_neg (by omega), if_pos hlt, growSlots_of_waiting hw ht])]; rfl
    case shrink =>
      rw [serve_ok h (by rw [hset, if_neg (by omega), if_neg (by omega), shrinkSlots_of_placed hs hr])]; rfl
  case readback =>
    intro c cursor r s h hc
    refine ⟨_, congrArg _ (serveRead_of_serves h hc _), ?_⟩
    simp only [List.map_map, tkeys]
    rfl

end Sys2Proof.Machine
end

section
/-! The state after reset (O48). -/

namespace Sys2Proof.Machine

open Sys2Proof

/-- A table that lists `g` of every one of its keys reads as `g` everywhere, where `g` is also its default. -/
theorem tgetD_map_self {α : Type} (g : Nat → α) (l : List Nat) (k : Nat) : tgetD (l.map (fun j => (j, g j))) k (g k) = g k := by
  induction l with
  | nil => rfl
  | cons j l ih =>
    by_cases h : j = k
    · subst h; simp [tgetD, tget]
    · simpa [tgetD, tget, h] using ih

theorem func?_reset (f : Nat) : func? f State.reset = Func.fresh f := tgetD_map_self Func.fresh _ f

theorem Func.fresh_of_ne_zero {f : Nat} (h : f ≠ 0) : (Func.fresh f).fstate = .disabled ∧ (Func.fresh f).part = 0 :=
  ⟨if_neg h, rfl⟩

/-- Settles O48: every field is read off the reset state, and the functions off what each function is at reset. -/
theorem resetState : Obligations.ResetState := by
  unfold Obligations.ResetState
  refine ⟨rfl, rfl, rfl, rfl, rfl, rfl, ?physical, ?virtual, rfl, rfl, rfl, rfl, rfl, rfl, rfl⟩
  case physical => rw [func?_reset]; rfl
  case virtual =>
    intro f _ hf
    rw [funcPart, func?_reset]
    exact Func.fresh_of_ne_zero hf

end Sys2Proof.Machine
end

section
/-! Element values: what a float code reads as, what a conversion can give, and MX scales (O57). -/

namespace Sys2Proof.Machine

open Sys2Proof

variable {f : FFmt} {rm : RMode} {neg : Bool} {m s d n : Nat} {e g p q : Int}

/-! ## Codes and their signs -/

@[simp] theorem FFmt.add_sign_mod (f : FFmt) (neg : Bool) (c : Nat) :
    (c + f.sign neg) % 2 ^ (f.eb + f.mb) = c % 2 ^ (f.eb + f.mb) := by
  cases neg <;> simp [FFmt.sign]

/-- The codes that read as NaN are those beyond the largest finite magnitude, infinity's apart (R49). -/
theorem FFmt.decode_eq_nan_iff {c : Nat} :
    f.decode c = .nan ↔ f.maxCode < c % 2 ^ (f.eb + f.mb) ∧ f.infCode ≠ some (c % 2 ^ (f.eb + f.mb)) := by
  unfold FFmt.decode
  dsimp only
  split
  case isTrue hinf => simp [hinf]
  case isFalse hinf =>
    split
    case isTrue hmax => simp [hmax, hinf]
    case isFalse hmax => split <;> simp [hmax]

/-- A format whose largest finite magnitude is a normal number within the code's width, with infinity's code, where there is one,
beyond it: all of Table 2-2. -/
structure FFmt.WellFormed (f : FFmt) : Prop where
  normal : 2 ^ f.mb ≤ f.maxCode
  width : f.maxCode < 2 ^ (f.eb + f.mb)
  infWidth : ∀ i ∈ f.infCode, i < 2 ^ (f.eb + f.mb)
  infBeyond : ∀ i ∈ f.infCode, f.maxCode < i

theorem FFmt.wellFormed_of_hasNan : ∀ f ∈ [fp32, bf16, fp16, e4m3, e5m2], f.WellFormed ∧ f.nanCode.isSome := by
  simp only [List.forall_mem_cons, List.not_mem_nil, false_imp_iff, implies_true, and_true]
  refine ⟨?_, ?_, ?_, ?_, ?_⟩ <;> exact ⟨⟨by decide, by decide, by decide, by decide⟩, rfl⟩

/-! ## Magnitudes in units of a common power of two -/

/-- The magnitude `m * 2^e` in units of `2^p`, for `p` at most `e`. -/
def unitsOf (p : Int) (m : Nat) (e : Int) : Nat := m * 2 ^ (e - p).toNat

theorem unitsOf_shift (m : Nat) (hpq : p ≤ q) (hqe : q ≤ e) : unitsOf p m e = unitsOf q m e * 2 ^ (q - p).toNat := by
  have hexp : (e - p).toNat = (e - q).toNat + (q - p).toNat := by omega
  rw [unitsOf, unitsOf, hexp, Nat.pow_add, Nat.mul_assoc]

/-- Two magnitudes compare alike in every unit that measures both. -/
theorem unitsOf_le_iff (hpq : p ≤ q) (hqe : q ≤ e) (hqg : q ≤ g) :
    unitsOf p m e ≤ unitsOf p n g ↔ unitsOf q m e ≤ unitsOf q n g := by
  rw [unitsOf_shift m hpq hqe, unitsOf_shift n hpq hqg]
  exact Nat.mul_le_mul_right_iff (Nat.two_pow_pos _)

theorem unitsOf_self (p : Int) (m : Nat) : unitsOf p m p = m := by
  rw [unitsOf, Int.sub_self, Int.toNat_zero, Nat.pow_zero, Nat.mul_one]

/-- The order of positive numbers is that of their magnitudes at the lower of the two exponents. -/
theorem lt_fin_pos_eq_false_iff :
    FVal.lt (.fin false n g) (.fin false m e) = false ↔ unitsOf (min g e) m e ≤ unitsOf (min g e) n g := by
  simp only [FVal.lt, unitsOf, Bool.false_eq_true, if_false, Int.one_mul, decide_eq_false_iff_not, Int.not_lt, Int.ofNat_le]

/-- The significand of a format's largest finite magnitude, with its hidden bit. -/
def FFmt.topSig (f : FFmt) : Nat := 2 ^ f.mb + f.maxCode % 2 ^ f.mb

/-- The exponent of the last place of a format's largest finite magnitude. -/
def FFmt.topExp (f : FFmt) : Int := ((f.maxCode / 2 ^ f.mb : Nat) : Int) - f.bias - f.mb

theorem FFmt.topExp_field (f : FFmt) : (f.topExp + f.mb + f.bias).toNat = f.maxCode / 2 ^ f.mb := by
  unfold FFmt.topExp
  generalize f.maxCode / 2 ^ f.mb = field
  omega

theorem FFmt.topSig_lt (f : FFmt) : f.topSig < 2 ^ (f.mb + 1) := by
  have hmod := Nat.mod_lt f.maxCode (Nat.two_pow_pos f.mb)
  rw [FFmt.topSig, Nat.pow_succ]
  omega

/-- The largest finite magnitude is normal: its hidden bit is set. -/
theorem FFmt.decode_maxCode (hf : f.WellFormed) : f.decode f.maxCode = .fin false f.topSig f.topExp := by
  have hinf : f.infCode ≠ some f.maxCode := fun h => Nat.lt_irrefl _ (hf.infBeyond _ h)
  have hex : f.maxCode / 2 ^ f.mb ≠ 0 := Nat.ne_of_gt (Nat.div_pos hf.normal (Nat.two_pow_pos _))
  unfold FFmt.decode
  simp only [Nat.mod_eq_of_lt hf.width, Nat.div_eq_of_lt hf.width, if_neg hinf, if_neg (Nat.lt_irrefl _), if_neg hex]
  rfl

theorem FFmt.unitsOf_le_of_not_exceeds (hf : f.WellFormed) (h : f.exceeds m e = false) (hpe : p ≤ e) (hpt : p ≤ f.topExp) :
    unitsOf p m e ≤ unitsOf p f.topSig f.topExp := by
  rw [FFmt.exceeds, FFmt.decode_maxCode hf] at h
  exact (unitsOf_le_iff (by omega) (by omega) (by omega)).2 (lt_fin_pos_eq_false_iff.1 h)

/-! ## Rounding -/

/-- No mode rounds beyond an integer that the magnitude does not exceed, whatever the draw. -/
theorem roundShift_le {b : Nat} (h : m ≤ b * 2 ^ s) : roundShift rm neg m s d ≤ b := by
  have hlo : m / 2 ^ s ≤ b := Nat.div_le_of_le_mul (Nat.mul_comm b _ ▸ h)
  by_cases hrem : m % 2 ^ s = 0
  · simp only [roundShift, if_pos hrem]
    exact hlo
  · have hne : m ≠ b * 2 ^ s := fun heq => hrem (by rw [heq, Nat.mul_mod_left])
    have hup : m / 2 ^ s + 1 ≤ b := (Nat.div_lt_iff_lt_mul (Nat.two_pow_pos s)).2 (Nat.lt_of_le_of_ne h hne)
    simp only [roundShift, if_neg hrem]
    cases rm with
    | rtz => exact hlo
    | rne | rdn | rup | sr => dsimp only; split <;> assumption

/-- The magnitude `m * 2^e` rounded to a multiple of `2^q`. -/
def roundAt (rm : RMode) (neg : Bool) (m : Nat) (e q : Int) (d : Nat) : Nat :=
  if e ≥ q then m * 2 ^ (e - q).toNat else roundShift rm neg m (q - e).toNat d

theorem roundAt_le {b : Nat} (hpe : p ≤ e) (hpq : p ≤ q) (h : unitsOf p m e ≤ unitsOf p b q) : roundAt rm neg m e q d ≤ b := by
  unfold roundAt
  split
  case isTrue hq =>
    rw [unitsOf_le_iff hpq hq (Int.le_refl q), unitsOf_self] at h
    exact h
  case isFalse hq =>
    rw [unitsOf_le_iff hpe (Int.le_refl e) (by omega), unitsOf_self] at h
    exact roundShift_le h

/-- The exponent of the last place of a magnitude: that of its binade, or of the subnormals. -/
def FFmt.ulpExp (f : FFmt) (m : Nat) (e : Int) : Int :=
  max ((Nat.log2 m : Int) + e - f.mb) (1 - (f.bias : Int) - f.mb)

/-- `n` units of the last place `2^q` as a code. -/
def FFmt.codeAt (f : FFmt) (n : Nat) (q : Int) : Nat :=
  if n < 2 ^ f.mb then n else (q + f.mb + f.bias).toNat * 2 ^ f.mb + (n - 2 ^ f.mb)

theorem FFmt.roundMag_eq (hm : m ≠ 0) :
    f.roundMag rm neg m e d = f.codeAt (roundAt rm neg m e (f.ulpExp m e) d) (f.ulpExp m e) := if_neg hm

theorem FFmt.codeAt_le (hf : f.WellFormed) (hn : n ≤ 2 ^ (f.mb + 1))
    (h : (q + f.mb + f.bias).toNat < f.maxCode / 2 ^ f.mb ∨
      (q + f.mb + f.bias).toNat = f.maxCode / 2 ^ f.mb ∧ n ≤ 2 ^ f.mb + f.maxCode % 2 ^ f.mb) :
    f.codeAt n q ≤ f.maxCode := by
  have hmax := Nat.div_add_mod' f.maxCode (2 ^ f.mb)
  have hnormal := hf.normal
  unfold FFmt.codeAt
  split
  case isTrue hlt => omega
  case isFalse =>
    rcases h with hbelow | ⟨heq, htop⟩
    · have hstep := Nat.mul_le_mul_right (2 ^ f.mb) hbelow
      rw [Nat.succ_mul] at hstep
      rw [Nat.pow_succ] at hn
      omega
    · rw [heq]
      omega

/-- A magnitude that does not exceed the largest finite value lies at most in its binade. -/
theorem FFmt.binade_le_of_not_exceeds (hf : f.WellFormed) (hm : m ≠ 0) (h : f.exceeds m e = false) :
    (Nat.log2 m : Int) + e ≤ f.mb + f.topExp := by
  have hunits := FFmt.unitsOf_le_of_not_exceeds (p := min e f.topExp) hf h (by omega) (by omega)
  have hpow : 2 ^ (Nat.log2 m + (e - min e f.topExp).toNat) < 2 ^ (f.mb + 1 + (f.topExp - min e f.topExp).toNat) := by
    rw [Nat.pow_add, Nat.pow_add]
    calc 2 ^ Nat.log2 m * 2 ^ (e - min e f.topExp).toNat
        ≤ unitsOf (min e f.topExp) m e := Nat.mul_le_mul_right _ (Nat.log2_self_le hm)
      _ ≤ unitsOf (min e f.topExp) f.topSig f.topExp := hunits
      _ < 2 ^ (f.mb + 1) * 2 ^ (f.topExp - min e f.topExp).toNat :=
        Nat.mul_lt_mul_of_pos_right f.topSig_lt (Nat.two_pow_pos _)
  have hexp := (Nat.pow_lt_pow_iff_right (by decide : 1 < 2)).1 hpow
  omega

/-- A magnitude is below `2^(mb+1)` of its units of the last place. -/
theorem FFmt.unitsOf_le_binadeTop (hpe : p ≤ e) (hp : p ≤ f.ulpExp m e) :
    unitsOf p m e ≤ unitsOf p (2 ^ (f.mb + 1)) (f.ulpExp m e) := by
  have hulp : (Nat.log2 m : Int) + e - f.mb ≤ f.ulpExp m e := by unfold FFmt.ulpExp; omega
  calc unitsOf p m e ≤ 2 ^ (Nat.log2 m + 1) * 2 ^ (e - p).toNat := Nat.mul_le_mul_right _ (Nat.le_of_lt Nat.lt_log2_self)
    _ = 2 ^ (Nat.log2 m + 1 + (e - p).toNat) := (Nat.pow_add ..).symm
    _ ≤ 2 ^ (f.mb + 1 + (f.ulpExp m e - p).toNat) := Nat.pow_le_pow_right (by decide) (by omega)
    _ = unitsOf p (2 ^ (f.mb + 1)) (f.ulpExp m e) := Nat.pow_add ..

/-- The last place of a magnitude that does not exceed the largest finite value is at most that value's. -/
theorem FFmt.ulpExp_le_topExp (hf : f.WellFormed) (hm : m ≠ 0) (h : f.exceeds m e = false) : f.ulpExp m e ≤ f.topExp := by
  have hbinade := FFmt.binade_le_of_not_exceeds hf hm h
  have hnormal : 1 ≤ f.maxCode / 2 ^ f.mb := Nat.div_pos hf.normal (Nat.two_pow_pos _)
  have hsubnormal : 1 - (f.bias : Int) - f.mb ≤ f.topExp := by
    unfold FFmt.topExp
    omega
  unfold FFmt.ulpExp
  omega

/-- What does not exceed the largest finite value exactly does not round beyond it (R59): below the last place of that value a
rounding reaches at most the next binade, and at that place at most the value itself. -/
theorem FFmt.roundMag_le_maxCode (hf : f.WellFormed) (h : f.exceeds m e = false) : f.roundMag rm neg m e d ≤ f.maxCode := by
  by_cases hm : m = 0
  · rw [FFmt.roundMag, if_pos hm]
    exact Nat.zero_le _
  have hle := FFmt.ulpExp_le_topExp hf hm h
  have hbase : 1 - (f.bias : Int) - f.mb ≤ f.ulpExp m e := by unfold FFmt.ulpExp; omega
  have hcarry : roundAt rm neg m e (f.ulpExp m e) d ≤ 2 ^ (f.mb + 1) :=
    roundAt_le (p := min e (f.ulpExp m e)) (by omega) (by omega) (FFmt.unitsOf_le_binadeTop (by omega) (by omega))
  rw [FFmt.roundMag_eq hm]
  refine FFmt.codeAt_le hf hcarry ?_
  rw [← f.topExp_field]
  by_cases htop : f.ulpExp m e = f.topExp
  · rw [htop]
    refine .inr ⟨rfl, ?_⟩
    exact roundAt_le (p := min e f.topExp) (by omega) (by omega) (FFmt.unitsOf_le_of_not_exceeds hf h (by omega) (by omega))
  · exact .inl (by omega)

/-! ## What a conversion gives -/

/-- A code that a conversion may give: the canonical NaN, or a finite magnitude or infinity under a sign. -/
def FFmt.Produced (f : FFmt) (c : Nat) : Prop :=
  f.nanCode = some c ∨ ∃ (neg : Bool) (k : Nat), c = k + f.sign neg ∧ (k ≤ f.maxCode ∨ f.infCode = some k)

theorem FFmt.produced_finite {k : Nat} (neg : Bool) (h : k ≤ f.maxCode) : f.Produced (k + f.sign neg) :=
  .inr ⟨neg, k, rfl, .inl h⟩

theorem FFmt.produced_overMax (neg : Bool) : f.Produced (f.overMax neg).code := produced_finite neg (Nat.le_refl _)

theorem FFmt.produced_overInf (neg : Bool) : f.Produced (f.overInf neg).code := by
  unfold FFmt.overInf
  split
  case h_1 i hinf => exact .inr ⟨neg, i, rfl, .inr hinf⟩
  case h_2 n _ hnan => exact .inl hnan
  case h_3 => exact produced_overMax neg

/-- Does a finite magnitude overflow under a mode (R59, R62)? -/
def FFmt.overflows (f : FFmt) (rm : RMode) (neg : Bool) (m : Nat) (e : Int) (d : Nat) : Bool :=
  if rm = .sr then f.exceeds m e else decide (f.roundMag rm neg m e d > f.maxCode)

theorem FFmt.convert_of_not_overflows (h : f.overflows rm neg m e d = false) (sat : Bool) :
    (f.convert sat rm d (.fin neg m e)).code = f.roundMag rm neg m e d + f.sign neg := by
  have hconvert : f.convert sat rm d (.fin neg m e) = _ := if_neg (ne_true_of_eq_false h)
  rw [hconvert]

theorem FFmt.convert_of_overflows (h : f.overflows rm neg m e d = true) (sat : Bool) :
    f.convert sat rm d (.fin neg m e) = f.overMax neg ∨ f.convert sat rm d (.fin neg m e) = f.overInf neg := by
  have hconvert : f.convert sat rm d (.fin neg m e) = _ := if_pos h
  rw [hconvert]
  cases sat with
  | true => exact .inl rfl
  | false =>
    cases rm with
    | rne | sr => exact .inr rfl
    | rtz => exact .inl rfl
    | rdn =>
      cases neg with
      | false => exact .inl rfl
      | true => exact .inr rfl
    | rup =>
      cases neg with
      | false => exact .inr rfl
      | true => exact .inl rfl

theorem FFmt.roundMag_le_of_not_overflows (hf : f.WellFormed) (h : f.overflows rm neg m e d = false) :
    f.roundMag rm neg m e d ≤ f.maxCode := by
  unfold FFmt.overflows at h
  split at h
  case isTrue => exact roundMag_le_maxCode hf h
  case isFalse => simpa using h

theorem FFmt.produced_convert (hf : f.WellFormed) (sat : Bool) (rm : RMode) (d : Nat) (x : FVal) :
    f.Produced (f.convert sat rm d x).code := by
  cases x with
  | nan =>
    cases hnan : f.nanCode with
    | none => exact .inr ⟨false, 0, by simp [FFmt.convert, hnan, FFmt.sign], .inl (Nat.zero_le _)⟩
    | some n => exact .inl (by simp [FFmt.convert, hnan])
  | inf neg =>
    cases sat with
    | false => exact produced_overInf neg
    | true => exact produced_overMax neg
  | fin neg m e =>
    cases hover : f.overflows rm neg m e d with
    | true =>
      rcases convert_of_overflows hover sat with hmax | hinf
      · exact hmax ▸ produced_overMax neg
      · exact hinf ▸ produced_overInf neg
    | false =>
      rw [convert_of_not_overflows hover]
      exact produced_finite neg (roundMag_le_of_not_overflows hf hover)

/-- The only NaN that is produced is the canonical one (R51). -/
theorem FFmt.nanCode_of_produced (hf : f.WellFormed) {c : Nat} (hc : f.Produced c) (hnan : f.decode c = .nan) :
    f.nanCode = some c := by
  rcases hc with hcanon | ⟨neg, k, rfl, hk⟩
  · exact hcanon
  · rw [decode_eq_nan_iff, add_sign_mod] at hnan
    obtain ⟨hbeyond, hninf⟩ := hnan
    rcases hk with hfin | hinf
    · exact absurd (Nat.lt_of_lt_of_le hbeyond (Nat.mod_le _ _)) (Nat.not_lt.2 hfin)
    · rw [Nat.mod_eq_of_lt (hf.infWidth k hinf)] at hninf
      exact absurd hinf hninf

theorem FFmt.convert_nan_code (h : f.nanCode.isSome) (sat : Bool) (rm : RMode) (d : Nat) :
    f.nanCode = some (f.convert sat rm d .nan).code := by
  obtain ⟨n, hn⟩ := Option.isSome_iff_exists.1 h
  simp [FFmt.convert, hn]

theorem clamp_le (n lim : Nat) (beyond : Bool) : (if decide (n > lim) || beyond then lim else n) ≤ lim := by
  split
  case isTrue => exact Nat.le_refl _
  case isFalse h => simp only [Bool.or_eq_true, not_or, decide_eq_true_eq, Nat.not_lt] at h; exact h.1

/-- An MXINT8 encode of a finite value is the two's complement of a magnitude clamped to 127. -/
theorem intConvert_mx_fin_code (rm : RMode) (d : Nat) (neg : Bool) (m : Nat) (e : Int) :
    ∃ k ≤ 127, (intConvert true rm d (.fin neg m e)).code = if neg then (256 - k) % 256 else k := by
  cases neg <;> exact ⟨_, clamp_le _ 127 _, rfl⟩

/-- So it never gives the code of -128 (R50). -/
theorem intConvert_mx_code (rm : RMode) (d : Nat) (x : FVal) :
    (intConvert true rm d x).code < 256 ∧ (intConvert true rm d x).code ≠ 128 := by
  cases x with
  | nan => simp [intConvert]
  | inf neg => cases neg <;> simp [intConvert]
  | fin neg m e =>
    obtain ⟨k, hk, hcode⟩ := intConvert_mx_fin_code rm d neg m e
    rw [hcode]
    split <;> omega

/-- Settles O57: integer codes and scales are read off their definitions; a code reads as NaN just when it is beyond the largest
finite magnitude and is not infinity's, and of such codes a conversion gives only the canonical one. -/
theorem elementValues : Obligations.ElementValues := by
  unfold Obligations.ElementValues
  refine ⟨?positive, ?negative, intConvert_mx_code, ?nanScale, ?scale, ?zeroScale, ⟨rfl, rfl, rfl, rfl, rfl⟩, ?readsNan, ?givesNan,
    ?onlyNan⟩
  case positive =>
    intro mx c hc
    simp [Elem.decode, Nat.mod_eq_of_lt (by omega : c < 256), hc]
  case negative =>
    intro mx c hlow hc
    simp [Elem.decode, Nat.mod_eq_of_lt hc, Nat.not_lt.2 hlow]
  case nanScale => exact fun _ => if_pos rfl
  case scale => exact fun sc _ _ _ hsc => if_neg (Nat.ne_of_lt hsc)
  case zeroScale => intro m neg e; simp [scaled]
  case readsNan => exact fun f _ c hbeyond hninf => FFmt.decode_eq_nan_iff.2 ⟨hbeyond, hninf⟩
  case givesNan => exact fun f hmem => FFmt.convert_nan_code (FFmt.wellFormed_of_hasNan f hmem).2
  case onlyNan =>
    intro f hmem sat rm d x
    have hf := (FFmt.wellFormed_of_hasNan f hmem).1
    exact FFmt.nanCode_of_produced hf (FFmt.produced_convert hf sat rm d x)

end Sys2Proof.Machine
end

section
/-! What the tile opcodes' checks read is the same in the state in which their work starts (O5, O6, O7). -/

namespace Sys2Proof.Machine

open Sys2Proof

variable {c : Call} {op part slot : Nat} {s : State}

@[simp] theorem ti_begun : (begun c op s).ti = s.ti := rfl

@[simp] theorem chip_begun : (begun c op s).chip = s.chip := rfl

@[simp] theorem group?_begun : group? part (begun c op s) = group? part s := rfl

@[simp] theorem slotSt?_begun : slotSt? part slot (begun c op s) = slotSt? part slot s := rfl

@[simp] theorem slotIn_begun : slotIn part slot (begun c op s) = slotIn part slot s := rfl

@[simp] theorem slotBusy_begun : slotBusy part slot (begun c op s) = slotBusy part slot s := rfl

@[simp] theorem job?_begun (job : Nat) : job? job (begun c op s) = job? job s := rfl

@[simp] theorem jobBad_begun (q : JobReq) : jobBad part q (begun c op s) = jobBad part q s := rfl

@[simp] theorem tilesTaken_begun (q : JobReq) : tilesTaken part q (begun c op s) = tilesTaken part q s := rfl

@[simp] theorem bind?_begun (k : Nat) : bind? k (begun c op s) = bind? k s := rfl

@[simp] theorem bindingBad_begun (b : Binding) : bindingBad b (begun c op s) = bindingBad b s := rfl

@[simp] theorem pinFits_begun : pinFits part (begun c op s) = pinFits part s := rfl

@[simp] theorem slotsGranted_begun : slotsGranted (begun c op s) = slotsGranted s := rfl

@[simp] theorem slotsGranted_setGroup (g : Group) : slotsGranted (setGroup part g s) = slotsGranted s := rfl

/-- Work that is relayed to benches whose cores run is done (R548). -/
theorem relay_begun {slots : List Nat} (h : benchesUp part slots s) (k : Ans) : relay part slots (begun c op s) k = k :=
  relay_up (benchesUp_begun h) k

end Sys2Proof.Machine
end

section
/-! Bench slots and jobs (O5): images are loaded and emptied, jobs start and end. -/

namespace Sys2Proof.Machine

open Sys2Proof

variable {part slot job code opspec : Nat} {s : State}

/-! ## Slots -/

/-- No job starts or ends where a slot's state changes. -/
theorem slotBusy_modSlot {p i : Nat} (f : SlotSt → SlotSt) : slotBusy p i (modSlot part slot f s) = slotBusy p i s := by
  cases hg : group? part s <;> simp [modSlot, hg, slotBusy, setGroup]

/-- A load whose regions all ended well ends well. -/
theorem loadCode_of_all_written {st : SlotSt} (h : ∀ l ∈ st.loads, l.ended = some 0) : loadCode st = 0 := by
  have hnone : (st.loads.filterMap LoadItem.ended).find? (fun e => e != 0) = none := by
    simp only [List.find?_eq_none, List.mem_filterMap]
    rintro e ⟨l, hl, he⟩
    rw [h l hl] at he
    simp [← Option.some.inj he]
  rw [loadCode, hnone]
  rfl

/-- LOAD_DONE takes effect once every region has ended and no read of the image is under way. -/
theorem execLoadDone_of_written {st : SlotSt} {m : MbRef} (hst : slotSt? part slot s = some st) (hw : st.wstate = .loading)
    (hl : ∀ l ∈ st.loads, l.ended = some 0) (hm : st.loadMb = some m)
    (hx : s.xl.xfers.any (fun e => e.2.owner.kind == .image && e.2.owner.a == part * 16 + slot) = false) :
    execLoadDone part slot s =
      let u := finish m Config.ok Body.empty (modSlot part slot (fun x => { x with
        wstate := .resident, regions := loadedRegions st, loads := [], reload := false, loadMb := none }) s)
      done ((tkeys u.ti.jobs).foldl (fun u j => resumeJbnd j u) (kickJobs u)) := by
  have hall : st.loads.all (fun l => l.ended.isSome) = true := List.all_eq_true.mpr fun l h => by rw [hl l h]; rfl
  simp [execLoadDone, hst, hw, hall, hx, loadCode_of_all_written hl, hm, Config.ok]

/-! ## Jobs -/

/-- A cause ends a job that is not ending yet: its tiles stop (R98). -/
theorem endJob_of_not_ending {x : Job} (hx : job? job s = some x) (hs : x.jstate = .armed ∨ x.jstate = .held ∨ x.jstate = .running) :
    endJob job code opspec s = modJobTiles x stopTile (setJob job { x with jstate := .ending code opspec } s) := by
  rcases hs with hs | hs | hs <;> simp only [endJob, hx, hs]

theorem execArmedJobStart_of_passed {h v : Nat} {x : Job} (hx : job? job s = some x) (hs : x.jstate = .armed)
    (ha : x.req.arm = some (h, v)) (hp : tallyPassed x.part h v s = true) :
    execArmedJobStart job s = done (launch job (setJob job { x with jstate := .held } s)) := by
  simp only [execArmedJobStart, hx, hs, ha, hp, if_true]

theorem execJobEnd_of_drained {x : Job} (hx : job? job s = some x) (hs : x.jstate = .ending code opspec)
    (hd : jobDrained x s = true) : execJobEnd job s = done (finishJob job x code opspec s) := by
  simp only [execJobEnd, hx, hs, hd, if_true]

/-- The time limit runs while the job's group is resident (R103). -/
theorem execJobTimeLimit_of_resident {x : Job} {g : Group} (hx : job? job s = some x) (hs : x.jstate = .running)
    (hl : x.req.limitUs ≠ 0) (hg : group? x.part s = some g) (hr : g.phase = .resident) :
    execJobTimeLimit job s = .next (endJob job Config.ccFlushed 2 s) := by
  simp [execJobTimeLimit, hx, hs, hl, hg, hr]

/-- Settles O5: each command's checks pass, its benches' cores run, and what is left of its work is its effect; each event meets the
condition on which it takes effect. -/
theorem imagesAndJobsComplete : Obligations.ImagesAndJobsComplete := by
  unfold Obligations.ImagesAndJobsComplete
  refine ⟨?load, ?unload, ?reload, ?start, ?cancel, ?loadDone, ?armedStart, ?jobEnd, ?timeLimit⟩
  case load =>
    intro c slot regions r st s h hst hok hw hup
    refine congrArg done (serve_later h ?_)
    simp [hst, hok, hw, relay_begun hup]
  case unload =>
    intro c slot r st s h hst hw hstaged hidle hup
    have hsettled : st.wstate ≠ .loading ∧ st.wstate ≠ .reloadPending := by rcases hw with hw | hw | hw <;> simp [hw]
    refine congrArg Host.Outcome.next (serve_ok h ?_)
    simp [hst, hidle, hsettled, hstaged, relay_begun hup]
  case reload =>
    intro c slot regions r st s h hst hok hne hweights hw hstaged hbusy hup
    have hkinds : regions.any (fun g => g.kind != .weights) = false := List.any_eq_false.mpr fun g hg => by simp [hweights g hg]
    refine congrArg done (serve_later h ?_)
    simp [hst, hok, hne, hkinds, hw, hstaged, slotBusy_modSlot, hbusy, relay_begun hup]
  case start =>
    intro c q r s h hok hloaded hfree hup
    have hstarts : (!(q.slots.filterMap (fun e => slotSt? r.part e.slot s)).any
        (fun x => x.wstate == .reloadPending || x.wstate == .loading) && tilesTaken r.part q s) = false := by
      rw [Bool.and_eq_false_iff, Bool.not_eq_false']
      exact hfree
    refine congrArg done (serve_ok h ?_)
    simp only [jobBad_begun, slotSt?_begun, tilesTaken_begun, ti_begun, hok, hloaded, hstarts, Bool.false_eq_true, if_false,
      relay_begun hup]
  case cancel =>
    intro c job x r s h hx hp hs hup
    refine congrArg Host.Outcome.next (serve_ok h ?_)
    have hend := endJob_of_not_ending (s := begun c 0x5031 s) (code := Config.ccFlushed) (opspec := 1) hx hs
    rcases hs with hs | hs | hs <;> simp [hx, hp, hs, relay_begun hup, hend]
  case loadDone => exact fun part slot st m s hst hw hl hm hx => execLoadDone_of_written hst hw hl hm hx
  case armedStart => exact fun job h v x s hx hs ha hp => execArmedJobStart_of_passed hx hs ha hp
  case jobEnd => exact fun job code opspec x s hx hs hd => execJobEnd_of_drained hx hs hd
  case timeLimit =>
    intro job x g s hx hs hl hg hr
    exact (execJobTimeLimit_of_resident hx hs hl hg hr).trans
      (congrArg Host.Outcome.next (endJob_of_not_ending hx (.inr (.inr hs))))

end Sys2Proof.Machine
end

section
/-! Streams and tile DMA (O6): bindings, the ends of streams, descriptors and M sequences. -/

namespace Sys2Proof.Machine

open Sys2Proof

variable {tile fifo k part slot rel n : Nat} {ecc : List EccHit} {s : State}

/-! ## Generators -/

/-- A seed other than 0 is where the generator starts (R60). -/
theorem seedGen_of_ne_zero {w : Word} (h : w ≠ 0) : seedGen w.toNat s = (w.toNat, s) :=
  if_neg fun hz => h (BitVec.eq_of_toNat_eq hz)

/-! ## Ends of streams, descriptors and M sequences -/

theorem execDmaStreamEnd_of_moved {b : Binding} (hk : bindKeyAt tile fifo s = some k) (hb : bind? k s = some b)
    (hkind : b.kind = 3 ∨ b.kind = 4) (hmoved : b.length ≤ b.moved) (hx : b.xfer = none) :
    execDmaStreamEnd tile fifo s = .next (modBind k (fun b => { b with ended := true }) s) := by
  simp [execDmaStreamEnd, hk, hb, hkind, hmoved, hx]

theorem execTileDmaComplete_of_landed_ok {d : TileDma} (hd : tget (tile? tile s).dma n = some d) (hl : d.landed = some 0)
    (ht : d.tally ≠ 0xFFFF) (hp : tilePlace tile s = some (part, slot, rel)) :
    execTileDmaComplete tile n s =
      done (startDma tile 8 (tallyAdd part d.tally 1 (modTile tile (fun x => { x with dma := tdel x.dma n }) s))) := by
  simp [execTileDmaComplete, hd, hl, ht, hp]

/-- An M sequence that has made all its steps leaves its tile. -/
theorem execMSequenceEnd_of_no_steps {q e : MSeq} {p : Nat × Nat × Nat} (hq : (tile? tile s).mseq = some q)
    (hp : tilePlace tile s = some p) (he : (tile? tile (mRun tile ecc (q.steps + 1) s)).mseq = some e) (h0 : e.steps = 0) :
    execMSequenceEnd tile ecc s =
      done (modTile tile (fun x => { x with mseq := none, mview := [] }) (mRun tile ecc (q.steps + 1) s)) := by
  simp only [execMSequenceEnd, hq, hp, he, h0, if_true]

/-- An M sequence that its own steps have taken away leaves nothing to end. -/
theorem execMSequenceEnd_of_stopped {q : MSeq} {p : Nat × Nat × Nat} (hq : (tile? tile s).mseq = some q)
    (hp : tilePlace tile s = some p) (he : (tile? tile (mRun tile ecc (q.steps + 1) s)).mseq = none) :
    execMSequenceEnd tile ecc s = done (mRun tile ecc (q.steps + 1) s) := by
  simp only [execMSequenceEnd, hq, hp, he]

/-- Settles O6: the two commands pass their checks and come to their effects, and each event meets the condition of its end. -/
theorem streamsComplete : Obligations.StreamsComplete := by
  unfold Obligations.StreamsComplete
  refine ⟨?bindStream, ?unbindStream, ?streamEnd, ?dmaComplete, ?sequenceEnd, ?sequenceStopped⟩
  case bindStream =>
    intro c r s h hok hfree hkind hseed hup
    refine congrArg done (serve_ok h ?_)
    simp [hok, hfree, hkind, seedGen_of_ne_zero hseed, relay_begun hup]
  case unbindStream =>
    intro c slot tile fifo b r s h hslot htile hfifo hb hfree hup
    have hin : slotIn r.part slot s = true := hslot
    refine congrArg done (serve_later h ?_)
    simp [hin, Nat.not_le.mpr htile, Nat.not_le.mpr hfifo, hb, hfree, relay_begun hup]
  case streamEnd => exact fun tile fifo k b s hk hb hkind hmoved hx => execDmaStreamEnd_of_moved hk hb hkind hmoved hx
  case dmaComplete => exact fun tile part slot rel n d s hd hl ht hp => execTileDmaComplete_of_landed_ok hd hl ht hp
  case sequenceEnd => exact fun tile ecc q e p s hq hp he h0 => execMSequenceEnd_of_no_steps hq hp he h0
  case sequenceStopped => exact fun tile ecc q p s hq hp he => execMSequenceEnd_of_stopped hq hp he

end Sys2Proof.Machine
end

section
/-! Groups and their settings (O7): the quantum, pins, the port wait, slices and restores. -/

namespace Sys2Proof.Machine

open Sys2Proof

variable {part : Nat} {g : Group} {s : State}

/-- A quantum that ends while another group waits starts the group's save (R102). -/
theorem quantumEnd_of_rival (hg : group? part s = some g) (hr : g.phase = .resident) (hp : g.pinned = false)
    (hrival : s.ti.groups.any (fun e => e.2.phase == .waiting && !e.2.slots.isEmpty) = true)
    (hup : ∀ b ∈ benchesOf g, benchDown b s = false) :
    quantumEnd part s = trySave part (setGroup part { g with phase := .saving } s) := by
  have hcores : (benchesOf g).any (fun b => benchDown b s) = false := List.any_eq_false.mpr fun b hb => by simp [hup b hb]
  simp [quantumEnd, hg, hr, hp, hrival, hcores]

/-- A restore finishes while no channel holds the reads of the save areas (R163). -/
theorem execGroupRestoreDone_of_free (hg : group? part s = some g) (hr : g.phase = .restoring) (hf : areasHeld s = false) :
    execGroupRestoreDone part s = done (releaseAreas (restoreGroup part g s)) := by
  simp [execGroupRestoreDone, hg, hr, hf]

/-- Settles O7: each setting passes its checks and is made, a slice's end saves the group, and a restore's end makes it resident. -/
theorem groupsComplete : Obligations.GroupsComplete := by
  unfold Obligations.GroupsComplete
  refine ⟨?quantum, ?pin, ?unpin, ?portWait, ?sliceEnd, ?restoreDone⟩
  case quantum =>
    intro c us r s h hlow hhigh
    exact congrArg Host.Outcome.next (serve_ok h (if_neg (by omega)))
  case pin =>
    intro c g r s h hg hpinned hr hfits
    refine congrArg Host.Outcome.next (serve_ok h ?_)
    simp [hg, hpinned, hr, hfits]
  case unpin =>
    intro c g r s h hg hpinned hslots
    refine congrArg Host.Outcome.next (serve_ok h ?_)
    simp [hg, hpinned, hslots]
  case portWait =>
    intro c n g r s h hg hlow hhigh hup
    refine congrArg Host.Outcome.next (serve_ok h ?_)
    simp [hg, Nat.not_lt.mpr hlow, Nat.not_lt.mpr hhigh, relay_begun hup]
  case sliceEnd =>
    exact fun part g s hg hr hp hrival hup => congrArg done (quantumEnd_of_rival hg hr hp hrival hup)
  case restoreDone => exact fun part g s hg hr hf => execGroupRestoreDone_of_free hg hr hf

end Sys2Proof.Machine
end

section
/-! A-slot arithmetic and pointer post-increments (O58): their results are numbers below 2^32, and they raise no exception. -/

namespace Sys2Proof.Machine

open Sys2Proof

variable {w ix iy : Nat}

theorem wrap32_lt (i : Int) : wrap32 i < 2 ^ 32 := by
  unfold wrap32
  omega

/-! ## Results of the A slot -/

/-- Every result is below 2^32 where both registers are: the second operand is the other register or a wrapped immediate. -/
theorem aluOf_lt (hx : ix < 2 ^ 32) (hy : iy < 2 ^ 32) : aluOf w ix iy < 2 ^ 32 := by
  unfold aluOf
  extract_lets d other imm src
  have hd : d < 2 ^ 32 := by unfold d; split <;> assumption
  have hother : other < 2 ^ 32 := by unfold other; split <;> assumption
  have hsrc : src < 2 ^ 32 := by
    unfold src
    split
    · exact hother
    · exact wrap32_lt _
  split
  case h_1 | h_2 | h_8 | h_11 => exact Nat.mod_lt _ (by decide)
  case h_3 => exact hsrc
  case h_4 => omega
  case h_5 => exact Nat.and_lt_two_pow d hsrc
  case h_6 => exact Nat.or_lt_two_pow hd hsrc
  case h_7 => exact Nat.xor_lt_two_pow hd hsrc
  case h_9 => exact Nat.lt_of_le_of_lt (Nat.div_le_self _ _) hd
  case h_10 => exact wrap32_lt _

section
variable (hsel : bitOf 22 w = true) (hdst : bitOf 23 w = false)
include hsel hdst

theorem aluOf_add (hop : sylOp w = 0) : aluOf w ix iy = (ix + iy) % 2 ^ 32 := by
  simp [aluOf, hsel, hdst, hop]

theorem aluOf_sub (hop : sylOp w = 1) : aluOf w ix iy = (ix + 2 ^ 32 - iy) % 2 ^ 32 := by
  simp [aluOf, hsel, hdst, hop]

theorem aluOf_shl (hop : sylOp w = 7) : aluOf w ix iy = ix * 2 ^ (iy % 32) % 2 ^ 32 := by
  simp [aluOf, hsel, hdst, hop]

theorem aluOf_mul (hop : sylOp w = 10) : aluOf w ix iy = ix * iy % 2 ^ 32 := by
  simp [aluOf, hsel, hdst, hop]

/-- The difference is the number that, added to the subtrahend, gives the minuend modulo 2^32. -/
theorem aluOf_sub_add (hop : sylOp w = 1) (hy : iy ≤ 2 ^ 32) : (aluOf w ix iy + iy) % 2 ^ 32 = ix % 2 ^ 32 := by
  rw [aluOf_sub hsel hdst hop, Nat.mod_add_mod, Nat.sub_add_cancel (Nat.le_add_left_of_le hy), Nat.add_mod_right]

end

/-! ## Post-increments -/

/-- A specifier changes a register in its two post-increment modes alone. -/
theorem mem_specUpdate {e : Nat × Nat} : e ∈ specUpdate w ix iy ↔
    specMode w = 4 ∧ e = (0, wrap32 (ix + sextN 21 (specVal w))) ∨ specMode w = 5 ∧ e = (1, wrap32 (iy + sextN 21 (specVal w))) := by
  unfold specUpdate
  split
  case h_1 h4 => simp [h4]
  case h_2 h5 => simp [h5]
  case h_3 h4 h5 =>
    refine ⟨nofun, ?_⟩
    rintro (⟨hmode, -⟩ | ⟨hmode, -⟩)
    · exact (h4 hmode).elim
    · exact (h5 hmode).elim

theorem specUpdate_lt {e : Nat × Nat} (h : e ∈ specUpdate w ix iy) : e.2 < 2 ^ 32 := by
  obtain ⟨-, rfl⟩ | ⟨-, rfl⟩ := mem_specUpdate.mp h
  · exact wrap32_lt _
  · exact wrap32_lt _

/-! ## The A slot of a plan -/

/-- An A operation other than LDW and STW adds its one register update to a tile's plan. -/
theorem evalA_of_no_memory (t : Nat) (x : Tile) (s : State) (a : Plan) (hl : sylOp w ≠ 11) (hs : sylOp w ≠ 12) :
    evalA t x w s a = { a with upd := a.upd ++ [(if bitOf 23 w then 1 else 0, aluOf w x.ix.toNat x.iy.toNat)] } :=
  if_neg (not_or.mpr ⟨hl, hs⟩)

/-- The same of a firmware processor's plan (R138). -/
theorem fwA_of_no_memory (p : Nat) (x : CoreRegs) (s : State) (a : Plan) (hl : sylOp w ≠ 11) (hs : sylOp w ≠ 12) :
    fwA p x w s a = { a with upd := a.upd ++ [(if bitOf 23 w then 1 else 0, aluOf w x.ix.toNat x.iy.toNat)] } :=
  if_neg (not_or.mpr ⟨hl, hs⟩)

/-- Settles O58: results and post-increments are reduced modulo 2^32, and the plan's causes stay as they were. -/
theorem arithmeticWraps : Obligations.ArithmeticWraps := by
  unfold Obligations.ArithmeticWraps
  refine ⟨?bounds, ?equations, ?increments, ?tile, ?processor⟩
  case bounds => exact fun w ix iy hx hy => ⟨aluOf_lt hx hy, fun u hu => specUpdate_lt hu⟩
  case equations =>
    exact fun w ix iy hsel hdst =>
      ⟨aluOf_add hsel hdst, aluOf_sub_add hsel hdst, aluOf_mul hsel hdst, aluOf_shl hsel hdst⟩
  case increments =>
    intro w ix iy u hu
    obtain ⟨hmode, rfl⟩ | ⟨hmode, rfl⟩ := mem_specUpdate.mp hu
    · exact ⟨.inl rfl, .inl hmode⟩
    · exact ⟨.inr rfl, .inr hmode⟩
  case tile =>
    intro t w x s p hl hs
    rw [evalA_of_no_memory t x s p hl hs]
  case processor =>
    intro p w x s a hl hs
    rw [fwA_of_no_memory p x s a hl hs]

end Sys2Proof.Machine
end

section
/-! Bundles of the tensor tiles and the firmware processors (O40): which bundle an instruction runs, and what it comes to. -/

namespace Sys2Proof.Machine

open Sys2Proof

/-! ## Which bundle an instruction runs -/

theorem exec_bundleIssue (core : Core) (ecc : List EccHit) (s : State) :
    exec (.bundleIssue core ecc) s = .next (settle (coreBundle false core ecc s)) := rfl

theorem exec_bundleResume (core : Core) (ecc : List EccHit) (s : State) :
    exec (.bundleResume core ecc) s = .next (settle (coreBundle true core ecc s)) := rfl

theorem coreBundle_tile {again : Bool} {t part slot : Nat} {ecc : List EccHit} {s : State} (hi : issues t s = some (part, slot))
    (hw : (tile? t s).waiting = again) : coreBundle again (.tile t) ecc s = runBundle t part slot ecc s := by
  simp [coreBundle, tileBundle, hi, hw]

theorem coreBundle_proc {again : Bool} {p : Nat} {ecc : List EccHit} {s : State} (hi : fwIssues p s = true)
    (hw : (proc? p s).core.waiting = again) : coreBundle again (.proc p) ecc s = fwRun p ecc s := by
  simp [coreBundle, fwBundle, hi, hw]

/-! ## What a tile's bundle comes to, once its syllables are read (R109, R116, R137) -/

section
variable {t part slot : Nat} {ecc : List EccHit} {b : List Nat} {bytes : List Byte} {x : Tile} {f : Flow} {a : Plan} {s u : State}
  (hx : x = tile? t s) (hb : b = fetchBundle (fun i => leNat (rdMem (spImem t) (4 * i) 4 s)) 65535 8 x.pc)
  (hr : readSpan part ecc (lineFuel (4 * b.length)) ⟨spImem t, 4 * x.pc⟩ (4 * b.length) s = .ok bytes u)
include hx hb hr

theorem runBundle_of_refused (hc : bundleCause false b ≠ 0) :
    runBundle t part slot ecc s = tileFault t (bundleCause false b) u := by
  simp only [runBundle, ← hx, ← hb, hr]
  exact if_pos hc

theorem runBundle_of_interlocked (hc : bundleCause false b = 0) (hi : interlocked x b = true) :
    runBundle t part slot ecc s = modTile t (fun x => { x with waiting := true }) u := by
  simp only [runBundle, ← hx, ← hb, hr]
  rw [if_neg (fun h => h hc), if_pos hi]

variable (hf : f = flowOf 4 65535 x.pc b.length x.ix.toNat x.iy.toNat x.rstack (slotOf b 0)) (ha : a = evalBundle t part slot x b u)
  (hc : bundleCause false b = 0) (hi : interlocked x b = false)
include hf ha hc hi

/-- The C slot's exception goes before those of the other slots. -/
theorem runBundle_of_flowFault (he : f.exc ≠ 0) :
    runBundle t part slot ecc s = tileFault t (firstCause ((0, f.exc) :: a.exc)) u := by
  simp [runBundle, ← hx, ← hb, hr, ← hf, ← ha, hc, hi, he]

theorem runBundle_of_clean (he : f.exc = 0) (hn : a.exc = []) (hs : a.stall = none) :
    runBundle t part slot ecc s = commitBundle t part ecc b a f u := by
  simp [runBundle, ← hx, ← hb, hr, ← hf, ← ha, hc, hi, he, hn, hs]

end

/-! ## What a firmware processor's bundle comes to (R138, R139) -/

section
variable {p : Nat} {ecc : List EccHit} {b : List Nat} {x : CoreRegs} {f : Flow} {a : Plan} {s : State}
  (hx : x = (proc? p s).core) (hb : b = fetchBundle (fun i => leNat (rdMem (spFwImem p) (4 * i) 4 s)) 262143 8 x.pc)
include hx hb

theorem fwRun_of_refused (hc : bundleCause true b ≠ 0) : fwRun p ecc s = procCrash p 1 (bundleCause true b) s := by
  simp only [fwRun, ← hx, ← hb]
  exact if_pos hc

variable (hf : f = flowOf 16 262143 x.pc b.length x.ix.toNat x.iy.toNat x.rstack (slotOf b 0)) (ha : a = fwEval p x b s)
  (hc : bundleCause true b = 0)
include hf ha hc

theorem fwRun_of_flowFault (he : f.exc ≠ 0) : fwRun p ecc s = procCrash p 1 (firstCause ((0, f.exc) :: a.exc)) s := by
  simp [fwRun, ← hx, ← hb, ← hf, ← ha, hc, he]

theorem fwRun_of_clean (he : f.exc = 0) (hn : a.exc = []) (hs : a.stall = none) :
    fwRun p ecc s = fwCommit p ecc a f ((slotOf b 0).any (fun w => sylOp w == 10)) s := by
  simp [fwRun, ← hx, ← hb, ← hf, ← ha, hc, he, hn, hs]

end

/-- Settles O40: an issuing core runs the bundle at its PC, and each outcome of the bundle is a branch of its run. -/
theorem bundlesComplete : Obligations.BundlesComplete := by
  unfold Obligations.BundlesComplete
  refine ⟨?tileIssues, ?tileRuns, ?procIssues, ?procRuns⟩
  case tileIssues =>
    intro t part slot ecc s hi
    refine ⟨fun hw => ?_, fun hw => ?_⟩
    · rw [exec_bundleIssue, coreBundle_tile hi hw]
    · rw [exec_bundleResume, coreBundle_tile hi hw]
  case tileRuns =>
    intro t part slot ecc b bytes x f a s u hx hb hr hf ha
    exact ⟨runBundle_of_refused hx hb hr, runBundle_of_interlocked hx hb hr, runBundle_of_flowFault hx hb hr hf ha,
      runBundle_of_clean hx hb hr hf ha⟩
  case procIssues =>
    intro p ecc s hi
    refine ⟨fun hw => ?_, fun hw => ?_⟩
    · rw [exec_bundleIssue, coreBundle_proc hi hw]
    · rw [exec_bundleResume, coreBundle_proc hi hw]
  case procRuns =>
    intro p ecc b x f a s hx hb hf ha
    exact ⟨fwRun_of_refused hx hb, fwRun_of_flowFault hx hb hf ha, fwRun_of_clean hx hb hf ha⟩

end Sys2Proof.Machine
end

section
/-! What the checks of the memory opcodes read is the same in the state in which their work starts (O9, O10, O11). -/

namespace Sys2Proof.Machine

open Sys2Proof

variable {c : Call} {op part : Nat} {s : State}

@[simp] theorem tiers_begun : (begun c op s).tiers = s.tiers := rfl

@[simp] theorem parts_begun : (begun c op s).parts = s.parts := rfl

@[simp] theorem chan?_begun (ch : Nat) : chan? ch (begun c op s) = chan? ch s := rfl

@[simp] theorem cxl?_begun (dev : Nat) : cxl? dev (begun c op s) = cxl? dev s := rfl

@[simp] theorem cxlIndexOk_begun (dev : Nat) : cxlIndexOk dev (begun c op s) = cxlIndexOk dev s := rfl

@[simp] theorem allotOk_begun (a : TierRange) : allotOk part (begun c op s) a = allotOk part s a := rfl

@[simp] theorem migMay_begun (a : TierRange) : migMay c part a (begun c op s) = migMay c part a s := rfl

end Sys2Proof.Machine
end

section
/-! Allotments and migrations (O9): ranges are replaced, and a migration starts, copies, redirects, and is aborted or released. -/

namespace Sys2Proof.Machine

open Sys2Proof

variable {c : Call} {id n : Nat} {m : Mig} {s : State}

/-! ## Checks -/

theorem migOf_of_named {part : Nat} (hm : tget s.tiers.migs id = some m) (hc : c.func = 0 ∨ m.part = part) :
    migOf c part id (begun c op s) = some m := by
  simp [migOf, hm, hc]

/-! ## Check lines: their cache holds neither the copied bytes nor the migrations (R144) -/

section
variable (write : Bool)

theorem checkTouch_frame (addr : Nat) :
    (checkTouch write addr s).mem = s.mem ∧ (checkTouch write addr s).tiers.migs = s.tiers.migs := by
  unfold checkTouch
  dsimp only
  split <;> exact ⟨rfl, rfl⟩

theorem checkPlace_frame (p : Place) :
    (checkPlace write p s).mem = s.mem ∧ (checkPlace write p s).tiers.migs = s.tiers.migs := by
  unfold checkPlace
  split
  · exact checkTouch_frame write p.addr
  · exact ⟨rfl, rfl⟩

theorem checkSpan_frame (k : Nat) (p : Place) :
    (checkSpan write k p s).mem = s.mem ∧ (checkSpan write k p s).tiers.migs = s.tiers.migs := by
  induction k generalizing p s with
  | zero => exact ⟨rfl, rfl⟩
  | succ k ih =>
    obtain ⟨hmem, hmigs⟩ := ih (s := checkPlace write p s) ⟨p.space, p.addr + 512⟩
    obtain ⟨hmem', hmigs'⟩ := checkPlace_frame write (s := s) p
    exact ⟨hmem.trans hmem', hmigs.trans hmigs'⟩

end

/-! ## Copying (R150) -/

/-- A step of a copy moves the next bytes and counts them; what it does to the check cache touches neither. -/
theorem copyPart_of_mig (hm : tget s.tiers.migs id = some m) :
    (copyPart id n s).mem = copyRange s.mem (mkey (tierSpace m.src.tier) (m.src.base + m.copied))
      (mkey (tierSpace m.dst.tier) (m.dst.base + m.copied)) (min n (m.src.size - m.copied)) ∧
    tget (copyPart id n s).tiers.migs id = some { m with copied := m.copied + min n (m.src.size - m.copied) } := by
  simp [copyPart, hm, checkSpan_frame]

/-- A copy whose ranges serve is complete: accesses go to the destination, with the bad lines of the source (R151, R153). -/
theorem execMigrationCopyDone_of_copying {bad : List Nat} (hm : tget s.tiers.migs id = some m) (hc : m.mstate = .copying)
    (hsrc : rangeStops m.src s = false) (hdst : rangeStops m.dst s = false) :
    execMigrationCopyDone id bad s =
      let u := (badKeys (mkey (tierSpace m.dst.tier) m.dst.base) m.dst.size s).foldl (fun t k => unquarantine k t)
        (copyPart id (m.src.size - m.copied) s)
      done ((migBad m bad s).foldl (migBadLine m) { u with tiers := { u.tiers with
        migs := tset u.tiers.migs id { m with mstate := .redirecting, copied := m.src.size, bad := (migBad m bad s).length } } }) := by
  simp only [execMigrationCopyDone, hm]
  rw [if_neg (by simp [hc, hsrc, hdst])]

/-- Settles O9: each command's checks pass and its effect is left; a copy's bytes and count do not depend on the check cache; the
rows of a readback are those that its list is built from. The identifier answered is the lowest free one (log 9), and an aborted
migration is not in flight (log 16). -/
theorem tiersComplete : Obligations.TiersComplete := by
  unfold Obligations.TiersComplete
  refine ⟨?setAllotment, ?start, ?release, ?abort, ?copy, ?copyDone, ?readMemory, ?readErrors, ?readMigrations⟩
  case setAllotment =>
    intro c ranges r s h hlen hok
    refine congrArg Host.Outcome.next (serve_ok h (if_neg (not_or.mpr ⟨Nat.not_lt.mpr hlen, ?_⟩)))
    simpa using hok
  case start =>
    intro c src dst rate r s h hsize h0 hunit hmax hsrc hdst hapart hfree hroom
    refine congrArg Host.Outcome.next (serve_ok h ?_)
    have hshape : ¬ (src.size ≠ dst.size ∨ src.size = 0 ∨ src.size % 65536 ≠ 0 ∨ src.size > 2 ^ 38) := by omega
    simp only [migMay_begun, tiers_begun, hsrc, hdst, hapart, hfree, decide_eq_false hshape, Nat.not_le.mpr hroom,
      Bool.not_true, Bool.or_false, Bool.false_eq_true, if_false]
  case release =>
    intro c id m r s h hm hc hstate
    refine congrArg Host.Outcome.next (serve_ok h ?_)
    simp [migOf_of_named hm hc, hstate]
  case abort =>
    intro c id m r s h hm hc hstate
    refine congrArg Host.Outcome.next (serve_ok h ?_)
    simp [migOf_of_named hm hc, hstate]
  case copy => exact fun id n m s hm => copyPart_of_mig hm
  case copyDone => exact fun id bad m s hm hc hsrc hdst => execMigrationCopyDone_of_copying hm hc hsrc hdst
  case readMemory => exact fun c cursor r s h hc => ⟨_, congrArg _ (serveRead_of_serves h hc _), rfl⟩
  case readErrors => exact fun c cursor r s h hc => ⟨_, congrArg _ (serveRead_of_serves h hc _), rfl⟩
  case readMigrations =>
    intro c cursor r s h hc
    refine ⟨_, congrArg _ (serveRead_of_serves h hc _), ?_⟩
    rw [List.length_map, ← List.countP_eq_length_filter]
    rfl

end Sys2Proof.Machine
end

section
/-! Channels and lines in error (O10): settings, the scrubber, failing bursts, drift, and the end of a retraining. -/

namespace Sys2Proof.Machine

open Sys2Proof

variable {ch addr temp who fails : Nat} {s : State}

/-! ## The scrubber (R160) -/

/-- A line that the scrubber reads is served as any other, by what it finds there. -/
theorem execScrubRead_of_served {loc : LineLoc} (found : Option EccKind) (w : Bool) (hcxl : (locPlace loc).space ≠ spCxl)
    (hunit : unitBlock (locPlace loc) s = none) (hq : quarantined (lineKey (locPlace loc)) s = false)
    (hfatal : lineKey (locPlace loc) ∉ s.tiers.fatal) (hon : (locPlace loc).space = spGddr → domainOff 3 s = false) :
    execScrubRead loc found w s =
      match found with
      | some (.corrected sym) => .next (corrected (locPlace loc) 0xFF sym (checkPlace false (locPlace loc) s))
      | some .uncorrectable => done (uncorrectable (locPlace loc) 0xFF (checkPlace false (locPlace loc) s))
      | none => .next (checkPlace false (locPlace loc) s) := by
  have hserved : ¬ ((locPlace loc).space = spCxl ∨ ((locPlace loc).space = spGddr ∧ domainOff 3 s = true) ∨
      (unitBlock (locPlace loc) s).isSome ∨ quarantined (lineKey (locPlace loc)) s ∨
      s.tiers.fatal.contains (lineKey (locPlace loc))) := by
    rintro (h | ⟨h, hoff⟩ | h | h | h)
    · exact hcxl h
    · simp [hon h] at hoff
    · simp [hunit] at h
    · simp [hq] at h
    · exact hfatal (List.contains_iff_mem.mp h)
  exact if_neg hserved

/-! ## Failing bursts and drift (R162) -/

section
variable (hactive : (chan? ch s).cstate = .active)
include hactive

/-- A burst of a serving channel is reissued up to four times; the fifth failure retrains the channel, with a replay. -/
theorem execEdcFail_of_active (hch : addr / 4096 % 16 = ch) (haddr : addr < gddrSize s.tiers.density) :
    execEdcFail ch addr fails who s =
      if fails < 5 then .next (bump (bkChan ch) 2 (min fails 4) s)
      else .next (beginRetrain ch true (memError ⟨spGddr, addr⟩ 3 who 0xFF (bump (bkChan ch) 2 (min fails 4) s))) :=
  if_neg (by simp [hactive, hch, haddr])

/-- A rise of 10 degrees retrains a channel that no drift has retrained before. -/
theorem execTempDriftRetrain_of_risen (hrise : (chan? ch s).temp + 10 ≤ temp) (hfirst : (chan? ch s).driftAt = none) :
    execTempDriftRetrain ch temp s =
      .next (modChan ch (fun x => { x with driftAt := some s.chip.lcount }) (beginRetrain ch false s)) := by
  refine if_neg ?_
  rintro (h | ⟨h, -⟩ | h)
  · exact h hactive
  · exact absurd h (Nat.not_lt.mpr hrise)
  · simp [hfirst] at h

end

/-- A retraining that ends well, under no command, takes up the accesses that its channel held. -/
theorem execRetrainDone_of_ok {holdNs : Nat} (hstate : (chan? ch s).cstate = .retraining) (hmb : (chan? ch s).mb = none)
    (htemp : temp < 256) (hhold : holdNs ≤ 20000) :
    execRetrainDone ch true true temp holdNs s =
      done (resumeHeld (fun w => w == .channel ch) (modChan ch (fun x => { x with cstate := .active, temp := temp, replay := false })
        (bump (bkChan ch) 3 1 (bump (bkChan ch) 4 holdNs s)))) := by
  simp [execRetrainDone, hstate, hmb, Nat.mod_eq_of_lt htemp, Nat.min_eq_left hhold]

/-- Settles O10: each command's checks pass and its effect is left; the scrubber, a failing burst, drift and the end of a retraining
meet the conditions of their effects. -/
theorem channelsComplete : Obligations.ChannelsComplete := by
  unfold Obligations.ChannelsComplete
  refine ⟨?clear, ?setScrub, ?retrain, ?scrub, ?edc, ?drift, ?retrainDone⟩
  case clear => exact fun c lines r s h => congrArg done (serve_ok h rfl)
  case setScrub =>
    intro c a b r s h ha ha' hb hb'
    exact congrArg Host.Outcome.next (serve_ok h (if_neg (by omega)))
  case retrain =>
    intro c ch r s h hch hactive
    refine congrArg Host.Outcome.next (serve_later h ?_)
    simp [Nat.not_lt.mpr hch, hactive]
  case scrub =>
    intro loc w s hcxl hunit hq hfatal hon
    exact ⟨execScrubRead_of_served none w hcxl hunit hq hfatal hon,
      fun sym => execScrubRead_of_served (some (.corrected sym)) w hcxl hunit hq hfatal hon,
      execScrubRead_of_served (some .uncorrectable) w hcxl hunit hq hfatal hon⟩
  case edc =>
    intro ch addr fails who s hactive hch haddr
    have hexec := execEdcFail_of_active (fails := fails) (who := who) hactive hch haddr
    refine ⟨fun hfew => hexec.trans ?_, fun hmany => hexec.trans ?_⟩
    · rw [if_pos (by omega), Nat.min_eq_left hfew]
    · rw [if_neg (by omega), Nat.min_eq_right (by omega)]
  case drift => exact fun ch temp s hactive hrise hfirst => execTempDriftRetrain_of_risen hactive hrise hfirst
  case retrainDone => exact fun ch temp holdNs s hstate hmb htemp hhold => execRetrainDone_of_ok hstate hmb htemp hhold

end Sys2Proof.Machine
end

section
/-! CXL devices (O11): what brings a device into service, polls it, takes it out and loses it. -/

namespace Sys2Proof.Machine

open Sys2Proof

variable {dev : Nat} {m : MbRef} {s : State}

/-- The bring-up under CXL_ADD ends with the device's first 128 GiB (R147, R148). -/
theorem execCxlMediaReady_of_bringUp {capacity : Nat} (hstate : (cxl? dev s).cstate = .bringUp) (hmb : (cxl? dev s).mb = some m) :
    execCxlMediaReady dev capacity s = .next (finish m Config.ok Body.empty (modCxl dev (fun x => { x with
      cstate := .inService, capacity := min capacity (2 ^ 37), truncated := decide (capacity > 2 ^ 37), mb := none }) s)) := by
  simp [execCxlMediaReady, hstate, hmb]

/-- The end of the drain disables the link and ends CXL_REMOVE (R165). -/
theorem execCxlRemoveDrainEnd_of_removing (hstate : (cxl? dev s).cstate = .removing) (hmb : (cxl? dev s).mb = some m) :
    execCxlRemoveDrainEnd dev s =
      .next (finish m Config.ok Body.empty (modCxl dev (fun x => { x with cstate := .present, mb := none }) s)) := by
  simp [execCxlRemoveDrainEnd, hstate, hmb]

theorem with_migs_self {migs : Tab Mig} (h : s.tiers.migs = migs) : { s with tiers := { s.tiers with migs := migs } } = s := by
  subst h; rfl

/-- Where no migration runs, the loss of a device in service is its state and its record (R166). -/
theorem execCxlDeviceLost_of_inService (hstate : (cxl? dev s).cstate = .inService) (hmigs : s.tiers.migs = []) :
    execCxlDeviceLost dev s =
      .next (memError ⟨spCxl, dev * 2 ^ 37⟩ 6 0xFF 0xFF (modCxl dev (fun x => { x with cstate := .lost }) s)) := by
  have hlost : (modCxl dev (fun x => { x with cstate := .lost }) s).tiers.migs = [] := hmigs
  simp only [execCxlDeviceLost, hstate, hlost, List.map_nil, with_migs_self hlost]
  exact if_neg (by decide)

/-- Each event record of a device in service becomes a memory error record (R148). -/
theorem execCxlEventPoll_of_inService {events : List CxlEvent} (hstate : (cxl? dev s).cstate = .inService) :
    execCxlEventPoll dev events s = .next (events.foldl (fun t e => memError ⟨spCxl, dev * 2 ^ 37 + e.addr % 2 ^ 37⟩
      (if e.kind = 0 ∨ e.kind = 5 then e.kind else 1) 0xFF 0xFF t) s) :=
  if_neg (not_not_intro hstate)

/-- Settles O11: the two commands pass their checks and run on; each event of a device meets the state in which it takes effect. A
polled event's KIND is 0 or 5 where it names one of them and 1 otherwise (log 19). -/
theorem cxlDevicesComplete : Obligations.CxlDevicesComplete := by
  unfold Obligations.CxlDevicesComplete
  refine ⟨?add, ?mediaReady, ?remove, ?drainEnd, ?lost, ?poll⟩
  case add =>
    intro c dev r s h hindex hidle hstate hpresent
    refine congrArg Host.Outcome.next (serve_later h ?_)
    rcases hstate with hstate | hstate <;> simp [hindex, hidle, hstate, hpresent]
  case mediaReady => exact fun dev capacity m s hstate hmb => execCxlMediaReady_of_bringUp hstate hmb
  case remove =>
    intro c dev r s h hindex hstate hallot hmigs
    refine congrArg Host.Outcome.next (serve_later h ?_)
    simp only [cxlIndexOk_begun, cxl?_begun, parts_begun, tiers_begun, callRef_begun, hindex, hstate, hallot, hmigs,
      Bool.not_true, Bool.false_eq_true, ne_eq, not_true_eq_false, or_self, if_false]
  case drainEnd => exact fun dev m s hstate hmb => execCxlRemoveDrainEnd_of_removing hstate hmb
  case lost => exact fun dev s hstate hmigs => execCxlDeviceLost_of_inService hstate hmigs
  case poll => exact fun dev e s hstate => execCxlEventPoll_of_inService hstate

end Sys2Proof.Machine
end

section
/-! Release and boot (O45): the option load, the release of a reset, the ROM's choice of a flash image, training, and the endpoint. -/

namespace Sys2Proof.Machine

open Sys2Proof

variable {d : Nat} {rest : List Nat} {s : State}

theorem execOptionLoadDone_of_not_loaded (h : s.chip.loaded = false) (crcOk : Bool) :
    execOptionLoadDone crcOk s = .next (if crcOk then
      { s with
        chip := { s.chip with opt := s.chip.optFuses, loaded := true },
        sb := { s.sb with serialMode := bitOf 4 (s.chip.optFuses.toNat % 256) } }
      else assertFault s) := by
  cases crcOk <;> simp [execOptionLoadDone, h]

/-- The controller releases a reset once the options are loaded and the root PLL is locked (R495). -/
theorem execResetRelease_of_ready (ha : s.chip.asserted.isSome = true) (hl : s.chip.loaded = true) (hp : s.chip.rootLock = true) :
    execResetRelease s = .next { s with
      chip := { s.chip with asserted := none, perst := false, sysRst := false, lowRails := [] }
      ev := { s.ev with held := s.ev.held || (s.chip.asserted == some .powerOn && s.chip.pwrFail) } } := by
  have hnone : s.chip.asserted.isNone = false := by simpa using ha
  exact if_neg (by simp [hnone, hl, hp])

/-! ## The ROM (R417, R418) -/

section
variable (hleft : (bootOrder s).filter (fun d => !s.chip.bootTried.contains d) = d :: rest) (ha : s.chip.asserted = none)
  (hi : s.chip.bootImage = none) (hr : s.chip.recovery = false)

include ha hi hr in
/-- The ROM reads on while no reset is asserted, no image is booted, and recovery has not begun. -/
theorem rom_not_held : ¬ (s.chip.asserted.isSome ∨ s.chip.bootImage.isSome ∨ s.chip.recovery) := by
  simp [ha, hi, hr]

include hleft ha hi hr

/-- The first image that verifies is booted. -/
theorem execBootImageRead_of_verified (hok : flashFails d s = []) :
    execBootImageRead s = .next (loadImage (Image.parse (flashImage d s)) (mkey (spFlash d) 0) { s with
      chip := { s.chip with bootTried := s.chip.bootTried ++ [d], bootImage := some d } }) := by
  simp only [execBootImageRead, hleft, hok, List.head?_nil]
  exact if_neg (rom_not_held ha hi hr)

/-- An image that fails is rejected by its first failing check, and the other flash is left to try. -/
theorem execBootImageRead_of_rejected {k : Nat} {ks : List Nat} (hbad : flashFails d s = k :: ks) (hrest : rest ≠ []) :
    execBootImageRead s = .next (rstCount 3 1 { s with chip := { s.chip with
      bootTried := s.chip.bootTried ++ [d], rejects := s.chip.rejects ++ [(d, k)], recovery := false } }) := by
  have hmore : rest.isEmpty = false := by simpa using hrest
  simp only [execBootImageRead, hleft, hbad, List.head?_cons, hmore]
  exact if_neg (rom_not_held ha hi hr)

end

/-! ## Training and the endpoint (R141, R428, R499, R500) -/

theorem execGddr7TrainingDone_of_untrained {ch temp : Nat} {ok : Bool} (hch : ch < 16) (hstate : (chan? ch s).cstate = .untrained)
    (hboot : s.chip.bootImage.isSome = true) :
    execGddr7TrainingDone ch ok temp s = .next (modChan ch (fun x => { x with
      cstate := if ok then .active else .offline, temp := if ok then temp % 256 else x.temp }) s) :=
  if_pos ⟨hch, hstate, hboot⟩

/-- The endpoint comes up once every channel's boot training has ended. -/
theorem execEndpointReady_of_trained {speed width : Nat} {flit : Bool} (hlink : linkOk speed width flit = true)
    (htrip : s.pm.tripped = false) (hboot : s.chip.bootImage.isSome = true) (hdone : s.chip.bootDone = false)
    (htrained : ∀ e ∈ s.tiers.chans, e.2.cstate ≠ .untrained) :
    execEndpointReady speed width flit s = .next (bootRun { s with
      chip := { s.chip with bootDone := true }, ep := { s.ep with speed := speed, width := width, flit := flit, rrs := false } }) := by
  have hall : s.tiers.chans.all (fun e => e.2.cstate != .untrained) = true :=
    List.all_eq_true.mpr fun e he => by simpa using htrained e he
  simp [execEndpointReady, hlink, htrip, hboot, hdone, hall]

/-- Settles O45: each event of a release and of a boot meets the condition on which it takes effect. That a release clears the marks
of every pin and rail is the model's reading (log 64). -/
theorem bootCompletes : Obligations.BootCompletes := by
  unfold Obligations.BootCompletes
  refine ⟨?options, ?rootLock, ?release, ?image, ?training, ?endpoint⟩
  case options => exact fun s h => ⟨execOptionLoadDone_of_not_loaded h true, execOptionLoadDone_of_not_loaded h false⟩
  case rootLock => exact fun s => rfl
  case release => exact fun s ha hl hp => execResetRelease_of_ready ha hl hp
  case image =>
    exact fun d rest s hleft ha hi hr => ⟨execBootImageRead_of_verified hleft ha hi hr,
      fun k ks hbad hrest => execBootImageRead_of_rejected hleft ha hi hr hbad hrest⟩
  case training => exact fun ch temp ok s hch hstate hboot => execGddr7TrainingDone_of_untrained hch hstate hboot
  case endpoint =>
    exact fun speed width flit s hlink htrip hboot hdone htrained => execEndpointReady_of_trained hlink htrip hboot hdone htrained

end Sys2Proof.Machine
end

section
/-! Translation commands and fault timeouts (O12): what they discard and wait for, and what the readbacks list. -/

namespace Sys2Proof.Machine

open Sys2Proof

variable {c : Call} {op part tag x : Nat} {s : State}

/-! ## What the checks read is the same in the state in which the work starts -/

@[simp] theorem trans?_begun (p : Nat) : trans? p (begun c op s) = trans? p s := rfl

@[simp] theorem stalledCount_begun (p : Nat) : stalledCount p (begun c op s) = stalledCount p s := rfl

@[simp] theorem transOk_begun (p : TransSet) : transOk part p (begun c op s) = transOk part p s := rfl

/-! ## What the commands run -/

theorem exec_setTranslation (c : Call) (p : TransSet) (s : State) : exec (.setTranslation c p) s =
    done (serve c 0x1200 (fun r t =>
      if !transOk r.part p t then .reject Config.badValue
      else if ((trans? r.part t).fqBase != p.fqBase || (trans? r.part t).func != p.func || (trans? r.part t).vec != p.vec) &&
          ((trans? r.part t).unreleased != 0 || stalledCount r.part t != 0) then .reject Config.wrongState
      else .later (invalidate (callRef c t) r.part .whole (modTrans r.part (setTrans p) t)) true) s) := rfl

theorem exec_invalidate (c : Call) (sc : InvScope) (s : State) : exec (.invalidate c sc) s =
    done (serve c 0x1210 (fun r t =>
      if !scopeOk sc then .reject Config.badValue else .later (invalidate (callRef c t) r.part sc t) true) s) := rfl

/-! ## What an invalidation of everything leaves (R193) -/

/-- No set of the TLB keeps a translation of the partition. -/
theorem dropScope_whole_tlb {e : Nat × List TlbEnt} (he : e ∈ (dropScope part .whole s).xl.tlb) :
    e.2.all (fun t => t.part != part) = true := by
  obtain ⟨e', -, rfl⟩ := List.mem_map.mp he
  rw [List.all_eq_true]
  intro t ht
  simpa [scopeHits] using (List.mem_filter.mp ht).2

/-- The walk cache keeps no entry of the partition. -/
theorem dropScope_whole_wcache : (dropScope part .whole s).xl.wcache.all (fun e => e.part != part) = true := by
  rw [List.all_eq_true]
  intro e he
  simpa [scopeHits] using (List.mem_filter.mp he).2

/-! ## A fault that no one answered in time (R190) -/

theorem execFaultTimeout_of_stalled {f : Xfer} (hx : xfer? x s = some f) (hst : f.st = .stalled tag) :
    execFaultTimeout x s =
      done (failUnit x Config.ccTransTimeout (bump (bkTrans f.part) 5 1 (expireFault f.part tag s))) := by
  simp only [execFaultTimeout, hx, hst]

/-- Settles O12: the two commands pass their checks and run on with their invalidation; one of everything keeps no entry of its
partition; the readbacks answer from their rows; a stalled transfer whose time passes meets the state of its end. -/
theorem translationComplete : Obligations.TranslationComplete := by
  unfold Obligations.TranslationComplete
  refine ⟨?setTranslation, ?invalidate, ?discards, ?readTranslation, ?readFaults, ?timeout⟩
  case setTranslation =>
    intro c p r s h hok hreleased hstalled
    rw [exec_setTranslation, serve_later h (t := invalidate (callRef c s) r.part .whole (modTrans r.part (setTrans p) (begun c 0x1200 s)))
      (cm := true) (by simp [hok, hreleased, hstalled])]
    rfl
  case invalidate =>
    intro c sc r s h hok
    rw [exec_invalidate, serve_later h (t := invalidate (callRef c s) r.part sc (begun c 0x1210 s)) (cm := true) (by simp [hok])]
    rfl
  case discards => exact fun part s => ⟨dropScope_whole_wcache, fun e he => dropScope_whole_tlb he⟩
  case readTranslation => exact fun c cursor r s h hc => congrArg _ (serveRead_of_serves h hc _)
  case readFaults =>
    intro c cursor r s h hc
    refine ⟨_, congrArg _ (serveRead_of_serves h hc _), ?_⟩
    rw [List.length_map, ← List.countP_eq_length_filter]
    rfl
  case timeout => exact fun x tag f s hx hst => execFaultTimeout_of_stalled hx hst

end Sys2Proof.Machine
end

section
/-! Transfers and requests to the host (O13): page table reads, completions, time-outs, zero-length reads, and held accesses. -/

namespace Sys2Proof.Machine

open Sys2Proof

variable {f w tag : Nat} {how : HostEnd} {s : State}

@[simp] theorem hostStores_nil (s : State) : hostStores [] s = s := rfl

/-! ## What the events run -/

theorem exec_completionTimeout (tag : Nat) (s : State) : exec (.completionTimeout tag) s = execCompletionTimeout tag s := rfl

theorem exec_zeroLengthRead (f : Nat) (s : State) : exec (.zeroLengthRead f) s = execZeroLengthRead f s := rfl

theorem exec_heldAccessResume (f : Nat) (s : State) : exec (.heldAccessResume f) s = done (functionSends f s) := rfl

/-! ## Page table reads (R182, R438) -/

section
variable {k : Walk} (hw : tget s.xl.walks w = some k)
include hw

/-- A page table read that the host answers takes its walk on, in the host's memory as it is. -/
theorem execWalkComplete_of_answered :
    execWalkComplete w .ok [] s = done (walkRead w k (bump (bkHost k.func) 1 16 s)) := by
  simp only [execWalkComplete, hw, hostStores_nil]

/-- However a page table read fails, the accesses that waited for its walk end with the code of that failure. -/
theorem execWalkComplete_of_failed (hhow : how ≠ .ok) : execWalkComplete w how [] s =
    done (endWalk w k (fun x _ t => failUnit x (hostCode how) t) (countHostEnd k.func how s)) := by
  cases how with
  | ok => exact absurd rfl hhow
  | _ => simp only [execWalkComplete, hw, hostStores_nil]

end

/-! ## Data reads and zero-length reads (R437, R438) -/

section
variable {q : HostReq} (hq : tget s.xl.hreqs tag = some q)
include hq

theorem execHostReadCompletion_of_outstanding (how : HostEnd) (bytes : List Byte) :
    execHostReadCompletion tag how bytes s = done (hostAnswer tag q how bytes s) := by
  simp only [execHostReadCompletion, hq]

theorem execCompletionTimeout_of_outstanding : execCompletionTimeout tag s = done (hostAnswer tag q .timeout [] s) := by
  simp only [execCompletionTimeout, hq]

end

/-- A data read that times out is reported and counted, and its transfer's part ends with PROTECTION. -/
theorem hostAnswer_read_timeout {q : HostReq} (hkind : q.kind = .read) (bytes : List Byte) : hostAnswer tag q .timeout bytes s =
    pumpWaiting (failHostPart q.owner tag Config.ccProtection
      (emit (.aer q.func .completionTimeout) (bump (bkHost q.func) 4 1 { s with xl := { s.xl with hreqs := tdel s.xl.hreqs tag } }))) := by
  simp only [hostAnswer, hkind, countHostEnd, hostCode]

/-- A zero-length read is sent to the last byte of the function's last posted write, for every transfer for which one is due. -/
theorem execZeroLengthRead_of_due {addr : Nat} (haddr : tget s.xl.lastPosted f = some addr) (htag : hostTag f s = some tag)
    (hdue : zlrDue f s ≠ []) (hf : mayRequest f s = true) :
    execZeroLengthRead f s = .next (emit (.zeroLengthRead f addr tag) (bump (bkHost f) 3 1
      ((zlrDue f s).foldl (fun (t : State) (x : Nat) =>
          modXfer x (fun e => { e with zneed := e.zneed.filter (· != f), zwait := e.zwait ++ [tag] }) t)
        { s with xl := { s.xl with
          hreqs := tset s.xl.hreqs tag { kind := .zlr, func := f, addr := addr, len := 0, owner := 0 } } }))) := by
  have hsends : ¬ ((zlrDue f s).isEmpty || !mayRequest f s) = true := by simp [hdue, hf]
  simp only [execZeroLengthRead, haddr, htag]
  exact if_neg hsends

/-! ## Accesses that a function held (R439) -/

theorem functionSends_of_mayRequest (hf : mayRequest f s = true) : functionSends f s =
    let u := resumeHeld (fun w => w == .func f) s
    if (trans? (funcPart f s) u).func = f then drainFaults (funcPart f s) (waitingCount (funcPart f s) u) u else u :=
  if_neg (by simp [hf])

/-- Settles O13: a ready unit runs; each answer and each failure of a request meets the request that is outstanding; a zero-length
read that is due is sent for the one transfer that needs it; a function that may send again takes up what it held. -/
theorem hostRequestsComplete : Obligations.HostRequestsComplete := by
  unfold Obligations.HostRequestsComplete
  refine ⟨?ready, ?walkAnswered, ?walkFailed, ?completion, ?timeout, ?zeroLength, ?resume⟩
  case ready => exact fun x ecc s => rfl
  case walkAnswered => exact fun w k s hw => execWalkComplete_of_answered hw
  case walkFailed => exact fun w k how s hw hhow => execWalkComplete_of_failed hw hhow
  case completion => exact fun tag how bytes q s hq => execHostReadCompletion_of_outstanding hq how bytes
  case timeout =>
    intro tag q s hq hkind
    rw [exec_completionTimeout, execCompletionTimeout_of_outstanding hq, hostAnswer_read_timeout hkind]
    rfl
  case zeroLength =>
    intro f addr tag x s haddr htag hdue hf
    rw [exec_zeroLengthRead, execZeroLengthRead_of_due haddr htag (by simp [hdue]) hf, hdue]
    rfl
  case resume =>
    intro f s hf
    rw [exec_heldAccessResume, functionSends_of_mayRequest hf]
    rfl

end Sys2Proof.Machine
end

section
/-! Registers of the partition blocks (O2): fault heads and responses, tally counters, the rings' doorbells, and a task slot's GO. -/

namespace Sys2Proof.Machine

open Sys2Proof

variable {f off blk o size p v tag : Nat} {s t : State}

/-! ## Values that leave reserved bits clear -/

/-- A number below a field's lowest bit has none of the field's bits. -/
theorem and_mask_of_lt {hi lo : Nat} (h : v < 2 ^ lo) : v &&& mask hi lo = 0 := by
  refine Nat.eq_of_testBit_eq fun i => ?_
  rcases Nat.lt_or_ge i lo with hbelow | habove
  · simp [mask, Nat.testBit_mul_two_pow, Nat.not_le.mpr hbelow]
  · have hv : v.testBit i = false := Nat.testBit_lt_two_pow (Nat.lt_of_lt_of_le h (Nat.pow_le_pow_right Nat.two_pos habove))
    simp [hv]

theorem toNat_ofNat_of_lt (h : v < 2 ^ 32) : (BitVec.ofNat 64 v).toNat = v := by
  rw [BitVec.toNat_ofNat]
  omega

/-! ## Where the registers stand -/

theorem isBk_trans (hp : p < 64) : isBk (bkTrans p) 0x80 64 = true := isBk_true (by unfold bkTrans; omega)

theorem isBk_queue (hp : p < 64) : isBk (bkQueue p) 0xC0 64 = true := isBk_true (by unfold bkQueue; omega)

theorem isBk_cipher (hp : p < 64) : isBk (bkCipher p) 0x100 64 = true := isBk_true (by unfold bkCipher; omega)

theorem regAt_trFqhead (hp : p < 64) : regAt (bkTrans p) 0 s =
    some { Reg.ro false (mask 31 12) (trans? p s).head with rw := mask 11 0 } := by
  rw [regAt_low (by omega), ownReg_trans hp]
  rfl

theorem regAt_trRespond (hp : p < 64) : regAt (bkTrans p) 0x10 s = some { Reg.ro false (mask 31 18) 0 with wo := mask 17 0 } := by
  rw [regAt_low (by omega), ownReg_trans hp]
  rfl

theorem regAt_qeTcvalue (hp : p < 64) : regAt (bkQueue p) 8 s =
    some { Reg.ro true 0 (tallyGet p (tgetD s.qe.tcsel p 0) s).toNat with rw := mask 63 0 } := by
  rw [regAt_low (by omega), ownReg_queue hp]
  rfl

theorem regAt_qeTcadd (hp : p < 64) : regAt (bkQueue p) 0x10 s = some { Reg.ro true 0 0 with wo := mask 63 0 } := by
  rw [regAt_low (by omega), ownReg_queue hp]
  rfl

theorem regAt_ceRingdb (hp : p < 64) : regAt (bkCipher p) 0 s = some { Reg.ro false 0 0 with wo := mask 31 0 } := by
  rw [regAt_low (by omega), ownReg_cipher hp]
  rfl

theorem regAt_ppInject : regAt (bkPipe 0) 0x18 s = some { Reg.ro false 0 0 with wo := mask 31 0 } := by
  rw [regAt_low (by omega)]
  rfl

/-! ## What a write to each block does -/

theorem regEffect_trans (hp : p < 64) (ho : o < 0x3F00) : regEffect (bkTrans p) o v s =
    if o = 0 then fqHeadWrite p v s
    else if o = 8 then some (if bitOf 31 v then modTrans p (fun t => { t with ovf := false }) s else s)
    else if o = 0x10 then respondWrite p v s else some s := by
  have hblk : bkTrans p = 0x80 + p := rfl
  have hrst : bkReset = 3 := rfl
  have e : bkTrans p - 0x80 = p := by omega
  rw [regEffect]
  iterate 5 rw [if_neg (by omega)]
  rw [if_pos (isBk_trans hp), e]

theorem regEffect_queue (hp : p < 64) (ho : o ≤ 0x10) : regEffect (bkQueue p) o v s = queueWrite p o v s := by
  have hblk : bkQueue p = 0xC0 + p := rfl
  have hrst : bkReset = 3 := rfl
  have e : bkQueue p - 0xC0 = p := by omega
  rw [regEffect]
  iterate 5 rw [if_neg (by omega)]
  rw [if_neg (isBk_false (by omega)), if_pos ⟨isBk_queue hp, ho⟩, e]

theorem regEffect_cipher (hp : p < 64) : regEffect (bkCipher p) 0 v s = ringBell p v s := by
  have hblk : bkCipher p = 0x100 + p := rfl
  have hrst : bkReset = 3 := rfl
  have e : bkCipher p - 0x100 = p := by omega
  rw [regEffect]
  iterate 5 rw [if_neg (by omega)]
  rw [if_neg (isBk_false (by omega)), if_neg (not_and_of_not_left _ (isBk_false (by omega))), if_pos ⟨isBk_cipher hp, rfl⟩, e]

theorem regEffect_ppInject : regEffect (bkPipe 0) 0x18 v s = some (injectBell v s) := rfl

theorem fqHeadWrite_of_release (hpart : (part? p s).isSome = true)
    (hk : (v + 4096 - (trans? p s).head) % 4096 ≤ (trans? p s).unreleased) :
    fqHeadWrite p v s = some (drainFaults p (waitingCount p s) (modTrans p (fun t => { t with
      head := v, unreleased := t.unreleased - (v + 4096 - (trans? p s).head) % 4096 }) s)) := by
  simp only [fqHeadWrite, hpart, Nat.not_lt.mpr hk, Bool.not_true, Bool.false_eq_true, if_false]

/-- ACTION 1 retries the fault of the tag, ACTION 2 fails it (R189). -/
theorem respondWrite_of_action (htag : tag < 65536) {a : Nat} (ha : a = 1 ∨ a = 2) :
    respondWrite p (tag + a * 65536) s = some (respond p tag (a == 1) s) := by
  have ht : (tag + a * 65536) % 65536 = tag := by omega
  have hb : bitsOf 17 16 (tag + a * 65536) = a := by simp only [bitsOf]; omega
  rcases ha with rfl | rfl <;> simp [respondWrite, ht, hb]

theorem respond_of_written {k : FaultRec} {retry : Bool}
    (hk : s.xl.faults.find? (fun f => f.part == p && f.tag == tag && f.written) = some k) :
    respond p tag retry s =
      if retry then runUnit k.xfer [] (modXfer k.xfer (fun x => { x with st := .ready, got := [] }) (dropFault p tag s))
      else failUnit k.xfer Config.ccProtection (dropFault p tag s) := by
  simp only [respond, hk]

theorem ringBell_of_ahead {c : CipherRing} (hc : cring? p s = some c) (hd : diff32 v c.di ≤ 2 ^ c.log) (ha : aheadOf v c.db = true) :
    ringBell p v s = some (cipherKick p (modRing p (fun r => { r with db := v, status := 0 }) s)) := by
  simp [ringBell, hc, Nat.not_lt.mpr hd, ha]

theorem injectBell_of_ahead (hpunt : s.pp.punt.isSome = true) (ha : aheadOf v s.pp.injDb = true) (hidle : s.pp.injLoop = .idle) :
    injectBell v s = injectKick (modPipe (fun p => { p with injDb := v, injLoop := .idle }) s) := by
  have hnone : s.pp.punt.isNone = false := by rw [← Option.not_isSome, hpunt]; rfl
  simp [injectBell, hnone, ha, hidle, modPipe]

theorem queueWrite_tcvalue {d : DWord} (hok : tallyOk p (tgetD s.qe.tcsel p 0) s = true) :
    queueWrite p 8 d.toNat s = some (tallyPut p (tgetD s.qe.tcsel p 0) d s) := by
  simp [queueWrite, hok]

theorem queueWrite_tcadd {d : DWord} (hok : tallyOk p (tgetD s.qe.tcsel p 0) s = true) :
    queueWrite p 0x10 d.toNat s = some (tallyPut p (tgetD s.qe.tcsel p 0) (tallyGet p (tgetD s.qe.tcsel p 0) s + d) s) := by
  simp [queueWrite, tallyAdd, hok]

/-! ## The writes -/

/-- TR_RESPOND with the tag of a written fault. -/
theorem regWrite_trRespond {a : Nat} {k : FaultRec} (h : HostReg f off (bkTrans p) 0x10 s) (hp : p < 64) (htag : tag < 65536)
    (ha : a = 1 ∨ a = 2) (hk : s.xl.faults.find? (fun f => f.part == p && f.tag == tag && f.written) = some k) :
    regWrite (hostPut f off 4 (BitVec.ofNat 64 (tag + a * 65536))) s =
      if a == 1 then runUnit k.xfer [] (modXfer k.xfer (fun x => { x with st := .ready, got := [] }) (dropFault p tag s))
      else failUnit k.xfer Config.ccProtection (dropFault p tag s) := by
  have hv : (BitVec.ofNat 64 (tag + a * 65536)).toNat = tag + a * 65536 := toNat_ofNat_of_lt (by omega)
  refine regWrite_whole h (regAt_trRespond hp) ?_ (by omega) (by omega) (inMboxArea_false (.inl (by unfold bkTrans; omega))) rfl
    (by rw [hv]; omega) (by rw [hv]; exact and_mask_of_lt (by omega)) (.inl (notQuiet_of_offset (by omega) (by omega)))
  rw [hv, regEffect_trans hp (by omega)]
  exact (respondWrite_of_action htag ha).trans (congrArg some (respond_of_written hk))

theorem regWrite_trFqhead (h : HostReg f off (bkTrans p) 0 s) (hp : p < 64) (hpart : (part? p s).isSome = true) (hv : v < 4096)
    (hk : (v + 4096 - (trans? p s).head) % 4096 ≤ (trans? p s).unreleased) :
    regWrite (hostPut f off 4 (BitVec.ofNat 64 v)) s =
      drainFaults p (waitingCount p s) (modTrans p (fun t => { t with
        head := v, unreleased := t.unreleased - (v + 4096 - (trans? p s).head) % 4096 }) s) := by
  have e : (BitVec.ofNat 64 v).toNat = v := toNat_ofNat_of_lt (by omega)
  refine regWrite_whole h (regAt_trFqhead hp) ?_ (by omega) (by omega) (inMboxArea_false (.inl (by unfold bkTrans; omega))) rfl
    (by rw [e]; omega) (by rw [e]; exact and_mask_of_lt hv) (.inl (notQuiet (by unfold bkTrans; omega) (by unfold bkTrans; omega)))
  rw [e, regEffect_trans hp (by omega), if_pos rfl, fqHeadWrite_of_release hpart hk]

/-- An 8-byte write of a partition's tally register does what the queue block does with it. -/
theorem regWrite_tally {d : DWord} {r : Reg} (h : HostReg f off (bkQueue p) o s) (hp : p < 64) (ho : o = 8 ∨ o = 0x10)
    (hr : regAt (bkQueue p) o s = some r) (hwide : r.wide = true) (hrsv : r.rsv = 0) (ht : queueWrite p o d.toNat s = some t) :
    regWrite (hostPut f off 8 d) s = t := by
  refine regWrite_whole h hr ?_ (by omega) (by omega) (inMboxArea_false (.inl (by unfold bkQueue; omega))) (by rw [hwide]; rfl)
    d.isLt (by rw [hrsv]; exact Nat.and_zero _) (.inl (notQuiet_of_offset (by omega) (by omega)))
  rw [regEffect_queue hp (by omega), ht]

/-- A doorbell's write by a function that may act does what its block does with the hint. -/
theorem regWrite_hint (h : HostReg f off blk o s) (hr : regAt blk o s = some { Reg.ro false 0 0 with wo := mask 31 0 })
    (hf : mayAct f s = true) (hv : v < 2 ^ 32) (ho : o < 0x4000) (ho4 : o % 4 = 0) (hblk : blk < 0x1000)
    (ht : regEffect blk o v s = some t) : regWrite (hostPut f off 4 (BitVec.ofNat 64 v)) s = t := by
  have e : (BitVec.ofNat 64 v).toNat = v := toNat_ofNat_of_lt hv
  exact regWrite_whole h hr (by rw [e, ht]) ho ho4 (inMboxArea_false (.inl hblk)) rfl (by rw [e]; exact hv) (Nat.and_zero _) (.inr hf)

/-! ## What the instructions run -/

/-- A write that reaches the registers that an instruction stands for is done as a register write. -/
theorem written_of_reaches {P : Nat → Nat → Bool} {d : DWord} (h : HostReg f off blk o s) (ho : o < 0x4000) (hP : P blk o = true)
    (hw : regWrite (hostPut f off size d) s = t) :
    (if reaches P (hostPut f off size d) s then regWrite (hostPut f off size d) s else s) = t := by
  rw [reaches_hostPut h ho, if_pos hP, hw]

theorem responds_hostPut {a : Nat} (h : HostReg f off (bkTrans p) 0x10 s) (hp : p < 64) (htag : tag < 65536) (ha : a < 4) :
    responds a (hostPut f off 4 (BitVec.ofNat 64 (tag + a * 65536))) s = true := by
  have hv : (hostPut f off 4 (BitVec.ofNat 64 (tag + a * 65536))).value.toNat = tag + a * 65536 := toNat_ofNat_of_lt (by omega)
  have hb : bitsOf 17 16 (tag + a * 65536) = a := by simp only [bitsOf]; omega
  simp [responds, reaches_hostPut h, hv, hb, isBk_trans hp]

theorem exec_retry (w : RegWrite) (s : State) : exec (.retry w) s = done (if responds 1 w s then regWrite w s else s) := rfl

theorem exec_fail (w : RegWrite) (s : State) : exec (.fail w) s = done (if responds 2 w s then regWrite w s else s) := rfl

theorem exec_taskGo (w : RegWrite) (s : State) : exec (.taskGo w) s =
    .next (if w.bar = 2 ∧ isSlot w.offset = true ∧ writesGo w.offset w.size w.value.toNat = true then regWrite w s else s) := rfl

/-! ## GO of a task slot (R356) -/

section
variable {k : Nat}

/-- GO alone, written to a slot that is at rest. -/
theorem slotWrite_go (hslot : (off - 0x10000) / 64 = k) (hoff : off % 64 = 60) (h1 : (slotRegs (taskKey f k) s).state ≠ 1)
    (h2 : (slotRegs (taskKey f k) s).state ≠ 2) (hserial : s.sb.serialMode = false) (hon : disabled 2 s = false) :
    slotWrite f off 4 1 s = .ok (slotGo f k s) := by
  have hbytes : leBytes 4 1 = [1#8, 0#8, 0#8, 0#8] := rfl
  have hzero : slotZero 60 [1#8, 0#8, 0#8, 0#8] = false := by decide
  simp [slotWrite, hslot, hoff, hbytes, hzero, h1, h2, hserial, hon, bitOf]

theorem writesGo_ctl (hoff : off % 64 = 60) : writesGo off 4 1 = true := by
  simp [writesGo, hoff, bitOf]

/-- CTL of each slot lies in the slots' part of BAR2. -/
theorem isSlot_ctl (hk : k < 256) : isSlot (0x10000 + 64 * k + 60) = true := by
  simp only [isSlot, Bool.and_eq_true, decide_eq_true_eq]
  omega

/-- A function's write to BAR2 that lies in its task slots goes to its storage block. -/
theorem regWrite_slot {d : DWord} (ha : s.chip.asserted = none) (hd : decodes f s = true) (hoff : isSlot off = true) :
    regWrite { agent := .host f, bar := 2, offset := off, size := size, value := d, stores := [] } s =
      slotBusWrite f off size d.toNat s := by
  simp [regWrite, ha, hd, bar2Write, hoff]

theorem slotBusWrite_go (hslot : (off - 0x10000) / 64 = k) (hoff : off % 64 = 60) (hf : mayAct f s = true)
    (h1 : (slotRegs (taskKey f k) s).state ≠ 1) (h2 : (slotRegs (taskKey f k) s).state ≠ 2) (hserial : s.sb.serialMode = false)
    (hon : disabled 2 s = false) : slotBusWrite f off 4 1 s = slotGo f k s := by
  have hsize : sizeOk off 4 = true := by simp [sizeOk]; omega
  simp [slotBusWrite, hsize, hf, slotWrite_go hslot hoff h1 h2 hserial hon]

end

/-- Settles O2: each write reaches its register whole and does what its block does with it, the doorbells of the cipher ring (R411) and of
the inject ring (R346) among them; GO alone reaches a slot that is at rest (R356). -/
theorem partitionRegistersComplete : Obligations.PartitionRegistersComplete := by
  unfold Obligations.PartitionRegistersComplete
  refine ⟨?fqhead, ?retry, ?fail, ?tcvalue, ?tcadd, ?ringdb, ?inject, ?taskGo⟩
  case fqhead =>
    intro f off p v s h hp hpart hv hk
    exact congrArg Host.Outcome.next (written_of_reaches h (by omega) (by simp [isBk_trans hp])
      (regWrite_trFqhead h hp hpart hv hk))
  case retry =>
    intro f off p tag k s h hp htag hk _
    rw [exec_retry, if_pos (responds_hostPut (a := 1) h hp htag (by omega)), regWrite_trRespond (a := 1) h hp htag (.inl rfl) hk]
    rfl
  case fail =>
    intro f off p tag k s h hp htag hk _
    rw [exec_fail, if_pos (responds_hostPut (a := 2) h hp htag (by omega)), regWrite_trRespond (a := 2) h hp htag (.inr rfl) hk]
    rfl
  case tcvalue =>
    intro f off p v s h hp hok
    exact congrArg Host.Outcome.next (written_of_reaches h (by omega) (by simp [isBk_queue hp])
      (regWrite_tally h hp (.inl rfl) (regAt_qeTcvalue hp) rfl rfl (queueWrite_tcvalue hok)))
  case tcadd =>
    intro f off p v s h hp hok
    exact congrArg Host.Outcome.next (written_of_reaches h (by omega) (by simp [isBk_queue hp])
      (regWrite_tally h hp (.inr rfl) (regAt_qeTcadd hp) rfl rfl (queueWrite_tcadd hok)))
  case ringdb =>
    intro f off p v c s h hp hf hv hc hd ha
    exact congrArg done (written_of_reaches h (by omega) (by simp [isBk_cipher hp])
      (regWrite_hint h (regAt_ceRingdb hp) hf hv (by omega) (by omega) (by unfold bkCipher; omega)
        ((regEffect_cipher hp).trans (ringBell_of_ahead hc hd ha))))
  case inject =>
    intro off v s h hf hv hpunt ha hidle
    exact congrArg done (written_of_reaches h (by omega) (by decide)
      (regWrite_hint h regAt_ppInject hf hv (by omega) (by omega) (by decide)
        (regEffect_ppInject.trans (congrArg some (injectBell_of_ahead hpunt ha hidle)))))
  case taskGo =>
    intro f k s ha hd hf hk h1 h2 hserial hon
    have hoff : (0x10000 + 64 * k + 60) % 64 = 60 := by omega
    rw [exec_taskGo, if_pos ⟨rfl, isSlot_ctl hk, writesGo_ctl hoff⟩, regWrite_slot ha hd (isSlot_ctl hk)]
    exact congrArg Host.Outcome.next (slotBusWrite_go (by omega) hoff hf h1 h2 hserial hon)

end Sys2Proof.Machine
end

section
/-! What the links, the gangs and the roll call read after a change of them, and in the state in which an opcode's work starts
(O14 to O18). -/

namespace Sys2Proof.Machine

open Sys2Proof

variable {c : Call} {op n gi : Nat} {g : Gang} {s t : State}

/-! ## Links and gangs -/

@[simp] theorem link?_modLink_same (f : Link → Link) : link? n (modLink n f s) = f (link? n s) := tgetD_tset_same _ _ _ _

@[simp] theorem gang?_modLink (f : Link → Link) : gang? gi (modLink n f s) = gang? gi s := rfl

@[simp] theorem gang?_setGang_same : gang? gi (setGang gi g s) = some g := tget_tset_same _ _ _

theorem linkUp_iff : linkUp n s = true ↔ (link? n s).lstate = .active := beq_iff_eq

/-- A change of a link that keeps the number of its gang keeps it in that gang. -/
theorem gangOf_modLink {f : Link → Link} (hf : (f (link? n s)).gang = (link? n s).gang) :
    gangOf n (modLink n f s) = gangOf n s := by
  simp [gangOf, hf]

/-- Where no command waits for a link's recalibration, none is answered. -/
theorem endRecal_of_no_command (h : (link? n s).recalMb = none) : endRecal n s = s := by
  simp only [endRecal, h]

/-! ## The state in which an opcode's work starts -/

@[simp] theorem jl_begun : (begun c op s).jl = s.jl := rfl

@[simp] theorem link?_begun : link? n (begun c op s) = link? n s := rfl

@[simp] theorem gang?_begun : gang? gi (begun c op s) = gang? gi s := rfl

@[simp] theorem gangOf_begun : gangOf n (begun c op s) = gangOf n s := rfl

@[simp] theorem linksOf_begun : linksOf gi (begun c op s) = linksOf gi s := rfl

@[simp] theorem gangListsOk_begun (members spares : List Nat) :
    gangListsOk gi members spares (begun c op s) = gangListsOk gi members spares s := rfl

@[simp] theorem isHead_begun : isHead (begun c op s) = isHead s := rfl

end Sys2Proof.Machine
end

section
/-! Training and recalibration of links (O14). -/

namespace Sys2Proof.Machine

open Sys2Proof

variable {link gi pos : Nat} {g : Gang} {s : State}

/-! ## Training (R200, R210) -/

/-- The one link of a gang without spares has no other link's partner to be compared with its own. -/
theorem execHello_of_alone {h : CtlHead} (m : HelloMsg) (hg : gangOf h.link s = some (gi, g))
    (ht : (link? h.link s).lstate = .training) (hm : g.members = [h.link]) (hs : g.spares = []) :
    execHello h m s = .next (spareCheck s (trainLink gi g h.link
      (modLink h.link (fun l => { l with pserial := m.serial, plink := m.link % 256 }) s))) := by
  simp [execHello, hg, ht, hm, hs]

/-! ## Loss, retry and recalibration (R201, R211, R212) -/

theorem execLossOfSignal_of_trained (h : (link? link s).lstate = .active ∨ (link? link s).lstate = .spare) :
    execLossOfSignal link s = done (failLink link s) := by
  rcases h with h | h <;> simp only [execLossOfSignal, h]

theorem execFailedLinkRetry_of_failed (hf : (link? link s).lstate = .failed) (hg : (link? link s).gang.isSome = true)
    (hd : (link? link s).recalDue = false) : execFailedLinkRetry link s = .next (recalIdle link s) :=
  if_pos ⟨hf, hg, by rw [hd]; rfl⟩

theorem execPeriodicRecal_of_member (hg : gangOf link s = some (gi, g)) (hm : link ∈ g.members)
    (ha : (link? link s).lstate = .active) : execPeriodicRecal link s = done (recalMember link false s) := by
  refine if_pos ?_
  simp [hg, hm, linkUp_iff.mpr ha]

/-! ## The end of a recalibration (R212) -/

/-- A link as its recalibration leaves it: a spare whose SEQ space starts anew. -/
def recalibrated (now : Nat) (l : Link) : Link :=
  { l with lstate := .spare, trainedAt := now, seqTx := 0, seqRx := 0, replay := [], nak := false, owed := [], backTo := none }

/-- A recalibration that no command waits for comes to what its gang does with the link: at the position it left, where it has
one, or among the spares. -/
theorem execRecalDone_of_recal (hrecal : (link? link s).lstate = .recal) (hmb : (link? link s).recalMb = none)
    (hg : gangOf link s = some (gi, g)) : execRecalDone link true s =
    let t := modLink link (recalibrated s.chip.lcount) s
    match (link? link s).backTo with
    | some pos =>
      if g.gstate = .up ∧ g.members.length < 8 then done (recalWaiting gi (rejoin gi link pos g t))
      else done (recalWaiting gi (execRecalDone.addSpare gi link t))
    | none => done (recalWaiting gi (execRecalDone.addSpare gi link t)) := by
  have hgang : gangOf link (modLink link (recalibrated s.chip.lcount) s) = some (gi, g) := (gangOf_modLink rfl).trans hg
  have hend : endRecal link (modLink link (recalibrated s.chip.lcount) s) = modLink link (recalibrated s.chip.lcount) s :=
    endRecal_of_no_command (by simp [recalibrated, hmb])
  unfold recalibrated at hgang hend ⊢
  simp only [execRecalDone, hrecal, hend, hgang, ne_eq, not_true_eq_false, Bool.not_true, Bool.false_eq_true, if_false]
  cases (link? link s).backTo <;> rfl

/-- Settles O14: each event meets the link's state in which it takes effect; HELLO trains the one link of its gang, and a link
whose recalibration ends goes among the spares, or back to its position with the number after those of the others (log 57). -/
theorem linkTrainingComplete : Obligations.LinkTrainingComplete := by
  unfold Obligations.LinkTrainingComplete
  refine ⟨?signal, ?resend, ?hello, ?timeout, ?loss, ?retry, ?periodic, ?spare, ?back⟩
  case signal => exact fun link s hdown hgang htrip => if_pos ⟨hdown, hgang, htrip⟩
  case resend => exact fun link s ht => if_pos ht
  case hello =>
    intro h gi g m s hg ht hhead hspares htail
    have hmembers : g.members = [h.link] := by
      rw [List.head?_eq_some_iff] at hhead
      obtain ⟨rest, e⟩ := hhead
      rw [e, List.tail_cons] at htail
      rw [e, htail]
    exact execHello_of_alone m hg ht hmembers hspares
  case timeout => exact fun link s ht => if_pos ht
  case loss => exact fun link s h => execLossOfSignal_of_trained h
  case retry => exact fun link s hf hg hd => execFailedLinkRetry_of_failed hf hg hd
  case periodic => exact fun link gi g s hg hm ha => execPeriodicRecal_of_member hg hm ha
  case spare =>
    intro link gi g s hrecal hmb hg hback
    refine (execRecalDone_of_recal hrecal hmb hg).trans ?_
    rw [hback]
    rfl
  case back =>
    intro link gi pos g s hrecal hmb hg hback hup hroom
    refine (execRecalDone_of_recal hrecal hmb hg).trans ?_
    simp only [hback]
    exact if_pos ⟨hup, hroom⟩

end Sys2Proof.Machine
end

section
/-! Frames on a link (O15): CRC, acknowledgement, credit and retry. -/

namespace Sys2Proof.Machine

open Sys2Proof

variable {link gi : Nat} {f : JlFrame} {s : State}

section
variable (hactive : (link? link s).lstate = .active)
include hactive

/-- A frame whose CRC fails is answered with NAK and counted, whatever its type (R205, R206). -/
theorem rxFrame_of_bad (type : Nat) (hbad : frameOk f = false) : rxFrame type link f s = crcFail link (sendNak link s) := by
  simp [rxFrame, linkUp_iff.mpr hactive, hbad]

/-- A frame that checks gives its ACK and credit, then its content, and the link's gang sends what they let go (R203, R205). -/
theorem rxFrame_of_ok {type : Nat} {t : State} (hok : frameOk f = true)
    (ht : (if f.type = type ∧ type = 1 then dataFrame link f (takeAck link f.ack f.credVc f.cred s)
      else takeAck link f.ack f.credVc f.cred s) = t) (hgang : (link? link t).gang = some gi) :
    rxFrame type link f s = pumpGang gi t := by
  simp only [rxFrame, linkUp_iff.mpr hactive, hok, ht, hgang, Bool.not_true, Bool.false_and, Bool.false_eq_true, if_false]

theorem execJlNak_of_active {h : CtlHead} (hlink : h.link = link) (seq : Nat) : execJlNak h seq s =
    done (replayFrom h.link ((link? h.link (takeHead h s)).replay.dropWhile (fun u => u.fr.seq != seq)) (takeHead h s)) := by
  subst hlink
  simp [execJlNak, linkUp_iff.mpr hactive]

theorem execReplayTimer_of_active : execReplayTimer link s = done (replayFrom link (link? link s).replay s) := by
  simp [execReplayTimer, linkUp_iff.mpr hactive]

end

/-- The frame that a link expects is taken, and enters the stream of its gang (R205, R211). -/
theorem dataFrame_of_expected (hseq : f.seq = (link? link s).seqRx) (hgang : (link? link s).gang = some gi) :
    dataFrame link f s = gangFrame gi link f (modLink link (fun l => { l with seqRx := (l.seqRx + 1) % 4096, nak := false }) s) := by
  simp [dataFrame, hseq, hgang]

/-- Settles O15: what an ACTIVE link does with a frame follows its CRC, then its type; a frame in order goes to the gang. -/
theorem linkFramesComplete : Obligations.LinkFramesComplete := by
  unfold Obligations.LinkFramesComplete
  refine ⟨?bad, ?data, ?idle, ?expected, ?nak, ?timer, ?nakAgain⟩
  case bad =>
    exact fun link f s ha hbad => ⟨congrArg done (rxFrame_of_bad ha 1 hbad), congrArg done (rxFrame_of_bad ha 0 hbad)⟩
  case data => exact fun link gi f s ha hok htype hgang => congrArg done (rxFrame_of_ok ha hok (if_pos ⟨htype, rfl⟩) hgang)
  case idle => exact fun link gi f s ha hok _ hgang => congrArg done (rxFrame_of_ok ha hok (if_neg (by simp)) hgang)
  case expected => exact fun link gi f s hseq hgang => dataFrame_of_expected hseq hgang
  case nak => exact fun h seq s ha => execJlNak_of_active ha rfl seq
  case timer => exact fun link s ha => execReplayTimer_of_active ha
  case nakAgain => exact fun link s hnak => if_pos hnak

end Sys2Proof.Machine
end

section
/-! Re-forms of gangs and the responses of accelerators (O16). -/

namespace Sys2Proof.Machine

open Sys2Proof

variable {gang tag : Nat} {g : Gang} {m : JMsg} {k : JTag} {s : State}

/-! ## Re-forms (R211) -/

theorem execReformAck_of_restart {h : CtlHead} {restart : Nat} (hg : gangOf h.link (takeHead h s) = some (gang, g))
    (hr : g.gstate = .reforming) (hrestart : restart % 65536 = g.restart % 65536) :
    execReformAck h restart s = done (recalWaiting gang (startDue gang (pumpGang gang (setGang gang { g with
      gstate := .up, reforms := 0, resend := g.kept ++ g.resend, kept := [], gposTx := g.restart } (takeHead h s))))) := by
  simp only [execReformAck, hg]
  exact if_pos ⟨hr, hrestart⟩

/-- REFORM goes out again up to 100 times; then the gang is DOWN. -/
theorem execReformResend_of_reforming (hg : gang? gang s = some g) (hr : g.gstate = .reforming) : execReformResend gang s =
    if 100 ≤ g.reforms then done (startDue gang (gangDown gang s))
    else .next (sendReform g (setGang gang { g with reforms := g.reforms + 1 } s)) := by
  simp only [execReformResend, hg, hr, ne_eq, not_true_eq_false, if_false, ge_iff_le]

/-- A REFORM that names the members as they stand moves no link: it is echoed. -/
theorem execReform_of_same {h : CtlHead} {m : ReformMsg} (hg : gangOf h.link (takeHead h s) = some (gang, g))
    (hup : g.gstate = .up) (horder : m.order ≠ []) (hsame : reformOrder g (takeHead h s) m.order [] = g.members)
    (hne : g.members ≠ []) : execReform h m s = done (spareCheck (takeHead h s) (startDue gang (pumpGang gang
      (sendCtl (g.members.headD 0) (reformAckBytes m.restart) (setGang gang g (takeHead h s)))))) := by
  have hgone : g.members.filter (fun n => !g.members.contains n && linkUp n (takeHead h s)) = [] :=
    List.filter_eq_nil_iff.mpr fun n hn => by simp [hn]
  have hcame : g.members.filter (fun n => !g.members.contains n) = [] := List.filter_eq_nil_iff.mpr fun n hn => by simp [hn]
  have htaken : ¬ (g.gstate = .down ∨ m.order.isEmpty = true) := by simp [hup, horder]
  have hspares : g.spares.filter (fun n => !([] : List Nat).contains n) = g.spares := List.filter_eq_self.mpr fun _ _ => rfl
  simp only [execReform, hg, htaken, hsame, hgone, hcame, hspares, List.isEmpty_eq_false_iff.mpr hne, List.foldl_nil,
    bne_self_eq_false, Bool.and_false, Bool.false_eq_true, if_false]

/-! ## Responses (R208, R209) -/

theorem takeInbox_of_found {op : Nat} (hg : gang? gang s = some g) (hm : g.inbox.find? (fun m => m.op == op) = some m) :
    takeInbox gang op s = some (m, setGang gang { g with inbox := g.inbox.erase m } s) := by
  simp only [takeInbox, hg, hm]

/-- A tag whose operation has not ended answers a response of its kind. -/
theorem liveTag_of_outstanding {write : Bool} (hg : gang? gang s = some g) (hk : tget g.tags tag = some k)
    (hw : k.write = write) (he : k.ended = false) : liveTag gang tag write s = some k := by
  simp [liveTag, hg, hk, hw, he]

theorem execVisAck_of_outstanding (hg : gang? gang s = some g) (hm : g.inbox.find? (fun m => m.op == 4) = some m)
    (hk : tget g.tags m.tag = some k) (hw : k.write = true) (he : k.ended = false) (hok : bitOf 1 m.flags = false) :
    execVisAck gang s = done (pieceDone gang m.tag k.xfer (setGang gang { g with inbox := g.inbox.erase m } s)) := by
  have hlive : liveTag gang m.tag true (setGang gang { g with inbox := g.inbox.erase m } s) = some k :=
    liveTag_of_outstanding gang?_setGang_same hk hw he
  simp only [execVisAck, takeInbox_of_found hg hm, hlive, hok, Bool.false_eq_true, if_false]

/-- The last data of a READ lands and ends its piece. -/
theorem execReadData_of_last (hg : gang? gang s = some g) (hm : g.inbox.find? (fun m => m.op == 3) = some m)
    (hk : tget g.tags m.tag = some k) (hw : k.write = false) (he : k.ended = false) (hok : bitOf 1 m.flags = false)
    (haddr : k.addr ≤ m.addr) (hlast : m.data.length = k.left) :
    execReadData gang s =
      done (pieceDone gang m.tag k.xfer (landRead gang m.tag k m (setGang gang { g with inbox := g.inbox.erase m } s))) := by
  have hlive : liveTag gang m.tag false (setGang gang { g with inbox := g.inbox.erase m } s) = some k :=
    liveTag_of_outstanding gang?_setGang_same hk hw he
  have hfits : ¬ (m.addr < k.addr ∨ k.left < k.left) := by omega
  simp only [execReadData, takeInbox_of_found hg hm, hlive, hok, hlast, gt_iff_lt, hfits, Bool.false_eq_true, if_false, if_true]

/-- A tag whose time passes ends its operation, with 0x0A for a write and 0x04 for a read. -/
theorem execVisTimeout_of_outstanding (hg : gang? gang s = some g) (hk : tget g.tags tag = some k) (he : k.ended = false) :
    execVisTimeout gang tag s =
      done (pumpWaiting (failJlPart k.xfer (tagKey gang tag) (if k.write then Config.ccVisTimeout else Config.ccRemoteOp)
        (modGang gang (fun g => { g with tags := tset g.tags tag { k with ended := true } }) s))) := by
  simp [execVisTimeout, hg, hk, he]

/-- Settles O16: a re-form's acknowledgement, repetition and echo meet the gang's state; each response meets the tag that is
outstanding, and a tag whose time passes ends its operation with 0x0A for a write and 0x04 for a read (R209). -/
theorem gangTrafficComplete : Obligations.GangTrafficComplete := by
  unfold Obligations.GangTrafficComplete
  refine ⟨?ack, ?resend, ?reform, ?visAck, ?readData, ?timeout⟩
  case ack => exact fun h gang restart g s hg hr hrestart => execReformAck_of_restart hg hr hrestart
  case resend =>
    intro gang g s hg hr
    have hexec := execReformResend_of_reforming hg hr
    exact ⟨fun hfew => hexec.trans (if_neg (Nat.not_le.mpr hfew)), fun hmany => hexec.trans (if_pos hmany)⟩
  case reform => exact fun h gang m g s hg hup horder hsame hne => execReform_of_same hg hup horder hsame hne
  case visAck => exact fun gang g m k s hg hm hk hw he hok => execVisAck_of_outstanding hg hm hk hw he hok
  case readData =>
    exact fun gang g m k s hg hm hk hw he hok haddr hlast => execReadData_of_last hg hm hk hw he hok haddr hlast
  case timeout => exact fun gang tag g k s hg hk he => execVisTimeout_of_outstanding hg hk he

end Sys2Proof.Machine
end

section
/-! Gang and link opcodes (O17). -/

namespace Sys2Proof.Machine

open Sys2Proof

variable {gi : Nat} {members spares : List Nat} {kind : GangKind} {s t : State}

/-! ## SET_GANG (R210) -/

/-- What links a gang's definition joins, and how, is read from the links alone. -/
theorem foldl_joinLink_jl (h : t.jl = s.jl) (ns : List Nat) :
    (ns.foldl (joinLink gi members) t).jl = (ns.foldl (joinLink gi members) s).jl := by
  induction ns generalizing s t with
  | nil => exact h
  | cons n ns ih =>
    refine ih ?_
    simp [joinLink, link?, h]

/-- A gang forms while one of its members is not ACTIVE. -/
theorem not_all_linkUp {n : Nat} (hn : n ∈ members) (ha : (link? n s).lstate ≠ .active) :
    members.all (fun n => linkUp n s) = false := by
  rw [List.all_eq_false]
  exact ⟨n, hn, fun hup => ha (linkUp_iff.mp hup)⟩

/-! ## Readbacks (R223) -/

/-- The rows of READ_ROUTES. -/
def routeRows (s : State) : List (List Nat) :=
  (List.range 131072).filterMap (fun i =>
    if routeEntry (i / 65536) (i % 65536) s = 0 then none
    else some [i / 65536, i % 65536, routeEntry (i / 65536) (i % 65536) s])

/-- Each row of READ_ROUTES is a die, an address and its entry. -/
theorem routeRows_length : (routeRows s).all (fun e => e.length == 3) = true := by
  rw [List.all_eq_true]
  intro e he
  obtain ⟨i, -, hi⟩ := List.mem_filterMap.mp he
  split at hi
  · cases hi
  · cases hi; rfl

/-- Settles O17: each opcode's checks pass and its effect is left; a gang that nothing defined before starts a new stream; the
readbacks answer from their rows. RECAL_LINK runs on until its recalibration ends (log 58). -/
theorem gangCommandsComplete : Obligations.GangCommandsComplete := by
  unfold Obligations.GangCommandsComplete
  refine ⟨?setGang, ?grant, ?withdraw, ?timeout, ?recal, ?route, ?thresh, ?links, ?gangs, ?routes⟩
  case setGang =>
    intro c gi kind members spares r s h hok hnew hlinks hforms
    obtain ⟨n, hn, ha⟩ := hforms
    have hforming : members.all (fun n => linkUp n ((members ++ spares).foldl (joinLink gi members) (begun c 0x3010 s))) = false := by
      refine not_all_linkUp hn ?_
      rwa [link?, foldl_joinLink_jl jl_begun]
    refine congrArg Host.Outcome.next (serve_ok h ?_)
    simp only [gang?_begun, gangListsOk_begun, linksOf_begun, hok, hnew, hlinks, hforming, Option.any_none, List.filter_nil,
      List.foldl_nil, Bool.not_true, Bool.and_false, Bool.false_eq_true, and_false, if_false]
    rfl
  case grant =>
    intro c gi g r s h hg hkind hgrant hwithdraw
    refine congrArg Host.Outcome.next (serve_ok h ?_)
    simp [hg, hkind, hgrant, hwithdraw]
  case withdraw =>
    intro c gi g r s h hg hgrant
    refine congrArg done (serve_later h ?_)
    simp [hg, hgrant]
  case timeout =>
    intro c gi us g r s h hg hlow hhigh
    refine congrArg Host.Outcome.next (serve_ok h ?_)
    simp [hg, Nat.not_lt.mpr hlow, Nat.not_lt.mpr hhigh]
  case recal =>
    intro c link gi g r s h hlink hg ha hdue
    refine congrArg done (serve_later h ?_)
    simp [Nat.not_lt.mpr hlink, hg, ha, hdue]
  case route =>
    intro c die es r s h hdie hes
    refine congrArg Host.Outcome.next (serve_ok h (if_neg ?_))
    simpa [Nat.not_lt.mpr hdie] using hes
  case thresh =>
    exact fun c crc hours r s h hc hc' hh hh' => congrArg done (serve_ok h (if_neg (by omega)))
  case links => exact fun c cursor r s h hc => ⟨_, congrArg _ (serveRead_of_serves h hc _), by simp⟩
  case gangs =>
    intro c cursor r s h hc
    refine ⟨_, congrArg _ (serveRead_of_serves h hc _), ?_⟩
    rw [List.length_map, ← List.countP_eq_length_filter]
    rfl
  case routes =>
    exact fun c cursor r s h hc => ⟨routeRows s, congrArg _ (serveRead_of_serves h hc _), routeRows_length⟩

end Sys2Proof.Machine
end

section
/-! The roll call (O18): runs, TOKENs and their answers, RESULT, and a message for this device. -/

namespace Sys2Proof.Machine

open Sys2Proof

variable {gang : Nat} {m : RcMsg} {s t : State}

/-! ## TOKEN (R220) -/

theorem execTokenMsg_of_taken (h : takeRc gang 1 s = some (m, t)) : execTokenMsg gang s = done (onToken gang m t) := by
  simp only [execTokenMsg, h]

/-- A TOKEN of the head's own run that comes back with a number not below the next one closes the ring. -/
theorem onToken_of_own (hhead : isHead t = true) (hown : m.head = t.chip.serial) (hnext : t.jl.rc.next ≤ m.next) :
    onToken gang m t = setRole gang .ringClose (sendRc gang 0 { rcMsg 3 t with ring := true } t) := by
  simp [onToken, hhead, hown, hnext]

/-- A TOKEN of a new run gives a device that is not the head, and not in a run, its address. -/
theorem onToken_of_new (hhead : isHead t = false) (hidle : t.jl.rc.rcstate ≠ 1) (hround : m.round ≠ t.jl.rc.round) :
    onToken gang m t = takeToken gang m t := by
  simp [onToken, hhead, hidle, hround]

/-! ## Answers to a TOKEN, and RESULT (R220, R221) -/

theorem execHoldMsg_of_waiting (h : takeRc gang 5 s = some (m, t)) (hw : t.jl.rc.waiting = some gang) :
    execHoldMsg gang s = .next (modRc (fun c => { c with waitHold := true }) t) := by
  simp only [execHoldMsg, h, hw, if_true]

theorem execHoldResend_of_numbering {p : Nat} (hp : s.jl.rc.parent = some p) (hrun : s.jl.rc.rcstate = 1)
    (hw : s.jl.rc.waiting.isSome = true) : execHoldResend s = .next (sendRc p 0 (rcMsg 5 s) s) := by
  simp only [execHoldResend, hp]
  exact if_pos ⟨hrun, hw⟩

theorem execReturnMsg_of_waiting (h : takeRc gang 2 s = some (m, t)) (hw : t.jl.rc.waiting = some gang) :
    execReturnMsg gang s = done (goOn (modRc (fun c => { c with
      next := m.next, conflict := c.conflict || m.conflict, beyond := c.beyond || m.short })
      (setRole gang (.subtree t.jl.rc.next (m.next - 1)) t))) := by
  simp only [execReturnMsg, h]
  exact if_neg (not_not_intro hw)

/-- LOOP answers a TOKEN that no HOLD has answered. -/
theorem execLoopMsg_of_waiting (h : takeRc gang 3 s = some (m, t)) (hw : t.jl.rc.waiting = some gang)
    (hhold : t.jl.rc.waitHold = false) :
    execLoopMsg gang s = done (goOn (modRc (fun c => { c with conflict := c.conflict || m.conflict })
      (setRole gang (if m.ring then .ringClose else .cross) t))) := by
  simp only [execLoopMsg, h]
  exact if_neg (by simp [hw, hhold])

theorem execResultMsg_of_parent (h : takeRc gang 4 s = some (m, t)) (hrun : t.jl.rc.rcstate = 1)
    (hp : t.jl.rc.parent = some gang) : execResultMsg gang s = done (applyResult m (relayResult m t)) := by
  simp only [execResultMsg, h]
  exact if_pos ⟨hrun, hp⟩

/-! ## Forwarding (R215) -/

/-- A message for this device's own address is consumed, while forwarding is on. -/
theorem forwardMsg_of_own {g : Gang} {m : JMsg} (hdst : m.dst = s.jl.rc.addr) (h0 : m.dst ≠ 0) (hon : s.jl.rc.fwdOn = true) :
    forwardMsg gang g m s = consumeFwd (gangDie g) m s := by
  rw [forwardMsg, if_neg (by simp [h0, hon]), if_pos hdst]

theorem execFwd_of_found {g : Gang} {m : JMsg} (hg : gang? gang s = some g)
    (hm : g.inbox.find? (fun m => m.op == 5) = some m) :
    execFwd gang s = done (forwardMsg gang g m (setGang gang { g with inbox := g.inbox.erase m } s)) := by
  simp only [execFwd, takeInbox_of_found hg hm, hg]

/-- Settles O18: the opcodes pass their checks; a TOKEN meets the head or a device outside a run; each answer meets the gang it
is awaited on, RESULT the parent, and a message for this device's address is consumed. -/
theorem rollCallComplete : Obligations.RollCallComplete := by
  unfold Obligations.RollCallComplete
  refine ⟨?run, ?setRollcall, ?setRedundancy, ?readRollcall, ?closes, ?takes, ?hold, ?holdResend, ?answered, ?loop, ?unanswered,
    ?result, ?fwd⟩
  case run =>
    intro c r s h hhead hidle
    refine congrArg Host.Outcome.next (serve_later h ?_)
    simp [hhead, hidle]
  case setRollcall => exact fun c ns r s h => congrArg Host.Outcome.next (serve_ok h rfl)
  case setRedundancy =>
    intro c level r s h hmax hmin
    exact congrArg Host.Outcome.next (serve_ok h (if_neg (not_or.mpr ⟨Nat.not_lt.mpr hmax, Nat.not_lt.mpr hmin⟩)))
  case readRollcall => exact fun c cursor r s h hc => ⟨_, congrArg _ (serveRead_of_serves h hc _), rfl⟩
  case closes =>
    exact fun g m s t h hhead hown hnext => (execTokenMsg_of_taken h).trans (congrArg done (onToken_of_own hhead hown hnext))
  case takes =>
    exact fun g m s t h hhead hidle hround => (execTokenMsg_of_taken h).trans (congrArg done (onToken_of_new hhead hidle hround))
  case hold => exact fun g m s t h hw => execHoldMsg_of_waiting h hw
  case holdResend => exact fun p s hp hrun hw => execHoldResend_of_numbering hp hrun hw
  case answered => exact fun g m s t h hw => execReturnMsg_of_waiting h hw
  case loop => exact fun g m s t h hw hhold => execLoopMsg_of_waiting h hw hhold
  case unanswered => exact fun g s hw => if_pos hw
  case result => exact fun g m s t h hrun hp => execResultMsg_of_parent h hrun hp
  case fwd =>
    exact fun gi g m s hg hm hdst h0 hon => (execFwd_of_found hg hm).trans (congrArg done (forwardMsg_of_own hdst h0 hon))

end Sys2Proof.Machine
end

section
/-! Hall-pass keys (O59): the generation of an index, the key issued for it, and the order of a pool. -/

namespace Sys2Proof.Machine

open Sys2Proof

variable {part i key : Nat} {p : Pass} {s t : State}

/-! ## Generations (R250) -/

theorem passGen_of_unissued (h : pass? i s = none) : passGen i s = 1 := by
  simp only [passGen, h]

theorem passGen_of_issued (h : pass? i s = some p) : passGen i s = if 255 ≤ p.gen then 1 else p.gen + 1 := by
  simp only [passGen, h, ge_iff_le]

/-- GEN skips 0 and fits its byte. -/
theorem passGen_range (i : Nat) (s : State) : 1 ≤ passGen i s ∧ passGen i s ≤ 255 := by
  cases h : pass? i s with
  | none => simp [passGen_of_unissued h]
  | some p => rw [passGen_of_issued h]; split <;> omega

/-! ## Issuing and checking (R250, R253) -/

/-- A pass is issued under the next index of its partition's pool, with that index's next generation. -/
theorem issuePass_key {rights bind base len tally : Nat} (h : issuePass part rights bind base len tally s = some (key, t)) :
    ∃ i u, nextIndex part s = some (i, u) ∧ key = i * 256 + passGen i u := by
  rw [issuePass] at h
  split at h
  next => cases h
  next i u hnext => cases h; exact ⟨i, u, hnext, rfl⟩

theorem passCheck_of_gen_zero {qpn op addr len : Nat} (h : key % 256 = 0) : passCheck qpn part key op addr len s = none := by
  rw [passCheck]
  split
  next => rfl
  next => rw [if_neg]; rintro ⟨-, hgen, -⟩; exact hgen h

/-! ## The order of a pool (R250) -/

/-- A pool that holds its grant, not all of it in use, issues the index at the head of its freed ones. -/
theorem nextIndex_of_full {rest : List Nat} (hroom : passesOf part s < ((part? part s).map Part.passes).getD 0)
    (hfull : s.qe.passes.countP (fun e => e.2.part == part) = ((part? part s).map Part.passes).getD 0)
    (hfreed : tgetD s.qe.freed part [] = i :: rest) :
    nextIndex part s = some (i, modQe (fun q => { q with freed := tset q.freed part rest }) s) := by
  rw [nextIndex, if_neg (Nat.not_le.mpr hroom), if_neg (by rw [hfull]; exact Nat.lt_irrefl _), hfreed]

/-- A freed index goes to the end of its partition's pool. -/
theorem freePass_freed (h : pass? i s = some p) :
    (freePass i s).qe.freed = tset s.qe.freed p.part (tgetD s.qe.freed p.part [] ++ [i]) := by
  rw [freePass, h]
  rfl

/-- Settles O59: a key is its index above the index's next generation, which lies between 1 and 255; a full pool issues its longest
freed index, and a freed one is appended to it. -/
theorem hallPassKeys : Obligations.HallPassKeys := by
  unfold Obligations.HallPassKeys
  refine ⟨?issued, ?advances, ?zero, ?oldest, ?appended⟩
  case issued =>
    intro part rights bind base len tally key s t h
    obtain ⟨i, u, hnext, hkey⟩ := issuePass_key h
    have hgen := passGen_range i u
    exact ⟨i, u, hnext, by omega, by omega, hgen⟩
  case advances =>
    intro i p s h
    rw [passGen_of_issued h]
    exact ⟨fun hlt => if_neg (Nat.not_le.mpr hlt), fun heq => if_pos (Nat.le_of_eq heq.symm)⟩
  case zero => exact fun qpn part key op addr len s h => passCheck_of_gen_zero h
  case oldest => exact fun part i rest s hroom hfull hfreed => nextIndex_of_full hroom hfull hfreed
  case appended =>
    intro i p s h
    rw [freePass_freed h, tgetD_tset_same]

end Sys2Proof.Machine
end

section
/-! The queue engine's objects as commands and doorbells find them (O3, O19, O20, O22). -/

namespace Sys2Proof.Machine

open Sys2Proof

variable {c : Call} {op n part cursor : Nat} {r : Req} {q : Qp} {s : State}

/-! ## What the checks read is the same in the state in which the work starts -/

@[simp] theorem qe_begun : (begun c op s).qe = s.qe := rfl

@[simp] theorem qp?_begun : qp? n (begun c op s) = qp? n s := rfl

@[simp] theorem cq?_begun : cq? n (begun c op s) = cq? n s := rfl

@[simp] theorem pass?_begun : pass? n (begun c op s) = pass? n s := rfl

@[simp] theorem part?_begun : part? part (begun c op s) = part? part s := rfl

@[simp] theorem tallyOk_begun : tallyOk part n (begun c op s) = tallyOk part n s := rfl

@[simp] theorem tallyGet_begun : tallyGet part n (begun c op s) = tallyGet part n s := rfl

@[simp] theorem cqsOf_begun : cqsOf part (begun c op s) = cqsOf part s := rfl

@[simp] theorem cqUsed_begun (k : Cq) : cqUsed n k (begun c op s) = cqUsed n k s := rfl

@[simp] theorem passOk_begun (p : PassSet) : passOk part p (begun c op s) = passOk part p s := rfl

/-! ## Naming (R230) -/

theorem qpNamed_of_owner (hq : qp? n s = some q) (hc : c.func = 0 ∨ q.part = part) : qpNamed c n part s = .ok q := by
  simp only [qpNamed, hq]
  exact if_neg (by rintro ⟨hf, hp⟩; exact hc.elim hf hp)

theorem cqNamed_of_owner {k : Cq} (hk : cq? n s = some k) (hc : c.func = 0 ∨ k.part = part) : cqNamed c n part s = .ok k := by
  simp only [cqNamed, hk]
  exact if_neg (by rintro ⟨hf, hp⟩; exact hc.elim hf hp)

@[simp] theorem qpNamed_begun (d : Call) : qpNamed d n part (begun c op s) = qpNamed d n part s := rfl

@[simp] theorem cqNamed_begun (d : Call) : cqNamed d n part (begun c op s) = cqNamed d n part s := rfl

/-! ## Readbacks (R458) -/

/-- Rows that each begin with the key of their object list the table's keys. -/
theorem map_headD_rows {α : Type} (tab : Tab α) (row : Nat × α → List Nat) (h : ∀ e, (row e).headD 0 = e.1) :
    (tab.map row).map (fun e => e.headD 0) = tkeys tab := by
  rw [List.map_map, tkeys]
  exact List.map_congr_left fun e _ => h e

theorem pageRead_of_cursorOk (hc : CursorOk c op cursor r s) (rows : List (List Nat)) :
    pageRead c r op cursor rows (begun c op s) = page c op cursor rows (begun c op s) := by
  obtain ⟨-, hlen⟩ := hc
  exact if_neg (by omega)

/-- An opcode whose work comes to a piece of some rows answers that piece. -/
theorem serve_page {k : Req → State → Ans} {rows : List (List Nat)} (h : Serves c op r s) (hc : CursorOk c op cursor r s)
    (hk : k r (begun c op s) = page c op cursor rows (begun c op s)) : serve c op k s = paged c op cursor rows s := by
  rw [← serveRead_of_serves h hc (fun _ _ => rows), serveRead, serve_of_serves h, serve_of_serves h, hk, pageRead_of_cursorOk hc]

end Sys2Proof.Machine
end

section
/-! Doorbells and sleeping read loops (O3). -/

namespace Sys2Proof.Machine

open Sys2Proof

variable {f lane idx n k : Nat} {q : Qp} {s t : State}

/-! ## Fields of a doorbell's value (R242) -/

/-- Queue number, ARM bit and INDEX stand apart in a doorbell's value, and nothing stands between them. -/
theorem bell_value {arm : Nat} (hn : n < 2 ^ 20) (harm : arm < 2) :
    let v := idx * 2 ^ 32 + (n + arm * 2 ^ 31)
    v % 2 ^ 20 = n ∧ v / 2 ^ 32 = idx ∧ bitsOf 30 20 v = 0 ∧ bitOf 31 v = (arm == 1) := by
  have h20 : (idx * 2 ^ 32 + (n + arm * 2 ^ 31)) / 2 ^ 20 % 2 ^ (30 + 1 - 20) = 0 := by omega
  have h31 : (idx * 2 ^ 32 + (n + arm * 2 ^ 31)) / 2 ^ 31 % 2 = arm := by omega
  exact ⟨by omega, by omega, h20, by rw [bitOf, h31]⟩

/-! ## Doorbells that R243 does not drop -/

theorem doorbell_sq_of_value (hn : n < 2 ^ 20) (hq : qp? n s = some q) (hp : q.part = funcPart f s)
    (hd : diff32 idx q.sqComp ≤ 2 ^ q.sqLog) : doorbell f 0 (idx * 2 ^ 32 + n) s = .ok (sqBell n idx q s) := by
  obtain ⟨hnum, hidx, hzero, hbit⟩ := bell_value (idx := idx) (arm := 0) hn (by omega)
  have hbell := doorbell_sq hzero hbit (by rw [hnum, hq]) hp (by rw [hidx]; exact hd)
  rwa [hnum, hidx] at hbell

theorem doorbell_rq_of_value (hn : n < 2 ^ 20) (hq : qp? n s = some q) (hp : q.part = funcPart f s)
    (hd : diff32 idx q.rqCi ≤ 2 ^ q.rqLog) : doorbell f 1 (idx * 2 ^ 32 + n) s = .ok (rqBell n idx q s) := by
  obtain ⟨hnum, hidx, hzero, hbit⟩ := bell_value (idx := idx) (arm := 0) hn (by omega)
  have hbell := doorbell_rq hzero hbit (by rw [hnum, hq]) hp (by rw [hidx]; exact hd)
  rwa [hnum, hidx] at hbell

/-- CQ_DB reaches its CQ with its ARM bit (R249). -/
theorem doorbell_cq_of_value {arm : Nat} {q : Cq} (hn : n < 2 ^ 20) (harm : arm < 2) (hq : cq? n s = some q)
    (hp : q.part = funcPart f s) (ht : idx = q.tail ∨ before32 idx q.tail = true) :
    doorbell f 2 (idx * 2 ^ 32 + (n + arm * 2 ^ 31)) s = .ok (cqBell n idx (arm == 1) q s) := by
  obtain ⟨hnum, hidx, hzero, hbit⟩ := bell_value (idx := idx) hn harm
  rw [doorbell_cq hzero (by rw [hnum, hq]) hp (by rw [hidx]; exact ht), hnum, hidx, hbit]

/-! ## Hints ahead of the earlier ones (R244, R245) -/

theorem sqBell_of_ahead (hq : q.qstate ≠ .reset) (hi : idx < 2 ^ 32) (ha : aheadOf idx q.sqDb = true) :
    sqBell n idx q s =
      sqKick n (modQp n (fun q => { q with sqDb := idx, sqStat := 0 }) (bump (bkQueue q.part) 0 1 s)) := by
  simp only [sqBell, hq, ha, Nat.mod_eq_of_lt hi, Bool.not_true, Bool.false_eq_true, if_false]

theorem rqBell_of_ahead (hq : q.qstate ≠ .reset) (hi : idx < 2 ^ 32) (ha : aheadOf idx q.rqDb = true) :
    rqBell n idx q s =
      rqKick n (modQp n (fun q => { q with rqDb := idx, rqStat := 0 }) (bump (bkQueue q.part) 0 1 s)) := by
  simp only [rqBell, hq, ha, Nat.mod_eq_of_lt hi, Bool.not_true, Bool.false_eq_true, if_false]

/-- A CQ after a CQ_DB whose INDEX is ahead: its entries are released, and with ARM it is armed at INDEX (R249). -/
def rungCq (n idx : Nat) (arm : Bool) (q : Cq) (s : State) : State :=
  modCq n (fun c => { c with
    released := idx, arm := if arm then some idx else c.arm, timing := if arm then false else c.timing }) (bump (bkQueue q.part) 0 1 s)

/-- CQ_DB of a CQ that holds no completion: an armed one fires at once where completions are beyond INDEX already. -/
theorem cqBell_of_ahead {arm : Bool} {q : Cq} (hi : idx < 2 ^ 32) (ha : aheadOf idx q.released = true) (hheld : q.held = []) :
    cqBell n idx arm q s = drainCq n 1
      (if arm && (cq? n (rungCq n idx arm q s)).any (fun c => decide (cqBeyond c > 0)) then cqFire n (rungCq n idx arm q s)
       else rungCq n idx arm q s) := by
  simp only [cqBell, ha, hheld, Nat.mod_eq_of_lt hi, Bool.true_or, if_true, List.length_nil, List.isEmpty_nil]
  rfl

/-! ## The doorbells' instructions (R242) -/

/-- A doorbell's write in a lane does what its doorbell does, where R243 does not drop it. -/
theorem regWrite_bell_ok (h : MayRing f s) (hl : lane < 16) (hk : k = 0 ∨ k = 8 ∨ k = 16) (hn : n < 2 ^ 32) (hi : idx < 2 ^ 32)
    (hd : doorbell f (k / 8) (idx * 2 ^ 32 + n) s = .ok t) : regWrite (bellAccess (bell f lane idx n) k) s = t := by
  rw [regWrite_bell h hl hk hn hi, hd]

theorem exec_sqDb_of_ok (h : MayRing f s) (hl : lane < 16) (hn : n < 2 ^ 32) (hi : idx < 2 ^ 32)
    (hd : doorbell f 0 (idx * 2 ^ 32 + n) s = .ok t) : exec (.sqDb (bell f lane idx n)) s = .next (settle t) :=
  congrArg done ((if_pos hl).trans (regWrite_bell_ok h hl (.inl rfl) hn hi hd))

theorem exec_rqDb_of_ok (h : MayRing f s) (hl : lane < 16) (hn : n < 2 ^ 32) (hi : idx < 2 ^ 32)
    (hd : doorbell f 1 (idx * 2 ^ 32 + n) s = .ok t) : exec (.rqDb (bell f lane idx n)) s = .next (settle t) :=
  congrArg done ((if_pos hl).trans (regWrite_bell_ok h hl (.inr (.inl rfl)) hn hi hd))

theorem bell_toNat (hn : n < 2 ^ 32) (hi : idx < 2 ^ 32) : (bell f lane idx n).value.toNat = idx * 2 ^ 32 + n := by
  simp only [bell, BitVec.toNat_ofNat]
  omega

theorem exec_cqDb_of_ok (h : MayRing f s) (hl : lane < 16) (hn : n < 2 ^ 32) (hi : idx < 2 ^ 32)
    (harm : bitOf 31 (idx * 2 ^ 32 + n) = false) (hd : doorbell f 2 (idx * 2 ^ 32 + n) s = .ok t) :
    exec (.cqDb (bell f lane idx n)) s = .next (settle t) :=
  congrArg done ((if_pos ⟨hl, by rw [bell_toNat hn hi, harm]⟩).trans (regWrite_bell_ok h hl (.inr (.inr rfl)) hn hi hd))

theorem exec_cqArm_of_ok (h : MayRing f s) (hl : lane < 16) (hn : n < 2 ^ 32) (hi : idx < 2 ^ 32)
    (harm : bitOf 31 (idx * 2 ^ 32 + n) = true) (hd : doorbell f 2 (idx * 2 ^ 32 + n) s = .ok t) :
    exec (.cqArm (bell f lane idx n)) s = .next (settle t) :=
  congrArg done ((if_pos ⟨hl, by rw [bell_toNat hn hi, harm]⟩).trans (regWrite_bell_ok h hl (.inr (.inr rfl)) hn hi hd))

/-! ## Sleeping loops (R244) -/

theorem retrySq_of_sleeping (hq : qp? n s = some q) (hk : q.sqLoop = .sleeping k) :
    retrySq n s = sqTry n k (modQp n (fun q => { q with sqLoop := .idle }) s) := by
  simp only [retrySq, hq, Option.bind_some, hk, sleeps]

theorem retryRq_of_sleeping (hq : qp? n s = some q) (hk : q.rqLoop = .sleeping k) :
    retryRq n s = rqTry n k (modQp n (fun q => { q with rqLoop := .idle }) s) := by
  simp only [retryRq, hq, Option.bind_some, hk, sleeps]

/-- A slot whose phase is not valid leaves the entry untaken: the loop backs off. -/
theorem sqGot_of_not_ready {bs : List Byte} (h : phaseOk (bs.getD 63 0) q.sqCi q.sqLog = false) : sqGot n k q bs s = sqAhead n k s := by
  rw [sqGot, h]
  rfl

/-- The loop sleeps up to eight times; then the SQ records DOORBELL_AHEAD, which is counted. -/
theorem sqAhead_of_qp (hq : qp? n s = some q) : sqAhead n k s =
    if k < 8 then modQp n (fun q => { q with sqLoop := .sleeping (k + 1) }) s
    else bump (bkQueue q.part) 2 1
      (modQp n (fun q => { q with sqStat := Config.doorbellAhead }) (modQp n (fun q => { q with sqLoop := .idle }) s)) := by
  by_cases hk : k < 8 <;> simp [sqAhead, nextTry, hk, hq]

/-- Settles O3: a doorbell's value names its queue, its INDEX and ARM; a hint ahead is noted and the ring read on; a sleeping loop reads its
slot again, and one whose entry is not there sleeps on or gives up. -/
theorem doorbellsComplete : Obligations.DoorbellsComplete := by
  unfold Obligations.DoorbellsComplete
  refine ⟨?sq, ?rq, ?cq, ?arm, ?retrySq, ?retryRq, ?notReady⟩
  case sq =>
    intro f lane idx n q s h hl hn hi hq hp hs hd ha
    rw [← sqBell_of_ahead hs hi ha]
    exact exec_sqDb_of_ok h hl (by omega) hi (doorbell_sq_of_value hn hq hp hd)
  case rq =>
    intro f lane idx n q s h hl hn hi hq hp hs hd ha
    rw [← rqBell_of_ahead hs hi ha]
    exact exec_rqDb_of_ok h hl (by omega) hi (doorbell_rq_of_value hn hq hp hd)
  case cq =>
    intro f lane idx n q s h hl hn hi hq hp ht ha hheld
    obtain ⟨-, -, -, hbit⟩ := bell_value (idx := idx) (arm := 0) hn (by omega)
    have hbell := doorbell_cq_of_value (arm := 0) hn (by omega) hq hp ht
    rw [cqBell_of_ahead hi ha hheld] at hbell
    exact exec_cqDb_of_ok h hl (by omega) hi hbit hbell
  case arm =>
    intro f lane idx n q s h hl hn hi hq hp ht ha hheld
    obtain ⟨-, -, -, hbit⟩ := bell_value (idx := idx) (arm := 1) hn (by omega)
    have hbell := doorbell_cq_of_value (arm := 1) hn (by omega) hq hp ht
    rw [cqBell_of_ahead hi ha hheld] at hbell
    exact exec_cqArm_of_ok h hl (by omega) hi hbit hbell
  case retrySq => exact fun n k q s hq hk => congrArg done (retrySq_of_sleeping hq hk)
  case retryRq => exact fun n k q s hq hk => congrArg done (retryRq_of_sleeping hq hk)
  case notReady =>
    intro n k q bs s hq hphase
    rw [sqGot_of_not_ready hphase, sqAhead_of_qp hq]
    exact ⟨fun hfew => if_pos hfew, fun hmany => if_neg (Nat.not_lt.mpr hmany)⟩

end Sys2Proof.Machine
end

section
/-! Queue pairs (O19): creation, the transitions of Table 8-3, destruction, readback, a WAIT's release and grants. -/

namespace Sys2Proof.Machine

open Sys2Proof

variable {c : Call} {n : Nat} {q : Qp} {ctx : List Byte} {s : State}

/-! ## MODIFY_QP (R232, R233) -/

/-- MODIFY_QP of a queue pair that the caller may name is answered OK where its transition takes place. -/
theorem exec_modifyQp_of_ok {st : Byte} {r : Req} {t : State} (h : Serves c 0x4001 r s) (hq : qp? n s = some q)
    (hc : c.func = 0 ∨ q.part = r.part) (ht : modifyQp c n q (st :: ctx) (begun c 0x4001 s) = .ok t Body.empty) :
    exec (.modifyQp c n st ctx) s = .next (settle (okay c t)) := by
  refine congrArg done (serve_ok h ?_)
  simp only [qpNamed_begun, qpNamed_of_owner hq hc, ht]

theorem modifyQp_to_init (hstate : q.qstate = .reset) (hgoal : ctxAt ctx 0 1 = 1) (hsets : setsOnly initSpans ctx = true)
    (hok : initBad c n (setInit ctx q) s = none) :
    modifyQp c n q ctx s = .ok (modQp n (fun _ => enterInit (setInit ctx q)) (quietQp n s)) Body.empty := by
  simp [modifyQp, hstate, hgoal, QpState.ofCode, hsets, hok]

theorem modifyQp_to_rtr (hstate : q.qstate = .init) (hgoal : ctxAt ctx 0 1 = 2) (hsets : setsOnly (rtrSpans q.typ) ctx = true)
    (hok : rtrOk (setRtr ctx q) = true) :
    modifyQp c n q ctx s = .ok (modQp n (fun _ => enterRtr s.qe.cc (setRtr ctx q)) s) Body.empty := by
  simp [modifyQp, hstate, hgoal, QpState.ofCode, hsets, hok]

/-- The transitions that set no field but STATE and leave the streams as they are. -/
theorem modifyQp_bare {goal : QpState} (hgoal : QpState.ofCode (ctxAt ctx 0 1) = some goal) (hsets : setsOnly [(0, 1)] ctx = true)
    (hmove : (q.qstate = .rtr ∧ goal = .rts) ∨ (q.qstate = .rts ∧ goal = .draining) ∨ (q.qstate = .drained ∧ goal = .rts)) :
    modifyQp c n q ctx s = .ok (qpKick n (modQp n (fun q => { q with qstate := goal }) s)) Body.empty := by
  rcases hmove with ⟨hstate, rfl⟩ | ⟨hstate, rfl⟩ | ⟨hstate, rfl⟩ <;> simp [modifyQp, hstate, hgoal, bareModify, hsets]

theorem modifyQp_to_error (hstate : q.qstate ≠ .reset) (hgoal : ctxAt ctx 0 1 = 6) (hsets : setsOnly [(0, 1)] ctx = true) :
    modifyQp c n q ctx s = .ok (failQp n 0 0 0 false s) Body.empty := by
  simp [modifyQp, hstate, hgoal, QpState.ofCode, bareModify, hsets]

/-! ## A WAIT's release (R265) -/

theorem releaseWait_of_passed {o : SqOp} (hq : qp? n s = some q)
    (ho : q.ops.find? (fun o => o.remote.isNone && o.st == .waiting) = some o)
    (hpass : tallyPassed q.part (o.ent.opa.toNat % 65536) (o.ent.opa.toNat / 2 ^ 32) s = true) :
    releaseWait n s = sqKick n (setOp n o.idx (.done 0) (bump (bkQueue q.part) 7 1 s)) := by
  simp only [releaseWait, hq, ho, hpass, if_true]

/-! ## Grants (R29, R447) -/

/-- Grants that cover what the partition uses, and ask for no more than it has, come from the partition's own. -/
theorem setGrants_of_within {p qps cqs passes tallies : Nat} {g z : Part} (hp : p ≠ 0)
    (hqps : qpsOf p s ≤ qps ∧ qps ≤ g.qps) (hcqs : cqsOf p s ≤ cqs ∧ cqs ≤ g.cqs)
    (hpasses : passesOf p s ≤ passes ∧ passes ≤ g.passes) (htallies : talliesUsed p s ≤ tallies ∧ tallies ≤ g.tallies) :
    setGrants p qps cqs passes tallies g z s = .ok (trimPasses 0 (trimPasses p
      (modPart p (fun g => { g with qps := qps, cqs := cqs, passes := passes, tallies := tallies })
        (modPart 0 (fun z => { z with
          qps := z.qps + g.qps - qps, cqs := z.cqs + g.cqs - cqs, passes := z.passes + g.passes - passes,
          tallies := z.tallies + g.tallies - tallies }) s)))) Body.empty := by
  rw [setGrants, if_neg hp, if_neg (by omega), if_neg (by omega)]

/-- Settles O19: each command's checks pass and its effect is left; a transition is the branch of MODIFY_QP for its two states; a WAIT whose
counter satisfies it is done. -/
theorem queuePairsComplete : Obligations.QueuePairsComplete := by
  unfold Obligations.QueuePairsComplete
  refine ⟨?create, ?toInit, ?toRtr, ?bare, ?toError, ?destroy, ?list, ?select, ?wait, ?grant⟩
  case create =>
    intro c n q u r s h hnew hq
    refine congrArg Host.Outcome.next (serve_ok h ?_)
    simp only [hnew, hq, Option.map_some, Option.getD_some]
  case toInit =>
    intro c n q st ctx r s h hq hc hstate hgoal hsets hok
    exact exec_modifyQp_of_ok h hq hc (modifyQp_to_init hstate hgoal hsets hok)
  case toRtr =>
    intro c n q st ctx r s h hq hc hstate hgoal hsets hok
    exact exec_modifyQp_of_ok h hq hc (modifyQp_to_rtr hstate hgoal hsets hok)
  case bare =>
    intro c n q st ctx goal r s h hq hc hgoal hsets hmove
    exact exec_modifyQp_of_ok h hq hc (modifyQp_bare hgoal hsets hmove)
  case toError =>
    intro c n q st ctx r s h hq hc hstate hgoal hsets
    exact exec_modifyQp_of_ok h hq hc (modifyQp_to_error hstate hgoal hsets)
  case destroy =>
    intro c n q r s h hq hc hstate
    refine congrArg done (serve_ok h ?_)
    simp only [qpNamed_begun, qpNamed_of_owner hq hc, hstate, true_or, if_true]
  case list =>
    exact fun c cursor r s h hc => ⟨_, congrArg _ (serveRead_of_serves h hc _), map_headD_rows _ _ fun _ => rfl⟩
  case select =>
    intro c n cursor q r s h hcursor hq hc
    refine congrArg Host.Outcome.next (serve_page h hcursor ?_)
    simp only [qpNamed_begun, qpNamed_of_owner hq hc, pageRead_of_cursorOk hcursor, qpRow]
  case wait => exact fun n q o s hq ho hpass => congrArg done (releaseWait_of_passed hq ho hpass)
  case grant =>
    intro c qps cqs passes tallies g z r s h hpart hg hz hq1 hq2 hc1 hc2 hp1 hp2 ht1 ht2
    refine congrArg Host.Outcome.next (serve_ok h ?_)
    simp only [part?_begun, hg, hz]
    exact setGrants_of_within hpart ⟨hq1, hq2⟩ ⟨hc1, hc2⟩ ⟨hp1, hp2⟩ ⟨ht1, ht2⟩

end Sys2Proof.Machine
end

section
/-! Completion queues, hall passes and tally counters (O20). -/

namespace Sys2Proof.Machine

open Sys2Proof

variable {n : Nat} {q : Cq} {s : State}

/-- The moderation time of an armed CQ sends its message where a completion stands beyond INDEX (R249). -/
theorem execCqModerationTimer_of_timing (hq : cq? n s = some q) (htiming : q.timing = true) (hbeyond : 0 < cqBeyond q) :
    execCqModerationTimer n s = .next (cqFire n s) := by
  simp only [execCqModerationTimer, hq]
  rw [if_pos ⟨htiming, hbeyond⟩]

/-- Settles O20: each command's checks pass and its effect is left; the readbacks answer from the rows of the partition's objects; an armed CQ
whose moderation time has passed fires. CREATE_CQ takes the lowest free number (log 9). -/
theorem queueObjectsComplete : Obligations.QueueObjectsComplete := by
  unfold Obligations.QueueObjectsComplete
  refine ⟨?createCq, ?destroyCq, ?readCq, ?moderation, ?issue, ?revoke, ?drained, ?readPasses, ?tallySet, ?tallyRead⟩
  case createCq =>
    intro c base log vec count time r g s h hbase hbase' hlog hlog' hvec hcount hcount' htime hg hroom hfree
    refine congrArg Host.Outcome.next (serve_ok h ?_)
    have hroom' : ¬ (g.cqs ≤ cqsOf r.part s ∨ Config.poolCqs ≤ freshKey s.qe.cqs) :=
      not_or.mpr ⟨Nat.not_le.mpr hroom, Nat.not_le.mpr hfree⟩
    simp [-Nat.reducePow, hbase, hbase', hlog, hlog', hvec, hcount, hcount', htime, hg, hroom']
  case destroyCq =>
    intro c n q r s h hq hc hunused
    refine congrArg Host.Outcome.next (serve_ok h ?_)
    simp only [cqNamed_begun, cqNamed_of_owner hq hc, cqUsed_begun, hunused, Bool.false_eq_true, if_false]
  case readCq =>
    exact fun c cursor r s h hc => ⟨_, congrArg _ (serveRead_of_serves h hc _), map_headD_rows _ _ fun _ => rfl⟩
  case moderation => exact fun n q s hq htiming hbeyond => execCqModerationTimer_of_timing hq htiming hbeyond
  case issue =>
    intro c p k u r s h hok hissued
    refine congrArg Host.Outcome.next (serve_ok h ?_)
    simp [hok, hissued]
  case revoke =>
    intro c key p r s h hp hvalid hgen hc
    refine congrArg done (serve_later h ?_)
    have howner : ¬ (c.func ≠ 0 ∧ p.part ≠ r.part) := by rintro ⟨hf, hpart⟩; exact hc.elim hf hpart
    simp only [pass?_begun, hp, hvalid, hgen, howner, callRef_begun, reduceCtorEq, ne_eq, not_true_eq_false, or_self, if_false]
  case drained => exact fun idx s => rfl
  case readPasses =>
    exact fun c cursor r s h hc => ⟨_, congrArg _ (serveRead_of_serves h hc _), map_headD_rows _ _ fun _ => rfl⟩
  case tallySet =>
    intro c n v r s h hok
    exact congrArg Host.Outcome.next (serve_ok h (if_pos hok))
  case tallyRead =>
    intro c n count cursor r s h hc hcount hok
    refine congrArg Host.Outcome.next (serve_page h hc ?_)
    simp only [tallyOk_begun, hok, hcount, tallyGet_begun, Bool.not_true, Bool.false_eq_true, or_self, if_false]

end Sys2Proof.Machine
end

section
/-! Timers and events of the transport (O22). -/

namespace Sys2Proof.Machine

open Sys2Proof

section
variable {n : Nat} {q : Qp} {s : State} (hq : qp? n s = some q)
include hq

/-- A message that is done lets VMSN pass it and what is done behind it (R258, R276). -/
theorem execPlacementDone_of_done {msn : Nat} (hnext : q.x.vmsnRx = msn) (hdone : (inMsg? q msn).any msgDone = true) :
    execPlacementDone n msn s = done (releaseMsgs n (q.inMsgs.length + 1) false s) := by
  simp only [execPlacementDone, hq]
  rw [if_pos ⟨hnext, hdone⟩]

theorem execAckTimer_of_due (hdue : q.x.ackDue = true) (hstream : streaming q = true) :
    execAckTimer n s = done (sendAck n 0 0 0 s) := by
  simp only [execAckTimer, hq]
  rw [if_pos ⟨hdue, hstream⟩]

/-- The expiry of a packet's timer on a TYPE 0 connection cuts the window and doubles RTO before the packet is declared lost (R278, R284). -/
theorem execRtoExpiry_of_unacked {psn : Nat} {p : TxPkt} (hp : q.x.unacked.find? (fun p => p.psn == psn && !p.acked) = some p)
    (htyp : q.typ = 0) : execRtoExpiry n psn s =
      done (sqKick n (losePkt n p (modX n (timedOut s.qe.cc (mtuBytes q.mtu) s.chip.lcount) s))) := by
  simp [execRtoExpiry, hq, hp, htyp]

theorem execRnrWaitExpiry_of_waiting (hwait : q.x.rnrWait = true) :
    execRnrWaitExpiry n s = done (sqKick n (modX n (fun x => resendFrom q.typ x.rnrTxPsn x) s)) := by
  simp only [execRnrWaitExpiry, hq, hwait, if_true]

theorem execPathPenaltyEnd_of_penalised {path : Nat} (hpen : bitOf path q.x.penalty = true) :
    execPathPenaltyEnd n path s = .next (modX n (fun x => { x with penalty := x.penalty - 2 ^ path }) s) := by
  simp only [execPathPenaltyEnd, hq, hpen, if_true]

end

/-- Settles O22: each event meets the queue pair whose timer or message it names, and takes effect. -/
theorem transportTimersComplete : Obligations.TransportTimersComplete := by
  unfold Obligations.TransportTimersComplete
  refine ⟨?placement, ?ack, ?rto, ?rnr, ?penalty⟩
  case placement => exact fun n msn q s hq hnext hdone => execPlacementDone_of_done hq hnext hdone
  case ack => exact fun n q s hq hdue hstream => execAckTimer_of_due hq hdue hstream
  case rto => exact fun n psn q p s hq hp htyp => execRtoExpiry_of_unacked hq hp htyp
  case rnr => exact fun n q s hq hwait => execRnrWaitExpiry_of_waiting hq hwait
  case penalty => exact fun n path q s hq hpen => execPathPenaltyEnd_of_penalised hq hpen

end Sys2Proof.Machine
end

section
/-! Packets handed over to the transport (O21). -/

namespace Sys2Proof.Machine

open Sys2Proof

section
variable {i op : Nat} {a : Arrived} {s t : State} (htake : takeArrived i s = some (a, t))
include htake

/-- A PT packet of an address that is not fenced, or one of a local pair, is handled by its QP where it has the QP's TYPE (R273, R287). -/
theorem ptArrive_of_reached {q : Qp} (hpt : a.roce = false) (hop : beAt a.bytes 1 1 = op)
    (hfree : a.loc = true ∨ fenced a.src s = false) (hq : qp? a.qpn t = some q) (htyp : q.typ = (if a.loc then 2 else 0)) :
    ptArrive op i s = ptHandle op a q t := by
  have hpass : (!a.loc && fenced a.src s) = false := by
    rcases hfree with hloc | hfence
    · rw [hloc]; rfl
    · rw [hfence, Bool.and_false]
  simp [ptArrive, htake, hpt, hop, hpass, hq, htyp]

/-- A PT packet from a fenced peer is dropped and counted (R287). -/
theorem ptArrive_of_fenced (hpt : a.roce = false) (hop : beAt a.bytes 1 1 = op) (hremote : a.loc = false)
    (hfence : fenced a.src s = true) : ptArrive op i s = bump (bkTransport a.die) 7 1 t := by
  simp [ptArrive, htake, hpt, hop, hremote, hfence]

theorem execRocePacket_of_unfenced (hroce : a.roce = true) (hfence : fenced a.src s = false) :
    execRocePacket i s = done (rxRoce a.qpn a.die a.ce a.bytes t) := by
  simp [execRocePacket, htake, hroce, hfence]

end

/-- An ACK goes to the acknowledged sender and not to the receiver of packets (R276). -/
theorem ptHandle_ack (a : Arrived) (q : Qp) (s : State) : ptHandle 8 a q s = onAck a.qpn a.die a.bytes s := if_pos rfl

/-- Settles O21: the rows of the eight packets are one arrival with their OP, which reaches the QP or ends at the fence. -/
theorem packetsComplete : Obligations.PacketsComplete := by
  unfold Obligations.PacketsComplete
  refine ⟨?reached, ?dropped, ?roce⟩
  case reached =>
    intro i a q s t htake hpt hfree hq htyp
    have arrives (op : Nat) (hop : beAt a.bytes 1 1 = op) : done (ptArrive op i s) = .next (settle (ptHandle op a q t)) :=
      congrArg done (ptArrive_of_reached htake hpt hop hfree hq htyp)
    refine ⟨arrives 1, arrives 2, arrives 3, arrives 4, arrives 5, arrives 6, arrives 7, fun hop => ?_⟩
    rw [← ptHandle_ack a q t]
    exact arrives 8 hop
  case dropped => exact fun i op a s t htake hpt hop hremote hfence => ptArrive_of_fenced htake hpt hop hremote hfence
  case roce => exact fun i a s t htake hroce hfence => execRocePacket_of_unfenced htake hroce hfence

end Sys2Proof.Machine
end

section
/-! Fences and the transport's parameters (O23). -/

namespace Sys2Proof.Machine

open Sys2Proof

/-- The physical function reads a row for each fenced address, in whichever partition the QPs are that it moved to ERROR (R287). -/
theorem fences_seen_of_physical {f : Nat} (hf : f = 0) (seen : Fence → Bool) (fences : List Fence) :
    fences.filter (fun e => f == 0 || seen e) = fences := by
  subst hf
  exact List.filter_eq_self.mpr fun _ _ => rfl

/-- Rows that an object has one of per path are as many as the paths. -/
theorem length_flatMap_range {α β : Type} (l : List α) (count : α → Nat) (row : α → Nat → β) :
    (l.flatMap (fun e => (List.range (count e)).map (row e))).length = (l.map count).sum := by
  simp only [List.length_flatMap, List.length_map, List.length_range]

/-- Settles O23: each command's checks pass and its effect is left; the readbacks answer a row per fence, per path and for the parameters. -/
theorem transportCommandsComplete : Obligations.TransportCommandsComplete := by
  unfold Obligations.TransportCommandsComplete
  refine ⟨?fence, ?unfence, ?readFences, ?readPaths, ?readCc, ?setCc, ?setPort, ?grace⟩
  case fence =>
    intro c a r s h hnew hroom
    refine congrArg done (serve_later h ?_)
    simp only [qe_begun, hnew, callRef_begun]
    exact if_neg (Nat.not_le.mpr hroom)
  case unfence =>
    intro c a f r s h hf hdrained
    refine congrArg Host.Outcome.next (serve_ok h ?_)
    simp only [qe_begun, hf, hdrained, Option.isSome_none, Bool.false_eq_true, if_false]
  case readFences =>
    intro c cursor r s h hc
    refine ⟨_, congrArg _ (serveRead_of_serves h hc _), fun hf => ?_⟩
    rw [List.length_map, fences_seen_of_physical hf, qe_begun]
  case readPaths =>
    exact fun c cursor r s h hc => ⟨_, congrArg _ (serveRead_of_serves h hc _), length_flatMap_range _ _ _⟩
  case readCc => exact fun c cursor r s h hc => congrArg Host.Outcome.next (serveRead_of_serves h hc _)
  case setCc =>
    intro c p r s h hok
    exact congrArg Host.Outcome.next (serve_ok h (if_pos hok))
  case setPort =>
    intro c port r s h hlow hhigh hnew
    refine congrArg Host.Outcome.next (serve_ok h ?_)
    have hrange : ¬ (port = 0 ∨ port > 65535) := by omega
    rw [if_neg hrange, qe_begun, if_neg hnew]
  case grace => exact fun s => rfl

end Sys2Proof.Machine
end

section
/-! Collective groups (O24): creation, destruction, modes, readbacks, and the share of a partition. -/

namespace Sys2Proof.Machine

open Sys2Proof

variable {c : Call} {op h part : Nat} {g : CGroup} {s : State}

/-! ## What the checks read is the same in the state in which the work starts -/

@[simp] theorem cu_begun : (begun c op s).cu = s.cu := rfl

@[simp] theorem cgroup?_begun : cgroup? h (begun c op s) = cgroup? h s := rfl

@[simp] theorem modeStaged_begun : modeStaged h (begun c op s) = modeStaged h s := rfl

@[simp] theorem groupNamed_begun : groupNamed h part (begun c op s) = groupNamed h part s := rfl

/-! ## What the commands run -/

/-- A command finds the group it names where its header's partition owns it. -/
theorem groupNamed_of_owner (hg : cgroup? h s = some g) (hp : g.part = part) : groupNamed h part s = some g := by
  rw [groupNamed, hg, Option.bind_some, if_pos hp]

/-- A group without residual slots takes no memory (R299). -/
theorem takeResiduals_of_no_slots (hnres : g.nres = 0) : takeResiduals h g s = some s := by
  simp [takeResiduals, hnres]

/-- CREATE_GROUP of a new tag, whose table names an edge that may be used for every rank to reach, makes the group and binds its
queue pairs to it (R296 to R298). -/
theorem createGroup_of_ready {bs : List Byte} {es : List CEdge} {t : State}
    (hfields : groupFieldsOk (CGroup.parse part bs) bs = true)
    (htag : s.cu.groups.any (fun e => e.2.tag == (CGroup.parse part bs).tag) = false)
    (hranks : readRanks part (leNat ((bs.drop 24).take 8)) (reachRanks (CGroup.parse part bs)) s = (some es, t))
    (hedges : ∀ e ∈ es, edgeOk part e t = true ∧ edgeNotReady e t = false)
    (hfree : freshKey s.cu.groups < 65536) (hnres : (CGroup.parse part bs).nres = 0) :
    createGroup part bs s = .ok
      (bindEdges es (freshKey s.cu.groups + 1) (modCu (fun k => { k with
        groups := tset k.groups (freshKey s.cu.groups) { CGroup.parse part bs with edges := es } }) t))
      (Body.nums [freshKey s.cu.groups, (modeAt (CGroup.parse part bs) 0).toNat]) := by
  have hok : es.all (fun e => edgeOk part e t) = true := List.all_eq_true.mpr fun e he => (hedges e he).1
  have hready : es.any (fun e => edgeNotReady e t) = false :=
    List.any_eq_false.mpr fun e he => ne_true_of_eq_false (hedges e he).2
  simp only [createGroup, hfields, htag, hranks, hok, hready, takeResiduals_of_no_slots hnres, Nat.not_le.mpr hfree,
    Bool.not_true, Bool.or_self, Bool.false_eq_true, if_false]

/-- Settles O24: each command's checks pass and its effect is left; the readbacks answer a row per group and per collective that the caller
sees. CREATE_GROUP answers the lowest free handle (log 9). -/
theorem collectiveGroupsComplete : Obligations.CollectiveGroupsComplete := by
  unfold Obligations.CollectiveGroupsComplete
  refine ⟨?create, ?destroy, ?mode, ?readGroups, ?readColls, ?share⟩
  case create =>
    intro c es u r s h hfields htag hranks hedges hfree hnres
    exact congrArg Host.Outcome.next (serve_ok h (createGroup_of_ready hfields htag hranks hedges hfree hnres))
  case destroy =>
    intro c n g r s h hg hp hunused hstaged
    refine congrArg Host.Outcome.next (serve_ok h ?_)
    simp only [groupNamed_begun, groupNamed_of_owner hg hp, cu_begun, hunused, modeStaged_begun, hstaged, Bool.false_eq_true, if_false]
  case mode =>
    intro c n fmt q g r s h hg hp hfmt hq hwire hnext hstaged
    refine congrArg Host.Outcome.next (serve_later h ?_)
    have hvalid : ¬ (fmt > 255 ∨ q ≥ 2 ^ 32 ∨ (!wireCvtOk (BitVec.ofNat 8 fmt)) = true) := by
      rw [hwire]
      exact not_or.mpr ⟨by omega, not_or.mpr ⟨Nat.not_le.mpr hq, Bool.false_ne_true⟩⟩
    simp only [groupNamed_begun, groupNamed_of_owner hg hp, hvalid, Nat.not_lt.mpr hnext, modeStaged_begun, hstaged, callRef_begun,
      Bool.false_eq_true, if_false]
  case readGroups =>
    exact fun c cursor r s h hc => ⟨_, congrArg _ (serveRead_of_serves h hc _), map_headD_rows _ _ fun _ => rfl⟩
  case readColls =>
    exact fun c cursor r s h hc => ⟨_, congrArg _ (serveRead_of_serves h hc _), map_headD_rows _ _ fun _ => rfl⟩
  case share =>
    intro c mib r s h hlow hhigh
    exact congrArg done (serve_ok h (if_neg (by omega)))

end Sys2Proof.Machine
end

section
/-! Collectives (O25): admission, messages, progress, and the two ends. -/

namespace Sys2Proof.Machine

open Sys2Proof

variable {id : Nat} {c : Coll} {g : CGroup} {s : State}

/-! ## What the units do while the device is not tripped (R513) -/

theorem unitColl?_of_running (hrun : s.pm.tripped = false) (hc : coll? id s = some c) : unitColl? id s = some c := by
  simp only [unitColl?, hrun, hc, Bool.false_eq_true, if_false]

theorem execCollAdmit_of_admissible (hrun : s.pm.tripped = false) (hadm : admissible id s = true) :
    execCollAdmit id s = .next (settle (admitColl id (wakeFor 3 s))) :=
  congrArg done (if_pos (by rw [hadm, hrun]; rfl))

/-- A waiting message is handled by the event whose KINDs hold its own (R311). -/
theorem collTake_of_kind {p : Nat → Bool} {i die : Nat} {bs : List Byte} {t : State} (hrun : s.pm.tripped = false)
    (hw : collWaiting i s = some (die, bs, t)) (hkind : p (CHead.parse bs).kind = true) :
    collTake p i s = collMessage die bs t := by
  simp only [collTake, hw, hkind, hrun, Bool.not_false, Bool.and_self, if_true]

/-- A neighbour that an admitted collective awaits too long ends it with its rank (Table 10-7). -/
theorem execCollPeerTimeout_of_awaited {k : Nat} (hrun : s.pm.tripped = false) (hc : coll? id s = some c)
    (hg : cgroup? c.group s = some g) (hawaited : awaited g c = some k) (hadm : c.admitted = true) (hended : c.ended = none) :
    execCollPeerTimeout id s = .next (settle (collFail id Config.ccRemoteOp k 4 s)) := by
  simp only [execCollPeerTimeout, unitColl?_of_running hrun hc, hg, hawaited, hadm, hended, Option.isNone_none, Bool.and_self, if_true,
    done]

/-- A landed chunk that is finished moves to the finished ones and counts PROGRESS (R313). -/
theorem execChunkFinished_of_landed {chunk : Nat} (hrun : s.pm.tripped = false) (hc : coll? id s = some c) (hlanded : chunk ∈ c.landed)
    (hg : cgroup? c.group s = some g) :
    execChunkFinished id chunk s = .next (settle (tallyAdd g.part c.desc.progress 1
      (modColl id (fun c => { c with landed := c.landed.erase chunk, finished := c.finished ++ [chunk] }) s))) := by
  simp only [execChunkFinished, unitColl?_of_running hrun hc, List.contains_iff_mem.mpr hlanded, hg, Bool.not_true, Bool.false_eq_true,
    if_false, done]

theorem execCollComplete_of_ready (hrun : s.pm.tripped = false) (hc : coll? id s = some c) (hg : cgroup? c.group s = some g)
    (hready : collReady g c = true) : execCollComplete id s = .next (settle (completeColl id g c s)) := by
  simp only [execCollComplete, unitColl?_of_running hrun hc, hg, hready, if_true, done]

/-- A collective that a cause has ended completes with its code once none of its transfers is outstanding (R316). -/
theorem execCollEnd_of_quiet {code rank : Nat} (hrun : s.pm.tripped = false) (hc : coll? id s = some c) (hg : cgroup? c.group s = some g)
    (hended : c.ended = some (code, rank)) (hquiet : s.xl.xfers.any (fun x => ofColl id x.2) = false) :
    execCollEnd id s = .next (settle (endColl id g c code rank s)) := by
  simp only [execCollEnd, unitColl?_of_running hrun hc, hg, hended, hquiet, Bool.false_eq_true, if_false, done]

/-- Settles O25: each event finds its collective, or its waiting message, with the condition it needs, while no trip stops the units. -/
theorem collectivesComplete : Obligations.CollectivesComplete := by
  unfold Obligations.CollectivesComplete
  refine ⟨?admission, ?message, ?timeout, ?chunk, ?complete, ?ended⟩
  case admission => exact fun id s hadm hrun => execCollAdmit_of_admissible hrun hadm
  case message =>
    intro i die bs s t hw hrun
    refine ⟨fun hdata => ?_, fun hcredit => ?_, fun habort => ?_⟩
    · exact congrArg done (collTake_of_kind hrun hw (by rw [hdata]; rfl))
    · exact congrArg done (collTake_of_kind hrun hw (by rw [hcredit]; rfl))
    · exact congrArg done (collTake_of_kind hrun hw (by rw [habort]; rfl))
  case timeout =>
    exact fun id k c g s hc hrun hg hawaited hadm hended => execCollPeerTimeout_of_awaited hrun hc hg hawaited hadm hended
  case chunk => exact fun id n c g s hc hrun hlanded hg => execChunkFinished_of_landed hrun hc hlanded hg
  case complete => exact fun id c g s hc hrun hg hready => execCollComplete_of_ready hrun hc hg hready
  case ended => exact fun id code rank c g s hc hrun hg hended hquiet => execCollEnd_of_quiet hrun hc hg hended hquiet

end Sys2Proof.Machine
end

section
/-! Steps and the invariants that every step keeps: the queue and the outputs, canonical memory, and the fuses (O47, O51 to O53). -/

namespace Sys2Proof.Machine

open Sys2Proof

variable {c : Call} {op v d : Nat} {r : Req} {s t : State}

/-! ## Every command answers a next state -/

/-- A command whose meaning has cases answers in each of them. -/
theorem exec_answers (i : Instr) (s : State) : ∃ t, exec i s = .next t := by
  cases i with
  | unimplementedRead | badSizeRead | mailboxDone | loadDone | armedJobStart | jobEnd | jobTimeLimit | groupRestoreDone |
    dmaStreamEnd | mSequenceEnd | tileDmaComplete | migrationCopyDone | scrubRead | edcFail | tempDriftRetrain | retrainDone |
    cxlEventPoll | cxlDeviceLost | cxlRemoveDrainEnd | walkComplete | faultTimeout | signalDetect | hello | helloResend |
    trainingTimeout | jlNak | nakResend | replayTimer | lossOfSignal | reform | reformAck | reformResend | recalDone |
    failedLinkRetry | periodicRecal | visAck | readData | visTimeout | fwd | tokenMsg | holdMsg | holdResend | returnMsg |
    loopMsg | rollcallAnswerTimeout | resultMsg | ethFrameRx | txFrameSelect | reportCardPeriod | partDestroyDone | flr |
    hotReset | quiesceEnd | quiesceTimeout | hostReadCompletion | completionTimeout | zeroLengthRead | fwSwitchDone |
    rollbackWindowEnd | processorRestarted | epochSwitch | modeAckTimeout | stagedDiscard | faultFlushEnd | pwrfailAssert |
    powerFailFlushEnd | softResetFire | blockIdle | brownOut | optionLoadDone | resetRelease | bootImageRead | gddr7TrainingDone
    | endpointReady | controlPeriod | emergencyClear | configurationWrite | cxlMediaReady =>
    simp only [exec,
      execUnimplementedRead, execBadSizeRead, execMailboxDone, execLoadDone, execArmedJobStart, execJobEnd, execJobTimeLimit,
      execGroupRestoreDone, execDmaStreamEnd, execMSequenceEnd, execTileDmaComplete, execMigrationCopyDone, execScrubRead,
      execEdcFail, execTempDriftRetrain, execRetrainDone, execCxlEventPoll, execCxlDeviceLost, execCxlRemoveDrainEnd,
      execWalkComplete, execFaultTimeout, execSignalDetect, execHello, execHelloResend, execTrainingTimeout, execJlNak,
      execNakResend, execReplayTimer, execLossOfSignal, execReform, execReformAck, execReformResend, execRecalDone,
      execFailedLinkRetry, execPeriodicRecal, execVisAck, execReadData, execVisTimeout, execFwd, execTokenMsg, execHoldMsg,
      execHoldResend, execReturnMsg, execLoopMsg, execRollcallAnswerTimeout, execResultMsg, execEthFrameRx, execTxFrameSelect,
      execReportCardPeriod, execPartDestroyDone, execFlr, execHotReset, execQuiesceEnd, execQuiesceTimeout,
      execHostReadCompletion, execCompletionTimeout, execZeroLengthRead, execFwSwitchDone, execRollbackWindowEnd,
      execProcessorRestarted, execEpochSwitch, execModeAckTimeout, execStagedDiscard, execFaultFlushEnd, execPwrfailAssert,
      execPowerFailFlushEnd, execSoftResetFire, execBlockIdle, execBrownOut, execOptionLoadDone, execResetRelease,
      execBootImageRead, execGddr7TrainingDone, execEndpointReady, execControlPeriod, execEmergencyClear,
      execConfigurationWrite, execCxlMediaReady]
    repeat' split
    all_goals exact ⟨_, rfl⟩
  | _ => exact ⟨_, rfl⟩

theorem burns_of_exec {i : Instr} (h : exec i s = .next t) : Burns s t := by
  have hb := exec_burns i s
  rw [h] at hb
  exact hb

/-! ## Steps -/

theorem step_of_pending {i : Instr} {rest : List Instr} (h : s.pending = i :: rest) : step s = exec i { s with pending := rest } := by
  simp only [step, h]

theorem step_of_empty (h : s.pending = []) : step s = .next (tick s) := by
  simp only [step, h]

/-- A step is a tick, or a command that starts from the state with the queue's rest. -/
theorem step_cases (h : step s = .next t) :
    (s.pending = [] ∧ t = tick s) ∨ ∃ i rest, s.pending = i :: rest ∧ exec i { s with pending := rest } = .next t := by
  cases hp : s.pending with
  | nil =>
    rw [step_of_empty hp] at h
    exact .inl ⟨rfl, (Host.Outcome.next.inj h).symm⟩
  | cons i rest =>
    rw [step_of_pending hp] at h
    exact .inr ⟨i, rest, rfl, h⟩

theorem step_answers (s : State) : ∃ t, step s = .next t := by
  cases hp : s.pending with
  | nil => exact ⟨_, step_of_empty hp⟩
  | cons i rest =>
    obtain ⟨t, ht⟩ := exec_answers i { s with pending := rest }
    exact ⟨t, (step_of_pending hp).trans ht⟩

/-- But for the queue, a step changes the state as its command, or the tick, does. -/
theorem step_burns (h : step s = .next t) : ∃ l, Burns { s with pending := l } t := by
  rcases step_cases h with ⟨-, rfl⟩ | ⟨i, rest, -, he⟩
  · exact ⟨s.pending, (tick_keeps s (Keeps.refl s)).burns⟩
  · exact ⟨rest, burns_of_exec he⟩

theorem safeRun (n : Nat) (s : State) : SafeRun n s := by
  induction n generalizing s with
  | zero => exact trivial
  | succ n ih =>
    obtain ⟨t, ht⟩ := step_answers s
    exact ⟨t, ht, ih t⟩

/-- Settles O51: each command's handler answers in every case, and what every command keeps is the queue and what was sent. -/
theorem everyCommandAnswers : Obligations.EveryCommandAnswers := by
  unfold Obligations.EveryCommandAnswers
  refine ⟨fun i s => ?_, safeRun⟩
  obtain ⟨t, ht⟩ := exec_answers i s
  have hb := burns_of_exec ht
  exact ⟨t, ht, hb.pending, hb.out⟩

/-- Settles O52: no command and no tick leaves the canonical form, and the queue is not part of it. -/
theorem memoryStaysCanonical : Obligations.MemoryStaysCanonical := by
  unfold Obligations.MemoryStaysCanonical
  intro s t hm h
  obtain ⟨l, hb⟩ := step_burns h
  exact hb.mem hm

/-! ## The fuses (R420) -/

theorem svnCommit_of_bad (h : 64 < v ∨ v < s.chip.fusedSvn) (hs : Serves c 0x9031 r s) :
    exec (.svnCommit c v) s = .next (replied c Config.badValue Body.empty (begun c 0x9031 s)) := by
  refine congrArg Host.Outcome.next ?_
  rw [serve_of_serves hs, chip_begun, if_pos h]

theorem flashAtLeast_iff : flashAtLeast v d s = true ↔ flashFails d s = [] ∧ v ≤ (Image.parse (rdMem (spFlash d) 0 64 s)).svn := by
  simp [flashAtLeast]

@[simp] theorem flashAtLeast_begun : flashAtLeast v d (begun c op s) = flashAtLeast v d s := rfl

/-- A commit within its range is done where both flash images carry the version, and refused elsewhere. -/
theorem svnCommit_of_range (hs : Serves c 0x9031 r s) (h64 : v ≤ 64) (hv : s.chip.fusedSvn ≤ v) :
    exec (.svnCommit c v) s =
      if flashAtLeast v 0 s = true ∧ flashAtLeast v 1 s = true
      then .next (okay c { begun c 0x9031 s with chip := { s.chip with fusedSvn := v } })
      else .next (replied c Config.wrongState Body.empty (begun c 0x9031 s)) := by
  have e : exec (.svnCommit c v) s = execSvnCommit c v s := rfl
  have hr : ¬ (v > 64 ∨ v < s.chip.fusedSvn) := by omega
  rw [e, execSvnCommit, serve_of_serves hs]
  by_cases h0 : flashAtLeast v 0 s = true <;> by_cases h1 : flashAtLeast v 1 s = true <;> simp [hr, h0, h1, okay]

/-- What a service comes to: it changes nothing, answers a status alone, or does what its work says. -/
theorem serve_induction {P : State → Prop} {k : Req → State → Ans} (same : P s) (unserved : ∀ st, P (replied c st Body.empty s))
    (refused : ∀ st, P (replied c st Body.empty (begun c op s)))
    (ok : ∀ q u b, k q (begun c op s) = .ok u b → P (replied c Config.ok b u))
    (deferred : ∀ q u, k q (begun c op s) = .deferred u → P (replied c Config.deferred Body.empty u))
    (later : ∀ q u cm, k q (begun c op s) = .later u cm → P (runsOn c cm u)) : P (serve c op k s) := by
  unfold serve
  extract_lets m
  split
  next q _ _ =>
    refine iteInduction (motive := P) (fun _ => same) fun _ => iteInduction (motive := P) (fun _ => same) fun _ =>
      iteInduction (motive := P) (fun _ => unserved Config.fwRestarting) fun _ => iteInduction (motive := P) (fun _ => same) fun _ => ?_
    split
    next st _ => exact refused st
    · refine iteInduction (motive := P) (fun _ => refused Config.fwRestarting) fun _ => iteInduction (motive := P) (fun _ => same) fun _ =>
        iteInduction (motive := P) (fun _ => refused Config.badLength) fun _ =>
        iteInduction (motive := P) (fun _ => refused Config.badValue) fun _ => ?_
      split
      next st _ => exact refused st
      next u b e => exact ok q u b e
      next u e => exact deferred q u e
      next u cm e => exact later q u cm e
      next => exact same
  next => exact same

/-- KEY_REVOKE burns a revocation bit alone. -/
theorem keyRevoke_fusedSvn {k : Nat} (h : exec (.keyRevoke c k) s = .next t) : t.chip.fusedSvn = s.chip.fusedSvn := by
  have he : exec (.keyRevoke c k) s = execKeyRevoke c k s := rfl
  rw [he, execKeyRevoke] at h
  rw [← Host.Outcome.next.inj h]
  refine serve_induction (P := fun t => t.chip.fusedSvn = s.chip.fusedSvn) rfl (fun _ => rfl) (fun _ => rfl) ?ok ?deferred ?later
  case ok =>
    intro q u b e
    split_ifs at e
    cases e
    rfl
  case deferred => intro q u e; split_ifs at e
  case later => intro q u cm e; split_ifs at e

/-- Settles O53: the two commands that burn fuses raise FUSED_SVN, or leave it; every other command keeps all fuses. -/
theorem fusedSvnRises : Obligations.FusedSvnRises := by
  unfold Obligations.FusedSvnRises
  refine ⟨fun c v r s hs => ⟨?bad, ?unverified, ?raised⟩, ?step, ?others⟩
  case bad => exact fun h => svnCommit_of_bad h hs
  case unverified =>
    rintro h64 hv ⟨d, hd, hfail⟩
    rw [svnCommit_of_range hs h64 hv, if_neg]
    rintro ⟨h0, h1⟩
    have hd' : flashAtLeast v d s = true := by
      rcases hd with rfl | rfl
      · exact h0
      · exact h1
    obtain ⟨hok, hle⟩ := flashAtLeast_iff.mp hd'
    rcases hfail with hf | hf
    · exact hf hok
    · omega
  case raised =>
    intro h64 hv hok
    rw [svnCommit_of_range hs h64 hv, if_pos ⟨flashAtLeast_iff.mpr (hok 0 (.inl rfl)), flashAtLeast_iff.mpr (hok 1 (.inr rfl))⟩]
  case step =>
    intro s t h
    obtain ⟨l, hb⟩ := step_burns h
    exact ⟨hb.svn, hb.revoked, hb.opt, hb.keys, hb.serial⟩
  case others =>
    intro i s t hi h
    by_cases hr : ∃ c k, i = .keyRevoke c k
    · obtain ⟨c, k, rfl⟩ := hr
      exact keyRevoke_fusedSvn h
    · have hk := exec_keeps i hi (fun c k e => hr ⟨c, k, e⟩) s (Keeps.refl s)
      rw [h] at hk
      exact hk.chip.svn

/-! ## The queue and the tick -/

section
variable (write : Bool)

/-- The check cache keeps the chip and the pipeline as they are. -/
theorem checkTouch_chip_pp (addr : Nat) (s : State) :
    (checkTouch write addr s).chip = s.chip ∧ (checkTouch write addr s).pp = s.pp := by
  unfold checkTouch
  dsimp only
  split <;> exact ⟨rfl, rfl⟩

theorem checkPlace_chip_pp (p : Place) (s : State) :
    (checkPlace write p s).chip = s.chip ∧ (checkPlace write p s).pp = s.pp := by
  unfold checkPlace
  split
  · exact checkTouch_chip_pp write p.addr s
  · exact ⟨rfl, rfl⟩

theorem checkSpan_chip_pp (k : Nat) (p : Place) (s : State) :
    (checkSpan write k p s).chip = s.chip ∧ (checkSpan write k p s).pp = s.pp := by
  induction k generalizing p s with
  | zero => exact ⟨rfl, rfl⟩
  | succ k ih =>
    obtain ⟨hchip, hpp⟩ := ih ⟨p.space, p.addr + 512⟩ (checkPlace write p s)
    obtain ⟨hchip', hpp'⟩ := checkPlace_chip_pp write p s
    exact ⟨hchip.trans hchip', hpp.trans hpp'⟩

end

theorem copyPart_chip_pp (id n : Nat) (s : State) : (copyPart id n s).chip = s.chip ∧ (copyPart id n s).pp = s.pp := by
  unfold copyPart
  split
  · exact ⟨rfl, rfl⟩
  · simp [checkSpan_chip_pp]

theorem copyAll_chip_pp (s : State) : (copyAll s).chip = s.chip ∧ (copyAll s).pp = s.pp := by
  unfold copyAll
  generalize s.tiers.migs = migs
  induction migs generalizing s with
  | nil => exact ⟨rfl, rfl⟩
  | cons e migs ih =>
    rw [List.foldl_cons]
    split
    · exact ih s
    · obtain ⟨hchip, hpp⟩ := copyPart_chip_pp e.1 (copyStep e.2 s) (draw s).2
      obtain ⟨hchip', hpp'⟩ := ih (copyPart e.1 (copyStep e.2 s) (draw s).2)
      exact ⟨hchip'.trans hchip, hpp'.trans hpp⟩

theorem countPower_chip_pp (s : State) : (countPower s).chip = s.chip ∧ (countPower s).pp = s.pp := by
  unfold countPower
  dsimp only
  split_ifs <;> exact ⟨rfl, rfl⟩

/-- Settles O47: a step runs the front of the queue, and of the tick's parts only the cycle itself moves the clocks. -/
theorem stepTakesFront : Obligations.StepTakesFront := by
  unfold Obligations.StepTakesFront
  refine ⟨fun i rest s h => step_of_pending h, fun i s => rfl, fun s h => step_of_empty h, fun s => ?_⟩
  obtain ⟨hchip, hpp⟩ := countPower_chip_pp (copyAll { s with
    chip := { s.chip with lcount := (s.chip.lcount + 1) % 2 ^ 64 }, pp := { s.pp with gtime := (s.pp.gtime + s.pp.incr) % 2 ^ 96 } })
  obtain ⟨hchip', hpp'⟩ := copyAll_chip_pp { s with
    chip := { s.chip with lcount := (s.chip.lcount + 1) % 2 ^ 64 }, pp := { s.pp with gtime := (s.pp.gtime + s.pp.incr) % 2 ^ 96 } }
  exact ⟨hchip.trans hchip', hpp.trans hpp'⟩

end Sys2Proof.Machine
end

section
/-! Firmware's checks of a request, in their order (O49). -/

namespace Sys2Proof.Machine

open Sys2Proof

variable {c : Call} {op st f : Nat} {r : Req} {s : State}

/-- The checks of the request's form, which look neither at its sender nor at its partition (R455, checks 1 and 2). -/
theorem precheck_of_unknown (h : opKnown r.opcode s = false) : precheck f r s = some Config.badOpcode := by
  simp only [precheck, h, Bool.not_false, if_true]

/-- The header's fields hold what R455 asks of them. -/
def HeaderOk (r : Req) : Prop := r.flags = (opExpert r.opcode).toNat ∧ r.rsvd = false ∧ r.part ≤ 63 ∧ r.length ≤ 4064

theorem headerOk_iff : HeaderOk r ↔ (r.flags % 2 != (opExpert r.opcode).toNat || r.flags / 2 != 0 || r.rsvd || decide (r.part > 63) ||
    decide (r.length > 4064)) = false := by
  have hb : (opExpert r.opcode).toNat < 2 := Bool.toNat_lt _
  have hflags : r.flags = (opExpert r.opcode).toNat ↔ r.flags % 2 = (opExpert r.opcode).toNat ∧ r.flags / 2 = 0 := by omega
  simp only [HeaderOk, hflags, Bool.or_eq_false_iff, bne_eq_false_iff_eq, decide_eq_false_iff_not, Nat.not_lt, and_assoc]

theorem precheck_of_bad_header (hk : opKnown r.opcode s = true) (h : ¬ HeaderOk r) : precheck f r s = some Config.badValue := by
  rw [headerOk_iff, Bool.not_eq_false] at h
  simp only [precheck, hk, h, Bool.not_true, Bool.false_eq_true, if_false, if_true]

/-- The function may send the opcode for the partition that the request names (R455, checks 3 and 4). -/
def Permitted (f : Nat) (r : Req) (s : State) : Prop :=
  (f = 0 ∨ (r.part = funcPart f s ∧ opsPf.contains r.opcode = false)) ∧
  (opExpert r.opcode = false ∨ ((part? (funcPart f s) s).map Part.expert).getD false = true)

/-- Behind the header's checks, outside recovery, the sender's permissions decide, then its service state, the partition and the length. -/
theorem precheck_of_header (hrec : s.chip.recovery = false) (hk : opKnown r.opcode s = true) (hh : HeaderOk r) : precheck f r s =
    if f ≠ 0 ∧ (r.part ≠ funcPart f s ∨ opsPf.contains r.opcode = true) then some Config.notPermitted
    else if (opExpert r.opcode && !((part? (funcPart f s) s).map Part.expert).getD false) = true then some Config.notPermitted
    else if (func? f s).fstate = .disabled then some Config.wrongState
    else if (func? f s).fstate = .quiescing then some Config.quiescing
    else if r.opcode ≠ 0x2000 ∧ (!partLive r.part s) = true then some Config.wrongState
    else match opLength r.opcode with
      | some n => if r.length = n then none else some Config.badLength
      | none => none := by
  rw [headerOk_iff] at hh
  simp only [precheck, hk, hh, hrec, Bool.not_true, Bool.false_eq_true, if_false] <;> rfl

theorem precheck_of_not_permitted (hrec : s.chip.recovery = false) (hk : opKnown r.opcode s = true) (hh : HeaderOk r)
    (hp : ¬ Permitted f r s) : precheck f r s = some Config.notPermitted := by
  rw [precheck_of_header hrec hk hh]
  simp only [Permitted, not_and_or, not_or, Bool.not_eq_false, Bool.not_eq_true] at hp
  rcases hp with ⟨hf, hpart⟩ | ⟨hexpert, hmay⟩
  · exact if_pos ⟨hf, hpart⟩
  · rw [hexpert, hmay]
    exact ite_self (some Config.notPermitted)

theorem precheck_of_permitted (hrec : s.chip.recovery = false) (hk : opKnown r.opcode s = true) (hh : HeaderOk r) (hp : Permitted f r s) :
    precheck f r s =
    if (func? f s).fstate = .disabled then some Config.wrongState
    else if (func? f s).fstate = .quiescing then some Config.quiescing
    else if r.opcode ≠ 0x2000 ∧ (!partLive r.part s) = true then some Config.wrongState
    else match opLength r.opcode with
      | some n => if r.length = n then none else some Config.badLength
      | none => none := by
  obtain ⟨hpart, hexpert⟩ := hp
  rw [precheck_of_header hrec hk hh, if_neg, if_neg]
  · rcases hexpert with h | h <;> simp [h]
  · rintro ⟨hf, h⟩
    rcases hpart with h0 | ⟨hown, hany⟩
    · exact hf h0
    · exact h.elim (· hown) (fun h => Bool.false_ne_true (hany.symm.trans h))

/-- A request that fails a check is answered with its status, whatever its opcode's work is (R455). -/
theorem serve_of_precheck (h : Waits c op r s) (h2 : s.chip.recovery = true ∨ (proc? 2 s).pstate ≠ .switching)
    (hpre : precheck c.func r s = some st) (k : Req → State → Ans) :
    serve c op k s = replied c st Body.empty (begun c op s) := by
  obtain ⟨hphase, hreq, hop, hurgent, hcount, hhw⟩ := h
  have hu : (!c.urgent && urgentWaiting s) = false := by rcases hurgent with hu | hu <;> simp [hu]
  have hs : (!s.chip.recovery && (proc? 2 s).pstate == .switching) = false := by rcases h2 with h2 | h2 <;> simp [h2]
  simp only [boxOf] at hphase hreq
  simp only [serve, hphase, hreq, hop, hu, hhw, hs, hpre, Nat.not_le.mpr hcount, ne_eq, not_true_eq_false, decide_false, Bool.or_false,
    Bool.false_eq_true, if_false, begun, replied]

/-- Settles O49: each check is reached where those before it pass, and a status is answered before the opcode's work is looked at. -/
theorem requestChecksInOrder : Obligations.RequestChecksInOrder := by
  unfold Obligations.RequestChecksInOrder
  refine ⟨fun f r s hrec => ⟨precheck_of_unknown, fun hk => ⟨fun hbad => ?header, fun hflags hrsvd hpart hlen => ?rest⟩⟩, ?status, ?frame⟩
  case header =>
    refine precheck_of_bad_header hk ?_
    rintro ⟨hflags, hrsvd, hpart, hlen⟩
    rcases hbad with h | h | h | h
    · exact h hflags
    · simp [hrsvd] at h
    · omega
    · omega
  case rest =>
    have hh : HeaderOk r := ⟨hflags, hrsvd, hpart, hlen⟩
    refine ⟨fun h => precheck_of_not_permitted hrec hk hh ?denied, fun hsend hexpert => ?permitted⟩
    case denied =>
      rintro ⟨hpart, hexpert⟩
      rcases h with ⟨hf, hown⟩ | ⟨hf, hpf⟩ | ⟨he, hmay⟩
      · exact hpart.elim hf fun h => hown h.1
      · exact hpart.elim hf fun h => Bool.false_ne_true (h.2.symm.trans hpf)
      · exact hexpert.elim (fun h => Bool.false_ne_true (h.symm.trans he)) (fun h => Bool.false_ne_true (hmay.symm.trans h))
    case permitted =>
      rw [precheck_of_permitted hrec hk hh ⟨hsend, hexpert⟩]
      refine ⟨fun h => if_pos h, fun h => ?_, fun h => ?_⟩
      · rw [h]; rfl
      rw [h, if_neg (by decide), if_neg (by decide)]
      refine ⟨fun hop hlive => if_pos ⟨hop, by rw [hlive]; rfl⟩, fun hlive => ?_⟩
      rw [if_neg (by rcases hlive with h | h <;> simp [h])]
      cases opLength r.opcode with
      | none => simp
      | some n => simp
  case status =>
    intro i c op st r s hi hw h2 hpre
    exact comes_of_serve hi (serve_of_precheck hw h2 hpre)
  case frame => exact fun c op st s => ⟨_, _, rfl⟩

end Sys2Proof.Machine
end

section
/-! Resets that meet, what they leave, armed sources, and the reset opcodes (O54, O55, O56, O44). -/

namespace Sys2Proof.Machine

open Sys2Proof

variable {c : Call} {op bit a n f : Nat} {r : Req} {lvl : ResetLevel} {s t : State}

/-! ## The three reset states -/

theorem deepest_levelCode (a b : ResetLevel) : levelCode (deepest a (some b)) = min (levelCode a) (levelCode b) := by
  cases a <;> cases b <;> rfl

/-- Whatever level a reset asserts, the chip comes out of it asserted at that level and with nothing else in progress. -/
theorem doReset_chip (lvl : ResetLevel) (s : State) :
    (doReset lvl s).chip.asserted = some (deepest (deepest lvl s.chip.asserted) (s.chip.flushWait.map Prod.fst)) ∧
    (doReset lvl s).chip.blockRsts = [] ∧ (doReset lvl s).chip.soft = none ∧ (doReset lvl s).chip.flushWait = none ∧
    (doReset lvl s).chip.bootDone = false ∧ (doReset lvl s).mb = [] := by
  unfold doReset
  dsimp only
  generalize deepest (deepest lvl s.chip.asserted) (s.chip.flushWait.map Prod.fst) = l
  cases l <;> dsimp only <;> split_ifs <;> exact ⟨rfl, rfl, rfl, rfl, rfl, rfl⟩

theorem assertReset_of_done (h : faultFlush s = false ∨ bit ∉ [4, 5, 6, 8] ∨ s.chip.asserted ≠ none) :
    assertReset lvl bit s = { doReset lvl (setCause bit s) with
      chip := { (doReset lvl (setCause bit s)).chip with cause := s.chip.cause ||| 2 ^ bit } } := by
  refine if_neg ?_
  simp only [Bool.and_eq_true, List.contains_iff_mem, Option.isNone_iff_eq_none]
  rintro ⟨⟨hbit, hflush⟩, hnone⟩
  rcases h with h | h | h
  · exact Bool.false_ne_true (h.symm.trans hflush)
  · exact h hbit
  · exact h hnone

/-- Settles O55: a reset's level is the deepest named, and none of the three reset states has anything else in progress. -/
theorem deepestResetApplies : Obligations.DeepestResetApplies := by
  unfold Obligations.DeepestResetApplies
  refine ⟨fun a b => ⟨deepest_levelCode a b, rfl⟩, fun lvl s => ?_, fun lvl bit s h => ?_⟩
  · obtain ⟨hlvl, hblocks, hsoft, hwait, hboot, hmb⟩ := doReset_chip lvl s
    refine ⟨hlvl, hblocks, hsoft, hwait, hboot, fun m => ?_⟩
    rw [mbox?, hmb]
    rfl
  · rw [assertReset_of_done (.inr (.inr (Option.isSome_iff_ne_none.mp h)))]
    exact (doReset_chip lvl (setCause bit s)).1

/-! ## What a core reset leaves (R487) -/

/-- Memory of which a predicate picks the keys reads as before at a key that is picked. -/
theorem mrd_keepKeys {p : Nat → Bool} {k : Nat} (h : p k = true) (m : List Host.Cell) : mrd (keepKeys p m) k = mrd m k := by
  unfold mrd keepKeys
  congr 1
  induction m with
  | nil => rfl
  | cons e m ih =>
    obtain ⟨j, b⟩ := e
    by_cases hj : p j = true
    · rw [List.filter_cons_of_pos (p := fun c : Host.Cell => p c.1) hj, tget, tget, ih]
    · have hne : (j == k) = false := beq_eq_false_iff_ne.mpr fun e => hj (e ▸ h)
      rw [List.filter_cons_of_neg (p := fun c : Host.Cell => p c.1) hj, ih, tget, hne]
      rfl

theorem mrdN_keepKeys {p : Nat → Bool} {k : Nat} (h : ∀ i < n, p (k + i) = true) (m : List Host.Cell) :
    mrdN (keepKeys p m) k n = mrdN m k n := by
  induction n generalizing k with
  | zero => rfl
  | succ n ih =>
    have h0 : p k = true := h 0 (by omega)
    rw [mrdN, mrdN, mrd_keepKeys h0, ih fun i hi => ?_]
    rw [Nat.add_right_comm, Nat.add_assoc]
    exact h (i + 1) (by omega)

/-- A core reset leaves the bytes of a space whose keys it spares. -/
theorem rdMem_coreState {sp : Nat} (hsp : ∀ k, k / spaceSize = sp → keyCore k = true) (h : a + n ≤ spaceSize) :
    rdMem sp a n (coreState s) = rdMem sp a n s := by
  refine mrdN_keepKeys (fun i hi => hsp _ ?_) s.mem
  rw [mkey, Nat.add_assoc, Nat.mul_comm, Nat.mul_add_div (by decide), Nat.div_eq_of_lt (by omega), Nat.add_zero]

theorem tget_map_snd {α β : Type} (g : Nat → α → β) (tab : Tab α) (k : Nat) :
    tget (tab.map (fun e => (e.1, g e.1 e.2))) k = (tget tab k).map (g k) := by
  induction tab with
  | nil => rfl
  | cons e tab ih =>
    obtain ⟨j, x⟩ := e
    by_cases hj : j = k
    · subst hj; simp [tget]
    · simp [tget, hj, ih]

theorem func?_coreState (f : Nat) (s : State) : func? f (coreState s) = ((tget s.funcs f).map (keepFunc f)).getD (Func.fresh f) := by
  rw [← tget_map_snd]
  rfl

theorem func_coreState_disabled (h : 1 ≤ f) : (func? f (coreState s)).fstate = .disabled ∧ funcPart f (coreState s) = 0 := by
  have hfresh := Func.fresh_of_ne_zero (f := f) (by omega)
  rw [funcPart, func?_coreState]
  cases tget s.funcs f with
  | none => exact hfresh
  | some x => exact hfresh

theorem func_systemState_disabled (h : 1 ≤ f) : (func? f (systemState s)).fstate = .disabled ∧ funcPart f (systemState s) = 0 := by
  have e : func? f (systemState s) = Func.fresh f := func?_reset f
  rw [funcPart, e]
  exact Func.fresh_of_ne_zero (by omega)

theorem link?_coreState (n : Nat) (s : State) : link? n (coreState s) = ((tget s.jl.links n).map noRecal).getD Link.fresh := by
  rw [← tget_map_snd fun _ => noRecal]
  rfl

theorem gang?_coreState (g : Nat) (s : State) : gang? g (coreState s) = (gang? g s).map keepGang := tget_map_snd (fun _ => keepGang) _ g

/-- Every tag of every gang has ended silently. -/
theorem liveTag_coreState (g tag : Nat) (w : Bool) (s : State) : liveTag g tag w (coreState s) = none := by
  rw [liveTag, gang?_coreState]
  cases gang? g s with
  | none => rfl
  | some x =>
    have e : tget (keepGang x).tags tag = (tget x.tags tag).map endTag := tget_map_snd (fun _ => endTag) _ tag
    simp only [Option.map_some, Option.bind_some, e]
    cases tget x.tags tag <;> simp [endTag]

/-- A frame that a half in reset keeps for no one is dropped and counted (R487). -/
theorem execEthFrameRx_of_reset {node : Nat} {bs : List Byte} (hup : node ∈ s.pp.up) (hok : rxBad node bs s = false)
    (hreset : pipeInReset (nodeDie node) s = true) (found : FrameChecks) : execEthFrameRx node bs found s =
      .next (pcount (nodeDie node) 1 1 (nodeCount node 5 1 (nodeCount node 1 bs.length (nodeCount node 0 1 s)))) := by
  simp [execEthFrameRx, hup, hok, hreset]

/-- Settles O54: every field is read off the two reset states; what a core reset keeps is spared by its tables' maps and its keys. -/
theorem resetLeavesPartitionZero : Obligations.ResetLeavesPartitionZero := by
  unfold Obligations.ResetLeavesPartitionZero
  refine ⟨?objects, fun s a n h => ⟨?gddr, ?cxl⟩, ?links, fun s g tag w => liveTag_coreState g tag w s, ?frames⟩
  case objects =>
    rintro s t (rfl | rfl)
    · exact ⟨rfl, fun f h _ => func_systemState_disabled h, rfl, rfl, rfl, rfl, rfl⟩
    · exact ⟨rfl, fun f h _ => func_coreState_disabled h, rfl, rfl, rfl, rfl, rfl⟩
  case gddr => exact rdMem_coreState (fun k hk => by simp [keyCore, hk]) h
  case cxl => exact rdMem_coreState (fun k hk => by simp [keyCore, hk]) h
  case links =>
    intro s n
    rw [link?_coreState, link?, tgetD]
    cases tget s.jl.links n <;> exact ⟨rfl, rfl⟩
  case frames =>
    intro node bs miss ecc s hcore hup hok
    exact execEthFrameRx_of_reset hup hok (by simp [pipeInReset, hcore]) _

/-! ## Armed and unarmed sources (R489, R490) -/

theorem faultSource_of_unarmed (h : armed bit s = false) : faultSource bit s = stopDevice (setCause bit s) := by
  simp only [faultSource, h, Bool.false_eq_true, if_false, unarmedFault]

theorem faultSource_of_armed (h : armed bit s = true) : faultSource bit s = assertReset .system bit s := if_pos h

/-- A flush starts, or joins the one that runs; nothing else changes. -/
theorem startFlush_eq (k : Nat) (s : State) : ∃ e, startFlush k s = { s with ev := e } ∧
    (s.ev.flush = .none → s.ev.held = false → e = { s.ev with flush := .fault k }) := by
  cases hf : s.ev.flush with
  | none =>
    cases hh : s.ev.held with
    | false => exact ⟨_, by simp [startFlush, hf, hh], fun _ _ => rfl⟩
    | true => exact ⟨s.ev, by simp [startFlush, hf, hh], by simp⟩
  | _ => exact ⟨s.ev, by simp [startFlush, hf], by simp⟩

/-- Settles O56: in either mode the armed bits are those of Table 17-2, and an unarmed source's effects are read off what it does. -/
theorem armedSources : Obligations.ArmedSources := by
  unfold Obligations.ArmedSources
  refine ⟨fun s => ⟨fun hmode bit _ => ?standalone, fun hmode bit _ => ?fabric⟩, ?unarmed, ?reset, ?debug⟩
  case standalone => simp [armed, fabric, hmode, or_assoc]
  case fabric => simp [armed, fabric, hmode]
  case unarmed =>
    rintro bit s t - harmed rfl
    rw [faultSource_of_unarmed harmed, stopDevice]
    obtain ⟨e, he, hflush⟩ := startFlush_eq 1 { setCause bit s with
      fw := { s.fw with procs := s.fw.procs.map (fun (e : Nat × Proc) => (e.1, stopProc e.2)) } }
    rw [setCause_fw, he]
    refine ⟨rfl, fun x hx => ?_, hflush, rfl, rfl, rfl, rfl, rfl, rfl, rfl, ?_⟩
    · obtain ⟨y, -, rfl⟩ := List.mem_map.mp hx
      rfl
    · exact List.append_assoc _ _ _
  case reset =>
    intro c r s h hl harmed
    refine congrArg Host.Outcome.next ?_
    rw [serve_of_serves h]
    have hl' : ¬ ((r.payload.getD 0 0).toNat ≠ 1 ∧ (r.payload.getD 0 0).toNat ≠ 2) := by omega
    have ha : armed 5 (begun c 0x1020 s) = false := harmed
    simp only [hl', ha, if_false, Bool.not_false, if_true]
  case debug =>
    intro l s h
    exact congrArg Host.Outcome.next (if_neg (by rw [h]; decide))

/-! ## Block resets (R493, R496) -/

theorem execBlockIdle_of_found {kind i : Nat} {b : BlockRst} (late : Bool)
    (hb : s.chip.blockRsts.find? (fun b => b.kind == kind && b.index == i) = some b) :
    execBlockIdle kind i late s = .next (settle (kickJobs (finish b.mb Config.ok Body.empty (rstCount 1 1 { resetBlock kind i s with
      chip := { (resetBlock kind i s).chip with
        blockRsts := (resetBlock kind i s).chip.blockRsts.filter (fun x => !(x.kind == kind && x.index == i)) } })))) := by
  simp only [execBlockIdle, hb, done]

theorem execSoftResetFire_of_answered (hl : s.chip.soft = some lvl) (ha : resetUnanswered s = false) :
    execSoftResetFire s = .next (assertReset lvl 5 { s with chip := { s.chip with soft := none } }) := by
  simp only [execSoftResetFire, hl, ha, Bool.false_eq_true, if_false]

/-- Settles O44: each source asserts its level or stops the device by whether it is armed; the opcodes pass their checks and their effect
is left. -/
theorem resetsComplete : Obligations.ResetsComplete := by
  unfold Obligations.ResetsComplete
  refine ⟨fun s => ⟨rfl, rfl, rfl, rfl⟩, fun s => ⟨fun h => ?_, fun h => ?_⟩, ?brownOut, fun lvl s => ⟨fun h => ?_, fun h => ?_⟩, ?clock,
    fun lvl bit s h => assertReset_of_done h, ?deviceReset, fun l s hl ha => execSoftResetFire_of_answered hl ha, ?readReset, ?blockReset,
    ?blockIdle⟩
  · exact congrArg Host.Outcome.next (faultSource_of_armed h)
  · exact congrArg Host.Outcome.next (faultSource_of_unarmed h)
  case brownOut =>
    intro rail s hrail hnew
    have e : exec (.brownOut rail) s = execBrownOut rail s := rfl
    have hnew' : s.chip.lowRails.contains rail = false := by simpa using hnew
    rw [e, execBrownOut, if_neg hrail, hnew', if_neg Bool.false_ne_true]
  · exact congrArg Host.Outcome.next (if_pos h)
  · exact congrArg Host.Outcome.next (if_neg (by rw [h]; decide))
  case clock =>
    intro s
    have e : exec (.clockFailure .unlock) s = execClockFailure .unlock s := rfl
    simp [e, execClockFailure]
  case deviceReset =>
    intro c l r s h hpay hl harmed
    refine congrArg Host.Outcome.next (serve_ok h ?_)
    have hl' : ¬ (l ≠ 1 ∧ l ≠ 2) := by omega
    have ha : armed 5 (begun c 0x1020 s) = true := harmed
    simp only [hpay, hl', ha, if_false, Bool.not_true, Bool.false_eq_true, chip_begun]
  case readReset => exact fun c cursor r s h hc => ⟨_, congrArg _ (serveRead_of_serves h hc _), rfl⟩
  case blockReset =>
    rintro c kind i tmo r s h rfl rfl rfl hi hzero htmo hnew hstaged hallowed
    refine congrArg Host.Outcome.next (serve_later h ?_)
    have ht : (u r.payload 4 4 != 0 && decide (u r.payload 4 4 < 10 ∨ u r.payload 4 4 > 10000)) = false := by
      rcases htmo with h0 | h1
      · simp [h0]
      · simp; omega
    have hs : blockStaged (u r.payload 0 1) (begun c 0x1870 s) = false := hstaged
    have ha : blockAllowed (u r.payload 0 1) (u r.payload 1 1) (begun c 0x1870 s) = true := hallowed
    simp only [Nat.not_le.mpr hi, hzero, ht, hs, ha, chip_begun, hnew, callRef_begun, bne_self_eq_false, decide_false, Bool.or_false,
      Bool.not_true, Bool.false_eq_true, if_false]
  case blockIdle =>
    rintro kind i late b s t hb rfl
    exact execBlockIdle_of_found late hb

end Sys2Proof.Machine
end

section
/-! Power, temperature, wear and the I3C port (O46). -/

namespace Sys2Proof.Machine

open Sys2Proof

variable {c : Call} {op : Nat} {s : State}

@[simp] theorem pm_begun : (begun c op s).pm = s.pm := rfl

theorem exec_controlPeriod_of_core (h : governor s = false) : exec .controlPeriod s = .next (settle (releaseThrottle
    (if (beginSwitch 1 s).pm.pstate > allowedState (beginSwitch 1 s) then wakeUp (beginSwitch 1 s)
     else if entryDue (beginSwitch 1 s) = true then attemptEntry (beginSwitch 1 s) else beginSwitch 1 s))) := by
  have e : exec .controlPeriod s = execControlPeriod s := rfl
  simp only [e, execControlPeriod, h, Bool.false_eq_true, if_false, done]

/-- A wake that meets no entry in progress brings a device that sleeps, or that an access waits for, to P0 (R507). -/
theorem exec_wake_of_asleep (h : s.pm.pstate ≠ 0 ∨ s.pm.waking = true) :
    exec (.wake false) s = .next (settle (kickStreams (wakeUp s))) := by
  have e : exec (.wake false) s = execWake false s := rfl
  rw [e, execWake]
  exact congrArg done (if_pos (by rcases h with h | h <;> simp [h]))

theorem exec_emergencyClear_of_over (he : s.pm.emerg = true) (hl : s.pm.limits = []) (hg : governor s = false) (hp : s.chip.pwrFail = false) :
    exec .emergencyClear s = .next (event 0x0284 0 1 0xFF [] { s with
      pm := { s.pm with emerg := false }, fw := { s.fw with procs := s.fw.procs.map (fun (e : Nat × Proc) => (e.1, undefer e.2)) } }) :=
  if_pos ⟨he, hl, hg, hp⟩

/-- Wear below 80 % of the budget is charged without an event (R514). -/
theorem exec_wearCharge_of_low (h : s.pm.wear + wearUnits s.pm.hottest.1 < 57600000) :
    exec .wearCharge s = .next { s with pm := { s.pm with wear := s.pm.wear + wearUnits s.pm.hottest.1 } } := by
  have e : exec .wearCharge s = execWearCharge s := rfl
  have hmod : (s.pm.wear + wearUnits s.pm.hottest.1) % 2 ^ 64 = s.pm.wear + wearUnits s.pm.hottest.1 := Nat.mod_eq_of_lt (by omega)
  have hwarn : ¬ wearBudget * 8 / 10 ≤ s.pm.wear + wearUnits s.pm.hottest.1 := by simp only [wearBudget]; omega
  have hend : ¬ wearBudget ≤ s.pm.wear + wearUnits s.pm.hottest.1 := by simp only [wearBudget]; omega
  simp only [e, execWearCharge, hmod, hwarn, hend, decide_false, Bool.and_false, Bool.false_eq_true, if_false]
  rfl

/-- Settles O46: each opcode's range check passes and its one value is left; each event meets the condition of its effect. -/
theorem powerComplete : Obligations.PowerComplete := by
  unfold Obligations.PowerComplete
  refine ⟨?latency, ?limit, ?thermal, ?pstate, ?readPower, ?control, fun s h => exec_wake_of_asleep h, fun mW tileMw s => rfl, ?sample,
    fun s he hl hg hp => exec_emergencyClear_of_over he hl hg hp, ?wear, fun s => rfl, ?i3c, ?nack⟩
  case latency => exact fun c us r s h hus => congrArg Host.Outcome.next (serve_ok h (if_pos hus))
  case limit => exact fun c w r s h hlow hhigh => congrArg Host.Outcome.next (serve_ok h (if_neg (by omega)))
  case thermal => exact fun c t r s h hlow hhigh => congrArg Host.Outcome.next (serve_ok h (if_neg (by omega)))
  case pstate => exact fun c p r s h hp => congrArg Host.Outcome.next (serve_ok h (if_neg (by omega)))
  case readPower => exact fun c cursor r s h hc => ⟨_, congrArg _ (serveRead_of_serves h hc _), by simp⟩
  case control =>
    rintro s t hg rfl
    rw [exec_controlPeriod_of_core hg]
    refine ⟨fun h => ?_, fun h hdue => ?_, fun h hdue => ?_⟩
    · rw [if_pos h]
    · rw [if_neg (Nat.not_lt.mpr h), if_pos hdue]
    · rw [if_neg (Nat.not_lt.mpr h), hdue, if_neg Bool.false_ne_true]
  case sample =>
    rintro temps steps s t rfl
    exact ⟨fun h => congrArg Host.Outcome.next (if_neg (Nat.not_le.mpr h)), fun h => congrArg Host.Outcome.next (if_pos h)⟩
  case wear =>
    rintro n s rfl hn
    exact exec_wearCharge_of_low hn
  case i3c =>
    intro a b o r s ha hm hr
    have e : exec (.i3cRead a) s = execI3cRead a s := rfl
    simp only [e, execI3cRead, ha, if_false, hm, hr, Option.map_some]
  case nack =>
    intro a s ha hm
    have e : exec (.i3cRead a) s = execI3cRead a s := rfl
    simp only [e, execI3cRead, ha, if_false, hm]

end Sys2Proof.Machine
end

section
/-! Ports and rules of the packet pipeline (O26). -/

namespace Sys2Proof.Machine

open Sys2Proof

variable {c : Call} {op n : Nat} {s : State}

/-! ## What the checks read is the same in the state in which the work starts -/

@[simp] theorem pp_begun : (begun c op s).pp = s.pp := rfl

@[simp] theorem port?_begun : port? n (begun c op s) = port? n s := rfl

@[simp] theorem sharedBytes_begun : sharedBytes (begun c op s) = sharedBytes s := rfl

@[simp] theorem rulesStaged_begun : rulesStaged (begun c op s) = rulesStaged s := rfl

@[simp] theorem residentRules_begun : residentRules (begun c op s) = residentRules s := rfl

@[simp] theorem openStaged_begun (empty : Bool) : openStaged empty (begun c op s) = openStaged empty s := rfl

/-! ## The statement -/

theorem execPortLinkState_of_enabled {node : Nat} (up : Bool) (hn : nodeExists node s = true)
    (hp : (port? (nodePort node) s).enable = true) (ht : s.pm.tripped = false) : execPortLinkState node up s =
      .next (modPipe (fun p => { p with up := (p.up.filter (· != node)) ++ (if up then [node] else []) }) s) := by
  simp only [execPortLinkState, hn, hp, ht, Bool.not_true, Bool.or_self, Bool.false_eq_true, if_false]

/-- Settles O26: each command's checks pass and its effect is left; the readbacks answer from the eight ports and from the rule sets. -/
theorem portsAndRulesComplete : Obligations.PortsAndRulesComplete := by
  unfold Obligations.PortsAndRulesComplete
  refine ⟨?readPorts, ?setPort, fun node up s hn hp ht => execPortLinkState_of_enabled up hn hp ht, ?write, ?commit, ?discard, ?readRules⟩
  case readPorts =>
    intro c cursor r s h hc
    refine ⟨_, congrArg _ (serveRead_of_serves h hc _), ?_⟩
    rw [List.length_map, List.length_range]
  case setPort =>
    intro c port p r s h hok hmode hreserve
    refine congrArg Host.Outcome.next (serve_ok h ?_)
    have hroom : ¬ p.reserveKiB * 1024 > (port? port s).reserveKiB * 1024 + sharedBytes s := by omega
    rw [port?_begun, sharedBytes_begun, hok, if_neg (by decide), if_neg fun h => h.1 hmode, if_neg hroom]
  case write =>
    intro c edits conn u0 u1 empty r s h hbad hstaged hroom
    refine congrArg Host.Outcome.next (serve_ok h ?_)
    simp only [hbad, rulesStaged_begun, hstaged, residentRules_begun, openStaged_begun, Nat.not_lt.mpr hroom, Bool.false_eq_true, if_false]
  case commit =>
    intro c r s h hset hstaged hretiring
    refine congrArg Host.Outcome.next (serve_later h ?_)
    have hnone : s.pp.staged.isNone = false := by simpa using hset
    simp only [pp_begun, hnone, rulesStaged_begun, hstaged, Nat.not_le.mpr hretiring, decide_false, Bool.or_self, Bool.false_eq_true,
      if_false, callRef_begun]
  case discard =>
    intro c r s h hset hstaged
    refine congrArg Host.Outcome.next (serve_ok h ?_)
    have hnone : s.pp.staged.isNone = false := by simpa using hset
    simp only [pp_begun, hnone, rulesStaged_begun, hstaged, Bool.false_eq_true, if_false]
  case readRules => exact fun c cursor r s h hc => congrArg Host.Outcome.next (serveRead_of_serves h hc _)

end Sys2Proof.Machine
end

section
/-! The scheduler, the meters and the gates (O27). -/

namespace Sys2Proof.Machine

open Sys2Proof

variable {c : Call} {op part k n : Nat} {s : State}

/-! ## What the checks read is the same in the state in which the work starts -/

@[simp] theorem sched?_begun : sched? k (begun c op s) = sched? k s := rfl

@[simp] theorem gate?_begun : gate? n (begun c op s) = gate? n s := rfl

@[simp] theorem gtimeNs_begun : gtimeNs (begun c op s) = gtimeNs s := rfl

@[simp] theorem meterOk_begun (die : Nat) (p : MeterSet) : meterOk die n p (begun c op s) = meterOk die n p s := rfl

@[simp] theorem maySet_begun (d : Call) : maySet d part k n (begun c op s) = maySet d part k n s := rfl

@[simp] theorem mayHang_begun (d : Call) (p : SchedSet) : mayHang d part k p (begun c op s) = mayHang d part k p s := rfl

@[simp] theorem schedFixed_begun (d : Call) : schedFixed d (begun c op s) = schedFixed d s := rfl

/-! ## Staged settings (R338, R341, R342) -/

/-- Settings in range, of an object that the caller may set and hang where it does, are staged where none are. -/
theorem setSched_of_checked {p : SchedSet} (hn : n < levelCount k) (hok : schedOk p = true) (hparent : parentOk k p = true)
    (hset : maySet c part k n s = true) (hhang : mayHang c part k p s = true) (hnext : (sched? (schedKey k n) s).next = none) :
    setSched c part k n p s = .ok (modSched (schedKey k n) (fun o => { o with next := some p }) s) Body.empty := by
  simp [setSched, Nat.not_le.mpr hn, hok, hparent, hset, hhang, hnext]

/-- Settles O27: each command's checks pass and its settings are staged; the readbacks answer a row for each object. Staging is answered
OK (log 94), and a meter that nothing had set waits apart (log 95). -/
theorem schedulerCommandsComplete : Obligations.SchedulerCommandsComplete := by
  unfold Obligations.SchedulerCommandsComplete
  refine ⟨?setTxq, ?setNode, ?setTxGrant, ?readSched, ?setMeter, ?readMeters, ?setTimetable, ?readTimetable, ?setGateClock, ?readGateClock⟩
  case setTxq =>
    intro c q p r s h hq hok hparent hset hhang hnext
    exact congrArg Host.Outcome.next (serve_ok h (setSched_of_checked hq hok hparent hset hhang hnext))
  case setNode =>
    intro c k n p r s h hk hf hn hok hparent hnext
    refine congrArg Host.Outcome.next (serve_ok h ?_)
    rw [if_neg (Nat.not_lt.mpr hk), if_neg fun h => h.2 hf]
    exact setSched_of_checked hn hok hparent (by simp [maySet, hf]) (by simp [mayHang, hf]) hnext
  case setTxGrant =>
    intro c g cl cn ql qn r s h hg hc hq
    exact congrArg Host.Outcome.next (serve_ok h (if_neg (by omega)))
  case readSched =>
    intro c cursor r s h hc
    refine ⟨_, congrArg _ (serveRead_of_serves h hc _), fun hf => ?_⟩
    rw [map_headD_rows _ _ fun _ => rfl, List.filter_eq_self.mpr fun _ _ => by simp [hf]]
    rfl
  case setMeter =>
    intro c die n p r s h hok
    refine ⟨fun m hm hnext => congrArg Host.Outcome.next (serve_ok h ?_), fun hm hnew => congrArg Host.Outcome.next (serve_ok h ?_)⟩
    · simp only [meterOk_begun, hok, pp_begun, hm, hnext, Option.isSome_none, Bool.not_true, Bool.false_eq_true, if_false]
    · simp only [meterOk_begun, hok, pp_begun, hm, hnew, Option.isSome_none, Bool.not_true, Bool.false_eq_true, if_false]
  case readMeters =>
    intro c cursor r s h hc
    refine ⟨_, congrArg _ (serveRead_of_serves h hc _), ?_⟩
    rw [List.length_append, List.length_map, List.length_map, pp_begun]
  case setTimetable =>
    intro c port tt r s h hport hok hstaged
    refine congrArg Host.Outcome.next (serve_ok h ?_)
    simp only [hok, Nat.not_le.mpr hport, gate?_begun, hstaged, gtimeNs_begun, Option.isSome_none, Bool.not_true, Bool.false_eq_true,
      or_self, if_false]
  case readTimetable =>
    intro c cursor r s h hc
    refine ⟨_, congrArg _ (serveRead_of_serves h hc _), ?_⟩
    rw [List.length_map, List.length_range]
  case setGateClock =>
    intro c incr step r s h hlow hhigh hstep
    exact congrArg Host.Outcome.next (serve_ok h (if_neg (by omega)))
  case readGateClock => exact fun c cursor r s h hc => congrArg Host.Outcome.next (serveRead_of_serves h hc _)

end Sys2Proof.Machine
end

section
/-! Histograms, report cards, rings and the refill interval (O28). -/

namespace Sys2Proof.Machine

open Sys2Proof

variable {c : Call} {op f part : Nat} {s : State}

/-! ## What the checks read is the same in the state in which the work starts -/

@[simp] theorem cardOk_begun (d : Call) (p : CardSet) : cardOk d part p (begun c op s) = cardOk d part p s := rfl

@[simp] theorem cardHists_begun : cardHists f (begun c op s) = cardHists f s := rfl

@[simp] theorem ringsBusy_begun : ringsBusy (begun c op s) = ringsBusy s := rfl

@[simp] theorem refillStaged_begun : refillStaged (begun c op s) = refillStaged s := rfl

/-! ## The statement -/

/-- Settles O28: each command's checks pass and its effect is left; the readbacks answer a row for each sampled queue and card. -/
theorem pipelineReportsComplete : Obligations.PipelineReportsComplete := by
  unfold Obligations.PipelineReportsComplete
  refine ⟨?setHistogram, ?readHistogram, ?setCard, ?takeCard, ?readCard, ?setPunt, ?setRefill, ?period⟩
  case setHistogram =>
    intro c lo n k on r s h hn hlo hk hf hroom
    refine congrArg Host.Outcome.next (serve_ok h ?_)
    rw [if_neg (by omega), if_neg fun h => h.1 hf]
    exact if_neg (Nat.not_lt.mpr hroom)
  case readHistogram =>
    exact fun c cursor r s h hc => ⟨_, congrArg _ (serveRead_of_serves h hc _), map_headD_rows _ _ fun _ => rfl⟩
  case setCard =>
    intro c p r s h hok hstalled
    refine congrArg Host.Outcome.next (serve_ok h ?_)
    simp only [cardOk_begun, hok, pp_begun, hstalled, Bool.not_true, Bool.false_eq_true, if_false]
  case takeCard =>
    intro c k r s h hk
    refine congrArg done (serve_ok h (if_neg ?_))
    rw [pp_begun, hk]
    exact Bool.false_ne_true
  case readCard =>
    exact fun c cursor r s h hc => ⟨_, congrArg _ (serveRead_of_serves h hc _), map_headD_rows _ _ fun _ => rfl⟩
  case setPunt =>
    intro c p r s h hok hbusy
    refine congrArg Host.Outcome.next (serve_ok h ?_)
    simp only [hok, ringsBusy_begun, hbusy, Bool.not_true, Bool.false_and, Bool.or_self, Bool.false_eq_true, if_false]
  case setRefill =>
    intro c n r s h hlow hhigh hstaged
    refine congrArg Host.Outcome.next (serve_later h ?_)
    rw [if_neg (by omega), refillStaged_begun, hstaged, callRef_begun]
    rfl
  case period =>
    intro f k s hk hperiod
    have e : exec (.reportCardPeriod f) s = execReportCardPeriod f s := rfl
    simp only [e, execReportCardPeriod, hk, hperiod, if_false, done]

end Sys2Proof.Machine
end

section
/-! Frames and events of the packet pipeline (O29). -/

namespace Sys2Proof.Machine

open Sys2Proof

variable {node : Nat} {bytes : List Byte} {s : State}

/-- A frame that R322 keeps and for which there is room is stored. -/
theorem execEthFrameRx_of_stored {room : Room} (hup : node ∈ s.pp.up) (hok : rxBad node bytes s = false)
    (hreset : pipeInReset (nodeDie node) s = false)
    (hroom : findRoom (nodePort node) bytes.length (nodeCount node 1 bytes.length (nodeCount node 0 1 s)) = some room) (found : FrameChecks) :
    execEthFrameRx node bytes found s = .next (settle (storedFrame node bytes room found.miss found.ecc
      (takeRoom room (nodeCount node 1 bytes.length (nodeCount node 0 1 s))))) := by
  simp only [execEthFrameRx, List.contains_iff_mem.mpr hup, hok, hreset, hroom, Bool.not_true, Bool.false_eq_true, if_false, done]

/-- A frame that R322 drops is counted. -/
theorem execEthFrameRx_of_bad (hup : node ∈ s.pp.up) (hbad : rxBad node bytes s = true) (hpause : isPause bytes = false)
    (found : FrameChecks) : execEthFrameRx node bytes found s = .next (pcount (nodeDie node) 0 1 (nodeCount node 4 1
      (nodeCount node 1 bytes.length (nodeCount node 0 1 s)))) := by
  simp only [execEthFrameRx, List.contains_iff_mem.mpr hup, hbad, hpause, Bool.not_true, Bool.false_eq_true, if_false, if_true]

/-- The queue that a path of the scheduler ends at. -/
def pathQueue (ks : List Nat) : Nat := ks.getLast?.getD 0x10000 - 0x10000

/-- The head of the selected queue is read, and then sent or dropped. -/
theorem execTxFrameSelect_of_head {found : FrameChecks} {ks : List Nat} {f : TxFrame} {rest : List TxFrame} {bad : Bool} {t v : State}
    (hup : node ∈ s.pp.up) (hpath : pickPath node 4 node s = some (ks, t))
    (hhead : (sched? (0x10000 + pathQueue ks) t).frames = f :: rest)
    (hread : (if f.room.isSome then bufferFindings found.ecc t else (false, t)) = (bad, v)) :
    execTxFrameSelect node found s = .next (settle (kickStreams
      (if bad then dropTxFrame (nodeDie node) (pathQueue ks) f rest v
       else chargePath ks f.bytes.length (sendTxFrame node (pathQueue ks) f rest v)))) := by
  unfold pathQueue at hhead ⊢
  simp only [execTxFrameSelect, List.contains_iff_mem.mpr hup, hpath, hhead, hread, Bool.not_true, Bool.false_eq_true, if_false, done]
  cases bad <;> rfl

/-- Settles O29: a frame is kept or dropped by R322 and by what is found in its buffer lines (log 144); the other events have one effect. -/
theorem framesComplete : Obligations.FramesComplete := by
  unfold Obligations.FramesComplete
  refine ⟨?kept, fun node bytes miss ecc s hup hbad hpause => execEthFrameRx_of_bad hup hbad hpause _, ?select, fun die i s => rfl, ?refill,
    fun port s => rfl⟩
  case kept =>
    intro node bytes miss ecc room bad s t hup hok hreset hroom hread
    have e : exec (.ethFrameRx node bytes ⟨miss, ecc⟩) s = _ := execEthFrameRx_of_stored hup hok hreset hroom ⟨miss, ecc⟩
    simp only [e, storedFrame, hread]
    exact ⟨fun hb => by rw [hb]; rfl, fun hb => by rw [hb]; rfl⟩
  case select =>
    intro node miss ecc ks f rest bad s t v hup hpath hhead hread
    have e : exec (.txFrameSelect node ⟨miss, ecc⟩) s = _ := execTxFrameSelect_of_head (found := ⟨miss, ecc⟩) hup hpath hhead hread
    rw [e]
    exact ⟨fun hb => by rw [hb]; rfl, fun hb => by rw [hb]; rfl⟩
  case refill =>
    intro s hn
    exact congrArg (fun t => done (kickStreams t)) (if_neg hn)

end Sys2Proof.Machine
end

section
/-! Connections, namespaces and settings of the block storage function (O30, O31). -/

namespace Sys2Proof.Machine

open Sys2Proof

variable {c : Call} {op part n f h : Nat} {s : State}

/-! ## What the checks read is the same in the state in which the work starts -/

@[simp] theorem sb_begun : (begun c op s).sb = s.sb := rfl

@[simp] theorem conn?_begun : conn? n (begun c op s) = conn? n s := rfl

@[simp] theorem ns?_begun : ns? h (begun c op s) = ns? h s := rfl

@[simp] theorem nsPart_begun (x : Ns) : nsPart x (begun c op s) = nsPart x s := rfl

@[simp] theorem nssOf_begun : nssOf part (begun c op s) = nssOf part s := rfl

@[simp] theorem funcPart_begun : funcPart f (begun c op s) = funcPart f s := rfl

@[simp] theorem sbFunc_begun : sbFunc f (begun c op s) = sbFunc f s := rfl

@[simp] theorem connSetOk_begun (p : ConnSet) : connSetOk part p (begun c op s) = connSetOk part p s := rfl

@[simp] theorem cacheOk_begun (base size : Nat) : cacheOk part base size (begun c op s) = cacheOk part base size s := rfl

/-! ## The statements -/

/-- Settles O30: each command's checks pass and its effect is left. A connection and a namespace take the lowest free number (log 9); the
queue pairs come up with the parameters of log 101. -/
theorem namespacesComplete : Obligations.NamespacesComplete := by
  unfold Obligations.NamespacesComplete
  refine ⟨?connect, ?disconnect, ?create, ?destroy, ?attach, ?detach, ?setCache⟩
  case connect =>
    intro c p m n qs r s u h hok hfree hqps
    refine congrArg done (serve_ok h ?_)
    simp only [connSetOk_begun, hok, sb_begun, hfree, hqps, Bool.not_true, Bool.false_eq_true, if_false]
  case disconnect =>
    intro c n k r s h hk hunused
    refine congrArg done (serve_ok h ?_)
    have hnone : s.sb.nss.any (fun e => e.2.conn == n) = false :=
      List.any_eq_false.mpr fun e he => by simpa using hunused e he
    simp only [conn?_begun, hk, sb_begun, hnone, Bool.false_eq_true, if_false]
  case create =>
    intro c conn nsid h nonatomic x k r s hs hk hon hsize hatomic hroom hfree
    refine congrArg Host.Outcome.next (serve_ok hs ?_)
    have hblock : ¬ (x.blockSize ≠ 512 ∧ x.blockSize ≠ 4096) := by omega
    have hwrites : (!atomicOk x && !nonatomic) = false := by rcases hatomic with h | h <;> simp [h]
    simp only [conn?_begun, hk, hon, hblock, hwrites, nssOf_begun, part?_begun, Nat.not_le.mpr hroom, sb_begun, hfree, Bool.not_true,
      Bool.false_eq_true, if_false]
  case destroy =>
    intro c h n r s hs hn hunused
    refine congrArg Host.Outcome.next (serve_ok hs ?_)
    simp only [ns?_begun, hn, hunused, List.isEmpty_nil, Bool.not_true, Bool.false_eq_true, if_false]
  case attach =>
    intro c h f n r s hs hn hf hpart hnew hroom
    refine congrArg Host.Outcome.next (serve_ok hs ?_)
    have hsame : ¬ (f ≥ 256 ∨ nsPart n s ≠ some (funcPart f s)) := not_or.mpr ⟨Nat.not_le.mpr hf, not_not.mpr hpart⟩
    have hcontains : n.attached.contains f = false := by simpa using hnew
    simp only [ns?_begun, hn, nsPart_begun, funcPart_begun, hsame, hcontains, sb_begun, Nat.not_le.mpr hroom, Bool.false_eq_true, if_false]
  case detach =>
    intro c h f n r s hs hn hmem hidle
    refine congrArg Host.Outcome.next (serve_ok hs ?_)
    simp only [ns?_begun, hn, List.contains_iff_mem.mpr hmem, sb_begun, hidle, Bool.not_true, Bool.false_eq_true, if_false]
  case setCache =>
    intro c h base size n r s hs hn hrange hidle
    refine congrArg Host.Outcome.next (serve_ok hs ?_)
    have hok : ¬ (size ≠ 0 ∧ (!cacheOk ((nsPart n s).getD 64) base size s) = true) := by
      rintro ⟨hsize, hbad⟩
      rcases hrange with h0 | hc
      · exact hsize h0
      · simp [hc] at hbad
    simp only [ns?_begun, hn, nsPart_begun, cacheOk_begun, hok, sb_begun, hidle, Bool.false_eq_true, if_false]

/-- A function's settings are changed by the physical function and by itself. -/
theorem not_foreign {f : Nat} (h : c.func = 0 ∨ f = c.func) : ¬ (c.func ≠ 0 ∧ f ≠ c.func) := by omega

/-- Settles O31: each command's range checks pass and its one setting is left; the readbacks hold the mode's row and the log's entries. -/
theorem storageSettingsComplete : Obligations.StorageSettingsComplete := by
  unfold Obligations.StorageSettingsComplete
  refine ⟨?restart, ?power, ?classLimit, ?arb, ?mode, ?readStorage, ?readErrlog⟩
  case restart =>
    intro c f q r s h hf hown hfrozen hseq
    refine congrArg Host.Outcome.next (serve_ok h ?_)
    simp only [Nat.not_le.mpr hf, not_foreign hown, sbFunc_begun, hfrozen, hseq, Bool.not_true, bne_self_eq_false, Bool.or_self,
      Bool.false_eq_true, if_false]
  case power =>
    intro c f d us r s h hf hown hd hus
    refine congrArg Host.Outcome.next (serve_ok h ?_)
    have hok : ¬ (f ≥ 256 ∨ d > 3 ∨ (!idleOk us) = true) := by simp [hus]; omega
    simp only [hok, not_foreign hown, if_false]
  case classLimit => exact fun c cls r s h hcls => congrArg Host.Outcome.next (serve_ok h (if_neg (Nat.not_lt.mpr hcls)))
  case arb =>
    intro c h m l r s hs hw
    refine congrArg Host.Outcome.next (serve_ok hs (if_pos (List.all_eq_true.mpr fun w hmem => ?_)))
    exact decide_eq_true (hw w hmem)
  case mode =>
    intro c serial r s h hserial hidle
    refine congrArg Host.Outcome.next (serve_ok h ?_)
    simp only [sb_begun, hserial, hidle, Option.isSome_none, Bool.or_self, Bool.false_eq_true, if_false]
  case readStorage => exact fun c cursor r s h hc => ⟨_, congrArg _ (serveRead_of_serves h hc _), by simp⟩
  case readErrlog =>
    intro c cursor r s h hc
    refine ⟨_, congrArg _ (serveRead_of_serves h hc _), ?_⟩
    rw [List.length_cons, List.length_map, List.length_reverse, sbFunc_begun]

end Sys2Proof.Machine
end

section
/-! A storage connection at work, and the packets of the serial mode (O32, O33). -/

namespace Sys2Proof.Machine

open Sys2Proof

variable {n f k : Nat} {c : Conn} {bs : List Byte} {s t : State}

/-! ## Events of a connection (R353, R358, R360, R368) -/

theorem execStoragePick_of_pick {d : Conn} (hn : n < 256) (hc : conn? n s = some c) (hpick : pick n c s = some (k, d)) :
    execStoragePick n s =
      .next (settle (startTask k (modConn n (fun _ => { d with released := d.released && decide (k < serialKey) }) s))) := by
  simp only [execStoragePick, Nat.not_le.mpr hn, if_false, hc, hpick, done]

/-- The response of a task's target command is taken off the list of those outstanding. -/
theorem execTargetResponse_of_task {i : Nat} {e : CidEnt} (hr : takeResponse i s = some (n, bs, t)) (hc : conn? n t = some c)
    (he : tget c.out (u bs 12 2) = some e) (ho : e.owner = .task f k) (data : List Byte) :
    execTargetResponse i data s = .next (settle (kickConn n (taskResponse (taskKey f k) (nvStatus bs) e.blocks
      ((((task? (taskKey f k) (modConn n (fun c => { c with out := tdel c.out (u bs 12 2) }) t)).bind
        (fun x => ns? x.cmd.ns (modConn n (fun c => { c with out := tdel c.out (u bs 12 2) }) t))).map Ns.bs).getD 0) data
      (modConn n (fun c => { c with out := tdel c.out (u bs 12 2) }) t)))) := by
  simp only [execTargetResponse, hr, hc, he, ho, done]

theorem execKeepAlive_of_failed (hc : conn? n s = some c) (hon : c.online = true) :
    execKeepAlive n false s = .next (settle (loseConn n s)) := by
  simp only [execKeepAlive, hc, hon, Bool.not_false, and_self, if_true, done]

theorem execSpsIdle_of_idle (hlive : liveTasks f s = 0) (hwake : (sbFunc f s).waking = false) (hdeep : (sbFunc f s).sps < (sbFunc f s).deepest) :
    execSpsIdle f s = .next (releaseConns (modSbFunc f (fun x => { x with sps := x.sps + 1 }) s)) := by
  refine congrArg Host.Outcome.next (if_neg ?_)
  simp [hlive, hwake, hdeep]

/-- Settles O32: each event finds its connection or function in the state it needs. A response is read by the layout of log 80. -/
theorem storageEventsComplete : Obligations.StorageEventsComplete := by
  unfold Obligations.StorageEventsComplete
  refine ⟨fun n k c d s hn hc hpick => execStoragePick_of_pick hn hc hpick,
    fun i n f k bs data c e s t hr hc he ho => execTargetResponse_of_task hr hc he ho data,
    fun n c s hc hon => execKeepAlive_of_failed hc hon, ?reconnect,
    fun f s hlive hwake hdeep => execSpsIdle_of_idle hlive hwake hdeep, ?exit⟩
  case reconnect =>
    intro n c peers s hc hoff hpeers
    have e : exec (.reconnectAttempt n true peers) s = execReconnectAttempt n true peers s := rfl
    simp only [e, execReconnectAttempt, hc, hoff, hpeers, Bool.not_true, Bool.or_self, bne_self_eq_false, Bool.false_eq_true, if_false, done]
  case exit =>
    intro f s hwake
    have e : exec (.spsExitDone f false) s = execSpsExitDone f false s := rfl
    simp only [e, execSpsExitDone, hwake, Bool.not_true, Bool.false_eq_true, false_and, if_false]

/-! ## Packets of the serial mode (R366, R367) -/

section
variable {type : Nat} {g : State → State}

theorem sbspTake_of_type (hm : s.sb.serialMode = true) (hok : sbspOk bs = true) (ht : sbspType bs = type) :
    sbspTake type bs g s = g s := by
  simp only [sbspTake, hm, hok, ht, Bool.not_true, Bool.false_eq_true, ne_eq, not_true_eq_false, if_false]

/-- A packet that does not check is answered with NAK whatever the row takes it for. -/
theorem sbspTake_of_bad (hm : s.sb.serialMode = true) (hbad : sbspOk bs = false) : sbspTake type bs g s = sbspNakFor bs s := by
  simp only [sbspTake, hm, hbad, Bool.not_true, Bool.not_false, Bool.false_eq_true, if_false, if_true]

end

/-- Settles O33: each packet is of the type its row takes, and the serial command is in the state that it needs. -/
theorem serialModeComplete : Obligations.SerialModeComplete := by
  unfold Obligations.SerialModeComplete
  refine ⟨?cmd, fun bs s hm hbad => ?bad, ?xferRdy, ?data, ?nak, ?timeout⟩
  case cmd =>
    intro bs s hm hok ht hnone hcheck hopc
    refine congrArg done ((sbspTake_of_type hm hok ht).trans ?_)
    simp only [hnone, hcheck, hopc, Option.isSome_none, Bool.false_eq_true, ne_eq, not_true_eq_false, if_false]
  case bad =>
    exact ⟨congrArg done (sbspTake_of_bad hm hbad), congrArg done (sbspTake_of_bad hm hbad), congrArg done (sbspTake_of_bad hm hbad),
      congrArg Host.Outcome.next (sbspTake_of_bad hm hbad)⟩
  case xferRdy =>
    intro bs r s hm hok ht hr htag hopc hlen hlow hhigh hrange
    refine congrArg done ((sbspTake_of_type hm hok ht).trans ?_)
    have hgrant : ¬ (r.cmd.opc ≠ 1 ∨ (sbspBody bs).length ≠ 12 ∨ leNat (((sbspBody bs).drop 8).take 4) < 1 ∨
        leNat (((sbspBody bs).drop 8).take 4) > 65536 ∨
        leNat ((sbspBody bs).take 8) + leNat (((sbspBody bs).drop 8).take 4) > serialBytes r.cmd s) := by omega
    simp only [hr, htag, hgrant, ne_eq, not_true_eq_false, if_false]
  case data =>
    intro bs r o n s hm hok ht hr htag hopc hgrant hlen
    refine congrArg done ((sbspTake_of_type hm hok ht).trans ?_)
    have hover : ¬ (r.data ++ sbspBody bs).length > o + n := by omega
    have hfull : ¬ (r.data ++ sbspBody bs).length = o + n := by omega
    simp only [hr, htag, hopc, hgrant, hover, hfull, hlen, ne_eq, not_true_eq_false, if_false, if_true]
  case nak =>
    intro bs s hm hok ht hsent htag
    refine congrArg Host.Outcome.next ((sbspTake_of_type hm hok ht).trans (if_neg ?_))
    simp [hsent, htag]
  case timeout =>
    intro r s hr hgrant hopc
    have e : exec .sbspWaitTimeout s = execSbspWaitTimeout s := rfl
    simp only [e, execSbspWaitTimeout, hr, hgrant, hopc, BEq.rfl, Bool.and_self, Bool.true_or, if_true, done]

end Sys2Proof.Machine
end

section
/-! Opcodes of the checkpoint engine (O34). -/

namespace Sys2Proof.Machine

open Sys2Proof

variable {c : Call} {op part runId n j : Nat} {s : State}

/-! ## What the checks read is the same in the state in which the work starts -/

@[simp] theorem ck_begun : (begun c op s).ck = s.ck := rfl

@[simp] theorem setupOf_begun : setupOf runId (begun c op s) = setupOf runId s := rfl

@[simp] theorem setupNamed_begun : setupNamed part runId (begun c op s) = setupNamed part runId s := rfl

@[simp] theorem ckJob?_begun : ckJob? j (begun c op s) = ckJob? j s := rfl

@[simp] theorem tallyField_begun : tallyField part n (begun c op s) = tallyField part n s := rfl

@[simp] theorem cqField_begun : cqField part n (begun c op s) = cqField part n s := rfl

/-- A run's set-up is found by the partition that made it (R393). -/
theorem setupNamed_of_setupOf {i : Nat} {st : Setup} (h : setupOf runId s = some (i, st)) (hpart : st.part = part) :
    setupNamed part runId s = .ok (i, st) := by
  rw [setupNamed, h]
  exact if_pos hpart

/-- CKPT_SETUP's fields are in range where the run's identifier is a new one and the half's size is one of R372. -/
theorem setupFields_ok {size : Nat} (hrun : 0 < runId) (hrun64 : runId < 2 ^ 64) (hnew : ∀ e ∈ s.ck.setups, e.2.runId ≠ runId)
    (halign : size % 65536 = 0) (hsize : 0 < size) (hmax : size ≤ 2 ^ 36) :
    ¬ (runId = 0 ∨ runId ≥ 2 ^ 64 ∨ s.ck.setups.any (fun e => e.2.runId == runId) = true ∨ size % 65536 ≠ 0 ∨ size = 0 ∨ size > 2 ^ 36) := by
  have hfresh : s.ck.setups.any (fun e => e.2.runId == runId) = false := List.any_eq_false.mpr fun e he => by simpa using hnew e he
  simp only [hfresh, Bool.false_eq_true, false_or]
  omega

/-- A set-up's number, grouping and duties, where a number is free and the reserve suffices for the duties (R373, R374). -/
theorem makeSetup_of_duties {h0 h1 size i : Nat} {ds : List Duty} {u : State} (hfree : lowestFree (tkeys s.ck.setups) 0 16 = some i)
    (hduties : reserveDuties i size (dutiesOf {
      part := part, runId := runId, addrs := [h0, h1], halfSize := size, g := groupSize (levelNow s), n := s.jl.rc.size,
      level := levelNow s, halves := [Half.fresh, Half.fresh], duties := [], lastStep := 0 } (ownAddr s)) s = some (ds, u)) :
    makeSetup part runId h0 h1 size s = .ok (modCk (fun k => { k with setups := tset k.setups i {
      part := part, runId := runId, addrs := [h0, h1], halfSize := size, g := groupSize (levelNow s), n := s.jl.rc.size,
      level := levelNow s, halves := [Half.fresh, Half.fresh], duties := ds, lastStep := 0 } }) u)
      (Body.nums [i, groupSize (levelNow s), s.jl.rc.size, levelNow s]) := by
  simp only [makeSetup, hfree, hduties]

/-- The sources of a rebuild pass where each has an address of R392 and no two are the same. -/
theorem rebuildAddrs_ok {qs : List Stream} (haddr : ∀ q ∈ qs, q.addr ≠ 0 ∧ q.addr ≤ 65534) :
    (qs.map Stream.addr).any (fun a => a == 0 || decide (a > 65534)) = false := by
  refine List.any_eq_false.mpr fun a ha => ?_
  obtain ⟨q, hq, rfl⟩ := List.mem_map.mp ha
  have := haddr q hq
  simp only [Bool.or_eq_true, beq_iff_eq, decide_eq_true_eq]
  omega

/-! ## The statement -/

/-- Settles O34: each command's checks pass and its effect is left. A set-up takes the lowest free number (log 9). -/
theorem checkpointCommandsComplete : Obligations.CheckpointCommandsComplete := by
  unfold Obligations.CheckpointCommandsComplete
  refine ⟨?setup, ?teardown, ?save, ?restore, ?rebuild, ?cancel, ?staging, ?trust, ?rate, ?read⟩
  case setup =>
    intro c runId h0 h1 size i ds r s t1 t2 u h hrun hrun64 hnew halign hsize hmax hr0 hr1 hfree hduties
    refine congrArg Host.Outcome.next (serve_ok h ?_)
    rw [if_neg (setupFields_ok (s := begun c 0x7000 s) hrun hrun64 hnew halign hsize hmax)]
    simp only [hr0, hr1]
    exact makeSetup_of_duties hfree hduties
  case teardown =>
    intro c runId i st r s h hst hpart hidle
    refine congrArg Host.Outcome.next (serve_ok h ?_)
    have hnone : ¬ s.ck.jobs.any (fun e => e.2.setup == i) = true := by simpa using hidle
    simp only [setupNamed_begun, setupNamed_of_setupOf hst hpart]
    exact if_neg hnone
  case save =>
    intro c addr j bs r s t u h hread haccept
    refine congrArg done (serve_ok h ?_)
    simp only [hread, haccept]
  case restore =>
    intro c addr j bs r s t u h hread haccept
    refine congrArg done (serve_ok h ?_)
    simp only [hread, haccept]
  case rebuild =>
    intro c p i h j st r s u hs hst hpart haddr hdistinct htally hcq hstep hhalf hadd
    refine congrArg done (serve_ok hs ?_)
    simp only [setupNamed_begun, setupNamed_of_setupOf hst hpart, rebuildAddrs_ok haddr, hdistinct, bne_self_eq_false, tallyField_begun, htally,
      cqField_begun, hcq, decide_eq_false (Nat.not_le.mpr hstep), Bool.not_true, Bool.or_self, Bool.false_eq_true, if_false, hhalf, hadd]
  case cancel =>
    intro c j x r s h hx hpart
    refine congrArg done (serve_ok h ?_)
    simp only [ckJob?_begun, hx, if_neg (not_not.mpr hpart)]
  case staging =>
    intro c base size r s h
    refine ⟨fun hzero => ?_, fun hsize halign halign' hlo hhi hfree => ?_⟩
    · exact congrArg Host.Outcome.next (serve_ok h (if_pos hzero))
    · refine congrArg Host.Outcome.next (serve_ok h ?_)
      have hrange : ¬ (base % 65536 ≠ 0 ∨ size % 65536 ≠ 0 ∨ base < stagingLo ∨ base + size > stagingHi) := by omega
      simp only [if_neg hsize, if_neg hrange, parts_begun, hfree, Bool.false_eq_true, if_false]
      rfl
  case trust => exact fun c ds r s h hlen => congrArg Host.Outcome.next (serve_ok h (if_neg (Nat.not_lt.mpr hlen)))
  case rate => exact fun c gb r s h hgb => congrArg Host.Outcome.next (serve_ok h (if_neg (Nat.not_lt.mpr hgb)))
  case read => exact fun c cursor r s h hc => ⟨_, congrArg _ (serveRead_of_serves h hc _), by simp⟩

end Sys2Proof.Machine
end

section
/-! Jobs of the checkpoint engine at work, and its messages (O35). -/

namespace Sys2Proof.Machine

open Sys2Proof

variable {i j : Nat} {x : CkJob} {m : FwdIn} {p : Nat → Bool} {f : CkHead → List Byte → State → State} {s : State}

/-! ## One rule per event -/

/-- An armed job whose counter has reached its threshold wakes the engine and starts by its kind (R378). -/
theorem beginCk_of_armed (hx : ckJob? j s = some x) (hphase : x.phase = .armed) (hpass : armPassed x s = true) :
    beginCk j s = match x.kind with
      | .save => startCapture j (wakeFor 3 s)
      | .restore => startRestore j (modJob j (fun x => { x with phase := .readManifest }) (wakeFor 3 s))
      | .rebuild => startRebuild x (modJob j (fun x => { x with phase := .rebuild }) (wakeFor 3 s)) := by
  have hgo : ¬ (x.phase ≠ .armed ∨ armPassed x s = false) := by simp [hphase, hpass]
  rw [beginCk, hx]
  exact if_neg hgo

/-- A message of a KIND that the event takes leaves the queue and is handled. -/
theorem ckTake_of_kind (hm : s.jl.arrived[i]? = some m) (hcls : m.cls = 2) (hkind : p (CkHead.parse m.data).kind = true) :
    ckTake p i f s = f (CkHead.parse m.data) ((m.data.drop 32).take (CkHead.parse m.data).len)
      { s with jl := { s.jl with arrived := s.jl.arrived.eraseIdx i } } := by
  have hgo : ¬ (m.cls ≠ 2 ∨ (!p (CkHead.parse m.data).kind) = true) := by simp [hcls, hkind]
  rw [ckTake, hm]
  exact if_neg hgo

/-! ## The statement -/

/-- Settles O35: in the phase that an event names the job goes on as the event says, and each message's KIND picks its handler. -/
theorem checkpointEventsComplete : Obligations.CheckpointEventsComplete := by
  unfold Obligations.CheckpointEventsComplete
  refine ⟨fun j x s hx => ⟨?armed, ?sealing, ?drain, ?commit, ?timeout, ?timeoutManifest, ?restored⟩, ?captured, fun i m s t hm hcls ht => ?messages⟩
  case armed =>
    intro hphase hpass
    have e : exec (.ckptArmedStart j) s = execCkptArmedStart j s := rfl
    refine ⟨fun hkind => ?_, fun hkind => ?_, fun hkind => ?_⟩ <;>
      simp only [e, execCkptArmedStart, hx, beginCk_of_armed hx hphase hpass, hkind, done]
  case sealing =>
    intro hphase
    have e : exec (.sealDone j) s = execSealDone j s := rfl
    simp only [e, execSealDone, hx, if_pos hphase, done]
  case drain =>
    intro hphase htodo hbusy
    have e : exec (.drainDone j) s = execDrainDone j s := rfl
    simp only [e, execDrainDone, hx, hphase, htodo, hbusy, List.isEmpty_nil, and_self, if_true, done]
  case commit =>
    intro hphase htodo hbusy
    have e : exec (.manifestCommit j) s = execManifestCommit j s := rfl
    simp only [e, execManifestCommit, hx, hphase, htodo, hbusy, List.isEmpty_nil, and_self, if_true, done]
  case timeout =>
    intro hkind hphase
    have e : exec (.ckptJobTimeout j) s = execCkptJobTimeout j s := rfl
    simp only [e, execCkptJobTimeout, hx, if_neg hkind, if_neg hphase, done]
  case timeoutManifest =>
    intro hkind hphase
    have e : exec (.ckptJobTimeout j) s = execCkptJobTimeout j s := rfl
    simp only [e, execCkptJobTimeout, hx, hkind, reduceCtorEq, if_false, if_pos hphase, done]
  case restored =>
    intro hphase hreads
    have e : exec (.ckptRestoreDone j) s = execCkptRestoreDone j s := rfl
    simp only [e, execCkptRestoreDone, hx, hphase, hreads, List.isEmpty_nil, and_self, if_true, done]
  case captured =>
    intro j x y s hx hphase hreads hy htiles
    have e : exec (.captureDone j) s = execCaptureDone j s := rfl
    have hgo : ¬ (x.phase ≠ .capture ∨ x.reads ≠ []) := by simp [hphase, hreads]
    simp only [e, execCaptureDone, hx, if_neg hgo, hy, if_neg (not_not.mpr htiles), done]
  case messages =>
    subst ht
    refine ⟨fun hk => ?_, fun hk => ?_, fun hk => ?_, fun hk hnone => ?_, fun hk => ?_, fun hk => ?_, fun j x hk hjob => ?_⟩ <;>
      refine congrArg done ((ckTake_of_kind hm hcls (by simp [hk])).trans ?_)
    · exact if_pos hk
    · rfl
    · rfl
    · simp only [hnone]
    · rfl
    · rfl
    · simp only [hjob]

end Sys2Proof.Machine
end

section
/-! Keys, cipher rings, fuses and cores of the cipher engine (O36). -/

namespace Sys2Proof.Machine

open Sys2Proof

variable {c : Call} {op part n k v d : Nat} {pair : Bool} {x : KeySlot} {s : State}

/-! ## What the checks read is the same in the state in which the work starts -/

@[simp] theorem sec_begun : (begun c op s).sec = s.sec := rfl

@[simp] theorem keySlot?_begun : keySlot? n (begun c op s) = keySlot? n s := rfl

@[simp] theorem keysOf_begun : keysOf part (begun c op s) = keysOf part s := rfl

@[simp] theorem freeKey_begun : freeKey pair (begun c op s) = freeKey pair s := rfl

@[simp] theorem keyNamed_begun : keyNamed n x (begun c op s) = keyNamed n x s := rfl

@[simp] theorem cring?_begun : cring? part (begun c op s) = cring? part s := rfl

@[simp] theorem flashNames_begun : flashNames k d (begun c op s) = flashNames k d s := rfl

/-! ## One rule per command with checks of its own -/

/-- KEY_LOAD in the clear: the material is stored at the free slot where Table 14-3 and the partition's policy and limit allow it (R402). -/
theorem keyLoad_of_clear {bs : List Byte} (hfields : keyFieldsOk bs = true) (hform : u bs 1 1 = 0) (hhead : 16 ≤ bs.length)
    (hlen : bs.length = keyPayload (u bs 0 1) 0 (u bs 2 1)) (hxts : xtsHalves (u bs 0 1) (u bs 2 1) (bs.drop 16) = false)
    (hclear : ((part? part s).map Part.keyClear).getD false = true)
    (hroom : keysOf part s + (u bs 0 1 == 1).toNat + 1 ≤ ((part? part s).map Part.keyLimit).getD 0)
    (hfree : freeKey (u bs 0 1 == 1) s = some n) :
    keyLoad part bs s = .ok (storeKey part (u bs 0 1) (u bs 2 1) n (bs.drop 16) s) (Body.nums [n]) := by
  have hlen' : ¬ bs.length ≠ keyPayload (u bs 0 1) 0 (u bs 2 1) := not_not.mpr hlen
  simp only [keyLoad, placeKey, Nat.not_lt.mpr hhead, hfields, hlen', hform, hxts, hclear, Nat.not_lt.mpr hroom, hfree, Bool.not_true,
    Bool.false_eq_true, if_false, if_true]

/-- A root key may be revoked where another one stays (R421). -/
theorem rootKey_stays {r : Nat} (h : ∃ j, j < 4 ∧ j ≠ k ∧ bitOf j r = false) : (List.range 4).all (fun j => j == k || bitOf j r) = false := by
  obtain ⟨j, hj, hne, hclear⟩ := h
  exact List.all_eq_false.mpr ⟨j, List.mem_range.mpr hj, by simp [hne, hclear]⟩

/-- A descriptor that the engine has computed. -/
def isComputed (d : StartedDesc) : Bool := match d.st with
  | .computed _ _ _ _ => true
  | _ => false

theorem isComputed_iff (d : StartedDesc) : isComputed d = true ↔ ∃ o t n m, d.st = .computed o t n m := by
  unfold isComputed
  cases d.st <;> simp

/-- The `k`-th computed descriptor leaves the engine with its outcome where no check failed (R397; log 108 for which one). -/
theorem execDescriptorDone_of_computed {ring : CipherRing} {e : StartedDesc} {out tag : List Byte} {code detail : Nat}
    (hring : cring? part s = some ring) (hk : (ring.descs.filter isComputed)[k]? = some e) (he : e.st = .computed out tag code detail) :
    execDescriptorDone part k none s = done (releaseDesc part e out tag code detail s) := by
  simp only [execDescriptorDone, hring, Option.map_some, Option.bind_some]
  split
  next hnone => exact absurd (hnone.symm.trans hk) nofun
  next e' hsome =>
    obtain rfl : e' = e := Option.some.inj (hsome.symm.trans hk)
    simp only [he]

/-! ## The statement -/

/-- Settles O36: each command's checks pass and its effect is left. KEY_LOAD takes the lowest free slot (log 9), and the descriptor that leaves is
the one that the event numbers among the computed ones (log 108). -/
theorem securityCommandsComplete : Obligations.SecurityCommandsComplete := by
  unfold Obligations.SecurityCommandsComplete
  refine ⟨?load, ?erase, ?policy, ?ring, ?svn, ?revoke, ?core, ?readSecurity, ?readIdentity, ?readKeys, ?readRing, ?descriptor⟩
  case load =>
    intro c n r s h hfields hform hhead hlen hxts hclear hroom hfree
    exact congrArg Host.Outcome.next (serve_ok h (keyLoad_of_clear (s := begun c 0x9010 s) hfields hform hhead hlen hxts hclear hroom hfree))
  case erase =>
    intro c n k r s h hk hpart hunnamed
    refine congrArg Host.Outcome.next (serve_ok h ?_)
    simp only [keySlot?_begun, hk, if_neg (not_not.mpr hpart), keyNamed_begun, hunnamed, Bool.false_eq_true, if_false]
  case policy =>
    intro c limit clear r s h hmax hheld
    refine congrArg Host.Outcome.next (serve_ok h ?_)
    simp only [if_neg (Nat.not_lt.mpr hmax), keysOf_begun, Nat.not_lt.mpr hheld, if_false]
  case ring =>
    intro c base log vec r s h halign hbase hlog hlog' hvec hidle
    refine congrArg Host.Outcome.next (serve_ok h ?_)
    have hrange : ¬ (base % 4096 ≠ 0 ∨ base ≥ 2 ^ 57 ∨ log < 4 ∨ log > 12 ∨ vec ≥ vectors c.func) := by omega
    have hdrained : (cring? r.part s).any (fun k => k.db != k.di) = false := by
      cases hring : cring? r.part s with
      | none => rfl
      | some k => simp [hidle k hring]
    simp only [if_neg hrange, cring?_begun, hdrained, Bool.false_eq_true, if_false]
  case svn => exact fun c v r s h h64 hv h0 h1 => (svnCommit_of_range h h64 hv).trans (if_pos ⟨h0, h1⟩)
  case revoke =>
    intro c k r s h hk h0 h1 hstays
    refine congrArg Host.Outcome.next (serve_ok h ?_)
    simp only [if_neg (Nat.not_lt.mpr hk), flashNames_begun, h0, h1, chip_begun, rootKey_stays hstays, Bool.or_self, Bool.false_eq_true, if_false]
  case core =>
    intro c k r s h hk hout
    refine congrArg Host.Outcome.next (serve_ok h ?_)
    simp only [if_neg (Nat.not_le.mpr hk), sec_begun, List.contains_iff_mem.mpr hout, Bool.not_true, Bool.false_eq_true, if_false]
  case readSecurity => exact fun c cursor r s h hc => ⟨_, congrArg _ (serveRead_of_serves h hc _), rfl⟩
  case readIdentity => exact fun c cursor r s h hc => ⟨_, congrArg _ (serveRead_of_serves h hc _), rfl⟩
  case readKeys => exact fun c cursor r s h hc => ⟨_, congrArg _ (serveRead_of_serves h hc _), map_headD_rows _ _ fun _ => rfl⟩
  case readRing =>
    intro c cursor r s h hc
    refine ⟨_, congrArg _ (serveRead_of_serves h hc _), ?_⟩
    rw [cring?_begun]
    cases cring? r.part s <;> rfl
  case descriptor =>
    intro part k ring p e out tag code detail s hring hp hk he
    obtain rfl : p = isComputed := funext fun d => Bool.eq_iff_iff.mpr ((hp d).trans (isComputed_iff d).symm)
    exact execDescriptorDone_of_computed hring hk he

end Sys2Proof.Machine
end

section
/-! The responder of the attestation protocol and its DOE objects (O37). -/

namespace Sys2Proof.Machine

open Sys2Proof

variable {code phase : Nat} {bs chain : List Byte} {k : State → State} {s : State}

/-! ## The shared checks, and what a draw and a signature without a mismatch leave -/

/-- A request of version 1.3 that comes in its phase is served (R422). -/
theorem spdmServe_of (hup : responderUp s = true) (hlen : 4 ≤ bs.length) (hversion : u bs 0 1 = 0x13) (hcode : u bs 1 1 = code)
    (hphase : phase ≤ s.sec.spdm.phase) : spdmServe code phase bs k s = k s := by
  simp only [spdmServe, hup, hversion, hcode, Nat.not_lt.mpr hlen, Nat.not_lt.mpr hphase, ne_eq, not_true_eq_false, or_self, Bool.not_true,
    Bool.false_eq_true, if_false]

@[simp] theorem sec_drawNonce : (drawNonce s).2.sec = s.sec := by
  simp only [drawNonce, List.range_succ, List.range_zero, List.nil_append, List.cons_append, List.foldl_cons, List.foldl_nil, draw]

@[simp] theorem signFails_nil : signFails [] s = (false, s) := rfl

/-! ## The statement -/

/-- Settles O37: the shared checks of a request pass, then its own, and the response is the one the model builds. Codes, offsets and response
bytes are those of DSP0274 (log 85). -/
theorem attestationCompletes : Obligations.AttestationCompletes := by
  unfold Obligations.AttestationCompletes
  refine ⟨?version, ?capabilities, ?algorithms, fun bs chain s hup hlen hversion hphase hchain => ⟨?digests, ?certificate, ?challenge⟩,
    ?measurements, fun _ => rfl, fun _ _ => rfl⟩
  case version =>
    intro bs s hup hlen hcode hversion
    refine congrArg Host.Outcome.next ?_
    simp only [hup, hversion, hcode, Nat.not_lt.mpr hlen, ne_eq, not_true_eq_false, or_self, Bool.not_true, Bool.false_eq_true, if_false]
  case capabilities =>
    intro bs s hup hlen hversion hcode hphase
    exact congrArg Host.Outcome.next ((spdmServe_of hup hlen hversion hcode hphase.ge).trans (if_neg (not_not.mpr hphase)))
  case algorithms =>
    intro bs s hup hlen hversion hcode hphase hoffered
    refine congrArg Host.Outcome.next ((spdmServe_of hup hlen hversion hcode hphase.ge).trans ?_)
    simp only [if_neg (not_not.mpr hphase), hoffered, Bool.not_true, Bool.false_eq_true, if_false]
  case digests =>
    intro hcode
    refine congrArg Host.Outcome.next ((spdmServe_of hup hlen hversion hcode hphase).trans ?_)
    simp only [hchain]
  case certificate =>
    intro hcode hslot hlen8 hoff
    refine ⟨_, rfl, congrArg Host.Outcome.next ((spdmServe_of hup hlen hversion hcode hphase).trans ?_)⟩
    have hrange : ¬ (bs.length < 8 ∨ u bs 4 2 ≥ (spdmChain chain).length) := by omega
    simp only [if_neg (not_not.mpr hslot), hchain, if_neg hrange]
  case challenge =>
    intro hcode hslot hlen44 hsum
    refine ⟨_, rfl, congrArg Host.Outcome.next ((spdmServe_of hup hlen hversion hcode hphase).trans ?_)⟩
    simp only [if_neg (not_not.mpr hslot), if_neg (Nat.not_lt.mpr hlen44), hchain, signFails_nil, Bool.false_eq_true, if_false, hsum, if_true,
      List.append_nil, sec_drawNonce]
  case measurements =>
    intro bs blocks s hup hlen hversion hcode hphase hunsigned hblocks
    refine ⟨_, rfl, congrArg Host.Outcome.next ((spdmServe_of hup (by omega) hversion hcode hphase).trans ?_)⟩
    simp only [hunsigned, Bool.false_eq_true, false_and, if_false, Nat.not_lt.mpr hlen, hblocks, sec_drawNonce]

end Sys2Proof.Machine
end

section
/-! Firmware and device opcodes (O41). -/

namespace Sys2Proof.Machine

open Sys2Proof

variable {c : Call} {op d p cursor addr len n : Nat} {r : Req} {ks : List Nat} {x : StagedImage} {s : State}

/-! ## What the checks read is the same in the state in which the work starts -/

@[simp] theorem fw_begun : (begun c op s).fw = s.fw := rfl

@[simp] theorem mem_begun : (begun c op s).mem = s.mem := rfl

@[simp] theorem activating_begun : activating (begun c op s) = activating s := rfl

@[simp] theorem flashFails_begun : flashFails d (begun c op s) = flashFails d s := rfl

@[simp] theorem proc?_begun : proc? p (begun c op s) = proc? p s := rfl

@[simp] theorem emergency_begun : emergency (begun c op s) = emergency s := rfl

@[simp] theorem canSend_begun : canSend p (begun c op s) = canSend p s := rfl

@[simp] theorem rdMem_begun (sp : Nat) : rdMem sp addr n (begun c op s) = rdMem sp addr n s := rfl

/-! ## One rule per command with checks of its own -/

/-- The security core serves the waiting request in recovery as well (R418). -/
theorem serve_of_recovery (h : Waits c op r s) (hpre : precheck c.func r s = none) (hrsvd : c.rsvdSet = false) (hlen : c.wrongLen = false)
    (hrec : s.chip.recovery = true) (hrun : (proc? 0 s).pstate ≠ .switching) {k : Req → State → Ans} {t : State} {b : Body}
    (hk : k r (begun c op s) = .ok t b) : serve c op k s = replied c Config.ok b t := by
  obtain ⟨hphase, hreq, hop, hurgent, hcount, hhw⟩ := h
  have hu : (!c.urgent && urgentWaiting s) = false := by rcases hurgent with hu | hu <;> simp [hu]
  have hproc : serveProc op s = 0 := by simp [serveProc, hrec]
  have hgo : ((proc? 0 s).pstate == .switching) = false := by simpa using hrun
  simp only [begun, hproc] at hk
  simp only [boxOf] at hphase hreq
  simp only [serve, hphase, hreq, hop, hu, hhw, hrec, hpre, hrsvd, hlen, hproc, hgo, hk, Nat.not_le.mpr hcount, ne_eq, not_true_eq_false,
    decide_false, Bool.or_false, Bool.not_true, Bool.false_and, Bool.false_eq_true, if_false, replied]

/-- An update image whose reads, checks and place in the reserve succeed is copied and staged (R467). -/
theorem stageImage_of_passed {hd bs : List Byte} {b : Nat} {t1 t2 t3 : State} (hhead : vaRead 0 addr (min len 64) s = (some hd, t1))
    (hn : u hd 24 4 ≤ len) (hread : vaRead 0 addr (u hd 24 4) t1 = (some bs, t2)) (hchecks : imageFails (min len flashBytes) false bs t2 = [])
    (hplace : reserve .stagedImage (u hd 24 4) (unreserve (fun x => x == .stagedImage) t2) = some (b, t3)) :
    stageImage addr len s = .ok (wrMem spGddr b bs { t3 with fw := { t3.fw with staged := some {
      build := (Image.parse bs).build, svn := (Image.parse bs).svn, comps := (Image.parse bs).comps, addr := b, len := u hd 24 4 } } })
      Body.empty := by
  simp only [stageImage, hhead, if_neg (Nat.not_lt.mpr hn), hread, hchecks, imageStatus, List.isEmpty_nil, if_true, hplace]

/-- A staged image that has a component for each target may be flashed (R468). -/
theorem allTargets_of (h : ∀ k < 6, ∃ y ∈ x.comps, y.target = k) :
    (List.range 6).all (fun k => x.comps.any (fun y => y.target == k)) = true := by
  refine List.all_eq_true.mpr fun k hk => List.any_eq_true.mpr ?_
  obtain ⟨y, hy, he⟩ := h k (List.mem_range.mp hk)
  exact ⟨y, hy, beq_iff_eq.mpr he⟩

/-- The targets of an activation are in range and in the staged image (R469). -/
theorem activation_targets_ok (hne : ks ≠ []) (h : ∀ k ∈ ks, 1 ≤ k ∧ k ≤ 4 ∧ ∃ y ∈ x.comps, y.target = k) :
    (ks.isEmpty || ks.any (fun k => decide (k < 1 ∨ k > 4) || !x.comps.any (fun y => y.target == k))) = false := by
  rw [Bool.or_eq_false_iff]
  refine ⟨by simpa using hne, List.any_eq_false.mpr fun k hk => ?_⟩
  obtain ⟨hlo, hhi, y, hy, he⟩ := h k hk
  have hany : x.comps.any (fun y => y.target == k) = true := List.any_eq_true.mpr ⟨y, hy, beq_iff_eq.mpr he⟩
  have hrange : decide (k < 1 ∨ k > 4) = false := decide_eq_false (by omega)
  simp only [hrange, hany, Bool.not_true, Bool.or_self, Bool.false_eq_true, not_false_eq_true]

/-- No processor of an activation has one armed or switches. -/
theorem activation_procs_free {ps : List Nat} (h : ∀ p ∈ ps, (proc? p s).act = .none ∧ (proc? p s).pstate ≠ .switching) :
    ps.any (fun p => (proc? p s).act != .none || (proc? p s).pstate == .switching) = false := by
  refine List.any_eq_false.mpr fun p hp => ?_
  obtain ⟨hact, hstate⟩ := h p hp
  simp [hact, hstate]

/-- One piece of a readback whose cursor is sound, in the state in which its work starts (R458). -/
theorem page_of_cursorOk (hc : CursorOk c op cursor r s) (rows : List (List Nat)) :
    page c op cursor rows (begun c op s) = .ok { begun c op s with draws := s.draws + 1 } {
      rows := (rows.drop cursor).take (Config.pieceRows s.draws + 1),
      next := some (if cursor + (Config.pieceRows s.draws + 1) < rows.length then cursor + (Config.pieceRows s.draws + 1) else 0) } := by
  obtain ⟨hcursor, -⟩ := hc
  have hbox : mbox? (mbIx c.func c.urgent) (begun c op s) = { boxOf c s with proc := serveProc op s } := boxOf_begun
  have hsound : ¬ (cursor ≠ 0 ∧ (!(boxOf c s).cursors.contains (op, cursor)) = true) := by
    rcases hcursor with h | h
    · exact fun hne => hne.1 h
    · simp only [h, Bool.not_true, Bool.false_eq_true, and_false, not_false_eq_true]
  simp only [page, hbox, if_neg hsound]
  rfl

/-- A piece of a crash dump before the last one leaves the dump in its place (R466). -/
theorem readCrashdump_of_more (h : Serves c 0xC001 r s) (hc : CursorOk c 0xC001 cursor r s) (hp : p ≤ 18)
    (hmore : cursor + (Config.pieceRows s.draws + 1) < (dumpRows p s).length) :
    exec (.readCrashdump c p cursor) s = .next (paged c 0xC001 cursor (dumpRows p s) s) := by
  have hrows : dumpRows p (begun c 0xC001 s) = dumpRows p s := rfl
  have hnext : ¬ some (cursor + (Config.pieceRows s.draws + 1)) = some 0 := by simp
  refine congrArg Host.Outcome.next (serve_page h hc ?_)
  simp only [if_neg (Nat.not_lt.mpr hp), hrows, page_of_cursorOk hc, if_pos hmore, if_neg hnext]

/-! ## The statement -/

/-- Settles O41: each command's checks pass and its effect is left; the readbacks begin with the rows that the statement names. -/
theorem firmwareCommandsComplete : Obligations.FirmwareCommandsComplete := by
  unfold Obligations.FirmwareCommandsComplete
  refine ⟨?stage, ?flash, ?activate, ?cancel, ?dumpClear, fun c p cursor r s h hc hp hmore => readCrashdump_of_more h hc hp hmore,
    ?recoveryLoad, ?device, ?modes, ?firmware⟩
  case stage =>
    intro c addr len n b hd bs r s t1 t2 t3 h hidle hhead hn hlen hread hchecks hplace
    subst hn
    refine congrArg Host.Outcome.next (serve_ok h ?_)
    simp only [activating_begun, hidle, Bool.false_eq_true, if_false, stageImage_of_passed hhead hlen hread hchecks hplace]
  case flash =>
    intro c img x r s h hstaged himg hall hother
    refine congrArg Host.Outcome.next (serve_ok h ?_)
    simp only [fw_begun, hstaged, Nat.not_lt.mpr himg, allTargets_of hall, flashFails_begun, hother, List.isEmpty_nil, Bool.not_true,
      Bool.false_eq_true, or_self, if_false, mem_begun]
  case activate =>
    intro c ks x r s h hstaged hne htargets hfree
    refine ⟨fun hcalm => congrArg Host.Outcome.next (serve_ok h ?_), fun hemergency => ?_⟩
    · simp only [fw_begun, hstaged, activation_targets_ok hne htargets, proc?_begun, activation_procs_free hfree, emergency_begun, hcalm,
        Bool.false_eq_true, if_false]
    · refine congrArg Host.Outcome.next ?_
      simp only [serve_of_serves h, fw_begun, hstaged, activation_targets_ok hne htargets, proc?_begun, activation_procs_free hfree,
        emergency_begun, hemergency, Bool.false_eq_true, if_false, if_true]
  case cancel =>
    intro c r s h harmed
    refine congrArg Host.Outcome.next (serve_ok h ?_)
    simp only [activating_begun, harmed, Bool.not_true, Bool.false_eq_true, if_false, fw_begun]
  case dumpClear => exact fun c p r s h hp => congrArg Host.Outcome.next (serve_ok h (if_neg (Nat.not_lt.mpr hp)))
  case recoveryLoad =>
    intro c addr len n bs r s hw hpre hrsvd hlen hrec hrun hsend hn hfits hbs hchecks
    subst hn hbs
    refine congrArg Host.Outcome.next (serve_of_recovery hw hpre hrsvd hlen hrec hrun ?_)
    simp only [chip_begun, hrec, canSend_begun, hsend, rdMem_begun, hfits, hchecks, imageStatus, List.isEmpty_nil, Bool.not_true,
      Bool.false_eq_true, if_false, if_true]
  case device => exact fun c cursor r s h hc => ⟨_, congrArg _ (serveRead_of_serves h hc _), rfl⟩
  case modes => exact fun c cursor r s h hc => ⟨_, congrArg _ (serveRead_of_serves h hc _), rfl⟩
  case firmware =>
    intro c cursor r s h hc
    exact ⟨_, congrArg _ (serveRead_of_serves h hc _), by rw [List.length_map, List.length_range]⟩

end Sys2Proof.Machine
end

section
/-! Functions: their opcodes, quiesces, resets from the host, MSI-X and configuration space (O39). -/

namespace Sys2Proof.Machine

open Sys2Proof

variable {c : Call} {op f part v : Nat} {s : State}

/-! ## What the checks read is the same in the state in which the work starts -/

@[simp] theorem func?_begun : func? f (begun c op s) = func? f s := rfl

@[simp] theorem partLive_begun : partLive part (begun c op s) = partLive part s := rfl

/-- A virtual function has a number from 1 to 255. -/
theorem vfOk_of (hlo : 1 ≤ f) (hhi : f < 256) : vfOk f = true := decide_eq_true ⟨hlo, hhi⟩

/-- The rows of functions begin with the functions' numbers. -/
theorem map_headD_funcRow (fs : List Nat) : (fs.map fun f => funcRow f s).map (fun e => e.headD 0) = fs := by
  rw [List.map_map]
  exact List.map_id fs

/-! ## The statement -/

/-- Settles O39: the service state in which a command or event finds the function picks the branch that the statement names. -/
theorem functionsComplete : Obligations.FunctionsComplete := by
  unfold Obligations.FunctionsComplete
  refine ⟨?assign, ?enable, ?disable, ?read, fun f s => ⟨?flr, ?flrDisabled, ?quiesceEnd, ?quiesceTimeout⟩, ?vfEnableClear, ?hotReset, ?unmask,
    fun _ _ _ => ⟨rfl, rfl, rfl⟩, fun code mib s => ⟨rfl, ?maxPayload, ?maxReadReq, ?barSize⟩⟩
  case assign =>
    intro c f r s h hlo hhi hdisabled
    refine congrArg Host.Outcome.next (serve_ok h ?_)
    simp only [vfOk_of hlo hhi, func?_begun, hdisabled, Bool.not_true, Bool.false_eq_true, if_false]
  case enable =>
    intro c f r s h hlo hhi hdisabled hlive
    refine congrArg done (serve_ok h ?_)
    simp only [vfOk_of hlo hhi, func?_begun, hdisabled, funcPart_begun, partLive_begun, hlive, Bool.not_true, Bool.false_eq_true, if_false,
      if_true]
  case disable =>
    intro c f r s h hlo hhi henabled
    refine congrArg done (serve_later h ?_)
    simp only [vfOk_of hlo hhi, func?_begun, henabled, callRef_begun, Bool.not_true, Bool.false_eq_true, if_false]
  case read => exact fun c cursor r s h hc => ⟨_, congrArg _ (serveRead_of_serves h hc _), map_headD_funcRow _⟩
  case flr =>
    intro henabled
    have e : exec (.flr f) s = execFlr f s := rfl
    simp only [e, execFlr, henabled, done]
  case flrDisabled =>
    intro hdisabled
    have e : exec (.flr f) s = execFlr f s := rfl
    simp only [e, execFlr, hdisabled, done]
  case quiesceEnd => exact fun hquiescing hquiesced => if_pos ⟨hquiescing, hquiesced⟩
  case quiesceTimeout => exact fun hquiescing hdue => if_pos ⟨hquiescing, hdue⟩
  case vfEnableClear => exact fun s henabled => congrArg done (if_pos henabled)
  case hotReset =>
    intro s hfree henabled
    have e : exec (.hotReset false) s = execHotReset false s := rfl
    simp only [e, execHotReset, hfree, Option.isSome_none, henabled, Bool.not_false, Bool.true_and, Bool.false_eq_true, if_false, if_true, done]
  case unmask =>
    intro f v s hv hmasked
    have e : exec (.msixUnmask f v) s = execMsixUnmask f v s := rfl
    simp only [e, execMsixUnmask, if_pos hv, modFunc, hmasked, Bool.false_eq_true, if_false]
  case maxPayload => exact fun hcode => congrArg Host.Outcome.next (if_pos ⟨rfl, hcode⟩)
  case maxReadReq => exact fun hcode => congrArg Host.Outcome.next (if_pos ⟨rfl, hcode⟩)
  case barSize =>
    intro hmib
    have e : exec (.configurationWrite 0 (.barSize 0 mib)) s = .next { s with ep := barSized 0 mib s.ep } := rfl
    simp only [e, barSized, if_pos hmib, if_true]

end Sys2Proof.Machine
end

section
/-! The mailbox handshake (O4). -/

namespace Sys2Proof.Machine

open Sys2Proof

variable {f off m n : Nat} {x : Mailbox} {g : Mailbox → Mailbox} {s : State}

/-! ## Mailboxes and counters after a write -/

theorem mbox?_modMbox : mbox? m (modMbox m g s) = g (mbox? m s) := tgetD_tset_same _ _ _ _

theorem mbox?_bump (blk k : Nat) : mbox? m (bump blk k n s) = mbox? m s := rfl

theorem counter_bump (blk k : Nat) : counter blk k (bump blk k n s) = counter blk k s + BitVec.ofNat 64 n := tgetD_tset_same _ _ _ _

/-- A vector's message or its pending bit touches neither mailboxes nor memory (R432). -/
theorem msix_keeps_mb_mem (v : Nat) : (msix f v s).mb = s.mb ∧ (msix f v s).mem = s.mem := by
  unfold msix
  dsimp only
  split
  · exact ⟨rfl, rfl⟩
  · split <;> exact ⟨rfl, rfl⟩

theorem mbox?_msix (v : Nat) : mbox? m (msix f v s) = mbox? m s := by
  rw [mbox?, (msix_keeps_mb_mem v).1, mbox?]

theorem mem_msix (v : Nat) : (msix f v s).mem = s.mem := (msix_keeps_mb_mem v).2

/-! ## GO -/

theorem regAt_mbCtl (hm : m < 4096) : regAt (bkMailbox m) 0x2000 s =
    some { Reg.ro false (mask 30 27 + mask 15 1) ((mbox? m s).irq.toNat * 2 ^ 31 + (mbox? m s).vec * 2 ^ 16 + ((mbox? m s).state == 1).toNat) with
      rw := 2 ^ 31 + mask 26 16, ws := 1 } := by
  have hbk : isBk (bkMailbox m) 0x1000 0x1000 = true := isBk_true (by unfold bkMailbox; omega)
  have hbk' : isBk (bkMailbox m) 0x20 16 = false := isBk_eq_false (by unfold bkMailbox; omega)
  have hcounter : counterAt (bkMailbox m) 0x2000 = none := by
    simp only [counterAt, hbk, hbk', if_true, Bool.false_eq_true, if_false]
    rw [if_neg (by omega), if_neg (by omega), if_neg (by omega)]
  rw [regAt, if_neg (by omega), if_neg (by omega), hcounter]
  exact ownReg_mbox hm

/-- A write of GO alone names vector 0, which every function has, and copies the request of a mailbox that is not BUSY. -/
theorem regEffect_mbGo (hm : m < 4096) (hfree : (mbox? m s).state ≠ 1) : regEffect (bkMailbox m) 0x2000 1 s =
    some (mboxGo m (modMbox m (fun x => { x with irq := false, vec := 0 }) s)) := by
  have e : bkMailbox m - 0x1000 = m := by unfold bkMailbox; omega
  have hvec : vectors (m / 2) ≠ 0 := by unfold vectors; split <;> omega
  rw [regEffect, if_neg (by omega), if_neg (by omega), if_neg (by unfold bkMailbox; omega), if_pos (by unfold bkMailbox; omega), if_pos rfl, e,
    mbCtlWrite]
  exact if_neg (by rintro (h | ⟨-, h⟩) <;> [exact hvec (Nat.le_zero.mp h); exact hfree h])

/-- GO is not among the reserved bits of MB_CTL. -/
theorem mbGo_not_reserved : (1 : DWord).toNat &&& (mask 30 27 + mask 15 1) = 0 := by decide

/-- A host's write of GO makes the mailbox BUSY with the request of its area (R456). -/
theorem exec_mailboxGo_hostPut (h : HostReg f off (bkMailbox m) 0x2000 s) (hm : m < 4096) (hfree : (mbox? m s).state ≠ 1) :
    exec (.mailboxGo (hostPut f off 4 1)) s = .next (mboxGo m (modMbox m (fun x => { x with irq := false, vec := 0 }) s)) := by
  have e : exec (.mailboxGo (hostPut f off 4 1)) s = execMailboxGo (hostPut f off 4 1) s := rfl
  have hreach : reaches (fun b o => isBk b 0x1000 0x1000 && o == 0x2000) (hostPut f off 4 1) s = true := by
    rw [reaches_hostPut h (by omega), isBk_true (by unfold bkMailbox; omega)]
    rfl
  rw [e, execMailboxGo, if_pos hreach]
  exact congrArg Host.Outcome.next (regWrite_whole h (regAt_mbCtl hm) (regEffect_mbGo hm hfree) (by omega) (by omega)
    (inMboxArea_of_le (by omega)) rfl (by decide) mbGo_not_reserved (.inl (notQuiet_of_offset (by omega) (by omega))))

/-! ## DONE -/

/-- A mailbox at DONE, its response in the area behind its request. -/
def mboxDone (m : Nat) (r : Resp) (s : State) : State :=
  modMbox m (fun x => { x with state := 2, phase := .idle }) (wrMem (spMbox m) 0x1000 r.bytes s)

theorem mbox?_mboxDone {r : Resp} : mbox? m (mboxDone m r s) = { mbox? m s with state := 2, phase := .idle } := mbox?_modMbox

theorem mem_mboxDone {r : Resp} : (mboxDone m r s).mem = mwrN s.mem (mkey (spMbox m) 0x1000) r.bytes := by
  rw [mboxDone, modMbox_mem, wrMem_mem]

/-- A response with OK is written, and a mailbox with IRQ sends its vector behind it (R456). -/
theorem exec_mailboxDone_of_ok {mb : MbId} {r : Resp} (hm : mbIx mb.func mb.urgent = m) (hx : mbox? m s = x) (hphase : x.phase = .answered)
    (hresp : x.resp = some r) (hok : r.status = Config.ok) :
    exec (.mailboxDone mb) s = .next (if x.irq then msix mb.func x.vec (mboxDone m r s) else mboxDone m r s) := by
  have e : exec (.mailboxDone mb) s = execMailboxDone mb s := rfl
  have hup : ¬ Config.ok = Config.fwRestarting := by decide
  simp only [e, execMailboxDone, hm, hx, hphase, hresp, hok, true_or, if_true, if_neg hup, mboxDone]

/-! ## The statement -/

/-- Settles O4: GO is a whole write of MB_CTL whose effect copies the request, and DONE writes the response before any vector. -/
theorem mailboxHandshake : Obligations.MailboxHandshake := by
  unfold Obligations.MailboxHandshake
  refine ⟨?go, ?done⟩
  case go =>
    intro f off m s h hm hfree
    refine ⟨_, exec_mailboxGo_hostPut h (by omega) hfree, ?_⟩
    simp only [mboxGo, mbox?_bump, mbox?_modMbox, counter_bump, true_and]
    exact ⟨rfl, rfl, rfl, rfl, rfl, rfl⟩
  case done =>
    intro mb r s hphase hresp hok
    generalize hm : mbIx mb.func mb.urgent = m at hphase hresp
    generalize hx : mbox? m s = x at hphase hresp
    refine ⟨_, exec_mailboxDone_of_ok hm hx hphase hresp hok, ?_⟩
    cases hirq : x.irq with
    | false => simp only [Bool.false_eq_true, if_false, mbox?_mboxDone, mem_mboxDone, true_and]; exact fun _ => rfl
    | true => simp only [if_true, mbox?_msix, mem_msix, mbox?_mboxDone, mem_mboxDone, true_and]; exact nofun

end Sys2Proof.Machine
end

section
/-! The event recorder and its flushes (O42). -/

namespace Sys2Proof.Machine

open Sys2Proof

variable {c : Call} {op k : Nat} {s : State}

@[simp] theorem ev_begun : (begun c op s).ev = s.ev := rfl

@[simp] theorem evCode_begun : evCode k (begun c op s) = evCode k s := rfl

/-- Settles O42: each command's checks pass and its effect is left, and the recorder's state picks the branch of each flush event. -/
theorem recorderComplete : Obligations.RecorderComplete := by
  unfold Obligations.RecorderComplete
  refine ⟨?readEvents, ?readLimits, ?readFlashLog, fun c r s h => congrArg Host.Outcome.next (serve_ok h rfl), ?setLimit, ?faultFlushEnd,
    fun ns s => ⟨?pwrfail, ?glitch⟩, fun s t hflush ht => ⟨?owed, ?resumed⟩, fun s t ht => ⟨?inFlush, ?owing, ?released⟩⟩
  case readEvents =>
    intro c frm sev lo hi r s h hfrm hsev hcodes
    have hrange : ¬ (frm > s.ev.wpos ∨ sev > 3 ∨ lo > hi) := by omega
    exact ⟨_, congrArg Host.Outcome.next (serve_ok h (if_neg hrange)), Nat.succ_le_succ (Nat.zero_le _)⟩
  case readLimits => exact fun c cursor r s h hc => congrArg Host.Outcome.next (serveRead_of_serves h hc _)
  case readFlashLog => exact fun c seq r s h => congrArg Host.Outcome.next (serve_ok h rfl)
  case setLimit =>
    intro c k rate burst r s h hk hrate hburst hmax
    refine congrArg Host.Outcome.next (serve_ok h ?_)
    have hrange : ¬ (k > 1023 ∨ rate > 65535 ∨ burst < 1 ∨ burst > 1024) := by omega
    simp only [if_neg hrange, ev_begun, evCode_begun]
  case faultFlushEnd =>
    intro cause s hflush
    have e : exec .faultFlushEnd s = execFaultFlushEnd s := rfl
    simp only [e, execFaultFlushEnd, hflush]
  case pwrfail =>
    intro hns hidle
    have e : exec (.pwrfailAssert ns) s = execPwrfailAssert ns s := rfl
    simp only [e, execPwrfailAssert, if_neg (Nat.not_lt.mpr hns), hidle, Bool.false_eq_true, if_false]
  case glitch => exact fun hns => if_pos hns
  case owed =>
    intro hlow
    have e : exec .powerFailFlushEnd s = execPowerFailFlushEnd s := rfl
    subst ht
    simp only [e, execPowerFailFlushEnd, hflush, hlow, if_true]
  case resumed =>
    intro hhigh
    have e : exec .powerFailFlushEnd s = execPowerFailFlushEnd s := rfl
    subst ht
    simp only [e, execPowerFailFlushEnd, hflush, hhigh, Bool.false_eq_true, if_false]
  case inFlush =>
    intro hflush
    subst ht
    exact congrArg Host.Outcome.next (if_pos hflush)
  case owing =>
    intro hflush howed
    subst ht
    exact congrArg Host.Outcome.next ((if_neg hflush).trans (if_pos howed))
  case released =>
    intro hflush howed
    subst ht
    exact congrArg Host.Outcome.next ((if_neg hflush).trans (if_neg (Bool.not_eq_true _ ▸ howed)))

end Sys2Proof.Machine
end

section
/-! Firmware processors at their boundaries, and changes of two units (O43). -/

namespace Sys2Proof.Machine

open Sys2Proof

/-- The first entry of a list is found where it passes the test. -/
theorem find?_of_head? {α : Type} {p : α → Bool} {l : List α} {a : α} (h : l.head? = some a) (hp : p a = true) : l.find? p = some a := by
  obtain ⟨r, rfl⟩ := List.head?_eq_some_iff.mp h
  exact List.find?_cons_of_pos hp

/-- Where a bit of a number is set and another one as well, taking the bit out leaves something. -/
theorem sub_bit_ne_zero {n i : Nat} (h : bitOf i n = true) (hne : n ≠ 2 ^ i) : n - 2 ^ i ≠ 0 := by
  intro hzero
  have hlt : n < 2 ^ i := lt_of_le_of_ne (Nat.sub_eq_zero_iff_le.mp hzero) hne
  rw [bitOf, Nat.div_eq_of_lt hlt] at h
  exact absurd h (by decide)

/-- Settles O43: the processor's state or the oldest change picks the branch that the statement names. -/
theorem processorEventsComplete : Obligations.ProcessorEventsComplete := by
  unfold Obligations.ProcessorEventsComplete
  refine ⟨fun p s h => congrArg Host.Outcome.next (if_pos h), ?switched, ?rollback, fun _ _ => rfl, ?restarted,
    fun g s hg hruns => ⟨?epoch, ?late⟩, ?discard⟩
  case switched =>
    intro p t s u htarget hswitching hu
    subst hu
    have e : exec (.fwSwitchDone p) s = execFwSwitchDone p s := rfl
    simp only [e, execFwSwitchDone, htarget, hswitching, if_true, done]
  case rollback => exact fun p s htarget hruns => if_pos ⟨htarget, hruns⟩
  case restarted => exact fun p s hrestarting => if_pos hrestarting
  case epoch =>
    intro hunits hreset
    have e : exec .epochSwitch s = execEpochSwitch s := rfl
    have hfind : s.fw.changes.find? (fun g => stillRunning g.mb s && g.units == 3 && unitsInReset g.kind s == 0) = some g :=
      find?_of_head? hg (by simp [hruns, hunits, hreset])
    simp only [e, execEpochSwitch, hfind, done]
  case late =>
    intro units late hlate hne
    subst hlate
    have e : exec (.modeAckTimeout units) s = execModeAckTimeout units s := rfl
    have hfind : s.fw.changes.find? (fun g => stillRunning g.mb s && lateUnits units g s != 0) = some g :=
      find?_of_head? hg (by simp [hruns, hne])
    simp only [e, execModeAckTimeout, hfind]
  case discard =>
    intro g unit s hg hruns hbit hne
    have e : exec (.stagedDiscard unit) s = execStagedDiscard unit s := rfl
    have hfind : s.fw.changes.find? (fun g => !stillRunning g.mb s && bitOf unit g.units) = some g :=
      find?_of_head? hg (by simp [hruns, hbit])
    simp only [e, execStagedDiscard, hfind, if_neg (sub_bit_ne_zero hbit hne)]

end Sys2Proof.Machine
end
